-- ==== Sys2Proof/Word.lean ====
section
/-! DEFINITION. The plain words of the PLK4824 model: bytes, 32-bit register words, and the sparse maps that
hold memories, register banks and tables as plain data. -/

namespace Sys2Proof

/-- One byte (R6: multi-byte fields are little-endian sequences of these). -/
abbrev Byte := BitVec 8

/-- One register word (R313: every register is one aligned 32-bit word). -/
abbrev Word := BitVec 32

/-- A byte string, lowest address first (R6). -/
abbrev Bytes := List Byte

/-- A sparse map from numbers (addresses, offsets, indexes) to values: pairs in rising key order.
What an unlisted key reads as is given by the definition that reads the map. -/
abbrev NMap (α : Type) := List (Nat × α)

end Sys2Proof
end

