-- ==== Sys2Proof/Syntax.lean ====
section
/-! DEFINITION. The commands of the block: every row of spec/opcode_table.json is one constructor of `Instr`,
with the operands that the row's event brings from outside (what arrives, what is measured, which part acts). -/

namespace Sys2Proof

/-- A tile, by channel and channel coordinates X 0-47, Y 0-89 (R17). -/
structure TileRef where
  ch : Fin 8
  x  : Fin 48
  y  : Fin 90
deriving DecidableEq, Repr

/-- The operand fields of a 32-bit vector instruction word (R91), without the major opcode. -/
structure VFields where
  vd   : BitVec 5
  va   : BitVec 5
  vb   : BitVec 5
  vc   : BitVec 5
  pred : BitVec 3
  ty   : Bool          -- T: false binary32, true bfloat16
  sub  : BitVec 2
deriving DecidableEq, Repr

/-- One scalar instruction (R84): integer arithmetic and logic, branches, 64-bit loads and stores.
The SDK reference holds the encodings, so `op` numbers an operation this manual does not list. -/
inductive ScalarOp where
  | alu (op : Nat) (rd ra rb : BitVec 5)                       -- rd = op(ra, rb)
  | branch (op : Nat) (ra rb : BitVec 5) (target : BitVec 21)  -- taken or not by op(ra, rb)
  | load (rd ra : BitVec 5) (off : BitVec 64)                  -- rd = 64 bits at ra + off
  | store (rs ra : BitVec 5) (off : BitVec 64)                 -- 64 bits at ra + off = rs
deriving DecidableEq, Repr

/-- The two arrays of a tile (R66). -/
inductive ArrId where
  | A | B
deriving DecidableEq, Repr

/-- An error pattern found in a stored line at a read: bit j flips codeword position j of R275. -/
abbrev LineErr := BitVec 576

/-- A part that acts, with the error patterns of the lines it reads, by HBM line or tile SRAM line (R275). -/
structure WithErrs (α : Type) where
  it   : α
  errs : NMap LineErr
deriving DecidableEq, Repr

/-- A part that acts, and whether a memory of its own that it reads is uncorrectable (R93, R201). -/
structure WithUe (α : Type) where
  it : α
  ue : Bool
deriving DecidableEq, Repr

/-- What the physical layer brought with a frame: on a stream port the 10-bit symbols in error of each codeword that holds a unit
of it, on a seam the error pattern of each unit's 546-bit word, and the unit tags received other than sent, by unit (R236-R238,
R276). -/
structure Wire where
  symbols : List Nat
  units   : NMap (BitVec 546)
  tags    : NMap Nat
deriving DecidableEq, Repr

/-- A frame that arrives as it was sent. -/
def Wire.clean : Wire := ⟨[], [], []⟩

/-- The eight parameters of HELLO that its receiver uses (R258). -/
structure Hello where
  node    : Nat
  serial  : Nat
  channel : Nat
  ifx     : Nat
  kind    : Nat            -- 1 channel, 2 store, 3 switch tray
  fmNode  : Nat
  rxNext  : Nat
  allot   : List Nat       -- VL0-VL3
  held    : List Nat       -- VL0-VL3
deriving DecidableEq, Repr

/-- The credit/ack payload (R247). -/
structure CreditAck where
  ack : Nat
  nak : Bool
  ret : List Nat           -- RET0-RET3
deriving DecidableEq, Repr

/-- A weight-set source (R302). -/
structure Source where
  kind   : Nat             -- 0 file store, 1 Cimor store
  target : Nat
  nsid   : Nat
  lba    : Nat
  node   : Nat
deriving DecidableEq, Repr

/-- One manifest shard entry of a ring (R354), as type 0x06 frames carry it (R356). -/
structure RingShard where
  kind   : Nat
  flags  : Nat
  tensor : Nat             -- tensor id or range id
  member : Nat
  first  : Nat
  nblock : Nat
  header : Nat             -- header offset
  blocks : Nat
  ring   : Nat
  digest : Bytes
deriving DecidableEq, Repr

/-- Control messages: the payload of frames of type 0x07 (R244), by subtype. -/
inductive CtlMsg where
  | hello (h : Hello)
  | topoReport (entries : List (Nat × Nat × Nat × Nat × Nat))   -- interface, state, node, serial, interface
  | idAssign (id fm : Nat)
  | audit (charged : List Nat)
  | auditReply (corrected : Bool) (charged returned held : List Nat)
  | reconcile
  | readChunk (setId16 : Bytes) (chunk dst : Nat) (group : Bool) (port slot : Nat)
  | chunkDone (job chunk modid : Nat)
  | chunkBad (job chunk attempt store : Nat)
  | bufFree (job resOrd : Nat)
  | wsetFail (job chunk store1 store2 : Nat)
  | digestUpdate (job step chunk : Nat) (digest : Bytes)
  | switchAt (job slot point : Nat)
  | chunkStored (job chunk step count : Nat)
  | writeChunk (job : Nat) (setId16 : Bytes) (chunk step len : Nat) (digest : Bytes) (replica : Nat)
  | stepReport (attempt job step bits frameIdx : Nat) (proposals : List (Nat × Int)) (last : Bool)
  | stepFault (attempt job step status shard : Nat)
  | verdictQuery (job step attempt : Nat)
  | suspectMark (attempt job step shard tree tree2 : Nat)
  | ringBegin (job ring kind attempt parent parentAttempt idx nsid dir : Nat)
  | ringFail (job attempt status written : Nat)
  | ringAbort (job attempt : Nat)
  | ringDone (job ring attempt : Nat)
  | restoreBegin (job ring attempt idx nsid dir : Nat)
  | restoreReport (job status : Nat) (bad : List Nat)
  | other (subtype : Nat) (body : Bytes)
deriving DecidableEq, Repr

/-- A frame's payload: bytes laid out by the type's chapter, or a control message. -/
inductive Payload where
  | raw (b : Bytes)
  | ctl (m : CtlMsg)
  | credit (a : CreditAck)
deriving DecidableEq, Repr

/-- A Cimor link frame (R239-R241). `dst` is a node id, or a group when `flags` bit 5 is set. -/
structure Frame where
  typ    : Nat
  vl     : Nat
  lseq   : Nat
  src    : Nat
  dst    : Nat
  job    : Nat
  grove  : Nat
  fmt    : Nat
  tensor : Nat
  shard  : Nat
  step   : Nat
  mb     : Nat
  flags  : BitVec 16
  gexp   : BitVec 8
  hver   : Nat
  ccount : Nat
  rsv    : Nat             -- the header bytes that R240 fixes at 0, as one number
  rseq   : Nat
  payload : Payload
deriving DecidableEq, Repr

/-- A command datagram as it arrives on UDP port 46824 (R284, R286). -/
structure Datagram where
  udpLen  : Nat
  magic   : Nat
  version : Nat
  channel : Nat            -- 0-7, or 0xFF for the module
  queue   : Nat
  opcode  : Nat
  flags   : Nat
  seq     : BitVec 32
  plen    : Nat
  session : Nat
  tag     : Bytes
  params  : Bytes
  origin  : Nat            -- the sender's address and port, as one number
deriving DecidableEq, Repr

/-- Which queued command an opcode row executes: its channel field, queue, session and sequence (R286, R291). -/
structure Issue where
  channel : Nat
  queue   : Nat
  session : Nat
  seq     : BitVec 32
deriving DecidableEq, Repr

/-- A crown-core access after address translation (R30, R31). -/
structure CrownAccess where
  core     : Fin 4
  firmware : Bool          -- firmware privilege; false: a user program
  grove    : Fin 16        -- the user program's grove
  addr     : BitVec 40
  size     : Nat           -- bytes
  write    : Option Bytes  -- the bytes stored; none is a load
  errs     : NMap LineErr  -- error patterns of the lines read, by HBM line or tile SRAM line
deriving DecidableEq, Repr

/-- Network packets that the port die answers or drops (R284). -/
inductive NetPacket where
  | arp (target : BitVec 32)
  | icmpEcho (v6 : Bool) (target : Nat) (body : Bytes)
  | neighbourSolicit (target : Nat)
  | fragment
  | other
deriving DecidableEq, Repr

/-- Every step of the part that the opcode table lists. -/
inductive Instr where
  -- tile core
  | scalarInstruction (t : TileRef) (x : Fin 2) (op : WithErrs ScalarOp)
  | vadd (t : TileRef) (x : Fin 2) (f : VFields)
  | vsub (t : TileRef) (x : Fin 2) (f : VFields)
  | vmul (t : TileRef) (x : Fin 2) (f : VFields)
  | vfma (t : TileRef) (x : Fin 2) (f : VFields)
  | vmin (t : TileRef) (x : Fin 2) (f : VFields)
  | vmax (t : TileRef) (x : Fin 2) (f : VFields)
  | vdiv (t : TileRef) (x : Fin 2) (f : VFields)
  | vsqrt (t : TileRef) (x : Fin 2) (f : VFields)
  | vsfu (t : TileRef) (x : Fin 2) (f : VFields)
  | vcmp (t : TileRef) (x : Fin 2) (f : VFields)
  | vcvt (t : TileRef) (x : Fin 2) (f : VFields)
  | vred (t : TileRef) (x : Fin 2) (f : VFields)
  | vld (t : TileRef) (x : Fin 2) (vd va : BitVec 5) (off : BitVec 16) (errs : NMap LineErr)
  | vst (t : TileRef) (x : Fin 2) (vd va : BitVec 5) (off : WithErrs (BitVec 16))
  | vbcast (t : TileRef) (x : Fin 2) (f : VFields)
  | issueDesc (t : TileRef) (x : Fin 2) (va : BitVec 5) (sub : WithErrs (BitVec 2))
  | semwait (t : TileRef) (x : Fin 2) (sem : BitVec 4)
  | sempost (t : TileRef) (x : Fin 2) (sem : BitVec 4) (other : Bool)
  | setkey (t : TileRef) (x : Fin 2) (va vb vc : BitVec 5)
  | halt (t : TileRef) (x : Fin 2)
  | illegalInstruction (t : TileRef) (x : Fin 2) (word : Word)
  -- arrays and movement
  | arrayDescriptorStart (t : TileRef) (a : ArrId)
  | arrayBlock (t : TileRef) (a : WithErrs (WithUe ArrId))   -- `ue`: the accumulator SRAM or a panel buffer
  | accumulatorReadout (t : TileRef) (a : WithUe ArrId)
  | copy (t : TileRef) (x : WithErrs (Fin 2))
  | send (t : TileRef) (x : WithErrs (Fin 2))
  | gtbLoad (t : TileRef) (x : WithErrs (Fin 2))
  | accSave (t : TileRef) (x : WithUe (Fin 2))
  | accLoad (t : TileRef) (x : WithErrs (Fin 2))
  | accMerge (t : TileRef) (x : WithErrs (Fin 2))
  | hbmRead (t : TileRef) (x : Fin 2) (errs : NMap LineErr)
  | hbmWrite (t : TileRef) (x : WithErrs (Fin 2))
  | remotePost (t : TileRef) (x : Fin 2) (sem : BitVec 4)
  | ctxStart (t : TileRef) (x : Fin 2)
  | ctxStop (t : TileRef) (x : Fin 2)
  | clrFault (t : TileRef)
  | routerFlit (c : Fin 8) (idx : Nat) (err : BitVec 544)
  | flitEject (c : Fin 8) (idx : Nat) (err : BitVec 544)
  | sramScrub (t : TileRef) (err : LineErr)
  | hbmScrub (c : Fin 8) (stack : Fin 3) (err : LineErr)
  | crownCoreAccess (c : Fin 8) (a : CrownAccess)
  | undCfgWrite (c : Fin 8) (value : Word)
  | groveTableApply (c : Fin 8) (g : Fin 16)
  | tableDrainTimeout (c : Fin 8) (g : Fin 16)
  | tileDataFrame (c : Fin 8) (i : Fin 5) (f : Frame)
  -- weight streaming
  | weightFrame (c : Fin 8) (i : Fin 5) (f : Frame)
  | chunkDigestCompare (c : Fin 8) (i : Fin 5) (job chunk : Nat)
  | chunkComplete (c : Fin 8) (g : Fin 16) (chunk : Nat)
  | bufFree (c : Fin 8) (src job resOrd : Nat)
  | chunkDone (c : Fin 8) (job chunk modid : Nat)
  | chunkBad (c : Fin 8) (job chunk attempt store : Nat)
  | chunkTimeout (c : Fin 8) (g : Fin 16) (chunk : Nat) (altReachable : Bool)
  | wsetFail (c : Fin 8) (job chunk store1 store2 : Nat)
  | digestUpdate (c : Fin 8) (job step chunk : Nat) (digest : Bytes)
  | switchAt (c : Fin 8) (job slot point : Nat)
  | wsetSwitchApply (c : Fin 8) (g : Fin 16)
  | baseReattach (c : Fin 8) (g : Fin 16)
  | hbmTierReload (c : Fin 8) (g : Fin 16) (chunk : Nat) (data : Option Bytes)
  -- stash admission
  | stashAdmit (c : Fin 8) (g : Fin 16)
  | stashOverMarkAdmit (c : Fin 8) (g : Fin 16)
  -- gradients, verdicts, updates
  | egressSend (c : Fin 8) (g : WithUe (Fin 16))
  | egressStageTimeout (c : Fin 8) (g : Fin 16)
  | gradientFrame (c : Fin 8) (i : Fin 5) (f : Frame)
  | combineBlock (c : Fin 8) (g : Fin 16) (shard : Nat) (second : WithUe Bool)
  | slotTimeout (c : Fin 8) (g : Fin 16) (shard : Nat) (second : Bool) (src : Nat)
  | graceExpiry (c : Fin 8) (g : Fin 16) (shard : Nat) (src : Nat)
  | stepReport (c : Fin 8) (src attempt job step bits frameIdx : Nat) (proposals : List (Nat × Int)) (last : Bool)
  | stepFault (c : Fin 8) (src attempt job step status shard : Nat)
  | verdictTimeout (c : Fin 8) (g : Fin 16) (step attempt : Nat)
  | verdict (c : Fin 8) (job attempt verdict step : Nat) (reason : Nat) (gtable : List (Nat × Int))
  | verdictQuery (c : Fin 8) (src job step attempt : Nat)
  | verdictWaitExpiry (c : Fin 8) (g : Fin 16)
  | suspectMark (c : Fin 8) (attempt job step shard tree tree2 : Nat)
  | updateStart (c : Fin 8) (g : Fin 16)
  | chunkStored (c : Fin 8) (job chunk step count : Nat)
  | writebackTimeout (c : Fin 8) (g : Fin 16) (chunk : Nat)
  -- the Cimor link
  | frameReceive (c : Fin 8) (i : Fin 5) (f : Frame) (crc : Word) (w : Wire)
  | frameTransmit (c : Fin 8) (i : Fin 5)
  | creditAck (c : Fin 8) (i : Fin 5) (a : CreditAck)
  | creditAckTimer (c : Fin 8) (i : Fin 5)
  | replayTimeout (c : Fin 8) (i : Fin 5)
  | linkTrained (c : Fin 8) (i : Fin 5) (laneRev : Bool) (polInv : Byte)
  | hello (c : Fin 8) (i : Fin 5) (h : Hello)
  | helloTimer (c : Fin 8) (i : Fin 5)
  | retrainEnd (c : Fin 8) (i : Fin 5) (ok : Bool)
  | laneLoss (c : Fin 8) (i : Fin 5) (lanes : Byte)
  | seamSlip (c : Fin 8) (e : Fin 3) (sep : Nat)
  | linkHoldExpiry (c : Fin 8) (i : Fin 5)
  | rxCellUe (c : Fin 8) (i : Fin 5) (cell : Nat)
  | linkStateUe (c : Fin 8) (i : Fin 5)
  | auditSend (c : Fin 8) (i : Fin 5)
  | audit (c : Fin 8) (i : Fin 5) (charged : List Nat)
  | auditReply (c : Fin 8) (i : Fin 5) (corrected : Bool) (charged returned held : List Nat)
  | reconcile (c : Fin 8) (i : Fin 5)
  | reconcileTimeout (c : Fin 8) (i : Fin 5)
  | topoReport (c : Fin 8) (src : Nat) (entries : List (Nat × Nat × Nat × Nat × Nat))
  | routeSwap (c : Fin 8)
  | routeSwapComplete (c : Fin 8) (ueLine : Option Nat)
  -- HBM controls
  | regionApply (c : Fin 8)
  | flip (c : Fin 8)
  | clear (c : Fin 8)
  | clearDone (c : Fin 8)
  -- the command port
  | commandDatagram (d : Datagram)
  | networkProtocolPacket (p : NetPacket)
  | nvmeTcpSegment (dport : Nat) (body : Bytes)
  | sessionIdleTimeout (session : Nat)
  | sessionOpenExpiry (session : Nat)
  | nop (q : Issue)
  | sessionOpen (q : Issue) (fpr nonce : Bytes) (idle : Nat)
  | sessionKey (q : Issue) (session : Nat) (ct sig : Bytes)
  | sessionClose (q : Issue)
  | queueClaim (q : Issue) (ch qn : Nat) (seq : Word)
  | queueRelease (q : Issue) (ch qn : Nat)
  | moduleInfo (q : Issue)
  | moduleIdSet (q : Issue) (modid fm : Nat)
  | eventSubscribe (q : Issue) (addr : Bytes) (port chmask : Nat)
  | channelStart (q : Issue)
  | channelStop (q : Issue)
  | channelFreeze (q : Issue)
  | channelThaw (q : Issue)
  | serviceMove (q : Issue) (services anchor : Nat)
  | netSet (q : Issue) (ip6 : Bytes) (len6 : Nat) (ip4 : Bytes) (len4 : Nat)
  | regRead (q : Issue) (addr : Word) (count view : Nat)
  | regWrite (q : Issue) (addr : Word) (count : Nat) (values : List Word)
  | regRmw (q : Issue) (addr mask value : Word)
  | strobe (q : Issue) (groups : BitVec 16)
  | strobeAtBoundary (q : Issue) (groups : BitVec 16)
  | stageDiscard (q : Issue) (groups : BitVec 16)
  | snap (q : Issue) (addr : Word)
  | snapRelease (c : Option (Fin 8)) (off : Nat)
  | memRead (q : Issue) (line n : Nat) (errs : NMap LineErr)
  | memWrite (q : Issue) (line n : Nat) (data : Bytes)
  | tileRead (q : Issue) (x y addr n : Nat) (errs : NMap LineErr)
  | tileWrite (q : Issue) (x y addr n : Nat) (data : Bytes)
  | nvmeTargetSet (q : Issue) (idx port : Nat) (addr nqn : Bytes)
  | dmaFetch (q : Issue) (idx nsid lba blocks line : Nat)
  | dmaFetchComplete (q : Issue) (data : Option Bytes)
  | dmaStore (q : Issue) (idx nsid lba blocks line : Nat)
  | dmaStoreComplete (q : Issue) (ok : WithErrs Bool)
  | progLoad (q : Issue) (grove core line len : Nat)
  | progLoadComplete (q : Issue) (pid : Nat)
  | progStop (q : Issue) (grove : Nat)
  | groveLoad (q : Issue) (line len : Nat) (digest : Bytes)
  | groveLoadComplete (q : Issue)
  | groveUnload (q : Issue) (grove : Nat)
  | groveStart (q : Issue) (grove : Nat) (stop : Word)
  | grovePause (q : Issue) (grove : Nat) (at_ : Word)
  | groveQuiescent (c : Fin 8) (g : Fin 16)
  | groveResume (q : Issue) (grove : Nat)
  | groveDrain (q : Issue) (grove : Nat)
  | groveStatus (q : Issue) (grove : Nat)
  | wsetStage (q : Issue) (grove slot store1 store2 : Nat) (src1 src2 : Source)
  | wsetStageComplete (q : Issue) (manifest : Bytes) (chunks1 chunks2 : NMap Bytes)
  | wsetSwitch (q : Issue) (grove slot : Nat) (others : Bool)   -- `others`: the members that lie in other modules allow it
  | wsetStatus (q : Issue) (grove : Nat)
  | wsetDiscard (q : Issue) (grove slot : Nat)
  | baseDetach (q : Issue) (grove : Nat)
  | verdictLog (q : Issue) (grove : Nat)
  | suspectClear (q : Issue) (units : Nat)
  | ringWrite (q : Issue) (grove kind idx nsid lba : Nat) (fs : NMap Bytes)
  | ringRestore (q : Issue) (grove idx nsid lba ring : Nat) (fs : NMap Bytes)
  | restoreQuery (q : Issue) (grove idx nsid lba : Nat)
  | ringOrphans (q : Issue) (grove idx nsid lba : Nat)
  | capSet (q : Issue) (watts : Nat)
  | orphanCapSet (q : Issue) (watts : Nat)
  | powerStatus (q : Issue)
  | thermalStatus (q : Issue)
  | attest (q : Issue) (nonce : Bytes)
  | keyAdd (q : Issue) (record : Bytes)
  | keyRemove (q : Issue) (fpr sig : Bytes)
  | keyList (q : Issue)
  | alarmCfg (q : Issue) (cls response : Nat)
  | energyRead (q : Issue) (chmask : Nat) (nonce : Bytes)
  | metInfo (q : Issue)
  | bistRun (q : Issue) (level : Nat)
  | bistRunComplete (q : Issue) (badTiles : List (Nat × Nat)) (badRouters : List (Nat × Nat))
  | logRead (q : Issue) (first : Word) (count : Nat)
  | defectMapRead (q : Issue) (offset len : Nat)
  | linkLoopback (q : Issue) (ifx mode frames : Nat)
  | linkLoopbackComplete (q : Issue) (errors : Nat)
  | fwUpdate (q : Issue) (ch line len : Nat)
  | fwUpdateComplete (q : Issue)
  -- registers
  | registerWrite (c : Option (Fin 8)) (off : Nat) (value : Word)
  | bitAliasWrite (c : Fin 8) (off : Nat) (value : Word)
  | paritySweep (c : Option (Fin 8))
  | parityInject (c : Fin 8)
  | chHoldRelease (mask : Byte)
  | svnCommit
  | bind
  -- rings; `fs` holds 4 KiB blocks of the ring directory by offset (R350), a missing one is unreadable
  | ringCapture (c : Fin 8) (g : Fin 16)
  | ringCaptureEnd (c : Fin 8) (g : Fin 16)
  | ringBegin (c : Fin 8) (job ring kind attempt parent parentAttempt idx nsid dir : Nat)
  | ringShardsWritten (c : Fin 8) (g : Fin 16) (ok : Bool) (fs : NMap Bytes)
  | ringShardList (c : Fin 8) (job ring member frameIdx : Nat) (last : Bool) (shards : List RingShard)
  | ringCommit (c : Fin 8) (g : Fin 16) (durable : Bool) (fs : NMap Bytes)
  | ringTimeout (c : Fin 8) (g : Fin 16)
  | ringFail (c : Fin 8) (job attempt status written : Nat)
  | ringAbort (c : Fin 8) (job attempt : Nat)
  | ringDone (c : Fin 8) (job ring attempt : Nat)
  | restoreBegin (c : Fin 8) (job ring attempt idx nsid dir : Nat) (fs : NMap Bytes)
  | restoreImageFrame (c : Fin 8) (job kind tensor offset : Nat) (image : Bytes)
  | restoreReport (c : Fin 8) (job member status : Nat) (bad : List Nat)
  | restoreComplete (c : Fin 8) (g : Fin 16)
  -- power and heat
  | limiterTrim (c : Fin 8) (watts : Nat)
  | shareCompute
  | supplySample (mv : Nat)
  | supplyFreeze
  | supplyRecover
  | capStepAssert
  | capStepDeassert
  | orphanExpiry
  | clearFaults (pecOk : Bool)
  | statusWord (pecOk : Bool)
  | readVin (pecOk : Bool)
  | readIin (pecOk : Bool)
  | readTemperature1 (pecOk : Bool)
  | readTemperature2 (pecOk : Bool)
  | readPin (pecOk : Bool)
  | mfrPlkCapWrite (pecOk : Bool) (word : BitVec 16)
  | mfrPlkCapRead (pecOk : Bool)
  | mfrPlkDemand (pecOk : Bool)
  | mfrPlkFloor (pecOk : Bool)
  | mfrPlkState (pecOk : Bool)
  | pmbusUnknownCommand (code : Byte)
  | smbusAlertResponse
  | tempSample (c : Fin 8) (temps : List Int)
  | sensorDisagree (c : Fin 8) (field hot : Nat)
  | sensorSuspect (c : Fin 8) (field hot : Nat) (predicted : Int)
  | inletSample (t0 t1 : Int)
  | thetaUpdate (c : Fin 8)
  | heatTrim (c : Fin 8)
  | fieldGate (c : Fin 8) (field : Fin 6)
  | flowLoss
  | coolantKeepExpiry
  -- bring-up, faults, metrology
  | powerOn (imageA imageB : Option Bytes) (straps : BitVec 3) (ref : Bool)
  | refArrival
  | channelRelease (c : Fin 8)
  | bringupStepDone (c : Fin 8) (ok : Bool) (badTiles badRouters : List (Nat × Nat)) (meas : Bytes) (hold : Nat)
  | bringupStepTimeout (c : Fin 8)
  | pllUnlock (c : Fin 8) (refLost : Bool)
  | controllerLinkLost (c : Fin 8)
  | controllerLinkReturn (c : Fin 8)
  | watchdogExpiry (t : TileRef)
  | heartbeat (c : Fin 8) (silentCores silentRouters : List (Nat × Nat))
  | quiesceTimeout (c : Fin 8) (g : Fin 16)
  | groveQuiesced (c : Fin 8) (g : Fin 16)
  | replayRestart (c : Fin 8) (g : Fin 16) (reloadOk : Bool)
  | meshAlarm
  | sealBreach
  | glitch
  | cellEnergySample (mwh : List Nat)
  | cellPowerLoss (complete : Bool)
  | cellReport
  | cellLinkTimeout
  | apportion (cycles : List (Nat × Nat × Nat))
  | moduleReset
  | overvoltage
  | inputCollapse
  | restoreQueryComplete (q : Issue) (fs : NMap Bytes)
  | ringOrphansComplete (q : Issue) (fs : NMap Bytes)
  | partnerReturn (c : Fin 8) (i : Fin 5)
  | flowLossDeassert
  | modResetDeassert (imageA imageB : Option Bytes) (straps : BitVec 3) (ref : Bool)
  | commandPortTrained
  | uncorrectableControllerError (c : Fin 8)
deriving DecidableEq, Repr

end Sys2Proof
end

