-- ==== Sys2Proof/Decode.lean ====
section
/-! DEFINITION. Words: those of the opcode table, whose rows are commands and events and carry no bits, so that no word spells one;
and the 32-bit words of the tile core (R91, R92), which spell the table's tile-core rows once a tile and a context are named. -/

namespace Sys2Proof

/-- The command a table word spells: none, since no row of the table gives bits. -/
def decodeTableWord (_nbits _w : Nat) : Option Instr := none

/-- Bits `lo` and up of a tile-core word, `n` of them. -/
def tileField (w : Word) (lo n : Nat) : BitVec n := w.extractLsb' lo n

/-- The operand fields of a vector instruction (R91). -/
def tileFields (w : Word) : VFields :=
  { vd := tileField w 21 5, va := tileField w 16 5, vb := tileField w 11 5, vc := tileField w 6 5, pred := tileField w 3 3
    ty := w.getLsbD 2, sub := tileField w 0 2 }

/-- The instruction that a word spells in a context of a tile (R91, R92): a major code the table does not list is illegal. The scalar
instructions' encodings are the SDK reference's and not this manual's (R84). -/
def decodeTileWord (t : TileRef) (x : Fin 2) (w : Word) : Instr :=
  let f := tileFields w
  match (tileField w 26 6).toNat with
  | 0x01 => .vadd t x f
  | 0x02 => .vsub t x f
  | 0x03 => .vmul t x f
  | 0x04 => .vfma t x f
  | 0x05 => .vmin t x f
  | 0x06 => .vmax t x f
  | 0x07 => .vdiv t x f
  | 0x08 => .vsqrt t x f
  | 0x09 => .vsfu t x f
  | 0x0A => .vcmp t x f
  | 0x0B => .vcvt t x f
  | 0x0C => .vred t x f
  | 0x0D => .vld t x f.vd f.va (tileField w 0 16) []
  | 0x0E => .vst t x f.vd f.va ⟨tileField w 0 16, []⟩
  | 0x10 => .vbcast t x f
  | 0x20 => .issueDesc t x f.va ⟨f.sub, []⟩
  | 0x21 => .semwait t x (tileField w 0 4)
  | 0x22 => .sempost t x (tileField w 0 4) (w.getLsbD 4)
  | 0x23 => .setkey t x f.va f.vb f.vc
  | 0x24 => .halt t x
  | _ => .illegalInstruction t x w

end Sys2Proof
end

