-- ==== Sys2Proof/Machine/Bytes.lean ====
section
/-! DEFINITION. Byte order, bit fields and sparse-map access: the helpers that every layer above uses. -/

namespace Sys2Proof.Machine

/-- The value of a sparse map at `k`; `d k` where the map lists nothing. -/
def mapGet {α : Type} (d : Nat → α) : NMap α → Nat → α
  | [], k => d k
  | (j, v) :: t, k => if j = k then v else mapGet d t k

/-- The listed value at `k`, if any. -/
def mapFind {α : Type} : NMap α → Nat → Option α
  | [], _ => none
  | (j, v) :: t, k => if j = k then some v else mapFind t k

/-- `m` with `k` listed as `v`, in rising key order. -/
def mapPut {α : Type} : NMap α → Nat → α → NMap α
  | [], k, v => [(k, v)]
  | (j, w) :: t, k, v =>
    if k < j then (k, v) :: (j, w) :: t
    else if k = j then (k, v) :: t
    else (j, w) :: mapPut t k v

/-- `m` without key `k`. -/
def mapDel {α : Type} (m : NMap α) (k : Nat) : NMap α := m.filter (fun p => p.1 ≠ k)

/-- `m` with value `v` at `k`, listing nothing that equals the default. -/
def mapSet {α : Type} [DecidableEq α] (d : Nat → α) (m : NMap α) (k : Nat) (v : α) : NMap α :=
  if v = d k then mapDel m k else mapPut m k v

/-- Keys rise strictly. -/
def mapSorted {α : Type} : NMap α → Bool
  | [] => true
  | [_] => true
  | (j, _) :: (k, w) :: t => decide (j < k) && mapSorted ((k, w) :: t)

/-- The canonical form of a sparse map: rising keys, and no entry equal to what an unlisted key reads as. -/
def mapWf {α : Type} [DecidableEq α] (d : Nat → α) (m : NMap α) : Bool :=
  mapSorted m && m.all (fun p => decide (p.2 ≠ d p.1))

/-- A byte string as a little-endian number (R6). -/
def leNat : Bytes → Nat
  | [] => 0
  | b :: t => b.toNat + 256 * leNat t

/-- The low `n` bytes of a number, little-endian (R6). -/
def leBytes : Nat → Nat → Bytes
  | 0, _ => []
  | n + 1, v => BitVec.ofNat 8 v :: leBytes n (v / 256)

/-- `n` zero bytes. -/
def zeros (n : Nat) : Bytes := List.replicate n 0

/-- Bytes `off` to `off + n - 1` of a string; missing bytes read 0. -/
def slice (b : Bytes) (off n : Nat) : Bytes :=
  let s := (b.drop off).take n
  s ++ zeros (n - s.length)

/-- The little-endian number in `n` bytes at `off`. -/
def leAt (b : Bytes) (off n : Nat) : Nat := leNat (slice b off n)

/-- Bits `lo` to `lo + w - 1` of a number. -/
def bits (v lo w : Nat) : Nat := v / 2 ^ lo % 2 ^ w

/-- `v` with bits `lo` to `lo + w - 1` replaced by `x`. -/
def setBits (v lo w x : Nat) : Nat :=
  v - bits v lo w * 2 ^ lo + x % 2 ^ w * 2 ^ lo

/-- A two's complement reading of `w` bits. -/
def signed (w v : Nat) : Int := if 2 * v < 2 ^ w then (v : Int) else (v : Int) - 2 ^ w

/-- The `w`-bit two's complement encoding of an integer, modulo 2^w. -/
def unsigned (w : Nat) (v : Int) : Nat := (v % (2 ^ w : Int)).toNat

/-- Strings cut into pieces of `n` (the last may be short). The first argument bounds the number of pieces. -/
def chunksOf : Nat → Nat → Bytes → List Bytes
  | 0, _, _ => []
  | _ + 1, _, [] => []
  | k + 1, n, b => b.take n :: chunksOf k n (b.drop n)

/-- Least of a list of numbers, `d` when empty. -/
def minOr (d : Nat) (l : List Nat) : Nat := l.foldl min d

/-- Saturating addition in `w` bits. -/
def satAdd (w a b : Nat) : Nat := min (a + b) (2 ^ w - 1)

/-- The place of the first element that meets `p`. -/
def firstIdx {α : Type} (p : α → Bool) : List α → Option Nat
  | [] => none
  | a :: t => if p a then some 0 else (firstIdx p t).map (· + 1)

/-- The last `n` elements of a list: what a log of `n` entries keeps. -/
def newest {α : Type} (n : Nat) (l : List α) : List α := (l.reverse.take n).reverse

/-- An ASCII string as bytes. -/
def ascii (s : String) : Bytes := s.toList.map (fun c => BitVec.ofNat 8 c.toNat)

end Sys2Proof.Machine
end

