-- ==== Sys2Proof/Machine/Crypto.lean ====
section
/-! DEFINITION. The published functions the part computes: SHAKE256 (FIPS 202), KMAC256 (SP 800-185), and the
CRC-32 of IEEE 802.3 (R242). -/

namespace Sys2Proof.Machine

/-- Lane `i` of a state of 25 lanes; the lane at column `x` of row `y` has `i` = x + 5 y. -/
def lane (a : List (BitVec 64)) (i : Nat) : BitVec 64 := a.getD i 0

/-- The 24 lanes that FIPS 202 visits from (x, y) on, each next one where the step before moves its predecessor: (y, 2x + 3y). -/
def laneTrail : Nat → Nat → Nat → List Nat
  | 0, _, _ => []
  | n + 1, x, y => (x + 5 * y) :: laneTrail n y ((2 * x + 3 * y) % 5)

/-- The column sums of a state. -/
def columns (a : List (BitVec 64)) : List (BitVec 64) :=
  (List.range 5).map (fun x => (List.range 5).foldl (fun s y => s ^^^ lane a (x + 5 * y)) 0)

/-- Every lane takes the sums of its two neighbour columns. -/
def mixColumns (a : List (BitVec 64)) : List (BitVec 64) :=
  let s := columns a
  a.zipIdx.map (fun p => p.1 ^^^ lane s ((p.2 + 4) % 5) ^^^ (lane s ((p.2 + 1) % 5)).rotateLeft 1)

/-- Every lane on the trail takes its predecessor's place: the lane at place p, from 0, receives the one before it, turned left by
p (p + 1) / 2, the first one that of place 24. -/
def moveLanes (a : List (BitVec 64)) : List (BitVec 64) :=
  let t := laneTrail 24 1 0
  a.zipIdx.map (fun p =>
    if p.2 = 0 then p.1
    else
      let k := if t.idxOf p.2 = 0 then 24 else t.idxOf p.2
      (lane a (t.getD (k - 1) 0)).rotateLeft (k * (k + 1) / 2 % 64))

/-- Every lane takes in its row's next two. -/
def mixRows (a : List (BitVec 64)) : List (BitVec 64) :=
  a.zipIdx.map (fun p =>
    let row := p.2 - p.2 % 5
    p.1 ^^^ (lane a (row + (p.2 + 2) % 5) &&& ~~~ lane a (row + (p.2 + 1) % 5)))

/-- `n` steps of the register that makes the round constants. -/
def constStep : Nat → Nat → Nat
  | 0, r => r
  | n + 1, r => constStep n (if 128 ≤ r then 2 * r ^^^ 0x171 else 2 * r)

/-- The constant of the round at which the register stands at `r`: bit 2^j - 1 is its low bit after j steps. -/
def roundConst (r : Nat) : BitVec 64 :=
  BitVec.ofNat 64 ((List.range 7).foldl (fun s j => s + constStep j r % 2 * 2 ^ (2 ^ j - 1)) 0)

/-- One round; the register goes on to the next one's. -/
def keccakRound (q : List (BitVec 64) × Nat) : List (BitVec 64) × Nat :=
  let m := mixRows (moveLanes (mixColumns q.1))
  (m.modifyHead (fun h => h ^^^ roundConst q.2), constStep 7 q.2)

/-- The permutation Keccak-f[1600]. -/
def keccakF (a : List (BitVec 64)) : List (BitVec 64) := ((List.range 24).foldl (fun q _ => keccakRound q) (a, 1)).1

/-- The 136-byte rate of SHAKE256 and KMAC256. -/
def keccakRate : Nat := 136

/-- XOR a 136-byte block into a state and permute. -/
def absorb (a : List (BitVec 64)) (blk : Bytes) : List (BitVec 64) :=
  keccakF ((List.range 25).map (fun i => if i < 17 then lane a i ^^^ BitVec.ofNat 64 (leAt blk (8 * i) 8) else lane a i))

/-- The message padded with its domain byte to whole blocks. -/
def keccakPad (dom : Nat) (m : Bytes) : Bytes :=
  let r := keccakRate - m.length % keccakRate
  if r = 1 then m ++ [BitVec.ofNat 8 (dom + 0x80)] else m ++ [BitVec.ofNat 8 dom] ++ zeros (r - 2) ++ [0x80]

def stateBytes (a : List (BitVec 64)) : Bytes := (a.take 17).flatMap (fun l => leBytes 8 l.toNat)

/-- Squeeze `n` blocks. -/
def squeeze : Nat → List (BitVec 64) → Bytes
  | 0, _ => []
  | n + 1, a => stateBytes a ++ squeeze n (keccakF a)

/-- The sponge with a domain byte, `n` bytes out. -/
def sponge (dom : Nat) (m : Bytes) (n : Nat) : Bytes :=
  let p := keccakPad dom m
  let a := (chunksOf (p.length / keccakRate) keccakRate p).foldl absorb (List.replicate 25 0)
  (squeeze ((n + keccakRate - 1) / keccakRate) a).take n

/-- SHAKE256 with `n` bytes of output. -/
def shake256 (m : Bytes) (n : Nat) : Bytes := sponge 0x1F m n

/-- The SHAKE256-256 digest of R131, R289 and R301. -/
def digest (m : Bytes) : Bytes := shake256 m 32

/-- Bytes of a number, most significant first, at least one; the first argument bounds the length. -/
def beBytes : Nat → Nat → Bytes
  | 0, _ => []
  | n + 1, v => if v < 256 then [BitVec.ofNat 8 v] else beBytes n (v / 256) ++ [BitVec.ofNat 8 v]

def leftEncode (v : Nat) : Bytes := let b := beBytes 8 v; BitVec.ofNat 8 b.length :: b
def rightEncode (v : Nat) : Bytes := let b := beBytes 8 v; b ++ [BitVec.ofNat 8 b.length]
def encodeString (s : Bytes) : Bytes := leftEncode (8 * s.length) ++ s

/-- SP 800-185 `bytepad` to the rate. -/
def bytePad (b : Bytes) : Bytes :=
  let x := leftEncode keccakRate ++ b
  x ++ zeros ((keccakRate - x.length % keccakRate) % keccakRate)

/-- KMAC256(K, X, L bits, S) of SP 800-185 (R287, R289). -/
def kmac256 (k x : Bytes) (bitsOut : Nat) (s : String) : Bytes :=
  sponge 0x04 (bytePad (encodeString (ascii "KMAC") ++ encodeString (ascii s)) ++ bytePad (encodeString k) ++ x ++ rightEncode bitsOut)
    (bitsOut / 8)

/-- One byte into a reflected CRC-32 register (R242). -/
def crcByte (c : BitVec 32) (b : Byte) : BitVec 32 :=
  (List.range 8).foldl (fun r _ => if r.getLsbD 0 then (r >>> 1) ^^^ 0xEDB88320 else r >>> 1) (c ^^^ b.setWidth 32)

/-- The CRC-32 of IEEE 802.3 (R242). -/
def crc32 (m : Bytes) : Word := ~~~ (m.foldl crcByte 0xFFFFFFFF)

end Sys2Proof.Machine
end

