-- ==== Sys2Proof/Machine/LineCode.lean ====
section
/-! DEFINITION. The line code: check words of stored lines and of data in flight, and what the code guarantees of an error
pattern (R94, R238, R275, R276). -/

namespace Sys2Proof.Machine

/-- Remainder over GF(2) of a polynomial, its coefficients given from the highest down, modulo `g` of degree `deg`; the last
argument is the remainder so far. -/
def gfRem (g deg : Nat) : List Bool → Nat → Nat
  | [], r => r
  | b :: t, r =>
    let s := 2 * r + b.toNat
    gfRem g deg t (if s < 2 ^ deg then s else s ^^^ g)

/-- The low `n` bits of a number as coefficients, highest first. -/
def coeffs (n d : Nat) : List Bool := (List.range n).reverse.map (fun i => d.testBit i)

/-- g_M (R275) and g_T (R276). -/
def polyM : Nat := 2 ^ 64 + 2 ^ 50 + 2 ^ 47 + 2 ^ 17 + 2 ^ 3 + 1
def polyT : Nat := 2 ^ 32 + 2 ^ 27 + 2 ^ 23 + 2 ^ 9 + 2 ^ 4 + 1

/-- The check word M of a line: x^64 d(x) mod g_M (R275). -/
def checkM (d : BitVec 512) : BitVec 64 := BitVec.ofNat 64 (gfRem polyM 64 (coeffs 512 d.toNat ++ List.replicate 64 false) 0)

/-- The transfer check word T of a flit (512 bits) or a seam unit with its tag (514 bits): x^32 d(x) mod g_T (R276). -/
def checkT {n : Nat} (d : BitVec n) : BitVec 32 := BitVec.ofNat 32 (gfRem polyT 32 (coeffs n d.toNat ++ List.replicate 32 false) 0)

/-- The codeword of a stored line: M in positions 0-63, the data in 64-575 (R275). -/
def lineWord (d : BitVec 512) : BitVec 576 := d ++ checkM d

/-- A word in flight: T in the low 32 positions, then the data, of a seam unit with its tag bits on top (R276). -/
def transferWord {n : Nat} (d : BitVec n) : BitVec (n + 32) := d ++ checkT d

/-- Length of the burst that an error pattern of at most `w` bits is confined to; 0 for no error (R275). -/
def burstLen (e : Nat) (w : Nat := 576) : Nat :=
  if e = 0 then 0
  else
    let lo := (List.range w).find? (fun i => e / 2 ^ i % 2 = 1)
    Nat.log2 e - lo.getD 0 + 1

/-- What a decoder of R275 or R276 does with an error pattern. -/
inductive CodeClass where
  | clean | corrected | reported | open_
deriving DecidableEq, Repr

/-- Bursts of up to `fix` bits are corrected, other bursts of up to `seen` bits are reported, and longer patterns have no
guarantee. -/
def codeClass (fix seen e w : Nat) : CodeClass :=
  let n := burstLen e w
  if n = 0 then .clean else if n ≤ fix then .corrected else if n ≤ seen then .reported else .open_

end Sys2Proof.Machine
end

