-- ==== Sys2Proof/Config.lean ====
section
/-! DEFINITION. What an implementation fixes and the spec leaves open: constants without a body (no proof can
see their values), and the fixed figures of R4. -/

namespace Sys2Proof

/-- A value the spec leaves open, fresh for every use: applied to the state's free counter. Log entry 3. -/
opaque Config.freeNat : Nat → Nat

/-- Random bytes drawn by the port die (nonces, keys of R289), fresh for every use. Log entry 3. -/
opaque Config.freeBytes : Nat → Nat → Bytes

/-- The result of a scalar operation of the SDK tile program reference (R84): operation number, operands. Log entry 4. -/
opaque Config.scalarAlu : Nat → BitVec 64 → BitVec 64 → BitVec 64

/-- Whether a scalar branch is taken (R84): operation number, operands. Log entry 4. -/
opaque Config.scalarBranch : Nat → BitVec 64 → BitVec 64 → Bool

/-- Whether a context's accumulated underflow flag is judged before rounding (IEEE 754 leaves it open, R63). Log entry 5. -/
opaque Config.tinyBeforeRounding : Bool

/-- Whether a fused multiply-add of 0, infinity and a quiet NaN raises invalid (IEEE 754 leaves it to the implementation, R63). Log
entry 5. -/
opaque Config.fmaSignals : Bool

/-- What `VRED` gives where a predicate gates lanes (R92 does not say what they contribute): type, sub-operation, predicate and
source to the result and the five flags. Log entry 12. -/
opaque Config.redGated : Bool → BitVec 2 → BitVec 128 → BitVec 2048 → BitVec 64 × BitVec 5

/-- Whether `VCMP` lt and le raise invalid on a quiet NaN (R92 names no predicate). Log entry 12. -/
opaque Config.compareSignals : Bool

/-- Whether an inexact conversion to integer raises inexact (R63 names no variant). Log entry 12. -/
opaque Config.cvtSignalsInexact : Bool

/-- The lane value `VBCAST` makes of a 64-bit scalar for a type (R92 does not say which conversion). Log entry 12. -/
opaque Config.bcast : Bool → BitVec 64 → Word

/-- Falcon-1024 verification: public key, message, signature (R421). Log entry 6. -/
opaque Config.falconVerify : Bytes → Bytes → Bytes → Bool

/-- Falcon-1024 signing by the named key: key seed, message, draw (R421). Log entry 6. -/
opaque Config.falconSign : Bytes → Bytes → Nat → Bytes

/-- ML-KEM-1024 key generation: draw to encapsulation and decapsulation keys (R289). Log entry 6. -/
opaque Config.kemKeyGen : Nat → Bytes × Bytes

/-- ML-KEM-1024 decapsulation: decapsulation key, ciphertext (R289). Log entry 6. -/
opaque Config.kemDecap : Bytes → Bytes → Option Bytes

/-- The factory root public key in port die ROM (R421). Log entry 6. -/
opaque Config.factoryRoot : Bytes

/-- The device public key and the device certificate (R422). Log entry 6. -/
opaque Config.deviceKey : Bytes
opaque Config.deviceSeed : Bytes
opaque Config.deviceCert : Bytes

/-- The cell's public key, signing seed, certificate, and the checksum its certificate names (R434). Log entry 6. -/
opaque Config.cellKey : Bytes
opaque Config.cellSeed : Bytes
opaque Config.cellCert : Bytes

/-- What a read of a line with an error pattern beyond the code's guarantee gives (R275: no guarantee):
draw and received codeword to the data returned, or nothing when it is reported uncorrectable. Log entry 7. -/
opaque Config.beyondCode : Nat → BitVec 576 → Option (BitVec 512)

/-- The same of a word in flight beyond the guarantee of R276: draw and received word, of a flit or of a seam unit. Log entry 7. -/
opaque Config.beyondTransfer : Nat → Nat → Option (BitVec 512)

/-- What follows the subtype byte in control messages whose parameters the spec gives no byte places (R135, R214, R259, R358). Log
entry 8. -/
opaque Config.ctlBody : CtlMsg → Bytes

/-- The bytes of the boot ROM, which the manual does not give (R30). Log entry 80. -/
opaque Config.romByte : Nat → Byte

/-- The boot ROM version that MODULE_INFO reports. Log entry 9. -/
opaque Config.romVersion : Word

/-- How many of a store's bytes an unaligned scalar access may touch is not given; whether it faults. Log entry 4. -/
opaque Config.scalarUnalignedFaults : Bool

/-- Node ids of the channels that subscribe to a job's residency: the spec does not say where the reader holds them
(R134): job, ordinal of the residency. Log entry 27. -/
opaque Config.subscribers : Nat → Nat → List Nat

/-- Whether a subscriber in another module is attached now: the spec gives no message by which the reader learns it (R149): the
channel's free counter, job, node. Log entry 27. -/
opaque Config.farAttached : Nat → Nat → Nat → Bool

/-- Whether an attached subscriber in another module trains, likewise (R180): the channel's free counter, job. Log entry 27. -/
opaque Config.farTrains : Nat → Nat → Bool

/-- Bytes of the weight buffer that a job map reserves in a channel: the spec gives no field for it (R127): line of the image, buffer.
Log entry 31. -/
opaque Config.weightBuffer : Nat → Nat → Nat

/-- First HBM line of a chunk's HBM-tier copy: the job map places it, and the spec gives no field for it (R124): line of
the job map image, slot, chunk. Log entry 31. -/
opaque Config.hbmCopy : Nat → Nat → Nat → Nat

/-- Destinations (region, lx, ly, first line) of a frame of a chunk's RESIDENT copy, likewise: line of the image, slot,
chunk, frame. Log entry 31. -/
opaque Config.residentCopy : Nat → Nat → Nat → Nat → List (Nat × Nat × Nat × Nat)

/-- The multicast group that the job map names for a trained RESIDENT tensor (R231), likewise: line of the image, tensor.
Log entry 31. -/
opaque Config.residentGroup : Nat → Nat → Nat

/-- The modules of that group's members, which confirm such a chunk (R232), likewise: line of the image, tensor. Log entry 31. -/
opaque Config.residentMembers : Nat → Nat → List Nat

/-- The line of region 1 in which the stash controller keeps a line of a record, for which the spec gives no layout (R163, R271):
a draw. Log entry 19. -/
opaque Config.stashLine : Nat → Nat

/-- The node of a job's coordinator, as a channel finds it that has no member grove of the job: the spec gives no place for it
(R111): job. Log entry 20. -/
opaque Config.jobCoord : Nat → Nat

/-- Node ids of a joined grove's members in member index order (R354): the spec gives no register or job-map field for
them: job. Log entry 37. -/
opaque Config.members : Nat → List Nat

/-- Member indexes of a job's groves that contribute to a thinned tensor, rising (R343, R362), likewise: job, tensor. Log
entry 37. -/
opaque Config.efSources : Nat → Nat → List Nat

/-- The LINEAR11 word of a fraction: R373 names the format and neither its exponent nor its rounding. Log entry 63. -/
opaque Config.linear11 : Int → Nat → BitVec 16

/-- The averaged theta after one more sample (R385 gives a time constant, no arithmetic and no first value): the average
before, none at first; the temperature difference in 1/16 K; P_ch in W. Binary32. Log entry 65. -/
opaque Config.thetaAverage : Option Word → Int → Nat → Word

/-- Module serial number, fused (R339), and the cell's serial (R440). Log entry 2. -/
opaque Config.serial : BitVec 64
opaque Config.cellSerial : BitVec 64

/-- The first owner key, installed at provisioning as ordered (R422). Log entry 2. -/
opaque Config.ownerKey : Bytes

/-- Checksum and SHAKE256-256 digest of the cell's mask ROM firmware (R434, R440). Log entry 2. -/
opaque Config.cellFwSum : Word
opaque Config.cellFwDigest : Bytes

/-- The firmware checksum that the cell certificate names (R434). Log entry 2. -/
opaque Config.cellCertSum : Word

/-- Record 0 of the defect map, written and signed at the factory (R398). Log entry 2. -/
opaque Config.factoryRecord : Bytes

/-- The largest number of accumulator additions (R51). -/
def maxAdditions : Nat := 2 ^ 22

/-- Last byte address of a tile's SRAM plus one (R75). -/
def sramBytes : Nat := 0x180000

/-- Populated HBM lines of a channel (R269). -/
def hbmLines : Nat := 0x649534E0

/-- Tiles of a channel (R17). -/
def channelTiles : Nat := 4320

end Sys2Proof
end

