-- ==== Sys2Proof/Machine/Float.lean ====
section
/-! DEFINITION. IEEE 754 arithmetic of the vector unit (R44, R63-R65): exact dyadic values, one rounding, five sticky
flags, and the correctly rounded special functions. -/

namespace Sys2Proof.Machine

/-- The five IEEE exception flags. -/
structure FFlags where
  nv : Bool
  dz : Bool
  ovf : Bool
  unf : Bool
  nx : Bool
deriving DecidableEq, Repr

def FFlags.none : FFlags := ⟨false, false, false, false, false⟩

def FFlags.or (a b : FFlags) : FFlags :=
  ⟨a.nv || b.nv, a.dz || b.dz, a.ovf || b.ovf, a.unf || b.unf, a.nx || b.nx⟩

def FFlags.invalid : FFlags := ⟨true, false, false, false, false⟩
def FFlags.divZero : FFlags := ⟨false, true, false, false, false⟩

/-- A binary format by its fraction width; both have 8 exponent bits and bias 127 (R44). -/
structure FloatFmt where
  frac : Nat
deriving DecidableEq, Repr

def binary32 : FloatFmt := ⟨23⟩
def bfloat16 : FloatFmt := ⟨7⟩

/-- The type a `T` bit selects (R91). -/
def fmtOfT (t : Bool) : FloatFmt := if t then bfloat16 else binary32

def FloatFmt.width (f : FloatFmt) : Nat := f.frac + 9
def FloatFmt.infBits (f : FloatFmt) : Nat := 255 * 2 ^ f.frac
def FloatFmt.signBit (f : FloatFmt) : Nat := 2 ^ (f.frac + 8)
/-- The canonical quiet NaN (R63). -/
def FloatFmt.nanBits (f : FloatFmt) : Nat := f.infBits + 2 ^ (f.frac - 1)
def FloatFmt.maxBits (f : FloatFmt) : Nat := f.infBits - 1
/-- Exponent of the least subnormal. -/
def FloatFmt.minExp (f : FloatFmt) : Int := -126 - f.frac

/-- What a pattern denotes: a NaN, an infinity, or (-1)^neg * mant * 2^exp. -/
inductive FVal where
  | nan (signalling : Bool)
  | inf (neg : Bool)
  | fin (neg : Bool) (mant : Nat) (exp : Int)
deriving DecidableEq, Repr

def FloatFmt.decode (f : FloatFmt) (b : Nat) : FVal :=
  let neg := bits b (f.frac + 8) 1 = 1
  let e := bits b f.frac 8
  let m := bits b 0 f.frac
  if e = 255 then
    if m = 0 then .inf neg else .nan (bits b (f.frac - 1) 1 = 0)
  else if e = 0 then .fin neg m f.minExp
  else .fin neg (m + 2 ^ f.frac) (f.minExp + (e - 1 : Nat))

def FloatFmt.signed (f : FloatFmt) (neg : Bool) (b : Nat) : Nat := if neg then b + f.signBit else b

/-- Exponent of the rounding unit for a magnitude whose leading bit has weight 2^top. -/
def FloatFmt.unitExp (f : FloatFmt) (top : Int) : Int := max (top - f.frac) f.minExp

/-- m * 2^e rounded down to units of 2^u, with the remainder compared to half a unit: (quotient, exact, above half, tie). -/
def splitAt (m : Nat) (e u : Int) (sticky : Bool) : Nat × Bool × Bool × Bool :=
  if u ≤ e then (m * 2 ^ (e - u).toNat, !sticky, false, false)
  else
    let k := (u - e).toNat
    let q := m / 2 ^ k
    let r := 2 * (m % 2 ^ k)
    (q, r = 0 && !sticky, decide (2 ^ k < r) || (r = 2 ^ k && sticky), r = 2 ^ k && !sticky)

/-- Round a positive m * 2^e (a `sticky` remainder above it) to the format, ties to even: the pattern's magnitude and flags. -/
def FloatFmt.roundMag (f : FloatFmt) (m : Nat) (e : Int) (sticky : Bool) : Nat × FFlags :=
  if m = 0 then (0, { FFlags.none with nx := sticky, unf := sticky })
  else
    let top := e + Nat.log2 m
    let u := f.unitExp top
    let (q, exact, above, tie) := splitAt m e u sticky
    let n := if above || (tie && q % 2 = 1) then q + 1 else q
    let field := (u - f.minExp).toNat
    let b := field * 2 ^ f.frac + n
    let (q', _, above', tie') := splitAt m e (top - f.frac) sticky
    let n' := if above' || (tie' && q' % 2 = 1) then q' + 1 else q'
    let tiny := decide (top < -126) && (Config.tinyBeforeRounding || !(top = -127 && n' = 2 ^ (f.frac + 1)))
    if f.infBits ≤ b then (f.infBits, { FFlags.none with ovf := true, nx := true })
    else (b, { FFlags.none with nx := !exact, unf := !exact && tiny })

def FloatFmt.round (f : FloatFmt) (neg : Bool) (m : Nat) (e : Int) (sticky : Bool) : Nat × FFlags :=
  let (b, fl) := f.roundMag m e sticky
  (f.signed neg b, fl)

/-- The canonical NaN, with the invalid flag where `iv`. -/
def FloatFmt.nan (f : FloatFmt) (iv : Bool) : Nat × FFlags := (f.nanBits, { FFlags.none with nv := iv })

def FVal.isNan : FVal → Bool
  | .nan _ => true
  | _ => false

def FVal.isSnan : FVal → Bool
  | .nan s => s
  | _ => false

def FVal.neg : FVal → FVal
  | .nan s => .nan s
  | .inf n => .inf (!n)
  | .fin n m e => .fin (!n) m e

/-- The signed integer of a finite value in units of 2^u, for u at most its exponent. -/
def finUnits (neg : Bool) (m : Nat) (e u : Int) : Int :=
  let v : Int := m * 2 ^ (e - u).toNat
  if neg then -v else v

/-- An exact sum of two finite values, rounded once; an exact zero takes the sign IEEE gives it. -/
def FloatFmt.addFin (f : FloatFmt) (n1 : Bool) (m1 : Nat) (e1 : Int) (n2 : Bool) (m2 : Nat) (e2 : Int) : Nat × FFlags :=
  let u := min e1 e2
  let s := finUnits n1 m1 e1 u + finUnits n2 m2 e2 u
  if s = 0 then
    (f.signed (if m1 = 0 && m2 = 0 then n1 && n2 else false) 0, FFlags.none)
  else f.round (decide (s < 0)) s.natAbs u false

/-- a + b (R63). -/
def FloatFmt.add (f : FloatFmt) (a b : FVal) : Nat × FFlags :=
  match a, b with
  | .nan s, y => f.nan (s || y.isSnan)
  | x, .nan s => f.nan (s || x.isSnan)
  | .inf n, .inf n' => if n = n' then (f.signed n f.infBits, FFlags.none) else f.nan true
  | .inf n, .fin .. => (f.signed n f.infBits, FFlags.none)
  | .fin .., .inf n => (f.signed n f.infBits, FFlags.none)
  | .fin n m e, .fin n' m' e' => f.addFin n m e n' m' e'

/-- The exact product of two values, before rounding; the flag says that it is invalid. -/
def mulExact (a b : FVal) : FVal × Bool :=
  match a, b with
  | .nan s, y => (.nan s, s || y.isSnan)
  | x, .nan s => (.nan s, s || x.isSnan)
  | .inf n, .inf n' => (.inf (n != n'), false)
  | .inf n, .fin n' m _ => if m = 0 then (.nan false, true) else (.inf (n != n'), false)
  | .fin n m _, .inf n' => if m = 0 then (.nan false, true) else (.inf (n != n'), false)
  | .fin n m e, .fin n' m' e' => (.fin (n != n') (m * m') (e + e'), false)

/-- a * b (R63). -/
def FloatFmt.mul (f : FloatFmt) (a b : FVal) : Nat × FFlags :=
  match mulExact a b with
  | (.nan _, iv) => f.nan iv
  | (.inf n, _) => (f.signed n f.infBits, FFlags.none)
  | (.fin n m e, _) => f.round n m e false

/-- a * b + c with one rounding (R63). Whether 0 × infinity plus a quiet NaN is invalid IEEE 754 leaves to the implementation: a
constant without a body (log entry 5). -/
def FloatFmt.fma (f : FloatFmt) (a b c : FVal) : Nat × FFlags :=
  match mulExact a b with
  | (.nan _, iv) => f.nan (if !a.isNan && !b.isNan && c.isNan && !c.isSnan then Config.fmaSignals else iv || c.isSnan)
  | (p, _) => f.add p c

/-- a / b (R63). -/
def FloatFmt.div (f : FloatFmt) (a b : FVal) : Nat × FFlags :=
  match a, b with
  | .nan s, y => f.nan (s || y.isSnan)
  | x, .nan s => f.nan (s || x.isSnan)
  | .inf _, .inf _ => f.nan true
  | .inf n, .fin n' _ _ => (f.signed (n != n') f.infBits, FFlags.none)
  | .fin n _ _, .inf n' => (f.signed (n != n') 0, FFlags.none)
  | .fin n m e, .fin n' m' e' =>
    if m' = 0 then
      if m = 0 then f.nan true else (f.signed (n != n') f.infBits, FFlags.divZero)
    else if m = 0 then (f.signed (n != n') 0, FFlags.none)
    else
      let p := m * 2 ^ 64
      f.round (n != n') (p / m') (e - 64 - e') (p % m' ≠ 0)

/-- Integer square root, one result bit per unit of fuel. -/
def isqrt : Nat → Nat → Nat → Nat
  | 0, r, _ => r
  | k + 1, r, v => isqrt k (if (r + 2 ^ k) * (r + 2 ^ k) ≤ v then r + 2 ^ k else r) v

/-- The square root of a (R63). -/
def FloatFmt.sqrt (f : FloatFmt) (a : FVal) : Nat × FFlags :=
  match a with
  | .nan s => f.nan s
  | .inf n => if n then f.nan true else (f.infBits, FFlags.none)
  | .fin n m e =>
    if m = 0 then (f.signed n 0, FFlags.none)
    else if n then f.nan true
    else
      let odd := (e % 2).toNat
      let v := m * 2 ^ (64 + odd)
      let r := isqrt 50 0 v
      f.round false r ((e - odd - 64) / 2) (r * r ≠ v)

/-- a < b on values that are not NaN; `zeros`: -0 counts as below +0. -/
def fltLt (zeros : Bool) (a b : FVal) : Bool :=
  match a, b with
  | .nan _, _ => false
  | _, .nan _ => false
  | .inf n, .inf n' => n && !n'
  | .inf n, .fin .. => n
  | .fin .., .inf n => !n
  | .fin n m e, .fin n' m' e' =>
    if m = 0 && m' = 0 then zeros && n && !n'
    else
      let u := min e e'
      decide (finUnits n m e u < finUnits n' m' e' u)

/-- IEEE 754-2019 minimum (`mx` false) or maximum (R63) of two patterns. -/
def FloatFmt.minMax (f : FloatFmt) (mx : Bool) (x y : Nat) : Nat × FFlags :=
  let a := f.decode x
  let b := f.decode y
  if a.isNan || b.isNan then f.nan (a.isSnan || b.isSnan)
  else if fltLt true a b then (if mx then y else x, FFlags.none)
  else (if mx then x else y, FFlags.none)

/-- Comparisons of `VCMP` (R92): 0 eq, 1 lt, 2 le, 3 unordered. Log entry 12. -/
def FloatFmt.compare (f : FloatFmt) (sub : Nat) (x y : Nat) : Bool × FFlags :=
  let a := f.decode x
  let b := f.decode y
  let nan := a.isNan || b.isNan
  let snan := a.isSnan || b.isSnan
  let lt := fltLt false a b
  let gt := fltLt false b a
  match sub with
  | 0 => (!nan && !lt && !gt, { FFlags.none with nv := snan })
  | 1 => (!nan && lt, { FFlags.none with nv := snan || (nan && Config.compareSignals) })
  | 2 => (!nan && !gt, { FFlags.none with nv := snan || (nan && Config.compareSignals) })
  | _ => (nan, { FFlags.none with nv := snan })

/-- binary32 pattern to bfloat16, nearest even (R63). -/
def narrowRne (x : Nat) : Nat × FFlags :=
  match binary32.decode x with
  | .nan s => bfloat16.nan s
  | .inf n => (bfloat16.signed n bfloat16.infBits, FFlags.none)
  | .fin n m e => if m = 0 then (bfloat16.signed n 0, FFlags.none) else bfloat16.round n m e false

/-- binary32 pattern to bfloat16, stochastic (R57) with the 16-bit `rnd`: an exact zero gives +0, and a value beyond the largest
finite magnitude gives that magnitude and overflows, whatever `rnd` is (R55, R57 step 5). Infinities stay infinite. An inexact
result is inexact, and underflows where it is tiny, before or after rounding as `Config.tinyBeforeRounding` says (log entry 12). -/
def narrowSr (x rnd : Nat) : Nat × FFlags :=
  match binary32.decode x with
  | .nan s => bfloat16.nan s
  | .inf n => (bfloat16.signed n bfloat16.infBits, FFlags.none)
  | .fin n m e =>
    if m = 0 then (0, FFlags.none)
    else
      let top := e + Nat.log2 m
      let u := bfloat16.unitExp top
      let (q, exact, _, _) := splitAt m e u false
      let big := (u - bfloat16.minExp).toNat * 2 ^ bfloat16.frac + q
      let t := (splitAt m e (u - 16) false).1 % 2 ^ 16
      let r := if 2 ^ 16 ≤ t + rnd then q + 1 else q
      let b := (u - bfloat16.minExp).toNat * 2 ^ bfloat16.frac + r
      if bfloat16.infBits ≤ big || (big = bfloat16.maxBits && !exact) then
        (bfloat16.signed n bfloat16.maxBits, { FFlags.none with ovf := true, nx := true })
      else
        let tiny := if Config.tinyBeforeRounding then decide (top < -126) else decide (b < 2 ^ bfloat16.frac)
        (bfloat16.signed n b, { FFlags.none with nx := !exact, unf := !exact && tiny })

/-- bfloat16 pattern to binary32 (exact). -/
def widenBf (x : Nat) : Nat × FFlags :=
  match bfloat16.decode x with
  | .nan s => binary32.nan s
  | _ => (x * 2 ^ 16, FFlags.none)

/-- binary32 to int32: toward zero, saturating, NaN to 0 (R63). -/
def toInt32 (x : Nat) : Nat × FFlags :=
  match binary32.decode x with
  | .nan _ => (0, FFlags.invalid)
  | .inf n => (if n then 2 ^ 31 else 2 ^ 31 - 1, FFlags.invalid)
  | .fin n m e =>
    let (q, exact, _, _) := splitAt m e 0 false
    if n then
      if 2 ^ 31 < q then (2 ^ 31, FFlags.invalid)
      else (unsigned 32 (-(q : Int)), { FFlags.none with nx := !exact && Config.cvtSignalsInexact })
    else if 2 ^ 31 ≤ q then (2 ^ 31 - 1, FFlags.invalid)
    else (q, { FFlags.none with nx := !exact && Config.cvtSignalsInexact })

/-- int32 to binary32, nearest even. -/
def ofInt32 (x : Nat) : Nat × FFlags :=
  let v := signed 32 x
  if v = 0 then (0, FFlags.none) else binary32.round (decide (v < 0)) v.natAbs 0 false

/-! Special functions (R64): fixed point with 320 fraction bits, then one rounding. Log entry 13. -/

/-- Fraction bits of the working fixed point. -/
def sfuP : Nat := 320

/-- floor(ln 2 * 2^320). -/
def ln2Fixed : Nat := 0xb17217f7d1cf79abc9e3b39803f2f6af40f343267298b62d8a0d175b8baafa2be7b876206debac98

/-- floor(2 / sqrt(pi) * 2^320). -/
def twoOverSqrtPi : Nat := 0x120dd750429b6d11ae3a914fed7fd8688281341d7587cea2e7342b06199cc416180eb39f0b24e1e22

/-- Sum of x^k / k! from term index `k` on, with the running term `t`; x and the result in fixed point. -/
def expSeries : Nat → Nat → Nat → Nat → Nat
  | 0, _, _, _ => 0
  | n + 1, k, x, t => t + expSeries n (k + 1) x (t * x / 2 ^ sfuP / (k + 1))

/-- e^(-y) for fixed-point y, in fixed point. -/
def expNeg (y : Nat) : Nat :=
  let n := y / ln2Fixed
  let r := y % ln2Fixed
  2 ^ (2 * sfuP) / expSeries 100 0 r (2 ^ sfuP) / 2 ^ n

/-- Sum of z^(2k+1) / (2k+1). -/
def atanhSeries : Nat → Nat → Nat → Nat → Nat
  | 0, _, _, _ => 0
  | n + 1, k, z2, t => t / (2 * k + 1) + atanhSeries n (k + 1) z2 (t * z2 / 2 ^ sfuP)

/-- log2 of t in [1, 2), both in fixed point. -/
def log2Fixed (t : Nat) : Nat :=
  let z := (t - 2 ^ sfuP) * 2 ^ sfuP / (t + 2 ^ sfuP)
  2 * atanhSeries 110 0 (z * z / 2 ^ sfuP) z * 2 ^ sfuP / ln2Fixed

/-- Alternating series of erf without its leading factor; `t` is x^(2k+1) / k!. -/
def erfSeries : Nat → Nat → Nat → Nat → Int
  | 0, _, _, _ => 0
  | n + 1, k, x2, t => (t / (2 * k + 1) : Nat) - erfSeries n (k + 1) x2 (t * x2 / 2 ^ sfuP / (k + 1))

/-- A finite magnitude m * 2^e in fixed point (exact for every binary32 below 2^64). -/
def toFixed (m : Nat) (e : Int) : Nat := (splitAt m e (-(sfuP : Int)) false).1

def FloatFmt.exp2 (f : FloatFmt) (a : FVal) : Nat × FFlags :=
  match a with
  | .nan s => f.nan s
  | .inf n => (if n then 0 else f.infBits, FFlags.none)
  | .fin n m e =>
    if m = 0 then f.round false 1 0 false
    else if 8 < e + Nat.log2 m then
      if n then f.roundMag 1 (-1000) true else f.roundMag 1 1000 true
    else
      let y := toFixed m e
      let whole : Int := (y / 2 ^ sfuP : Nat)
      let fr := y % 2 ^ sfuP
      if fr = 0 then f.round false 1 (if n then -whole else whole) false
      else
        let k : Int := if n then -whole - 1 else whole
        let g := if n then 2 ^ sfuP - fr else fr
        f.round false (expSeries 100 0 (g * ln2Fixed / 2 ^ sfuP) (2 ^ sfuP)) (k - sfuP) true

def FloatFmt.log2 (f : FloatFmt) (a : FVal) : Nat × FFlags :=
  match a with
  | .nan s => f.nan s
  | .inf n => if n then f.nan true else (f.infBits, FFlags.none)
  | .fin n m e =>
    if m = 0 then (f.signed true f.infBits, FFlags.divZero)
    else if n then f.nan true
    else
      let top := e + Nat.log2 m
      let t := m * 2 ^ (sfuP - Nat.log2 m)
      let fr := if t = 2 ^ sfuP then 0 else log2Fixed t
      let v : Int := top * 2 ^ sfuP + fr
      if v = 0 then (0, FFlags.none)
      else if fr = 0 then f.round (decide (v < 0)) v.natAbs (-(sfuP : Int)) false
      else if 0 < v then f.round false v.natAbs (-(sfuP : Int)) true
      else f.round true (v.natAbs - 1) (-(sfuP : Int)) true

def FloatFmt.recip (f : FloatFmt) (a : FVal) : Nat × FFlags := f.div (.fin false 1 0) a

def FloatFmt.rsqrt (f : FloatFmt) (a : FVal) : Nat × FFlags :=
  match a with
  | .nan s => f.nan s
  | .inf n => if n then f.nan true else (0, FFlags.none)
  | .fin n m e =>
    if m = 0 then (f.signed n f.infBits, FFlags.divZero)
    else if n then f.nan true
    else
      let odd := (e % 2).toNat
      let d := m * 2 ^ odd
      let r := isqrt 120 0 (2 ^ 200 / d)
      f.round false r (-100 - (e - odd) / 2) (r * r * d ≠ 2 ^ 200)

def FloatFmt.tanh (f : FloatFmt) (a : FVal) : Nat × FFlags :=
  match a with
  | .nan s => f.nan s
  | .inf n => f.round n 1 0 false
  | .fin n m e =>
    if m = 0 then (f.signed n 0, FFlags.none)
    else if 6 ≤ e + Nat.log2 m then f.round n (2 ^ sfuP - 1) (-(sfuP : Int)) true
    else
      let u := expNeg (2 * toFixed m e)
      f.round n ((2 ^ sfuP - u) * 2 ^ sfuP / (2 ^ sfuP + u)) (-(sfuP : Int)) true

def FloatFmt.erf (f : FloatFmt) (a : FVal) : Nat × FFlags :=
  match a with
  | .nan s => f.nan s
  | .inf n => f.round n 1 0 false
  | .fin n m e =>
    if m = 0 then (f.signed n 0, FFlags.none)
    else if 3 ≤ e + Nat.log2 m then f.round n (2 ^ sfuP - 1) (-(sfuP : Int)) true
    else
      let x := toFixed m e
      f.round n ((erfSeries 500 0 (x * x / 2 ^ sfuP) x).toNat * twoOverSqrtPi / 2 ^ sfuP) (-(sfuP : Int)) true

/-- `VSFU` by its function select (R92). -/
def FloatFmt.sfu (f : FloatFmt) (sel : Nat) (x : Nat) : Nat × FFlags :=
  let a := f.decode x
  match sel with
  | 0 => f.exp2 a
  | 1 => f.log2 a
  | 2 => f.recip a
  | 3 => f.rsqrt a
  | 4 => f.tanh a
  | _ => f.erf a

end Sys2Proof.Machine
end

