-- ==== Sys2Proof/Machine/Formats.lean ====
section
/-! DEFINITION. Number formats of the arrays (R40-R62): MX elements, exact block sums, the long accumulator,
readout rounding, stochastic rounding and grid integers. -/

namespace Sys2Proof.Machine

/-- Format codes (R40) as numbers. -/
abbrev fmtBin32 : Nat := 0x00
abbrev fmtBf16 : Nat := 0x01
abbrev fmtE4M3 : Nat := 0x10
abbrev fmtE5M2 : Nat := 0x11
abbrev fmtE3M2 : Nat := 0x12
abbrev fmtE2M3 : Nat := 0x13
abbrev fmtE2M1 : Nat := 0x14
abbrev fmtInt8 : Nat := 0x18
abbrev fmtRg64 : Nat := 0x20
abbrev fmtSparse : Nat := 0x21

/-- The listed format codes (R40). -/
def fmtListed (c : Nat) : Bool := [0x00, 0x01, 0x10, 0x11, 0x12, 0x13, 0x14, 0x18, 0x20, 0x21].contains c

/-- The six MX formats. -/
def fmtIsMx (c : Nat) : Bool := [0x10, 0x11, 0x12, 0x13, 0x14, 0x18].contains c

/-- Bits of one element (R40). -/
def fmtBits (c : Nat) : Nat :=
  match c with
  | 0x00 => 32 | 0x01 => 16 | 0x12 => 6 | 0x13 => 6 | 0x14 => 4 | 0x20 => 64 | _ => 8

/-- Fraction width of an element, as the rounding of R55 uses it; MXINT8 is linear over all its codes. -/
def fmtFrac (c : Nat) : Nat :=
  match c with
  | 0x00 => 23 | 0x01 => 7 | 0x10 => 3 | 0x11 => 2 | 0x12 => 2 | 0x13 => 3 | 0x14 => 1 | _ => 7

/-- Exponent of the element grid, the least subnormal (R41, R46). -/
def fmtGrid (c : Nat) : Int :=
  match c with
  | 0x00 => -149 | 0x01 => -133 | 0x10 => -9 | 0x11 => -16 | 0x12 => -4 | 0x13 => -3 | 0x14 => -1 | _ => -6

/-- Code of the largest finite magnitude (R41). -/
def fmtMax (c : Nat) : Nat :=
  match c with
  | 0x00 => 0x7F7FFFFF | 0x01 => 0x7F7F | 0x10 => 0x7E | 0x11 => 0x7B | 0x12 => 0x1F | 0x13 => 0x1F | 0x14 => 0x7 | _ => 127

/-- `emax` of R56. -/
def fmtEmax (c : Nat) : Int :=
  match c with
  | 0x10 => 8 | 0x11 => 15 | 0x12 => 4 | 0x13 => 2 | 0x14 => 2 | _ => 0

/-- An input element: a NaN, an infinity, or a multiple of the format's element grid (R46). -/
inductive Elem where
  | nan
  | inf (neg : Bool)
  | units (v : Int)
deriving DecidableEq, Repr

/-- Magnitude of a code without its sign, in units of the least subnormal. -/
def codeUnits (frac m : Nat) : Nat :=
  let e := m / 2 ^ frac
  let f := m % 2 ^ frac
  if e = 0 then f else (f + 2 ^ frac) * 2 ^ (e - 1)

/-- The value of an element code in units of its grid (R41, R44, R46). -/
def elemOf (c code : Nat) : Elem :=
  if c = fmtInt8 then .units (signed 8 (code % 256))
  else
    let w := fmtBits c
    let neg := bits code (w - 1) 1 = 1
    let m := bits code 0 (w - 1)
    let v : Int := codeUnits (fmtFrac c) m
    let fin := Elem.units (if neg then -v else v)
    match c with
    | 0x10 => if m = 0x7F then .nan else fin
    | 0x11 => if m = 0x7C then .inf neg else if 0x7C < m then .nan else fin
    | 0x01 => if m = 0x7F80 then .inf neg else if 0x7F80 < m then .nan else fin
    | 0x00 => if m = 0x7F800000 then .inf neg else if 0x7F800000 < m then .nan else fin
    | _ => fin

/-- Flag byte bits (R59). -/
abbrev flNan : BitVec 8 := 0x01
abbrev flInfPos : BitVec 8 := 0x02
abbrev flInfNeg : BitVec 8 := 0x04
abbrev flRange : BitVec 8 := 0x08
abbrev flOvf : BitVec 8 := 0x10
abbrev flUnf : BitVec 8 := 0x20

/-- Both signs of infinity set `NAN` (R59). -/
def flMerge (f : BitVec 8) : BitVec 8 :=
  if f &&& flInfPos ≠ 0 && f &&& flInfNeg ≠ 0 then f ||| flNan else f

/-- One product of the array: an exact number, or the flag it sets instead (R47, R59). R59 speaks of a non-zero finite value times
an infinity; a product of two infinities takes the flag of its sign likewise (log entry 75). -/
def elemMul (a b : Elem) : Int × BitVec 8 :=
  match a, b with
  | .nan, _ => (0, flNan)
  | _, .nan => (0, flNan)
  | .inf n, .inf n' => (0, if n = n' then flInfPos else flInfNeg)
  | .inf n, .units v => (0, if v = 0 then flNan else if n = decide (v < 0) then flInfPos else flInfNeg)
  | .units v, .inf n => (0, if v = 0 then flNan else if n = decide (v < 0) then flInfPos else flInfNeg)
  | .units v, .units w => (v * w, 0)

/-- A long accumulator with its side word (R49). -/
structure AccCell where
  L     : BitVec 288
  wrap  : Int
  flags : BitVec 8
deriving DecidableEq, Repr

def AccCell.zero : AccCell := ⟨0, 0, 0⟩

/-- v * 2^e truncated toward zero (R50 step 2, R53). -/
def truncScale (v e : Int) : Int :=
  if 0 ≤ e then v * 2 ^ e.toNat
  else
    let m : Int := (v.natAbs / 2 ^ (-e).toNat : Nat)
    if v < 0 then -m else m

/-- Saturation of a contribution (R50 step 3, R53) with its flag. -/
def clipContrib (c : Int) : Int × BitVec 8 :=
  let lim : Int := 2 ^ 280 - 1
  if lim < c then (lim, flRange) else if c < -lim then (-lim, flRange) else (c, 0)

/-- Add a contribution with a wrap change of its own; none where `WRAP` would leave its range (R50 steps 4-5, R51, R83). -/
def AccCell.add (a : AccCell) (c : Int) (w : Int) (fl : BitVec 8) : Option AccCell :=
  let t := a.L.toInt + c
  let k : Int := if 2 ^ 287 ≤ t then 1 else if t < -(2 ^ 287) then -1 else 0
  let wr := a.wrap + w + k
  if -32768 ≤ wr ∧ wr ≤ 32767 then some ⟨BitVec.ofInt 288 t, wr, flMerge (a.flags ||| fl)⟩ else none

/-- The exact integer an accumulator holds (R51). -/
def AccCell.total (a : AccCell) : Int := a.L.toInt + a.wrap * 2 ^ 288

/-- The 40-byte image (R52). -/
def AccCell.image (a : AccCell) : Bytes :=
  leBytes 36 a.L.toNat ++ leBytes 2 (unsigned 16 a.wrap) ++ leBytes 1 (a.flags.toNat % 64) ++ [0]

/-- The accumulator of an image; byte 39 is ignored (R52). -/
def AccCell.ofImage (b : Bytes) : AccCell :=
  ⟨BitVec.ofNat 288 (leAt b 0 36), signed 16 (leAt b 36 2), BitVec.ofNat 8 (leAt b 38 1 % 64)⟩

/-- One cell's sums over a 32-k block: the exact sum of each sub-pass and the flags (R47, R48).
`part` says which sub-pass an A element belongs to; its units are scaled to that sub-pass's grid. -/
def blockSums (part : Nat → Nat) (fa fb : Nat) : List Nat → List Nat → Int × Int × BitVec 8
  | a :: as, b :: bs =>
    let (s0, s1, fl) := blockSums part fa fb as bs
    let (p, f) := elemMul (elemOf fa a) (elemOf fb b)
    if part a = 0 then (s0 + p, s1, fl ||| f) else (s0, s1 + p / 2 ^ 15, fl ||| f)
  | _, _ => (0, 0, 0)

/-- Whether the pair runs in two sub-passes (R48). -/
def splitPair (fa fb : Nat) : Bool := fa = fmtE5M2 && fb = fmtE5M2

/-- Additions one 32-k block makes to an accumulator (R48, R51, R69). -/
def blockAdds (fa fb : Nat) : Nat :=
  if fa = fmtBf16 then 32 else if splitPair fa fb then 2 else 1

/-- Add one MX block's sums into a cell (R50). -/
def AccCell.addMx (c : AccCell) (fa fb : Nat) (as bs : List Nat) (xa xb : Nat) : Option AccCell :=
  if xa = 0xFF ∨ xb = 0xFF then c.add 0 0 flNan
  else
    let part : Nat → Nat := fun a => if splitPair fa fb ∧ 16 ≤ bits a 2 5 then 1 else 0
    let (s0, s1, fl) := blockSums part fa fb as bs
    let sc : Int := ((xa : Int) - 127) + ((xb : Int) - 127) + 140 + fmtGrid fb
    let (c0, f0) := clipContrib (truncScale s0 (fmtGrid fa + sc))
    if splitPair fa fb then
      let (c1, f1) := clipContrib (truncScale s1 (-1 + sc))
      match c.add c0 0 (fl ||| f0) with
      | some c' => c'.add c1 0 f1
      | none => none
    else c.add c0 0 (fl ||| f0)

/-- The quantised products of a bfloat16 block, summed in the cell register (R53, R69). -/
def bfSum (w : Int) : List Nat → List Nat → Int × BitVec 8
  | a :: as, b :: bs =>
    let (s, fl) := bfSum w as bs
    let (p, f) := elemMul (elemOf fmtBf16 a) (elemOf fmtBf16 b)
    let (c, g) := clipContrib (truncScale p (-266 + 140 - w))
    (s + c, fl ||| f ||| g)
  | _, _ => (0, 0)

/-- Add one bfloat16 block into a cell (R53). -/
def AccCell.addBf (c : AccCell) (w : Int) (as bs : List Nat) : Option AccCell :=
  let (s, fl) := bfSum w as bs
  c.add s 0 fl

/-- Philox4x32-10 rounds (R58); the first argument counts the rounds left. -/
def philoxRounds : Nat → Nat → Nat → Nat × Nat × Nat × Nat → Nat × Nat × Nat × Nat
  | 0, _, _, c => c
  | n + 1, k0, k1, (c0, c1, c2, c3) =>
    let p0 := 0xD2511F53 * c0
    let p1 := 0xCD9E8D57 * c2
    philoxRounds n ((k0 + 0x9E3779B9) % 2 ^ 32) ((k1 + 0xBB67AE85) % 2 ^ 32)
      (Nat.xor (Nat.xor (p1 / 2 ^ 32) c1) k0, p1 % 2 ^ 32, Nat.xor (Nat.xor (p0 / 2 ^ 32) c3) k1, p0 % 2 ^ 32)

/-- What keys the random value of an element (R58). -/
structure RndKey where
  seed    : Nat
  tensor  : Nat
  purpose : Nat
  step    : Nat
  mb      : Nat
deriving DecidableEq, Repr

/-- The 16-bit random value of element index `i` (R58). -/
def rndOf (k : RndKey) (i : Nat) : Nat :=
  let (x0, x1, x2, x3) := philoxRounds 10 (bits k.seed 0 32) (bits k.seed 32 32)
    (bits i 3 32, bits i 35 5 + (k.tensor % 2 ^ 24) * 2 ^ 5 + (k.purpose % 8) * 2 ^ 29, k.step % 2 ^ 32, k.mb % 2 ^ 16)
  bits (x0 + x1 * 2 ^ 32 + x2 * 2 ^ 64 + x3 * 2 ^ 96) (16 * (i % 8)) 16

/-- An exact value, m * 2^e with a sign. -/
structure Exact where
  neg : Bool
  m   : Nat
  e   : Int
deriving DecidableEq, Repr

def Exact.ofInt (v e : Int) : Exact := ⟨decide (v < 0), v.natAbs, e⟩

/-- Compare magnitudes: a < b. -/
def Exact.magLt (a b : Exact) : Bool :=
  let u := min a.e b.e
  decide (a.m * 2 ^ (a.e - u).toNat < b.m * 2 ^ (b.e - u).toNat)

/-- A code with its sign applied (R41). -/
def signCode (c : Nat) (neg : Bool) (code : Nat) : Nat :=
  if neg then (if c = fmtInt8 then (256 - code) % 256 else code + 2 ^ (fmtBits c - 1)) else code

/-- Round an exact value into an element format: nearest even (R55), or stochastic with `rnd` (R57). -/
def roundElem (c : Nat) (rnd : Option Nat) (v : Exact) : Nat × BitVec 8 :=
  if v.m = 0 then (0, 0)
  else if (Exact.mk false (codeUnits (fmtFrac c) (fmtMax c)) (fmtGrid c)).magLt v then (signCode c v.neg (fmtMax c), flOvf)
  else
    let u := max (v.e + Nat.log2 v.m - fmtFrac c) (fmtGrid c)
    let (q, exact, above, tie) := splitAt v.m v.e u false
    let up :=
      match rnd with
      | none => above || (tie && q % 2 = 1)
      | some r => !exact && decide (2 ^ 16 ≤ (splitAt v.m v.e (u - 16) false).1 % 2 ^ 16 + r)
    let code := (u - fmtGrid c).toNat * 2 ^ fmtFrac c + (if up then q + 1 else q)
    if code = 0 then (if c = fmtInt8 then 0 else signCode c v.neg 0, flUnf) else (signCode c v.neg code, 0)

/-- Conversion to RG64 on grid exponent `g` (R62): a value beyond ±(2^47 - 1) units before rounding saturates, as R55 has it (log
entry 75). -/
def toRg64 (g : Int) (v : Exact) : Int × BitVec 8 :=
  let (q, exact, above, tie) := splitAt v.m v.e g false
  let n := if above || (tie && q % 2 = 1) then q + 1 else q
  let lim := 2 ^ 47 - 1
  if lim < q || (q = lim && !exact) then (if v.neg then -lim else lim, flOvf)
  else (if v.neg then -(n : Int) else n, if n = 0 && v.m ≠ 0 then flUnf else 0)

/-- What readout finds in an accumulator (R60), in order of precedence. -/
inductive ReadVal where
  | nan
  | inf (neg : Bool)
  | beyond (neg : Bool)      -- WRAP is not 0
  | fin (v : Exact)
deriving DecidableEq, Repr

def AccCell.read (a : AccCell) (w : Int) : ReadVal :=
  let p := a.flags &&& flInfPos ≠ 0
  let n := a.flags &&& flInfNeg ≠ 0
  if a.flags &&& flNan ≠ 0 || (p && n) then .nan
  else if p then .inf false
  else if n then .inf true
  else if a.wrap ≠ 0 then .beyond (decide (a.wrap < 0))
  else .fin (Exact.ofInt a.L.toInt (w - 140))

/-- The flag byte readout starts from: sticky flags, `OVF` for a non-zero `WRAP`, `NAN` for both infinities (R59, R60). -/
def AccCell.readFlags (a : AccCell) : BitVec 8 :=
  flMerge a.flags ||| (if a.wrap ≠ 0 then flOvf else 0)

/-- Readout to binary32 or bfloat16 (R54-R57, R60). -/
def readScalar (c : Nat) (w : Int) (rnd : Option Nat) (a : AccCell) : Nat × BitVec 8 :=
  let f : FloatFmt := ⟨fmtFrac c⟩
  match a.read w with
  | .nan => (f.nanBits, a.readFlags)
  | .inf n => (f.signed n f.infBits, a.readFlags)
  | .beyond n => (f.signed n f.maxBits, a.readFlags)
  | .fin v => let (b, fl) := roundElem c rnd v; (b, a.readFlags ||| fl)

/-- Readout to RG64 (R54, R60, R62): the 64-bit pattern and the flag byte. -/
def readRg64 (g : Int) (w : Int) (a : AccCell) : Nat × BitVec 8 :=
  match a.read w with
  | .nan => (0, a.readFlags)
  | .inf _ => (0, a.readFlags)
  | .beyond n => (unsigned 64 (if n then -(2 ^ 47 - 1) else 2 ^ 47 - 1), a.readFlags)
  | .fin v => let (n, fl) := toRg64 g v; (unsigned 64 n, a.readFlags ||| fl)

/-- The scale exponent for the largest magnitude (R56); none is an accumulator beyond its window. -/
def scaleExp (c : Nat) : Option Exact → Int
  | none => 127
  | some v => if v.m = 0 then -127 else max (-127) (min 127 (v.e + Nat.log2 v.m - fmtEmax c))

/-- The largest magnitude of a block, or none when an accumulator is beyond its window (R56). -/
def blockMax (w : Int) : List AccCell → Option Exact
  | [] => some ⟨false, 0, 0⟩
  | a :: t =>
    match blockMax w t, a.read w with
    | none, _ => none
    | _, .beyond _ => none
    | some m, .fin v => some (if m.magLt v then v else m)
    | some m, _ => some m

/-- Whether an accumulator reads out as a NaN or an infinity. -/
def AccCell.special (a : AccCell) : Bool := a.flags &&& (flNan ||| flInfPos ||| flInfNeg) ≠ 0

/-- One element of an MX block at scale exponent `x` (R55-R57, R60). -/
def readMxElem (c : Nat) (w x : Int) (rnd : Option Nat) (a : AccCell) : Nat × BitVec 8 :=
  match a.read w with
  | .fin v => let (b, fl) := roundElem c rnd { v with e := v.e - x }; (b, a.readFlags ||| fl)
  | .beyond n => (signCode c n (fmtMax c), a.readFlags)
  | _ => (0, a.readFlags)

/-- A block of element codes as bytes (R42). -/
def packBlock (c : Nat) (codes : List Nat) : Bytes :=
  let w := fmtBits c
  leBytes ((codes.length * w + 7) / 8) (codes.foldr (fun x acc => x % 2 ^ w + acc * 2 ^ w) 0)

/-- Element code `i` of a packed block (R42). -/
def unpackAt (c : Nat) (block : Nat) (i : Nat) : Nat := bits block (i * fmtBits c) (fmtBits c)

/-- Bytes of 32 elements (R42, R70). -/
def blockBytes (c : Nat) : Nat := 4 * fmtBits c

/-- The exact value of an element times its block scale; none for a NaN or an infinity (R41, R43). -/
def scaledValue (c code x : Nat) : Option Exact :=
  if fmtIsMx c ∧ x = 0xFF then none
  else
    match elemOf c code with
    | .units v => some (Exact.ofInt v (fmtGrid c + (if fmtIsMx c then (x : Int) - 127 else 0)))
    | _ => none

end Sys2Proof.Machine
end

