-- ==== Sys2Proof/Machine/RegTable.lean ====
section
/-! DEFINITION. The register map of the module: every register of the chapters' register sections, with its
offset, replication, reset value, strobe group and fields (R8, R313, R314 and each block's own rule). -/

namespace Sys2Proof.Machine

/-- Access types of R8. -/
inductive Acc where
  | rw | ro | w1c | wo | rws | rsv
deriving DecidableEq, Repr

/-- What applies a register's staged fields (R328; `region`: `HBM_CTL.REGION_APPLY`, R271). -/
inductive Grp where
  | none | grove | region | mg (n : Nat)
deriving DecidableEq, Repr

/-- One field of a register: lowest bit, width, access. -/
structure FieldDef where
  lo : Nat
  width : Nat
  acc : Acc
deriving DecidableEq, Repr

/-- One register of the map, replicated n1 times at stride s1 and, within each, n2 times at stride s2. -/
structure RegDef where
  base : Nat
  n1 : Nat
  s1 : Nat
  n2 : Nat
  s2 : Nat
  reset : Word
  group : Grp
  fields : List FieldDef
deriving DecidableEq, Repr

/-- A named field: register offset, lowest bit, width. -/
structure Fld where
  off : Nat
  lo : Nat
  width : Nat
deriving DecidableEq, Repr

/-- `CLK_STATUS` (R39). -/
abbrev R.CLK_STATUS : Nat := 0x10000
abbrev F.CLK_STATUS_PLL_LOCK : Fld := ⟨0x10000, 0, 1⟩
abbrev F.CLK_STATUS_REF_PRESENT : Fld := ⟨0x10000, 1, 1⟩
abbrev F.CLK_STATUS_SEAM_W_SLIP : Fld := ⟨0x10000, 8, 1⟩
abbrev F.CLK_STATUS_SEAM_E_SLIP : Fld := ⟨0x10000, 9, 1⟩
abbrev F.CLK_STATUS_SEAM_V_SLIP : Fld := ⟨0x10000, 10, 1⟩
abbrev F.CLK_STATUS_PLL_UNLOCK_SEEN : Fld := ⟨0x10000, 16, 1⟩
/-- `CLK_CFG` (R39). -/
abbrev R.CLK_CFG : Nat := 0x10010
abbrev F.CLK_CFG_MULT : Fld := ⟨0x10010, 0, 8⟩
abbrev F.CLK_CFG_DIV_ACLK : Fld := ⟨0x10010, 8, 4⟩
abbrev F.CLK_CFG_DIV_CCLK : Fld := ⟨0x10010, 12, 4⟩
abbrev F.CLK_CFG_DIV_NCLK : Fld := ⟨0x10010, 16, 4⟩
abbrev F.CLK_CFG_DIV_PCLK : Fld := ⟨0x10010, 20, 4⟩
/-- `CLK_SEAM_PHASE` (R39). -/
abbrev R.CLK_SEAM_PHASE : Nat := 0x10020
abbrev F.CLK_SEAM_PHASE_W_SEP : Fld := ⟨0x10020, 0, 4⟩
abbrev F.CLK_SEAM_PHASE_E_SEP : Fld := ⟨0x10020, 4, 4⟩
abbrev F.CLK_SEAM_PHASE_V_SEP : Fld := ⟨0x10020, 8, 4⟩
abbrev F.CLK_SEAM_PHASE_W_UP : Fld := ⟨0x10020, 12, 1⟩
abbrev F.CLK_SEAM_PHASE_E_UP : Fld := ⟨0x10020, 13, 1⟩
abbrev F.CLK_SEAM_PHASE_V_UP : Fld := ⟨0x10020, 14, 1⟩
/-- `CLK_PCLK_COUNT_LO` (R39). -/
abbrev R.CLK_PCLK_COUNT_LO : Nat := 0x10030
abbrev F.CLK_PCLK_COUNT_LO_COUNT_LO : Fld := ⟨0x10030, 0, 32⟩
/-- `CLK_PCLK_COUNT_HI` (R39). -/
abbrev R.CLK_PCLK_COUNT_HI : Nat := 0x10034
abbrev F.CLK_PCLK_COUNT_HI_COUNT_HI : Fld := ⟨0x10034, 0, 32⟩
/-- `TILE_STATUS` (R95). -/
abbrev R.TILE_STATUS : Nat := 0x200000
abbrev F.TILE_STATUS_CTX0_STATE : Fld := ⟨0x200000, 0, 2⟩
abbrev F.TILE_STATUS_CTX1_STATE : Fld := ⟨0x200000, 2, 2⟩
abbrev F.TILE_STATUS_A_OWNER : Fld := ⟨0x200000, 4, 2⟩
abbrev F.TILE_STATUS_B_OWNER : Fld := ⟨0x200000, 6, 2⟩
abbrev F.TILE_STATUS_ECC_CE : Fld := ⟨0x200000, 8, 1⟩
abbrev F.TILE_STATUS_ECC_UE : Fld := ⟨0x200000, 9, 1⟩
abbrev F.TILE_STATUS_FAULT : Fld := ⟨0x200000, 10, 1⟩
/-- `TILE_CTL` (R95). -/
abbrev R.TILE_CTL : Nat := 0x200004
abbrev F.TILE_CTL_CTX0_EN : Fld := ⟨0x200004, 0, 1⟩
abbrev F.TILE_CTL_CTX1_EN : Fld := ⟨0x200004, 1, 1⟩
abbrev F.TILE_CTL_CLR_FAULT : Fld := ⟨0x200004, 2, 1⟩
/-- `TILE_FAULT` (R95). -/
abbrev R.TILE_FAULT : Nat := 0x200008
abbrev F.TILE_FAULT_CODE : Fld := ⟨0x200008, 0, 8⟩
abbrev F.TILE_FAULT_CTX : Fld := ⟨0x200008, 8, 1⟩
abbrev F.TILE_FAULT_AGENT : Fld := ⟨0x200008, 9, 3⟩
abbrev F.TILE_FAULT_DESC_LINE : Fld := ⟨0x200008, 12, 15⟩
/-- `TILE_CTX0_ENTRY` (R95). -/
abbrev R.TILE_CTX0_ENTRY : Nat := 0x200010
abbrev F.TILE_CTX0_ENTRY_ENTRY : Fld := ⟨0x200010, 0, 21⟩
/-- `TILE_CTX1_ENTRY` (R95). -/
abbrev R.TILE_CTX1_ENTRY : Nat := 0x200014
abbrev F.TILE_CTX1_ENTRY_ENTRY : Fld := ⟨0x200014, 0, 21⟩
/-- `TILE_SEED_LO` (R95). -/
abbrev R.TILE_SEED_LO : Nat := 0x200018
abbrev F.TILE_SEED_LO_SEED_LO : Fld := ⟨0x200018, 0, 32⟩
/-- `TILE_SEED_HI` (R95). -/
abbrev R.TILE_SEED_HI : Nat := 0x20001C
abbrev F.TILE_SEED_HI_SEED_HI : Fld := ⟨0x20001C, 0, 32⟩
/-- `TILE_KEY_STEP0` (R95). -/
abbrev R.TILE_KEY_STEP0 : Nat := 0x200020
abbrev F.TILE_KEY_STEP0_STEP : Fld := ⟨0x200020, 0, 32⟩
/-- `TILE_KEY_STEP1` (R95). -/
abbrev R.TILE_KEY_STEP1 : Nat := 0x200024
abbrev F.TILE_KEY_STEP1_STEP : Fld := ⟨0x200024, 0, 32⟩
/-- `TILE_KEY_MB` (R95). -/
abbrev R.TILE_KEY_MB : Nat := 0x200028
abbrev F.TILE_KEY_MB_MB0 : Fld := ⟨0x200028, 0, 16⟩
abbrev F.TILE_KEY_MB_MB1 : Fld := ⟨0x200028, 16, 16⟩
/-- `TILE_ECC_CE_COUNT` (R95). -/
abbrev R.TILE_ECC_CE_COUNT : Nat := 0x200030
abbrev F.TILE_ECC_CE_COUNT_SRAM_CE : Fld := ⟨0x200030, 0, 16⟩
abbrev F.TILE_ECC_CE_COUNT_FLIT_CE : Fld := ⟨0x200030, 16, 16⟩
/-- `TILE_A_RETIRED_LO` (R95). -/
abbrev R.TILE_A_RETIRED_LO : Nat := 0x200040
abbrev F.TILE_A_RETIRED_LO_COUNT_LO : Fld := ⟨0x200040, 0, 32⟩
/-- `TILE_A_RETIRED_HI` (R95). -/
abbrev R.TILE_A_RETIRED_HI : Nat := 0x200044
abbrev F.TILE_A_RETIRED_HI_COUNT_HI : Fld := ⟨0x200044, 0, 32⟩
/-- `TILE_B_RETIRED_LO` (R95). -/
abbrev R.TILE_B_RETIRED_LO : Nat := 0x200048
abbrev F.TILE_B_RETIRED_LO_COUNT_LO : Fld := ⟨0x200048, 0, 32⟩
/-- `TILE_B_RETIRED_HI` (R95). -/
abbrev R.TILE_B_RETIRED_HI : Nat := 0x20004C
abbrev F.TILE_B_RETIRED_HI_COUNT_HI : Fld := ⟨0x20004C, 0, 32⟩
/-- `CTL_UND_CFG` (R118). -/
abbrev R.CTL_UND_CFG : Nat := 0x640000
abbrev F.CTL_UND_CFG_UNITS : Fld := ⟨0x640000, 0, 7⟩
/-- `CTL_UND_FREE` (R118). -/
abbrev R.CTL_UND_FREE : Nat := 0x640004
abbrev F.CTL_UND_FREE_LOW : Fld := ⟨0x640004, 0, 6⟩
abbrev F.CTL_UND_FREE_MIN_FREE : Fld := ⟨0x640004, 6, 10⟩
abbrev F.CTL_UND_FREE_MISROUTE : Fld := ⟨0x640004, 16, 8⟩
/-- `CTL_GRV_CFG` (R118). -/
abbrev R.CTL_GRV_CFG : Nat := 0x644000
abbrev F.CTL_GRV_CFG_NREG : Fld := ⟨0x644000, 0, 7⟩
abbrev F.CTL_GRV_CFG_SG : Fld := ⟨0x644000, 7, 4⟩
abbrev F.CTL_GRV_CFG_JOINED : Fld := ⟨0x644000, 11, 1⟩
abbrev F.CTL_GRV_CFG_JOB_ID : Fld := ⟨0x644000, 12, 16⟩
/-- `CTL_GRV_USE` (R118). -/
abbrev R.CTL_GRV_USE : Nat := 0x644004
abbrev F.CTL_GRV_USE_NEXC : Fld := ⟨0x644004, 0, 7⟩
abbrev F.CTL_GRV_USE_MAPPED : Fld := ⟨0x644004, 7, 13⟩
/-- `CTL_GRV_REGION_W0` (R118). -/
abbrev R.CTL_GRV_REGION_W0 : Nat := 0x644100
abbrev F.CTL_GRV_REGION_W0_VALID : Fld := ⟨0x644100, 0, 1⟩
abbrev F.CTL_GRV_REGION_W0_REMOTE : Fld := ⟨0x644100, 1, 1⟩
abbrev F.CTL_GRV_REGION_W0_PINNED : Fld := ⟨0x644100, 2, 1⟩
abbrev F.CTL_GRV_REGION_W0_X0 : Fld := ⟨0x644100, 8, 6⟩
abbrev F.CTL_GRV_REGION_W0_Y0 : Fld := ⟨0x644100, 14, 7⟩
/-- `CTL_GRV_REGION_W1` (R118). -/
abbrev R.CTL_GRV_REGION_W1 : Nat := 0x644104
abbrev F.CTL_GRV_REGION_W1_FW : Fld := ⟨0x644104, 0, 6⟩
abbrev F.CTL_GRV_REGION_W1_FH : Fld := ⟨0x644104, 6, 7⟩
abbrev F.CTL_GRV_REGION_W1_LW : Fld := ⟨0x644104, 13, 6⟩
abbrev F.CTL_GRV_REGION_W1_LH : Fld := ⟨0x644104, 19, 7⟩
/-- `CTL_GRV_REGION_W2` (R118). -/
abbrev R.CTL_GRV_REGION_W2 : Nat := 0x644108
abbrev F.CTL_GRV_REGION_W2_NODE : Fld := ⟨0x644108, 0, 16⟩
abbrev F.CTL_GRV_REGION_W2_PEER_REGION : Fld := ⟨0x644108, 16, 6⟩
abbrev F.CTL_GRV_REGION_W2_VIA : Fld := ⟨0x644108, 22, 3⟩
/-- `CTL_GRV_EXC_W0` (R118). -/
abbrev R.CTL_GRV_EXC_W0 : Nat := 0x644800
abbrev F.CTL_GRV_EXC_W0_VALID : Fld := ⟨0x644800, 0, 1⟩
abbrev F.CTL_GRV_EXC_W0_REGION : Fld := ⟨0x644800, 1, 6⟩
abbrev F.CTL_GRV_EXC_W0_LX : Fld := ⟨0x644800, 7, 8⟩
abbrev F.CTL_GRV_EXC_W0_LY : Fld := ⟨0x644800, 15, 8⟩
/-- `CTL_GRV_EXC_W1` (R118). -/
abbrev R.CTL_GRV_EXC_W1 : Nat := 0x644804
abbrev F.CTL_GRV_EXC_W1_X : Fld := ⟨0x644804, 0, 6⟩
abbrev F.CTL_GRV_EXC_W1_Y : Fld := ⟨0x644804, 6, 7⟩
/-- `SP_WS_STATUS` (R150). -/
abbrev R.SP_WS_STATUS : Nat := 0xA0000
abbrev F.SP_WS_STATUS_MISMATCH : Fld := ⟨0xA0000, 0, 1⟩
abbrev F.SP_WS_STATUS_TIMEOUT : Fld := ⟨0xA0000, 1, 1⟩
abbrev F.SP_WS_STATUS_SET_FAIL : Fld := ⟨0xA0000, 2, 1⟩
abbrev F.SP_WS_STATUS_REL_EXCESS : Fld := ⟨0xA0000, 3, 1⟩
/-- `SP_WS_SLOT` (R150). -/
abbrev R.SP_WS_SLOT : Nat := 0xA0004
abbrev F.SP_WS_SLOT_ACTIVE : Fld := ⟨0xA0004, 0, 16⟩
abbrev F.SP_WS_SLOT_PENDING : Fld := ⟨0xA0004, 16, 16⟩
/-- `SP_WS_CFG` (R150). -/
abbrev R.SP_WS_CFG : Nat := 0xA0010
abbrev F.SP_WS_CFG_CHUNK_TIMEOUT : Fld := ⟨0xA0010, 0, 5⟩
abbrev F.SP_WS_CFG_REQ_WINDOW : Fld := ⟨0xA0010, 8, 4⟩
/-- `SP_WS_VERIFIED_LO` (R150). -/
abbrev R.SP_WS_VERIFIED_LO : Nat := 0xA0020
abbrev F.SP_WS_VERIFIED_LO_COUNT_LO : Fld := ⟨0xA0020, 0, 32⟩
/-- `SP_WS_VERIFIED_HI` (R150). -/
abbrev R.SP_WS_VERIFIED_HI : Nat := 0xA0024
abbrev F.SP_WS_VERIFIED_HI_COUNT_HI : Fld := ⟨0xA0024, 0, 32⟩
/-- `SP_WS_ERR_COUNT` (R150). -/
abbrev R.SP_WS_ERR_COUNT : Nat := 0xA0028
abbrev F.SP_WS_ERR_COUNT_MISMATCH : Fld := ⟨0xA0028, 0, 10⟩
abbrev F.SP_WS_ERR_COUNT_TIMEOUTS : Fld := ⟨0xA0028, 10, 10⟩
abbrev F.SP_WS_ERR_COUNT_DUP : Fld := ⟨0xA0028, 20, 12⟩
/-- `SP_WS_GATE_WAIT_LO` (R150). -/
abbrev R.SP_WS_GATE_WAIT_LO : Nat := 0xA0030
abbrev F.SP_WS_GATE_WAIT_LO_COUNT_LO : Fld := ⟨0xA0030, 0, 32⟩
/-- `SP_WS_GATE_WAIT_HI` (R150). -/
abbrev R.SP_WS_GATE_WAIT_HI : Nat := 0xA0034
abbrev F.SP_WS_GATE_WAIT_HI_COUNT_HI : Fld := ⟨0xA0034, 0, 32⟩
/-- `SP_WS_INGRESS_PEAK` (R150). -/
abbrev R.SP_WS_INGRESS_PEAK : Nat := 0xA0040
abbrev F.SP_WS_INGRESS_PEAK_PEAK_EVEN : Fld := ⟨0xA0040, 0, 15⟩
abbrev F.SP_WS_INGRESS_PEAK_PEAK_ODD : Fld := ⟨0xA0040, 16, 15⟩
/-- `SP_WS_GRV_CFG` (R150). -/
abbrev R.SP_WS_GRV_CFG : Nat := 0xA0100
abbrev F.SP_WS_GRV_CFG_GATE_SEM : Fld := ⟨0xA0100, 0, 4⟩
abbrev F.SP_WS_GRV_CFG_BASE_SUB : Fld := ⟨0xA0100, 4, 1⟩
abbrev F.SP_WS_GRV_CFG_BASE_JOB : Fld := ⟨0xA0100, 5, 16⟩
abbrev F.SP_WS_GRV_CFG_BASE_SLOT : Fld := ⟨0xA0100, 21, 1⟩
/-- `SP_WS_GRV_REL` (R150). -/
abbrev R.SP_WS_GRV_REL : Nat := 0xA0104
abbrev F.SP_WS_GRV_REL_REL0 : Fld := ⟨0xA0104, 0, 13⟩
abbrev F.SP_WS_GRV_REL_REL1 : Fld := ⟨0xA0104, 13, 13⟩
abbrev F.SP_WS_GRV_REL_GATE0 : Fld := ⟨0xA0104, 26, 1⟩
abbrev F.SP_WS_GRV_REL_GATE1 : Fld := ⟨0xA0104, 27, 1⟩
/-- `SP_WS_GRV_REL_LINE` (R150). -/
abbrev R.SP_WS_GRV_REL_LINE : Nat := 0xA0108
abbrev F.SP_WS_GRV_REL_LINE_LINE : Fld := ⟨0xA0108, 0, 31⟩
/-- `HBM_STASH_STATUS` (R182). -/
abbrev R.HBM_STASH_STATUS : Nat := 0x60000
abbrev F.HBM_STASH_STATUS_EXHAUSTED : Fld := ⟨0x60000, 0, 1⟩
abbrev F.HBM_STASH_STATUS_OVER_MARK : Fld := ⟨0x60000, 1, 1⟩
abbrev F.HBM_STASH_STATUS_DROP : Fld := ⟨0x60000, 2, 1⟩
abbrev F.HBM_STASH_STATUS_NARROW_SAT : Fld := ⟨0x60000, 3, 1⟩
abbrev F.HBM_STASH_STATUS_RECORD_FAULT : Fld := ⟨0x60000, 4, 1⟩
/-- `HBM_STASH_POOL` (R182). -/
abbrev R.HBM_STASH_POOL : Nat := 0x60004
abbrev F.HBM_STASH_POOL_FREE_PAGES : Fld := ⟨0x60004, 0, 25⟩
/-- `HBM_STASH_GRV_CAP` (R182). -/
abbrev R.HBM_STASH_GRV_CAP : Nat := 0x60100
abbrev F.HBM_STASH_GRV_CAP_CAP : Fld := ⟨0x60100, 0, 25⟩
/-- `HBM_STASH_GRV_MARK` (R182). -/
abbrev R.HBM_STASH_GRV_MARK : Nat := 0x60104
abbrev F.HBM_STASH_GRV_MARK_MARK : Fld := ⟨0x60104, 0, 25⟩
/-- `HBM_STASH_GRV_RSV` (R182). -/
abbrev R.HBM_STASH_GRV_RSV : Nat := 0x60108
abbrev F.HBM_STASH_GRV_RSV_RSV : Fld := ⟨0x60108, 0, 25⟩
/-- `HBM_STASH_GRV_CFG` (R182). -/
abbrev R.HBM_STASH_GRV_CFG : Nat := 0x6010C
abbrev F.HBM_STASH_GRV_CFG_STASH_SEM : Fld := ⟨0x6010C, 0, 4⟩
abbrev F.HBM_STASH_GRV_CFG_HOLD_GRACE : Fld := ⟨0x6010C, 4, 16⟩
/-- `HBM_STASH_GRV_PLAN` (R182). -/
abbrev R.HBM_STASH_GRV_PLAN : Nat := 0x60110
abbrev F.HBM_STASH_GRV_PLAN_PLAN_LINE : Fld := ⟨0x60110, 0, 31⟩
/-- `HBM_STASH_GRV_OCC` (R182). -/
abbrev R.HBM_STASH_GRV_OCC : Nat := 0x60114
abbrev F.HBM_STASH_GRV_OCC_OCC : Fld := ⟨0x60114, 0, 25⟩
/-- `HBM_STASH_GRV_PEAK` (R182). -/
abbrev R.HBM_STASH_GRV_PEAK : Nat := 0x60118
abbrev F.HBM_STASH_GRV_PEAK_PEAK : Fld := ⟨0x60118, 0, 25⟩
/-- `HBM_STASH_GRV_EVT` (R182). -/
abbrev R.HBM_STASH_GRV_EVT : Nat := 0x6011C
abbrev F.HBM_STASH_GRV_EVT_DROPS : Fld := ⟨0x6011C, 0, 12⟩
abbrev F.HBM_STASH_GRV_EVT_OVER_MARK : Fld := ⟨0x6011C, 12, 12⟩
abbrev F.HBM_STASH_GRV_EVT_REFILLS : Fld := ⟨0x6011C, 24, 6⟩
abbrev F.HBM_STASH_GRV_EVT_DUP_REL : Fld := ⟨0x6011C, 30, 2⟩
/-- `HBM_STASH_GRV_HOLD_LO` (R182). -/
abbrev R.HBM_STASH_GRV_HOLD_LO : Nat := 0x60120
abbrev F.HBM_STASH_GRV_HOLD_LO_COUNT_LO : Fld := ⟨0x60120, 0, 32⟩
/-- `HBM_STASH_GRV_HOLD_HI` (R182). -/
abbrev R.HBM_STASH_GRV_HOLD_HI : Nat := 0x60124
abbrev F.HBM_STASH_GRV_HOLD_HI_COUNT_HI : Fld := ⟨0x60124, 0, 32⟩
/-- `RED_STATUS` (R216). -/
abbrev R.RED_STATUS : Nat := 0x100000
abbrev F.RED_STATUS_PROTO_ERR : Fld := ⟨0x100000, 0, 1⟩
abbrev F.RED_STATUS_SLOT_CLOSED : Fld := ⟨0x100000, 1, 1⟩
abbrev F.RED_STATUS_LATE : Fld := ⟨0x100000, 2, 1⟩
abbrev F.RED_STATUS_SPOOL_FULL : Fld := ⟨0x100000, 3, 1⟩
abbrev F.RED_STATUS_MISMATCH : Fld := ⟨0x100000, 4, 1⟩
abbrev F.RED_STATUS_SUSPECT_SET : Fld := ⟨0x100000, 5, 1⟩
abbrev F.RED_STATUS_UE : Fld := ⟨0x100000, 6, 1⟩
abbrev F.RED_STATUS_ZERO : Fld := ⟨0x100000, 7, 1⟩
abbrev F.RED_STATUS_VERDICT_LOST : Fld := ⟨0x100000, 8, 1⟩
/-- `RED_GRV_CFG` (R216). -/
abbrev R.RED_GRV_CFG : Nat := 0x100100
abbrev F.RED_GRV_CFG_POLICY : Fld := ⟨0x100100, 0, 2⟩
abbrev F.RED_GRV_CFG_COORD : Fld := ⟨0x100100, 2, 1⟩
abbrev F.RED_GRV_CFG_DUAL_N : Fld := ⟨0x100100, 4, 13⟩
abbrev F.RED_GRV_CFG_VGROUP : Fld := ⟨0x100100, 17, 12⟩
/-- `RED_GRV_TIMER` (R216). -/
abbrev R.RED_GRV_TIMER : Nat := 0x100104
abbrev F.RED_GRV_TIMER_GRACE : Fld := ⟨0x100104, 0, 5⟩
abbrev F.RED_GRV_TIMER_SLOT_TIMEOUT : Fld := ⟨0x100104, 8, 5⟩
abbrev F.RED_GRV_TIMER_VERDICT_TIMEOUT : Fld := ⟨0x100104, 16, 5⟩
abbrev F.RED_GRV_TIMER_VERDICT_WAIT : Fld := ⟨0x100104, 24, 5⟩
/-- `RED_GRV_TABLE` (R216). -/
abbrev R.RED_GRV_TABLE : Nat := 0x100108
abbrev F.RED_GRV_TABLE_TABLE_LINE : Fld := ⟨0x100108, 0, 31⟩
/-- `RED_GRV_EF` (R216). -/
abbrev R.RED_GRV_EF : Nat := 0x10010C
abbrev F.RED_GRV_EF_EF_LINE : Fld := ⟨0x10010C, 0, 31⟩
/-- `RED_GRV_SPOOL` (R216). -/
abbrev R.RED_GRV_SPOOL : Nat := 0x100110
abbrev F.RED_GRV_SPOOL_SPOOL_PAGES : Fld := ⟨0x100110, 0, 25⟩
/-- `RED_GRV_STAGE` (R216). -/
abbrev R.RED_GRV_STAGE : Nat := 0x100114
abbrev F.RED_GRV_STAGE_STAGE_PAGES : Fld := ⟨0x100114, 0, 25⟩
/-- `RED_GRV_VSTEP` (R216). -/
abbrev R.RED_GRV_VSTEP : Nat := 0x100118
abbrev F.RED_GRV_VSTEP_STEP : Fld := ⟨0x100118, 0, 32⟩
/-- `RED_GRV_VCODE` (R216). -/
abbrev R.RED_GRV_VCODE : Nat := 0x10011C
abbrev F.RED_GRV_VCODE_VERDICT : Fld := ⟨0x10011C, 0, 2⟩
abbrev F.RED_GRV_VCODE_ATTEMPT : Fld := ⟨0x10011C, 2, 1⟩
abbrev F.RED_GRV_VCODE_REASON : Fld := ⟨0x10011C, 3, 10⟩
abbrev F.RED_GRV_VCODE_EF_CUR : Fld := ⟨0x10011C, 13, 1⟩
abbrev F.RED_GRV_VCODE_WAITING : Fld := ⟨0x10011C, 14, 1⟩
/-- `RED_GRV_CNT` (R216). -/
abbrev R.RED_GRV_CNT : Nat := 0x100120
abbrev F.RED_GRV_CNT_SKIPS : Fld := ⟨0x100120, 0, 12⟩
abbrev F.RED_GRV_CNT_RETRIES : Fld := ⟨0x100120, 12, 6⟩
abbrev F.RED_GRV_CNT_BACKUPS : Fld := ⟨0x100120, 18, 8⟩
abbrev F.RED_GRV_CNT_LATE_REPORT : Fld := ⟨0x100120, 26, 6⟩
/-- `RED_GRV_DISC` (R216). -/
abbrev R.RED_GRV_DISC : Nat := 0x100124
abbrev F.RED_GRV_DISC_LATE : Fld := ⟨0x100124, 0, 12⟩
abbrev F.RED_GRV_DISC_ZERO : Fld := ⟨0x100124, 12, 12⟩
abbrev F.RED_GRV_DISC_REWRITE : Fld := ⟨0x100124, 24, 8⟩
/-- `RED_UNIT_STATUS` (R216). -/
abbrev R.RED_UNIT_STATUS : Nat := 0x101000
abbrev F.RED_UNIT_STATUS_SUSPECT : Fld := ⟨0x101000, 0, 1⟩
abbrev F.RED_UNIT_STATUS_PROTO_ERR : Fld := ⟨0x101000, 1, 1⟩
abbrev F.RED_UNIT_STATUS_UE : Fld := ⟨0x101000, 2, 1⟩
abbrev F.RED_UNIT_STATUS_OPEN_BLOCKS : Fld := ⟨0x101000, 3, 4⟩
/-- `RED_UNIT_TX_SEQ` (R216). -/
abbrev R.RED_UNIT_TX_SEQ : Nat := 0x101004
abbrev F.RED_UNIT_TX_SEQ_SEQ : Fld := ⟨0x101004, 0, 32⟩
/-- `RED_UNIT_RX_SEQ` (R216). -/
abbrev R.RED_UNIT_RX_SEQ : Nat := 0x101008
abbrev F.RED_UNIT_RX_SEQ_SEQ : Fld := ⟨0x101008, 0, 32⟩
/-- `RED_UNIT_BLOCKS_LO` (R216). -/
abbrev R.RED_UNIT_BLOCKS_LO : Nat := 0x101010
abbrev F.RED_UNIT_BLOCKS_LO_COUNT_LO : Fld := ⟨0x101010, 0, 32⟩
/-- `RED_UNIT_BLOCKS_HI` (R216). -/
abbrev R.RED_UNIT_BLOCKS_HI : Nat := 0x101014
abbrev F.RED_UNIT_BLOCKS_HI_COUNT_HI : Fld := ⟨0x101014, 0, 32⟩
/-- `RED_UNIT_ERR` (R216). -/
abbrev R.RED_UNIT_ERR : Nat := 0x101018
abbrev F.RED_UNIT_ERR_PROTO : Fld := ⟨0x101018, 0, 8⟩
abbrev F.RED_UNIT_ERR_CLOSED : Fld := ⟨0x101018, 8, 8⟩
abbrev F.RED_UNIT_ERR_UE : Fld := ⟨0x101018, 16, 8⟩
abbrev F.RED_UNIT_ERR_MISMATCH : Fld := ⟨0x101018, 24, 8⟩
/-- `RED_UNIT_DISC` (R216). -/
abbrev R.RED_UNIT_DISC : Nat := 0x10101C
abbrev F.RED_UNIT_DISC_CLOSED_FRAMES : Fld := ⟨0x10101C, 0, 16⟩
abbrev F.RED_UNIT_DISC_STALE_FRAMES : Fld := ⟨0x10101C, 16, 16⟩
/-- `CKP_UPD_STATUS` (R234). -/
abbrev R.CKP_UPD_STATUS : Nat := 0x1C0000
abbrev F.CKP_UPD_STATUS_NONFINITE : Fld := ⟨0x1C0000, 0, 1⟩
abbrev F.CKP_UPD_STATUS_STORE_RETRY : Fld := ⟨0x1C0000, 1, 1⟩
abbrev F.CKP_UPD_STATUS_STORE_FAIL : Fld := ⟨0x1C0000, 2, 1⟩
abbrev F.CKP_UPD_STATUS_APERTURE_FAULT : Fld := ⟨0x1C0000, 3, 1⟩
/-- `CKP_UPD_GRV_CFG` (R234). -/
abbrev R.CKP_UPD_GRV_CFG : Nat := 0x1C0100
abbrev F.CKP_UPD_GRV_CFG_UPD_REGION : Fld := ⟨0x1C0100, 0, 6⟩
abbrev F.CKP_UPD_GRV_CFG_UPD_SEM : Fld := ⟨0x1C0100, 6, 4⟩
abbrev F.CKP_UPD_GRV_CFG_ENABLE : Fld := ⟨0x1C0100, 10, 1⟩
/-- `CKP_UPD_GRV_TABLE` (R234). -/
abbrev R.CKP_UPD_GRV_TABLE : Nat := 0x1C0104
abbrev F.CKP_UPD_GRV_TABLE_TABLE_LINE : Fld := ⟨0x1C0104, 0, 31⟩
/-- `CKP_UPD_GRV_STATE` (R234). -/
abbrev R.CKP_UPD_GRV_STATE : Nat := 0x1C0108
abbrev F.CKP_UPD_GRV_STATE_STATE_LINE : Fld := ⟨0x1C0108, 0, 31⟩
/-- `CKP_UPD_GRV_SUM` (R234). -/
abbrev R.CKP_UPD_GRV_SUM : Nat := 0x1C010C
abbrev F.CKP_UPD_GRV_SUM_SUM_LINE : Fld := ⟨0x1C010C, 0, 31⟩
/-- `CKP_UPD_GRV_WB` (R234). -/
abbrev R.CKP_UPD_GRV_WB : Nat := 0x1C0110
abbrev F.CKP_UPD_GRV_WB_WB_PAGES : Fld := ⟨0x1C0110, 0, 25⟩
/-- `CKP_UPD_GRV_STEP` (R234). -/
abbrev R.CKP_UPD_GRV_STEP : Nat := 0x1C0114
abbrev F.CKP_UPD_GRV_STEP_STEP : Fld := ⟨0x1C0114, 0, 32⟩
/-- `CKP_UPD_GRV_CNT` (R234). -/
abbrev R.CKP_UPD_GRV_CNT : Nat := 0x1C0118
abbrev F.CKP_UPD_GRV_CNT_NONFINITE : Fld := ⟨0x1C0118, 0, 16⟩
abbrev F.CKP_UPD_GRV_CNT_REWRITE : Fld := ⟨0x1C0118, 16, 8⟩
abbrev F.CKP_UPD_GRV_CNT_RETRIES : Fld := ⟨0x1C0118, 24, 8⟩
/-- `SP_LINK_STATUS` (R268). -/
abbrev R.SP_LINK_STATUS : Nat := 0x80000
abbrev F.SP_LINK_STATUS_STATE : Fld := ⟨0x80000, 0, 3⟩
abbrev F.SP_LINK_STATUS_PARTNER_KIND : Fld := ⟨0x80000, 3, 2⟩
abbrev F.SP_LINK_STATUS_LANE_LOCK : Fld := ⟨0x80000, 8, 8⟩
abbrev F.SP_LINK_STATUS_CRC_ERR : Fld := ⟨0x80000, 16, 1⟩
abbrev F.SP_LINK_STATUS_RETRAINED : Fld := ⟨0x80000, 17, 1⟩
abbrev F.SP_LINK_STATUS_FLUSHED : Fld := ⟨0x80000, 18, 1⟩
abbrev F.SP_LINK_STATUS_AUDIT_MISMATCH : Fld := ⟨0x80000, 19, 1⟩
abbrev F.SP_LINK_STATUS_RECONCILED : Fld := ⟨0x80000, 20, 1⟩
abbrev F.SP_LINK_STATUS_DISCARD : Fld := ⟨0x80000, 21, 1⟩
abbrev F.SP_LINK_STATUS_DEST_DOWN : Fld := ⟨0x80000, 22, 1⟩
abbrev F.SP_LINK_STATUS_LANE_REV : Fld := ⟨0x80000, 23, 1⟩
abbrev F.SP_LINK_STATUS_POL_INV : Fld := ⟨0x80000, 24, 8⟩
/-- `SEAM_LINK_STATUS` (R268). -/
abbrev R.SEAM_LINK_STATUS : Nat := 0xC0000
abbrev F.SEAM_LINK_STATUS_STATE : Fld := ⟨0xC0000, 0, 3⟩
abbrev F.SEAM_LINK_STATUS_PARTNER_KIND : Fld := ⟨0xC0000, 3, 2⟩
abbrev F.SEAM_LINK_STATUS_LANE_LOCK : Fld := ⟨0xC0000, 8, 8⟩
abbrev F.SEAM_LINK_STATUS_CRC_ERR : Fld := ⟨0xC0000, 16, 1⟩
abbrev F.SEAM_LINK_STATUS_RETRAINED : Fld := ⟨0xC0000, 17, 1⟩
abbrev F.SEAM_LINK_STATUS_FLUSHED : Fld := ⟨0xC0000, 18, 1⟩
abbrev F.SEAM_LINK_STATUS_AUDIT_MISMATCH : Fld := ⟨0xC0000, 19, 1⟩
abbrev F.SEAM_LINK_STATUS_RECONCILED : Fld := ⟨0xC0000, 20, 1⟩
abbrev F.SEAM_LINK_STATUS_DISCARD : Fld := ⟨0xC0000, 21, 1⟩
abbrev F.SEAM_LINK_STATUS_DEST_DOWN : Fld := ⟨0xC0000, 22, 1⟩
abbrev F.SEAM_LINK_STATUS_LANE_REV : Fld := ⟨0xC0000, 23, 1⟩
abbrev F.SEAM_LINK_STATUS_POL_INV : Fld := ⟨0xC0000, 24, 8⟩
/-- `SP_LINK_CFG` (R268). -/
abbrev R.SP_LINK_CFG : Nat := 0x80004
abbrev F.SP_LINK_CFG_ENABLE : Fld := ⟨0x80004, 0, 1⟩
abbrev F.SP_LINK_CFG_REPLAY_TIMEOUT : Fld := ⟨0x80004, 8, 5⟩
abbrev F.SP_LINK_CFG_LINK_HOLD : Fld := ⟨0x80004, 16, 5⟩
/-- `SEAM_LINK_CFG` (R268). -/
abbrev R.SEAM_LINK_CFG : Nat := 0xC0004
abbrev F.SEAM_LINK_CFG_ENABLE : Fld := ⟨0xC0004, 0, 1⟩
abbrev F.SEAM_LINK_CFG_REPLAY_TIMEOUT : Fld := ⟨0xC0004, 8, 5⟩
abbrev F.SEAM_LINK_CFG_LINK_HOLD : Fld := ⟨0xC0004, 16, 5⟩
/-- `SP_VL_CREDIT_01` (R268). -/
abbrev R.SP_VL_CREDIT_01 : Nat := 0x80008
abbrev F.SP_VL_CREDIT_01_VL0 : Fld := ⟨0x80008, 0, 15⟩
abbrev F.SP_VL_CREDIT_01_VL1 : Fld := ⟨0x80008, 16, 15⟩
/-- `SEAM_VL_CREDIT_01` (R268). -/
abbrev R.SEAM_VL_CREDIT_01 : Nat := 0xC0008
abbrev F.SEAM_VL_CREDIT_01_VL0 : Fld := ⟨0xC0008, 0, 15⟩
abbrev F.SEAM_VL_CREDIT_01_VL1 : Fld := ⟨0xC0008, 16, 15⟩
/-- `SP_VL_CREDIT_23` (R268). -/
abbrev R.SP_VL_CREDIT_23 : Nat := 0x8000C
abbrev F.SP_VL_CREDIT_23_VL2 : Fld := ⟨0x8000C, 0, 15⟩
abbrev F.SP_VL_CREDIT_23_VL3 : Fld := ⟨0x8000C, 16, 15⟩
/-- `SEAM_VL_CREDIT_23` (R268). -/
abbrev R.SEAM_VL_CREDIT_23 : Nat := 0xC000C
abbrev F.SEAM_VL_CREDIT_23_VL2 : Fld := ⟨0xC000C, 0, 15⟩
abbrev F.SEAM_VL_CREDIT_23_VL3 : Fld := ⟨0xC000C, 16, 15⟩
/-- `SP_SEQ` (R268). -/
abbrev R.SP_SEQ : Nat := 0x80010
abbrev F.SP_SEQ_TX_NEXT : Fld := ⟨0x80010, 0, 16⟩
abbrev F.SP_SEQ_RX_EXPECT : Fld := ⟨0x80010, 16, 16⟩
/-- `SEAM_SEQ` (R268). -/
abbrev R.SEAM_SEQ : Nat := 0xC0010
abbrev F.SEAM_SEQ_TX_NEXT : Fld := ⟨0xC0010, 0, 16⟩
abbrev F.SEAM_SEQ_RX_EXPECT : Fld := ⟨0xC0010, 16, 16⟩
/-- `SP_PARTNER` (R268). -/
abbrev R.SP_PARTNER : Nat := 0x80014
abbrev F.SP_PARTNER_NODE : Fld := ⟨0x80014, 0, 16⟩
abbrev F.SP_PARTNER_IF : Fld := ⟨0x80014, 16, 3⟩
/-- `SEAM_PARTNER` (R268). -/
abbrev R.SEAM_PARTNER : Nat := 0xC0014
abbrev F.SEAM_PARTNER_NODE : Fld := ⟨0xC0014, 0, 16⟩
abbrev F.SEAM_PARTNER_IF : Fld := ⟨0xC0014, 16, 3⟩
/-- `SP_ERR_COUNT` (R268). -/
abbrev R.SP_ERR_COUNT : Nat := 0x80020
abbrev F.SP_ERR_COUNT_CRC : Fld := ⟨0x80020, 0, 16⟩
abbrev F.SP_ERR_COUNT_NAKS : Fld := ⟨0x80020, 16, 16⟩
/-- `SEAM_ERR_COUNT` (R268). -/
abbrev R.SEAM_ERR_COUNT : Nat := 0xC0020
abbrev F.SEAM_ERR_COUNT_CRC : Fld := ⟨0xC0020, 0, 16⟩
abbrev F.SEAM_ERR_COUNT_NAKS : Fld := ⟨0xC0020, 16, 16⟩
/-- `SP_LINK_COUNT` (R268). -/
abbrev R.SP_LINK_COUNT : Nat := 0x80024
abbrev F.SP_LINK_COUNT_REPLAYS : Fld := ⟨0x80024, 0, 16⟩
abbrev F.SP_LINK_COUNT_RETRAINS : Fld := ⟨0x80024, 16, 8⟩
abbrev F.SP_LINK_COUNT_FLUSHES : Fld := ⟨0x80024, 24, 8⟩
/-- `SEAM_LINK_COUNT` (R268). -/
abbrev R.SEAM_LINK_COUNT : Nat := 0xC0024
abbrev F.SEAM_LINK_COUNT_REPLAYS : Fld := ⟨0xC0024, 0, 16⟩
abbrev F.SEAM_LINK_COUNT_RETRAINS : Fld := ⟨0xC0024, 16, 8⟩
abbrev F.SEAM_LINK_COUNT_FLUSHES : Fld := ⟨0xC0024, 24, 8⟩
/-- `SP_DISCARD_COUNT` (R268). -/
abbrev R.SP_DISCARD_COUNT : Nat := 0x80028
abbrev F.SP_DISCARD_COUNT_BAD_FRAME : Fld := ⟨0x80028, 0, 8⟩
abbrev F.SP_DISCARD_COUNT_DEST_DOWN : Fld := ⟨0x80028, 8, 8⟩
abbrev F.SP_DISCARD_COUNT_FLUSHED_FRAMES : Fld := ⟨0x80028, 16, 16⟩
/-- `SEAM_DISCARD_COUNT` (R268). -/
abbrev R.SEAM_DISCARD_COUNT : Nat := 0xC0028
abbrev F.SEAM_DISCARD_COUNT_BAD_FRAME : Fld := ⟨0xC0028, 0, 8⟩
abbrev F.SEAM_DISCARD_COUNT_DEST_DOWN : Fld := ⟨0xC0028, 8, 8⟩
abbrev F.SEAM_DISCARD_COUNT_FLUSHED_FRAMES : Fld := ⟨0xC0028, 16, 16⟩
/-- `SP_AUDIT_COUNT` (R268). -/
abbrev R.SP_AUDIT_COUNT : Nat := 0x8002C
abbrev F.SP_AUDIT_COUNT_AUDITS : Fld := ⟨0x8002C, 0, 16⟩
abbrev F.SP_AUDIT_COUNT_RECONCILES : Fld := ⟨0x8002C, 16, 8⟩
abbrev F.SP_AUDIT_COUNT_AUDIT_RESETS : Fld := ⟨0x8002C, 24, 8⟩
/-- `SEAM_AUDIT_COUNT` (R268). -/
abbrev R.SEAM_AUDIT_COUNT : Nat := 0xC002C
abbrev F.SEAM_AUDIT_COUNT_AUDITS : Fld := ⟨0xC002C, 0, 16⟩
abbrev F.SEAM_AUDIT_COUNT_RECONCILES : Fld := ⟨0xC002C, 16, 8⟩
abbrev F.SEAM_AUDIT_COUNT_AUDIT_RESETS : Fld := ⟨0xC002C, 24, 8⟩
/-- `SP_FEC_CORR_LO` (R268). -/
abbrev R.SP_FEC_CORR_LO : Nat := 0x80030
abbrev F.SP_FEC_CORR_LO_COUNT_LO : Fld := ⟨0x80030, 0, 32⟩
/-- `SEAM_FEC_CORR_LO` (R268). -/
abbrev R.SEAM_FEC_CORR_LO : Nat := 0xC0030
abbrev F.SEAM_FEC_CORR_LO_COUNT_LO : Fld := ⟨0xC0030, 0, 32⟩
/-- `SP_FEC_CORR_HI` (R268). -/
abbrev R.SP_FEC_CORR_HI : Nat := 0x80034
abbrev F.SP_FEC_CORR_HI_COUNT_HI : Fld := ⟨0x80034, 0, 32⟩
/-- `SEAM_FEC_CORR_HI` (R268). -/
abbrev R.SEAM_FEC_CORR_HI : Nat := 0xC0034
abbrev F.SEAM_FEC_CORR_HI_COUNT_HI : Fld := ⟨0xC0034, 0, 32⟩
/-- `SP_FEC_UNCORR` (R268). -/
abbrev R.SP_FEC_UNCORR : Nat := 0x80038
abbrev F.SP_FEC_UNCORR_COUNT : Fld := ⟨0x80038, 0, 32⟩
/-- `SEAM_FEC_UNCORR` (R268). -/
abbrev R.SEAM_FEC_UNCORR : Nat := 0xC0038
abbrev F.SEAM_FEC_UNCORR_COUNT : Fld := ⟨0xC0038, 0, 32⟩
/-- `SP_TX_UNITS_LO` (R268). -/
abbrev R.SP_TX_UNITS_LO : Nat := 0x80040
abbrev F.SP_TX_UNITS_LO_COUNT_LO : Fld := ⟨0x80040, 0, 32⟩
/-- `SEAM_TX_UNITS_LO` (R268). -/
abbrev R.SEAM_TX_UNITS_LO : Nat := 0xC0040
abbrev F.SEAM_TX_UNITS_LO_COUNT_LO : Fld := ⟨0xC0040, 0, 32⟩
/-- `SP_TX_UNITS_HI` (R268). -/
abbrev R.SP_TX_UNITS_HI : Nat := 0x80044
abbrev F.SP_TX_UNITS_HI_COUNT_LO : Fld := ⟨0x80044, 0, 32⟩
/-- `SEAM_TX_UNITS_HI` (R268). -/
abbrev R.SEAM_TX_UNITS_HI : Nat := 0xC0044
abbrev F.SEAM_TX_UNITS_HI_COUNT_LO : Fld := ⟨0xC0044, 0, 32⟩
/-- `SP_RX_UNITS_LO` (R268). -/
abbrev R.SP_RX_UNITS_LO : Nat := 0x80048
abbrev F.SP_RX_UNITS_LO_COUNT_LO : Fld := ⟨0x80048, 0, 32⟩
/-- `SEAM_RX_UNITS_LO` (R268). -/
abbrev R.SEAM_RX_UNITS_LO : Nat := 0xC0048
abbrev F.SEAM_RX_UNITS_LO_COUNT_LO : Fld := ⟨0xC0048, 0, 32⟩
/-- `SP_RX_UNITS_HI` (R268). -/
abbrev R.SP_RX_UNITS_HI : Nat := 0x8004C
abbrev F.SP_RX_UNITS_HI_COUNT_LO : Fld := ⟨0x8004C, 0, 32⟩
/-- `SEAM_RX_UNITS_HI` (R268). -/
abbrev R.SEAM_RX_UNITS_HI : Nat := 0xC004C
abbrev F.SEAM_RX_UNITS_HI_COUNT_LO : Fld := ⟨0xC004C, 0, 32⟩
/-- `SP_NODE` (R268). -/
abbrev R.SP_NODE : Nat := 0x88000
abbrev F.SP_NODE_NODE : Fld := ⟨0x88000, 0, 16⟩
abbrev F.SP_NODE_FM_NODE : Fld := ⟨0x88000, 16, 16⟩
/-- `SP_FWD_LINE` (R268). -/
abbrev R.SP_FWD_LINE : Nat := 0x88010
abbrev F.SP_FWD_LINE_LINE : Fld := ⟨0x88010, 0, 31⟩
/-- `SP_MCAST_LINE` (R268). -/
abbrev R.SP_MCAST_LINE : Nat := 0x88014
abbrev F.SP_MCAST_LINE_LINE : Fld := ⟨0x88014, 0, 31⟩
/-- `SP_TREE_LINE` (R268). -/
abbrev R.SP_TREE_LINE : Nat := 0x88018
abbrev F.SP_TREE_LINE_LINE : Fld := ⟨0x88018, 0, 31⟩
/-- `SP_RT_CTL` (R268). -/
abbrev R.SP_RT_CTL : Nat := 0x88020
abbrev F.SP_RT_CTL_SWAP : Fld := ⟨0x88020, 0, 1⟩
abbrev F.SP_RT_CTL_BUSY : Fld := ⟨0x88020, 1, 1⟩
abbrev F.SP_RT_CTL_IMAGE : Fld := ⟨0x88020, 2, 1⟩
abbrev F.SP_RT_CTL_SWAP_ERR : Fld := ⟨0x88020, 3, 1⟩
abbrev F.SP_RT_CTL_ERR_TABLE : Fld := ⟨0x88020, 4, 3⟩
abbrev F.SP_RT_CTL_ERR_ENTRY : Fld := ⟨0x88020, 7, 16⟩
/-- `SP_RT_DISCARD` (R268). -/
abbrev R.SP_RT_DISCARD : Nat := 0x88024
abbrev F.SP_RT_DISCARD_LOCAL : Fld := ⟨0x88024, 0, 16⟩
/-- `HBM_STATUS` (R282). -/
abbrev R.HBM_STATUS : Nat := 0x40000
abbrev F.HBM_STATUS_STACK_UP : Fld := ⟨0x40000, 0, 3⟩
abbrev F.HBM_STATUS_GEN : Fld := ⟨0x40000, 3, 1⟩
abbrev F.HBM_STATUS_CLEAR_BUSY : Fld := ⟨0x40000, 4, 1⟩
abbrev F.HBM_STATUS_OTHER_CLEAN : Fld := ⟨0x40000, 5, 1⟩
abbrev F.HBM_STATUS_CE : Fld := ⟨0x40000, 8, 1⟩
abbrev F.HBM_STATUS_UE : Fld := ⟨0x40000, 9, 1⟩
abbrev F.HBM_STATUS_POISON_FULL : Fld := ⟨0x40000, 10, 1⟩
abbrev F.HBM_STATUS_SCRUB_PASS : Fld := ⟨0x40000, 11, 1⟩
abbrev F.HBM_STATUS_REGION_ERR : Fld := ⟨0x40000, 12, 1⟩
abbrev F.HBM_STATUS_DIRTY_ERR : Fld := ⟨0x40000, 13, 1⟩
/-- `HBM_CTL` (R282). -/
abbrev R.HBM_CTL : Nat := 0x40004
abbrev F.HBM_CTL_REGION_APPLY : Fld := ⟨0x40004, 0, 1⟩
abbrev F.HBM_CTL_FLIP : Fld := ⟨0x40004, 1, 1⟩
abbrev F.HBM_CTL_CLEAR : Fld := ⟨0x40004, 2, 1⟩
/-- `HBM_SCRUB_CFG` (R282). -/
abbrev R.HBM_SCRUB_CFG : Nat := 0x40010
abbrev F.HBM_SCRUB_CFG_HBM_EN : Fld := ⟨0x40010, 0, 1⟩
abbrev F.HBM_SCRUB_CFG_SRAM_EN : Fld := ⟨0x40010, 1, 1⟩
abbrev F.HBM_SCRUB_CFG_HBM_INT : Fld := ⟨0x40010, 4, 5⟩
abbrev F.HBM_SCRUB_CFG_SRAM_INT : Fld := ⟨0x40010, 12, 5⟩
/-- `HBM_CE_COUNT` (R282). -/
abbrev R.HBM_CE_COUNT : Nat := 0x40030
abbrev F.HBM_CE_COUNT_COUNT : Fld := ⟨0x40030, 0, 32⟩
/-- `HBM_UE_COUNT` (R282). -/
abbrev R.HBM_UE_COUNT : Nat := 0x4003C
abbrev F.HBM_UE_COUNT_UE0 : Fld := ⟨0x4003C, 0, 8⟩
abbrev F.HBM_UE_COUNT_UE1 : Fld := ⟨0x4003C, 8, 8⟩
abbrev F.HBM_UE_COUNT_UE2 : Fld := ⟨0x4003C, 16, 8⟩
abbrev F.HBM_UE_COUNT_LISTED : Fld := ⟨0x4003C, 24, 8⟩
/-- `HBM_UE_ADDR` (R282). -/
abbrev R.HBM_UE_ADDR : Nat := 0x40040
abbrev F.HBM_UE_ADDR_LINE : Fld := ⟨0x40040, 0, 31⟩
abbrev F.HBM_UE_ADDR_SEEN : Fld := ⟨0x40040, 31, 1⟩
/-- `HBM_SCRUB_PASS` (R282). -/
abbrev R.HBM_SCRUB_PASS : Nat := 0x40044
abbrev F.HBM_SCRUB_PASS_PASSES : Fld := ⟨0x40044, 0, 16⟩
/-- `HBM_REGION_LO` (R282). -/
abbrev R.HBM_REGION_LO : Nat := 0x40100
abbrev F.HBM_REGION_LO_BASE : Fld := ⟨0x40100, 0, 31⟩
abbrev F.HBM_REGION_LO_TRACK : Fld := ⟨0x40100, 31, 1⟩
/-- `HBM_REGION_HI` (R282). -/
abbrev R.HBM_REGION_HI : Nat := 0x40104
abbrev F.HBM_REGION_HI_LIMIT : Fld := ⟨0x40104, 0, 31⟩
abbrev F.HBM_REGION_HI_VALID : Fld := ⟨0x40104, 31, 1⟩
/-- `HBM_GRANT_LO` (R282). -/
abbrev R.HBM_GRANT_LO : Nat := 0x50000
abbrev F.HBM_GRANT_LO_BASE : Fld := ⟨0x50000, 0, 31⟩
abbrev F.HBM_GRANT_LO_WRITE : Fld := ⟨0x50000, 31, 1⟩
/-- `HBM_GRANT_HI` (R282). -/
abbrev R.HBM_GRANT_HI : Nat := 0x50004
abbrev F.HBM_GRANT_HI_LIMIT : Fld := ⟨0x50004, 0, 31⟩
abbrev F.HBM_GRANT_HI_VALID : Fld := ⟨0x50004, 31, 1⟩
/-- `PD_ID` (R339). -/
abbrev R.PD_ID : Nat := 0x0
abbrev F.PD_ID_PART : Fld := ⟨0x0, 0, 16⟩
abbrev F.PD_ID_STEPPING : Fld := ⟨0x0, 16, 8⟩
/-- `PD_SERIAL_LO` (R339). -/
abbrev R.PD_SERIAL_LO : Nat := 0x4
abbrev F.PD_SERIAL_LO_SERIAL : Fld := ⟨0x4, 0, 32⟩
/-- `PD_SERIAL_HI` (R339). -/
abbrev R.PD_SERIAL_HI : Nat := 0x8
abbrev F.PD_SERIAL_HI_SERIAL : Fld := ⟨0x8, 0, 32⟩
/-- `PD_MODULE` (R339). -/
abbrev R.PD_MODULE : Nat := 0x10
abbrev F.PD_MODULE_MODID : Fld := ⟨0x10, 0, 12⟩
abbrev F.PD_MODULE_VALID : Fld := ⟨0x10, 12, 1⟩
abbrev F.PD_MODULE_FM_NODE : Fld := ⟨0x10, 16, 16⟩
/-- `PD_CH_STATE` (R339). -/
abbrev R.PD_CH_STATE : Nat := 0x14
abbrev F.PD_CH_STATE_CH0 : Fld := ⟨0x14, 0, 4⟩
abbrev F.PD_CH_STATE_CH1 : Fld := ⟨0x14, 4, 4⟩
abbrev F.PD_CH_STATE_CH2 : Fld := ⟨0x14, 8, 4⟩
abbrev F.PD_CH_STATE_CH3 : Fld := ⟨0x14, 12, 4⟩
abbrev F.PD_CH_STATE_CH4 : Fld := ⟨0x14, 16, 4⟩
abbrev F.PD_CH_STATE_CH5 : Fld := ⟨0x14, 20, 4⟩
abbrev F.PD_CH_STATE_CH6 : Fld := ⟨0x14, 24, 4⟩
abbrev F.PD_CH_STATE_CH7 : Fld := ⟨0x14, 28, 4⟩
/-- `PD_CH_ENABLE` (R339). -/
abbrev R.PD_CH_ENABLE : Nat := 0x18
abbrev F.PD_CH_ENABLE_MASK : Fld := ⟨0x18, 0, 8⟩
/-- `PD_STATUS` (R339). -/
abbrev R.PD_STATUS : Nat := 0x20
abbrev F.PD_STATUS_DROP : Fld := ⟨0x20, 0, 1⟩
abbrev F.PD_STATUS_TAG_FAIL : Fld := ⟨0x20, 1, 1⟩
abbrev F.PD_STATUS_LINK_LOST : Fld := ⟨0x20, 2, 1⟩
abbrev F.PD_STATUS_PARITY : Fld := ⟨0x20, 3, 1⟩
abbrev F.PD_STATUS_RSV_WRITE : Fld := ⟨0x20, 4, 1⟩
abbrev F.PD_STATUS_SNAP_ERR : Fld := ⟨0x20, 5, 1⟩
/-- `PD_LINKS` (R339). -/
abbrev R.PD_LINKS : Nat := 0x24
abbrev F.PD_LINKS_UP : Fld := ⟨0x24, 0, 8⟩
/-- `PD_DROP_COUNT` (R339). -/
abbrev R.PD_DROP_COUNT : Nat := 0x30
abbrev F.PD_DROP_COUNT_FORMAT : Fld := ⟨0x30, 0, 16⟩
abbrev F.PD_DROP_COUNT_TAG : Fld := ⟨0x30, 16, 16⟩
/-- `PD_FLAG_COUNT` (R339). -/
abbrev R.PD_FLAG_COUNT : Nat := 0x34
abbrev F.PD_FLAG_COUNT_PARITY : Fld := ⟨0x34, 0, 8⟩
abbrev F.PD_FLAG_COUNT_RSV_WRITE : Fld := ⟨0x34, 8, 8⟩
abbrev F.PD_FLAG_COUNT_LINK_LOST : Fld := ⟨0x34, 16, 8⟩
abbrev F.PD_FLAG_COUNT_SNAP_ERR : Fld := ⟨0x34, 24, 8⟩
/-- `PD_CMD_LO` (R339). -/
abbrev R.PD_CMD_LO : Nat := 0x38
abbrev F.PD_CMD_LO_COUNT_LO : Fld := ⟨0x38, 0, 32⟩
/-- `PD_CMD_HI` (R339). -/
abbrev R.PD_CMD_HI : Nat := 0x3C
abbrev F.PD_CMD_HI_COUNT_LO : Fld := ⟨0x3C, 0, 32⟩
/-- `PD_SESSIONS` (R339). -/
abbrev R.PD_SESSIONS : Nat := 0x40
abbrev F.PD_SESSIONS_OPEN : Fld := ⟨0x40, 0, 5⟩
abbrev F.PD_SESSIONS_PENDING : Fld := ⟨0x40, 5, 3⟩
/-- `PD_SNAP` (R339). -/
abbrev R.PD_SNAP : Nat := 0x50
abbrev F.PD_SNAP_OFFSET : Fld := ⟨0x50, 0, 24⟩
abbrev F.PD_SNAP_RELEASE : Fld := ⟨0x50, 31, 1⟩
/-- `PD_PARITY_ADDR` (R339). -/
abbrev R.PD_PARITY_ADDR : Nat := 0x54
abbrev F.PD_PARITY_ADDR_ADDR : Fld := ⟨0x54, 0, 24⟩
abbrev F.PD_PARITY_ADDR_SEEN : Fld := ⟨0x54, 31, 1⟩
/-- `PD_STAGED` (R339). -/
abbrev R.PD_STAGED : Nat := 0x58
abbrev F.PD_STAGED_CHANGED : Fld := ⟨0x58, 0, 4⟩
/-- `PD_NET_IP6` (R339). -/
abbrev R.PD_NET_IP6 : Nat := 0x100
abbrev F.PD_NET_IP6_IP6 : Fld := ⟨0x100, 0, 32⟩
/-- `PD_NET_IP4` (R339). -/
abbrev R.PD_NET_IP4 : Nat := 0x110
abbrev F.PD_NET_IP4_IP4 : Fld := ⟨0x110, 0, 32⟩
/-- `PD_NET_CFG` (R339). -/
abbrev R.PD_NET_CFG : Nat := 0x114
abbrev F.PD_NET_CFG_LEN6 : Fld := ⟨0x114, 0, 8⟩
abbrev F.PD_NET_CFG_LEN4 : Fld := ⟨0x114, 8, 6⟩
/-- `CTL_ID` (R340). -/
abbrev R.CTL_ID : Nat := 0x0
abbrev F.CTL_ID_CHANNEL : Fld := ⟨0x0, 0, 3⟩
abbrev F.CTL_ID_ANCHOR : Fld := ⟨0x0, 3, 1⟩
abbrev F.CTL_ID_NODE : Fld := ⟨0x0, 16, 16⟩
/-- `CTL_STATE` (R340). -/
abbrev R.CTL_STATE : Nat := 0x4
abbrev F.CTL_STATE_STATE : Fld := ⟨0x4, 0, 3⟩
abbrev F.CTL_STATE_FREEZE : Fld := ⟨0x4, 8, 6⟩
abbrev F.CTL_STATE_LOADED : Fld := ⟨0x4, 16, 16⟩
/-- `CTL_GROVE_STATE_LO` (R340). -/
abbrev R.CTL_GROVE_STATE_LO : Nat := 0x8
abbrev F.CTL_GROVE_STATE_LO_GROVE0 : Fld := ⟨0x8, 0, 4⟩
abbrev F.CTL_GROVE_STATE_LO_GROVE1 : Fld := ⟨0x8, 4, 4⟩
abbrev F.CTL_GROVE_STATE_LO_GROVE2 : Fld := ⟨0x8, 8, 4⟩
abbrev F.CTL_GROVE_STATE_LO_GROVE3 : Fld := ⟨0x8, 12, 4⟩
abbrev F.CTL_GROVE_STATE_LO_GROVE4 : Fld := ⟨0x8, 16, 4⟩
abbrev F.CTL_GROVE_STATE_LO_GROVE5 : Fld := ⟨0x8, 20, 4⟩
abbrev F.CTL_GROVE_STATE_LO_GROVE6 : Fld := ⟨0x8, 24, 4⟩
abbrev F.CTL_GROVE_STATE_LO_GROVE7 : Fld := ⟨0x8, 28, 4⟩
/-- `CTL_GROVE_STATE_HI` (R340). -/
abbrev R.CTL_GROVE_STATE_HI : Nat := 0xC
abbrev F.CTL_GROVE_STATE_HI_GROVE0 : Fld := ⟨0xC, 0, 4⟩
abbrev F.CTL_GROVE_STATE_HI_GROVE1 : Fld := ⟨0xC, 4, 4⟩
abbrev F.CTL_GROVE_STATE_HI_GROVE2 : Fld := ⟨0xC, 8, 4⟩
abbrev F.CTL_GROVE_STATE_HI_GROVE3 : Fld := ⟨0xC, 12, 4⟩
abbrev F.CTL_GROVE_STATE_HI_GROVE4 : Fld := ⟨0xC, 16, 4⟩
abbrev F.CTL_GROVE_STATE_HI_GROVE5 : Fld := ⟨0xC, 20, 4⟩
abbrev F.CTL_GROVE_STATE_HI_GROVE6 : Fld := ⟨0xC, 24, 4⟩
abbrev F.CTL_GROVE_STATE_HI_GROVE7 : Fld := ⟨0xC, 28, 4⟩
/-- `CTL_STATUS` (R340). -/
abbrev R.CTL_STATUS : Nat := 0x20
abbrev F.CTL_STATUS_PARITY : Fld := ⟨0x20, 0, 1⟩
abbrev F.CTL_STATUS_RSV_WRITE : Fld := ⟨0x20, 1, 1⟩
abbrev F.CTL_STATUS_STROBE_REFUSED : Fld := ⟨0x20, 2, 1⟩
abbrev F.CTL_STATUS_BOUNDARY_CANCEL : Fld := ⟨0x20, 3, 1⟩
abbrev F.CTL_STATUS_BUS_REFUSED : Fld := ⟨0x20, 4, 1⟩
abbrev F.CTL_STATUS_SNAP_ERR : Fld := ⟨0x20, 5, 1⟩
abbrev F.CTL_STATUS_ALIAS_ERR : Fld := ⟨0x20, 6, 1⟩
/-- `CTL_FLAG_COUNT` (R340). -/
abbrev R.CTL_FLAG_COUNT : Nat := 0x24
abbrev F.CTL_FLAG_COUNT_PARITY : Fld := ⟨0x24, 0, 8⟩
abbrev F.CTL_FLAG_COUNT_RSV_WRITE : Fld := ⟨0x24, 8, 8⟩
abbrev F.CTL_FLAG_COUNT_STROBE_REFUSED : Fld := ⟨0x24, 16, 8⟩
abbrev F.CTL_FLAG_COUNT_BUS_REFUSED : Fld := ⟨0x24, 24, 8⟩
/-- `CTL_AUX_COUNT` (R340). -/
abbrev R.CTL_AUX_COUNT : Nat := 0x2C
abbrev F.CTL_AUX_COUNT_BOUNDARY_CANCEL : Fld := ⟨0x2C, 0, 8⟩
abbrev F.CTL_AUX_COUNT_SNAP_ERR : Fld := ⟨0x2C, 8, 8⟩
abbrev F.CTL_AUX_COUNT_ALIAS_ERR : Fld := ⟨0x2C, 16, 8⟩
/-- `CTL_PARITY_ADDR` (R340). -/
abbrev R.CTL_PARITY_ADDR : Nat := 0x28
abbrev F.CTL_PARITY_ADDR_ADDR : Fld := ⟨0x28, 0, 24⟩
abbrev F.CTL_PARITY_ADDR_SEEN : Fld := ⟨0x28, 31, 1⟩
/-- `CTL_STAGED` (R340). -/
abbrev R.CTL_STAGED : Nat := 0x30
abbrev F.CTL_STAGED_CHANGED : Fld := ⟨0x30, 0, 16⟩
abbrev F.CTL_STAGED_PENDING : Fld := ⟨0x30, 16, 16⟩
/-- `CTL_STROBE` (R340). -/
abbrev R.CTL_STROBE : Nat := 0x34
abbrev F.CTL_STROBE_GROUPS : Fld := ⟨0x34, 0, 16⟩
abbrev F.CTL_STROBE_OP : Fld := ⟨0x34, 16, 2⟩
/-- `CTL_STROBE_RESULT` (R340). -/
abbrev R.CTL_STROBE_RESULT : Nat := 0x38
abbrev F.CTL_STROBE_RESULT_STATUS : Fld := ⟨0x38, 0, 8⟩
abbrev F.CTL_STROBE_RESULT_ITEM : Fld := ⟨0x38, 8, 8⟩
abbrev F.CTL_STROBE_RESULT_BUSY : Fld := ⟨0x38, 16, 1⟩
/-- `CTL_STROBE_ADDR` (R340). -/
abbrev R.CTL_STROBE_ADDR : Nat := 0x3C
abbrev F.CTL_STROBE_ADDR_OFFSET : Fld := ⟨0x3C, 0, 24⟩
/-- `CTL_SNAP` (R340). -/
abbrev R.CTL_SNAP : Nat := 0x40
abbrev F.CTL_SNAP_OFFSET : Fld := ⟨0x40, 0, 24⟩
abbrev F.CTL_SNAP_RELEASE : Fld := ⟨0x40, 31, 1⟩
/-- `CTL_EVT_SEQ` (R340). -/
abbrev R.CTL_EVT_SEQ : Nat := 0x50
abbrev F.CTL_EVT_SEQ_NEXT : Fld := ⟨0x50, 0, 32⟩
/-- `CTL_DIAG` (R340). -/
abbrev R.CTL_DIAG : Nat := 0x60
abbrev F.CTL_DIAG_PARITY_INJECT : Fld := ⟨0x60, 0, 1⟩
/-- `CKP_STATUS` (R369). -/
abbrev R.CKP_STATUS : Nat := 0x180000
abbrev F.CKP_STATUS_RING_FAIL : Fld := ⟨0x180000, 0, 1⟩
abbrev F.CKP_STATUS_RESTORE_FAIL : Fld := ⟨0x180000, 1, 1⟩
abbrev F.CKP_STATUS_AREA_FULL : Fld := ⟨0x180000, 2, 1⟩
abbrev F.CKP_STATUS_RANGE_DROP : Fld := ⟨0x180000, 3, 1⟩
abbrev F.CKP_STATUS_CFG_BUSY : Fld := ⟨0x180000, 4, 1⟩
/-- `CKP_CFG` (R369). -/
abbrev R.CKP_CFG : Nat := 0x180004
abbrev F.CKP_CFG_RING_TIMEOUT : Fld := ⟨0x180004, 0, 5⟩
/-- `CKP_TX_LO` (R369). -/
abbrev R.CKP_TX_LO : Nat := 0x180010
abbrev F.CKP_TX_LO_COUNT_LO : Fld := ⟨0x180010, 0, 32⟩
/-- `CKP_TX_HI` (R369). -/
abbrev R.CKP_TX_HI : Nat := 0x180014
abbrev F.CKP_TX_HI_COUNT_LO : Fld := ⟨0x180014, 0, 32⟩
/-- `CKP_RX_LO` (R369). -/
abbrev R.CKP_RX_LO : Nat := 0x180018
abbrev F.CKP_RX_LO_COUNT_LO : Fld := ⟨0x180018, 0, 32⟩
/-- `CKP_RX_HI` (R369). -/
abbrev R.CKP_RX_HI : Nat := 0x18001C
abbrev F.CKP_RX_HI_COUNT_LO : Fld := ⟨0x18001C, 0, 32⟩
/-- `CKP_GRV_CFG` (R369). -/
abbrev R.CKP_GRV_CFG : Nat := 0x180100
abbrev F.CKP_GRV_CFG_RING_STAGE_PAGES : Fld := ⟨0x180100, 0, 25⟩
/-- `CKP_GRV_STAGE` (R369). -/
abbrev R.CKP_GRV_STAGE : Nat := 0x180104
abbrev F.CKP_GRV_STAGE_LINE : Fld := ⟨0x180104, 0, 31⟩
/-- `CKP_GRV_RANGES` (R369). -/
abbrev R.CKP_GRV_RANGES : Nat := 0x180108
abbrev F.CKP_GRV_RANGES_LINE : Fld := ⟨0x180108, 0, 31⟩
/-- `CKP_GRV_CARRY` (R369). -/
abbrev R.CKP_GRV_CARRY : Nat := 0x18010C
abbrev F.CKP_GRV_CARRY_LINE : Fld := ⟨0x18010C, 0, 31⟩
/-- `CKP_GRV_OP` (R369). -/
abbrev R.CKP_GRV_OP : Nat := 0x180110
abbrev F.CKP_GRV_OP_PHASE : Fld := ⟨0x180110, 0, 3⟩
abbrev F.CKP_GRV_OP_DELTA_OK : Fld := ⟨0x180110, 3, 1⟩
/-- `CKP_GRV_RING` (R369). -/
abbrev R.CKP_GRV_RING : Nat := 0x180114
abbrev F.CKP_GRV_RING_RING : Fld := ⟨0x180114, 0, 32⟩
/-- `CKP_GRV_ATTEMPT` (R369). -/
abbrev R.CKP_GRV_ATTEMPT : Nat := 0x180118
abbrev F.CKP_GRV_ATTEMPT_ATTEMPT : Fld := ⟨0x180118, 0, 32⟩
/-- `CKP_GRV_HOLD` (R369). -/
abbrev R.CKP_GRV_HOLD : Nat := 0x18011C
abbrev F.CKP_GRV_HOLD_PCLK : Fld := ⟨0x18011C, 0, 32⟩
/-- `CKP_GRV_CNT` (R369). -/
abbrev R.CKP_GRV_CNT : Nat := 0x180120
abbrev F.CKP_GRV_CNT_COMMITTED : Fld := ⟨0x180120, 0, 16⟩
abbrev F.CKP_GRV_CNT_FAILED : Fld := ⟨0x180120, 16, 8⟩
abbrev F.CKP_GRV_CNT_RESTORES : Fld := ⟨0x180120, 24, 8⟩
/-- `TH_MOD_STATUS` (R391). -/
abbrev R.TH_MOD_STATUS : Nat := 0x10000
abbrev F.TH_MOD_STATUS_BELOW_FLOOR : Fld := ⟨0x10000, 0, 1⟩
abbrev F.TH_MOD_STATUS_ORPHAN : Fld := ⟨0x10000, 1, 1⟩
abbrev F.TH_MOD_STATUS_SUPPLY_LOW : Fld := ⟨0x10000, 2, 1⟩
abbrev F.TH_MOD_STATUS_SUPPLY_HIGH : Fld := ⟨0x10000, 3, 1⟩
abbrev F.TH_MOD_STATUS_COOLANT_STOP : Fld := ⟨0x10000, 4, 1⟩
abbrev F.TH_MOD_STATUS_SHUTDOWN : Fld := ⟨0x10000, 5, 1⟩
abbrev F.TH_MOD_STATUS_PMBUS_ERR : Fld := ⟨0x10000, 6, 1⟩
abbrev F.TH_MOD_STATUS_INLET_FAIL : Fld := ⟨0x10000, 7, 1⟩
abbrev F.TH_MOD_STATUS_STEP_ACTIVE : Fld := ⟨0x10000, 8, 1⟩
/-- `TH_MOD_CAP` (R391). -/
abbrev R.TH_MOD_CAP : Nat := 0x10004
abbrev F.TH_MOD_CAP_CAP : Fld := ⟨0x10004, 0, 16⟩
abbrev F.TH_MOD_CAP_SOURCE : Fld := ⟨0x10004, 16, 3⟩
/-- `TH_MOD_HOST_CAP` (R391). -/
abbrev R.TH_MOD_HOST_CAP : Nat := 0x10008
abbrev F.TH_MOD_HOST_CAP_CAP : Fld := ⟨0x10008, 0, 16⟩
/-- `TH_MOD_ORPHAN` (R391). -/
abbrev R.TH_MOD_ORPHAN : Nat := 0x1000C
abbrev F.TH_MOD_ORPHAN_CAP : Fld := ⟨0x1000C, 0, 16⟩
abbrev F.TH_MOD_ORPHAN_SILENCE : Fld := ⟨0x1000C, 16, 8⟩
/-- `TH_MOD_STEP_CAP` (R391). -/
abbrev R.TH_MOD_STEP_CAP : Nat := 0x10010
abbrev F.TH_MOD_STEP_CAP_CAP : Fld := ⟨0x10010, 0, 16⟩
/-- `TH_MOD_CFG` (R391). -/
abbrev R.TH_MOD_CFG : Nat := 0x10014
abbrev F.TH_MOD_CFG_SHARED : Fld := ⟨0x10014, 0, 8⟩
abbrev F.TH_MOD_CFG_DTDT : Fld := ⟨0x10014, 8, 8⟩
abbrev F.TH_MOD_CFG_KEEP_S : Fld := ⟨0x10014, 16, 8⟩
abbrev F.TH_MOD_CFG_FLOW_EN : Fld := ⟨0x10014, 24, 1⟩
/-- `TH_MOD_SUPPLY` (R391). -/
abbrev R.TH_MOD_SUPPLY : Nat := 0x10018
abbrev F.TH_MOD_SUPPLY_VIN : Fld := ⟨0x10018, 0, 16⟩
abbrev F.TH_MOD_SUPPLY_TIN : Fld := ⟨0x10018, 16, 16⟩
/-- `TH_MOD_POWER` (R391). -/
abbrev R.TH_MOD_POWER : Nat := 0x1001C
abbrev F.TH_MOD_POWER_POWER : Fld := ⟨0x1001C, 0, 16⟩
abbrev F.TH_MOD_POWER_DEMAND : Fld := ⟨0x1001C, 16, 16⟩
/-- `TH_MOD_FLOOR` (R391). -/
abbrev R.TH_MOD_FLOOR : Nat := 0x10020
abbrev F.TH_MOD_FLOOR_FLOOR : Fld := ⟨0x10020, 0, 16⟩
abbrev F.TH_MOD_FLOOR_PMBUS_CAP : Fld := ⟨0x10020, 16, 16⟩
/-- `TH_MOD_COUNT` (R391). -/
abbrev R.TH_MOD_COUNT : Nat := 0x10024
abbrev F.TH_MOD_COUNT_BELOW_FLOOR : Fld := ⟨0x10024, 0, 8⟩
abbrev F.TH_MOD_COUNT_COOLANT_STOP : Fld := ⟨0x10024, 8, 8⟩
abbrev F.TH_MOD_COUNT_PMBUS_ERR : Fld := ⟨0x10024, 16, 8⟩
abbrev F.TH_MOD_COUNT_ORPHAN : Fld := ⟨0x10024, 24, 8⟩
/-- `TH_STATUS` (R393). -/
abbrev R.TH_STATUS : Nat := 0x20000
abbrev F.TH_STATUS_THETA_ALERT : Fld := ⟨0x20000, 0, 1⟩
abbrev F.TH_STATUS_FIELD_STOP : Fld := ⟨0x20000, 1, 1⟩
abbrev F.TH_STATUS_PAIR_DISAGREE : Fld := ⟨0x20000, 2, 1⟩
abbrev F.TH_STATUS_SENSOR_SUSPECT : Fld := ⟨0x20000, 3, 1⟩
abbrev F.TH_STATUS_TRIM : Fld := ⟨0x20000, 4, 1⟩
abbrev F.TH_STATUS_LIMITING : Fld := ⟨0x20000, 5, 1⟩
/-- `TH_CH_CFG` (R393). -/
abbrev R.TH_CH_CFG : Nat := 0x20004
abbrev F.TH_CH_CFG_LIMIT : Fld := ⟨0x20004, 0, 16⟩
abbrev F.TH_CH_CFG_SLEW : Fld := ⟨0x20004, 16, 8⟩
/-- `TH_TARGET` (R393). -/
abbrev R.TH_TARGET : Nat := 0x20008
abbrev F.TH_TARGET_TARGET : Fld := ⟨0x20008, 0, 16⟩
abbrev F.TH_TARGET_SHARE : Fld := ⟨0x20008, 16, 16⟩
/-- `TH_POWER` (R393). -/
abbrev R.TH_POWER : Nat := 0x2000C
abbrev F.TH_POWER_POWER : Fld := ⟨0x2000C, 0, 16⟩
abbrev F.TH_POWER_DEMAND : Fld := ⟨0x2000C, 16, 16⟩
/-- `TH_DUTY` (R393). -/
abbrev R.TH_DUTY : Nat := 0x20010
abbrev F.TH_DUTY_DUTY : Fld := ⟨0x20010, 0, 9⟩
abbrev F.TH_DUTY_HOLD : Fld := ⟨0x20010, 16, 16⟩
/-- `TH_THETA` (R393). -/
abbrev R.TH_THETA : Nat := 0x20014
abbrev F.TH_THETA_THETA : Fld := ⟨0x20014, 0, 32⟩
/-- `TH_THETA_NOM` (R393). -/
abbrev R.TH_THETA_NOM : Nat := 0x20018
abbrev F.TH_THETA_NOM_NOM : Fld := ⟨0x20018, 0, 32⟩
/-- `TH_TJ` (R393). -/
abbrev R.TH_TJ : Nat := 0x2001C
abbrev F.TH_TJ_TJ_MAX : Fld := ⟨0x2001C, 0, 16⟩
abbrev F.TH_TJ_HOT_FIELD : Fld := ⟨0x2001C, 16, 3⟩
abbrev F.TH_TJ_STOPPED : Fld := ⟨0x2001C, 24, 6⟩
/-- `TH_SUSPECT_LO` (R393). -/
abbrev R.TH_SUSPECT_LO : Nat := 0x20020
abbrev F.TH_SUSPECT_LO_SUSPECT : Fld := ⟨0x20020, 0, 32⟩
/-- `TH_SUSPECT_HI` (R393). -/
abbrev R.TH_SUSPECT_HI : Nat := 0x20024
abbrev F.TH_SUSPECT_HI_SUSPECT : Fld := ⟨0x20024, 0, 16⟩
/-- `TH_FIELD_TEMP` (R393). -/
abbrev R.TH_FIELD_TEMP : Nat := 0x20040
abbrev F.TH_FIELD_TEMP_TEMP : Fld := ⟨0x20040, 0, 16⟩
/-- `TH_LIMIT_LO` (R393). -/
abbrev R.TH_LIMIT_LO : Nat := 0x20060
abbrev F.TH_LIMIT_LO_COUNT_LO : Fld := ⟨0x20060, 0, 32⟩
/-- `TH_LIMIT_HI` (R393). -/
abbrev R.TH_LIMIT_HI : Nat := 0x20064
abbrev F.TH_LIMIT_HI_COUNT_LO : Fld := ⟨0x20064, 0, 32⟩
/-- `TH_COUNT` (R393). -/
abbrev R.TH_COUNT : Nat := 0x20068
abbrev F.TH_COUNT_FIELD_STOP : Fld := ⟨0x20068, 0, 8⟩
abbrev F.TH_COUNT_PAIR_DISAGREE : Fld := ⟨0x20068, 8, 8⟩
abbrev F.TH_COUNT_SENSOR_SUSPECT : Fld := ⟨0x20068, 16, 8⟩
abbrev F.TH_COUNT_THETA_ALERT : Fld := ⟨0x20068, 24, 8⟩
/-- `CTL_BRINGUP` (R419). -/
abbrev R.CTL_BRINGUP : Nat := 0x100
abbrev F.CTL_BRINGUP_STEP : Fld := ⟨0x100, 0, 4⟩
abbrev F.CTL_BRINGUP_FAIL_STEP : Fld := ⟨0x100, 4, 4⟩
abbrev F.CTL_BRINGUP_BANDS : Fld := ⟨0x100, 8, 3⟩
abbrev F.CTL_BRINGUP_HELD : Fld := ⟨0x100, 11, 1⟩
/-- `CTL_KNOTS` (R419). -/
abbrev R.CTL_KNOTS : Nat := 0x104
abbrev F.CTL_KNOTS_KNOTS : Fld := ⟨0x104, 0, 13⟩
abbrev F.CTL_KNOTS_NEW : Fld := ⟨0x104, 13, 13⟩
abbrev F.CTL_KNOTS_ROWS : Fld := ⟨0x104, 26, 4⟩
/-- `CTL_FAULT_CFG` (R419). -/
abbrev R.CTL_FAULT_CFG : Nat := 0x108
abbrev F.CTL_FAULT_CFG_WD_LIMIT : Fld := ⟨0x108, 0, 5⟩
abbrev F.CTL_FAULT_CFG_HB_INT : Fld := ⟨0x108, 8, 5⟩
/-- `CTL_FAULT_STATUS` (R419). -/
abbrev R.CTL_FAULT_STATUS : Nat := 0x10C
abbrev F.CTL_FAULT_STATUS_TILE_FAIL : Fld := ⟨0x10C, 0, 1⟩
abbrev F.CTL_FAULT_STATUS_REMAP : Fld := ⟨0x10C, 1, 1⟩
abbrev F.CTL_FAULT_STATUS_EXHAUSTED : Fld := ⟨0x10C, 2, 1⟩
abbrev F.CTL_FAULT_STATUS_ROUTER_FAIL : Fld := ⟨0x10C, 3, 1⟩
abbrev F.CTL_FAULT_STATUS_KNOT_WRITE_FAIL : Fld := ⟨0x10C, 4, 1⟩
abbrev F.CTL_FAULT_STATUS_REPLAY_FAIL : Fld := ⟨0x10C, 5, 1⟩
/-- `CTL_FAULT_COUNT` (R419). -/
abbrev R.CTL_FAULT_COUNT : Nat := 0x110
abbrev F.CTL_FAULT_COUNT_ECC : Fld := ⟨0x110, 0, 8⟩
abbrev F.CTL_FAULT_COUNT_WATCHDOG : Fld := ⟨0x110, 8, 8⟩
abbrev F.CTL_FAULT_COUNT_HEARTBEAT : Fld := ⟨0x110, 16, 8⟩
abbrev F.CTL_FAULT_COUNT_REMAP : Fld := ⟨0x110, 24, 8⟩
/-- `CTL_FAULT_COUNT2` (R419). -/
abbrev R.CTL_FAULT_COUNT2 : Nat := 0x114
abbrev F.CTL_FAULT_COUNT2_EXHAUSTED : Fld := ⟨0x114, 0, 8⟩
abbrev F.CTL_FAULT_COUNT2_ROUTER_FAIL : Fld := ⟨0x114, 8, 8⟩
abbrev F.CTL_FAULT_COUNT2_KNOT_WRITE_FAIL : Fld := ⟨0x114, 16, 8⟩
abbrev F.CTL_FAULT_COUNT2_REPLAY_FAIL : Fld := ⟨0x114, 24, 8⟩
/-- `CTL_LAST_FAIL` (R419). -/
abbrev R.CTL_LAST_FAIL : Nat := 0x118
abbrev F.CTL_LAST_FAIL_X : Fld := ⟨0x118, 0, 6⟩
abbrev F.CTL_LAST_FAIL_Y : Fld := ⟨0x118, 6, 7⟩
abbrev F.CTL_LAST_FAIL_CAUSE : Fld := ⟨0x118, 13, 3⟩
abbrev F.CTL_LAST_FAIL_GROVE : Fld := ⟨0x118, 16, 4⟩
abbrev F.CTL_LAST_FAIL_FREE : Fld := ⟨0x118, 20, 1⟩
/-- `CTL_LAST_REMAP` (R419). -/
abbrev R.CTL_LAST_REMAP : Nat := 0x11C
abbrev F.CTL_LAST_REMAP_X : Fld := ⟨0x11C, 0, 6⟩
abbrev F.CTL_LAST_REMAP_Y : Fld := ⟨0x11C, 6, 7⟩
abbrev F.CTL_LAST_REMAP_REGION : Fld := ⟨0x11C, 13, 6⟩
/-- `PD_CH_HOLD` (R420). -/
abbrev R.PD_CH_HOLD : Nat := 0x1C
abbrev F.PD_CH_HOLD_MASK : Fld := ⟨0x1C, 0, 8⟩
/-- `PD_FW` (R420). -/
abbrev R.PD_FW : Nat := 0x60
abbrev F.PD_FW_ACTIVE : Fld := ⟨0x60, 0, 1⟩
abbrev F.PD_FW_FALLBACK : Fld := ⟨0x60, 1, 1⟩
abbrev F.PD_FW_RECOVERY : Fld := ⟨0x60, 2, 1⟩
/-- `PD_DMAP` (R420). -/
abbrev R.PD_DMAP : Nat := 0x64
abbrev F.PD_DMAP_RECORDS : Fld := ⟨0x64, 0, 16⟩
abbrev F.PD_DMAP_SKIPPED : Fld := ⟨0x64, 16, 8⟩
abbrev F.PD_DMAP_TRUNC : Fld := ⟨0x64, 24, 1⟩
abbrev F.PD_DMAP_FULL : Fld := ⟨0x64, 25, 1⟩
/-- `PD_FLOG_SEQ` (R420). -/
abbrev R.PD_FLOG_SEQ : Nat := 0x48000
abbrev F.PD_FLOG_SEQ_NEXT : Fld := ⟨0x48000, 0, 32⟩
/-- `SEC_STATUS` (R440). -/
abbrev R.SEC_STATUS : Nat := 0x20000
abbrev F.SEC_STATUS_MESH : Fld := ⟨0x20000, 0, 1⟩
abbrev F.SEC_STATUS_SEAL : Fld := ⟨0x20000, 1, 1⟩
abbrev F.SEC_STATUS_GLITCH : Fld := ⟨0x20000, 2, 1⟩
abbrev F.SEC_STATUS_FW_AUTH : Fld := ⟨0x20000, 3, 1⟩
abbrev F.SEC_STATUS_ATTEST : Fld := ⟨0x20000, 4, 1⟩
abbrev F.SEC_STATUS_MESH_NOW : Fld := ⟨0x20000, 8, 1⟩
abbrev F.SEC_STATUS_ALARM_FREEZE : Fld := ⟨0x20000, 9, 1⟩
/-- `SEC_ALARM_CFG` (R440). -/
abbrev R.SEC_ALARM_CFG : Nat := 0x20004
abbrev F.SEC_ALARM_CFG_TAMPER : Fld := ⟨0x20004, 0, 2⟩
abbrev F.SEC_ALARM_CFG_GLITCH : Fld := ⟨0x20004, 2, 2⟩
abbrev F.SEC_ALARM_CFG_FW_AUTH : Fld := ⟨0x20004, 4, 2⟩
abbrev F.SEC_ALARM_CFG_ATTEST : Fld := ⟨0x20004, 6, 2⟩
/-- `SEC_FWA_CFG` (R440). -/
abbrev R.SEC_FWA_CFG : Nat := 0x20008
abbrev F.SEC_FWA_CFG_LIMIT : Fld := ⟨0x20008, 0, 8⟩
abbrev F.SEC_FWA_CFG_WINDOW : Fld := ⟨0x20008, 8, 8⟩
/-- `SEC_KEYS` (R440). -/
abbrev R.SEC_KEYS : Nat := 0x2000C
abbrev F.SEC_KEYS_OWNERS : Fld := ⟨0x2000C, 0, 2⟩
abbrev F.SEC_KEYS_HOSTS : Fld := ⟨0x2000C, 2, 6⟩
abbrev F.SEC_KEYS_PUBLISHERS : Fld := ⟨0x2000C, 8, 5⟩
/-- `SEC_KEY_COUNTER` (R440). -/
abbrev R.SEC_KEY_COUNTER : Nat := 0x20010
abbrev F.SEC_KEY_COUNTER_COUNTER : Fld := ⟨0x20010, 0, 32⟩
/-- `SEC_SVN` (R440). -/
abbrev R.SEC_SVN : Nat := 0x20014
abbrev F.SEC_SVN_MIN_SVN : Fld := ⟨0x20014, 0, 16⟩
abbrev F.SEC_SVN_ACTIVE_SVN : Fld := ⟨0x20014, 16, 16⟩
/-- `SEC_CTL` (R440). -/
abbrev R.SEC_CTL : Nat := 0x20018
abbrev F.SEC_CTL_SVN_COMMIT : Fld := ⟨0x20018, 0, 1⟩
/-- `SEC_ALARM_COUNT` (R440). -/
abbrev R.SEC_ALARM_COUNT : Nat := 0x20020
abbrev F.SEC_ALARM_COUNT_MESH : Fld := ⟨0x20020, 0, 8⟩
abbrev F.SEC_ALARM_COUNT_SEAL : Fld := ⟨0x20020, 8, 8⟩
abbrev F.SEC_ALARM_COUNT_GLITCH : Fld := ⟨0x20020, 16, 8⟩
abbrev F.SEC_ALARM_COUNT_FW_AUTH : Fld := ⟨0x20020, 24, 8⟩
/-- `SEC_ALARM_COUNT2` (R440). -/
abbrev R.SEC_ALARM_COUNT2 : Nat := 0x20024
abbrev F.SEC_ALARM_COUNT2_ATTEST : Fld := ⟨0x20024, 0, 8⟩
abbrev F.SEC_ALARM_COUNT2_SIG_FAILS : Fld := ⟨0x20024, 8, 8⟩
/-- `MET_STATUS` (R440). -/
abbrev R.MET_STATUS : Nat := 0x30000
abbrev F.MET_STATUS_BREACH : Fld := ⟨0x30000, 0, 1⟩
abbrev F.MET_STATUS_GAP : Fld := ⟨0x30000, 1, 1⟩
abbrev F.MET_STATUS_LINK_ERR : Fld := ⟨0x30000, 2, 1⟩
abbrev F.MET_STATUS_UNBOUND : Fld := ⟨0x30000, 3, 1⟩
abbrev F.MET_STATUS_PRESENT : Fld := ⟨0x30000, 8, 1⟩
abbrev F.MET_STATUS_SEAL_OK : Fld := ⟨0x30000, 9, 1⟩
abbrev F.MET_STATUS_BOUND_OK : Fld := ⟨0x30000, 10, 1⟩
/-- `MET_CFG` (R440). -/
abbrev R.MET_CFG : Nat := 0x30004
abbrev F.MET_CFG_APP_INT : Fld := ⟨0x30004, 0, 8⟩
abbrev F.MET_CFG_APPORTION : Fld := ⟨0x30004, 8, 1⟩
/-- `MET_CTL` (R440). -/
abbrev R.MET_CTL : Nat := 0x30008
abbrev F.MET_CTL_BIND : Fld := ⟨0x30008, 0, 1⟩
/-- `MET_SERIAL_LO` (R440). -/
abbrev R.MET_SERIAL_LO : Nat := 0x30010
abbrev F.MET_SERIAL_LO_SERIAL : Fld := ⟨0x30010, 0, 32⟩
/-- `MET_SERIAL_HI` (R440). -/
abbrev R.MET_SERIAL_HI : Nat := 0x30014
abbrev F.MET_SERIAL_HI_SERIAL : Fld := ⟨0x30014, 0, 32⟩
/-- `MET_FW_SUM` (R440). -/
abbrev R.MET_FW_SUM : Nat := 0x30018
abbrev F.MET_FW_SUM_SUM : Fld := ⟨0x30018, 0, 32⟩
/-- `MET_BREACHES` (R440). -/
abbrev R.MET_BREACHES : Nat := 0x3001C
abbrev F.MET_BREACHES_BREACHES : Fld := ⟨0x3001C, 0, 16⟩
/-- `MET_READOUTS` (R440). -/
abbrev R.MET_READOUTS : Nat := 0x30020
abbrev F.MET_READOUTS_READOUTS : Fld := ⟨0x30020, 0, 32⟩
/-- `MET_COUNT` (R440). -/
abbrev R.MET_COUNT : Nat := 0x30024
abbrev F.MET_COUNT_BREACH : Fld := ⟨0x30024, 0, 8⟩
abbrev F.MET_COUNT_GAP : Fld := ⟨0x30024, 8, 8⟩
abbrev F.MET_COUNT_LINK_ERR : Fld := ⟨0x30024, 16, 8⟩
abbrev F.MET_COUNT_UNBOUND : Fld := ⟨0x30024, 24, 8⟩
/-- `MET_E_LO` (R440). -/
abbrev R.MET_E_LO : Nat := 0x30040
abbrev F.MET_E_LO_COUNT_LO : Fld := ⟨0x30040, 0, 32⟩
/-- `MET_E_HI` (R440). -/
abbrev R.MET_E_HI : Nat := 0x30044
abbrev F.MET_E_HI_COUNT_LO : Fld := ⟨0x30044, 0, 32⟩

/-- Part of the channel register map. -/
def chanRegs0 : List RegDef := [
  ⟨0x10000, 1, 0x0, 1, 0x0, 0x00000000, .none, [⟨0, 1, .ro⟩, ⟨1, 1, .ro⟩, ⟨2, 6, .rsv⟩, ⟨8, 1, .w1c⟩, ⟨9, 1, .w1c⟩, ⟨10, 1, .w1c⟩, ⟨11, 5, .rsv⟩, ⟨16, 1, .w1c⟩, ⟨17, 15, .rsv⟩]⟩,  -- CLK_STATUS (R39)
  ⟨0x10010, 1, 0x0, 1, 0x0, 0x00C63460, .none, [⟨0, 8, .ro⟩, ⟨8, 4, .ro⟩, ⟨12, 4, .ro⟩, ⟨16, 4, .ro⟩, ⟨20, 4, .ro⟩, ⟨24, 8, .rsv⟩]⟩,  -- CLK_CFG (R39)
  ⟨0x10020, 1, 0x0, 1, 0x0, 0x00000000, .none, [⟨0, 4, .ro⟩, ⟨4, 4, .ro⟩, ⟨8, 4, .ro⟩, ⟨12, 1, .ro⟩, ⟨13, 1, .ro⟩, ⟨14, 1, .ro⟩, ⟨15, 17, .rsv⟩]⟩,  -- CLK_SEAM_PHASE (R39)
  ⟨0x10030, 1, 0x0, 1, 0x0, 0x00000000, .none, [⟨0, 32, .ro⟩]⟩,  -- CLK_PCLK_COUNT_LO (R39)
  ⟨0x10034, 1, 0x0, 1, 0x0, 0x00000000, .none, [⟨0, 32, .ro⟩]⟩,  -- CLK_PCLK_COUNT_HI (R39)
  ⟨0x200000, 4320, 0x400, 1, 0x0, 0x00000000, .none, [⟨0, 2, .ro⟩, ⟨2, 2, .ro⟩, ⟨4, 2, .ro⟩, ⟨6, 2, .ro⟩, ⟨8, 1, .w1c⟩, ⟨9, 1, .w1c⟩, ⟨10, 1, .w1c⟩, ⟨11, 21, .rsv⟩]⟩,  -- TILE_STATUS (R95)
  ⟨0x200004, 4320, 0x400, 1, 0x0, 0x00000000, .none, [⟨0, 1, .rw⟩, ⟨1, 1, .rw⟩, ⟨2, 1, .wo⟩, ⟨3, 29, .rsv⟩]⟩,  -- TILE_CTL (R95)
  ⟨0x200008, 4320, 0x400, 1, 0x0, 0x00000000, .none, [⟨0, 8, .ro⟩, ⟨8, 1, .ro⟩, ⟨9, 3, .ro⟩, ⟨12, 15, .ro⟩, ⟨27, 5, .rsv⟩]⟩,  -- TILE_FAULT (R95)
  ⟨0x200010, 4320, 0x400, 1, 0x0, 0x00000000, .grove, [⟨0, 21, .rws⟩, ⟨21, 11, .rsv⟩]⟩,  -- TILE_CTX0_ENTRY (R95)
  ⟨0x200014, 4320, 0x400, 1, 0x0, 0x00000000, .grove, [⟨0, 21, .rws⟩, ⟨21, 11, .rsv⟩]⟩,  -- TILE_CTX1_ENTRY (R95)
  ⟨0x200018, 4320, 0x400, 1, 0x0, 0x00000000, .grove, [⟨0, 32, .rws⟩]⟩,  -- TILE_SEED_LO (R95)
  ⟨0x20001C, 4320, 0x400, 1, 0x0, 0x00000000, .grove, [⟨0, 32, .rws⟩]⟩,  -- TILE_SEED_HI (R95)
  ⟨0x200020, 4320, 0x400, 1, 0x0, 0x00000000, .none, [⟨0, 32, .ro⟩]⟩,  -- TILE_KEY_STEP0 (R95)
  ⟨0x200024, 4320, 0x400, 1, 0x0, 0x00000000, .none, [⟨0, 32, .ro⟩]⟩,  -- TILE_KEY_STEP1 (R95)
  ⟨0x200028, 4320, 0x400, 1, 0x0, 0x00000000, .none, [⟨0, 16, .ro⟩, ⟨16, 16, .ro⟩]⟩,  -- TILE_KEY_MB (R95)
  ⟨0x200030, 4320, 0x400, 1, 0x0, 0x00000000, .none, [⟨0, 16, .ro⟩, ⟨16, 16, .ro⟩]⟩,  -- TILE_ECC_CE_COUNT (R95)
  ⟨0x200040, 4320, 0x400, 1, 0x0, 0x00000000, .none, [⟨0, 32, .ro⟩]⟩,  -- TILE_A_RETIRED_LO (R95)
  ⟨0x200044, 4320, 0x400, 1, 0x0, 0x00000000, .none, [⟨0, 32, .ro⟩]⟩,  -- TILE_A_RETIRED_HI (R95)
  ⟨0x200048, 4320, 0x400, 1, 0x0, 0x00000000, .none, [⟨0, 32, .ro⟩]⟩,  -- TILE_B_RETIRED_LO (R95)
  ⟨0x20004C, 4320, 0x400, 1, 0x0, 0x00000000, .none, [⟨0, 32, .ro⟩]⟩ ]  -- TILE_B_RETIRED_HI (R95)

/-- Part of the channel register map. -/
def chanRegs1 : List RegDef := [
  ⟨0x640000, 1, 0x0, 1, 0x0, 0x00000024, .none, [⟨0, 7, .rw⟩, ⟨7, 25, .rsv⟩]⟩,  -- CTL_UND_CFG (R118)
  ⟨0x640004, 1, 0x0, 1, 0x0, 0x00000000, .none, [⟨0, 6, .w1c⟩, ⟨6, 10, .ro⟩, ⟨16, 8, .ro⟩, ⟨24, 8, .rsv⟩]⟩,  -- CTL_UND_FREE (R118)
  ⟨0x644000, 16, 0x4000, 1, 0x0, 0x00000000, .grove, [⟨0, 7, .rws⟩, ⟨7, 4, .ro⟩, ⟨11, 1, .rws⟩, ⟨12, 16, .rws⟩, ⟨28, 4, .rsv⟩]⟩,  -- CTL_GRV_CFG (R118)
  ⟨0x644004, 16, 0x4000, 1, 0x0, 0x00000000, .none, [⟨0, 7, .ro⟩, ⟨7, 13, .ro⟩, ⟨20, 12, .rsv⟩]⟩,  -- CTL_GRV_USE (R118)
  ⟨0x644100, 16, 0x4000, 64, 0x10, 0x00000000, .grove, [⟨0, 1, .rws⟩, ⟨1, 1, .rws⟩, ⟨2, 1, .rws⟩, ⟨3, 5, .rsv⟩, ⟨8, 6, .rws⟩, ⟨14, 7, .rws⟩, ⟨21, 11, .rsv⟩]⟩,  -- CTL_GRV_REGION_W0 (R118)
  ⟨0x644104, 16, 0x4000, 64, 0x10, 0x00000000, .grove, [⟨0, 6, .rws⟩, ⟨6, 7, .rws⟩, ⟨13, 6, .rws⟩, ⟨19, 7, .rws⟩, ⟨26, 6, .rsv⟩]⟩,  -- CTL_GRV_REGION_W1 (R118)
  ⟨0x644108, 16, 0x4000, 64, 0x10, 0x00000000, .grove, [⟨0, 16, .rws⟩, ⟨16, 6, .rws⟩, ⟨22, 3, .rws⟩, ⟨25, 7, .rsv⟩]⟩,  -- CTL_GRV_REGION_W2 (R118)
  ⟨0x644800, 16, 0x4000, 64, 0x8, 0x00000000, .grove, [⟨0, 1, .rws⟩, ⟨1, 6, .rws⟩, ⟨7, 8, .rws⟩, ⟨15, 8, .rws⟩, ⟨23, 9, .rsv⟩]⟩,  -- CTL_GRV_EXC_W0 (R118)
  ⟨0x644804, 16, 0x4000, 64, 0x8, 0x00000000, .grove, [⟨0, 6, .rws⟩, ⟨6, 7, .rws⟩, ⟨13, 19, .rsv⟩]⟩,  -- CTL_GRV_EXC_W1 (R118)
  ⟨0xA0000, 1, 0x0, 1, 0x0, 0x00000000, .none, [⟨0, 1, .w1c⟩, ⟨1, 1, .w1c⟩, ⟨2, 1, .w1c⟩, ⟨3, 1, .w1c⟩, ⟨4, 28, .rsv⟩]⟩,  -- SP_WS_STATUS (R150)
  ⟨0xA0004, 1, 0x0, 1, 0x0, 0x00000000, .none, [⟨0, 16, .ro⟩, ⟨16, 16, .ro⟩]⟩,  -- SP_WS_SLOT (R150)
  ⟨0xA0010, 1, 0x0, 1, 0x0, 0x00000218, .none, [⟨0, 5, .rw⟩, ⟨5, 3, .rsv⟩, ⟨8, 4, .rw⟩, ⟨12, 20, .rsv⟩]⟩,  -- SP_WS_CFG (R150)
  ⟨0xA0020, 1, 0x0, 1, 0x0, 0x00000000, .none, [⟨0, 32, .ro⟩]⟩,  -- SP_WS_VERIFIED_LO (R150)
  ⟨0xA0024, 1, 0x0, 1, 0x0, 0x00000000, .none, [⟨0, 32, .ro⟩]⟩,  -- SP_WS_VERIFIED_HI (R150)
  ⟨0xA0028, 1, 0x0, 1, 0x0, 0x00000000, .none, [⟨0, 10, .ro⟩, ⟨10, 10, .ro⟩, ⟨20, 12, .ro⟩]⟩,  -- SP_WS_ERR_COUNT (R150)
  ⟨0xA0030, 1, 0x0, 1, 0x0, 0x00000000, .none, [⟨0, 32, .ro⟩]⟩,  -- SP_WS_GATE_WAIT_LO (R150)
  ⟨0xA0034, 1, 0x0, 1, 0x0, 0x00000000, .none, [⟨0, 32, .ro⟩]⟩,  -- SP_WS_GATE_WAIT_HI (R150)
  ⟨0xA0040, 1, 0x0, 1, 0x0, 0x00000000, .none, [⟨0, 15, .rw⟩, ⟨15, 1, .rsv⟩, ⟨16, 15, .rw⟩, ⟨31, 1, .rsv⟩]⟩,  -- SP_WS_INGRESS_PEAK (R150)
  ⟨0xA0100, 16, 0x10, 1, 0x0, 0x00000000, .grove, [⟨0, 4, .rws⟩, ⟨4, 1, .rws⟩, ⟨5, 16, .rws⟩, ⟨21, 1, .rws⟩, ⟨22, 10, .rsv⟩]⟩,  -- SP_WS_GRV_CFG (R150)
  ⟨0xA0104, 16, 0x10, 1, 0x0, 0x00000000, .none, [⟨0, 13, .ro⟩, ⟨13, 13, .ro⟩, ⟨26, 1, .ro⟩, ⟨27, 1, .ro⟩, ⟨28, 4, .rsv⟩]⟩ ]  -- SP_WS_GRV_REL (R150)

/-- Part of the channel register map. -/
def chanRegs2 : List RegDef := [
  ⟨0xA0108, 16, 0x10, 1, 0x0, 0x00000000, .grove, [⟨0, 31, .rws⟩, ⟨31, 1, .rsv⟩]⟩,  -- SP_WS_GRV_REL_LINE (R150)
  ⟨0x60000, 1, 0x0, 1, 0x0, 0x00000000, .none, [⟨0, 1, .w1c⟩, ⟨1, 1, .w1c⟩, ⟨2, 1, .w1c⟩, ⟨3, 1, .w1c⟩, ⟨4, 1, .w1c⟩, ⟨5, 27, .rsv⟩]⟩,  -- HBM_STASH_STATUS (R182)
  ⟨0x60004, 1, 0x0, 1, 0x0, 0x00000000, .none, [⟨0, 25, .ro⟩, ⟨25, 7, .rsv⟩]⟩,  -- HBM_STASH_POOL (R182)
  ⟨0x60100, 16, 0x40, 1, 0x0, 0x00000000, .grove, [⟨0, 25, .rws⟩, ⟨25, 7, .rsv⟩]⟩,  -- HBM_STASH_GRV_CAP (R182)
  ⟨0x60104, 16, 0x40, 1, 0x0, 0x00000000, .grove, [⟨0, 25, .rws⟩, ⟨25, 7, .rsv⟩]⟩,  -- HBM_STASH_GRV_MARK (R182)
  ⟨0x60108, 16, 0x40, 1, 0x0, 0x00000000, .grove, [⟨0, 25, .rws⟩, ⟨25, 7, .rsv⟩]⟩,  -- HBM_STASH_GRV_RSV (R182)
  ⟨0x6010C, 16, 0x40, 1, 0x0, 0x00010000, .grove, [⟨0, 4, .rws⟩, ⟨4, 16, .rws⟩, ⟨20, 12, .rsv⟩]⟩,  -- HBM_STASH_GRV_CFG (R182)
  ⟨0x60110, 16, 0x40, 1, 0x0, 0x00000000, .grove, [⟨0, 31, .rws⟩, ⟨31, 1, .rsv⟩]⟩,  -- HBM_STASH_GRV_PLAN (R182)
  ⟨0x60114, 16, 0x40, 1, 0x0, 0x00000000, .none, [⟨0, 25, .ro⟩, ⟨25, 7, .rsv⟩]⟩,  -- HBM_STASH_GRV_OCC (R182)
  ⟨0x60118, 16, 0x40, 1, 0x0, 0x00000000, .none, [⟨0, 25, .rw⟩, ⟨25, 7, .rsv⟩]⟩,  -- HBM_STASH_GRV_PEAK (R182)
  ⟨0x6011C, 16, 0x40, 1, 0x0, 0x00000000, .none, [⟨0, 12, .ro⟩, ⟨12, 12, .ro⟩, ⟨24, 6, .ro⟩, ⟨30, 2, .ro⟩]⟩,  -- HBM_STASH_GRV_EVT (R182)
  ⟨0x60120, 16, 0x40, 1, 0x0, 0x00000000, .none, [⟨0, 32, .ro⟩]⟩,  -- HBM_STASH_GRV_HOLD_LO (R182)
  ⟨0x60124, 16, 0x40, 1, 0x0, 0x00000000, .none, [⟨0, 32, .ro⟩]⟩,  -- HBM_STASH_GRV_HOLD_HI (R182)
  ⟨0x100000, 1, 0x0, 1, 0x0, 0x00000000, .none, [⟨0, 1, .w1c⟩, ⟨1, 1, .w1c⟩, ⟨2, 1, .w1c⟩, ⟨3, 1, .w1c⟩, ⟨4, 1, .w1c⟩, ⟨5, 1, .w1c⟩, ⟨6, 1, .w1c⟩, ⟨7, 1, .w1c⟩, ⟨8, 1, .w1c⟩, ⟨9, 23, .rsv⟩]⟩,  -- RED_STATUS (R216)
  ⟨0x100100, 16, 0x40, 1, 0x0, 0x00000400, .grove, [⟨0, 2, .rws⟩, ⟨2, 1, .rws⟩, ⟨3, 1, .rsv⟩, ⟨4, 13, .rws⟩, ⟨17, 12, .rws⟩, ⟨29, 3, .rsv⟩]⟩,  -- RED_GRV_CFG (R216)
  ⟨0x100104, 16, 0x40, 1, 0x0, 0x1919180E, .grove, [⟨0, 5, .rws⟩, ⟨5, 3, .rsv⟩, ⟨8, 5, .rws⟩, ⟨13, 3, .rsv⟩, ⟨16, 5, .rws⟩, ⟨21, 3, .rsv⟩, ⟨24, 5, .rws⟩, ⟨29, 3, .rsv⟩]⟩,  -- RED_GRV_TIMER (R216)
  ⟨0x100108, 16, 0x40, 1, 0x0, 0x00000000, .grove, [⟨0, 31, .rws⟩, ⟨31, 1, .rsv⟩]⟩,  -- RED_GRV_TABLE (R216)
  ⟨0x10010C, 16, 0x40, 1, 0x0, 0x00000000, .grove, [⟨0, 31, .rws⟩, ⟨31, 1, .rsv⟩]⟩,  -- RED_GRV_EF (R216)
  ⟨0x100110, 16, 0x40, 1, 0x0, 0x00000000, .grove, [⟨0, 25, .rws⟩, ⟨25, 7, .rsv⟩]⟩,  -- RED_GRV_SPOOL (R216)
  ⟨0x100114, 16, 0x40, 1, 0x0, 0x00000000, .grove, [⟨0, 25, .rws⟩, ⟨25, 7, .rsv⟩]⟩ ]  -- RED_GRV_STAGE (R216)

/-- Part of the channel register map. -/
def chanRegs3 : List RegDef := [
  ⟨0x100118, 16, 0x40, 1, 0x0, 0x00000000, .none, [⟨0, 32, .ro⟩]⟩,  -- RED_GRV_VSTEP (R216)
  ⟨0x10011C, 16, 0x40, 1, 0x0, 0x00000000, .none, [⟨0, 2, .ro⟩, ⟨2, 1, .ro⟩, ⟨3, 10, .ro⟩, ⟨13, 1, .ro⟩, ⟨14, 1, .ro⟩, ⟨15, 17, .rsv⟩]⟩,  -- RED_GRV_VCODE (R216)
  ⟨0x100120, 16, 0x40, 1, 0x0, 0x00000000, .none, [⟨0, 12, .ro⟩, ⟨12, 6, .ro⟩, ⟨18, 8, .ro⟩, ⟨26, 6, .ro⟩]⟩,  -- RED_GRV_CNT (R216)
  ⟨0x100124, 16, 0x40, 1, 0x0, 0x00000000, .none, [⟨0, 12, .ro⟩, ⟨12, 12, .ro⟩, ⟨24, 8, .ro⟩]⟩,  -- RED_GRV_DISC (R216)
  ⟨0x101000, 6, 0x40, 1, 0x0, 0x00000000, .none, [⟨0, 1, .w1c⟩, ⟨1, 1, .w1c⟩, ⟨2, 1, .w1c⟩, ⟨3, 4, .ro⟩, ⟨7, 25, .rsv⟩]⟩,  -- RED_UNIT_STATUS (R216)
  ⟨0x101004, 6, 0x40, 1, 0x0, 0x00000000, .none, [⟨0, 32, .ro⟩]⟩,  -- RED_UNIT_TX_SEQ (R216)
  ⟨0x101008, 6, 0x40, 1, 0x0, 0x00000000, .none, [⟨0, 32, .ro⟩]⟩,  -- RED_UNIT_RX_SEQ (R216)
  ⟨0x101010, 6, 0x40, 1, 0x0, 0x00000000, .none, [⟨0, 32, .ro⟩]⟩,  -- RED_UNIT_BLOCKS_LO (R216)
  ⟨0x101014, 6, 0x40, 1, 0x0, 0x00000000, .none, [⟨0, 32, .ro⟩]⟩,  -- RED_UNIT_BLOCKS_HI (R216)
  ⟨0x101018, 6, 0x40, 1, 0x0, 0x00000000, .none, [⟨0, 8, .ro⟩, ⟨8, 8, .ro⟩, ⟨16, 8, .ro⟩, ⟨24, 8, .ro⟩]⟩,  -- RED_UNIT_ERR (R216)
  ⟨0x10101C, 6, 0x40, 1, 0x0, 0x00000000, .none, [⟨0, 16, .ro⟩, ⟨16, 16, .ro⟩]⟩,  -- RED_UNIT_DISC (R216)
  ⟨0x1C0000, 1, 0x0, 1, 0x0, 0x00000000, .none, [⟨0, 1, .w1c⟩, ⟨1, 1, .w1c⟩, ⟨2, 1, .w1c⟩, ⟨3, 1, .w1c⟩, ⟨4, 28, .rsv⟩]⟩,  -- CKP_UPD_STATUS (R234)
  ⟨0x1C0100, 16, 0x40, 1, 0x0, 0x00000000, .grove, [⟨0, 6, .rws⟩, ⟨6, 4, .rws⟩, ⟨10, 1, .rws⟩, ⟨11, 21, .rsv⟩]⟩,  -- CKP_UPD_GRV_CFG (R234)
  ⟨0x1C0104, 16, 0x40, 1, 0x0, 0x00000000, .grove, [⟨0, 31, .rws⟩, ⟨31, 1, .rsv⟩]⟩,  -- CKP_UPD_GRV_TABLE (R234)
  ⟨0x1C0108, 16, 0x40, 1, 0x0, 0x00000000, .grove, [⟨0, 31, .rws⟩, ⟨31, 1, .rsv⟩]⟩,  -- CKP_UPD_GRV_STATE (R234)
  ⟨0x1C010C, 16, 0x40, 1, 0x0, 0x00000000, .grove, [⟨0, 31, .rws⟩, ⟨31, 1, .rsv⟩]⟩,  -- CKP_UPD_GRV_SUM (R234)
  ⟨0x1C0110, 16, 0x40, 1, 0x0, 0x00000000, .grove, [⟨0, 25, .rws⟩, ⟨25, 7, .rsv⟩]⟩,  -- CKP_UPD_GRV_WB (R234)
  ⟨0x1C0114, 16, 0x40, 1, 0x0, 0x00000000, .none, [⟨0, 32, .ro⟩]⟩,  -- CKP_UPD_GRV_STEP (R234)
  ⟨0x1C0118, 16, 0x40, 1, 0x0, 0x00000000, .none, [⟨0, 16, .ro⟩, ⟨16, 8, .ro⟩, ⟨24, 8, .ro⟩]⟩,  -- CKP_UPD_GRV_CNT (R234)
  ⟨0x80000, 2, 0x1000, 1, 0x0, 0x00000000, .none, [⟨0, 3, .ro⟩, ⟨3, 2, .ro⟩, ⟨5, 3, .rsv⟩, ⟨8, 8, .ro⟩, ⟨16, 1, .w1c⟩, ⟨17, 1, .w1c⟩, ⟨18, 1, .w1c⟩, ⟨19, 1, .w1c⟩, ⟨20, 1, .w1c⟩, ⟨21, 1, .w1c⟩, ⟨22, 1, .w1c⟩, ⟨23, 1, .ro⟩, ⟨24, 8, .ro⟩]⟩ ]  -- SP_LINK_STATUS (R268)

/-- Part of the channel register map. -/
def chanRegs4 : List RegDef := [
  ⟨0xC0000, 3, 0x1000, 1, 0x0, 0x00000000, .none, [⟨0, 3, .ro⟩, ⟨3, 2, .ro⟩, ⟨5, 3, .rsv⟩, ⟨8, 8, .ro⟩, ⟨16, 1, .w1c⟩, ⟨17, 1, .w1c⟩, ⟨18, 1, .w1c⟩, ⟨19, 1, .w1c⟩, ⟨20, 1, .w1c⟩, ⟨21, 1, .w1c⟩, ⟨22, 1, .w1c⟩, ⟨23, 1, .ro⟩, ⟨24, 8, .ro⟩]⟩,  -- SEAM_LINK_STATUS (R268)
  ⟨0x80004, 2, 0x1000, 1, 0x0, 0x001E0D01, .none, [⟨0, 1, .rw⟩, ⟨1, 7, .rsv⟩, ⟨8, 5, .rw⟩, ⟨13, 3, .rsv⟩, ⟨16, 5, .rw⟩, ⟨21, 11, .rsv⟩]⟩,  -- SP_LINK_CFG (R268)
  ⟨0xC0004, 3, 0x1000, 1, 0x0, 0x001E0901, .none, [⟨0, 1, .rw⟩, ⟨1, 7, .rsv⟩, ⟨8, 5, .rw⟩, ⟨13, 3, .rsv⟩, ⟨16, 5, .rw⟩, ⟨21, 11, .rsv⟩]⟩,  -- SEAM_LINK_CFG (R268)
  ⟨0x80008, 2, 0x1000, 1, 0x0, 0x18000400, .none, [⟨0, 15, .rw⟩, ⟨15, 1, .rsv⟩, ⟨16, 15, .rw⟩, ⟨31, 1, .rsv⟩]⟩,  -- SP_VL_CREDIT_01 (R268)
  ⟨0xC0008, 3, 0x1000, 1, 0x0, 0x06000100, .none, [⟨0, 15, .rw⟩, ⟨15, 1, .rsv⟩, ⟨16, 15, .rw⟩, ⟨31, 1, .rsv⟩]⟩,  -- SEAM_VL_CREDIT_01 (R268)
  ⟨0x8000C, 2, 0x1000, 1, 0x0, 0x08001C00, .none, [⟨0, 15, .rw⟩, ⟨15, 1, .rsv⟩, ⟨16, 15, .rw⟩, ⟨31, 1, .rsv⟩]⟩,  -- SP_VL_CREDIT_23 (R268)
  ⟨0xC000C, 3, 0x1000, 1, 0x0, 0x02000700, .none, [⟨0, 15, .rw⟩, ⟨15, 1, .rsv⟩, ⟨16, 15, .rw⟩, ⟨31, 1, .rsv⟩]⟩,  -- SEAM_VL_CREDIT_23 (R268)
  ⟨0x80010, 2, 0x1000, 1, 0x0, 0x00000000, .none, [⟨0, 16, .ro⟩, ⟨16, 16, .ro⟩]⟩,  -- SP_SEQ (R268)
  ⟨0xC0010, 3, 0x1000, 1, 0x0, 0x00000000, .none, [⟨0, 16, .ro⟩, ⟨16, 16, .ro⟩]⟩,  -- SEAM_SEQ (R268)
  ⟨0x80014, 2, 0x1000, 1, 0x0, 0x0000FFFE, .none, [⟨0, 16, .ro⟩, ⟨16, 3, .ro⟩, ⟨19, 13, .rsv⟩]⟩,  -- SP_PARTNER (R268)
  ⟨0xC0014, 3, 0x1000, 1, 0x0, 0x0000FFFE, .none, [⟨0, 16, .ro⟩, ⟨16, 3, .ro⟩, ⟨19, 13, .rsv⟩]⟩,  -- SEAM_PARTNER (R268)
  ⟨0x80020, 2, 0x1000, 1, 0x0, 0x00000000, .none, [⟨0, 16, .ro⟩, ⟨16, 16, .ro⟩]⟩,  -- SP_ERR_COUNT (R268)
  ⟨0xC0020, 3, 0x1000, 1, 0x0, 0x00000000, .none, [⟨0, 16, .ro⟩, ⟨16, 16, .ro⟩]⟩,  -- SEAM_ERR_COUNT (R268)
  ⟨0x80024, 2, 0x1000, 1, 0x0, 0x00000000, .none, [⟨0, 16, .ro⟩, ⟨16, 8, .ro⟩, ⟨24, 8, .ro⟩]⟩,  -- SP_LINK_COUNT (R268)
  ⟨0xC0024, 3, 0x1000, 1, 0x0, 0x00000000, .none, [⟨0, 16, .ro⟩, ⟨16, 8, .ro⟩, ⟨24, 8, .ro⟩]⟩,  -- SEAM_LINK_COUNT (R268)
  ⟨0x80028, 2, 0x1000, 1, 0x0, 0x00000000, .none, [⟨0, 8, .ro⟩, ⟨8, 8, .ro⟩, ⟨16, 16, .ro⟩]⟩,  -- SP_DISCARD_COUNT (R268)
  ⟨0xC0028, 3, 0x1000, 1, 0x0, 0x00000000, .none, [⟨0, 8, .ro⟩, ⟨8, 8, .ro⟩, ⟨16, 16, .ro⟩]⟩,  -- SEAM_DISCARD_COUNT (R268)
  ⟨0x8002C, 2, 0x1000, 1, 0x0, 0x00000000, .none, [⟨0, 16, .ro⟩, ⟨16, 8, .ro⟩, ⟨24, 8, .ro⟩]⟩,  -- SP_AUDIT_COUNT (R268)
  ⟨0xC002C, 3, 0x1000, 1, 0x0, 0x00000000, .none, [⟨0, 16, .ro⟩, ⟨16, 8, .ro⟩, ⟨24, 8, .ro⟩]⟩,  -- SEAM_AUDIT_COUNT (R268)
  ⟨0x80030, 2, 0x1000, 1, 0x0, 0x00000000, .none, [⟨0, 32, .ro⟩]⟩ ]  -- SP_FEC_CORR_LO (R268)

/-- Part of the channel register map. -/
def chanRegs5 : List RegDef := [
  ⟨0xC0030, 3, 0x1000, 1, 0x0, 0x00000000, .none, [⟨0, 32, .ro⟩]⟩,  -- SEAM_FEC_CORR_LO (R268)
  ⟨0x80034, 2, 0x1000, 1, 0x0, 0x00000000, .none, [⟨0, 32, .ro⟩]⟩,  -- SP_FEC_CORR_HI (R268)
  ⟨0xC0034, 3, 0x1000, 1, 0x0, 0x00000000, .none, [⟨0, 32, .ro⟩]⟩,  -- SEAM_FEC_CORR_HI (R268)
  ⟨0x80038, 2, 0x1000, 1, 0x0, 0x00000000, .none, [⟨0, 32, .ro⟩]⟩,  -- SP_FEC_UNCORR (R268)
  ⟨0xC0038, 3, 0x1000, 1, 0x0, 0x00000000, .none, [⟨0, 32, .ro⟩]⟩,  -- SEAM_FEC_UNCORR (R268)
  ⟨0x80040, 2, 0x1000, 1, 0x0, 0x00000000, .none, [⟨0, 32, .ro⟩]⟩,  -- SP_TX_UNITS_LO (R268)
  ⟨0xC0040, 3, 0x1000, 1, 0x0, 0x00000000, .none, [⟨0, 32, .ro⟩]⟩,  -- SEAM_TX_UNITS_LO (R268)
  ⟨0x80044, 2, 0x1000, 1, 0x0, 0x00000000, .none, [⟨0, 32, .ro⟩]⟩,  -- SP_TX_UNITS_HI (R268)
  ⟨0xC0044, 3, 0x1000, 1, 0x0, 0x00000000, .none, [⟨0, 32, .ro⟩]⟩,  -- SEAM_TX_UNITS_HI (R268)
  ⟨0x80048, 2, 0x1000, 1, 0x0, 0x00000000, .none, [⟨0, 32, .ro⟩]⟩,  -- SP_RX_UNITS_LO (R268)
  ⟨0xC0048, 3, 0x1000, 1, 0x0, 0x00000000, .none, [⟨0, 32, .ro⟩]⟩,  -- SEAM_RX_UNITS_LO (R268)
  ⟨0x8004C, 2, 0x1000, 1, 0x0, 0x00000000, .none, [⟨0, 32, .ro⟩]⟩,  -- SP_RX_UNITS_HI (R268)
  ⟨0xC004C, 3, 0x1000, 1, 0x0, 0x00000000, .none, [⟨0, 32, .ro⟩]⟩,  -- SEAM_RX_UNITS_HI (R268)
  ⟨0x88000, 1, 0x0, 1, 0x0, 0xFFFEFFFE, .none, [⟨0, 16, .ro⟩, ⟨16, 16, .ro⟩]⟩,  -- SP_NODE (R268)
  ⟨0x88010, 1, 0x0, 1, 0x0, 0x00000000, .none, [⟨0, 31, .rw⟩, ⟨31, 1, .rsv⟩]⟩,  -- SP_FWD_LINE (R268)
  ⟨0x88014, 1, 0x0, 1, 0x0, 0x00000000, .none, [⟨0, 31, .rw⟩, ⟨31, 1, .rsv⟩]⟩,  -- SP_MCAST_LINE (R268)
  ⟨0x88018, 1, 0x0, 1, 0x0, 0x00000000, .none, [⟨0, 31, .rw⟩, ⟨31, 1, .rsv⟩]⟩,  -- SP_TREE_LINE (R268)
  ⟨0x88020, 1, 0x0, 1, 0x0, 0x00000000, .none, [⟨0, 1, .wo⟩, ⟨1, 1, .ro⟩, ⟨2, 1, .ro⟩, ⟨3, 1, .w1c⟩, ⟨4, 3, .ro⟩, ⟨7, 16, .ro⟩, ⟨23, 9, .rsv⟩]⟩,  -- SP_RT_CTL (R268)
  ⟨0x88024, 1, 0x0, 1, 0x0, 0x00000000, .none, [⟨0, 16, .ro⟩, ⟨16, 16, .rsv⟩]⟩,  -- SP_RT_DISCARD (R268)
  ⟨0x40000, 1, 0x0, 1, 0x0, 0x00000020, .none, [⟨0, 3, .ro⟩, ⟨3, 1, .ro⟩, ⟨4, 1, .ro⟩, ⟨5, 1, .ro⟩, ⟨6, 2, .rsv⟩, ⟨8, 1, .w1c⟩, ⟨9, 1, .w1c⟩, ⟨10, 1, .w1c⟩, ⟨11, 1, .w1c⟩, ⟨12, 1, .w1c⟩, ⟨13, 1, .w1c⟩, ⟨14, 18, .rsv⟩]⟩ ]  -- HBM_STATUS (R282)

/-- Part of the channel register map. -/
def chanRegs6 : List RegDef := [
  ⟨0x40004, 1, 0x0, 1, 0x0, 0x00000000, .none, [⟨0, 1, .wo⟩, ⟨1, 1, .wo⟩, ⟨2, 1, .wo⟩, ⟨3, 29, .rsv⟩]⟩,  -- HBM_CTL (R282)
  ⟨0x40010, 1, 0x0, 1, 0x0, 0x0000E0B3, .none, [⟨0, 1, .rw⟩, ⟨1, 1, .rw⟩, ⟨2, 2, .rsv⟩, ⟨4, 5, .rw⟩, ⟨9, 3, .rsv⟩, ⟨12, 5, .rw⟩, ⟨17, 15, .rsv⟩]⟩,  -- HBM_SCRUB_CFG (R282)
  ⟨0x40030, 3, 0x4, 1, 0x0, 0x00000000, .none, [⟨0, 32, .ro⟩]⟩,  -- HBM_CE_COUNT (R282)
  ⟨0x4003C, 1, 0x0, 1, 0x0, 0x00000000, .none, [⟨0, 8, .ro⟩, ⟨8, 8, .ro⟩, ⟨16, 8, .ro⟩, ⟨24, 8, .ro⟩]⟩,  -- HBM_UE_COUNT (R282)
  ⟨0x40040, 1, 0x0, 1, 0x0, 0x00000000, .none, [⟨0, 31, .ro⟩, ⟨31, 1, .ro⟩]⟩,  -- HBM_UE_ADDR (R282)
  ⟨0x40044, 1, 0x0, 1, 0x0, 0x00000000, .none, [⟨0, 16, .ro⟩, ⟨16, 16, .rsv⟩]⟩,  -- HBM_SCRUB_PASS (R282)
  ⟨0x40100, 8, 0x8, 1, 0x0, 0x00000000, .region, [⟨0, 31, .rws⟩, ⟨31, 1, .rws⟩]⟩,  -- HBM_REGION_LO (R282)
  ⟨0x40104, 8, 0x8, 1, 0x0, 0x00000000, .region, [⟨0, 31, .rws⟩, ⟨31, 1, .rws⟩]⟩,  -- HBM_REGION_HI (R282)
  ⟨0x50000, 16, 0x40, 8, 0x8, 0x00000000, .grove, [⟨0, 31, .rws⟩, ⟨31, 1, .rws⟩]⟩,  -- HBM_GRANT_LO (R282)
  ⟨0x50004, 16, 0x40, 8, 0x8, 0x00000000, .grove, [⟨0, 31, .rws⟩, ⟨31, 1, .rws⟩]⟩,  -- HBM_GRANT_HI (R282)
  ⟨0x0, 1, 0x0, 1, 0x0, 0xFFFE0008, .none, [⟨0, 3, .ro⟩, ⟨3, 1, .ro⟩, ⟨4, 12, .rsv⟩, ⟨16, 16, .ro⟩]⟩,  -- CTL_ID (R340)
  ⟨0x4, 1, 0x0, 1, 0x0, 0x00000000, .none, [⟨0, 3, .ro⟩, ⟨3, 5, .rsv⟩, ⟨8, 6, .ro⟩, ⟨14, 2, .rsv⟩, ⟨16, 16, .ro⟩]⟩,  -- CTL_STATE (R340)
  ⟨0x8, 1, 0x0, 1, 0x0, 0x00000000, .none, [⟨0, 4, .ro⟩, ⟨4, 4, .ro⟩, ⟨8, 4, .ro⟩, ⟨12, 4, .ro⟩, ⟨16, 4, .ro⟩, ⟨20, 4, .ro⟩, ⟨24, 4, .ro⟩, ⟨28, 4, .ro⟩]⟩,  -- CTL_GROVE_STATE_LO (R340)
  ⟨0xC, 1, 0x0, 1, 0x0, 0x00000000, .none, [⟨0, 4, .ro⟩, ⟨4, 4, .ro⟩, ⟨8, 4, .ro⟩, ⟨12, 4, .ro⟩, ⟨16, 4, .ro⟩, ⟨20, 4, .ro⟩, ⟨24, 4, .ro⟩, ⟨28, 4, .ro⟩]⟩,  -- CTL_GROVE_STATE_HI (R340)
  ⟨0x20, 1, 0x0, 1, 0x0, 0x00000000, .none, [⟨0, 1, .w1c⟩, ⟨1, 1, .w1c⟩, ⟨2, 1, .w1c⟩, ⟨3, 1, .w1c⟩, ⟨4, 1, .w1c⟩, ⟨5, 1, .w1c⟩, ⟨6, 1, .w1c⟩, ⟨7, 25, .rsv⟩]⟩,  -- CTL_STATUS (R340)
  ⟨0x24, 1, 0x0, 1, 0x0, 0x00000000, .none, [⟨0, 8, .ro⟩, ⟨8, 8, .ro⟩, ⟨16, 8, .ro⟩, ⟨24, 8, .ro⟩]⟩,  -- CTL_FLAG_COUNT (R340)
  ⟨0x2C, 1, 0x0, 1, 0x0, 0x00000000, .none, [⟨0, 8, .ro⟩, ⟨8, 8, .ro⟩, ⟨16, 8, .ro⟩, ⟨24, 8, .rsv⟩]⟩,  -- CTL_AUX_COUNT (R340)
  ⟨0x28, 1, 0x0, 1, 0x0, 0x00000000, .none, [⟨0, 24, .ro⟩, ⟨24, 7, .rsv⟩, ⟨31, 1, .ro⟩]⟩,  -- CTL_PARITY_ADDR (R340)
  ⟨0x30, 1, 0x0, 1, 0x0, 0x00000000, .none, [⟨0, 16, .ro⟩, ⟨16, 16, .ro⟩]⟩,  -- CTL_STAGED (R340)
  ⟨0x34, 1, 0x0, 1, 0x0, 0x00000000, .none, [⟨0, 16, .wo⟩, ⟨16, 2, .wo⟩, ⟨18, 14, .rsv⟩]⟩ ]  -- CTL_STROBE (R340)

/-- Part of the channel register map. -/
def chanRegs7 : List RegDef := [
  ⟨0x38, 1, 0x0, 1, 0x0, 0x00000000, .none, [⟨0, 8, .ro⟩, ⟨8, 8, .ro⟩, ⟨16, 1, .ro⟩, ⟨17, 15, .rsv⟩]⟩,  -- CTL_STROBE_RESULT (R340)
  ⟨0x3C, 1, 0x0, 1, 0x0, 0x00000000, .none, [⟨0, 24, .ro⟩, ⟨24, 8, .rsv⟩]⟩,  -- CTL_STROBE_ADDR (R340)
  ⟨0x40, 1, 0x0, 1, 0x0, 0x00000000, .none, [⟨0, 24, .wo⟩, ⟨24, 7, .rsv⟩, ⟨31, 1, .wo⟩]⟩,  -- CTL_SNAP (R340)
  ⟨0x50, 1, 0x0, 1, 0x0, 0x00000000, .none, [⟨0, 32, .ro⟩]⟩,  -- CTL_EVT_SEQ (R340)
  ⟨0x60, 1, 0x0, 1, 0x0, 0x00000000, .none, [⟨0, 1, .wo⟩, ⟨1, 31, .rsv⟩]⟩,  -- CTL_DIAG (R340)
  ⟨0x180000, 1, 0x0, 1, 0x0, 0x00000000, .none, [⟨0, 1, .w1c⟩, ⟨1, 1, .w1c⟩, ⟨2, 1, .w1c⟩, ⟨3, 1, .w1c⟩, ⟨4, 1, .w1c⟩, ⟨5, 27, .rsv⟩]⟩,  -- CKP_STATUS (R369)
  ⟨0x180004, 1, 0x0, 1, 0x0, 0x0000001E, .none, [⟨0, 5, .rw⟩, ⟨5, 27, .rsv⟩]⟩,  -- CKP_CFG (R369)
  ⟨0x180010, 1, 0x0, 1, 0x0, 0x00000000, .none, [⟨0, 32, .ro⟩]⟩,  -- CKP_TX_LO (R369)
  ⟨0x180014, 1, 0x0, 1, 0x0, 0x00000000, .none, [⟨0, 32, .ro⟩]⟩,  -- CKP_TX_HI (R369)
  ⟨0x180018, 1, 0x0, 1, 0x0, 0x00000000, .none, [⟨0, 32, .ro⟩]⟩,  -- CKP_RX_LO (R369)
  ⟨0x18001C, 1, 0x0, 1, 0x0, 0x00000000, .none, [⟨0, 32, .ro⟩]⟩,  -- CKP_RX_HI (R369)
  ⟨0x180100, 16, 0x40, 1, 0x0, 0x00000000, .none, [⟨0, 25, .rw⟩, ⟨25, 7, .rsv⟩]⟩,  -- CKP_GRV_CFG (R369)
  ⟨0x180104, 16, 0x40, 1, 0x0, 0x00000000, .none, [⟨0, 31, .rw⟩, ⟨31, 1, .rsv⟩]⟩,  -- CKP_GRV_STAGE (R369)
  ⟨0x180108, 16, 0x40, 1, 0x0, 0x00000000, .none, [⟨0, 31, .rw⟩, ⟨31, 1, .rsv⟩]⟩,  -- CKP_GRV_RANGES (R369)
  ⟨0x18010C, 16, 0x40, 1, 0x0, 0x00000000, .none, [⟨0, 31, .rw⟩, ⟨31, 1, .rsv⟩]⟩,  -- CKP_GRV_CARRY (R369)
  ⟨0x180110, 16, 0x40, 1, 0x0, 0x00000000, .none, [⟨0, 3, .ro⟩, ⟨3, 1, .ro⟩, ⟨4, 28, .rsv⟩]⟩,  -- CKP_GRV_OP (R369)
  ⟨0x180114, 16, 0x40, 1, 0x0, 0xFFFFFFFF, .none, [⟨0, 32, .ro⟩]⟩,  -- CKP_GRV_RING (R369)
  ⟨0x180118, 16, 0x40, 1, 0x0, 0x00000000, .none, [⟨0, 32, .ro⟩]⟩,  -- CKP_GRV_ATTEMPT (R369)
  ⟨0x18011C, 16, 0x40, 1, 0x0, 0x00000000, .none, [⟨0, 32, .ro⟩]⟩,  -- CKP_GRV_HOLD (R369)
  ⟨0x180120, 16, 0x40, 1, 0x0, 0x00000000, .none, [⟨0, 16, .ro⟩, ⟨16, 8, .ro⟩, ⟨24, 8, .ro⟩]⟩ ]  -- CKP_GRV_CNT (R369)

/-- Part of the channel register map. -/
def chanRegs8 : List RegDef := [
  ⟨0x20000, 1, 0x0, 1, 0x0, 0x00000000, .none, [⟨0, 1, .w1c⟩, ⟨1, 1, .w1c⟩, ⟨2, 1, .w1c⟩, ⟨3, 1, .w1c⟩, ⟨4, 1, .w1c⟩, ⟨5, 1, .ro⟩, ⟨6, 26, .rsv⟩]⟩,  -- TH_STATUS (R393)
  ⟨0x20004, 1, 0x0, 1, 0x0, 0x00400FA0, .none, [⟨0, 16, .rw⟩, ⟨16, 8, .rw⟩, ⟨24, 8, .rsv⟩]⟩,  -- TH_CH_CFG (R393)
  ⟨0x20008, 1, 0x0, 1, 0x0, 0x00000000, .none, [⟨0, 16, .ro⟩, ⟨16, 16, .ro⟩]⟩,  -- TH_TARGET (R393)
  ⟨0x2000C, 1, 0x0, 1, 0x0, 0x00000000, .none, [⟨0, 16, .ro⟩, ⟨16, 16, .ro⟩]⟩,  -- TH_POWER (R393)
  ⟨0x20010, 1, 0x0, 1, 0x0, 0x00000000, .none, [⟨0, 9, .ro⟩, ⟨9, 7, .rsv⟩, ⟨16, 16, .ro⟩]⟩,  -- TH_DUTY (R393)
  ⟨0x20014, 1, 0x0, 1, 0x0, 0x00000000, .none, [⟨0, 32, .ro⟩]⟩,  -- TH_THETA (R393)
  ⟨0x20018, 1, 0x0, 1, 0x0, 0x3C51B717, .none, [⟨0, 32, .ro⟩]⟩,  -- TH_THETA_NOM (R393)
  ⟨0x2001C, 1, 0x0, 1, 0x0, 0x00000000, .none, [⟨0, 16, .ro⟩, ⟨16, 3, .ro⟩, ⟨19, 5, .rsv⟩, ⟨24, 6, .ro⟩, ⟨30, 2, .rsv⟩]⟩,  -- TH_TJ (R393)
  ⟨0x20020, 1, 0x0, 1, 0x0, 0x00000000, .none, [⟨0, 32, .ro⟩]⟩,  -- TH_SUSPECT_LO (R393)
  ⟨0x20024, 1, 0x0, 1, 0x0, 0x00000000, .none, [⟨0, 16, .ro⟩, ⟨16, 16, .rsv⟩]⟩,  -- TH_SUSPECT_HI (R393)
  ⟨0x20040, 6, 0x4, 1, 0x0, 0x00000000, .none, [⟨0, 16, .ro⟩, ⟨16, 16, .rsv⟩]⟩,  -- TH_FIELD_TEMP (R393)
  ⟨0x20060, 1, 0x0, 1, 0x0, 0x00000000, .none, [⟨0, 32, .ro⟩]⟩,  -- TH_LIMIT_LO (R393)
  ⟨0x20064, 1, 0x0, 1, 0x0, 0x00000000, .none, [⟨0, 32, .ro⟩]⟩,  -- TH_LIMIT_HI (R393)
  ⟨0x20068, 1, 0x0, 1, 0x0, 0x00000000, .none, [⟨0, 8, .ro⟩, ⟨8, 8, .ro⟩, ⟨16, 8, .ro⟩, ⟨24, 8, .ro⟩]⟩,  -- TH_COUNT (R393)
  ⟨0x100, 1, 0x0, 1, 0x0, 0x00000000, .none, [⟨0, 4, .ro⟩, ⟨4, 4, .ro⟩, ⟨8, 3, .ro⟩, ⟨11, 1, .ro⟩, ⟨12, 20, .rsv⟩]⟩,  -- CTL_BRINGUP (R419)
  ⟨0x104, 1, 0x0, 1, 0x0, 0x00000000, .none, [⟨0, 13, .ro⟩, ⟨13, 13, .ro⟩, ⟨26, 4, .ro⟩, ⟨30, 2, .rsv⟩]⟩,  -- CTL_KNOTS (R419)
  ⟨0x108, 1, 0x0, 1, 0x0, 0x00001018, .none, [⟨0, 5, .rw⟩, ⟨5, 3, .rsv⟩, ⟨8, 5, .rw⟩, ⟨13, 19, .rsv⟩]⟩,  -- CTL_FAULT_CFG (R419)
  ⟨0x10C, 1, 0x0, 1, 0x0, 0x00000000, .none, [⟨0, 1, .w1c⟩, ⟨1, 1, .w1c⟩, ⟨2, 1, .w1c⟩, ⟨3, 1, .w1c⟩, ⟨4, 1, .w1c⟩, ⟨5, 1, .w1c⟩, ⟨6, 26, .rsv⟩]⟩,  -- CTL_FAULT_STATUS (R419)
  ⟨0x110, 1, 0x0, 1, 0x0, 0x00000000, .none, [⟨0, 8, .ro⟩, ⟨8, 8, .ro⟩, ⟨16, 8, .ro⟩, ⟨24, 8, .ro⟩]⟩,  -- CTL_FAULT_COUNT (R419)
  ⟨0x114, 1, 0x0, 1, 0x0, 0x00000000, .none, [⟨0, 8, .ro⟩, ⟨8, 8, .ro⟩, ⟨16, 8, .ro⟩, ⟨24, 8, .ro⟩]⟩ ]  -- CTL_FAULT_COUNT2 (R419)

/-- Part of the channel register map. -/
def chanRegs9 : List RegDef := [
  ⟨0x118, 1, 0x0, 1, 0x0, 0x00000000, .none, [⟨0, 6, .ro⟩, ⟨6, 7, .ro⟩, ⟨13, 3, .ro⟩, ⟨16, 4, .ro⟩, ⟨20, 1, .ro⟩, ⟨21, 11, .rsv⟩]⟩,  -- CTL_LAST_FAIL (R419)
  ⟨0x11C, 1, 0x0, 1, 0x0, 0x00000000, .none, [⟨0, 6, .ro⟩, ⟨6, 7, .ro⟩, ⟨13, 6, .ro⟩, ⟨19, 13, .rsv⟩]⟩ ]  -- CTL_LAST_REMAP (R419)

/-- The channel register map (R314). -/
def chanRegs : List RegDef :=
  chanRegs0 ++ chanRegs1 ++ chanRegs2 ++ chanRegs3 ++ chanRegs4 ++ chanRegs5 ++ chanRegs6 ++ chanRegs7 ++ chanRegs8 ++ chanRegs9

/-- Part of the module-global register map. -/
def pdRegs0 : List RegDef := [
  ⟨0x0, 1, 0x0, 1, 0x0, 0x00014824, .none, [⟨0, 16, .ro⟩, ⟨16, 8, .ro⟩, ⟨24, 8, .rsv⟩]⟩,  -- PD_ID (R339)
  ⟨0x4, 1, 0x0, 1, 0x0, 0x00000000, .none, [⟨0, 32, .ro⟩]⟩,  -- PD_SERIAL_LO (R339)
  ⟨0x8, 1, 0x0, 1, 0x0, 0x00000000, .none, [⟨0, 32, .ro⟩]⟩,  -- PD_SERIAL_HI (R339)
  ⟨0x10, 1, 0x0, 1, 0x0, 0xFFFE0000, .none, [⟨0, 12, .ro⟩, ⟨12, 1, .ro⟩, ⟨13, 3, .rsv⟩, ⟨16, 16, .ro⟩]⟩,  -- PD_MODULE (R339)
  ⟨0x14, 1, 0x0, 1, 0x0, 0x00000000, .none, [⟨0, 4, .ro⟩, ⟨4, 4, .ro⟩, ⟨8, 4, .ro⟩, ⟨12, 4, .ro⟩, ⟨16, 4, .ro⟩, ⟨20, 4, .ro⟩, ⟨24, 4, .ro⟩, ⟨28, 4, .ro⟩]⟩,  -- PD_CH_STATE (R339)
  ⟨0x18, 1, 0x0, 1, 0x0, 0x000000FF, .none, [⟨0, 8, .rw⟩, ⟨8, 24, .rsv⟩]⟩,  -- PD_CH_ENABLE (R339)
  ⟨0x20, 1, 0x0, 1, 0x0, 0x00000000, .none, [⟨0, 1, .w1c⟩, ⟨1, 1, .w1c⟩, ⟨2, 1, .w1c⟩, ⟨3, 1, .w1c⟩, ⟨4, 1, .w1c⟩, ⟨5, 1, .w1c⟩, ⟨6, 26, .rsv⟩]⟩,  -- PD_STATUS (R339)
  ⟨0x24, 1, 0x0, 1, 0x0, 0x00000000, .none, [⟨0, 8, .ro⟩, ⟨8, 24, .rsv⟩]⟩,  -- PD_LINKS (R339)
  ⟨0x30, 1, 0x0, 1, 0x0, 0x00000000, .none, [⟨0, 16, .ro⟩, ⟨16, 16, .ro⟩]⟩,  -- PD_DROP_COUNT (R339)
  ⟨0x34, 1, 0x0, 1, 0x0, 0x00000000, .none, [⟨0, 8, .ro⟩, ⟨8, 8, .ro⟩, ⟨16, 8, .ro⟩, ⟨24, 8, .ro⟩]⟩,  -- PD_FLAG_COUNT (R339)
  ⟨0x38, 1, 0x0, 1, 0x0, 0x00000000, .none, [⟨0, 32, .ro⟩]⟩,  -- PD_CMD_LO (R339)
  ⟨0x3C, 1, 0x0, 1, 0x0, 0x00000000, .none, [⟨0, 32, .ro⟩]⟩,  -- PD_CMD_HI (R339)
  ⟨0x40, 1, 0x0, 1, 0x0, 0x00000000, .none, [⟨0, 5, .ro⟩, ⟨5, 3, .ro⟩, ⟨8, 24, .rsv⟩]⟩,  -- PD_SESSIONS (R339)
  ⟨0x50, 1, 0x0, 1, 0x0, 0x00000000, .none, [⟨0, 24, .wo⟩, ⟨24, 7, .rsv⟩, ⟨31, 1, .wo⟩]⟩,  -- PD_SNAP (R339)
  ⟨0x54, 1, 0x0, 1, 0x0, 0x00000000, .none, [⟨0, 24, .ro⟩, ⟨24, 7, .rsv⟩, ⟨31, 1, .ro⟩]⟩,  -- PD_PARITY_ADDR (R339)
  ⟨0x58, 1, 0x0, 1, 0x0, 0x00000000, .none, [⟨0, 4, .ro⟩, ⟨4, 28, .rsv⟩]⟩,  -- PD_STAGED (R339)
  ⟨0x100, 4, 0x4, 1, 0x0, 0x00000000, .mg 0, [⟨0, 32, .rws⟩]⟩,  -- PD_NET_IP6 (R339)
  ⟨0x110, 1, 0x0, 1, 0x0, 0x00000000, .mg 0, [⟨0, 32, .rws⟩]⟩,  -- PD_NET_IP4 (R339)
  ⟨0x114, 1, 0x0, 1, 0x0, 0x00000000, .mg 0, [⟨0, 8, .rws⟩, ⟨8, 6, .rws⟩, ⟨14, 18, .rsv⟩]⟩,  -- PD_NET_CFG (R339)
  ⟨0x10000, 1, 0x0, 1, 0x0, 0x00000000, .none, [⟨0, 1, .w1c⟩, ⟨1, 1, .w1c⟩, ⟨2, 1, .w1c⟩, ⟨3, 1, .w1c⟩, ⟨4, 1, .w1c⟩, ⟨5, 1, .w1c⟩, ⟨6, 1, .w1c⟩, ⟨7, 1, .w1c⟩, ⟨8, 1, .ro⟩, ⟨9, 23, .rsv⟩]⟩ ]  -- TH_MOD_STATUS (R391)

/-- Part of the module-global register map. -/
def pdRegs1 : List RegDef := [
  ⟨0x10004, 1, 0x0, 1, 0x0, 0x00005DC0, .none, [⟨0, 16, .ro⟩, ⟨16, 3, .ro⟩, ⟨19, 13, .rsv⟩]⟩,  -- TH_MOD_CAP (R391)
  ⟨0x10008, 1, 0x0, 1, 0x0, 0x00005DC0, .mg 1, [⟨0, 16, .rws⟩, ⟨16, 16, .rsv⟩]⟩,  -- TH_MOD_HOST_CAP (R391)
  ⟨0x1000C, 1, 0x0, 1, 0x0, 0x001E4650, .mg 1, [⟨0, 16, .rws⟩, ⟨16, 8, .rws⟩, ⟨24, 8, .rsv⟩]⟩,  -- TH_MOD_ORPHAN (R391)
  ⟨0x10010, 1, 0x0, 1, 0x0, 0x00002EE0, .mg 1, [⟨0, 16, .rws⟩, ⟨16, 16, .rsv⟩]⟩,  -- TH_MOD_STEP_CAP (R391)
  ⟨0x10014, 1, 0x0, 1, 0x0, 0x013C200F, .mg 1, [⟨0, 8, .rws⟩, ⟨8, 8, .rws⟩, ⟨16, 8, .rws⟩, ⟨24, 1, .rws⟩, ⟨25, 7, .rsv⟩]⟩,  -- TH_MOD_CFG (R391)
  ⟨0x10018, 1, 0x0, 1, 0x0, 0x00000000, .none, [⟨0, 16, .ro⟩, ⟨16, 16, .ro⟩]⟩,  -- TH_MOD_SUPPLY (R391)
  ⟨0x1001C, 1, 0x0, 1, 0x0, 0x00000000, .none, [⟨0, 16, .ro⟩, ⟨16, 16, .ro⟩]⟩,  -- TH_MOD_POWER (R391)
  ⟨0x10020, 1, 0x0, 1, 0x0, 0x00000000, .none, [⟨0, 16, .ro⟩, ⟨16, 16, .ro⟩]⟩,  -- TH_MOD_FLOOR (R391)
  ⟨0x10024, 1, 0x0, 1, 0x0, 0x00000000, .none, [⟨0, 8, .ro⟩, ⟨8, 8, .ro⟩, ⟨16, 8, .ro⟩, ⟨24, 8, .ro⟩]⟩,  -- TH_MOD_COUNT (R391)
  ⟨0x1C, 1, 0x0, 1, 0x0, 0x00000000, .none, [⟨0, 8, .rw⟩, ⟨8, 24, .rsv⟩]⟩,  -- PD_CH_HOLD (R420)
  ⟨0x60, 1, 0x0, 1, 0x0, 0x00000000, .none, [⟨0, 1, .ro⟩, ⟨1, 1, .ro⟩, ⟨2, 1, .ro⟩, ⟨3, 29, .rsv⟩]⟩,  -- PD_FW (R420)
  ⟨0x64, 1, 0x0, 1, 0x0, 0x00000000, .none, [⟨0, 16, .ro⟩, ⟨16, 8, .ro⟩, ⟨24, 1, .ro⟩, ⟨25, 1, .ro⟩, ⟨26, 6, .rsv⟩]⟩,  -- PD_DMAP (R420)
  ⟨0x48000, 1, 0x0, 1, 0x0, 0x00000000, .none, [⟨0, 32, .ro⟩]⟩,  -- PD_FLOG_SEQ (R420)
  ⟨0x20000, 1, 0x0, 1, 0x0, 0x00000000, .none, [⟨0, 1, .w1c⟩, ⟨1, 1, .w1c⟩, ⟨2, 1, .w1c⟩, ⟨3, 1, .w1c⟩, ⟨4, 1, .w1c⟩, ⟨5, 3, .rsv⟩, ⟨8, 1, .ro⟩, ⟨9, 1, .ro⟩, ⟨10, 22, .rsv⟩]⟩,  -- SEC_STATUS (R440)
  ⟨0x20004, 1, 0x0, 1, 0x0, 0x00000011, .mg 2, [⟨0, 2, .rws⟩, ⟨2, 2, .rws⟩, ⟨4, 2, .rws⟩, ⟨6, 2, .rws⟩, ⟨8, 24, .rsv⟩]⟩,  -- SEC_ALARM_CFG (R440)
  ⟨0x20008, 1, 0x0, 1, 0x0, 0x00003C08, .mg 2, [⟨0, 8, .rws⟩, ⟨8, 8, .rws⟩, ⟨16, 16, .rsv⟩]⟩,  -- SEC_FWA_CFG (R440)
  ⟨0x2000C, 1, 0x0, 1, 0x0, 0x00000000, .none, [⟨0, 2, .ro⟩, ⟨2, 6, .ro⟩, ⟨8, 5, .ro⟩, ⟨13, 19, .rsv⟩]⟩,  -- SEC_KEYS (R440)
  ⟨0x20010, 1, 0x0, 1, 0x0, 0x00000000, .none, [⟨0, 32, .ro⟩]⟩,  -- SEC_KEY_COUNTER (R440)
  ⟨0x20014, 1, 0x0, 1, 0x0, 0x00000000, .none, [⟨0, 16, .ro⟩, ⟨16, 16, .ro⟩]⟩,  -- SEC_SVN (R440)
  ⟨0x20018, 1, 0x0, 1, 0x0, 0x00000000, .none, [⟨0, 1, .wo⟩, ⟨1, 31, .rsv⟩]⟩ ]  -- SEC_CTL (R440)

/-- Part of the module-global register map. -/
def pdRegs2 : List RegDef := [
  ⟨0x20020, 1, 0x0, 1, 0x0, 0x00000000, .none, [⟨0, 8, .ro⟩, ⟨8, 8, .ro⟩, ⟨16, 8, .ro⟩, ⟨24, 8, .ro⟩]⟩,  -- SEC_ALARM_COUNT (R440)
  ⟨0x20024, 1, 0x0, 1, 0x0, 0x00000000, .none, [⟨0, 8, .ro⟩, ⟨8, 8, .ro⟩, ⟨16, 16, .rsv⟩]⟩,  -- SEC_ALARM_COUNT2 (R440)
  ⟨0x30000, 1, 0x0, 1, 0x0, 0x00000000, .none, [⟨0, 1, .w1c⟩, ⟨1, 1, .w1c⟩, ⟨2, 1, .w1c⟩, ⟨3, 1, .w1c⟩, ⟨4, 4, .rsv⟩, ⟨8, 1, .ro⟩, ⟨9, 1, .ro⟩, ⟨10, 1, .ro⟩, ⟨11, 21, .rsv⟩]⟩,  -- MET_STATUS (R440)
  ⟨0x30004, 1, 0x0, 1, 0x0, 0x00000164, .mg 3, [⟨0, 8, .rws⟩, ⟨8, 1, .rws⟩, ⟨9, 23, .rsv⟩]⟩,  -- MET_CFG (R440)
  ⟨0x30008, 1, 0x0, 1, 0x0, 0x00000000, .none, [⟨0, 1, .wo⟩, ⟨1, 31, .rsv⟩]⟩,  -- MET_CTL (R440)
  ⟨0x30010, 1, 0x0, 1, 0x0, 0x00000000, .none, [⟨0, 32, .ro⟩]⟩,  -- MET_SERIAL_LO (R440)
  ⟨0x30014, 1, 0x0, 1, 0x0, 0x00000000, .none, [⟨0, 32, .ro⟩]⟩,  -- MET_SERIAL_HI (R440)
  ⟨0x30018, 1, 0x0, 1, 0x0, 0x00000000, .none, [⟨0, 32, .ro⟩]⟩,  -- MET_FW_SUM (R440)
  ⟨0x3001C, 1, 0x0, 1, 0x0, 0x00000000, .none, [⟨0, 16, .ro⟩, ⟨16, 16, .rsv⟩]⟩,  -- MET_BREACHES (R440)
  ⟨0x30020, 1, 0x0, 1, 0x0, 0x00000000, .none, [⟨0, 32, .ro⟩]⟩,  -- MET_READOUTS (R440)
  ⟨0x30024, 1, 0x0, 1, 0x0, 0x00000000, .none, [⟨0, 8, .ro⟩, ⟨8, 8, .ro⟩, ⟨16, 8, .ro⟩, ⟨24, 8, .ro⟩]⟩,  -- MET_COUNT (R440)
  ⟨0x30040, 9, 0x8, 1, 0x0, 0x00000000, .none, [⟨0, 32, .ro⟩]⟩,  -- MET_E_LO (R440)
  ⟨0x30044, 9, 0x8, 1, 0x0, 0x00000000, .none, [⟨0, 32, .ro⟩]⟩ ]  -- MET_E_HI (R440)

/-- The module-global register map (R313). -/
def pdRegs : List RegDef :=
  pdRegs0 ++ pdRegs1 ++ pdRegs2

end Sys2Proof.Machine
end

