-- ==== Sys2Proof/Machine/State.lean ====
section
/-! DEFINITION. The state of the module, as plain data: eight channels, the port die, the heartwood cell, what the
module has sent, and the commands that wait. -/

namespace Sys2Proof.Machine

/-- Why the block stops. No command of the table reaches one: every row has an effect that the spec gives. -/
inductive Fault where
  /-- Raised by nothing: the block has no state that the spec calls stuck. Safe. -/
  | stuck
deriving DecidableEq, Repr

/-- Why a command has no meaning in this model. -/
inductive Refusal where
  /-- Raised by an arm of `exec` whose command has no meaning yet. Safe. -/
  | notModelled (mnemonic : String)
deriving DecidableEq, Repr

/-- Status codes (R304). -/
inductive Status where
  | ok | accepted | badOpcode | badParam | badLength | authFail | stateConflict | noToken | consistencyFail
  | needsFreeze | signatureFail | digestFail | capacity | stashExhausted | tiedWeights | restoreInconsistent
  | hwFault | cfgParity | capBelowFloor | thermalHold | locked
deriving DecidableEq, Repr

/-- Channel states, numbered as `CH_STATE` numbers them (R294, R307). -/
inductive ChState where
  | off | bringup | ready | running | frozen | faulted | locked
deriving DecidableEq, Repr

/-- Grove states, numbered as `GROVE_STATE` numbers them (R294, R309). -/
inductive GroveState where
  | empty | loaded | running | paused | draining | faulted
deriving DecidableEq, Repr

/-- Session roles (R288), in rising order of rights. -/
inductive Role where
  | tenant | operator | owner
deriving DecidableEq, Repr

/-- A bank of registers: applied copies and staged copies, sparse over the reset values of the register map;
parity marks (R323-R326, R463); held counter values (R337). -/
structure Bank where
  regs      : NMap Word
  staged    : NMap Word
  bad       : List Nat        -- applied copies or RW registers whose stored parity does not match
  badStaged : List Nat        -- staged copies whose stored parity does not match
  failing   : List Nat        -- registers marked failing (R325)
  reported  : List Nat        -- staged mismatches already reported (R463)
  inject    : Bool            -- the next write stores bad parity (`CTL_DIAG.PARITY_INJECT`)
  held      : NMap Word       -- holding registers of snapshotted banks (R337)
deriving DecidableEq, Repr

def Bank.empty : Bank := ⟨[], [], [], [], [], [], false, []⟩

/-- One log entry (R414), also the data of an event packet (R306). -/
structure LogEntry where
  seq    : Nat
  step   : Nat                -- 0xFFFF_FFFF: none
  pclk   : Nat
  status : Status
  src    : Nat
  code   : Nat
  grove  : Nat                -- 0xFF: none
  ch     : Nat                -- 0xFF: module
  job    : Nat
  arg    : BitVec 64
deriving DecidableEq, Repr

/-- A reply as the queue caches it (R293): what follows the header, and where it goes. -/
structure ReplyRec where
  seq    : Word
  opcode : Nat
  origin : Nat
  data   : Bytes
deriving DecidableEq, Repr

/-- One command queue (R291-R293, R295). -/
structure Queue where
  owner    : Option Nat       -- the session that claimed it
  ending   : Bool             -- the owner's session has ended; released at the last reply (R290)
  expect   : Word             -- E, the next expected SEQ
  tokens   : Nat              -- free admission tokens
  waiting  : List Datagram    -- admitted, not begun
  current  : Option Datagram  -- begun, reply deferred
  accepted : List Datagram    -- replied ACCEPTED, completion not yet sent
  cache    : List ReplyRec    -- newest 256 replies
deriving DecidableEq, Repr

def Queue.fresh : Queue := ⟨none, false, 0, 64, [], none, [], []⟩

/-- What a channel or the port die hands over to be sent: replies and completions before they are tagged, events,
and link frames. -/
inductive Emit where
  | reply (channel queue session : Nat) (r : ReplyRec)
  | event (e : LogEntry)
  | completion (e : LogEntry) (d : Datagram) (st : Status) (data : Bytes)
  | keyReply (session : Nat) (r : ReplyRec)                  -- the reply to `SESSION_KEY`, tagged by the new session (R289)
  | frame (i : Nat) (f : Frame)                             -- leaves on interface i
  | nvme (body : Bytes)                                     -- a TCP segment handed to the channel's initiator
  | blocks (target nsid lba : Nat) (data : Bytes)           -- written to a file-store namespace
  | crown (core : Nat) (data : Option Bytes)                -- what a crown core's access returns: data, or a bus error
deriving DecidableEq, Repr

/-! ## The tile (R66, R84) -/

/-- `CTXn_STATE` (R95). -/
inductive CtxState where
  | idle | running | waiting | faulted
deriving DecidableEq, Repr

/-- A queued descriptor: the SRAM line it was read from and its 64 bytes (R86). -/
structure QDesc where
  addr  : Nat
  words : Bytes
deriving DecidableEq, Repr

/-- One issue context (R84). Registers a map does not list hold 0. -/
structure Ctx where
  st      : CtxState
  x       : NMap (BitVec 64)
  v       : NMap (BitVec 2048)
  p       : NMap (BitVec 128)
  flags   : FFlags
  pc      : BitVec 21
  sems    : NMap Nat
  keyStep : BitVec 32
  keyMb   : BitVec 16
  keyTensor : BitVec 24
  qA      : List QDesc
  qB      : List QDesc
  qM      : List QDesc
deriving DecidableEq, Repr

def Ctx.reset : Ctx := ⟨.idle, [], [], [], FFlags.none, 0, [], 0, 0, 0, [], [], []⟩

/-- An array descriptor in progress (R85-R88). -/
structure ArrRun where
  ctx   : Nat
  desc  : QDesc
  block : Nat          -- blocks done
deriving DecidableEq, Repr

/-- A panel buffer of an operand port: the block it was filled for, its elements and scales (R66, R71). -/
structure PanelBuf where
  block  : Nat
  data   : Bytes
  scales : Bytes
deriving DecidableEq, Repr

/-- One array with its accumulator SRAM (R66, R78). -/
structure Arr where
  owner : Option Nat   -- the context that owns the accumulator
  acc   : NMap AccCell
  count : Nat          -- additions of this accumulation (R51)
  run   : Option ArrRun
  last  : Nat          -- the context served last (R86 alternates)
  bufA  : List PanelBuf   -- the two panel buffers of the A port, newest first
  bufB  : List PanelBuf
  taken : Nat          -- descriptors taken so far: names the one in progress to the GTB (R74)
deriving DecidableEq, Repr

def Arr.reset : Arr := ⟨none, [], 0, none, 1, [], [], 0⟩

/-- One half of the gradient tile buffer (R73, R74). -/
structure GtbHalf where
  readers : Nat        -- reads still due; 0 is free
  fmt     : Nat
  scale   : Nat
  codes   : List Nat   -- 1,024 element codes, row-major
  readBy  : List (ArrId × Nat) -- descriptors (array and its `taken`) of which a block has read the tile it holds
deriving DecidableEq, Repr

def GtbHalf.free : GtbHalf := ⟨0, 0, 0, [], []⟩

/-- The slot that a grove's tables map to a tile (R98, R108). -/
structure SlotRef where
  grove  : Nat
  region : Nat
  lx     : Nat
  ly     : Nat
deriving DecidableEq, Repr

/-- One tile. Its registers of R95 that are not shown here lie in the channel's bank. -/
structure Tile where
  c0     : Ctx
  c1     : Ctx
  a      : Arr
  b      : Arr
  g0     : GtbHalf
  g1     : GtbHalf
  sram   : List Host.Cell     -- byte addresses 0 to 0x17_FFFF; unlisted bytes read 0
  poison : List Nat           -- lines whose poison bit is set (R277)
  slot   : Option SlotRef
  missed : Nat                -- heartbeats unanswered in a row
  scrub  : Nat                -- next line of the patrol scrubber
  scrubQ : List Nat           -- lines that wait for a write-back ahead of the patrol (R278)
  lastMove : Nat              -- the context whose movement queue was served last (R86)
deriving DecidableEq, Repr

def Tile.reset : Tile :=
  ⟨Ctx.reset, Ctx.reset, Arr.reset, Arr.reset, GtbHalf.free, GtbHalf.free, [], [], none, 0, 0, [], 1⟩

/-- Where a flit ends: a line of tile SRAM of a grove, with the semaphore (context, number) due once it is written (R85), or an
interface of the channel, where the lines of a frame are put together; the last line sends it (R107, R110). -/
inductive FlitEnd where
  | sram (grove addr : Nat) (post : Option (Nat × Nat))
  | egress (i : Nat) (f : Frame) (last : Bool)
deriving DecidableEq, Repr

/-- A flit on the mesh (R94, R107): one line on its way to a tile, or to an interface of the channel. -/
structure Flit where
  x     : Nat            -- the tile whose router holds it
  y     : Nat
  dx    : Nat            -- destination tile
  dy    : Nat
  vc    : Nat
  port  : Nat            -- input port that holds it: 0 N, 1 S, 2 E, 3 W, 4 local; 5: it waits at its source
  data  : BitVec 512
  bad   : Bool           -- reported uncorrectable on the way
  src   : Nat            -- source tile, Y * 48 + X
  fin   : FlitEnd
deriving DecidableEq, Repr

/-- A remote post that is due: its line has been written (R85). -/
structure DuePost where
  tile : Nat
  ctx  : Nat
  sem  : Nat
deriving DecidableEq, Repr

/-- An event subscription (R297 `EVENT_SUBSCRIBE`). -/
structure Sub where
  addr : Bytes
  port : Nat
  mask : Nat
deriving DecidableEq, Repr

/-- An open session (R288-R291). -/
structure Session where
  id     : Nat
  fpr    : Bytes
  role   : Role
  mask   : Nat           -- channel mask of its key
  kHm    : Bytes
  kMh    : Bytes
  idle   : Nat           -- seconds
  sub    : Option Sub
  queue  : Queue         -- its module queue
deriving DecidableEq, Repr

/-- An open that waits for `SESSION_KEY` (R289). -/
structure PendingOpen where
  id    : Nat
  fpr   : Bytes
  idle  : Nat
  dk    : Bytes          -- the decapsulation key of the fresh ML-KEM pair
  openPar : Bytes          -- SESSION_OPEN parameters
  reply : Bytes          -- its reply data, signature included
deriving DecidableEq, Repr

/-- A registered key of the key store (R421, R423). -/
structure KeyRec where
  kind : Nat             -- 0 owner, 1 host, 2 publisher
  role : Nat
  mask : Nat
  key  : Bytes
deriving DecidableEq, Repr

/-- A registered network or NVMe/TCP target (R299). -/
structure NvmeTarget where
  port : Nat
  addr : Bytes
  nqn  : Bytes
deriving DecidableEq, Repr

/-- What the port die keeps of the supply, the caps and the coolant beside its registers (R372-R389, R449, R453). -/
structure ModPower where
  pmbusCap : Option Nat      -- last `MFR_PLK_CAP` written since power-on, in 1/65,536 W
  orphan   : Bool            -- orphan source in force
  capStep  : Bool            -- CAP_STEP asserted
  vin      : Nat             -- input voltage, mV
  okSince  : Option Nat      -- port die clock since when the input lies within 46-58 V
  ovHold   : Bool            -- an overvoltage has disconnected the rails (R453)
  tin      : Int             -- T_in, 1/16 degree C
  flowLoss : Bool            -- FLOW_LOSS_N asserted
  coolant  : Bool            -- a coolant stop is being kept
  latches  : Nat             -- `STATUS_WORD` latches
  hottest  : Int             -- hottest field temperature of the module, 1/16 degree C
  lastRise : Nat             -- port die clock at which it last rose
  regOff   : Bool            -- regulators of the channels turned off
  pwrOk    : Bool            -- PWR_OK released
deriving DecidableEq, Repr

/-- Apportioned energy of a channel since it left OFF, mWh (R438). -/
structure Apport where
  last       : Nat           -- branch count at the last interval
  carry      : Nat
  unassigned : Nat
  groves     : NMap Nat
deriving DecidableEq, Repr

def Apport.reset : Apport := ⟨0, 0, 0, []⟩

/-- Flash contents beside the firmware images and the registers that flash restores (R259, R339, R395, R398). -/
structure Flash where
  modid   : Option Nat
  fm      : Nat
  images  : List Bytes       -- A and B
  active  : Nat              -- image marked active
  dmap    : Bytes            -- defect map records after the factory's, back to back
  enable  : Nat              -- `PD_CH_ENABLE`
  hold    : Nat              -- `PD_CH_HOLD`
  net     : NMap Word        -- applied MG0 values
deriving DecidableEq, Repr

/-- The port die (R25, R28, R284-R295, R339, R372-R378, R394, R417, R421-R440). -/
structure PortDie where
  bank     : Bank
  log      : List LogEntry       -- newest 1,024, oldest first (R417)
  ring     : List LogEntry       -- the flash ring of 65,536 that an anchor keeps (R417)
  unringed : List LogEntry       -- entries not yet copied to it
  sessions : List Session
  ended    : List Session        -- ended sessions whose admitted module commands still run (R290)
  pending  : List PendingOpen
  session0 : List Datagram       -- session-0 commands that wait (R292 step 2)
  locked   : Bool
  services : List Nat            -- anchor of attestation, fault log, fabric manager: 0, 7, or 0xFF none (R28)
  outbox   : List Emit
  undelivered : List ReplyRec       -- replies of ended sessions, logged and not sent (R290)
  late     : Nat                 -- datagrams dropped for a passed sequence whose reply is no longer cached (R292 step 5)
  keys     : List KeyRec
  flash    : Flash
  fwHeader : Bytes               -- header of the running image (R425)
  found    : List (Option Bytes) -- headers of images A and B that flash held and the ROM found good, before the SVN check
  sigFails : List Nat            -- port die clock at each signature failure counted (R428)
  apport   : NMap Apport         -- apportioned energy per channel (R438)
  straps   : Nat                 -- ADDR2-ADDR0 as read at the last port die reset (R448)
  powered  : Bool
  boot     : Nat                 -- 0 off, 1 started, 2 reference valid, 3 firmware running, 4 taking commands (R394)
  resetPin : Bool                -- MOD_RESET_N asserted
  meshOpen : Bool
  power    : ModPower
  bound    : Option Bytes        -- public key of the bound cell, whose fingerprint flash holds (R437)
  clock    : Nat                 -- PCLK ticks that have passed (log entry 10)
  free     : Nat                 -- the model's own counter of free values drawn
deriving DecidableEq, Repr

/-! ## Groves (R96-R235, R309, R341-R369) -/

/-- Weight slot states, numbered as R302 numbers them. -/
inductive SlotState where
  | empty | staging | staged | active
deriving DecidableEq, Repr

/-- A chunk digest with the step whose weights it names (R139). -/
structure DigestRec where
  chunk  : Nat
  step   : Nat
  digest : Bytes
deriving DecidableEq, Repr

/-- One weight slot of a grove (R144). -/
structure WSlot where
  st       : SlotState
  setId    : Bytes
  store1   : Nat
  store2   : Nat
  src1     : Option Source
  src2     : Option Source
  manifest : Bytes
  digests  : List DigestRec
  base     : Nat               -- the step whose weights the manifest's own digests name (R139, R213)
  data     : NMap Bytes        -- chunks of the set that its stage has read and verified (R138, R221)
deriving DecidableEq, Repr

def WSlot.empty : WSlot := ⟨.empty, zeros 32, 0, 0, none, none, [], [], 0, []⟩

/-- A chunk on its way through this channel (R131, R132, R136). -/
structure ChunkProg where
  chunk    : Nat
  res      : Nat            -- index of its residency in the schedule
  step     : Nat            -- the step its frames name
  data     : Bytes          -- bytes hashed so far
  held     : Option Frame   -- the final frame, held until the comparison ends
  attempts : Nat            -- failed attempts
  written  : Bool           -- the final frame is released to its destinations
  complete : Bool
deriving DecidableEq, Repr

/-- A chunk request the reader has outstanding (R134). -/
structure ChunkReq where
  chunk   : Nat
  resOrd  : Nat
  modules : List Nat        -- modules whose CHUNK_DONE has arrived
  tries   : Nat             -- attempts that timed out
  bad     : Nat             -- attempts that an entry port found bad
deriving DecidableEq, Repr

/-- A pending weight-slot switch (R145): target slot, B or S, and in an evaluation grove the pass that is B's. -/
structure Switch where
  slot : Nat
  at_  : Nat
  pass : Nat
deriving DecidableEq, Repr

/-- A STORE-tier chunk reloaded for remapped slots of a grove (R408). -/
structure SlotReload where
  chunk : Nat
  res   : Nat
  slots : List (Nat × Nat × Nat)   -- region, lx, ly
  data  : Bytes                    -- hashed so far
  held  : Option Frame             -- the final frame, until the comparison ends
  tries : Nat                      -- failed attempts
deriving DecidableEq, Repr

/-- Weight streaming state of a grove (R126-R149). -/
structure GroveWs where
  slot0   : WSlot
  slot1   : WSlot
  active  : Option Nat
  switch  : Option Switch
  chunks  : List ChunkProg     -- of the residencies in progress
  reqs    : List ChunkReq      -- as reader
  freed   : List (Nat × Nat)   -- BUF_FREE received: source node, residency
  next    : Nat                -- index of the residency whose gate opens next
  open0   : Option Nat         -- index of the residency whose gate opened last on buffer 0, and on buffer 1
  open1   : Option Nat
  pass    : Nat                -- passes begun as reader
  gatePass : Nat               -- evaluation passes of which every gate has opened
  batches : Nat                -- evaluation batches begun; each takes one pass
  askRes  : Nat                -- residency, and chunk ordinal in it, that the reader requests next
  askQ    : Nat
  failed  : Option (Nat × Nat × Nat)  -- WSET_FAIL: chunk and both stores; no further residency begins (R137)
  attached : Bool              -- base subscription attached (R149)
  detached : List Nat          -- as reader: channels of this module that have left the stream (R149)
  trainers : List Nat          -- as reader of a base: channels of this module with an attached subscriber that trains (R180)
  reload  : List (Nat × Nat)   -- HBM-tier and RESIDENT chunks being reloaded, with failed attempts (R138, R408)
  reloadTo : List (Nat × Nat × Nat × Nat)  -- slots that a reloaded RESIDENT chunk goes to: chunk, region, lx, ly (R408)
  slotReload : List SlotReload
deriving DecidableEq, Repr

def GroveWs.reset : GroveWs := ⟨WSlot.empty, WSlot.empty, none, none, [], [], [], 0, none, none, 0, 0, 0, 0, 0, none, true, [], [], [], [], []⟩

/-- Slab states (R165); FREED slabs are not listed. -/
inductive SlabState where
  | opened | held | reading | dropped | refill
deriving DecidableEq, Repr

/-- One stored stash record (R159): its slot (a number of region and coordinates), record number and stored lines. -/
structure StashRec where
  slot  : Nat
  num   : Nat
  data  : Bytes
deriving DecidableEq, Repr

/-- One slab (R158, R163-R166). -/
structure Slab where
  num      : Nat
  st       : SlabState
  entry    : Nat
  mb       : Nat
  recs     : List StashRec
  counts   : List (Nat × Nat)   -- per slot, records written (kept through a drop for the status line)
  closed   : Nat                -- closes counted
  released : List Nat           -- slots that have released
  order    : Nat                -- when it became HELD
  rsvPages : Nat                -- pages of it that come from the REFILL reserve (R170)
deriving DecidableEq, Repr

/-- Stash state of a grove (R163-R174). -/
structure GroveStash where
  slabs    : List Slab
  holdSeq  : Nat               -- counts slabs that became HELD
  point    : Nat               -- next admission point
  arrived  : Bool              -- first record of the last admitted point has arrived
  held     : Bool              -- the next point is held (R168, R174)
deriving DecidableEq, Repr

def GroveStash.reset : GroveStash := ⟨[], 0, 0, true, false⟩

/-- A gradient record staged for egress (R187, R192). -/
structure StagedRec where
  index : Nat
  sr    : Bool
  body  : Bytes               -- flag bytes and elements
deriving DecidableEq, Repr

/-- Egress state of a grove for the open step and attempt (R188-R193). -/
structure GroveEgress where
  accepted : List Nat          -- record indexes accepted
  staged   : List StagedRec
  sent     : List (Nat × Nat)  -- shard and block sent
  frames   : NMap Nat          -- frames sent per shard and tree (2 * shard + second)
  zeroed   : List (Nat × Nat × Nat × Nat) -- shard: first block, first index, count under ZERO_ELEMENT
  waiting  : List Nat          -- slots whose aperture write waits for staging
  replayed : Bool              -- a tile failure has made the step and attempt replay
deriving DecidableEq, Repr

def GroveEgress.reset : GroveEgress := ⟨[], [], [], [], [], [], false⟩

/-- What an owner reported for a step and attempt, as the coordinator holds it (R208, R211). -/
structure OwnerRep where
  owner  : Nat
  bits   : Nat
  props  : List (Nat × Int)
  frames : List Nat
  last   : Option Nat          -- index of the frame with flag last
deriving DecidableEq, Repr

/-- A decision in progress at the coordinator (R211). -/
structure Decision where
  step    : Nat
  attempt : Nat
  reports : List OwnerRep
  faults  : List (Nat × Nat)   -- member node and status
deriving DecidableEq, Repr

/-- A decision in the verdict log (R211). -/
structure VerdictRec where
  step    : Nat
  attempt : Nat
  verdict : Nat
  reason  : Nat
  gtable  : List (Nat × Int)
deriving DecidableEq, Repr

/-- Verdict state of a grove (R206-R215). -/
structure GroveVerdict where
  attempt   : Nat
  g         : NMap Int         -- grid exponent per tensor
  held      : Option (Nat × Nat)   -- step and attempt of the last verdict held
  open_     : List Decision    -- as coordinator
  log       : List VerdictRec  -- newest 16
  queries   : Nat
  retry0    : List Nat         -- shards that mismatched in attempt 0
  reported  : Option (Nat × Nat)   -- step and attempt this owner has reported
deriving DecidableEq, Repr

def GroveVerdict.reset : GroveVerdict := ⟨0, [], none, [], [], 0, [], none⟩

/-- A chunk formed by the update engine and not yet confirmed (R230). -/
structure WbChunk where
  chunk : Nat
  data  : Bytes
  tries : Nat
  seen  : List Nat             -- members that confirmed a resident chunk (R231)
deriving DecidableEq, Repr

/-- Update state of a grove (R218-R233). -/
structure GroveUpdate where
  step    : Option Nat         -- the step whose update is in progress
  queued  : List Nat           -- committed steps whose update waits
  written : List Nat           -- panels written in this update
  images  : NMap Bytes         -- compute-format image of each written panel: elements then scales
  chunks  : List WbChunk
  formed  : List Nat           -- chunks formed so far
  logged  : List Nat           -- shards whose non-finite event is logged
  consts  : NMap (Nat × Nat)   -- P1 and P2 of this update per tensor
  gexp    : NMap (NMap Int)    -- grid exponents of the committed steps whose update is due
deriving DecidableEq, Repr

def GroveUpdate.reset : GroveUpdate := ⟨none, [], [], [], [], [], [], [], []⟩


/-- A section of a loaded job map image (R301): type, length, offset. -/
structure Section where
  typ : Nat
  len : Nat
  off : Nat
deriving DecidableEq, Repr

/-- A boundary strobe that waits (R334): the command that asked, the group it waits for. -/
structure PendingStrobe where
  seq   : Word
  queue : Nat            -- 8: asked by crown-core firmware, no command to complete
  low   : Nat            -- lowest step or batch at which a named grove has applied
deriving DecidableEq, Repr

/-- One shard image of a captured ring (R343, R353). -/
structure RingCap where
  kind   : Nat
  tensor : Nat                 -- tensor id or range id
  first  : Nat
  nblock : Nat
  dims   : Nat × Nat
  opt    : Nat
  fmt    : Nat
  image  : Bytes
  carry  : List Nat            -- 4 KiB image blocks carried, rising
deriving DecidableEq, Repr

/-- Ring state of a grove (R341-R369). Phases are those of `CKP_GRV_OP`. -/
structure GroveRing where
  phase   : Nat
  ring    : Nat
  kind    : Nat
  attempt : Nat
  parent  : Nat
  parentAttempt : Nat
  idx     : Nat
  nsid    : Nat
  dir     : Nat
  leads   : Bool               -- this channel commits the ring, or gathers the restore
  from_   : Nat                -- PCLK count at which the hold began
  caps    : List RingCap       -- the capture set
  shards  : List RingShard     -- as coordinator: entries received
  done    : List Nat           -- as coordinator: members whose final frame has arrived
  written : Nat                -- shards written
  point   : Option Nat         -- ring number of the last capture point passed
  deltaOk : Bool               -- R348
  image   : NMap Bytes         -- as restoring member: composed image parts, by part number
  parts   : List (Nat × Nat × Nat) -- kind, tensor and image offset of each part
  reports : List (Nat × Nat × List Nat)  -- as coordinator: member, status, bad
  reading : Bool               -- this member has still to read its shards
  installed : Bool
  manifest : Bytes             -- of the ring being restored
  due      : Bool              -- the capture point of the requested ring has come; the hold has begun
  lines    : Nat               -- HBM lines of each carry bitmap, while C holds the capture's blocks (R347)
  lists    : List (Nat × Nat)  -- as coordinator: shard-list frames received, member and index (R356)
  table    : Bytes             -- the manifest's tensor table as captured (R354)
  setId    : Bytes             -- the ACTIVE slot's set id as captured
deriving DecidableEq, Repr

def GroveRing.reset : GroveRing :=
  ⟨0, 0xFFFFFFFF, 0, 0, 0xFFFFFFFF, 0, 0, 0, 0, false, 0, [], [], [], 0, none, false, [], [], [], false, false, [], false, 0, [], [], zeros 32⟩

/-- One grove (R96, R301, R309). -/
structure Grove where
  st       : GroveState
  from_    : GroveState       -- the state a paused grove returns to
  causes   : Nat              -- pause causes: bit 0 HOST, 1 FREEZE, 2 HEAT
  loading  : Bool             -- assigned to a load that has not completed
  loader   : Nat × Word       -- queue and sequence of that load
  digest   : Bytes            -- the `digest` of `GROVE_LOAD`
  image    : Nat              -- HBM line of the job map image
  sections : List Section
  hints    : List (Nat × Nat)  -- the limiter's hint memory: residency ordinal and watts (R382)
  kind     : Nat
  cls      : Nat
  job      : Nat
  coord    : Nat
  seed     : Nat
  members  : Nat
  policy   : Nat
  px       : Nat
  py       : Nat
  fault    : Nat              -- status code of the last fault
  step     : Nat              -- step open, or next to open
  begun    : Bool             -- a tile has begun the step (or batch) `step`
  stop     : Nat
  pauseAt  : Option Nat
  draining : Bool             -- a paused grove that drains on resume
  mb       : Nat
  strobe   : Option PendingStrobe
  failing  : List (Nat × Nat) -- failed tiles of the grove whose slots await a remap
  replay   : Bool             -- a tile-failure replay is in progress
  replays  : Nat
  remaps   : Nat              -- remaps in the present step
  replayed : Nat              -- replays since its load
  lastSlot : Nat × Nat × Nat  -- region, lx, ly of the slot remapped last
  attached : Bool
  ws       : GroveWs
  stash    : GroveStash
  egress   : GroveEgress
  verdict  : GroveVerdict
  update   : GroveUpdate
  ring     : GroveRing
deriving DecidableEq, Repr

def Grove.empty : Grove :=
  ⟨.empty, .empty, 0, false, (0, 0), zeros 32, 0, [], [], 0, 0, 0, 0, 0, 0, 0, 0, 0, 0, 0, false, 0xFFFFFFFF, none, false, 0, none, [],
   false, 0, 0, 0, (0, 0, 0), true, GroveWs.reset, GroveStash.reset, GroveEgress.reset, GroveVerdict.reset, GroveUpdate.reset, GroveRing.reset⟩

/-! ## The Cimor link (R236-R268) -/

/-- `SP_LINK_STATUS.STATE` (R268). -/
inductive LinkState where
  | disabled | training | up | retrain | hold | down
deriving DecidableEq, Repr

/-- An accepted frame in the receive buffer (R246): its cell number, lane, charge, and where it has still to go
(0-4 an egress interface, 5 this channel's own receivers). -/
structure RxCell where
  id    : Nat
  lane  : Nat
  units : Nat
  frame : Frame
  outs  : List Nat
deriving DecidableEq, Repr

/-- A sequenced frame in the replay buffer (R249). -/
structure SentFrame where
  frame  : Frame
  lane   : Option Nat        -- credited lane; link-local frames have none
  charge : Nat
  tries  : Nat
deriving DecidableEq, Repr

/-- A frame that waits for an egress interface: from a receive cell of an interface, or from the channel itself. -/
structure EgressItem where
  src   : Nat                -- ingress of R260
  cell  : Nat
  frame : Frame
deriving DecidableEq, Repr

/-- One stream port or seam end (R246-R258). -/
structure Link where
  st       : LinkState
  phys     : Bool            -- physical training has ended
  heard    : Bool            -- the partner's HELLO since then
  partner  : Option Hello    -- the partner held
  fails    : Nat             -- consecutive failed retrainings
  txNext   : Nat
  replay   : List SentFrame  -- sent and not yet acknowledged, oldest first
  resend   : List Frame      -- frames due to be sent again, oldest first
  charged  : List Nat        -- units charged per lane since training
  retSeen  : List Nat        -- units returned per lane, as the partner reported
  rxNext   : Nat
  window   : List Frame      -- seam reorder window (R238)
  nakSent  : Bool            -- the present gap has had its NAK
  rxCharged : List Nat       -- units charged on accepted frames per lane
  returned : List Nat        -- units returned per lane
  cells    : List RxCell
  nextCell : Nat
  unacked  : Nat             -- frames accepted since the last credit/ack frame
  timer    : Bool            -- the 128 NCLK timer of R247 runs
  control  : List Frame      -- credit/ack and link-local frames to send, oldest first
  egress   : List EgressItem -- oldest first
  rr       : Nat             -- lane that VL1-VL3 round robin serves next
  creditedSent : Nat         -- credited frames since the last AUDIT
  audit    : Option (List Nat) -- charged totals named in the AUDIT that awaits its reply
  auditAt  : List Nat          -- charged totals of accepted frames when the partner's last AUDIT was accepted (R253)
  recon    : Nat             -- 0 none, 1 first RECONCILE exchanged, 2 second sent and awaiting AUDIT_REPLY
deriving DecidableEq, Repr

def Link.reset : Link :=
  ⟨.disabled, false, false, none, 0, 0, [], [], [0, 0, 0, 0], [0, 0, 0, 0], 0, [], false, [0, 0, 0, 0], [0, 0, 0, 0],
   [], 0, 0, false, [], [], 1, 0, none, [0, 0, 0, 0], 0⟩

/-! ## The channel -/

/-- A knot (R399, R401): channel coordinates and cause, and the record whose row vector was in force. -/
structure Knot where
  x     : Nat
  y     : Nat
  cause : Nat
  saved : Bool               -- a defect map record holds it
deriving DecidableEq, Repr

/-- What a channel keeps of power and heat beside its registers (R370-R389). -/
structure ChanPower where
  trim     : Option Nat      -- heat trim in force, W
  thetaCap : Option Nat      -- theta cap, W; none until a theta has been averaged
  hot      : List Nat        -- hot spots (f * 4 + k) whose higher sensor rules
  temps    : List Int        -- last 48 readings, 1/16 degree C
  spots    : List Int        -- last 24 ruling readings
  window   : List (List Int × Nat)  -- field temperatures and P_ch of the last 11 samples, newest first
  theta    : Option Word     -- averaged theta before it is limited, binary32
  preset   : Nat             -- the limiter's preset (R380)
  ramp     : Nat             -- microseconds left of a duty ramp (R381)
deriving DecidableEq, Repr

/-- One gradient block as an input of a combiner presents it (R194, R195, R197). -/
structure RedBlk where
  block   : Nat
  step    : Nat
  attempt : Nat
  gexp    : Nat                -- the grid exponent byte
  second  : Bool
  sparse  : Bool
  vals    : List (Nat × Int)   -- index and value, in rising index
  poison  : Nat
  sat     : Bool
  cmax    : Nat
  count   : Nat
  sr      : Bool
  segs    : Nat                -- segments arrived; a block is presented at 4 (a sparse record at once)
  frames  : List Frame         -- frames whose credits return once this block is consumed
  leaf    : Bool               -- a leaf contribution, not a combined sum
deriving DecidableEq, Repr

/-- One input of a combiner (R196, R200-R203, R264). -/
structure RedIn where
  src    : Nat
  ifx    : Nat                 -- 0-4 an interface, 7 the channel's own egress
  backs  : Option Nat          -- the primary entry that this backup source backs
  closed : Bool
  choice : Nat                 -- of a primary: 0 undecided, 1 taken, 2 its backup taken
  late   : Bool                -- of a primary: discarded after its backup was taken, counted once
  blocks : List RedBlk         -- waiting; of a backup: spooled
  pages  : Nat                 -- spool pages of a backup
  full   : Bool                -- backup incomplete (R203)
  last   : Bool                -- the frame with flag last has come
deriving DecidableEq, Repr

/-- The combiner of one shard, for the step and attempt in progress (R197, R465, R466). -/
structure Comb where
  grove   : Nat
  shard   : Nat
  second  : Bool
  unit    : Nat
  step    : Nat
  attempt : Nat
  inputs  : List RedIn
  done    : List Nat           -- blocks combined
  sent    : Nat                -- frames sent
  bits    : Nat                -- report bits of R207 that its blocks raised
  cmax    : Option Nat
deriving DecidableEq, Repr

/-- One channel (R18). -/
structure Chan where
  idx      : Nat
  st       : ChState
  freeze   : Nat             -- freeze causes of R307
  node     : Nat
  fm       : Nat
  bank     : Bank
  log      : List LogEntry   -- newest 4,096, oldest first
  evtSeq   : Nat
  queues   : NMap Queue      -- 0-7
  outbox   : List Emit
  undelivered : List ReplyRec   -- replies of ended sessions, logged and not sent (R290)
  tiles    : NMap Tile       -- by Y * 48 + X
  flits    : List Flit
  due      : List DuePost
  hbm      : List Host.Cell  -- byte addresses of the HBM window; unlisted bytes read 0
  poison   : List Nat        -- poisoned HBM lines found and not rewritten (R280)
  groves   : NMap Grove      -- 0-15
  links    : NMap Link       -- 0 SP2c, 1 SP2c + 1, 2 W, 3 E, 4 V
  inbox    : List Frame      -- frames the channel addressed to itself
  tables   : Option (List Host.Cell)  -- routing and multicast lookup memory in force; none is the default image
  targets  : NMap NvmeTarget
  combs    : List Comb       -- combiners in progress
  redTx    : NMap Nat        -- next reduction sequence, by job and destination node (R199)
  redRx    : NMap Nat        -- expected reduction sequence, by job and source node
  progs    : List (Nat × Nat × Nat)   -- running user programs: grove, core, pid
  linkLost : Bool            -- its controller link is lost
  rows     : List Nat        -- row offset vector of each local field (R399)
  knots    : List Knot
  newKnots : Nat
  bistBad  : List (Nat × Nat)         -- tiles the BIST of this bring-up failed
  bistRtr  : List (Nat × Nat)         -- routers it failed
  measured : Bytes           -- firmware measurement taken at bring-up
  power    : ChanPower
  scrubPos : List Nat        -- next line of each HBM stack's patrol scrubber
  scrubEnd : List Nat        -- complete patrol passes of each stack
  scrubQ   : List Nat        -- HBM lines that wait for a write-back ahead of the patrol (R278)
  clearing : Nat             -- the dirty generation that a clear in progress zeroes (R274)
  dropped  : Nat             -- tile data and chunk frames discarded for a member that cannot take them (R111, R132)
  building : List (Nat × Bytes) -- lines of a frame put together at an interface, by source tile (R110)
  applyWait : Option (Nat × Option Nat) -- a strobe that waits for the flit drain: groups, and the queue it replies on (R332)
  free     : Nat             -- the model's own counter of free values drawn
deriving DecidableEq, Repr

/-! ## The heartwood cell and the module (R431-R440) -/

/-- An entry of the cell's breach log (R436). -/
structure BreachRec where
  num      : Nat
  counts   : List Nat
  readouts : Nat
deriving DecidableEq, Repr

/-- The heartwood cell (R431-R437). -/
structure Cell where
  counts   : List Nat        -- total and eight branches, mWh
  nv       : List Nat        -- counts last written to ferroelectric memory
  torn     : Bool            -- its last write of them did not complete
  gapSeen  : Bool            -- `GAP` seen since the previous readout
  breachN  : Nat             -- breach count
  breaches : List BreachRec  -- newest 64
  readouts : Nat
  broken   : Bool            -- present seal state
  link     : Bool            -- the sealed link to the port die answers
deriving DecidableEq, Repr

/-- What the module has sent, oldest first: the history that a reader of a run sees. -/
inductive Out where
  | packet (origin : Nat) (bytes : Bytes)          -- a reply or completion to a command's source
  | event (addr : Bytes) (port : Nat) (bytes : Bytes)
  | frame (ch i : Nat) (f : Frame)                 -- on a seam end: to the end that `seamPeer` names
  | crown (ch core : Nat) (data : Option Bytes)    -- what a crown core's access returned (R31, R32)
  | nvme (ch : Nat) (body : Bytes)
  | blocks (ch target nsid lba : Nat) (data : Bytes)
  | net (bytes : Bytes)                            -- an ARP, ICMP or neighbour answer
  | pmbus (answer : Option Bytes)                  -- none: not acknowledged
deriving DecidableEq, Repr

/-- The whole module. -/
structure State where
  chans   : NMap Chan        -- 0-7
  pd      : PortDie
  cell    : Cell
  out     : List Out
  pending : List Instr       -- commands that wait, first in, first out
deriving DecidableEq, Repr

/-- Reset value of `CTL_ID` (R340). -/
def ctlIdReset (c : Nat) : Word := BitVec.ofNat 32 (0xFFFE0000 + c + if c = 0 ∨ c = 7 then 8 else 0)

def ChanPower.reset : ChanPower := ⟨none, none, [], [], [], [], none, 0, 0⟩

/-- A channel in OFF, right after a port die reset. -/
def Chan.reset (c : Nat) : Chan where
  idx := c
  st := .off
  freeze := 0
  node := 0xFFFE
  fm := 0xFFFE
  bank := { Bank.empty with regs := [(0, ctlIdReset c)] }
  log := []
  evtSeq := 0
  queues := []
  outbox := []
  undelivered := []
  tiles := []
  flits := []
  due := []
  hbm := []
  poison := []
  groves := []
  links := []
  inbox := []
  tables := none
  targets := []
  combs := []
  redTx := []
  redRx := []
  progs := []
  linkLost := false
  rows := [0, 0, 0, 0, 0, 0]
  knots := []
  newKnots := 0
  bistBad := []
  bistRtr := []
  measured := []
  power := ChanPower.reset
  scrubPos := [0, 0, 0]
  scrubEnd := [0, 0, 0]
  scrubQ := []
  clearing := 0
  dropped := 0
  building := []
  applyWait := none
  free := 0

def ModPower.reset : ModPower := ⟨none, false, false, 0, none, false, 0, false, false, 0, 0, 0, true, false⟩

def Flash.reset : Flash := ⟨none, 0xFFFE, [[], []], 0, [], 0xFF, 0, []⟩

/-- The port die before power-on; log entry 2. -/
def PortDie.reset : PortDie where
  bank := Bank.empty
  log := []
  ring := []
  unringed := []
  sessions := []
  ended := []
  pending := []
  session0 := []
  locked := false
  services := [0xFF, 0xFF, 0xFF]
  outbox := []
  undelivered := []
  late := 0
  keys := [⟨0, 0, 0xFF, slice Config.ownerKey 0 1793⟩]
  flash := Flash.reset
  fwHeader := []
  found := [none, none]
  sigFails := []
  apport := []
  straps := 7
  powered := false
  boot := 0
  resetPin := false
  meshOpen := false
  power := ModPower.reset
  bound := some Config.cellKey
  clock := 0
  free := 0

def Cell.reset : Cell := ⟨List.replicate 9 0, List.replicate 9 0, false, false, 0, [], 0, false, true⟩

/-- The module right after reset: before its first power-on, every channel OFF (R307, R394, R449). -/
def State.reset : State where
  chans := (List.range 8).map (fun c => (c, Chan.reset c))
  pd := PortDie.reset
  cell := Cell.reset
  out := []
  pending := []

end Sys2Proof.Machine
end

