-- ==== Sys2Proof/Machine/Regs.lean ====
section
/-! DEFINITION. Register banks: reset values, fields, write rules per access type, staging, parity marks and counter
banks (R313-R337, R463). -/

namespace Sys2Proof.Machine

/-- Whether a map row covers an offset. -/
def RegDef.hit (r : RegDef) (off : Nat) : Bool :=
  if off < r.base then false
  else
    let d := off - r.base
    let i := if r.n1 ≤ 1 then 0 else d / r.s1
    let e := if r.n1 ≤ 1 then d else d % r.s1
    decide (i < max r.n1 1) && (if r.n2 ≤ 1 then decide (e = 0) else decide (e % r.s2 = 0) && decide (e / r.s2 < r.n2))

/-- The map row of an offset. -/
def findReg (t : List RegDef) (off : Nat) : Option RegDef := t.find? (fun r => r.hit off)

/-- Which outer copy of its map row an offset is: the grove, the tile or the interface. -/
def RegDef.copyOf (r : RegDef) (off : Nat) : Nat := if r.n1 ≤ 1 then 0 else (off - r.base) / r.s1

/-- Reset value of an offset; unused offsets read 0 (R315). -/
def regReset (t : List RegDef) (off : Nat) : Word := ((findReg t off).map (·.reset)).getD 0

/-- The mask of a field. -/
def FieldDef.mask (f : FieldDef) : Word := BitVec.ofNat 32 ((2 ^ f.width - 1) * 2 ^ f.lo)

/-- The bits of a register whose access type is `a`. -/
def RegDef.bitsOf (r : RegDef) (a : Acc) : Word :=
  r.fields.foldl (fun m f => if f.acc = a then m ||| f.mask else m) 0

/-- A configuration register (R323): it has an RW or RWS field. -/
def RegDef.isConfig (r : RegDef) : Bool := r.fields.any (fun f => f.acc = .rw || f.acc = .rws)

/-- Whether the register has RWS fields. -/
def RegDef.isStaged (r : RegDef) : Bool := r.fields.any (fun f => f.acc = .rws)

/-- A field moved by an offset: the same field of another grove, interface or tile. -/
def Fld.sh (f : Fld) (k : Nat) : Fld := { f with off := f.off + k }

/-- The field's bits of a word. -/
def Fld.of (f : Fld) (w : Word) : Nat := bits w.toNat f.lo f.width

/-- A word with the field set. -/
def Fld.into (f : Fld) (w : Word) (v : Nat) : Word := BitVec.ofNat 32 (setBits w.toNat f.lo f.width v)

/-- Applied value of a register. -/
def Bank.get (t : List RegDef) (b : Bank) (off : Nat) : Word := mapGet (regReset t) b.regs off

/-- Staged value of a register: the applied one until a write changes it (R327). -/
def Bank.getStaged (t : List RegDef) (b : Bank) (off : Nat) : Word := mapGet (b.get t) b.staged off

/-- Set the stored word, whatever its access types: what hardware does. -/
def Bank.put (t : List RegDef) (b : Bank) (off : Nat) (v : Word) : Bank :=
  { b with regs := mapSet (regReset t) b.regs off v }

def Bank.putStaged (t : List RegDef) (b : Bank) (off : Nat) (v : Word) : Bank :=
  { b with staged := mapSet (b.get t) b.staged off v }

def Bank.fld (t : List RegDef) (b : Bank) (f : Fld) : Nat := f.of (b.get t f.off)

def Bank.setFld (t : List RegDef) (b : Bank) (f : Fld) (v : Nat) : Bank := b.put t f.off (f.into (b.get t f.off) v)

/-- Count one event in a saturating counter field (R340, R391). -/
def Bank.count (t : List RegDef) (b : Bank) (f : Fld) : Bank := b.setFld t f (satAdd f.width (b.fld t f) 1)

/-- A 64-bit counter of a LO and HI pair (R336). -/
def Bank.get64 (t : List RegDef) (b : Bank) (off : Nat) : Nat := (b.get t off).toNat + (b.get t (off + 4)).toNat * 2 ^ 32

/-- Count in a 64-bit counter, which stays at its all-ones value (R282, R339, R393). -/
def Bank.add64 (t : List RegDef) (b : Bank) (off n : Nat) : Bank :=
  let v := min (b.get64 t off + n) (2 ^ 64 - 1)
  (b.put t off (BitVec.ofNat 32 v)).put t (off + 4) (BitVec.ofNat 32 (v / 2 ^ 32))

/-- What a write of a register did: the bank, and whether an RSV bit would have changed (R318). -/
structure WriteRes where
  bank : Bank
  rsv  : Bool
deriving DecidableEq, Repr

/-- A full-word write under the access types of the register (R8, R317, R318, R323).
`live` is what the register reads at present; `stored` what its parity now is. -/
def Bank.write (t : List RegDef) (b : Bank) (d : RegDef) (off : Nat) (v live : Word) : WriteRes :=
  let old := b.get t off
  let rw := d.bitsOf .rw
  let w1c := d.bitsOf .w1c
  let rws := d.bitsOf .rws
  let b1 := b.put t off ((old &&& ~~~ rw &&& ~~~ (w1c &&& v)) ||| (v &&& rw))
  let b2 := if d.isStaged then b1.putStaged t off ((b.getStaged t off &&& ~~~ rws) ||| (v &&& rws)) else b1
  let b3 : Bank :=
    if d.isConfig then
      { b2 with
        bad := if rw ≠ 0 then (if b.inject then (b2.bad.filter (· ≠ off)) ++ [off] else b2.bad.filter (· ≠ off)) else b2.bad
        failing := if rw ≠ 0 then b2.failing.filter (· ≠ off) else b2.failing
        badStaged := if d.isStaged then (if b.inject then (b2.badStaged.filter (· ≠ off)) ++ [off] else b2.badStaged.filter (· ≠ off))
          else b2.badStaged
        reported := if d.isStaged then b2.reported.filter (· ≠ off) else b2.reported
        inject := false }
    else b2
  ⟨b3, decide ((v ^^^ live) &&& d.bitsOf .rsv ≠ 0)⟩

/-- Whether a staged register differs from its applied copy in an RWS bit (R327). -/
def Bank.changedAt (t : List RegDef) (b : Bank) (off : Nat) : Bool :=
  match findReg t off with
  | some d => decide ((b.getStaged t off ^^^ b.get t off) &&& d.bitsOf .rws ≠ 0)
  | none => false

/-- Apply one staged register (R327): both copies are then equal, and its marks clear (R325). -/
def Bank.applyAt (t : List RegDef) (b : Bank) (off : Nat) : Bank :=
  let rws := ((findReg t off).map (·.bitsOf .rws)).getD 0
  let b1 := b.put t off ((b.get t off &&& ~~~ rws) ||| (b.getStaged t off &&& rws))
  { b1 with
    staged := mapDel b1.staged off
    bad := b1.bad.filter (· ≠ off)
    failing := b1.failing.filter (· ≠ off) }

/-- Discard one staged register (R327, R463). -/
def Bank.discardAt (b : Bank) (off : Nat) : Bank :=
  { b with
    staged := mapDel b.staged off
    badStaged := b.badStaged.filter (· ≠ off)
    reported := b.reported.filter (· ≠ off) }

/-- The LO words of a counter bank's counters, in order, by the offset of its first register; none where the offset
starts no bank (R336). Channel banks. -/
def chanBank (off : Nat) : Option (List Nat) :=
  if off = R.CLK_PCLK_COUNT_LO then some [off]
  else if off = R.TH_LIMIT_LO then some [off]
  else if off = R.SP_WS_VERIFIED_LO then some [off]
  else if off = R.SP_WS_GATE_WAIT_LO then some [off]
  else if off = R.CKP_TX_LO then some [off, R.CKP_RX_LO]
  else
    match chanRegs.find? (fun r => r.hit off) with
    | none => none
    | some d =>
      if d.base = R.TILE_A_RETIRED_LO then some [off, off + 8]
      else if d.base = R.HBM_STASH_GRV_HOLD_LO then some [off]
      else if d.base = R.RED_UNIT_BLOCKS_LO then some [off]
      else if d.base = R.SP_FEC_CORR_LO || d.base = R.SEAM_FEC_CORR_LO then some [off]
      else if d.base = R.SP_TX_UNITS_LO || d.base = R.SEAM_TX_UNITS_LO then some [off, off + 8]
      else none

/-- Module-global counter banks. -/
def pdBank (off : Nat) : Option (List Nat) :=
  if off = R.PD_CMD_LO then some [off]
  else if off = R.MET_E_LO then some ((List.range 9).map (fun i => R.MET_E_LO + 8 * i))
  else none

/-- Copy a bank's counters into its holding registers (R337). -/
def Bank.snap (t : List RegDef) (b : Bank) (los : List Nat) : Bank :=
  { b with held := los.foldl (fun h o => mapPut (mapPut h o (b.get t o)) (o + 4) (b.get t (o + 4))) b.held }

/-- End a bank's held state (R337). -/
def Bank.unsnap (b : Bank) (los : List Nat) : Bank :=
  { b with held := b.held.filter (fun p => !los.any (fun o => p.1 = o || p.1 = o + 4)) }

end Sys2Proof.Machine
end

