-- ==== Sys2Proof/Machine/Ops.lean ====
section
/-! DEFINITION. The named operations over a channel that every family shares: registers and flags, the event log,
memories, frames a channel originates, replies and completions, tile and grove faults. -/

namespace Sys2Proof.Machine

/-! ## Parts of a channel -/

def Chan.tile (c : Chan) (i : Nat) : Tile := mapGet (fun _ => Tile.reset) c.tiles i
def Chan.setTile (c : Chan) (i : Nat) (t : Tile) : Chan := { c with tiles := mapPut c.tiles i t }
def Chan.grove (c : Chan) (g : Nat) : Grove := mapGet (fun _ => Grove.empty) c.groves g
def Chan.setGrove (c : Chan) (g : Nat) (v : Grove) : Chan := { c with groves := mapPut c.groves g v }
def Chan.onGrove (c : Chan) (g : Nat) (f : Grove → Grove) : Chan := c.setGrove g (f (c.grove g))
def Chan.link (c : Chan) (i : Nat) : Link := mapGet (fun _ => Link.reset) c.links i
def Chan.setLink (c : Chan) (i : Nat) (l : Link) : Chan := { c with links := mapPut c.links i l }
def Chan.queue (c : Chan) (q : Nat) : Queue := mapGet (fun _ => Queue.fresh) c.queues q
def Chan.setQueue (c : Chan) (q : Nat) (v : Queue) : Chan := { c with queues := mapPut c.queues q v }

/-- The sixteen grove numbers. -/
def groveNums : List Nat := List.range 16

def tileIdx (t : TileRef) : Nat := t.y.val * 48 + t.x.val

/-- Local field of a tile (R101). -/
def fieldOf (i : Nat) : Nat := 2 * (i / 48 / 30) + i % 48 / 24

/-- Whether the channel has the interface: CH0 and CH4 lack W, CH3 and CH7 lack E (R21). -/
def hasIf (c i : Nat) : Bool :=
  if i = 2 then c % 4 ≠ 0 else if i = 3 then c % 4 ≠ 3 else i < 5

/-! ## Registers -/

def Chan.reg (c : Chan) (off : Nat) : Word := c.bank.get chanRegs off
def Chan.putReg (c : Chan) (off : Nat) (v : Word) : Chan := { c with bank := c.bank.put chanRegs off v }
def Chan.fld (c : Chan) (f : Fld) : Nat := c.bank.fld chanRegs f
def Chan.setFld (c : Chan) (f : Fld) (v : Nat) : Chan := { c with bank := c.bank.setFld chanRegs f v }
def Chan.count (c : Chan) (f : Fld) : Chan := { c with bank := c.bank.count chanRegs f }

/-- Add to a saturating counter field. -/
def Chan.countBy (c : Chan) (f : Fld) (n : Nat) : Chan := c.setFld f (satAdd f.width (c.fld f) n)

/-- Set a flag and count it in its companion (R319). -/
def Chan.flag (c : Chan) (f n : Fld) : Chan := (c.setFld f 1).count n

/-- `CLK_PCLK_COUNT` (R38). -/
def Chan.pclk (c : Chan) : Nat := c.bank.get64 chanRegs R.CLK_PCLK_COUNT_LO

/-- A free value of this channel, and the channel that has drawn it (log entry 3). -/
def Chan.draw (c : Chan) : Nat × Chan := (Config.freeNat (8 * c.free + c.idx), { c with free := c.free + 1 })

/-! ## Status codes (R304) -/

def Status.code : Status → Nat
  | .ok => 0x00 | .accepted => 0x01 | .badOpcode => 0x10 | .badParam => 0x11 | .badLength => 0x12 | .authFail => 0x20
  | .stateConflict => 0x21 | .noToken => 0x22 | .consistencyFail => 0x30 | .needsFreeze => 0x31 | .signatureFail => 0x40
  | .digestFail => 0x41 | .capacity => 0x50 | .stashExhausted => 0x51 | .tiedWeights => 0x52 | .restoreInconsistent => 0x53
  | .hwFault => 0x60 | .cfgParity => 0x61 | .capBelowFloor => 0x70 | .thermalHold => 0x71 | .locked => 0x7F

/-- Whether a status code is one of R304. -/
def statusOf (n : Nat) : Status :=
  match [Status.ok, .accepted, .badOpcode, .badParam, .badLength, .authFail, .stateConflict, .noToken, .consistencyFail,
      .needsFreeze, .signatureFail, .digestFail, .capacity, .stashExhausted, .tiedWeights, .restoreInconsistent, .hwFault,
      .cfgParity, .capBelowFloor, .thermalHold, .locked].find? (fun s => s.code = n) with
  | some s => s
  | none => .hwFault

def ChState.code : ChState → Nat
  | .off => 0 | .bringup => 1 | .ready => 2 | .running => 3 | .frozen => 4 | .faulted => 5 | .locked => 6

def GroveState.code : GroveState → Nat
  | .empty => 0 | .loaded => 1 | .running => 2 | .paused => 3 | .draining => 4 | .faulted => 5

def SlotState.code : SlotState → Nat
  | .empty => 0 | .staging => 1 | .staged => 2 | .active => 3

def LinkState.code : LinkState → Nat
  | .disabled => 0 | .training => 1 | .up => 2 | .retrain => 3 | .hold => 4 | .down => 5

def CtxState.code : CtxState → Nat
  | .idle => 0 | .running => 1 | .waiting => 2 | .faulted => 3

/-! ## The event log (R305, R414-R417) -/

/-- `ARG` that names a status flag (R414): register offset, bit, detail. -/
def argFlag (off bit : Nat) (detail : Nat := 0) : BitVec 64 := BitVec.ofNat 64 (off + bit * 2 ^ 32 + detail % 2 ^ 24 * 2 ^ 40)

/-- `ARG` that names a flag field. -/
def argFld (f : Fld) (detail : Nat := 0) : BitVec 64 := argFlag f.off f.lo detail

/-- `ARG` that names no register. -/
def argNone (detail : Nat := 0) : BitVec 64 := argFlag 0xFFFFFFFF 0 detail

/-- `ARG` that names no register and holds 32 bits (log entry 80). -/
def argWide (v : Nat) : BitVec 64 := BitVec.ofNat 64 (0xFFFFFFFF + v % 2 ^ 32 * 2 ^ 32)

/-- The entry a channel logs now. -/
def Chan.entry (c : Chan) (st : Status) (src code : Nat) (g : Option Nat) (arg : BitVec 64) : LogEntry :=
  let gr := (g.map c.grove).getD Grove.empty
  { seq := c.evtSeq % 2 ^ 32, step := if g.isSome then gr.step else 0xFFFFFFFF, pclk := c.pclk, status := st, src := src,
    code := code, grove := g.getD 0xFF, ch := c.idx, job := gr.job, arg := arg }

/-- Append to the log, which keeps its newest 4,096 entries (R416). -/
def Chan.append (c : Chan) (e : LogEntry) : Chan :=
  { c with log := newest 4096 (c.log ++ [e]), evtSeq := c.evtSeq + 1 }

/-- Log an event and send it to the subscribed sessions (R305). -/
def Chan.event (c : Chan) (st : Status) (src code : Nat) (g : Option Nat) (arg : BitVec 64) : Chan :=
  let e := c.entry st src code g arg
  { c.append e with outbox := c.outbox ++ [.event e] }

/-- Complete an ACCEPTED command: one completion event, entered in the log too (R295, R305; log entry 14). -/
def Chan.complete (c : Chan) (d : Datagram) (st : Status) (g : Option Nat) (data : Bytes) : Chan :=
  let e := c.entry st 0 0 g (argNone)
  let q := c.queue d.queue
  let c1 := (c.append e).setQueue d.queue { q with accepted := q.accepted.filter (fun x => x.seq ≠ d.seq) }
  { c1 with outbox := c1.outbox ++ [.completion e d st data] }

/-! ## Channel status flags (R340) -/

def Chan.flagRsv (c : Chan) : Chan := c.flag F.CTL_STATUS_RSV_WRITE F.CTL_FLAG_COUNT_RSV_WRITE
def Chan.flagAlias (c : Chan) : Chan := c.flag F.CTL_STATUS_ALIAS_ERR F.CTL_AUX_COUNT_ALIAS_ERR
def Chan.flagSnap (c : Chan) : Chan := c.flag F.CTL_STATUS_SNAP_ERR F.CTL_AUX_COUNT_SNAP_ERR
def Chan.flagBus (c : Chan) : Chan := c.flag F.CTL_STATUS_BUS_REFUSED F.CTL_FLAG_COUNT_BUS_REFUSED
def Chan.flagStrobe (c : Chan) : Chan := c.flag F.CTL_STATUS_STROBE_REFUSED F.CTL_FLAG_COUNT_STROBE_REFUSED
def Chan.flagCancel (c : Chan) : Chan := c.flag F.CTL_STATUS_BOUNDARY_CANCEL F.CTL_AUX_COUNT_BOUNDARY_CANCEL

/-- Report a parity mismatch at `off` (R325, R463): flag, count, first address, event. -/
def Chan.parityReport (c : Chan) (off : Nat) : Chan :=
  let c1 := c.flag F.CTL_STATUS_PARITY F.CTL_FLAG_COUNT_PARITY
  let c2 := if c1.fld F.CTL_PARITY_ADDR_SEEN = 0 then (c1.setFld F.CTL_PARITY_ADDR_ADDR off).setFld F.CTL_PARITY_ADDR_SEEN 1 else c1
  c2.event .cfgParity 0 0 none (argFlag off 0)

/-- Check a register's applied copy: a mismatch marks it failing and is reported once (R325). -/
def Chan.checkApplied (c : Chan) (off : Nat) : Chan :=
  if c.bank.bad.contains off && !c.bank.failing.contains off then
    ({ c with bank := { c.bank with failing := c.bank.failing ++ [off] } }).parityReport off
  else c

/-- Check a register's staged copy: a mismatch is reported once (R463). -/
def Chan.checkStaged (c : Chan) (off : Nat) : Chan :=
  if c.bank.badStaged.contains off && !c.bank.reported.contains off then
    ({ c with bank := { c.bank with reported := c.bank.reported ++ [off] } }).parityReport off
  else c

/-! ## Byte memories -/

/-- A byte of a memory whose unlisted bytes read 0 (log entry 1). -/
def cellByte (m : List Host.Cell) (a : Nat) : Byte := mapGet (fun _ => 0) m a

/-- Store one byte, in canonical form. -/
def cellPut (m : List Host.Cell) (a : Nat) (b : Byte) : List Host.Cell := mapSet (fun _ => 0) m a b

/-- `n` bytes from address `a`. -/
def cellRead (m : List Host.Cell) (a n : Nat) : Bytes := (List.range n).map (fun i => cellByte m (a + i))

/-- Store a byte string from address `a`. -/
def cellWrite (m : List Host.Cell) (a : Nat) : Bytes → List Host.Cell
  | [] => m
  | b :: t => cellWrite (cellPut m a b) (a + 1) t

/-- Set one bit of a byte memory. -/
def cellSetBit (m : List Host.Cell) (a bit : Nat) : List Host.Cell :=
  cellPut m (a + bit / 8) (cellByte m (a + bit / 8) ||| BitVec.ofNat 8 (2 ^ (bit % 8)))

/-- The canonical form of a byte memory (R6's smallest unit, log entry 1). -/
abbrev cellsWf (m : List Host.Cell) : Bool := mapWf (fun _ => (0 : Byte)) m

/-! ## HBM lines (R269-R273, R280) -/

/-- Region `n`: base, limit, tracked; none when not valid (R271, R282). -/
def Chan.region (c : Chan) (n : Nat) : Option (Nat × Nat × Bool) :=
  if c.fld (F.HBM_REGION_HI_VALID.sh (8 * n)) = 1 then
    some (c.fld (F.HBM_REGION_LO_BASE.sh (8 * n)), c.fld (F.HBM_REGION_HI_LIMIT.sh (8 * n)), c.fld (F.HBM_REGION_LO_TRACK.sh (8 * n)) = 1)
  else none

/-- The region that holds a line. -/
def Chan.regionOf (c : Chan) (line : Nat) : Option Nat :=
  (List.range 8).find? (fun n => match c.region n with
    | some (b, l, _) => decide (b ≤ line) && decide (line ≤ l)
    | none => false)

/-- Lines of one dirty generation (R273). -/
def genLines : Nat := 54739

/-- Byte address of the generation that receives writes, when region 3 exists (R273). -/
def Chan.dirtyBase (c : Chan) : Option Nat :=
  (c.region 3).map (fun r => (r.1 + c.fld F.HBM_STATUS_GEN * genLines) * 64)

/-- Mark the block of an HBM line dirty (R273). -/
def Chan.markHbm (c : Chan) (line : Nat) : Chan :=
  match c.regionOf line, c.dirtyBase with
  | some n, some b =>
    if ((c.region n).map (·.2.2)).getD false then { c with hbm := cellSetBit c.hbm b (line / 64) } else c
  | _, _ => c

/-- Mark the block of a tile SRAM address dirty (R273). -/
def Chan.markSram (c : Chan) (tile a : Nat) : Chan :=
  match c.dirtyBase with
  | some b => { c with hbm := cellSetBit c.hbm (b + 51499 * 64) (tile * 384 + a / 4096) }
  | none => c

def Chan.hbmRead (c : Chan) (a n : Nat) : Bytes := cellRead c.hbm a n
def Chan.hbmLine (c : Chan) (line : Nat) : Bytes := cellRead c.hbm (line * 64) 64

/-- A whole-line write: dirty bit set, poison entry removed (R273, R280). -/
def Chan.hbmWriteLine (c : Chan) (line : Nat) (data : Bytes) : Chan :=
  let c1 : Chan := { c with hbm := cellWrite c.hbm (line * 64) (slice data 0 64), poison := c.poison.filter (· ≠ line) }
  (c1.setFld F.HBM_UE_COUNT_LISTED c1.poison.length).markHbm line

/-- Whole lines from `line` on. -/
def Chan.hbmWrite (c : Chan) (line : Nat) (data : Bytes) : Chan :=
  ((chunksOf (data.length / 64 + 1) 64 data).zipIdx).foldl (fun c p => c.hbmWriteLine (line + p.2) p.1) c

/-- Stack of a line (R269). -/
def stackOf (line : Nat) : Nat := line / 4 % 3

/-- An uncorrectable event on an HBM line (R280): listed, counted, recorded, logged. -/
def Chan.hbmUe (c : Chan) (line : Nat) : Chan :=
  let c1 : Chan :=
    if c.poison.contains line then c
    else if c.poison.length < 255 then { c with poison := c.poison ++ [line] }
    else c.setFld F.HBM_STATUS_POISON_FULL 1
  let c2 := (c1.setFld F.HBM_STATUS_UE 1).setFld F.HBM_UE_COUNT_LISTED c1.poison.length
  let c3 := c2.count ⟨R.HBM_UE_COUNT, 8 * stackOf line, 8⟩
  let c4 := (c3.setFld F.HBM_UE_ADDR_LINE line).setFld F.HBM_UE_ADDR_SEEN 1
  c4.event .hwFault 3 0 none (argFld F.HBM_STATUS_UE)

/-- A number joins a queue that does not hold it yet. -/
def enqueue (l : List Nat) (n : Nat) : List Nat := if l.contains n then l else l ++ [n]

/-- A corrected HBM line (R278): counted, flagged, and queued for a write-back ahead of the patrol. -/
def Chan.hbmCe (c : Chan) (line : Nat) : Chan :=
  ({ c with scrubQ := enqueue c.scrubQ line } : Chan).setFld F.HBM_STATUS_CE 1 |>.count ⟨R.HBM_CE_COUNT + 4 * stackOf line, 0, 32⟩

/-! ## Stored lines and error patterns (R275-R280) -/

/-- What decoding a stored line gives. -/
inductive LineRead where
  | clean | corrected | bad | other (v : Option (BitVec 512))
deriving DecidableEq, Repr

/-- Decode a line under an error pattern (R275): up to 16 bits corrected, up to 32 reported, longer not guaranteed
(log entry 7). -/
def decodeLine (draw : Nat) (data : BitVec 512) (e : LineErr) : LineRead :=
  match codeClass 16 32 e.toNat 576 with
  | .clean => .clean
  | .corrected => .corrected
  | .reported => .bad
  | .open_ => .other (Config.beyondCode draw (lineWord data ^^^ e))

def lineNat (b : Bytes) : BitVec 512 := BitVec.ofNat 512 (leNat b)

/-- Read one HBM line under an error pattern: the bytes, or none when it reads uncorrectable (R278, R280). -/
def Chan.readLine (c : Chan) (line : Nat) (errs : NMap LineErr) : Option Bytes × Chan :=
  if c.poison.contains line then (none, c.hbmUe line)
  else
    match decodeLine c.free (lineNat (c.hbmLine line)) (mapGet (fun _ => 0) errs line) with
    | .clean => (some (c.hbmLine line), c)
    | .corrected => (some (c.hbmLine line), c.hbmCe line)
    | .bad => (none, c.hbmUe line)
    | .other (some v) => (some (leBytes 64 v.toNat), { c with free := c.free + 1 })
    | .other none => (none, ({ c with free := c.free + 1 } : Chan).hbmUe line)

/-- Read lines in rising order; none as soon as one reads uncorrectable. -/
def Chan.readLines (c : Chan) (line : Nat) (errs : NMap LineErr) : Nat → Option Bytes × Chan
  | 0 => (some [], c)
  | n + 1 =>
    match c.readLines line errs n with
    | (none, c1) => (none, c1)
    | (some b, c1) =>
      match c1.readLine (line + n) errs with
      | (none, c2) => (none, c2)
      | (some x, c2) => (some (b ++ x), c2)

/-- Read a list of lines; none as soon as one reads uncorrectable. -/
def Chan.readList (c : Chan) (errs : NMap LineErr) : List Nat → Option Bytes × Chan
  | [] => (some [], c)
  | l :: t =>
    match c.readLine l errs with
    | (none, c1) => (none, c1)
    | (some x, c1) =>
      match c1.readList errs t with
      | (none, c2) => (none, c2)
      | (some b, c2) => (some (x ++ b), c2)

/-! ## Tile SRAM -/

def Tile.readBytes (t : Tile) (a n : Nat) : Bytes := cellRead t.sram a n

/-- Whole lines written: poison bits cleared (R277). -/
def Tile.writeBytes (t : Tile) (a : Nat) (b : Bytes) : Tile :=
  { t with
    sram := cellWrite t.sram a b
    poison := t.poison.filter (fun l => !(decide (a ≤ l * 64) && decide (l * 64 + 64 ≤ a + b.length))) }

/-- Blocks of 4 KiB that an extent touches. -/
def blocksOf (a n : Nat) : List Nat := (List.range ((a + n - 1) / 4096 - a / 4096 + 1)).map (fun k => a / 4096 + k)

/-- Write tile SRAM from an agent: dirty bits set (R273). -/
def Chan.sramWrite (c : Chan) (i a : Nat) (b : Bytes) : Chan :=
  let c1 := c.setTile i ((c.tile i).writeBytes a b)
  if b.length = 0 then c1 else (blocksOf a b.length).foldl (fun c k => c.markSram i (k * 4096)) c1

/-- Offset of a tile's register slot (R95). -/
def tileSlot (i : Nat) : Nat := i * 0x400

/-- A corrected tile SRAM line (R278): counted, flagged, and queued for a write-back ahead of the patrol. -/
def Chan.sramCe (c : Chan) (i line : Nat) : Chan :=
  ((c.setTile i { c.tile i with scrubQ := enqueue (c.tile i).scrubQ line }).setFld (F.TILE_STATUS_ECC_CE.sh (tileSlot i)) 1).count
    (F.TILE_ECC_CE_COUNT_SRAM_CE.sh (tileSlot i))

/-- Read a tile SRAM line under an error pattern: none when uncorrectable, its poison bit then set (R277, R278, R280). -/
def Chan.sramLine (c : Chan) (i line : Nat) (e : LineErr) : Option Bytes × Chan :=
  let t := c.tile i
  let bad (c : Chan) : Chan :=
    (c.setTile i { c.tile i with poison := enqueue (c.tile i).poison line }).setFld (F.TILE_STATUS_ECC_UE.sh (tileSlot i)) 1
  if t.poison.contains line then (none, bad c)
  else
    let data := t.readBytes (line * 64) 64
    match decodeLine c.free (lineNat data) e with
    | .clean => (some data, c)
    | .corrected => (some data, c.sramCe i line)
    | .bad => (none, bad c)
    | .other (some v) => (some (leBytes 64 v.toNat), { c with free := c.free + 1 })
    | .other none => (none, bad { c with free := c.free + 1 })

/-- Whether an extent holds a poisoned line. -/
def Tile.poisoned (t : Tile) (a n : Nat) : Bool :=
  t.poison.any (fun l => decide (l * 64 < a + n) && decide (a < l * 64 + 64))

/-! ## Frames the channel originates (R239-R262) -/

end Sys2Proof.Machine

namespace Sys2Proof

/-- The payload of `HELLO` (R258). -/
def Hello.bytes (h : Hello) : Bytes :=
  [0x01, 0x01] ++ Machine.leBytes 2 h.node ++ Machine.leBytes 8 h.serial ++ Machine.leBytes 1 h.channel ++ Machine.leBytes 1 h.ifx ++ Machine.leBytes 1 h.kind ++ [0]
    ++ Machine.leBytes 2 h.fmNode ++ Machine.leBytes 2 h.rxNext ++ (h.allot.flatMap (Machine.leBytes 4)) ++ (h.held.flatMap (Machine.leBytes 4)) ++ Machine.zeros 12

/-- The subtype of a control message (R135, R208, R210, R214, R244, R358). -/
def CtlMsg.subtype : CtlMsg → Nat
  | .hello _ => 0x01 | .topoReport _ => 0x02 | .idAssign _ _ => 0x03 | .audit _ => 0x04 | .auditReply _ _ _ _ => 0x05 | .reconcile => 0x06
  | .readChunk _ _ _ _ _ _ => 0x10 | .chunkDone _ _ _ => 0x11 | .chunkBad _ _ _ _ => 0x12 | .bufFree _ _ => 0x13
  | .wsetFail _ _ _ _ => 0x14 | .digestUpdate _ _ _ _ => 0x15 | .switchAt _ _ _ => 0x16 | .chunkStored _ _ _ _ => 0x17
  | .writeChunk _ _ _ _ _ _ _ => 0x18
  | .stepReport _ _ _ _ _ _ _ => 0x20 | .stepFault _ _ _ _ _ => 0x21 | .verdictQuery _ _ _ => 0x22 | .suspectMark _ _ _ _ _ _ => 0x23
  | .ringBegin _ _ _ _ _ _ _ _ _ => 0x30 | .ringFail _ _ _ _ => 0x31 | .ringAbort _ _ => 0x32 | .ringDone _ _ _ => 0x33
  | .restoreBegin _ _ _ _ _ _ => 0x34 | .restoreReport _ _ _ => 0x35
  | .other t _ => t

/-- The first 8 bytes of reports, faults and suspect marks: subtype, attempt, job, step (R208, R210). -/
def stepHead (t attempt job step : Nat) : Bytes :=
  Machine.leBytes 1 t ++ Machine.leBytes 1 attempt ++ Machine.leBytes 2 job ++ Machine.leBytes 4 step

/-- A grid exponent proposal: tensor and exponent (R208). -/
def proposalBytes (p : Nat × Int) : Bytes := Machine.leBytes 3 p.1 ++ Machine.leBytes 1 (p.2 % 256).toNat

/-- The payload of a control message (R208, R210, R244, R253, R258, R259): its subtype stands in byte 0; where the spec lays out no
more, `Config.ctlBody` follows (log entry 8). -/
def CtlMsg.bytes : CtlMsg → Bytes
  | .hello h => h.bytes
  | .audit ch => [0x04] ++ Machine.zeros 7 ++ ch.flatMap (Machine.leBytes 8)
  | .auditReply cor ch re he => [0x05, if cor then 1 else 0] ++ Machine.zeros 6 ++ ch.flatMap (Machine.leBytes 8) ++ re.flatMap (Machine.leBytes 8) ++ he.flatMap (Machine.leBytes 8)
  | .reconcile => [0x06]
  | .idAssign id fm => [0x03, 0] ++ Machine.leBytes 2 id ++ Machine.leBytes 2 fm
  | .stepReport a job step bits idx ps _ =>
    stepHead 0x20 a job step ++ Machine.leBytes 1 bits ++ [0] ++ Machine.leBytes 2 ps.length ++ Machine.leBytes 2 idx ++ [0, 0] ++
      ps.flatMap proposalBytes
  | .stepFault a job step status shard => stepHead 0x21 a job step ++ Machine.leBytes 1 status ++ Machine.zeros 3 ++ Machine.leBytes 4 shard
  | .suspectMark a job step shard tree tree2 =>
    stepHead 0x23 a job step ++ Machine.leBytes 4 shard ++ Machine.leBytes 2 tree ++ Machine.leBytes 2 tree2
  | .other t b => Machine.leBytes 1 t ++ b
  | m => Machine.leBytes 1 m.subtype ++ Config.ctlBody m

def Payload.bytes : Payload → Bytes
  | .raw b => b
  | .ctl m => m.bytes
  | .credit a => Machine.leBytes 2 a.ack ++ [if a.nak then 1 else 0] ++ Machine.zeros 5 ++ a.ret.flatMap (Machine.leBytes 4) ++ Machine.zeros 40

/-- `PLEN` (R239). -/
def Frame.plen (f : Frame) : Nat := f.payload.bytes.length

/-- Units of 64 bytes the frame occupies (R239). -/
def Frame.units64 (f : Frame) : Nat := 1 + (f.plen + 63) / 64

/-- Credit charge in units of 256 bytes (R246). -/
def Frame.charge (f : Frame) : Nat := (64 + 64 * ((f.plen + 63) / 64) + 255) / 256

/-- The lane of a frame type (R243). -/
def Machine.typeLane (t : Nat) : Option Nat :=
  match t with
  | 0x01 => some 1 | 0x02 => some 2 | 0x03 => some 2 | 0x04 => some 2 | 0x05 => some 0 | 0x06 => some 3 | 0x07 => some 0
  | 0x08 => some 0 | 0x09 => some 1 | _ => none

/-- A frame with every field zero but type, lane, destination and version. -/
def Frame.blank (typ dst : Nat) (p : Payload) : Frame :=
  { typ := typ, vl := (Machine.typeLane typ).getD 0, lseq := 0, src := 0, dst := dst, job := 0, grove := 0, fmt := 0, tensor := 0,
    shard := 0, step := 0, mb := 0, flags := 0, gexp := 0, hver := 1, ccount := 0, rsv := 0, rseq := 0, payload := p }

/-- Whether a control message is link-local (R244). -/
def CtlMsg.linkLocal : CtlMsg → Bool
  | .hello _ => true
  | .idAssign _ _ => true
  | .audit _ => true
  | .auditReply _ _ _ _ => true
  | .reconcile => true
  | _ => false

/-- Frames that are never sequenced: `HELLO` and credit/ack frames (R249). -/
def Frame.unsequenced (f : Frame) : Bool :=
  match f.payload with
  | .ctl (.hello _) => true
  | .credit _ => true
  | _ => f.typ = 0x08

def Frame.linkLocal (f : Frame) : Bool :=
  match f.payload with
  | .ctl m => m.linkLocal
  | .credit _ => true
  | .raw _ => false

end Sys2Proof

namespace Sys2Proof.Machine

/-- Forwarding entry of node `n` in the table of an ingress; the default image until the first swap (R260, R262). -/
def Chan.fwdEntry (c : Chan) (ingress n : Nat) : Nat :=
  match c.tables with
  | none => if n = c.node then 0 else 6
  | some t => bits (cellByte t (ingress * 0x8000 + n / 2)).toNat (4 * (n % 2)) 4

/-- Egress map of a multicast group at an ingress (R261). -/
def Chan.mcastMap (c : Chan) (ingress grp : Nat) : Nat :=
  match c.tables with
  | none => 0
  | some t => (cellByte t (0x30000 + 8 * grp + ingress)).toNat

/-- Where a frame goes: 0-4 an interface, 5 this channel's receivers (R260, R261). -/
def Chan.route (c : Chan) (ingress : Nat) (f : Frame) : List Nat :=
  if f.flags.getLsbD 5 then
    let m := c.mcastMap ingress f.dst
    (if m % 2 = 1 then [5] else []) ++ (List.range 5).filter (fun i => bits m (i + 1) 1 = 1)
  else
    let e := c.fwdEntry ingress f.dst
    if e = 0 then [5] else if e ≤ 5 then [e - 1] else []

/-- The other end of a seam: channel and interface (R21); none for a stream port, or an end that the channel lacks. -/
def seamPeer (c i : Nat) : Option (Nat × Nat) :=
  if i = 2 then (if c % 4 = 0 then none else some (c - 1, 3))
  else if i = 3 then (if c % 4 = 3 then none else some (c + 1, 2))
  else if i = 4 then (if c < 4 then some (c + 4, 4) else some (c - 4, 4))
  else none

/-- Register offset of interface `i` relative to stream port 0 (R268). -/
def ifOff (i : Nat) : Nat := if i < 2 then i * 0x1000 else 0x40000 + (i - 2) * 0x1000

/-- Count and flag a frame discarded for a destination that is down (R252). -/
def Chan.destDown (c : Chan) (i : Nat) : Chan :=
  (c.setFld (F.SP_LINK_STATUS_DEST_DOWN.sh (ifOff i)) 1).count (F.SP_DISCARD_COUNT_DEST_DOWN.sh (ifOff i))

/-- Queue a frame on an egress interface, or discard it where that is DISABLED or DOWN, or where the channel has no node id and
so sends only `HELLO` and credit/ack frames (R252, R256): the channel, and whether it waits. -/
def Chan.toEgress (c : Chan) (i : Nat) (e : EgressItem) : Chan × Bool :=
  let l := c.link i
  if c.node = 0xFFFE then (c, false)
  else if l.st = .disabled || l.st = .down then (c.destDown i, false)
  else (c.setLink i { l with egress := l.egress ++ [e] }, true)

/-- Send a frame of the channel's own (ingress 5): looked up once, delivered to itself, queued or discarded (R256,
R260-R262). -/
def Chan.sendFrame (c : Chan) (f0 : Frame) : Chan :=
  if c.node = 0xFFFE then c
  else
    let f := { f0 with src := c.node }
    let outs := c.route 5 f
    if outs = [] then c.count F.SP_RT_DISCARD_LOCAL
    else outs.foldl (fun c o => if o = 5 then { c with inbox := c.inbox ++ [f] } else (c.toEgress o ⟨5, 0, f⟩).1) c

/-- Send a control message to a node for a job. -/
def Chan.sendCtl (c : Chan) (dst job : Nat) (m : CtlMsg) : Chan :=
  c.sendFrame { Frame.blank 0x07 dst (.ctl m) with job := job }

/-- Take the first frame that meets `p` out of what waits for this channel's receivers: from an interface's receive
cells, whose credits then return, or from what the channel sent itself (R247). -/
def Link.take (l : Link) (p : Frame → Bool) : Option Link :=
  match l.cells.find? (fun x => x.outs.contains 5 && p x.frame) with
  | none => none
  | some x =>
    let rest := x.outs.filter (· ≠ 5)
    if rest = [] then
      some { l with
        cells := l.cells.filter (fun y => y.id ≠ x.id)
        returned := (l.returned.zipIdx).map (fun q => if q.2 = x.lane then q.1 + x.units else q.1)
        timer := true }
    else some { l with cells := l.cells.map (fun y => if y.id = x.id then { y with outs := rest } else y) }

def takeFirst (p : Frame → Bool) : List Frame → List Frame
  | [] => []
  | f :: t => if p f then t else f :: takeFirst p t

/-- Consume an arrived frame, wherever it waits. -/
def Chan.takeFrame (c : Chan) (p : Frame → Bool) : Chan :=
  match (List.range 5).findSome? (fun i => ((c.link i).take p).map (fun l => (i, l))) with
  | some (i, l) => c.setLink i l
  | none => { c with inbox := takeFirst p c.inbox }

/-- Consume an arrived control message. -/
def Chan.takeCtl (c : Chan) (m : CtlMsg) : Chan := c.takeFrame (fun f => f.payload = .ctl m)

/-! ## Replies (R293-R295) -/

/-- The reply block (R294). -/
def replyBlock (st : Status) (chState : Nat) (g gState : Nat) (tokens : Nat) (detail : Bytes) : Bytes :=
  leBytes 1 st.code ++ leBytes 1 chState ++ leBytes 1 g ++ leBytes 1 gState ++ leBytes 2 tokens ++ zeros 2 ++ slice detail 0 8

/-- Answer an admitted command of a queue: its token returns, the reply is cached, an ACCEPTED one stays due; a queue
whose session has ended frees itself with its last reply (R290, R293, R295). -/
def Queue.answer (q : Queue) (d : Datagram) (st : Status) (r : ReplyRec) : Queue :=
  let q1 : Queue :=
    { q with
      tokens := min (q.tokens + 1) 64
      current := if q.current = some d then none else q.current
      waiting := q.waiting.filter (fun x => x.seq ≠ d.seq)
      accepted := if st = .accepted then q.accepted ++ [d] else q.accepted
      cache := newest 256 (q.cache ++ [r]) }
  if q1.ending && q1.tokens = 64 then { Queue.fresh with accepted := q1.accepted } else q1

/-- Grove and channel parts of a reply block. -/
def Chan.block (c : Chan) (st : Status) (g : Option Nat) (tokens : Nat) (detail : Bytes) : Bytes :=
  replyBlock st c.st.code (g.getD 0xFF) ((g.map (fun g => if g < 16 then (c.grove g).st.code else 0xFF)).getD 0xFF) tokens detail

/-- Reply to a channel command. The reply of a session that has ended is kept in `undelivered` as well (R290; log entry 90). -/
def Chan.reply (c : Chan) (d : Datagram) (st : Status) (g : Option Nat) (detail data : Bytes) : Chan :=
  let q := c.queue d.queue
  let r : ReplyRec := ⟨d.seq, d.opcode, d.origin, c.block st g (min (q.tokens + 1) 64) detail ++ data⟩
  { c.setQueue d.queue (q.answer d st r) with
    outbox := c.outbox ++ [.reply c.idx d.queue d.session r], undelivered := if q.ending then c.undelivered ++ [r] else c.undelivered }

/-- Both cause masks, for STATE_CONFLICT (R294). -/
def Chan.causes (c : Chan) (g : Option Nat) : Bytes :=
  leBytes 1 c.freeze ++ leBytes 1 ((g.map (fun g => (c.grove g).causes)).getD 0) ++ zeros 6

/-- Reply STATE_CONFLICT with the cause masks (R311). -/
def Chan.conflict (c : Chan) (d : Datagram) (g : Option Nat) : Chan := c.reply d .stateConflict g (c.causes g) []

/-- Reply BAD_PARAM naming the first bad parameter offset (R294, R296). -/
def Chan.badParam (c : Chan) (d : Datagram) (g : Option Nat) (off : Nat) : Chan := c.reply d .badParam g (leBytes 2 off) []

/-! ## Channel and grove states (R307, R309) -/

def GroveState.active (s : GroveState) : Bool := s = .running || s = .draining

/-- READY or RUNNING by what the groves do; other states stay (R307). -/
def Chan.settle (c : Chan) : Chan :=
  if c.st = .ready || c.st = .running then
    { c with st := if groveNums.any (fun g => (c.grove g).st.active) then .running else .ready }
  else c

/-- Two groves wait on the same boundary strobe. -/
def PendingStrobe.same (a b : PendingStrobe) : Bool := a.seq = b.seq && a.queue = b.queue

/-- Take a pending boundary strobe off every grove that waits on it. -/
def Chan.dropStrobe (c : Chan) (p : PendingStrobe) : Chan :=
  groveNums.foldl (fun c h => c.onGrove h (fun v => if (v.strobe.map p.same).getD false then { v with strobe := none } else v)) c

/-- Complete the command behind a boundary strobe, if a command asked for it (R334). -/
def Chan.endStrobe (c : Chan) (p : PendingStrobe) (st : Status) (data : Bytes) : Chan :=
  match (c.queue p.queue).accepted.find? (fun d => d.seq = p.seq) with
  | some d => if p.queue < 8 then c.complete d st none data else c
  | none => c

/-- Cancel a pending boundary strobe: it completes with STATE_CONFLICT (R312, R335). -/
def Chan.cancelStrobe (c : Chan) (g : Nat) : Chan :=
  match (c.grove g).strobe with
  | none => c
  | some p => ((c.dropStrobe p).flagCancel).endStrobe p .stateConflict []

/-- Tiles that a grove maps. -/
def Chan.tilesOf (c : Chan) (g : Nat) : List Nat :=
  (c.tiles.filter (fun p => (p.2.slot.map (·.grove)) = some g)).map (·.1)

/-- Offset of a reduction unit's registers from unit 0's (R216). -/
def unitOff (u : Nat) : Nat := u * 0x40

/-- Blocks in progress in a reduction unit (R198): those that its combiners' inputs present, a spooled backup's left out. -/
def Chan.openBlocks (c : Chan) (u : Nat) : Nat :=
  ((c.combs.filter (fun x => x.unit = u)).map (fun x =>
    ((x.inputs.filter (fun i => i.backs.isNone)).flatMap (fun i => i.blocks.map (·.block))).eraseDups.length)).foldl (· + ·) 0

/-- The combiners of a grove go: frames they hold are discarded and their credits return (R201, R215). -/
def Chan.dropCombs (c : Chan) (g : Nat) : Chan :=
  let fs := (c.combs.filter (fun x => x.grove = g)).flatMap (fun x => x.inputs.flatMap (fun i => i.blocks.flatMap (·.frames)))
  let c1 := fs.foldl (fun c f => c.takeFrame (fun x => x = f)) c
  { c1 with combs := c1.combs.filter (fun x => x.grove ≠ g) }

/-- The grove a command's parameters name in their first byte. -/
def groveByte (d : Datagram) : Nat := leAt d.params 0 1

/-- Begun commands of an opcode for a grove whose reply is deferred. -/
def Chan.deferred (c : Chan) (op g : Nat) : List Datagram :=
  (List.range 8).filterMap (fun q => match (c.queue q).current with
    | some d => if d.opcode = op && groveByte d = g then some d else none
    | none => none)

/-- Commands of an opcode for a grove that replied ACCEPTED and are not complete. -/
def Chan.acceptedFor (c : Chan) (op g : Nat) : List Datagram :=
  (List.range 8).flatMap (fun q => (c.queue q).accepted.filter (fun d => d.opcode = op && groveByte d = g))

/-! ## Rings under way (R341-R369) -/

/-- The nodes of a grove's members in member index order (R354; log entry 37). -/
def Chan.memberNodes (c : Chan) (g : Nat) : List Nat :=
  let v := c.grove g
  if v.members ≤ 1 then [c.node] else Config.members v.job

/-- A capture point is passed at a PCLK count (R341): a ring that waits for it is due, and the hold begins (R345). -/
def Grove.pass (v : Grove) (n now : Nat) : Grove :=
  let r := v.ring
  let due := r.phase = 1 && (r.ring = n || r.ring = 0xFFFFFFFF)
  { v with ring := { r with
    point := some n
    due := r.due || due
    from_ := if due && !r.due then now else r.from_ } }

/-- Whether the capture hold lasts, and the ring it captures (R345). -/
def Grove.holding (v : Grove) : Bool := v.ring.due || v.ring.phase = 2

/-- The carry of a ring that is not committed goes back: P becomes P OR C (R347). -/
def Chan.carryBack (c : Chan) (g : Nat) : Chan :=
  let n := (c.grove g).ring.lines
  let at_ := c.fld (F.CKP_GRV_CARRY_LINE.sh (g * 0x40))
  (List.range n).foldl (fun c k =>
    c.hbmWriteLine (at_ + n + k) (((c.hbmLine (at_ + k)).zip (c.hbmLine (at_ + n + k))).map (fun p => p.1 ||| p.2))) c

/-- A grove's ring state with nothing in progress. -/
def GroveRing.idle (r : GroveRing) : GroveRing := { GroveRing.reset with point := r.point, deltaOk := r.deltaOk }

/-- Completion data of `RING_WRITE`: ring, shards, orphans (R303). -/
def ringData (ring shards orphans : Nat) : Bytes := leBytes 4 ring ++ leBytes 4 shards ++ leBytes 4 orphans

/-- A ring write ends without a commit (R359): flagged, counted, its carry kept; the coordinator aborts the members and
completes `RING_WRITE`, a member reports unless it was told. -/
def Chan.ringFails (c : Chan) (g : Nat) (st : Status) (extra : Nat := 0) (told : Bool := false) : Chan :=
  let v := c.grove g
  let r := v.ring
  let done := r.shards.length
  let c1 := ((c.carryBack g).setFld F.CKP_STATUS_RING_FAIL 1).count (F.CKP_GRV_CNT_FAILED.sh (g * 0x40))
  let c2 := c1.onGrove g (fun v => { v with ring := v.ring.idle })
  if r.leads then
    let c3 := ((c2.memberNodes g).filter (· ≠ c.node)).foldl (fun c n => c.sendCtl n v.job (.ringAbort v.job r.attempt)) c2
    (c3.acceptedFor 0x90 g).foldl (fun c d => c.complete d st (some g) (ringData r.ring (done + extra) done)) c3
  else if told then c2
  else c2.sendCtl v.coord v.job (.ringFail v.job r.attempt st.code r.written)

/-- A restore ends other than OK (R363, R369): a member reports, the coordinator's command completes. -/
def Chan.restoreFails (c : Chan) (g : Nat) (st : Status) (bad : List Nat) : Chan :=
  let v := c.grove g
  let r := v.ring
  let c1 := (c.setFld F.CKP_STATUS_RESTORE_FAIL 1).onGrove g (fun v => { v with ring := v.ring.idle })
  if r.leads then
    (c1.acceptedFor 0x91 g).foldl (fun c d =>
      c.complete d st (some g) (leBytes 4 r.ring ++ leBytes 4 bad.length ++ bad.flatMap (leBytes 4))) c1
  else c1.sendCtl v.coord v.job (.restoreReport v.job st.code bad)

/-- What a grove's fault or unload does to its ring (R368). -/
def Chan.ringStop (c : Chan) (g : Nat) : Chan :=
  let ph := (c.grove g).ring.phase
  if ph = 0 then c else if ph = 5 then c.restoreFails g .hwFault [] else c.ringFails g .hwFault

/-- Cancel a pending weight-slot switch: logged, its slot stays STAGED (R147, R312). -/
def Chan.cancelSwitch (c : Chan) (g : Nat) : Chan :=
  if (c.grove g).ws.switch.isNone then c
  else (c.onGrove g (fun v => { v with ws := { v.ws with switch := none } })).event .stateConflict 8 0 (some g) argNone

/-- A fault under any chapter takes LOADED, RUNNING, PAUSED and DRAINING to FAULTED (R309); a training member in a step
tells its coordinator (R208); a pending strobe is cancelled (R312), an update stops (R233), and the stash is freed (R174). A
`GROVE_PAUSE` that waits and a `GROVE_DRAIN` that is not complete end too, so that each has its one reply and its one completion (R295;
log entry 45). -/
def Chan.groveFault (c : Chan) (g : Nat) (st : Status) : Chan :=
  let v := c.grove g
  if v.st = .empty || v.st = .faulted then c
  else
    let c1 := c.setGrove g { v with
      st := .faulted, fault := st.code, causes := 0, replay := false, failing := [], update := GroveUpdate.reset
      stash := GroveStash.reset }
    let c2 := (((c1.cancelStrobe g).cancelSwitch g).ringStop g).dropCombs g
    let c3 := if v.kind = 1 && v.st ≠ .loaded then c2.sendCtl v.coord v.job (.stepFault v.verdict.attempt v.job v.step st.code 0) else c2
    let c4 := (c3.deferred 0x53 g).foldl (fun c d => c.conflict d (some g)) c3
    ((c4.acceptedFor 0x55 g).foldl (fun c d => c.complete d st (some g) []) c4).settle

/-- Answer every deferred `GROVE_PAUSE` of a grove (R309). -/
def Chan.answerPause (c : Chan) (g at_ : Nat) : Chan :=
  (c.deferred 0x53 g).foldl (fun c d => c.reply d .ok (some g) [] (leBytes 4 at_)) c

/-- Add a pause cause (R307, R309): a grove that was active pauses, detaches from a base stream, and egress stops. -/
def Chan.pauseGrove (c : Chan) (g cause : Nat) : Chan :=
  let v := c.grove g
  let m := if bits v.causes cause 1 = 1 then v.causes else v.causes + 2 ^ cause
  if v.st.active then
    (c.setGrove g { v with st := .paused, from_ := v.st, causes := m, pauseAt := none, ws := { v.ws with attached := false } }).settle
  else if v.st = .paused then c.setGrove g { v with causes := m }
  else c

/-! ## Base subscriptions (R148, R149) -/

def wsOff (g : Nat) : Nat := g * 0x10

/-- A grove subscribes to a base grove (R148). -/
def Chan.isSub (c : Chan) (g : Nat) : Bool := c.fld (F.SP_WS_GRV_CFG_BASE_SUB.sh (wsOff g)) = 1

/-- The job whose weight stream a grove takes. -/
def Chan.streamJob (c : Chan) (g : Nat) : Nat :=
  if c.isSub g then c.fld (F.SP_WS_GRV_CFG_BASE_JOB.sh (wsOff g)) else (c.grove g).job

/-- Groves of the channel that take a job's weight stream now (R132, R148, R149). -/
def Chan.streamGroves (c : Chan) (job : Nat) : List Nat :=
  groveNums.filter (fun g =>
    let v := c.grove g
    v.st ≠ .empty && v.st ≠ .faulted && c.streamJob g = job && (!c.isSub g || v.ws.attached))

/-- Subscribers of the channel that are detached from a job's base stream (R149). -/
def Chan.carriers (c : Chan) (job : Nat) : List Nat :=
  groveNums.filter (fun g =>
    let v := c.grove g
    v.st ≠ .empty && c.isSub g && c.streamJob g = job && (v.st = .faulted || !v.ws.attached))

/-- Base jobs that the channel subscribes to and takes no stream of now (R149). -/
def Chan.leftBases (c : Chan) : List Nat :=
  (groveNums.filter (fun g => (c.grove g).st ≠ .empty && c.isSub g)).filterMap (fun g =>
    if c.streamGroves (c.streamJob g) = [] then some (c.streamJob g) else none)

/-- Base jobs of which an attached subscriber of the channel trains (R180). -/
def Chan.trainBases (c : Chan) : List Nat :=
  (groveNums.filter (fun g => let v := c.grove g
    v.st ≠ .empty && v.st ≠ .faulted && v.kind = 1 && c.isSub g && v.ws.attached)).map c.streamJob

/-- A list with a node in it, or not. -/
def mark (l : List Nat) (node : Nat) (on : Bool) : List Nat :=
  if l.contains node = on then l else if on then l ++ [node] else l.filter (· ≠ node)

/-- Whether a channel says anything of base streams. -/
def Chan.hasBases (c : Chan) : Bool := c.leftBases ≠ [] || c.trainBases ≠ []

/-- A reader learns which subscribing channels of its module have left the stream, and which train, from what the channel with id
`node` was and is (R149, R180; log entry 27). -/
def Chan.baseFollows (x : Chan) (node : Nat) (a b : Chan) : Chan :=
  if !a.hasBases && !b.hasBases then x
  else
    groveNums.foldl (fun (x : Chan) h =>
      let v := x.grove h
      let w : GroveWs := { v.ws with
        detached := mark v.ws.detached node (b.leftBases.contains v.job), trainers := mark v.ws.trainers node (b.trainBases.contains v.job) }
      if v.st = .empty || x.isSub h || w = v.ws then x else x.setGrove h { v with ws := w }) x

/-! ## Free tiles and knots (R101, R104, R105) -/

def Chan.isKnot (c : Chan) (i : Nat) : Bool := c.knots.any (fun k => k.x = i % 48 && k.y = i / 48)

/-- Rows of the bands an anchor admitted; an ordinary channel has all (R405). -/
def Chan.admittedRows (c : Chan) : Nat := 15 * c.fld F.CTL_BRINGUP_BANDS

/-- A free tile: mapped by no grove, not a knot, admitted (R101, R405). -/
def Chan.isFree (c : Chan) (i : Nat) : Bool :=
  ((c.tile i).slot).isNone && !c.isKnot i && decide (i / 48 < c.admittedRows)

/-- Tiles of a field, by index. -/
def fieldTiles (f : Nat) : List Nat :=
  (List.range 30).flatMap (fun r => (List.range 24).map (fun k => (f / 2 * 30 + r) * 48 + f % 2 * 24 + k))

/-- Free tiles of a field (R101). -/
def Chan.freeIn (c : Chan) (f : Nat) : Nat := ((fieldTiles f).filter c.isFree).length

/-- The field quota (R101). -/
def Chan.quota (c : Chan) : Nat := c.fld F.CTL_UND_CFG_UNITS

/-- `LOW` of a field that has fallen below its quota; `before` is what it held free (R101, R118). -/
def Chan.lowBit (c : Chan) (before f : Nat) : Chan :=
  if c.quota ≤ before && c.freeIn f < c.quota then c.setFld F.CTL_UND_FREE_LOW (c.fld F.CTL_UND_FREE_LOW ||| 2 ^ f) else c

/-- UNDERSTORY_LOW too, where a remap took the field below it (R101, R415). -/
def Chan.noteLow (c : Chan) (before f g : Nat) : Chan :=
  if c.quota ≤ before && c.freeIn f < c.quota then (c.lowBit before f).event .capacity 0 3 (some g) (argFlag R.CTL_UND_FREE f) else c

/-- A tile becomes a knot (R105, R399). -/
def Chan.addKnot (c : Chan) (i cause : Nat) : Chan :=
  if c.isKnot i then c else { c with knots := c.knots ++ [⟨i % 48, i / 48, cause, false⟩], newKnots := c.newKnots + 1 }

/-- The grove that a frame's job id names (R110). -/
def Chan.groveOfJob (c : Chan) (job : Nat) : Option Nat :=
  groveNums.find? (fun g => (c.grove g).st ≠ .empty && (c.grove g).job = job)

/-! ## Tile faults (R85, R93) -/

/-- Status logged for a tile fault code: a program fault logs BAD_PARAM (log entry 15), the others HW_FAULT (R93). -/
def tileFaultStatus (code : Nat) : Status :=
  if (1 ≤ code ∧ code ≤ 9) ∨ code = 0x0C ∨ code = 0x0E ∨ code = 0x0F then .badParam else .hwFault

/-- Stop both contexts of a tile and record the fault; the faulting context shows faulted, the other idle (R93, R95;
log entry 15). A fault of an agent that was still at work takes the place of the one recorded before (log entry 74). -/
def Chan.recordTileFault (c : Chan) (i ctx agent code addr : Nat) : Chan :=
  let o := tileSlot i
  let t := c.tile i
  let c1 := c.setTile i
    { t with c0 := { t.c0 with st := if ctx = 0 then .faulted else if t.c0.st = .faulted then .faulted else .idle }
             c1 := { t.c1 with st := if ctx = 1 then .faulted else if t.c1.st = .faulted then .faulted else .idle } }
  let c2 := (c1.setFld (F.TILE_CTL_CTX0_EN.sh o) 0).setFld (F.TILE_CTL_CTX1_EN.sh o) 0
  let c3 := c2.putReg (R.TILE_FAULT + o) (BitVec.ofNat 32 (code + ctx % 2 * 2 ^ 8 + agent % 8 * 2 ^ 9 + addr / 64 % 2 ^ 15 * 2 ^ 12))
  let c4 := (if code = 0x0D then c3.setFld (F.TILE_STATUS_ECC_UE.sh o) 1 else c3).setFld (F.TILE_STATUS_FAULT.sh o) 1
  c4.event (tileFaultStatus code) 7 0 (t.slot.map (·.grove)) (argFld (F.TILE_STATUS_FAULT.sh o) code)

/-- Set a fault flag and log it (R414). -/
def Chan.flagEvent (c : Chan) (f n : Fld) (st : Status) (src : Nat) (g : Option Nat) : Chan :=
  (c.flag f n).event st src 0 g (argFld f)

/-- A tile has failed (R406, R407): recorded and counted; a mapped tile freezes its grove, a free tile becomes a knot, and so does
one of a FAULTED grove, which nothing restarts (R105). `cause` is 3 ECC, 4 watchdog, 5 heartbeat. -/
def Chan.tileFails (c : Chan) (i cause : Nat) : Chan :=
  let t := c.tile i
  let cnt := if cause = 3 then F.CTL_FAULT_COUNT_ECC else if cause = 4 then F.CTL_FAULT_COUNT_WATCHDOG else F.CTL_FAULT_COUNT_HEARTBEAT
  let g := t.slot.map (·.grove)
  let c1 := c.flagEvent F.CTL_FAULT_STATUS_TILE_FAIL cnt .hwFault 0 g
  let c2 := c1.putReg R.CTL_LAST_FAIL (BitVec.ofNat 32
    (i % 48 + i / 48 * 2 ^ 6 + cause * 2 ^ 13 + g.getD 0 * 2 ^ 16 + (if g.isNone then 2 ^ 20 else 0)))
  match g with
  | some g =>
    let gr := c2.grove g
    if gr.st = .empty || gr.st = .faulted then (c2.setTile i { c2.tile i with slot := none }).addKnot i cause
    else
      let c3 := c2.setGrove g { gr with failing := if gr.failing.contains (i, cause) then gr.failing else gr.failing ++ [(i, cause)]
                                        replay := gr.st ≠ .loaded }
      -- the failed tile stops; queued descriptors of every slot are discarded
      (c3.tilesOf g).foldl (fun c j =>
        let t := c.tile j
        let drop (x : Ctx) : Ctx := { x with qA := [], qB := [], qM := [] }
        let stop (a : Arr) : Arr := if j = i then { a with run := none } else a
        c.setTile j { t with c0 := drop t.c0, c1 := drop t.c1, a := stop t.a, b := stop t.b }) c3
  | none =>
    (c2.addKnot i cause).lowBit (c2.freeIn (fieldOf i)) (fieldOf i)

/-- A tile fault with its consequence by code (R93). -/
def Chan.tileFault (c : Chan) (i ctx agent code addr : Nat) : Chan :=
  let c1 := c.recordTileFault i ctx agent code addr
  if code = 0x0D then c1.tileFails i 3
  else
    match (c1.tile i).slot with
    | some s => c1.groveFault s.grove (tileFaultStatus code)
    | none => c1

/-! ## Contexts and semaphores (R84, R85) -/

def Tile.ctx (t : Tile) (x : Nat) : Ctx := if x = 0 then t.c0 else t.c1
def Tile.setCtx (t : Tile) (x : Nat) (v : Ctx) : Tile := if x = 0 then { t with c0 := v } else { t with c1 := v }
def Chan.ctx (c : Chan) (i x : Nat) : Ctx := (c.tile i).ctx x
def Chan.onCtx (c : Chan) (i x : Nat) (f : Ctx → Ctx) : Chan := c.setTile i ((c.tile i).setCtx x (f (c.ctx i x)))

def Ctx.sem (x : Ctx) (s : Nat) : Nat := mapGet (fun _ => 0) x.sems s
def Ctx.setSem (x : Ctx) (s v : Nat) : Ctx := { x with sems := mapSet (fun _ => 0) x.sems s v }

/-- Post semaphore `s` of a context; 0 means none, and a post to 255 faults under 0x0C and leaves 255 (R85).
`fx` is the context the fault names. -/
def Chan.post (c : Chan) (i x s agent addr : Nat) (fx : Nat := x) : Chan :=
  if s = 0 then c
  else if (c.ctx i x).sem s < 255 then c.onCtx i x (fun v => v.setSem s (v.sem s + 1))
  else c.tileFault i fx agent 0x0C addr

/-! ## The module -/

def State.chan (s : State) (c : Nat) : Chan := mapGet Chan.reset s.chans c
def State.setChan (s : State) (c : Nat) (v : Chan) : State := { s with chans := mapPut s.chans c v }

end Sys2Proof.Machine
end

