-- ==== Sys2Proof/Machine/Seam.lean ====
section
/-! DEFINITION. Link states that both ends of a seam share: entering a state, a link reset, and what the loss of a seam's other end
does (R21, R24, R36, R37, R250, R259). -/

namespace Sys2Proof.Machine

/-! ## Registers of an interface (R268) -/

def Chan.linkFld (c : Chan) (f : Fld) (i : Nat) : Nat := c.fld (f.sh (ifOff i))
def Chan.setLinkFld (c : Chan) (f : Fld) (i v : Nat) : Chan := c.setFld (f.sh (ifOff i)) v
def Chan.countLink (c : Chan) (f : Fld) (i : Nat) (n : Nat := 1) : Chan := c.countBy (f.sh (ifOff i)) n

/-! ## Link states (R250, R259) -/

/-- The report that a channel with an id and a route to the fabric manager sends when a partner or an UP state changes
(R259). -/
def Chan.topo (c : Chan) : Chan :=
  if c.node = 0xFFFE || c.fm = 0xFFFE || c.route 5 (Frame.blank 0x07 c.fm (.raw [])) = [] then c
  else
    c.sendCtl c.fm 0 (.topoReport ((List.range 5).map (fun i =>
      let l := c.link i
      let p := l.partner
      (i, l.st.code, (p.map (·.node)).getD 0xFFFE, (p.map (·.serial)).getD 0, (p.map (·.ifx)).getD 0))))

/-- Enter a link state; the manager hears of it when UP is entered or left (R259). -/
def Chan.setLinkState (c : Chan) (i : Nat) (st : LinkState) : Chan :=
  let l := c.link i
  let c1 := c.setLink i { l with st := st }
  let c2 := if 2 ≤ i then
      let up : Fld := ⟨R.CLK_SEAM_PHASE, 12 + (i - 2), 1⟩
      let sep : Fld := ⟨R.CLK_SEAM_PHASE, 4 * (i - 2), 4⟩
      (c1.setFld up (if st = .up then 1 else 0)).setFld sep (if st = .up then 4 else 0)
    else c1
  if (l.st = .up) ≠ (st = .up) then c2.topo else c2

/-- A counted link reset: the physical layer retrains, link-layer state stays (R250); an audit that is pending is abandoned, and the
next one follows after a further 2^20 frames (R254). -/
def Chan.linkReset (c : Chan) (i : Nat) : Chan :=
  let l := c.link i
  let c1 := (c.countLink F.SP_LINK_COUNT_RETRAINS i).setLinkFld F.SP_LINK_STATUS_RETRAINED i 1
  (c1.setLink i { l with
    phys := false, heard := false, resend := [], audit := none, recon := 0, fails := 0
    creditedSent := if l.audit = none && l.recon = 0 then l.creditedSent else 0 }).setLinkState i .retrain

/-! ## The other end of a seam (R19, R21, R24, R36, R37) -/

/-- Whether an end of a seam holds it up, or holds its physical training. -/
def Link.live (l : Link) : Bool := l.phys || l.st = .up

/-- The other end of a seam has gone down: an end that was UP takes a link reset, and an end whose physical layer had trained has
lost it (R24, R36, R250). -/
def Chan.seamLost (c : Chan) (i : Nat) : Chan :=
  let l := c.link i
  if l.st = .up then c.linkReset i
  else if l.phys then c.setLink i { l with phys := false, heard := false }
  else c

/-- Whether seam end `i` goes down as a channel passes from `a` to `b`. -/
def seamFalls (a b : Chan) (i : Nat) : Bool := (a.link i).live && !(b.link i).live

/-- Channel `k`, here `x`, when channel `c` has passed from `a` to `b`: each seam end of `k` that faces an end of `c` that went down
goes down too. -/
def Chan.seamsFaced (x : Chan) (c k : Nat) (a b : Chan) : Chan :=
  [2, 3, 4].foldl (fun x i => match seamPeer c i with
    | some (n, j) => if n = k && seamFalls a b i then x.seamLost j else x
    | none => x) x

/-- What channel `k`, here `x`, becomes when channel `c` passes from `a` to `b`: its seams, and the readers of the bases that `c`
subscribes to (R24, R149). -/
def Chan.facing (x : Chan) (c k : Nat) (a b : Chan) : Chan := (x.seamsFaced c k a b).baseFollows b.node a b

/-- A channel that passes from `a` to `b` takes nothing along in the other channels. -/
def takesNone (a b : Chan) : Bool := !a.hasBases && !b.hasBases && [2, 3, 4].all (fun i => !seamFalls a b i)

end Sys2Proof.Machine
end

