-- ==== Sys2Proof/Machine/Opcodes.lean ====
section
/-! DEFINITION. The opcode tables: targets, roles, parameter layouts, and the channel states that accept an opcode
(R291-R303, R308). -/

namespace Sys2Proof.Machine

/-- One row of the opcode tables (R297-R303). `role` none is session 0 only. -/
structure OpSpec where
  op    : Nat
  toC   : Bool
  toM   : Bool
  role  : Option Role
  parts : List (Nat × Bool)             -- widths in bytes; true for reserved zero bytes
  tail  : Option (Nat × Nat × Nat)      -- offset and width of a count, bytes per count
deriving DecidableEq, Repr

/-- A field of `n` bytes. -/
abbrev fd (n : Nat) : Nat × Bool := (n, false)

/-- `n` reserved zero bytes. -/
abbrev zr (n : Nat) : Nat × Bool := (n, true)

def opsAdmin : List OpSpec := [
  ⟨0x00, false, true, some .tenant, [], none⟩,
  ⟨0x01, false, true, none, [fd 16, fd 32, fd 2, zr 14], none⟩,
  ⟨0x02, false, true, none, [fd 2, zr 2, fd 1568, fd 1280], none⟩,
  ⟨0x03, false, true, some .tenant, [], none⟩,
  ⟨0x04, false, true, some .tenant, [fd 1, fd 1, zr 2, fd 4], none⟩,
  ⟨0x05, false, true, some .tenant, [fd 1, fd 1, zr 2], none⟩,
  ⟨0x06, false, true, some .tenant, [], none⟩,
  ⟨0x07, false, true, some .owner, [fd 2, fd 2], none⟩,
  ⟨0x08, false, true, some .tenant, [fd 16, fd 2, fd 1, zr 1], none⟩,
  ⟨0x09, true, false, some .operator, [], none⟩,
  ⟨0x0A, true, false, some .operator, [], none⟩,
  ⟨0x0B, true, false, some .operator, [], none⟩,
  ⟨0x0C, true, false, some .operator, [], none⟩,
  ⟨0x0D, false, true, some .operator, [fd 1, fd 1, zr 2], none⟩,
  ⟨0x0E, false, true, some .owner, [fd 16, fd 1, zr 3, fd 4, fd 1, zr 7], none⟩ ]

def opsRegs : List OpSpec := [
  ⟨0x10, true, true, some .tenant, [fd 4, fd 2, fd 1, zr 1], none⟩,
  ⟨0x11, true, true, some .operator, [fd 4, fd 2, zr 2], some (4, 2, 4)⟩,
  ⟨0x12, true, true, some .operator, [fd 4, fd 4, fd 4], none⟩,
  ⟨0x13, true, true, some .operator, [fd 2, zr 2], none⟩,
  ⟨0x14, true, false, some .operator, [fd 2, zr 2], none⟩,
  ⟨0x15, true, true, some .operator, [fd 2, zr 2], none⟩,
  ⟨0x16, true, true, some .tenant, [fd 4], none⟩ ]

def opsData : List OpSpec := [
  ⟨0x30, true, false, some .tenant, [fd 4, fd 2, zr 2], none⟩,
  ⟨0x31, true, false, some .tenant, [fd 4, fd 2, zr 2], some (4, 2, 64)⟩,
  ⟨0x32, true, false, some .operator, [fd 1, fd 1, zr 2, fd 4, fd 2, zr 2], none⟩,
  ⟨0x33, true, false, some .operator, [fd 1, fd 1, zr 2, fd 4, fd 2, zr 2], some (8, 2, 64)⟩,
  ⟨0x34, true, false, some .operator, [fd 1, zr 1, fd 2, fd 16, fd 1, zr 3], some (20, 1, 1)⟩,
  ⟨0x35, true, false, some .tenant, [fd 1, zr 3, fd 4, fd 8, fd 4, fd 4], none⟩,
  ⟨0x36, true, false, some .tenant, [fd 1, zr 3, fd 4, fd 8, fd 4, fd 4], none⟩,
  ⟨0x37, true, false, some .tenant, [fd 1, fd 1, zr 2, fd 4, fd 4], none⟩,
  ⟨0x38, true, false, some .tenant, [fd 1, zr 3], none⟩ ]

def opsGrove : List OpSpec := [
  ⟨0x50, true, false, some .tenant, [fd 4, fd 4, fd 32], none⟩,
  ⟨0x51, true, false, some .tenant, [fd 1, zr 3], none⟩,
  ⟨0x52, true, false, some .tenant, [fd 1, zr 3, fd 4], none⟩,
  ⟨0x53, true, false, some .tenant, [fd 1, zr 3, fd 4], none⟩,
  ⟨0x54, true, false, some .tenant, [fd 1, zr 3], none⟩,
  ⟨0x55, true, false, some .tenant, [fd 1, zr 3], none⟩,
  ⟨0x56, true, false, some .tenant, [fd 1, zr 3], none⟩,
  ⟨0x70, true, false, some .tenant, [fd 1, fd 1, zr 2, fd 2, fd 2, zr 4, fd 2, zr 2, fd 14, zr 6, fd 2, zr 2, fd 14, zr 6], none⟩,
  ⟨0x71, true, false, some .tenant, [fd 1, fd 1, zr 2], none⟩,
  ⟨0x72, true, false, some .tenant, [fd 1, zr 3], none⟩,
  ⟨0x73, true, false, some .tenant, [fd 1, fd 1, zr 2], none⟩,
  ⟨0x74, true, false, some .tenant, [fd 1, zr 3], none⟩,
  ⟨0x80, true, false, some .tenant, [fd 1, zr 3], none⟩,
  ⟨0x81, true, false, some .operator, [fd 1, zr 3], none⟩ ]

def opsService : List OpSpec := [
  ⟨0x90, true, false, some .tenant, [fd 1, fd 1, fd 1, zr 1, fd 4, fd 8], none⟩,
  ⟨0x91, true, false, some .tenant, [fd 1, zr 1, fd 1, zr 1, fd 4, fd 8, fd 4], none⟩,
  ⟨0x92, true, false, some .tenant, [fd 1, zr 1, fd 1, zr 1, fd 4, fd 8], none⟩,
  ⟨0x93, true, false, some .tenant, [fd 1, zr 1, fd 1, zr 1, fd 4, fd 8], none⟩,
  ⟨0xA0, false, true, some .operator, [fd 4], none⟩,
  ⟨0xA1, false, true, some .operator, [fd 4], none⟩,
  ⟨0xA2, true, true, some .tenant, [], none⟩,
  ⟨0xA3, true, false, some .tenant, [], none⟩,
  ⟨0xB0, false, true, some .tenant, [fd 32], none⟩,
  ⟨0xB1, false, true, some .owner, [fd 3112], none⟩,
  ⟨0xB2, false, true, some .owner, [fd 16, fd 1280], none⟩,
  ⟨0xB3, false, true, some .operator, [], none⟩,
  ⟨0xB4, false, true, some .owner, [fd 1, fd 1, zr 2], none⟩,
  ⟨0xB5, false, true, some .tenant, [fd 1, zr 3, fd 32], none⟩,
  ⟨0xB6, false, true, some .tenant, [], none⟩,
  ⟨0xC0, true, false, some .operator, [fd 1, zr 3], none⟩,
  ⟨0xC1, true, true, some .tenant, [fd 4, fd 2, zr 2], none⟩,
  ⟨0xC2, true, false, some .operator, [fd 4, fd 2, zr 2], none⟩,
  ⟨0xC3, true, false, some .operator, [fd 1, fd 1, zr 2, fd 4], none⟩,
  ⟨0xC4, false, true, some .owner, [fd 1, zr 3, fd 4, fd 4], none⟩ ]

/-- Every opcode of R297-R303. -/
def opTable : List OpSpec := opsAdmin ++ opsRegs ++ opsData ++ opsGrove ++ opsService

def opFind (op : Nat) : Option OpSpec := opTable.find? (fun o => o.op = op)

/-- Length an opcode's parameters must have (R296); none when they are too short to hold their own count. -/
def OpSpec.len (o : OpSpec) (p : Bytes) : Option Nat :=
  let base := (o.parts.map (·.1)).foldl (· + ·) 0
  match o.tail with
  | none => some base
  | some (off, w, u) => if p.length < base then none else some (base + leAt p off w * u)

/-- The first reserved byte that is not zero (R296). -/
def zeroBad (p : Bytes) : Nat → List (Nat × Bool) → Option Nat
  | _, [] => none
  | off, (n, z) :: t =>
    if z && (slice p off n).any (· ≠ 0) then some (off + ((firstIdx (fun b => b ≠ 0) (slice p off n)).getD 0))
    else zeroBad p (off + n) t

/-- The first bad offset: of the reserved bytes and of the fields found out of range (R294, R296). -/
def badOffset (o : OpSpec) (p : Bytes) (bad : List (Bool × Nat)) : Option Nat :=
  let l := ((bad.filter (·.1)).map (·.2)) ++ (match zeroBad p 0 o.parts with | some k => [k] | none => [])
  if l = [] then none else some (minOr 0xFFFF l)

/-- The checks for opcode and length (R292, R296): a status where one fails. -/
def formatCheck (toChan : Bool) (op : Nat) (p : Bytes) : Option Status :=
  match opFind op with
  | none => some .badOpcode
  | some o =>
    if !(if toChan then o.toC else o.toM) then some .badOpcode
    else if o.len p ≠ some p.length then some .badLength
    else none

/-- Whether a role grants an opcode (R288). -/
def Role.atLeast : Role → Role → Bool
  | .owner, _ => true
  | .operator, .owner => false
  | .operator, _ => true
  | .tenant, .tenant => true
  | .tenant, _ => false

/-- The grove that a command names in its first parameter byte (R294). -/
def groveNamed (d : Datagram) : Option Nat :=
  let op := d.opcode
  if d.params = [] then none
  else if op = 0x37 || op = 0x38 || (0x51 ≤ op && op ≤ 0x56) || (0x70 ≤ op && op ≤ 0x74) || op = 0x80 || (0x90 ≤ op && op ≤ 0x93) then
    some (leAt d.params 0 1)
  else none

/-! ## Queues (R291-R293) -/

/-- The command a queue executes next: the one whose `SEQ` is E, when none is executing. -/
def Queue.head (q : Queue) : Option Datagram :=
  if q.current.isSome then none else q.waiting.find? (fun d => d.seq = q.expect)

/-- A command begins: E advances by 1 (R292 step 5). -/
def Queue.begin (q : Queue) (d : Datagram) : Queue :=
  { q with expect := q.expect + 1, current := some d, waiting := q.waiting.filter (fun x => x.seq ≠ d.seq) }

/-- Answer the commands at the head of a channel queue that no execution follows: an unknown opcode, a wrong length, and
while the controller link is lost every command but `CHANNEL_STOP` (R26, R292, R295, R296). The first argument bounds
them. -/
def Chan.flushQueue (q : Nat) : Nat → Chan → Chan
  | 0, c => c
  | n + 1, c =>
    match (c.queue q).head with
    | none => c
    | some d =>
      let st := if c.linkLost && d.opcode ≠ 0x0A then some .hwFault else formatCheck true d.opcode d.params
      match st with
      | none => c
      | some st => Chan.flushQueue q n ((c.setQueue q ((c.queue q).begin d)).reply d st (groveNamed d) [] [])

def Chan.flushQueues (c : Chan) : Chan := (c.queues.map (·.1)).foldl (fun c q => Chan.flushQueue q 65 c) c

/-! ## The channel states that accept an opcode (R308) -/

/-- Opcodes of a group by channel state; grove opcodes have their own table (R309). -/
def chAccepts (op : Nat) (st : ChState) (loaded : Bool) : Bool :=
  let up := st = .ready || st = .running
  let any := st = .bringup || up || st = .frozen
  if op = 0x09 then st = .off || st = .faulted
  else if op = 0x0A then st = .bringup || st = .ready || st = .frozen || st = .faulted
  else if op = 0x0B then up || st = .frozen
  else if op = 0x0C then st = .frozen
  else if op = 0x10 || op = 0x16 || op = 0xC1 || op = 0xC2 || op = 0xA2 || op = 0xA3 then any || st = .faulted || (st = .off && op = 0x10)
  else if op = 0x11 || op = 0x12 || op = 0x13 || op = 0x15 || op = 0x31 || op = 0x33 then any
  else if op = 0x30 || op = 0x32 then any || st = .faulted
  else if op = 0x14 || op = 0x80 || op = 0x81 then up || st = .frozen
  else if op = 0x72 || op = 0x51 || op = 0x56 then up || st = .frozen
  else if op = 0xC0 then st = .bringup
  else if op = 0xC3 then st = .bringup || (st = .ready && !loaded)
  else up

/-! ## Commands as the opcode rows name them -/

/-- Whether a queued command is the one a row names: its session, sequence, opcode, and operands as (offset, bytes,
value). -/
def isFor (d : Datagram) (q : Issue) (op : Nat) (fs : List (Nat × Nat × Nat)) : Bool :=
  d.session = q.session && d.seq = q.seq && d.opcode = op && fs.all (fun f => leAt d.params f.1 f.2.1 = f.2.2)

/-- Parameter fields of a datagram. -/
def pAt (d : Datagram) (off n : Nat) : Nat := leAt d.params off n

end Sys2Proof.Machine
end

