-- ==== Sys2Proof/Machine/Send.lean ====
section
/-! DEFINITION. How packets leave the command port (R286, R287, R305, R306), and what a channel hands over is sent. -/

namespace Sys2Proof.Machine

/-- Header bytes 0-15 (R286). -/
def header (channel queue opcode flags seq plen session : Nat) : Bytes :=
  leBytes 2 0x4B50 ++ [0x01] ++ leBytes 1 channel ++ leBytes 1 queue ++ leBytes 1 opcode ++ leBytes 2 flags ++ leBytes 4 seq
    ++ leBytes 2 plen ++ leBytes 2 session

/-- A whole packet with its tag; no key sends a zero tag (R287). -/
def packet (key : Option Bytes) (s : String) (hdr data : Bytes) : Bytes :=
  hdr ++ (match key with
    | some k => kmac256 k (hdr ++ data) 128 s
    | none => zeros 16) ++ data

/-- The 32 bytes of a log entry (R414). -/
def LogEntry.bytes (e : LogEntry) : Bytes :=
  leBytes 4 e.seq ++ leBytes 4 e.step ++ leBytes 8 e.pclk ++ leBytes 1 e.status.code ++ leBytes 1 e.src ++ leBytes 2 e.code
    ++ leBytes 1 e.grove ++ leBytes 1 e.ch ++ leBytes 2 e.job ++ leBytes 8 e.arg.toNat

/-- The 16-byte event envelope (R306). -/
def envelope (kind : Nat) (st : Status) (elen : Nat) (d : Option Datagram) : Bytes :=
  leBytes 1 kind ++ leBytes 1 st.code ++ leBytes 2 elen
    ++ (match d with
      | some d => leBytes 4 d.seq.toNat ++ leBytes 1 d.queue ++ leBytes 1 d.opcode ++ leBytes 2 d.session
      | none => zeros 8) ++ zeros 4

def PortDie.session (p : PortDie) (id : Nat) : Option Session := p.sessions.find? (fun x => x.id = id)

/-- Whether a session may see a channel: a tenant only those of its mask (R288). -/
def Session.sees (x : Session) (ch : Nat) : Bool := x.role ≠ .tenant || ch ≥ 8 || bits x.mask ch 1 = 1

/-- An event packet for one session (R305). -/
def eventPacket (x : Session) (ch seq : Nat) (data : Bytes) : Bytes :=
  packet (some x.kMh) "PLK4824-EVT" (header ch 0xFF 0 2 seq data.length x.id) data

/-- Send an event to every session subscribed to its channel and allowed to see it (R305); module events go to every
subscriber (log entry 16). -/
def State.fanOut (s : State) (ch seq : Nat) (data : Bytes) : State :=
  { s with
    out := s.out ++ s.pd.sessions.filterMap (fun x =>
      match x.sub with
      | some b => if (ch ≥ 8 || bits b.mask ch 1 = 1) && x.sees ch then some (.event b.addr b.port (eventPacket x ch seq data)) else none
      | none => none) }

/-- Send one thing a channel or the port die (`ch` 0xFF) hands over. -/
def State.deliver (s : State) (ch : Nat) : Emit → State
  | .reply chn q sess r =>
    let key := (s.pd.session sess).map (·.kMh)
    if sess ≠ 0 ∧ key = none then s     -- its session has ended: not sent (R290)
    else { s with out := s.out ++ [.packet r.origin (packet key "PLK4824-CMD"
      (header chn q r.opcode 1 r.seq.toNat r.data.length sess) r.data)] }
  | .keyReply id r =>
    { s with out := s.out ++ [.packet r.origin (packet ((s.pd.session id).map (·.kMh)) "PLK4824-CMD"
      (header 0xFF 0 r.opcode 1 r.seq.toNat r.data.length 0) r.data)] }
  | .event e => s.fanOut ch e.seq (envelope 2 e.status 32 none ++ e.bytes)
  | .completion e d st data =>
    let body := envelope 1 st data.length (some d) ++ data
    let s1 := s.fanOut ch e.seq body
    match s.pd.session d.session with
    | some x => { s1 with out := s1.out ++ [.packet d.origin (eventPacket x ch e.seq body)] }
    | none => s1
  | .frame i f => { s with out := s.out ++ [.frame ch i f] }
  | .nvme b => { s with out := s.out ++ [.nvme ch b] }
  | .blocks t n l b => { s with out := s.out ++ [.blocks ch t n l b] }
  | .crown k b => { s with out := s.out ++ [.crown ch k b] }

/-- Whether something a channel hands over travels over its controller link (R25). -/
def Emit.viaPort : Emit → Bool
  | .frame _ _ => false
  | .crown _ _ => false
  | _ => true

/-- States in which an anchor hosts services (R28). -/
def ChState.hosts (st : ChState) : Bool := st = .ready || st = .running || st = .frozen

/-- Which anchor runs a service: it stays where it is while that anchor works; CH7 takes over from CH0, and with neither
it is absent (R28). A service at CH7 goes to CH0 when CH7 stops hosting: R28 names only the host's command, and leaves this open
(log entry 40). -/
def serviceAt (up0 up7 : Bool) (a : Nat) : Nat :=
  if a = 7 then (if up7 then 7 else if up0 then 0 else 0xFF) else if up0 then 0 else if up7 then 7 else 0xFF

/-- The services follow the anchors' states; an anchor that hosts the fault log copies the entries not yet in its flash
ring, if the window still holds them (R28, R417). -/
def State.settleServices (s : State) : State :=
  let sv := s.pd.services.map (serviceAt (s.chan 0).st.hosts (s.chan 7).st.hosts)
  let copy := sv.getD 1 0xFF ≠ 0xFF
  { s with pd := { s.pd with
      services := sv
      ring := if copy then newest 65536 (s.pd.ring ++ s.pd.unringed) else s.pd.ring
      unringed := if copy then [] else s.pd.unringed } }

/-- A session that has ended is forgotten once no admitted command of it is left (R290). -/
def State.sweepEnded (s : State) : State :=
  if s.pd.ended = [] then s
  else
    { s with pd := { s.pd with ended := s.pd.ended.filter (fun x =>
        decide (x.queue.tokens < 64) || s.chans.any (fun c => c.2.queues.any (fun q => q.2.owner = some x.id))) } }

/-- The other channels when channel `c` has passed from `a` to `b`: their seam ends and their readers follow (R21, R24, R149). -/
def State.follow (s : State) (c : Nat) (a b : Chan) : State :=
  if takesNone a b then s
  else (List.range 8).foldl (fun s k => if k = c then s else s.setChan k ((s.chan k).facing c k a b)) s

/-- Act on one channel: it goes back, and what it handed over is sent; with its controller link lost nothing of its own
reaches the command port, for which the port die then answers (R26, R295); a seam that it took down goes down at the other end
(R24), and the readers of its bases learn who subscribes (R149). -/
def State.onChan (s : State) (c : Nat) (f : Chan → Chan) : State :=
  let ch := f (s.chan c)
  let own := if ch.linkLost then ch.outbox.filter (fun e => !e.viaPort) else ch.outbox
  let ch1 := ({ ch with outbox := [] } : Chan).flushQueues
  ((own ++ ch1.outbox).foldl (fun s e => s.deliver c e) (s.setChan c { ch1 with outbox := [] })).follow c (s.chan c) ch
    |>.settleServices.sweepEnded

/-- Act on the port die, and send what it hands over. -/
def State.onPd (s : State) (f : PortDie → PortDie) : State :=
  let p := f s.pd
  p.outbox.foldl (fun s e => s.deliver 0xFF e) { s with pd := { p with outbox := [] } }

/-- The outcome of a command that acts on one channel. -/
abbrev chanStep (s : State) (c : Nat) (f : Chan → Chan) : Host.Outcome State Fault Refusal := .next (s.onChan c f)

/-- The outcome of a command that acts on the port die. -/
abbrev pdStep (s : State) (f : PortDie → PortDie) : Host.Outcome State Fault Refusal := .next (s.onPd f)

end Sys2Proof.Machine
end

