-- ==== Sys2Proof/Machine/Operands.lean ====
section
/-! DEFINITION. Operand forms of the tile: scalar, vector and predicate registers, lanes and predication (R84, R91). -/

namespace Sys2Proof.Machine

/-- Scalar register; x0 reads 0 (R84). -/
def Ctx.xr (x : Ctx) (i : BitVec 5) : BitVec 64 := if i = 0 then 0 else mapGet (fun _ => 0) x.x i.toNat

/-- Write a scalar register; x0 stays 0. -/
def Ctx.setX (x : Ctx) (i : BitVec 5) (v : BitVec 64) : Ctx := if i = 0 then x else { x with x := mapSet (fun _ => 0) x.x i.toNat v }

/-- Vector register (R84). -/
def Ctx.vr (x : Ctx) (i : BitVec 5) : BitVec 2048 := mapGet (fun _ => 0) x.v i.toNat

def Ctx.setV (x : Ctx) (i : BitVec 5) (v : BitVec 2048) : Ctx := { x with v := mapSet (fun _ => 0) x.v i.toNat v }

/-- Predicate register; p0 reads all ones (R84). -/
def Ctx.pr (x : Ctx) (i : BitVec 3) : BitVec 128 := if i = 0 then BitVec.allOnes 128 else mapGet (fun _ => 0) x.p i.toNat

def Ctx.setP (x : Ctx) (i : BitVec 3) (v : BitVec 128) : Ctx := if i = 0 then x else { x with p := mapSet (fun _ => 0) x.p i.toNat v }

/-- Lane width of a type (R91). -/
def laneBits (t : Bool) : Nat := if t then 16 else 32

/-- Lanes of a type (R91). -/
def laneCount (t : Bool) : Nat := if t then 128 else 64

/-- Lane `l` of a register. -/
def laneAt (t : Bool) (v : BitVec 2048) (l : Nat) : Nat := bits v.toNat (l * laneBits t) (laneBits t)

/-- A register of lanes, lane 0 first. -/
def packLanes (w : Nat) (ls : List Nat) : BitVec 2048 := BitVec.ofNat 2048 (ls.foldr (fun x acc => x % 2 ^ w + acc * 2 ^ w) 0)

/-- A lane-wise operation under a predicate: gated lanes keep the old value and raise nothing (R91). -/
def vecApply (t : Bool) (p : BitVec 128) (old : BitVec 2048) (f : Nat → Nat × FFlags) : BitVec 2048 × FFlags :=
  let rs := (List.range (laneCount t)).map (fun l => if p.getLsbD l then f l else (laneAt t old l, FFlags.none))
  (packLanes (laneBits t) (rs.map (·.1)), rs.foldl (fun a r => a.or r.2) FFlags.none)

/-- The fixed tree over lane index (R65): pairs, then pairs of pairs. The first argument bounds the levels. -/
def treeReduce (f : Nat → Nat → Nat × FFlags) : Nat → List Nat → List Nat × FFlags
  | 0, l => (l, FFlags.none)
  | n + 1, l =>
    let rec pairs : List Nat → List Nat × FFlags
      | a :: b :: t =>
        let (r, fl) := f a b
        let (rs, fls) := pairs t
        (r :: rs, fl.or fls)
      | l => (l, FFlags.none)
    let (l1, f1) := pairs l
    let (l2, f2) := treeReduce f n l1
    (l2, f1.or f2)

/-- A context after an instruction: the program counter moves to the next word. -/
def Ctx.advance (x : Ctx) : Ctx := { x with st := .running, pc := x.pc + 4 }

/-- Whether a tile has its ACLK: the channel's is on, and its field is not stopped (R66, R387). -/
def Chan.clockRuns (c : Chan) (i : Nat) : Bool :=
  (c.st = .bringup || c.st = .ready || c.st = .running || c.st = .frozen) && bits (c.fld F.TH_TJ_STOPPED) (fieldOf i) 1 = 0

/-- Whether a tile issues: it has its ACLK, and its grove is not frozen for a tile failure (R66, R387, R407). -/
def Chan.tileRuns (c : Chan) (i : Nat) : Bool :=
  c.clockRuns i &&
    (match (c.tile i).slot with
      | some s => !(c.grove s.grove).replay
      | none => true)

/-- Whether a context can issue an instruction. -/
def Chan.canIssue (c : Chan) (i x : Nat) : Bool := c.tileRuns i && (c.ctx i x).st = .running

/-- Issue an instruction that only changes its own context; nothing issues where the context does not run. -/
def Chan.issue (c : Chan) (i x : Nat) (f : Ctx → Ctx) : Chan :=
  if c.canIssue i x then c.onCtx i x (fun v => (f v).advance) else c

/-- The job seed of a tile (R81, R95). -/
def Chan.tileSeed (c : Chan) (i : Nat) : Nat :=
  (c.reg (R.TILE_SEED_LO + tileSlot i)).toNat + (c.reg (R.TILE_SEED_HI + tileSlot i)).toNat * 2 ^ 32

/-- A 64-byte aligned address of tile SRAM with its whole extent inside (R75). -/
def sramOk (a n : Nat) : Bool := decide (a + n ≤ sramBytes)

end Sys2Proof.Machine
end

