-- ==== Sys2Proof/Machine/Flags.lean ====
section
/-! DEFINITION. What the vector operations compute: lane results with their five IEEE flags, kept sticky per context
(R63-R65, R84, R92). -/

namespace Sys2Proof.Machine

/-- OR the flags of an instruction into the context (R63). -/
def Ctx.orFlags (x : Ctx) (f : FFlags) : Ctx := { x with flags := x.flags.or f }

/-- A lane-wise instruction with a vector destination. -/
def Ctx.vecOp (f : VFields) (g : FloatFmt → Nat → Nat → Nat → Nat × FFlags) (x : Ctx) : Ctx :=
  let (v, fl) := vecApply f.ty (x.pr f.pred) (x.vr f.vd) (fun l =>
    g (fmtOfT f.ty) (laneAt f.ty (x.vr f.va) l) (laneAt f.ty (x.vr f.vb) l) (laneAt f.ty (x.vr f.vc) l))
  (x.setV f.vd v).orFlags fl

def vAdd (f : FloatFmt) (a b _c : Nat) : Nat × FFlags := f.add (f.decode a) (f.decode b)
def vSub (f : FloatFmt) (a b _c : Nat) : Nat × FFlags := f.add (f.decode a) (f.decode b).neg
def vMul (f : FloatFmt) (a b _c : Nat) : Nat × FFlags := f.mul (f.decode a) (f.decode b)
def vFma (f : FloatFmt) (a b c : Nat) : Nat × FFlags := f.fma (f.decode a) (f.decode b) (f.decode c)
def vMin (f : FloatFmt) (a b _c : Nat) : Nat × FFlags := f.minMax false a b
def vMax (f : FloatFmt) (a b _c : Nat) : Nat × FFlags := f.minMax true a b
def vDiv (f : FloatFmt) (a b _c : Nat) : Nat × FFlags := f.div (f.decode a) (f.decode b)
def vSqrt (f : FloatFmt) (a _b _c : Nat) : Nat × FFlags := f.sqrt (f.decode a)

/-- `VCMP` (R92): predicate bits of the lanes in use that are not gated. -/
def Ctx.cmp (f : VFields) (x : Ctx) : Ctx :=
  let old := x.pr (f.vd.setWidth 3)
  let rs := (List.range 128).map (fun l =>
    if l < laneCount f.ty && (x.pr f.pred).getLsbD l then
      let (b, fl) := (fmtOfT f.ty).compare f.sub.toNat (laneAt f.ty (x.vr f.va) l) (laneAt f.ty (x.vr f.vb) l)
      (b, fl)
    else (old.getLsbD l, FFlags.none))
  let v := BitVec.ofNat 128 ((rs.map (·.1)).foldr (fun b acc => (if b then 1 else 0) + 2 * acc) 0)
  (x.setP (f.vd.setWidth 3) v).orFlags (rs.foldl (fun a r => a.or r.2) FFlags.none)

/-- `VCVT` (R92): lanes 0-63, source and destination types by function; lanes above stay (log entry 12). -/
def Ctx.cvt (seed : Nat) (f : VFields) (x : Ctx) : Ctx :=
  let fn := f.vc.toNat
  let srcBf := fn = 2
  let dstBf := fn = 0 || fn = 1
  let key : RndKey := ⟨seed, x.keyTensor.toNat, 1, x.keyStep.toNat, x.keyMb.toNat⟩
  let old := x.vr f.vd
  let one (l : Nat) : Nat × FFlags :=
    let a := laneAt srcBf (x.vr f.va) l
    match fn with
    | 0 => narrowRne a
    | 1 => narrowSr a (rndOf key ((x.xr f.vb).toNat + l))
    | 2 => widenBf a
    | 3 => toInt32 a
    | _ => ofInt32 a
  let rs := (List.range (laneCount dstBf)).map (fun l =>
    if l < 64 && (x.pr f.pred).getLsbD l then one l else (laneAt dstBf old l, FFlags.none))
  (x.setV f.vd (packLanes (laneBits dstBf) (rs.map (·.1)))).orFlags (rs.foldl (fun a r => a.or r.2) FFlags.none)

/-- `VRED` (R65, R92): the tree over every lane, zero-extended into the scalar; gated lanes leave the combination open,
so the result is then a fixed function of the operands without a body (R3; log entry 12). -/
def Ctx.red (f : VFields) (x : Ctx) : Ctx :=
  let n := laneCount f.ty
  let fm := fmtOfT f.ty
  let op (a b : Nat) : Nat × FFlags :=
    if f.sub = 0 then fm.add (fm.decode a) (fm.decode b) else fm.minMax (decide (f.sub = 1)) a b
  let all := (List.range n).all (fun l => (x.pr f.pred).getLsbD l)
  let (r, fl) := treeReduce op 7 ((List.range n).map (laneAt f.ty (x.vr f.va)))
  if all then (x.setX f.vd (BitVec.ofNat 64 (r.headD 0))).orFlags fl
  else
    let g := Config.redGated f.ty f.sub (x.pr f.pred) (x.vr f.va)
    (x.setX f.vd g.1).orFlags ⟨g.2.getLsbD 0, g.2.getLsbD 1, g.2.getLsbD 2, g.2.getLsbD 3, g.2.getLsbD 4⟩

/-- `VBCAST` (R92): the scalar converted to the lane type (log entry 12). -/
def Ctx.bcast (f : VFields) (x : Ctx) : Ctx :=
  let v := (Config.bcast f.ty (x.xr f.va)).toNat % 2 ^ laneBits f.ty
  x.setV f.vd (vecApply f.ty (x.pr f.pred) (x.vr f.vd) (fun _ => (v, FFlags.none))).1

end Sys2Proof.Machine
end

