-- ==== Sys2Proof/Machine/Strobe.lean ====
section
/-! DEFINITION. Strobe groups, staged and applied copies of a grove's fields, and step boundaries (R310, R327-R335). -/

namespace Sys2Proof.Machine

/-- A register seen through its staged copy: RWS bits staged, the others as they stand (R317, R327). -/
def Chan.staged (c : Chan) (off : Nat) : Word :=
  let rws := ((findReg chanRegs off).map (·.bitsOf .rws)).getD 0
  (c.reg off &&& ~~~ rws) ||| (c.bank.getStaged chanRegs off &&& rws)

/-- The grove whose strobe group applies the RWS fields of an offset (R310, R328); a tile window belongs to the grove
that maps the tile. -/
def Chan.groupOf (c : Chan) (off : Nat) : Option Nat :=
  match findReg chanRegs off with
  | some d =>
    if d.group ≠ .grove then none
    else if 0x200000 ≤ off ∧ off < 0x638000 then ((c.tile (d.copyOf off)).slot).map (·.grove)
    else some (d.copyOf off)
  | none => none

/-- Changed registers of a grove's group, in rising offset (R327). -/
def Chan.changed (c : Chan) (g : Nat) : List Nat :=
  (c.bank.staged.map (·.1)).filter (fun o => c.groupOf o = some g && c.bank.changedAt chanRegs o)

/-- Staged copies of a group whose parity does not match (R326). -/
def Chan.badStagedOf (c : Chan) (g : Nat) : List Nat := c.bank.badStaged.filter (fun o => c.groupOf o = some g)

/-- Whether an offset lies in the region and exception entries (R109). -/
def isTableOff (off : Nat) : Bool := decide (0x644000 ≤ off) && decide (off < 0x684000) && decide (0x100 ≤ (off - 0x644000) % 0x4000)

/-- Whether every changed RWS bit of a register is BOUNDARY class (R329). -/
def Chan.boundaryOnly (c : Chan) (off : Nat) : Bool :=
  let diff := c.staged off ^^^ c.reg off
  match findReg chanRegs off with
  | some d =>
    if d.base = R.HBM_STASH_GRV_MARK then true
    else if d.base = R.HBM_STASH_GRV_CFG then decide (bits diff.toNat 0 4 = 0)
    else if d.base = R.RED_GRV_CFG then decide (bits diff.toNat 2 1 = 0 ∧ bits diff.toNat 17 12 = 0)
    else d.base = R.RED_GRV_TIMER
  | none => true

/-- Apply every changed field of a group (R327). -/
def Chan.applyGroup (c : Chan) (g : Nat) : Chan :=
  { c with bank := (c.changed g).foldl (fun b o => b.applyAt chanRegs o) c.bank }

/-- Copy a group's applied values back into its staged copies (R327, R463). -/
def Chan.discardGroup (c : Chan) (g : Nat) : Chan :=
  { c with bank := ((c.bank.staged.map (·.1) ++ c.bank.badStaged).filter (fun o => c.groupOf o = some g)).foldl Bank.discardAt c.bank }

/-- A step boundary of grove `g`; `next` is the step or batch that begins next (R333, R334): parity is checked once more,
a pending strobe applies, and the last of the named groves completes it. -/
def Chan.boundary (c : Chan) (g next : Nat) : Chan :=
  match (c.grove g).strobe with
  | none => c
  | some p =>
    let bad := c.badStagedOf g
    let c1 := bad.foldl (fun c o => c.checkStaged o) c
    if bad ≠ [] then (c1.dropStrobe p).endStrobe p .cfgParity []
    else
      let c2 := (c1.applyGroup g).onGrove g (fun v => { v with strobe := none })
      let low := min p.low next
      let c3 := groveNums.foldl (fun c h => c.onGrove h (fun v =>
        { v with strobe := v.strobe.map (fun q => if p.same q then { q with low := low } else q) })) c2
      if groveNums.any (fun h => (((c3.grove h).strobe).map p.same).getD false) then c3
      else c3.endStrobe { p with low := low } .ok (leBytes 4 low)

end Sys2Proof.Machine
end

