-- ==== Sys2Proof/Machine/TileCore.lean ====
section
/-! DEFINITION. The tile core: scalar, vector, semaphore, key and descriptor-issue instructions (R84-R86, R91, R92). -/

namespace Sys2Proof.Machine

/-- Whether the context can issue an instruction that may have stalled before (R85, R86). -/
def Chan.canRetry (c : Chan) (i x : Nat) : Bool :=
  c.tileRuns i && ((c.ctx i x).st = .running || (c.ctx i x).st = .waiting)

/-- Fault of the instruction a context is at (R93). -/
def Chan.instrFault (c : Chan) (i x code : Nat) : Chan := c.tileFault i x 0 code (c.ctx i x).pc.toNat

/-- Read one more line of an extent; nothing more once a line read uncorrectable. -/
def Chan.sramStep (i : Nat) (errs : NMap LineErr) (r : Option Bytes × Chan) (l : Nat) : Option Bytes × Chan :=
  match r.1 with
  | none => r
  | some b => ((r.2.sramLine i l (mapGet (fun _ => 0) errs l)).1.map (fun d => b ++ d), (r.2.sramLine i l (mapGet (fun _ => 0) errs l)).2)

/-- Read an extent of tile SRAM under error patterns; none when a line reads uncorrectable (R278, R280). -/
def Chan.sramRead (c : Chan) (i a n : Nat) (errs : NMap LineErr) : Option Bytes × Chan :=
  let lines := (List.range ((a + n - 1) / 64 - a / 64 + 1)).map (fun k => a / 64 + k)
  let r := lines.foldl (Chan.sramStep i errs) (some [], c)
  (r.1.map (fun b => slice b (a % 64) n), r.2)

/-- An address a scalar instruction forms. -/
def effAddr (b off : BitVec 64) : Nat := (b + off).toNat

/-- The lines that a store of `n` bytes covers only in part: its bank reads, modifies and writes them (R277). -/
def partLines (a n : Nat) : List Nat :=
  (if a % 64 ≠ 0 || n < 64 then [a / 64] else []) ++
    (if (a + n) % 64 ≠ 0 && (a + n) / 64 ≠ a / 64 then [(a + n) / 64] else [])

/-- The read of a read-modify-write: each line covered in part is read, and what was read is what the rest of it then holds (R277,
R278); a line that reads uncorrectable stops it. -/
def Chan.readParts (c : Chan) (i a n : Nat) (errs : NMap LineErr) : Bool × Chan :=
  (partLines a n).foldl (fun r l =>
    if !r.1 then r
    else
      let q := r.2.sramLine i l (mapGet (fun _ => 0) errs l)
      match q.1 with
      | some b =>
        (true, if b = (c.tile i).readBytes (l * 64) 64 then q.2 else q.2.setTile i { q.2.tile i with sram := cellWrite (q.2.tile i).sram (l * 64) b })
      | none => (false, q.2)) (true, c)

/-- Store part of a line or more: an uncorrectable line it covers only in part faults the store (R277, R280). -/
def Chan.storeBytes (c : Chan) (i x a : Nat) (b : Bytes) (errs : NMap LineErr) : Chan :=
  match c.readParts i a b.length errs with
  | (false, c1) => c1.instrFault i x 0x0D
  | (true, c1) => (c1.sramWrite i a b).onCtx i x Ctx.advance

/-- `SCALAR_INSTRUCTION` (R84): the SDK reference holds the encodings and the operations (log entry 4). -/
def execScalarInstruction (t : TileRef) (x : Fin 2) (op : WithErrs ScalarOp) (s : State) : Host.Outcome State Fault Refusal :=
  chanStep s t.ch (fun c =>
    let i := tileIdx t
    if !c.canIssue i x then c
    else
      let v := c.ctx i x
      match op.it with
      | .alu o rd ra rb => c.issue i x (fun v => v.setX rd (Config.scalarAlu o (v.xr ra) (v.xr rb)))
      | .branch o ra rb target =>
        if Config.scalarBranch o (v.xr ra) (v.xr rb) then c.onCtx i x (fun v => { v with pc := target })
        else c.issue i x id
      | .load rd ra off =>
        let a := effAddr (v.xr ra) off
        if !sramOk a 8 || (a % 8 ≠ 0 && Config.scalarUnalignedFaults) then c.instrFault i x 0x05
        else
          match c.sramRead i a 8 op.errs with
          | (some b, c1) => c1.issue i x (fun v => v.setX rd (BitVec.ofNat 64 (leNat b)))
          | (none, c1) => c1.instrFault i x 0x0D
      | .store rs ra off =>
        let a := effAddr (v.xr ra) off
        if !sramOk a 8 || (a % 8 ≠ 0 && Config.scalarUnalignedFaults) then c.instrFault i x 0x05
        else c.storeBytes i x a (leBytes 8 (v.xr rs).toNat) op.errs)

/-- A vector instruction over its own context's registers. -/
def vecStep (t : TileRef) (x : Fin 2) (f : Ctx → Ctx) (s : State) : Host.Outcome State Fault Refusal :=
  chanStep s t.ch (fun c => c.issue (tileIdx t) x f)

/-- `VADD` (R92): VD = VA + VB. -/
def execVadd (t : TileRef) (x : Fin 2) (f : VFields) (s : State) : Host.Outcome State Fault Refusal :=
  vecStep t x (Ctx.vecOp f vAdd) s
/-- `VSUB` (R92): VD = VA - VB. -/
def execVsub (t : TileRef) (x : Fin 2) (f : VFields) (s : State) : Host.Outcome State Fault Refusal :=
  vecStep t x (Ctx.vecOp f vSub) s
/-- `VMUL` (R92). -/
def execVmul (t : TileRef) (x : Fin 2) (f : VFields) (s : State) : Host.Outcome State Fault Refusal :=
  vecStep t x (Ctx.vecOp f vMul) s
/-- `VFMA` (R92): one rounding. -/
def execVfma (t : TileRef) (x : Fin 2) (f : VFields) (s : State) : Host.Outcome State Fault Refusal :=
  vecStep t x (Ctx.vecOp f vFma) s
/-- `VMIN` (R63, R92). -/
def execVmin (t : TileRef) (x : Fin 2) (f : VFields) (s : State) : Host.Outcome State Fault Refusal :=
  vecStep t x (Ctx.vecOp f vMin) s
/-- `VMAX` (R63, R92). -/
def execVmax (t : TileRef) (x : Fin 2) (f : VFields) (s : State) : Host.Outcome State Fault Refusal :=
  vecStep t x (Ctx.vecOp f vMax) s
/-- `VDIV` (R92). -/
def execVdiv (t : TileRef) (x : Fin 2) (f : VFields) (s : State) : Host.Outcome State Fault Refusal :=
  vecStep t x (Ctx.vecOp f vDiv) s
/-- `VSQRT` (R92). -/
def execVsqrt (t : TileRef) (x : Fin 2) (f : VFields) (s : State) : Host.Outcome State Fault Refusal :=
  vecStep t x (Ctx.vecOp f vSqrt) s

/-- `VSFU` (R64, R92): functions 0-5; another function select is an illegal instruction (log entry 12). -/
def execVsfu (t : TileRef) (x : Fin 2) (f : VFields) (s : State) : Host.Outcome State Fault Refusal :=
  chanStep s t.ch (fun c =>
    let i := tileIdx t
    if !c.canIssue i x then c
    else if 5 < f.vc.toNat then c.instrFault i x 0x0E
    else c.issue i x (Ctx.vecOp f (fun fm a _ _ => fm.sfu f.vc.toNat a)))

/-- `VCMP` (R92). -/
def execVcmp (t : TileRef) (x : Fin 2) (f : VFields) (s : State) : Host.Outcome State Fault Refusal :=
  vecStep t x (Ctx.cmp f) s

/-- `VCVT` (R58, R92): functions 0-4; another function select is an illegal instruction (log entry 12). -/
def execVcvt (t : TileRef) (x : Fin 2) (f : VFields) (s : State) : Host.Outcome State Fault Refusal :=
  chanStep s t.ch (fun c =>
    let i := tileIdx t
    if !c.canIssue i x then c
    else if 4 < f.vc.toNat then c.instrFault i x 0x0E
    else c.issue i x (Ctx.cvt (c.tileSeed i) f))

/-- `VRED` (R65, R92): sum, max or min; `SUB` 3 is an illegal instruction (log entry 12). -/
def execVred (t : TileRef) (x : Fin 2) (f : VFields) (s : State) : Host.Outcome State Fault Refusal :=
  chanStep s t.ch (fun c =>
    let i := tileIdx t
    if !c.canIssue i x then c
    else if f.sub = 3 then c.instrFault i x 0x0E
    else c.issue i x (Ctx.red f))

/-- Address of a vector load or store (R92): scalar VA plus the signed offset times 64. -/
def vecAddr (v : Ctx) (va : BitVec 5) (off : BitVec 16) : Nat := effAddr (v.xr va) (off.signExtend 64 * 64)

/-- `VLD` (R92): 256 bytes from tile SRAM. The rule asks for no alignment, and R75 only that the extent lie inside: an address that is
not 64-byte aligned is loaded as it stands (log entry 76). -/
def execVld (t : TileRef) (x : Fin 2) (vd va : BitVec 5) (off : BitVec 16) (errs : NMap LineErr) (s : State) :
    Host.Outcome State Fault Refusal :=
  chanStep s t.ch (fun c =>
    let i := tileIdx t
    let a := vecAddr (c.ctx i x) va off
    if !c.canIssue i x then c
    else if !sramOk a 256 then c.instrFault i x 0x05
    else
      match c.sramRead i a 256 errs with
      | (some b, c1) => c1.issue i x (fun v => v.setV vd (BitVec.ofNat 2048 (leNat b)))
      | (none, c1) => c1.instrFault i x 0x0D)

/-- `VST` (R92): 256 bytes to tile SRAM, at any alignment (log entry 76). -/
def execVst (t : TileRef) (x : Fin 2) (vd va : BitVec 5) (off : WithErrs (BitVec 16)) (s : State) : Host.Outcome State Fault Refusal :=
  chanStep s t.ch (fun c =>
    let i := tileIdx t
    let a := vecAddr (c.ctx i x) va off.it
    if !c.canIssue i x then c
    else if !sramOk a 256 then c.instrFault i x 0x05
    else c.storeBytes i x a (leBytes 256 ((c.ctx i x).vr vd).toNat) off.errs)

/-- `VBCAST` (R92). -/
def execVbcast (t : TileRef) (x : Fin 2) (f : VFields) (s : State) : Host.Outcome State Fault Refusal :=
  vecStep t x (Ctx.bcast f) s

/-- A context's queue by `SUB`: 0 A-array, 1 B-array, 2 movement (R86, R92). -/
def Ctx.queueOf (v : Ctx) (sub : Nat) : List QDesc := if sub = 0 then v.qA else if sub = 1 then v.qB else v.qM

def Ctx.setQueue (v : Ctx) (sub : Nat) (q : List QDesc) : Ctx :=
  if sub = 0 then { v with qA := q } else if sub = 1 then { v with qB := q } else { v with qM := q }

/-- `ISSUE_DESC` (R86): a descriptor from a 64-byte-aligned line joins a queue of 8; a full queue stalls the context.
`SUB` 3 is an illegal instruction and a misaligned address faults under 0x05 (log entry 12). -/
def execIssueDesc (t : TileRef) (x : Fin 2) (va : BitVec 5) (sub : WithErrs (BitVec 2)) (s : State) : Host.Outcome State Fault Refusal :=
  chanStep s t.ch (fun c =>
    let i := tileIdx t
    let v := c.ctx i x
    let a := (v.xr va).toNat
    if !c.canRetry i x then c
    else if sub.it = 3 then c.instrFault i x 0x0E
    else if a % 64 ≠ 0 || !sramOk a 64 then c.instrFault i x 0x05
    else if 8 ≤ (v.queueOf sub.it.toNat).length then c.onCtx i x (fun v => { v with st := .waiting })
    else
      match c.sramRead i a 64 sub.errs with
      | (some b, c1) => c1.onCtx i x (fun v => (v.setQueue sub.it.toNat (v.queueOf sub.it.toNat ++ [⟨a, b⟩])).advance)
      | (none, c1) => c1.instrFault i x 0x0D)

/-- `SEMWAIT` (R85): waits until the count is above 0, then decrements it; semaphore 0 means none. -/
def execSemwait (t : TileRef) (x : Fin 2) (sem : BitVec 4) (s : State) : Host.Outcome State Fault Refusal :=
  chanStep s t.ch (fun c =>
    let i := tileIdx t
    let n := (c.ctx i x).sem sem.toNat
    if !c.canRetry i x then c
    else if sem = 0 then c.onCtx i x Ctx.advance
    else if n = 0 then c.onCtx i x (fun v => { v with st := .waiting })
    else c.onCtx i x (fun v => (v.setSem sem.toNat (n - 1)).advance))

/-- `SEMPOST` (R85, R92): posts a semaphore of this or the other context; overflow faults under 0x0C. -/
def execSempost (t : TileRef) (x : Fin 2) (sem : BitVec 4) (other : Bool) (s : State) : Host.Outcome State Fault Refusal :=
  chanStep s t.ch (fun c =>
    let i := tileIdx t
    let pc := (c.ctx i x).pc.toNat
    let y := if other then 1 - x.val else x.val
    if !c.canIssue i x then c
    else (c.onCtx i x Ctx.advance).post i y sem.toNat 0 pc x.val)

/-- What a `SETKEY` that names step or batch `k` of a grove may do (R145, R300, R309, R341, R345; log entries 17, 54). -/
inductive KeyGate where
  /-- It issues. -/
  | go
  /-- It waits: the step or batch may not begin now. -/
  | wait
  /-- An evaluation grove has reached its stop: it drains. -/
  | drain
  /-- An evaluation grove has reached the batch it pauses before. -/
  | pause
  /-- An evaluation grove with a ring requested has reached the capture point. -/
  | capture
deriving DecidableEq, Repr

def Grove.keyGate (v : Grove) (k : Nat) : KeyGate :=
  let held := v.holding
  if v.st ≠ .running ∧ v.st ≠ .draining ∧ v.st ≠ .paused then .go
  else if v.kind = 0 then
    if k < v.step || (k = v.step && v.begun) then .go
    else if v.st ≠ .running || (v.ws.switch.map (fun w => decide (w.at_ ≤ k))).getD false then .wait
    else if v.stop ≤ k then .drain
    else if (v.pauseAt.map (fun p => decide (p ≤ k))).getD false then .pause
    else if held then (if v.ring.ring ≤ k then .wait else .go)
    else if v.ring.phase = 1 then .capture
    else .go
  -- a training grove that drains, stops or pauses at this step does not begin it
  else if held && decide (v.ring.ring + 1 < k) then .wait
  else if k ≠ v.step || v.begun then .go
  else if v.st = .running && v.step < v.stop && v.pauseAt ≠ some v.step then .go else .wait

/-- A key write tells the grove's step or batch (log entry 17); a new batch is a boundary and a capture point (R333, R341). -/
def Chan.noteKey (c : Chan) (g k mb : Nat) : Chan :=
  let v := c.grove g
  if !v.st.active then c
  else if v.kind = 0 then
    if v.step ≤ k then
      let c1 := if v.step < k || !v.begun then
          (c.boundary g k).onGrove g (fun v => { v.pass k c.pclk with ws := { v.ws with batches := v.ws.batches + 1 } })
        else c
      c1.onGrove g (fun v => { v with step := k, begun := true, mb := mb })
    else c
  else if k = v.step then c.setGrove g { v with begun := true, mb := mb }
  else c

/-- `SETKEY` (R92). -/
def execSetkey (t : TileRef) (x : Fin 2) (va vb vc : BitVec 5) (s : State) : Host.Outcome State Fault Refusal :=
  chanStep s t.ch (fun c =>
    let i := tileIdx t
    let k := ((c.ctx i x).xr va).setWidth 32
    let mb := ((c.ctx i x).xr vb).setWidth 16
    let act (c : Chan) : Chan :=
      c.issue i x (fun v => { v with keyStep := k, keyMb := mb, keyTensor := (v.xr vc).setWidth 24 })
    if !c.canIssue i x then c
    else
      match (c.tile i).slot with
      | none => act c
      | some r =>
        match (c.grove r.grove).keyGate k.toNat with
        | .go => (act c).noteKey r.grove k.toNat mb.toNat
        | .wait => c
        | .drain => c.onGrove r.grove (fun v => { v with st := .draining, ws := { v.ws with attached := false } })
        | .pause => (c.pauseGrove r.grove 0).answerPause r.grove (((c.grove r.grove).pauseAt).getD 0)
        | .capture => c.onGrove r.grove (fun v => ({ v with ring := { v.ring with ring := k.toNat } }).pass k.toNat c.pclk))

/-- `HALT` (R92): the context goes idle. -/
def execHalt (t : TileRef) (x : Fin 2) (s : State) : Host.Outcome State Fault Refusal :=
  chanStep s t.ch (fun c =>
    let i := tileIdx t
    if c.canIssue i x then c.onCtx i x (fun v => { v with st := .idle, pc := v.pc + 4 }) else c)

/-- Major opcodes the table of R92 lists. -/
def majListed (m : Nat) : Bool := (1 ≤ m && m ≤ 0x0E) || m = 0x10 || (0x20 ≤ m && m ≤ 0x24)

/-- `ILLEGAL_INSTRUCTION` (R92, R93): an unlisted major opcode faults the tile under 0x0E. -/
def execIllegalInstruction (t : TileRef) (x : Fin 2) (word : Word) (s : State) : Host.Outcome State Fault Refusal :=
  chanStep s t.ch (fun c =>
    let i := tileIdx t
    if !c.canIssue i x || majListed (bits word.toNat 26 6) then c else c.instrFault i x 0x0E)

end Sys2Proof.Machine
end

