-- ==== Sys2Proof/Machine/Arrays.lean ====
section
/-! DEFINITION. The twin arrays: descriptor start, blocks, and readout (R45-R60, R67-R83, R87, R88). -/

namespace Sys2Proof.Machine

/-- Field of a descriptor: word, low bit, width (R87, R89). -/
def dfield (d : Bytes) (word lo w : Nat) : Nat := bits (leAt d (4 * word) 4) lo w

def Tile.arr (t : Tile) (a : ArrId) : Arr := match a with | .A => t.a | .B => t.b
def Tile.setArr (t : Tile) (a : ArrId) (v : Arr) : Tile := match a with | .A => { t with a := v } | .B => { t with b := v }
def Chan.arr (c : Chan) (i : Nat) (a : ArrId) : Arr := (c.tile i).arr a
def Chan.setArr (c : Chan) (i : Nat) (a : ArrId) (v : Arr) : Chan := c.setTile i ((c.tile i).setArr a v)

/-- Queue index and fault agent of an array (R92, R95). -/
def arrQueue : ArrId → Nat | .A => 0 | .B => 1
def arrAgent : ArrId → Nat | .A => 1 | .B => 2

/-- Formats an operand may have (R87). -/
def operandFmt (f : Nat) : Bool := f = 0x01 || fmtIsMx f

/-- Formats readout may have (R87). -/
def outFmt (f : Nat) : Bool := f = 0x00 || f = 0x01 || fmtIsMx f || f = 0x20

/-- Bytes of a panel (R70). -/
def panelBytes (f : Nat) : Nat := 32 * blockBytes f

/-- Reserved fields of an array descriptor (R87). -/
def arrRsv (d : Bytes) : Bool :=
  dfield d 0 29 3 ≠ 0 || dfield d 1 24 8 ≠ 0 || dfield d 2 21 11 ≠ 0 || dfield d 3 21 11 ≠ 0 || dfield d 5 21 11 ≠ 0 ||
    dfield d 6 21 11 ≠ 0 || dfield d 8 25 7 ≠ 0 || dfield d 9 21 11 ≠ 0 || dfield d 10 29 3 ≠ 0 || dfield d 11 21 11 ≠ 0 ||
    dfield d 15 0 32 ≠ 0

/-- An operand's panels and scales lie aligned and inside (R88 code 0x05). `w` is the operand's first word. Bfloat16 panels have no
scales (R70), so the scale fields are not checked for them (log entry 76). -/
def operandAddrOk (d : Bytes) (w fmt nblk : Nat) : Bool :=
  let last := nblk - 1
  dfield d w 0 21 % 64 = 0 && sramOk (dfield d w 0 21 + last * dfield d (w + 2) 0 16 * 64) (panelBytes fmt) &&
    (fmt = 0x01 || (dfield d (w + 1) 0 21 % 32 = 0 && sramOk (dfield d (w + 1) 0 21 + last * dfield d (w + 2) 16 16 * 32) 32))

/-- The output extents lie aligned and inside (R79, R88 code 0x05); the flag address of a raw readout and the scale address of an
output without scales are not used, and not checked (log entry 76). -/
def outAddrOk (d : Bytes) : Bool :=
  let f := dfield d 1 16 8
  let o := dfield d 9 0 21
  if dfield d 0 25 1 = 1 then o % 64 = 0 && sramOk o 40960
  else
    o % 64 = 0 && sramOk o (32 * (if f = 0x20 then 256 else blockBytes f)) &&
      dfield d 10 0 21 % 64 = 0 && sramOk (dfield d 10 0 21) 1024 &&
      (!fmtIsMx f || (dfield d 11 0 21 % 32 = 0 && sramOk (dfield d 11 0 21) 32))

/-- The first check of R88 that an array descriptor fails, in the order of the table (log entry 18). -/
def arrCheck (a : ArrId) (d : Bytes) (x : Nat) (arr : Arr) : Option Nat :=
  let fa := dfield d 1 0 8
  let fb := dfield d 1 8 8
  let close := dfield d 0 18 1 = 1
  let n := dfield d 8 0 16
  if dfield d 0 0 8 ≠ 1 || dfield d 0 16 1 ≠ (arrQueue a) then some 0x01
  else if !operandFmt fa || !operandFmt fb || (close && dfield d 0 25 1 = 0 && !outFmt (dfield d 1 16 8)) then some 0x02
  else if fmtIsMx fa ≠ fmtIsMx fb then some 0x03
  else if fmtIsMx fa && dfield d 8 16 9 ≠ 0 then some 0x04
  else if (n ≠ 0 && dfield d 0 22 1 = 0 && !operandAddrOk d 2 fa n) || (n ≠ 0 && dfield d 0 23 1 = 0 && !operandAddrOk d 5 fb n) ||
      (close && !outAddrOk d) then some 0x05
  else if n = 0 then some 0x06
  else if arrRsv d then some 0x07
  else if (if dfield d 0 17 1 = 1 then arr.owner ≠ none else arr.owner ≠ some x) then some 0x08
  else none

/-- Whether queued descriptors of a tile may start: the tile runs, has no recorded fault, and its grove is neither paused
nor faulted (R93, R309). -/
def Chan.mayStart (c : Chan) (i : Nat) : Bool :=
  c.tileRuns i && c.fld (F.TILE_FAULT_CODE.sh (tileSlot i)) = 0 &&
    (match (c.tile i).slot with
      | some s =>
        let v := c.grove s.grove
        -- an update in progress runs to completion before PAUSED takes effect (R233)
        v.st ≠ .faulted && (v.st ≠ .paused ||
          (v.update.step.isSome && s.region = c.fld (F.CKP_UPD_GRV_CFG_UPD_REGION.sh (s.grove * 0x40))))
      | none => true)

/-- Whether a queue's head can start: its wait can succeed (R85, R86). -/
def headReady (v : Ctx) (q : List QDesc) : Option QDesc :=
  match q with
  | d :: _ => if dfield d.words 0 8 4 = 0 || 0 < v.sem (dfield d.words 0 8 4) then some d else none
  | [] => none

/-- Take the head of a queue: the wait's count goes down (R85). -/
def Ctx.takeHead (v : Ctx) (sub : Nat) (d : QDesc) : Ctx :=
  let v1 := v.setQueue sub (v.queueOf sub).tail
  let w := dfield d.words 0 8 4
  if w = 0 then v1 else v1.setSem w (v1.sem w - 1)

/-- The context whose head an array sequencer takes: ready heads alternate; an owned array serves its owner (R86). -/
def Chan.pickArr (c : Chan) (i : Nat) (a : ArrId) : Option (Nat × QDesc) :=
  let arr := c.arr i a
  let ok (x : Nat) : Option (Nat × QDesc) :=
    if arr.owner = none || arr.owner = some x then (headReady (c.ctx i x) ((c.ctx i x).queueOf (arrQueue a))).map (fun d => (x, d)) else none
  match ok (1 - arr.last) with
  | some r => some r
  | none => ok arr.last

/-- `ARRAY_DESCRIPTOR_START` (R78, R86-R88). -/
def execArrayDescriptorStart (t : TileRef) (a : ArrId) (s : State) : Host.Outcome State Fault Refusal :=
  chanStep s t.ch (fun c =>
    let i := tileIdx t
    let arr := c.arr i a
    if !c.mayStart i || arr.run ≠ none then c
    else
      match c.pickArr i a with
      | none => c
      | some (x, d) =>
        let c1 := c.onCtx i x (fun v => v.takeHead (arrQueue a) d)
        match arrCheck a d.words x arr with
        | some code => (c1.setArr i a { arr with last := x }).tileFault i x (arrAgent a) code d.addr
        | none =>
          let clr := dfield d.words 0 17 1 = 1
          c1.setArr i a { arr with
            last := x, run := some ⟨x, d, 0⟩, owner := some x, taken := arr.taken + 1
            acc := if clr then [] else arr.acc, count := if clr then 0 else arr.count })

/-! ## Blocks -/

/-- What a port presents for one block: for each row or column its 32 elements in k order and its scale byte. -/
structure PortBlock where
  vecs   : List (List Nat)
  scales : List Nat
deriving DecidableEq, Repr

/-- Element codes of a panel: 32 blocks of 32. -/
def panelCodes (f : Nat) (b : Bytes) : List (List Nat) :=
  (List.range 32).map (fun m =>
    let v := leNat (slice b (m * blockBytes f) (blockBytes f))
    (List.range 32).map (fun k => unpackAt f v k))

def transpose32 (l : List (List Nat)) : List (List Nat) := (List.range 32).map (fun k => l.map (fun r => r.getD k 0))

/-- What reading an operand for a block gives: the port's data, a wait, or a fault code. -/
inductive OperandRead where
  | data (p : PortBlock)
  | wait
  | fault (code : Nat)
deriving DecidableEq, Repr

/-- Fill a panel buffer: the panel of block `blk` of the operand at descriptor word `w`, and its scales (R70, R71); none where a
line reads uncorrectable. -/
def Chan.fillPanel (c : Chan) (i : Nat) (d : Bytes) (w f blk : Nat) (errs : NMap LineErr) : Option PanelBuf × Chan :=
  let a := dfield d w 0 21 + blk * dfield d (w + 2) 0 16 * 64
  let sa := dfield d (w + 1) 0 21 + blk * dfield d (w + 2) 16 16 * 32
  let r := c.sramRead i a (panelBytes f) errs
  match r.1 with
  | none => (none, r.2)
  | some b =>
    if fmtIsMx f then
      let q := r.2.sramRead i sa 32 errs
      (q.1.map (fun s => ⟨blk, b, s⟩), q.2)
    else (some ⟨blk, b, []⟩, r.2)

/-- What a port presents from a panel buffer (R71, R72): unequal scales in row mode fault under 0x09. -/
def PanelBuf.read (p : PanelBuf) (f : Nat) (row : Bool) : OperandRead :=
  let codes := panelCodes f p.data
  let sc := if fmtIsMx f then p.scales.map (·.toNat) else List.replicate 32 127
  if row then
    if sc.any (fun v => v ≠ sc.headD 0) then .fault 0x09 else .data ⟨transpose32 codes, sc⟩
  else .data ⟨codes, sc⟩

/-- Read a GTB operand: column mode for A, row mode for B (R73, R74); a format that differs faults under 0x02 (R88). A block waits
while its half holds nothing, or the tile that an earlier block of its own descriptor, `key`, has read. -/
def Tile.gtb (t : Tile) (key : ArrId × Nat) (f half : Nat) (row : Bool) : OperandRead :=
  let h := if half = 0 then t.g0 else t.g1
  if h.readers = 0 || h.readBy.contains key then .wait
  else if h.fmt ≠ f then .fault 0x02
  else
    let rows := (List.range 32).map (fun r => (List.range 32).map (fun k => h.codes.getD (r * 32 + k) 0))
    .data ⟨if row then transpose32 rows else rows, List.replicate 32 h.scale⟩

/-- One more block has finished reading a half; the last frees it (R74). -/
def GtbHalf.done (h : GtbHalf) (a : ArrId × Nat) : GtbHalf :=
  if h.readers ≤ 1 then GtbHalf.free else { h with readers := h.readers - 1, readBy := h.readBy ++ [a] }

def Tile.gtbDone (t : Tile) (a : ArrId × Nat) (half : Nat) : Tile :=
  if half = 0 then { t with g0 := t.g0.done a } else { t with g1 := t.g1.done a }

/-- Add one block into every cell; none where an addition would leave `WRAP`'s range (R50, R51, R53). -/
def addBlock (acc : NMap AccCell) (fa fb : Nat) (w : Int) (pa pb : PortBlock) : Option (NMap AccCell) :=
  (List.range 1024).foldr (fun n r =>
    match r with
    | none => none
    | some m =>
      let i := n / 32
      let j := n % 32
      let cell := mapGet (fun _ => AccCell.zero) acc n
      let as := pa.vecs.getD i []
      let bs := pb.vecs.getD j []
      let v := if fmtIsMx fa then cell.addMx fa fb as bs (pa.scales.getD i 0) (pb.scales.getD j 0) else cell.addBf w as bs
      match v with
      | none => none
      | some v => some (if v = AccCell.zero then m else (n, v) :: m)) (some [])

/-- Count a retired array descriptor and post its semaphore (R85, R95). -/
def Chan.retireArr (c : Chan) (i : Nat) (a : ArrId) (r : ArrRun) : Chan :=
  let off := (if a = .A then R.TILE_A_RETIRED_LO else R.TILE_B_RETIRED_LO) + tileSlot i
  let c1 : Chan := { c with bank := c.bank.add64 chanRegs off 1 }
  c1.post i r.ctx (dfield r.desc.words 0 12 4) (arrAgent a) r.desc.addr

/-- What a port presents for block `blk` of a descriptor, and its panel buffers then: from the GTB, or from a panel buffer that it
has filled (R70-R74). -/
def Chan.operand (c : Chan) (i : Nat) (gtb : Bool) (key : ArrId × Nat) (d : Bytes) (w f blk half : Nat) (gtbRow row : Bool)
    (bufs : List PanelBuf) (errs : NMap LineErr) : OperandRead × List PanelBuf × Chan :=
  if gtb then ((c.tile i).gtb key f half gtbRow, bufs, c)
  else
    let r := c.fillPanel i d w f blk errs
    match r.1 with
    | none => (.fault 0x0D, bufs, r.2)
    | some p => (p.read f row, (p :: bufs).take 2, r.2)

/-- `ARRAY_BLOCK` (R46-R53, R67-R74): one 32-k block, when the limiter grants product cycles (R380); a descriptor in progress
goes on when its grove is frozen (R407). An uncorrectable error in the
accumulator SRAM or a panel buffer faults under 0x0D (R93). -/
def execArrayBlock (t : TileRef) (w : WithErrs (WithUe ArrId)) (s : State) : Host.Outcome State Fault Refusal :=
  chanStep s t.ch (fun c =>
    let i := tileIdx t
    let a := w.it.it
    let arr := c.arr i a
    match arr.run with
    | none => c
    | some r =>
      let d := r.desc.words
      let n := dfield d 8 0 16
      if !c.clockRuns i || n ≤ r.block || c.fld F.TH_DUTY_DUTY = 0 then c
      else
        let fa := dfield d 1 0 8
        let fb := dfield d 1 8 8
        let half := (dfield d 0 24 1 + r.block) % 2
        let ga := dfield d 0 22 1 = 1
        let gb := dfield d 0 23 1 = 1
        let key := (a, arr.taken)
        let (oa, ba, c1) := c.operand i ga key d 2 fa r.block half false (dfield d 0 20 1 = 1) arr.bufA w.errs
        let (ob, bb, c2) := c1.operand i gb key d 5 fb r.block half true (dfield d 0 21 1 = 1) arr.bufB w.errs
        let drop (c : Chan) (code : Nat) : Chan :=
          (c.setArr i a { c.arr i a with run := none }).tileFault i r.ctx (arrAgent a) code r.desc.addr
        match oa, ob with
        | .fault code, _ => drop c1 code
        | _, .fault code => drop c2 code
        | .data pa, .data pb =>
          let adds := blockAdds fa fb
          if w.it.ue then drop c2 0x0D
          else if maxAdditions < arr.count + adds then drop c2 0x0A
          else
            match addBlock arr.acc fa fb (signed 9 (dfield d 8 16 9)) pa pb with
            | none => drop c2 0x0B
            | some acc =>
              let c3 := if ga || gb then c2.setTile i ((c2.tile i).gtbDone key half) else c2
              let r1 : ArrRun := { r with block := r.block + 1 }
              let last := n = r1.block && dfield d 0 18 1 = 0
              let c4 := c3.setArr i a { arr with
                acc := acc, count := arr.count + adds, bufA := ba, bufB := bb, run := if last then none else some r1 }
              if last then c4.retireArr i a r1 else c4
        | _, _ => c)

/-! ## Readout -/

/-- What readout writes: element rows, flag bytes, scale bytes. -/
structure Readout where
  rows   : Bytes
  flags  : Bytes
  scales : Bytes
deriving DecidableEq, Repr

/-- The stochastic value of cell (i, j), when `SR` is set (R57, R58, R81). -/
def cellRnd (d : Bytes) (key : RndKey) (i j : Nat) : Option Nat :=
  if dfield d 0 19 1 = 1 then
    let base := dfield d 13 0 32 + dfield d 12 24 8 * 2 ^ 32
    let p := dfield d 14 0 32
    some (rndOf key (if dfield d 0 28 1 = 1 then base + j * p + i else base + i * p + j))
  else none

/-- One MX block of cells (R56, R60): its codes, flags and scale byte. A NaN or infinity in the block, or in the whole
tile under `SQUARE`, gives scale 0xFF and zero elements. -/
def mxBlock (f : Nat) (w : Int) (cells : List (AccCell × Option Nat)) (x : Int) (special : Bool) : List Nat × List (BitVec 8) × Nat :=
  let rs := cells.map (fun p => readMxElem f w x p.2 p.1)
  if special then (rs.map (fun _ => 0), cells.map (fun p => p.1.readFlags), 0xFF) else (rs.map (·.1), rs.map (·.2), (x + 127).toNat)

/-- The bytes of a readout with `CLOSE` (R79-R81). -/
def readoutOf (d : Bytes) (key : RndKey) (acc : NMap AccCell) : Readout :=
  let f := dfield d 1 16 8
  let w := signed 9 (dfield d 8 16 9)
  let cell (i j : Nat) : AccCell := mapGet (fun _ => AccCell.zero) acc (i * 32 + j)
  let r32 := List.range 32
  if dfield d 0 25 1 = 1 then ⟨r32.flatMap (fun i => r32.flatMap (fun j => (cell i j).image)), [], []⟩
  else if f = 0x20 then
    let g := signed 8 (dfield d 10 21 8)
    let es := r32.flatMap (fun i => r32.map (fun j => readRg64 g w (cell i j)))
    ⟨es.flatMap (fun e => leBytes 8 e.1), es.map (·.2), []⟩
  else if fmtIsMx f then
    let outT := dfield d 0 27 1 = 1
    let square := dfield d 0 26 1 = 1
    let all := r32.flatMap (fun i => r32.map (fun j => cell i j))
    let sqX := scaleExp f (blockMax w all)
    let sqS := all.any (·.special)
    let line (m : Nat) : List (AccCell × Option Nat) :=
      r32.map (fun k => if outT then (cell k m, cellRnd d key k m) else (cell m k, cellRnd d key m k))
    let bs := r32.map (fun m =>
      let cs := line m
      if square then mxBlock f w cs sqX sqS else mxBlock f w cs (scaleExp f (blockMax w (cs.map (·.1)))) ((cs.map (·.1)).any (·.special)))
    ⟨bs.flatMap (fun b => packBlock f b.1),
     r32.flatMap (fun i => r32.map (fun j => if outT then (bs.getD j ([], [], 0)).2.1.getD i 0 else (bs.getD i ([], [], 0)).2.1.getD j 0)),
     bs.map (fun b => BitVec.ofNat 8 b.2.2)⟩
  else
    let es := r32.flatMap (fun i => r32.map (fun j => readScalar f w (cellRnd d key i j) (cell i j)))
    ⟨es.flatMap (fun e => leBytes (fmtBits f / 8) e.1), es.map (·.2), []⟩

/-- `ACCUMULATOR_READOUT` (R54-R60, R78-R81, R85); an uncorrectable accumulator SRAM faults under 0x0D (R93). -/
def execAccumulatorReadout (t : TileRef) (w : WithUe ArrId) (s : State) : Host.Outcome State Fault Refusal :=
  chanStep s t.ch (fun c =>
    let i := tileIdx t
    let a := w.it
    let arr := c.arr i a
    match arr.run with
    | none => c
    | some r =>
      let d := r.desc.words
      if !c.clockRuns i || r.block < dfield d 8 0 16 || dfield d 0 18 1 = 0 then c
      else if w.ue then (c.setArr i a { arr with run := none }).tileFault i r.ctx (arrAgent a) 0x0D r.desc.addr
      else
        let v := c.ctx i r.ctx
        let ro := readoutOf d ⟨c.tileSeed i, dfield d 12 0 24, 0, v.keyStep.toNat, v.keyMb.toNat⟩ arr.acc
        let c1 := c.sramWrite i (dfield d 9 0 21) ro.rows
        let c2 := if ro.flags = [] then c1 else c1.sramWrite i (dfield d 10 0 21) ro.flags
        let c3 := if ro.scales = [] then c2 else c2.sramWrite i (dfield d 11 0 21) ro.scales
        (c3.setArr i a { arr with owner := none, acc := [], count := 0, run := none }).retireArr i a r)

end Sys2Proof.Machine
end

