-- ==== Sys2Proof/Machine/Stash.lean ====
section
/-! DEFINITION. The activation stash: records, slabs, occupancy, drops and admission (R158-R174, R182). -/

namespace Sys2Proof.Machine

/-- What a controller answers to a tile's aperture descriptor: the data of a read, or a fault code. -/
inductive DevRes where
  | done (data : Bytes) (c : Chan)
  | refuse (code : Nat) (c : Chan)
  | waits (c : Chan)

/-- A slot as one number. -/
def slotNum (r : SlotRef) : Nat := r.region * 65536 + r.lx * 256 + r.ly

/-- Offset of a grove's stash registers (R182). -/
def stashOff (g : Nat) : Nat := g * 0x40

/-- The stash plan (R182): first byte address. -/
def Chan.planBase (c : Chan) (g : Nat) : Nat := c.fld (F.HBM_STASH_GRV_PLAN_PLAN_LINE.sh (stashOff g)) * 64

def Chan.planEntries (c : Chan) (g : Nat) : Nat := leNat (c.hbmRead (c.planBase g) 2)
def Chan.planPoints (c : Chan) (g : Nat) : Nat := leNat (c.hbmRead (c.planBase g + 4) 4)

/-- Written format, eligibility and `NTILE` of an entry (R158, R182). -/
def Chan.planEntry (c : Chan) (g e : Nat) : Nat × Bool × Nat :=
  let b := c.hbmRead (c.planBase g + 64 + 16 * e) 16
  (leAt b 0 1, leAt b 1 1 % 2 = 1, leAt b 2 2)

/-- Admission point `k`: micro-batch and entry (R168). -/
def Chan.planPoint (c : Chan) (g k : Nat) : Nat × Nat :=
  let b := c.hbmRead (c.planBase g + 64 + 16 * c.planEntries g + 8 * k) 8
  (leAt b 0 2, leAt b 2 2)

/-- Lines a tile writes, and lines it reads back, for a written format (R159). -/
def writtenLines (f : Nat) : Nat := if f = fmtBf16 then 33 else 17
def returnedLines (f : Nat) : Nat := if f = fmtBf16 then 33 else 13

/-- Pages of one slot's records in a slab (R167). -/
def Slab.slotPages (s : Slab) (slot : Nat) : Nat :=
  (((s.recs.filter (fun r => r.slot = slot)).foldl (fun a r => a + r.data.length) 0) + 4095) / 4096

/-- Pages of a slab. -/
def Slab.pages (s : Slab) : Nat :=
  (((s.recs.map (·.slot)).eraseDups).map (fun t => s.slotPages t)).foldl (· + ·) 0

/-- Occupancy O of a grove (R167). -/
def GroveStash.occ (v : GroveStash) : Nat := (v.slabs.map Slab.pages).foldl (· + ·) 0

def Chan.occ (c : Chan) (g : Nat) : Nat := (c.grove g).stash.occ

/-- Pages of the REFILL reserve that slabs hold (R170). -/
def GroveStash.fromRsv (v : GroveStash) : Nat := (v.slabs.map (·.rsvPages)).foldl (· + ·) 0

/-- Pages of the general pool that slabs hold (R169, R170). -/
def GroveStash.general (v : GroveStash) : Nat := v.occ - v.fromRsv

/-- Put a grove's stash back; the peak follows O (R182). -/
def Chan.setStash (c : Chan) (g : Nat) (v : GroveStash) : Chan :=
  let c1 := c.onGrove g (fun gr => { gr with stash := v })
  let p := F.HBM_STASH_GRV_PEAK_PEAK.sh (stashOff g)
  c1.setFld p (max (c1.fld p) v.occ)

def GroveStash.slab (v : GroveStash) (n : Nat) : Option Slab := v.slabs.find? (fun s => s.num = n)
def GroveStash.put (v : GroveStash) (s : Slab) : GroveStash := { v with slabs := v.slabs.filter (fun x => x.num ≠ s.num) ++ [s] }

/-- Narrow a written record (R161): elements and stored scale, and whether an element saturated. -/
def narrow (f : Nat) (b : Bytes) : Bytes × Nat × Bool :=
  let dst := if f = fmtBf16 then fmtE4M3 else fmtE2M3
  let w := fmtBits f / 8
  let vals := (List.range 1024).map (fun i =>
    scaledValue f (leAt b (i * w) w) (if f = fmtBf16 then 127 else leAt b (1024 + i / 32) 1))
  if vals.any (fun v => v = none) then (packBlock dst (List.replicate 1024 0), 0xFF, false)
  else
    let ex := vals.map (fun v => v.getD ⟨false, 0, 0⟩)
    let x := scaleExp dst (some (ex.foldl (fun m v => if m.magLt v then v else m) ⟨false, 0, 0⟩))
    let rs := ex.map (fun v => roundElem dst none { v with e := v.e - x })
    (packBlock dst (rs.map (·.1)), (x + 127).toNat, rs.any (fun r => r.2 &&& flOvf ≠ 0))

/-- The stored form of a record (R159, R160): elements, then the header with its scale. -/
def storeForm (f : Nat) (b : Bytes) : Bytes × Bool :=
  let (els, sc, sat) := narrow f b
  let hdr := slice b (64 * writtenLines f - 32) 32
  (els ++ zeros 32 ++ (slice hdr 0 19 ++ leBytes 1 sc ++ slice hdr 20 12), sat)

/-- The returned form (R159, R162). -/
def returnForm (f : Nat) (d : Bytes) : Bytes :=
  let sc := leAt d (d.length - 13) 1
  let hdr := slice d (d.length - 32) 32
  if f = fmtBf16 then
    ((List.range 1024).flatMap (fun i =>
      leBytes 2 (if sc = 0xFF then 0x7FC0
        else match scaledValue fmtE4M3 (leAt d i 1) sc with
          | some v => (roundElem fmtBf16 none v).1
          | none => 0x7FC0))) ++ zeros 32 ++ hdr
  else slice d 0 768 ++ (List.replicate 32 (BitVec.ofNat 8 sc)) ++ hdr

/-- Refuse a stash descriptor under 0x0F (R166). -/
def Chan.stashRefuse (c : Chan) : DevRes := .refuse 0x0F (c.setFld F.HBM_STASH_STATUS_RECORD_FAULT 1)

/-- Drop the eligible slab that became HELD most recently (R169); none when there is none. -/
def Chan.stashDrop (c : Chan) (g : Nat) (v : GroveStash) : Option (GroveStash × Chan) :=
  let el := v.slabs.filter (fun s => s.st = .held && (c.planEntry g s.entry).2.1)
  match el.find? (fun s => el.all (fun t => decide (t.order ≤ s.order))) with
  | none => none
  | some s =>
    let c1 := (c.setFld F.HBM_STASH_STATUS_DROP 1).count (F.HBM_STASH_GRV_EVT_DROPS.sh (stashOff g))
    some (v.put { s with st := .dropped, recs := [], released := [], rsvPages := 0 }, c1)

/-- Drop until `need` general pages are free of `lim`, or nothing more can be dropped: whether they are, and what the drops leave. The
first argument bounds the drops. -/
def Chan.stashMakeRoom (g need lim : Nat) : Nat → GroveStash → Chan → Bool × GroveStash × Chan
  | 0, v, c => (decide (v.general + need ≤ lim), v, c)
  | n + 1, v, c =>
    if v.general + need ≤ lim then (true, v, c)
    else match c.stashDrop g v with
      | none => (false, v, c)
      | some (v1, c1) => Chan.stashMakeRoom g need lim n v1 c1

/-- STASH_EXHAUSTED (R171): the grove faults and its pages are freed. Two event entries name entry, micro-batch and O (log entry
80). -/
def Chan.stashExhausted (c : Chan) (g entry mb : Nat) : Chan :=
  let o := c.occ g
  let c1 := c.setFld F.HBM_STASH_STATUS_EXHAUSTED 1
  let c2 := c1.event .stashExhausted 9 0 (some g) (argFld F.HBM_STASH_STATUS_EXHAUSTED (mb + entry % 256 * 2 ^ 16))
  let c3 := c2.event .stashExhausted 9 0 (some g) (argWide (o + entry / 256 * 2 ^ 25))
  (c3.setStash g GroveStash.reset).groveFault g .stashExhausted

/-- Write a record (R159-R161, R165-R171). -/
def Chan.stashRecord (c : Chan) (r : SlotRef) (num recNo : Nat) (b : Bytes) : DevRes :=
  let g := r.grove
  let v := (c.grove g).stash
  let n := b.length / 64
  let hdr := slice b (b.length - 32) 32
  let entry := leAt hdr 0 2
  let mb := leAt hdr 2 2
  let f := (c.planEntry g entry).1
  let slot := slotNum r
  if c.planEntries g ≤ entry || n ≠ writtenLines f then c.stashRefuse
  else
    let cur : Option Slab :=
      match v.slab num with
      | none => some ⟨num, .opened, entry, mb, [], [], 0, [], 0, 0⟩
      | some s =>
        if (s.st = .opened || s.st = .refill) && s.entry = entry && s.mb = mb &&
            !s.recs.any (fun x => x.slot = slot && x.num = recNo) then some s else none
    match cur with
    | none => c.stashRefuse
    | some s =>
      let (data, sat) := storeForm f b
      let c1 := if sat then c.setFld F.HBM_STASH_STATUS_NARROW_SAT 1 else c
      let s1 : Slab := { s with recs := s.recs ++ [⟨slot, recNo, data⟩]
                                counts := if s.st = .refill then s.counts else mapPut s.counts slot (mapGet (fun _ => 0) s.counts slot + 1) }
      let need := s1.slotPages slot - s.slotPages slot
      let cap := c.fld (F.HBM_STASH_GRV_CAP_CAP.sh (stashOff g))
      let rsv := c.fld (F.HBM_STASH_GRV_RSV_RSV.sh (stashOff g))
      -- a REFILL write takes general pages first, then the reserve's (R170)
      let more := need - min need (cap - rsv - v.general)
      let (ok, v1, c2) := if s.st = .refill then (decide (v.fromRsv + more ≤ rsv), v, c1)
        else if need = 0 then (true, v, c1)
        else Chan.stashMakeRoom g need (cap - rsv) 4096 v c1
      if !ok then .done [] ((c2.setStash g v1).stashExhausted g entry mb)
      else
        let first := (v.slab num).isNone
        let p := c.planPoint g (v1.point - 1)
        let v2 := v1.put (if s.st = .refill then { s1 with rsvPages := s1.rsvPages + more } else s1)
        .done [] (c2.setStash g { v2 with arrived := v2.arrived || (first && p = (mb, entry)) })

/-- A one-line control-record write: close (line 0) or release (line 1) (R164, R165). -/
def Chan.stashControl (c : Chan) (r : SlotRef) (num line : Nat) : DevRes :=
  let g := r.grove
  let v := (c.grove g).stash
  match v.slab num with
  | none => c.stashRefuse
  | some s =>
    let nt := (c.planEntry g s.entry).2.2
    if line = 0 then
      if s.st ≠ .opened then c.stashRefuse
      else if nt ≤ s.closed + 1 then
        .done [] (c.setStash g { v.put { s with closed := s.closed + 1, st := .held, order := v.holdSeq } with holdSeq := v.holdSeq + 1 })
      else .done [] (c.setStash g (v.put { s with closed := s.closed + 1 }))
    else if s.st ≠ .reading && s.st ≠ .refill then c.stashRefuse
    else if s.released.contains (slotNum r) then .done [] (c.count (F.HBM_STASH_GRV_EVT_DUP_REL.sh (stashOff g)))
    else if nt ≤ s.released.length + 1 then .done [] (c.setStash g { v with slabs := v.slabs.filter (fun x => x.num ≠ num) })
    else .done [] (c.setStash g (v.put { s with released := s.released ++ [slotNum r] }))

/-- Probe a slab (R164, R165). -/
def Chan.stashProbe (c : Chan) (r : SlotRef) (num : Nat) : DevRes :=
  let g := r.grove
  let v := (c.grove g).stash
  match v.slab num with
  | none => c.stashRefuse
  | some s =>
    let code := match s.st with | .opened => 0 | .held => 1 | .reading => 2 | .dropped => 3 | .refill => 4
    if s.st = .opened then c.stashRefuse
    else
      let cnt := mapGet (fun _ => 0) s.counts (slotNum r)
      let line := leBytes 1 (if cnt = 0 then 0 else code) ++ [0] ++ leBytes 2 s.entry ++ leBytes 2 s.mb ++ zeros 2 ++ leBytes 4 cnt ++ zeros 52
      let st1 := if s.st = .held then SlabState.reading else if s.st = .dropped then .refill else s.st
      let c1 := if s.st = .dropped then c.count (F.HBM_STASH_GRV_EVT_REFILLS.sh (stashOff g)) else c
      .done line (c1.setStash g (v.put { s with st := st1 }))

/-- The HBM line that an error of a stash record is reported for: a line of region 1 (log entry 19). -/
def Chan.stashPage (c : Chan) : Nat :=
  match c.region 1 with
  | some (b, l, _) => b + Config.stashLine (8 * c.free + c.idx) % (l + 1 - b)
  | none => 0

/-- Lines of a record read through the stash controller under error patterns, the first of them at key `line` (R278, R280). -/
def Chan.stashLines (c : Chan) (line : Nat) (errs : NMap LineErr) : List Bytes → Option Bytes × Chan
  | [] => (some [], c)
  | x :: t =>
    let c0 : Chan := { c with free := c.free + 1 }
    let keep (v : Bytes) (d : Chan) : Option Bytes × Chan :=
      match d.stashLines (line + 1) errs t with
      | (none, d1) => (none, d1)
      | (some b, d1) => (some (v ++ b), d1)
    match decodeLine c.free (lineNat x) (mapGet (fun _ => 0) errs line) with
    | .clean => keep x c
    | .corrected => keep x (c0.hbmCe c.stashPage)
    | .bad => (none, c0.hbmUe c.stashPage)
    | .other (some v) => keep (leBytes 64 v.toNat) c0
    | .other none => (none, c0.hbmUe c.stashPage)

/-- Read a stored record back (R159, R162, R165); one that reads uncorrectable faults the grove, and the descriptor stays where it
stands (R280). -/
def Chan.stashRead (c : Chan) (r : SlotRef) (num recNo n line : Nat) (errs : NMap LineErr) : DevRes :=
  let g := r.grove
  match (c.grove g).stash.slab num with
  | none => c.stashRefuse
  | some s =>
    let f := (c.planEntry g s.entry).1
    if (s.st ≠ .reading && s.st ≠ .refill) || n ≠ returnedLines f then c.stashRefuse
    else
      match s.recs.find? (fun x => x.slot = slotNum r && x.num = recNo) with
      | some x =>
        match c.stashLines line errs (chunksOf n 64 (returnForm f x.data)) with
        | (some b, c1) => .done b c1
        | (none, c1) => .waits (c1.groveFault g .hwFault)
      | none => c.stashRefuse

/-- A tile write through the stash aperture (R163). -/
def Chan.stashApWrite (c : Chan) (r : SlotRef) (off : Nat) (b : Bytes) : DevRes :=
  let num := bits off 16 12
  let recNo := bits off 6 10
  let line := bits off 0 6
  if recNo = 1023 then (if b.length = 64 && line < 2 then c.stashControl r num line else c.stashRefuse)
  else if line ≠ 0 then c.stashRefuse
  else c.stashRecord r num recNo b

/-- A tile read through the stash aperture (R163). -/
def Chan.stashApRead (c : Chan) (r : SlotRef) (off n at_ : Nat) (errs : NMap LineErr) : DevRes :=
  let num := bits off 16 12
  let recNo := bits off 6 10
  let line := bits off 0 6
  if recNo = 1023 then (if n = 1 && line = 0 then c.stashProbe r num else c.stashRefuse)
  else if line ≠ 0 then c.stashRefuse
  else c.stashRead r num recNo n at_ errs

/-- The next admission point can be checked: points are in use, the grove works and the current point's first record has
arrived (R168, R174). -/
def Chan.stashCanAdmit (c : Chan) (g : Nat) : Bool :=
  let v := c.grove g
  c.fld (F.HBM_STASH_GRV_CFG_STASH_SEM.sh (stashOff g)) ≠ 0 && v.st.active && !v.replay && v.stash.point < c.planPoints g && v.stash.arrived

/-- Whether a slab of the grove is READING or REFILL (R168). -/
def GroveStash.draining (v : GroveStash) : Bool := v.slabs.any (fun s => s.st = .reading || s.st = .refill)

/-- Admit the next point: `STASH_SEM` is posted once in ctx(m mod 2) of every slot (R168). -/
def Chan.stashAdmitPoint (c : Chan) (g : Nat) : Chan :=
  let v := (c.grove g).stash
  let (mb, _) := c.planPoint g v.point
  let sem := c.fld (F.HBM_STASH_GRV_CFG_STASH_SEM.sh (stashOff g))
  let c1 := c.onGrove g (fun gr => { gr with stash := { v with point := v.point + 1, arrived := false } })
  (c1.tilesOf g).foldl (fun c i => c.post i (mb % 2) sem 3 0) c1

/-- `STASH_ADMIT` (R168): below the mark. -/
def execStashAdmit (c : Fin 8) (g : Fin 16) (s : State) : Host.Outcome State Fault Refusal :=
  chanStep s c (fun c =>
    if c.stashCanAdmit g && c.occ g < c.fld (F.HBM_STASH_GRV_MARK_MARK.sh (stashOff g)) then c.stashAdmitPoint g else c)

/-- `STASH_OVER_MARK_ADMIT` (R168): at or over the mark, once nothing has drained for `HOLD_GRACE` PCLK. -/
def execStashOverMarkAdmit (c : Fin 8) (g : Fin 16) (s : State) : Host.Outcome State Fault Refusal :=
  chanStep s c (fun c =>
    if c.stashCanAdmit g && c.fld (F.HBM_STASH_GRV_MARK_MARK.sh (stashOff g)) ≤ c.occ g && !(c.grove g).stash.draining then
      ((c.setFld F.HBM_STASH_STATUS_OVER_MARK 1).count (F.HBM_STASH_GRV_EVT_OVER_MARK.sh (stashOff g))).stashAdmitPoint g
    else c)

end Sys2Proof.Machine
end

