-- ==== Sys2Proof/Machine/Mesh.lean ====
section
/-! DEFINITION. Groves on the mesh: translation tables, flits, ejection, tile data frames, and the patrol scrubbers
(R94, R96-R111, R276-R280). -/

namespace Sys2Proof.Machine

/-! ## Translation tables (R98, R106, R118) -/

/-- A region entry as the grove table window holds it. -/
structure RegionEntry where
  valid  : Bool
  remote : Bool
  pinned : Bool
  x0 : Nat
  y0 : Nat
  fw : Nat
  fh : Nat
  lw : Nat
  lh : Nat
  node : Nat
  peer : Nat
  via : Nat
deriving DecidableEq, Repr

/-- Read a region entry from its three words. -/
def regionOfWords (w0 w1 w2 : Word) : RegionEntry :=
  ⟨w0.getLsbD 0, w0.getLsbD 1, w0.getLsbD 2, bits w0.toNat 8 6, bits w0.toNat 14 7, bits w1.toNat 0 6, bits w1.toNat 6 7,
   bits w1.toNat 13 6, bits w1.toNat 19 7, bits w2.toNat 0 16, bits w2.toNat 16 6, bits w2.toNat 22 3⟩

def grvSlot (g : Nat) : Nat := g * 0x4000

/-- Region `n` of grove `g`, from a view of the registers (applied or staged). -/
def regionAt (rd : Nat → Word) (g n : Nat) : RegionEntry :=
  let o := grvSlot g + n * 0x10
  regionOfWords (rd (R.CTL_GRV_REGION_W0 + o)) (rd (R.CTL_GRV_REGION_W1 + o)) (rd (R.CTL_GRV_REGION_W2 + o))

/-- Valid exception entries of a grove: entry, region, lx, ly, tile. -/
def exceptionsAt (rd : Nat → Word) (g : Nat) : List (Nat × Nat × Nat × Nat × Nat) :=
  (List.range 64).filterMap (fun e =>
    let w0 := (rd (R.CTL_GRV_EXC_W0 + grvSlot g + 8 * e)).toNat
    let w1 := (rd (R.CTL_GRV_EXC_W1 + grvSlot g + 8 * e)).toNat
    if bits w0 0 1 = 1 then some (e, bits w0 1 6, bits w0 7 8, bits w0 15 8, bits w1 6 7 * 48 + bits w1 0 6) else none)

/-- The tile of a slot (R98, R106 steps 2-3). -/
def slotTile (rd : Nat → Word) (g n lx ly : Nat) : Nat :=
  match (exceptionsAt rd g).find? (fun e => e.2.1 = n && e.2.2.1 = lx && e.2.2.2.1 = ly) with
  | some e => e.2.2.2.2
  | none =>
    let r := regionAt rd g n
    (r.y0 + ly) * 48 + r.x0 + lx

/-- Every slot of a grove's local regions with its tile (R98). -/
def slotsAt (rd : Nat → Word) (g : Nat) : List (Nat × SlotRef) :=
  let exc := exceptionsAt rd g
  (List.range 64).flatMap (fun n =>
    let r := regionAt rd g n
    if r.valid && !r.remote then
      (List.range r.lh).flatMap (fun ly => (List.range r.lw).map (fun lx =>
        let t := match exc.find? (fun e => e.2.1 = n && e.2.2.1 = lx && e.2.2.2.1 = ly) with
          | some e => e.2.2.2.2
          | none => (r.y0 + ly) * 48 + r.x0 + lx
        (t, ⟨g, n, lx, ly⟩)))
    else [])

/-- Tiles that the default rule gives to slots, and those that exception entries give (R98). -/
def defaultTiles (rd : Nat → Word) (g : Nat) : List Nat :=
  let exc := exceptionsAt rd g
  ((slotsAt rd g).filter (fun p => !exc.any (fun e => e.2.1 = p.2.region && e.2.2.1 = p.2.lx && e.2.2.2.1 = p.2.ly))).map (·.1)
def exceptionTiles (rd : Nat → Word) (g : Nat) : List Nat := (exceptionsAt rd g).map (fun e => e.2.2.2.2)

/-- Every router of a grove takes the tables in force (R100, R109). No slot is mapped to a knot: one that the tables send there has no
tile (R105; log entry 84). -/
def Chan.mapSlots (c : Chan) (g : Nat) : Chan :=
  let cleared : Chan := { c with tiles := c.tiles.map (fun p =>
    (p.1, if (p.2.slot.map (·.grove)) = some g then { p.2 with slot := none } else p.2)) }
  (slotsAt cleared.reg g).foldl (fun c p => if p.1 < channelTiles && !c.isKnot p.1 then c.setTile p.1 { c.tile p.1 with slot := some p.2 } else c) cleared

/-- Manhattan distance between tiles. -/
def tileDist (a b : Nat) : Nat := (a % 48 - b % 48) + (b % 48 - a % 48) + ((a / 48 - b / 48) + (b / 48 - a / 48))

/-- The tile of a list nearest to `i`, ties to the lower Y and then the lower X (R104). -/
def nearest (i : Nat) : List Nat → Option Nat
  | [] => none
  | a :: t =>
    match nearest i t with
    | none => some a
    | some b => if tileDist i a < tileDist i b || (tileDist i a = tileDist i b && a < b) then some a else some b

/-- The tile that replaces one (R104): nearest free in its field, else nearest free in the channel. -/
def Chan.pickTile (c : Chan) (i : Nat) : Option Nat :=
  match nearest i ((fieldTiles (fieldOf i)).filter c.isFree) with
  | some t => some t
  | none => nearest i ((List.range channelTiles).filter c.isFree)

/-! ## Flits -/

/-- Where an interface meets the mesh, for a frame with link sequence `q` (R20, R22, R238). R20 puts the stream ports' edge routers
in row Y = 0 at the X = 0 and X = 47 ends: the corner tiles are taken (log entry 78). -/
def ifRouter (i q : Nat) : Nat × Nat :=
  match i with
  | 0 => (0, 0)
  | 1 => (47, 0)
  | 2 => (0, 7 + 5 * (q % 16))
  | 3 => (47, 7 + 5 * (q % 16))
  | _ => (1 + 3 * (q % 16), 89)

/-- Check a flit's transfer code under an error pattern (R94, R276): corrected up to 8 bits, reported up to 16, longer
not guaranteed (log entry 7). `i` is the tile whose router checks. -/
def Chan.checkFlit (c : Chan) (i : Nat) (f : Flit) (err : BitVec 544) : Flit × Chan :=
  match codeClass 8 16 err.toNat 544 with
  | .clean => (f, c)
  | .corrected => (f, (c.setFld (F.TILE_STATUS_ECC_CE.sh (tileSlot i)) 1).count (F.TILE_ECC_CE_COUNT_FLIT_CE.sh (tileSlot i)))
  | .reported => ({ f with bad := true }, c)
  | .open_ =>
    match Config.beyondTransfer c.free (transferWord f.data ^^^ err).toNat with
    | some d => ({ f with data := d }, { c with free := c.free + 1 })
    | none => ({ f with bad := true }, { c with free := c.free + 1 })

def setAt {α : Type} (l : List α) (k : Nat) (v : α) : List α := l.take k ++ [v] ++ l.drop (k + 1)
def removeAt {α : Type} (l : List α) (k : Nat) : List α := l.take k ++ l.drop (k + 1)

/-- One hop in dimension order: along X first, then along Y (R107); the flit enters the port that faces where it came from. A flit
that waits at its source enters the local port of its own router (R94). -/
def Flit.hop (f : Flit) : Flit :=
  if f.port = 5 then { f with port := 4 }
  else if f.x < f.dx then { f with x := f.x + 1, port := 3 } else if f.dx < f.x then { f with x := f.x - 1, port := 2 }
  else if f.y < f.dy then { f with y := f.y + 1, port := 0 } else if f.dy < f.y then { f with y := f.y - 1, port := 1 } else f

/-- An earlier flit of the same source, destination and virtual channel goes first (R107). -/
def blockedFlit (l : List Flit) (k : Nat) (f : Flit) : Bool :=
  (l.take k).any (fun e => e.src = f.src && e.dx = f.dx && e.dy = f.dy && e.vc = f.vc && e.x = f.x && e.y = f.y &&
    (e.port = 5) = (f.port = 5))

/-- Flits that a router's input buffer of a port and virtual channel holds; it has room for 8, and a credit stands for each free
place (R94). -/
def Chan.inBuffer (c : Chan) (f : Flit) : Nat :=
  (c.flits.filter (fun e => e.x = f.x && e.y = f.y && e.port = f.port && e.vc = f.vc)).length

/-- `ROUTER_FLIT` (R94, R107): one hop, where the next input buffer has a free place. -/
def execRouterFlit (c : Fin 8) (idx : Nat) (err : BitVec 544) (s : State) : Host.Outcome State Fault Refusal :=
  chanStep s c (fun c =>
    match c.flits[idx]? with
    | none => c
    | some f =>
      if (f.port ≠ 5 && f.x = f.dx && f.y = f.dy) || blockedFlit c.flits idx f || 8 ≤ c.inBuffer f.hop then c
      else
        let g := f.hop
        let (g1, c1) := c.checkFlit (g.y * 48 + g.x) g err
        { c1 with flits := setAt c1.flits idx g1 })

/-- A line has come to the interface that sends it (R110): the last of a frame sends the frame. A line that was reported
uncorrectable on its way cannot be sent: the frame is lost and its grove faults (log entry 78). -/
def Chan.lineOut (c : Chan) (src i : Nat) (f : Frame) (last : Bool) (data : BitVec 512) (bad : Bool) : Chan :=
  let had := (mapFind c.building src).getD []
  if bad then
    let c1 : Chan := { c with flits := c.flits.filter (fun e => !(e.src = src && (e.fin = .egress i f true || e.fin = .egress i f false))), building := mapDel c.building src }
    match c1.groveOfJob f.job with
    | some g => c1.groveFault g .hwFault
    | none => c1
  else
    let b := had ++ leBytes 64 data.toNat
    if last then (({ c with building := mapDel c.building src } : Chan).toEgress i ⟨5, 0, { f with payload := .raw (b.take f.plen) }⟩).1
    else { c with building := mapPut c.building src b }

/-- Whether ACLK runs in a tile: its SRAM and semaphores take nothing while its field is gated (R66, R387). -/
def Chan.aclkOn (c : Chan) (i : Nat) : Bool :=
  (c.st = .bringup || c.st = .ready || c.st = .running || c.st = .frozen) && bits (c.fld F.TH_TJ_STOPPED) (fieldOf i) 1 = 0

/-- `FLIT_EJECT` (R85, R94, R108, R110, R280). -/
def execFlitEject (c : Fin 8) (idx : Nat) (err : BitVec 544) (s : State) : Host.Outcome State Fault Refusal :=
  chanStep s c (fun c =>
    match c.flits[idx]? with
    | none => c
    | some f0 =>
      let i := f0.dy * 48 + f0.dx
      if f0.port = 5 || f0.x ≠ f0.dx || f0.y ≠ f0.dy || blockedFlit c.flits idx f0 then c
      else
        let (f, c1) := c.checkFlit i f0 err
        let c2 : Chan := { c1 with flits := removeAt c1.flits idx }
        match f.fin with
        | .egress o fr last => c2.lineOut f.src o fr last f.data f.bad
        | .sram g addr post =>
          if !c.aclkOn i then c
          else if ((c2.tile i).slot.map (·.grove)) ≠ some g then
            ((c2.count F.CTL_UND_FREE_MISROUTE).event .hwFault 0 0x0004 (some g) (argNone)).groveFault g .hwFault
          else
            let c3 := c2.sramWrite i addr (leBytes 64 f.data.toNat)
            let c4 := if f.bad then c3.setTile i { c3.tile i with poison := enqueue (c3.tile i).poison (addr / 64) } else c3
            match post with
            | some (x, sem) => { c4 with due := c4.due ++ [⟨i, x, sem⟩] }
            | none => c4)

/-- `REMOTE_POST` (R85): the destination semaphore of a SEND whose last line has been written; an overflow faults the
destination tile with agent 3 and line 0. -/
def execRemotePost (t : TileRef) (x : Fin 2) (sem : BitVec 4) (s : State) : Host.Outcome State Fault Refusal :=
  chanStep s t.ch (fun c =>
    let i := tileIdx t
    let d : DuePost := ⟨i, x.val, sem.toNat⟩
    if c.aclkOn i && c.due.contains d then ({ c with due := c.due.erase d } : Chan).post i x sem.toNat 3 0 else c)

/-! ## Scrubbing (R279) -/

/-- `SRAM_SCRUB` (R278, R279): a line that waits for its write-back goes ahead of the patrol. -/
def execSramScrub (t : TileRef) (err : LineErr) (s : State) : Host.Outcome State Fault Refusal :=
  chanStep s t.ch (fun c =>
    let i := tileIdx t
    if !c.aclkOn i || c.fld F.HBM_SCRUB_CFG_SRAM_EN = 0 then c
    else
      let tl := c.tile i
      let line := tl.scrubQ.headD tl.scrub
      let r := c.sramLine i line err
      let t1 := r.2.tile i
      r.2.setTile i { t1 with
        sram := match r.1 with | some b => cellWrite t1.sram (line * 64) b | none => t1.sram
        scrub := if tl.scrubQ = [] then (line + 1) % 24576 else tl.scrub
        scrubQ := if tl.scrubQ = [] then [] else tl.scrubQ.tail })

/-- Line `k` of stack `h` (R269). -/
def stackLine (h k : Nat) : Nat := (k / 4 * 3 + h) * 4 + k % 4

/-- The patrol of a stack goes on; once every stack has ended one more pass, a pass is complete (R279, R282). -/
def Chan.patrolOn (c : Chan) (h : Nat) : Chan :=
  let k := c.scrubPos.getD h 0 + 1
  let done := k = 562500000
  let ends := if done then setAt c.scrubEnd h (c.scrubEnd.getD h 0 + 1) else c.scrubEnd
  let c1 : Chan := { c with scrubPos := setAt c.scrubPos h (k % 562500000), scrubEnd := ends }
  if done && decide (minOr (ends.getD h 0) c.scrubEnd < minOr (ends.getD h 0) ends) then
    (c1.setFld F.HBM_STATUS_SCRUB_PASS 1).count F.HBM_SCRUB_PASS_PASSES
  else c1

/-- `HBM_SCRUB` (R278-R280): no dirty bit; a listed or uncorrectable line is not written. A line of the stack that waits for its
write-back goes ahead of the patrol. -/
def execHbmScrub (c : Fin 8) (stack : Fin 3) (err : LineErr) (s : State) : Host.Outcome State Fault Refusal :=
  chanStep s c (fun c =>
    if c.fld F.HBM_SCRUB_CFG_HBM_EN = 0 || bits (c.fld F.HBM_STATUS_STACK_UP) stack.val 1 = 0 then c
    else
      let first := c.scrubQ.find? (fun l => stackOf l = stack.val)
      let line := first.getD (stackLine stack.val (c.scrubPos.getD stack.val 0))
      let r := c.readLine line [(line, err)]
      let c1 : Chan := match r.1 with
        | some b => { r.2 with hbm := cellWrite r.2.hbm (line * 64) b }
        | none => r.2
      if first.isSome then { c1 with scrubQ := c.scrubQ.filter (· ≠ line) } else ({ c1 with scrubQ := c.scrubQ } : Chan).patrolOn stack.val)

/-! ## Tile data between channels (R110, R111) -/

/-- The flits of a tile data frame from the interface's router to tile `t` (R107, R110). -/
def frameFlits (i : Fin 5) (t g : Nat) (f : Frame) : List Flit :=
  let (x, y) := ifRouter i f.lseq
  let lines := chunksOf 128 64 f.payload.bytes
  lines.zipIdx.map (fun p =>
    { x := x, y := y, dx := t % 48, dy := t / 48, vc := 1, port := 5, data := lineNat (slice p.1 0 64), bad := false, src := y * 48 + x,
      fin := .sram g (f.shard + 64 * p.2)
        (if p.2 + 1 = lines.length && f.flags.getLsbD 2 && bits f.mb 0 4 ≠ 0 then some (bits f.mb 4 1, bits f.mb 0 4) else none) : Flit })

/-- A frame for a member grove that is not here or FAULTED is discarded: counted, logged, and the job's coordinator is told (R111, R132).
Where the channel has no member of the job, the attempt and the step that the report names are free (log entry 20). -/
def Chan.dropMember (c : Chan) (f : Frame) (g : Option Nat) : Chan :=
  let c1 := (({ c with dropped := c.dropped + 1 } : Chan).takeFrame (fun x => x = f)).event .hwFault 4 0 g argNone
  match g with
  | some g =>
    let v := c1.grove g
    c1.sendCtl v.coord v.job (.stepFault v.verdict.attempt v.job v.step Status.hwFault.code 0)
  | none =>
    let r := c1.draw
    r.2.sendCtl (Config.jobCoord f.job) f.job (.stepFault (r.1 % 2) f.job (r.1 / 2 % 2 ^ 32) Status.hwFault.code 0)

/-- `TILE_DATA_FRAME` (R110, R111): delivered over the mesh, held while the member is PAUSED or frozen, or discarded with
an event to the coordinator. The frame's TENSOR names region, lx and ly, SHARD the SRAM address, MB the semaphore of the
last frame (log entry 20). -/
def execTileDataFrame (c : Fin 8) (i : Fin 5) (f : Frame) (s : State) : Host.Outcome State Fault Refusal :=
  chanStep s c (fun c =>
    match c.groveOfJob f.job with
    | none => c.dropMember f none
    | some g =>
      let v := c.grove g
      if v.st = .faulted then c.dropMember f (some g)
      else if v.st = .paused || v.replay then c
      else
        let n := bits f.tensor 0 8
        let lx := bits f.tensor 8 8
        let ly := bits f.tensor 16 8
        let r := regionAt c.reg g n
        let c1 := c.takeFrame (fun x => x = f)
        if 64 ≤ n || !r.valid || r.remote || r.lw ≤ lx || r.lh ≤ ly then c1.event .hwFault 4 0 (some g) (argNone)
        else
          { c1 with flits := c1.flits ++ frameFlits i (slotTile c.reg g n lx ly) g f })

end Sys2Proof.Machine
end

