-- ==== Sys2Proof/Machine/JobMap.lean ====
section
/-! DEFINITION. What the job map, a weight manifest and the fabric tables hold, read from bytes (R121, R126, R128,
R176, R185, R187, R227, R264, R301). -/

namespace Sys2Proof.Machine

/-! ## The image (R301) -/

def Grove.sec (v : Grove) (t : Nat) : Option Section := v.sections.find? (fun x => x.typ = t)

/-- Byte address of a section in HBM. -/
def Grove.secAddr (v : Grove) (t : Nat) : Nat := v.image * 64 + ((v.sec t).map (·.off)).getD 0

/-- The bytes of a section; none reads empty. -/
def Chan.secBytes (c : Chan) (v : Grove) (t : Nat) : Bytes :=
  match v.sec t with
  | some x => c.hbmRead (v.image * 64 + x.off) x.len
  | none => []

/-- An entry of the weight tensor list (R301). -/
structure WTensor where
  id    : Nat
  tier  : Nat
  fmt   : Nat
  flags : Nat
  dims  : List Nat
  roles : List (Nat × Nat)
  rsvOk : Bool
deriving DecidableEq, Repr

def WTensor.trained (t : WTensor) : Bool := t.flags % 2 = 1

/-- The roles after a tensor entry: layer and operand. -/
def parseRoles (b : Bytes) (n : Nat) : List (Nat × Nat) := (List.range n).map (fun k => (leAt b (8 * k) 4, leAt b (8 * k + 4) 1))

/-- Weight tensor entries; the first argument bounds their number. -/
def parseTensors : Nat → Bytes → List WTensor
  | 0, _ => []
  | n + 1, b =>
    if b.length < 32 then []
    else
      let nr := leAt b 7 1
      let rest := b.drop 32
      let t : WTensor :=
        { id := leAt b 0 4, tier := leAt b 4 1, fmt := leAt b 5 1, flags := leAt b 6 1
          dims := [leAt b 8 4, leAt b 12 4, leAt b 16 4, leAt b 20 4], roles := parseRoles rest nr
          rsvOk := decide (leAt b 24 8 = 0) && decide (leAt b 0 4 < 2 ^ 24) && decide (leAt b 6 1 < 2) &&
            (List.range nr).all (fun k => leAt rest (8 * k + 5) 3 = 0) && decide (8 * nr ≤ rest.length) }
      t :: parseTensors n (rest.drop (8 * nr))

def Chan.tensors (c : Chan) (v : Grove) : List WTensor :=
  let b := c.secBytes v 0x04
  parseTensors (b.length / 32) b

/-- Rows and columns of a tensor (R184). -/
def WTensor.din (t : WTensor) : Nat := t.dims.getD 0 0
def WTensor.dout (t : WTensor) : Nat := t.dims.getD 1 0

/-! ## Residencies (R126, R128) -/

structure Residency where
  ord     : Nat
  first   : Nat
  nchunk  : Nat
  reader  : Nat
  group   : Nat
  entries : Nat
  ndest   : Nat
  fanout  : Nat
  scatter : Nat
deriving DecidableEq, Repr

def parseResidency (b : Bytes) : Residency :=
  ⟨leAt b 0 4, leAt b 4 4, leAt b 8 4, leAt b 12 2, leAt b 14 2, leAt b 16 2, leAt b 18 2, leAt b 20 1, leAt b 24 8⟩

def Chan.residencies (c : Chan) (v : Grove) : List Residency :=
  let b := c.secBytes v 0x05
  (chunksOf (b.length / 32) 32 b).map parseResidency

def Residency.covers (r : Residency) (chunk : Nat) : Bool := decide (r.first ≤ chunk) && decide (chunk < r.first + r.nchunk)

/-- Ports of an entry map, in rising order (R129). -/
def entryPorts (m : Nat) : List Nat := (List.range 16).filter (fun n => bits m n 1 = 1)

/-- The group and the entry port of a chunk ordinal (R129). -/
def Residency.route (r : Residency) (q : Nat) : Nat × Nat :=
  let e := entryPorts r.entries
  (r.group + q % max e.length 1, e.getD (q % max e.length 1) 0)

/-- The valid destinations of frame `f` of chunk ordinal `q`: region, lx, ly, first line (R128). -/
def Chan.scatterOf (c : Chan) (r : Residency) (q f : Nat) : List (Nat × Nat × Nat × Nat) :=
  (List.range r.fanout).filterMap (fun d =>
    let e := leNat (c.hbmRead (r.scatter * 64 + ((q * 512 + f) * r.fanout + d) * 8) 8)
    if bits e 0 1 = 1 then some (bits e 1 6, bits e 7 6, bits e 13 7, bits e 20 15) else none)

/-! ## Prune masks (R176) -/

structure Mask where
  tensor : Nat
  gran   : Nat
  nbits  : Nat
  bitmap : Bytes
deriving DecidableEq, Repr

/-- Masks of section 0x0A, back to back (log entry 22); the first argument bounds their number. -/
def parseMasks : Nat → Bytes → List Mask
  | 0, _ => []
  | n + 1, b =>
    if b.length < 16 then []
    else
      let k := (leAt b 8 4 + 7) / 8
      ⟨leAt b 0 4, leAt b 4 1, leAt b 8 4, slice b 16 k⟩ :: parseMasks n (b.drop (16 + k))

def Chan.masks (c : Chan) (v : Grove) : List Mask :=
  let b := c.secBytes v 0x0A
  parseMasks (b.length / 16) b

def Mask.bit (m : Mask) (i : Nat) : Bool := (m.bitmap.getD (i / 8) 0).getLsbD (i % 8)

/-- Whether element (row, col) of a tensor with `dout` columns is pruned. -/
def Mask.pruned (m : Mask) (dout row col : Nat) : Bool :=
  if m.gran = 0 then m.bit row else m.bit (row / 32 * ((dout + 31) / 32) + col / 32)

/-! ## Shards and egress (R185, R187) -/

structure Shard where
  num    : Nat
  tensor : Nat
  first  : Nat
  nblock : Nat
  expect : Nat
  owner  : Nat
  tree   : Nat
  tree2  : Nat
  kshift : Nat
  sflags : Nat
  g0     : Int
  rsvOk  : Bool
deriving DecidableEq, Repr

def parseShard (b : Bytes) : Shard :=
  { num := leAt b 0 3, tensor := leAt b 4 3, first := leAt b 8 4, nblock := leAt b 12 2, expect := leAt b 14 2
    owner := leAt b 16 2, tree := leAt b 18 2, tree2 := leAt b 20 2, kshift := leAt b 22 1, sflags := leAt b 23 1
    g0 := signed 8 (leAt b 24 1)
    rsvOk := decide (leAt b 3 1 = 0) && decide (leAt b 7 1 = 0) && decide (leAt b 23 1 < 2) && decide (leAt b 25 7 = 0) }

/-- Shards of the table at a line (R216). -/
def Chan.shardsAt (c : Chan) (line : Nat) : List Shard :=
  (List.range (leNat (c.hbmRead (line * 64) 4))).map (fun k => parseShard (c.hbmRead (line * 64 + 64 + 32 * k) 32))

structure EgEntry where
  shard   : Nat
  block   : Nat
  half    : Nat
  thinned : Bool
  valid   : Bool
deriving DecidableEq, Repr

def parseEg (e : Nat) : EgEntry := ⟨bits e 0 24, bits e 24 14, bits e 38 1, bits e 39 1 = 1, bits e 40 1 = 1⟩

/-- Egress entries of the table at a line: they follow its shards (R187, R216). -/
def Chan.egressAt (c : Chan) (line : Nat) : List EgEntry :=
  let a := line * 64 + 64 + 32 * leNat (c.hbmRead (line * 64) 4)
  (List.range (leNat (c.hbmRead (line * 64 + 4) 4))).map (fun k => parseEg (leNat (c.hbmRead (a + 8 * k) 8)))

def redOff (g : Nat) : Nat := g * 0x40

def Chan.redLine (c : Chan) (g : Nat) : Nat := c.fld (F.RED_GRV_TABLE_TABLE_LINE.sh (redOff g))
def Chan.shards (c : Chan) (g : Nat) : List Shard := c.shardsAt (c.redLine g)
def Chan.egress (c : Chan) (g : Nat) : List EgEntry := c.egressAt (c.redLine g)
def Chan.shard (c : Chan) (g n : Nat) : Option Shard := (c.shards g).find? (fun x => x.num = n)

/-- Block columns of a tensor (R184). -/
def blockCols (dout : Nat) : Nat := (dout + 63) / 64

/-- Row and column of element (t, c) of a gradient block. -/
def elemPos (dout blk t col : Nat) : Nat × Nat := (blk / blockCols dout * 32 + t, blk % blockCols dout * 64 + col)

/-- What pruning and padding leave out of a block: 2,048 flags, true where the element is padding or pruned. -/
def skipBits (t : WTensor) (m : Option Mask) (blk : Nat) : List Bool :=
  (List.range 2048).map (fun i =>
    let (r, k) := elemPos t.dout blk (i / 64) (i % 64)
    decide (t.din ≤ r) || decide (t.dout ≤ k) || (match m with | some m => m.pruned t.dout r k | none => false))

/-- Whether a gradient block is wholly pruned (R186): every element of the tensor in it is pruned. -/
def blockPruned (t : WTensor) (m : Option Mask) (blk : Nat) : Bool :=
  match m with
  | none => false
  | some _ => (skipBits t m blk).all id

/-- The tensor and mask of a shard. -/
def Chan.tensorOf (c : Chan) (g id : Nat) : Option WTensor := (c.tensors (c.grove g)).find? (fun t => t.id = id)
def Chan.maskOf (c : Chan) (g id : Nat) : Option Mask := (c.masks (c.grove g)).find? (fun m => m.tensor = id)

/-- Blocks of a shard, by number in the shard, that are not wholly pruned (R186). -/
def Chan.liveBlocks (c : Chan) (g : Nat) (s : Shard) : List Nat :=
  match c.tensorOf g s.tensor, c.maskOf g s.tensor with
  | some t, some m => (List.range s.nblock).filter (fun b => !blockPruned t (some m) (s.first + b))
  | _, _ => List.range s.nblock

/-- Valid thinned entries of an egress table: Nt of R191. -/
def thinnedCount (l : List EgEntry) : Nat := (l.filter (fun e => e.valid && e.thinned)).length

/-! ## Trees (R264) -/

structure TreeSrc where
  node   : Nat
  ifx    : Nat
  backup : Bool
  idx    : Nat
deriving DecidableEq, Repr

structure TreeEntry where
  valid    : Bool
  root     : Bool
  combine  : Bool
  leaf     : Bool
  parentIf : Nat
  parent   : Nat
  sources  : List TreeSrc
deriving DecidableEq, Repr

/-- The channel's tree entry for a tree id; an entry that R264 calls not valid reads so. -/
def Chan.treeEntry (c : Chan) (id : Nat) : TreeEntry :=
  let b := c.hbmRead (c.fld F.SP_TREE_LINE_LINE * 64 + 64 * id) 64
  let fl := leAt b 0 1
  let n := leAt b 4 1
  let srcs := (List.range (min n 14)).map (fun k =>
    let e := leAt b (8 + 4 * k) 4
    (⟨bits e 0 16, bits e 16 8, bits e 31 1 = 1, bits e 24 4⟩ : TreeSrc))
  let ifOk (i : Nat) : Bool := hasIf c.idx i
  let ok := bits fl 0 1 = 1 && n ≤ 14 && id < 0xFFFF && (bits fl 1 1 = 1 || ifOk (leAt b 1 1)) &&
    srcs.all (fun x => x.ifx = 7 || ifOk x.ifx)
  ⟨ok, bits fl 1 1 = 1, bits fl 2 1 = 1, bits fl 3 1 = 1, leAt b 1 1, leAt b 2 2, srcs⟩

/-- The tree of a shard: the second one for second-path frames (R265). -/
def Shard.treeOf (s : Shard) (second : Bool) : Nat := if second then s.tree2 else s.tree

/-! ## Manifests (R121) -/

structure MTensor where
  id       : Nat
  fmt      : Nat
  rank     : Nat
  tflags   : Nat
  dims     : List Nat
  image    : Nat
  first    : Nat
  count    : Nat
  masterOf : Nat
  rsvOk    : Bool
deriving DecidableEq, Repr

structure MChunk where
  digest : Bytes
  tensor : Nat
  len    : Nat
  off    : Nat
deriving DecidableEq, Repr

def parseMTensor (b : Bytes) : MTensor :=
  { id := leAt b 0 4, fmt := leAt b 4 1, rank := leAt b 5 1, tflags := leAt b 6 1
    dims := [leAt b 8 4, leAt b 12 4, leAt b 16 4, leAt b 20 4], image := leAt b 24 8, first := leAt b 32 4, count := leAt b 36 4
    masterOf := leAt b 40 4, rsvOk := decide (leAt b 7 1 = 0) && decide (leAt b 44 20 = 0) && decide (leAt b 6 1 < 4) }

def parseMChunk (b : Bytes) : MChunk := ⟨slice b 0 32, leAt b 32 4, leAt b 36 4, leAt b 40 8⟩

def mTensors (m : Bytes) : List MTensor := (List.range (leAt m 8 4)).map (fun k => parseMTensor (slice m (64 + 64 * k) 64))
def mChunks (m : Bytes) : List MChunk :=
  (List.range (leAt m 12 4)).map (fun k => parseMChunk (slice m (64 + 64 * leAt m 8 4 + 48 * k) 48))
def manifestLen (m : Bytes) : Nat := 64 + 64 * leAt m 8 4 + 48 * leAt m 12 4 + 1280

/-- A slot of a grove and its chunk table. -/
def Grove.wslot (v : Grove) (k : Nat) : WSlot := if k = 0 then v.ws.slot0 else v.ws.slot1
def Grove.setWslot (v : Grove) (k : Nat) (w : WSlot) : Grove :=
  { v with ws := if k = 0 then { v.ws with slot0 := w } else { v.ws with slot1 := w } }

def WSlot.chunk (w : WSlot) (k : Nat) : Option MChunk := (mChunks w.manifest)[k]?

/-- The digest that a chunk must have in a step: the one sent for that step; for the step the manifest serves, and for a
tensor that receives no dW, the manifest's (R139, R213). -/
def WSlot.digestOf (w : WSlot) (trained : Bool) (chunk step : Nat) : Option Bytes :=
  match (w.digests.reverse).find? (fun d => d.chunk = chunk && d.step = step) with
  | some d => some d.digest
  | none => if !trained || step = w.base then (w.chunk chunk).map (·.digest) else none

/-! ## Optimizer table (R227) -/

structure OptEntry where
  line    : Nat            -- byte address of the entry
  tensor  : Nat
  kind    : Nat
  variant : Nat
  b1 : Nat
  b2 : Nat
  eps : Nat
  wd : Nat
  gscale : Nat
  clip : Nat
  user : Nat
  lrCount : Nat
  lrLine : Nat
  p1 : Nat
  p2 : Nat
  t : Nat
deriving DecidableEq, Repr

def parseOpt (a : Nat) (b : Bytes) : OptEntry :=
  ⟨a, leAt b 0 3, leAt b 4 1, leAt b 5 1, leAt b 8 4, leAt b 12 4, leAt b 16 4, leAt b 20 4, leAt b 24 4, leAt b 28 4, leAt b 32 4,
   leAt b 36 4, leAt b 40 8, leAt b 48 4, leAt b 52 4, leAt b 56 4⟩

def Chan.optEntries (c : Chan) (g : Nat) : List OptEntry :=
  let a := c.fld (F.CKP_UPD_GRV_TABLE_TABLE_LINE.sh (redOff g)) * 64
  (List.range (leNat (c.hbmRead a 4))).map (fun k => parseOpt (a + 64 + 64 * k) (c.hbmRead (a + 64 + 64 * k) 64))

end Sys2Proof.Machine
end

