-- ==== Sys2Proof/Machine/Link.lean ====
section
/-! DEFINITION. The Cimor link: frames in and out, credits, replay, link states, audits, routing tables (R236-R267). -/

namespace Sys2Proof.Machine

/-! ## Frame headers (R239-R245) -/

/-- Header bytes 0-59 (R240). -/
def frameHeader (f : Frame) : Bytes :=
  leBytes 1 f.typ ++ leBytes 1 f.vl ++ leBytes 2 f.lseq ++ leBytes 2 f.src ++ leBytes 2 f.dst ++ leBytes 2 f.job ++ leBytes 1 f.grove
    ++ leBytes 1 f.fmt ++ leBytes 4 f.tensor ++ leBytes 4 f.shard ++ leBytes 4 f.step ++ leBytes 2 f.mb ++ leBytes 2 f.flags.toNat
    ++ leBytes 2 f.plen ++ leBytes 1 f.gexp.toNat ++ leBytes 1 f.hver ++ leBytes 2 f.ccount ++ leBytes 2 f.rsv ++ leBytes 4 f.rseq
    ++ leBytes 20 (f.rsv / 2 ^ 16)

/-- The CRC of a frame (R242). -/
def frameCrc (f : Frame) : Word := crc32 (frameHeader f ++ f.payload.bytes)

/-- Flag bits a type may set (R130, R193, R212 and the control chapters). -/
def typeFlags (t : Nat) : BitVec 16 :=
  match t with
  | 0x01 => 0b0100100
  | 0x02 => 0b1011101
  | 0x03 => 0b1011111
  | 0x04 => 0b1011111
  | 0x05 => 0b0100100
  | 0x06 => 0b0100100
  | 0x07 => 0b0100100
  | 0x09 => 0b0000100
  | _ => 0

/-- Subtypes of control frames that a chapter defines (R135, R208, R210, R214, R244, R358). -/
def usedSubtype (n : Nat) : Bool := (1 ≤ n && n ≤ 6) || (0x10 ≤ n && n ≤ 0x18) || (0x20 ≤ n && n ≤ 0x23) || (0x30 ≤ n && n ≤ 0x35)

/-- Payload bytes that the layout of a link-local message or of a credit/ack frame fixes at 0 (R247, R253, R258). -/
def zeroBytes (typ sub : Nat) : List Nat :=
  if typ = 0x08 then [3, 4, 5, 6, 7] ++ (List.range 40).map (· + 24)
  else if sub = 1 then [15] ++ (List.range 12).map (· + 52)
  else []

/-- A payload given as bytes breaks the layout of its type: a byte fixed at 0, or flag bits of `AFLAGS` (R245, R247, R258). -/
def rawBroken (f : Frame) : Bool :=
  match f.payload with
  | .raw b =>
    (f.typ = 0x07 && !usedSubtype (leAt b 0 1)) || (f.typ = 0x07 || f.typ = 0x08) && (zeroBytes f.typ (leAt b 0 1)).any (fun k => leAt b k 1 ≠ 0)
      || (f.typ = 0x08 && 2 ≤ leAt b 2 1)
  | _ => false

/-- A field that R240, R241 or the type's chapter fixes at 0 is not 0 (R245). -/
def zerosBroken (f : Frame) : Bool :=
  f.rsv ≠ 0 || decide (4 ≤ f.vl) || decide (16 ≤ f.grove) || decide (2 ^ 24 ≤ f.tensor) || decide (2 ^ 24 ≤ f.shard) ||
    (f.flags &&& ~~~ typeFlags f.typ ≠ 0) || (f.flags.getLsbD 5 && decide (4096 ≤ f.dst)) ||
    (f.typ ≠ 0x09 && f.grove ≠ 0) ||
    (f.typ = 0x01 && (f.gexp ≠ 0 || f.ccount ≠ 0 || decide (2 ≤ f.rseq))) ||
    (f.typ = 0x05 && (f.tensor ≠ 0 || f.shard ≠ 0 || f.mb ≠ 0 || f.fmt ≠ 0 || f.gexp ≠ 0 || f.ccount ≠ 0 || f.rseq ≠ 0)) ||
    (f.typ = 0x07 && (f.tensor ≠ 0 || f.shard ≠ 0 || f.step ≠ 0 || f.mb ≠ 0 || f.fmt ≠ 0 || f.gexp ≠ 0 || f.ccount ≠ 0 || f.rseq ≠ 0)) ||
    (f.unsequenced && (f.lseq ≠ 0 || f.vl ≠ 0)) || rawBroken f ||
    (f.typ = 0x08 && (f.job ≠ 0 || f.tensor ≠ 0 || f.shard ≠ 0 || f.step ≠ 0 || f.mb ≠ 0 || f.fmt ≠ 0 || f.gexp ≠ 0 || f.ccount ≠ 0 || f.rseq ≠ 0)) ||
    (f.typ = 0x09 && (f.step ≠ 0 || f.fmt ≠ 0 || f.gexp ≠ 0 || f.ccount ≠ 0 || f.rseq ≠ 0))

/-- A frame that a receiver discards (R40, R244, R245; log entry 79). -/
def badFrame (f : Frame) : Bool :=
  !fmtListed f.fmt || typeLane f.typ = none || typeLane f.typ ≠ some f.vl || decide (8192 < f.plen) || f.hver ≠ 1 || zerosBroken f ||
    (!f.unsequenced && decide (0xFFF0 ≤ f.src)) || (!f.flags.getLsbD 5 && decide (0xFFF0 ≤ f.dst) && decide (f.dst < 0xFFFF)) ||
    (f.dst = 0xFFFF && !f.linkLocal) || (f.linkLocal && f.dst ≠ 0xFFFF) ||
    (match f.payload with
      | .ctl (.other _ _) => true
      | _ => false)

/-! ## The physical layer (R236-R238, R276) -/

/-- The 64-byte units of a frame with their tags: 1 a header unit, 2 a payload unit (R237, R239). -/
def frameUnits (f : Frame) : List (Nat × Bytes) :=
  (1, frameHeader f ++ leBytes 4 (frameCrc f).toNat) ::
    (chunksOf ((f.plen + 63) / 64) 64 f.payload.bytes).map (fun b => (2, slice b 0 64))

/-- The 5,140-bit payload of a codeword: ten units, then their ten 2-bit tags (R237). -/
def codewordPayload (us : List (Nat × Bytes)) : BitVec 5140 :=
  BitVec.ofNat 5140 ((us.zipIdx).foldl (fun a p => a + leNat p.1.2 * 2 ^ (512 * p.2) + p.1.1 * 2 ^ (5120 + 2 * p.2)) 0)

/-- The lane that carries a 10-bit symbol of a codeword (R237). -/
def symbolLane (k : Nat) : Nat := k % 8

/-- The seam link that carries a frame (R238). -/
def seamLink (f : Frame) : Nat := f.lseq % 16

/-- The word of a seam unit: its data with the tag on top, and the check word (R238, R276). -/
def seamWord (u : Nat × Bytes) : BitVec 546 := transferWord (BitVec.ofNat 514 (leNat u.2 + u.1 % 4 * 2 ^ 512))

/-- Symbols in error that RS(544,514) corrects in a codeword (R236). -/
def fecLimit : Nat := 15

/-- Codewords that the FEC corrected, and those that it could not (R236). -/
def fecCorrected (w : Wire) : Nat := (w.symbols.filter (fun n => decide (1 ≤ n) && decide (n ≤ fecLimit))).length
def fecLost (w : Wire) : Nat := (w.symbols.filter (fun n => decide (fecLimit < n))).length

/-- Whether the check bits of a seam unit report it uncorrectable (R238, R276); beyond their guarantee, a constant without a body
says whether (log entry 7). -/
def unitFails (draw : Nat) (u : Nat × Bytes) (e : BitVec 546) : Bool :=
  match codeClass 8 16 e.toNat 546 with
  | .clean => false
  | .corrected => false
  | .reported => true
  | .open_ => (Config.beyondTransfer draw (seamWord u ^^^ e).toNat).isNone

/-- Whether the physical layer brings a frame as a CRC failure: an uncorrectable codeword, a unit that its check bits report, or a
tag that is not the unit's (R237, R238). -/
def wireFails (w : Wire) (draw i : Nat) (f : Frame) : Bool :=
  (if i < 2 then decide (0 < fecLost w)
   else w.units.any (fun p => unitFails draw ((frameUnits f).getD p.1 (0, [])) p.2)) ||
    w.tags.any (fun p => p.2 ≠ ((frameUnits f).getD p.1 (0, [])).1)

/-! ## Interfaces -/

/-- Add to a 64-bit link counter (R268). -/
def Chan.addLink64 (c : Chan) (off i n : Nat) : Chan := { c with bank := c.bank.add64 chanRegs (off + ifOff i) n }

/-- Allotments that the interface announces (R246, R268). -/
def Chan.allot (c : Chan) (i : Nat) : List Nat :=
  [c.linkFld F.SP_VL_CREDIT_01_VL0 i, c.linkFld F.SP_VL_CREDIT_01_VL1 i, c.linkFld F.SP_VL_CREDIT_23_VL2 i, c.linkFld F.SP_VL_CREDIT_23_VL3 i]

def bufferUnits (i : Nat) : Nat := if i < 2 then 16384 else 4096
def replayBytes (i : Nat) : Nat := if i < 2 then 2097152 else 524288

def allotOk (i : Nat) (l : List Nat) : Bool := l.all (fun x => decide (66 ≤ x)) && decide (l.foldl (· + ·) 0 ≤ bufferUnits i)

/-- At training and retraining, allotments that break R246 are replaced by the reset values and logged (R268, R415). -/
def Chan.checkAllot (c : Chan) (i : Nat) : Chan :=
  if allotOk i (c.allot i) then c
  else
    let o1 := R.SP_VL_CREDIT_01 + ifOff i
    let o2 := R.SP_VL_CREDIT_23 + ifOff i
    ((c.putReg o1 (regReset chanRegs o1)).putReg o2 (regReset chanRegs o2)).event .badParam 4 0x0005 none (argFlag o1 0)

/-- Whether an interface is enabled: the channel's state, `ENABLE`, the end exists, and an anchor with fewer than six
bands keeps its seam ends disabled (R24, R250). -/
def Chan.ifEnabled (c : Chan) (i : Nat) : Bool :=
  (c.st = .ready || c.st = .running || c.st = .frozen) && c.linkFld F.SP_LINK_CFG_ENABLE i = 1 && hasIf c.idx i &&
    (i < 2 || c.fld F.CTL_BRINGUP_BANDS = 6)

/-- Units held per lane in occupied cells (R253, R258). -/
def Link.held (l : Link) : List Nat :=
  (List.range 4).map (fun v => (l.cells.filter (fun x => x.lane = v)).foldl (fun a x => a + x.units) 0)

/-- The `HELLO` this interface sends (R258). While it trains, `HELD` is what was held as the physical training ended, from which
its totals of charged and returned units then run (R251, R255; log entry 25). -/
def Chan.helloOf (c : Chan) (serial i : Nat) : Hello :=
  let l := c.link i
  ⟨c.node, serial, c.idx, i, 1, c.fm, l.rxNext, c.allot i, if l.st = .training then l.rxCharged else l.held⟩

def helloFrame (h : Hello) : Frame := { Frame.blank 0x07 0xFFFF (.ctl (.hello h)) with src := h.node }

/-- The credit/ack frame due now (R247). -/
def Link.creditFrame (l : Link) (node : Nat) (nak : Bool) : Frame :=
  { Frame.blank 0x08 0xFFFF (.credit ⟨(l.rxNext + 65535) % 65536, nak, l.returned.map (· % 2 ^ 32)⟩) with src := node }

/-- Queue a credit/ack frame: nothing is then unreported (R247). -/
def Link.queueCredit (l : Link) (node : Nat) (nak : Bool) : Link :=
  { l with control := l.control ++ [l.creditFrame node nak], unacked := 0, timer := false }

/-- Queue a sequenced link-local control frame; a channel without a node id sends none (R256). -/
def Link.queueCtl (l : Link) (node : Nat) (m : CtlMsg) : Link :=
  if node = 0xFFFE then l else { l with control := l.control ++ [{ Frame.blank 0x07 0xFFFF (.ctl m) with src := node }] }

/-- Give back the units of a lane (R142, R247). -/
def Link.giveBack (l : Link) (lane units : Nat) : Link :=
  { l with returned := (l.returned.zipIdx).map (fun q => if q.2 = lane then q.1 + units else q.1), timer := true }

/-- One egress copy of a receive cell is done: the last one frees the cell and returns its credits (R252). -/
def Link.cellDone (l : Link) (id out : Nat) : Link :=
  match l.cells.find? (fun x => x.id = id) with
  | none => l
  | some x =>
    let rest := x.outs.filter (· ≠ out)
    if rest = [] then
      let l1 : Link := { l with cells := l.cells.filter (fun y => y.id ≠ id) }
      if x.units = 0 then l1 else l1.giveBack x.lane x.units
    else { l with cells := l.cells.map (fun y => if y.id = id then { y with outs := rest } else y) }

/-- A frame has left, or been discarded from, an egress interface: its copy in the ingress is done. -/
def Chan.egressDone (c : Chan) (out : Nat) (e : EgressItem) : Chan :=
  if e.src < 5 then c.setLink e.src ((c.link e.src).cellDone e.cell out) else c

/-! ## Link states (R250, R251) -/

/-- A flush (R251): the sender's replay buffer goes, counted; sequences start at 0; tile data lost this way faults its
sending member grove. -/
def Chan.flush (c : Chan) (i : Nat) : Chan :=
  let l := c.link i
  let c1 := ((c.countLink F.SP_DISCARD_COUNT_FLUSHED_FRAMES i l.replay.length).countLink F.SP_LINK_COUNT_FLUSHES i).setLinkFld
    F.SP_LINK_STATUS_FLUSHED i 1
  let c2 := c1.setLink i { l with
    phys := false, heard := false, partner := none, fails := 0, txNext := 0, replay := [], resend := [], charged := [0, 0, 0, 0]
    retSeen := [0, 0, 0, 0], rxNext := 0, window := [], nakSent := false, control := [], unacked := 0, creditedSent := 0
    audit := none, recon := 0
    -- totals restart with the cells that the receiver keeps
    rxCharged := l.held, returned := [0, 0, 0, 0] }
  (l.replay.filter (fun x => x.frame.typ = 0x09 && x.frame.src = c.node)).foldl (fun c x =>
    match c.groveOfJob x.frame.job with
    | some g => c.groveFault g .hwFault
    | none => c) c2

/-- Discard what waits for an egress interface (R252). -/
def Chan.dropEgress (c : Chan) (i : Nat) : Chan :=
  let l := c.link i
  l.egress.foldl (fun c e => (c.destDown i).egressDone i e) (c.setLink i { l with egress := [] })

/-- Disable an interface (R250, R251). -/
def Chan.disableIf (c : Chan) (i : Nat) : Chan :=
  if (c.link i).st = .disabled then c else ((c.dropEgress i).flush i).setLinkState i .disabled

/-- Bring every interface in line with its enable condition (R24, R250). -/
def Chan.refreshLinks (c : Chan) : Chan :=
  (List.range 5).foldl (fun c i =>
    let l := c.link i
    if c.ifEnabled i then (if l.st = .disabled then c.setLinkState i .training else c)
    else c.disableIf i) c

/-! ## Receiving (R238, R245, R249, R252) -/

/-- Discard a frame under R245, counted; an unlisted format code is logged with BAD_PARAM (R40; log entry 79). -/
def Chan.discardBad (c : Chan) (i : Nat) (f : Frame) : Chan :=
  let c1 := (c.countLink F.SP_DISCARD_COUNT_BAD_FRAME i).setLinkFld F.SP_LINK_STATUS_DISCARD i 1
  if fmtListed f.fmt then c1 else c1.event .badParam 4 0 none (argFld (F.SP_LINK_STATUS_DISCARD.sh (ifOff i)) f.fmt)

/-- Deliver one accepted frame: link-local and unassigned-node rules, bad frames, lookup, copies (R245, R252, R256, R260). -/
def Chan.acceptFrame (c : Chan) (i : Nat) (f : Frame) : Chan :=
  let l0 := c.link i
  let units := if f.linkLocal then 0 else f.charge
  let lane := (typeLane f.typ).getD 0
  let l1 : Link := { l0 with
    rxNext := (l0.rxNext + 1) % 65536, nakSent := false, unacked := l0.unacked + 1, timer := true
    rxCharged := (l0.rxCharged.zipIdx).map (fun q => if q.2 = lane then q.1 + units else q.1) }
  let l2 := if l1.unacked = 32 then l1.queueCredit c.node false else l1
  let c1 := (c.setLink i l2).addLink64 R.SP_RX_UNITS_LO i f.units64
  if badFrame f then
    (c1.discardBad i f).setLink i ((c1.link i).giveBack lane units)
  else if f.linkLocal then
    let audits := match f.payload with | .ctl (.audit _) => true | _ => false
    c1.setLink i { c1.link i with
      cells := (c1.link i).cells ++ [⟨l2.nextCell, 0, 0, f, [5]⟩], nextCell := l2.nextCell + 1
      auditAt := if audits then l2.rxCharged else l2.auditAt }
  else if c.node = 0xFFFE then c1.setLink i ((c1.link i).giveBack lane units)
  else
    let outs := c1.route i f
    if outs = [] then
      ((c1.countLink F.SP_DISCARD_COUNT_DEST_DOWN i).setLinkFld F.SP_LINK_STATUS_DEST_DOWN i 1).setLink i ((c1.link i).giveBack lane units)
    else
      let l3 := c1.link i
      let c2 := c1.setLink i { l3 with cells := l3.cells ++ [⟨l3.nextCell, lane, units, f, outs⟩], nextCell := l3.nextCell + 1 }
      let occ := ((c2.link i).held).foldl (· + ·) 0
      let peak : Fld := ⟨R.SP_WS_INGRESS_PEAK, 16 * i, 15⟩
      let c3 := if i < 2 then c2.setFld peak (max (c2.fld peak) occ) else c2
      -- an entry port holds the final frame of a weight chunk until its digest is compared (R131)
      let held := i < 2 && f.typ = 0x01 && f.flags.getLsbD 2 && outs.contains 5
      outs.foldl (fun c o =>
        if o = 5 || held then c
        else
          let r := c.toEgress o ⟨i, l3.nextCell, f⟩
          if r.2 then r.1 else r.1.setLink i ((r.1.link i).cellDone l3.nextCell o)) c3

/-- Accept frames that the seam reorder window holds, while the next expected one is there (R238). -/
def Chan.drainWindow (i : Nat) : Nat → Chan → Chan
  | 0, c => c
  | n + 1, c =>
    let l := c.link i
    match l.window.find? (fun f => f.lseq = l.rxNext) with
    | none => c
    | some f => Chan.drainWindow i n ((c.setLink i { l with window := l.window.filter (fun x => x.lseq ≠ f.lseq) }).acceptFrame i f)

/-- Start replay as a receiver: the window goes, and one NAK is sent per gap (R238, R247, R249). -/
def Chan.sendNak (c : Chan) (i : Nat) : Chan :=
  let l := c.link i
  if l.nakSent then c.setLink i { l with window := [] }
  else
    (c.countLink F.SP_ERR_COUNT_NAKS i).setLink i (({ l with window := [], nakSent := true } : Link).queueCredit c.node true)

/-- Drop from the replay buffer what `ACK` covers (R249). -/
def Link.ackTo (l : Link) (ack : Nat) : Link :=
  match firstIdx (fun x => x.frame.lseq = ack) l.replay with
  | none => l
  | some k =>
    let keep := l.replay.drop (k + 1)
    { l with
      replay := keep.map (fun x => { x with tries := 0 })
      resend := l.resend.filter (fun f => keep.any (fun x => x.frame.lseq = f.lseq)) }

/-- Resend everything from `ACK` + 1 in order; where a frame has been resent 4 times without progress, the link is reset
instead (R249). -/
def Chan.resendAll (c : Chan) (i : Nat) : Chan :=
  let l := c.link i
  if l.replay = [] then c
  else if l.replay.any (fun x => decide (4 ≤ x.tries)) then c.linkReset i
  else
    let l1 : Link := { l with replay := l.replay.map (fun x => { x with tries := x.tries + 1 }), resend := l.replay.map (·.frame) }
    (c.setLink i l1).countLink F.SP_LINK_COUNT_REPLAYS i

/-- Once `ACK` covers everything in a reconciliation, `RECONCILE` is sent again (R254). -/
def Chan.reconNext (c : Chan) (i : Nat) : Chan :=
  let l := c.link i
  if l.recon = 1 && l.replay = [] then c.setLink i (({ l with recon := 2 } : Link).queueCtl c.node .reconcile) else c

/-- Take a credit/ack frame (R247, R249, R254). -/
def Chan.takeCredit (c : Chan) (i : Nat) (a : CreditAck) : Chan :=
  let l := c.link i
  let newer (old new : Nat) : Nat :=
    let d := (new + 2 ^ 32 - old % 2 ^ 32) % 2 ^ 32
    if d < 2 ^ 31 then old + d else old
  let l1 := ({ l with retSeen := (l.retSeen.zipIdx).map (fun q => newer q.1 (a.ret.getD q.2 0)) } : Link).ackTo a.ack
  let c1 := (c.setLink i l1).reconNext i
  if a.nak then c1.resendAll i else c1

/-- `CREDIT_ACK` (R247). -/
def execCreditAck (c : Fin 8) (i : Fin 5) (a : CreditAck) (s : State) : Host.Outcome State Fault Refusal :=
  chanStep s c (fun c => if (c.link i).st = .up then c.takeCredit i a else c)

/-- Whether a `HELLO` can come in on an interface: on a seam end it comes from the end across the seam (R21, R258). -/
def helloFits (c i : Nat) (h : Hello) : Bool :=
  match seamPeer c i with
  | some (k, j) => h.kind = 1 && h.channel = k && h.ifx = j
  | none => true

/-- A `HELLO` from the partner (R250, R251, R258): UP after training, where the sender's outstanding count starts at what the
partner holds; a resume or a flush after a reset; a flush where another partner appears while UP. -/
def Chan.takeHello (c : Chan) (i : Nat) (h : Hello) : Chan :=
  let l := c.link i
  if !l.phys || !helloFits c.idx i h then c
  else if l.st = .training then
    let c1 := c.setLink i { l with partner := some h, heard := true, fails := 0, charged := (List.range 4).map (fun v => h.held.getD v 0), retSeen := [0, 0, 0, 0] }
    c1.setLinkState i .up
  else if l.st = .up then
    if (l.partner.map (fun p => (p.node, p.serial, p.ifx))) = some (h.node, h.serial, h.ifx) then c
    else (c.flush i).setLinkState i .training
  else if l.st = .retrain then
    let same := (l.partner.map (fun p => (p.node, p.serial, p.ifx))) = some (h.node, h.serial, h.ifx)
    let k := (h.rxNext + 65535) % 65536
    let known := h.rxNext = l.txNext || l.replay.any (fun x => x.frame.lseq = h.rxNext)
    if same && known then
      let keep := if h.rxNext = l.txNext then [] else (l.ackTo k).replay
      let out (v : Nat) : Nat := h.held.getD v 0 + (keep.filter (fun x => x.lane = some v)).foldl (fun a x => a + x.charge) 0
      let l1 : Link := { l with
        partner := some h, heard := true, fails := 0, replay := keep.map (fun x => { x with tries := 0 })
        resend := keep.map (·.frame), retSeen := (l.charged.zipIdx).map (fun q => q.1 - out q.2), unacked := 0 }
      (c.setLink i l1).setLinkState i .up
    else (c.flush i).setLinkState i .training
  else c

/-- `HELLO` (R250, R258). -/
def execHello (c : Fin 8) (i : Fin 5) (h : Hello) (s : State) : Host.Outcome State Fault Refusal :=
  chanStep s c (fun c => c.takeHello i h)

/-- Codewords corrected and uncorrectable are counted on a stream port; a seam end has no FEC (R236, R268). -/
def Chan.countFec (c : Chan) (i : Nat) (w : Wire) : Chan :=
  if i < 2 then (c.addLink64 R.SP_FEC_CORR_LO i (fecCorrected w)).countLink ⟨R.SP_FEC_UNCORR, 0, 32⟩ i (fecLost w) else c

/-- `FRAME_RECEIVE` (R236-R238, R242, R245, R249). -/
def execFrameReceive (c : Fin 8) (i : Fin 5) (f : Frame) (crc : Word) (w : Wire) (s : State) : Host.Outcome State Fault Refusal :=
  chanStep s c (fun c0 =>
    let l := c0.link i
    let c := c0.countFec i w
    if !l.phys then c0
    else if wireFails w c.free i f || crc ≠ frameCrc f then
      let c1 := (c.setLinkFld F.SP_LINK_STATUS_CRC_ERR i 1).countLink F.SP_ERR_COUNT_CRC i
      if l.st = .up then c1.sendNak i else c1
    else if f.unsequenced && badFrame f then c.discardBad i f
    else
      match f.payload with
      | .ctl (.hello h) => c.takeHello i h
      | .credit a => if l.st = .up then c.takeCredit i a else c
      | _ =>
        if l.st ≠ .up then c
        else
          let d := (f.lseq + 65536 - l.rxNext) % 65536
          if d = 0 then Chan.drainWindow i 16 (c.acceptFrame i f)
          else if i.val < 2 then (if d < 32768 then c.sendNak i else c)
          else if d < 16 then (if l.window.any (fun x => x.lseq = f.lseq) then c else c.setLink i { l with window := l.window ++ [f] })
          else if d < 32768 && d % 16 = 0 then c.sendNak i
          else c)

/-! ## Sending (R246, R248, R249) -/

/-- Available credit of a lane (R247). -/
def Link.credit (l : Link) (v : Nat) : Nat :=
  ((l.partner.map (fun h => h.allot.getD v 0)).getD 0) - (((l.charged.getD v 0 : Int) - l.retSeen.getD v 0) % 2 ^ 32).toNat

/-- Whether a sequenced frame may go: fewer than 32,768 unacknowledged, and room in the replay buffer (R249). -/
def Link.room (l : Link) (i : Nat) (f : Frame) : Bool :=
  decide (l.replay.length < 32768) && decide ((l.replay.foldl (fun a x => a + 64 * x.frame.units64) 0) + 64 * f.units64 ≤ replayBytes i)

/-- Whether lane `v` has a frame ready that its credit covers, and that frame. -/
def Link.ready (l : Link) (i v : Nat) : Option EgressItem :=
  match l.egress.find? (fun e => (typeLane e.frame.typ).getD 0 = v) with
  | some e => if l.recon = 0 && e.frame.charge ≤ l.credit v && l.room i e.frame then some e else none
  | none => none

/-- The next credited frame: VL0 first, then VL1-VL3 in round robin (R248). -/
def Link.pick (l : Link) (i : Nat) : Option EgressItem :=
  match l.ready i 0 with
  | some e => some e
  | none => ([0, 1, 2].map (fun k => 1 + (l.rr - 1 + k) % 3)).findSome? (fun v => l.ready i v)

/-- Send one frame (R242, R248). -/
def Chan.emitFrame (c : Chan) (i : Nat) (f : Frame) : Chan :=
  ({ c with outbox := c.outbox ++ [.frame i f] } : Chan).addLink64 R.SP_TX_UNITS_LO i f.units64

/-- Send the first link-local control frame: it takes the next sequence (R249). -/
def Chan.sendLocal (c : Chan) (i : Nat) (f : Frame) : Chan :=
  let l := c.link i
  let f1 := { f with lseq := l.txNext }
  (c.setLink i { l with control := l.control.erase f, txNext := (l.txNext + 1) % 65536, replay := l.replay ++ [⟨f1, none, 0, 0⟩] }).emitFrame i f1

/-- `FRAME_TRANSMIT` (R246-R249, R252): credit/ack frames first; frames due again, in their order, before any new sequenced frame;
then link-local control frames, then VL0, then the other lanes. -/
def execFrameTransmit (c : Fin 8) (i : Fin 5) (s : State) : Host.Outcome State Fault Refusal :=
  chanStep s c (fun c =>
    let l := c.link i
    if l.st ≠ .up then c
    else
      match l.control.find? (fun f => f.typ = 0x08), l.resend, l.control.find? (fun f => f.typ ≠ 0x08 && l.room i f) with
      | some f, _, _ => (c.setLink i { l with control := l.control.erase f }).emitFrame i f
      | none, f :: rest, _ => (c.setLink i { l with resend := rest }).emitFrame i f
      | none, [], some f => c.sendLocal i f
      | none, [], none =>
          match l.pick i with
          | none => c
          | some e =>
            let v := (typeLane e.frame.typ).getD 0
            let f1 := { e.frame with lseq := l.txNext }
            let l1 : Link := { l with
              egress := l.egress.erase e, txNext := (l.txNext + 1) % 65536, replay := l.replay ++ [⟨f1, some v, e.frame.charge, 0⟩]
              charged := (l.charged.zipIdx).map (fun q => if q.2 = v then q.1 + e.frame.charge else q.1)
              rr := if v = 0 then l.rr else 1 + v % 3, creditedSent := l.creditedSent + 1 }
            ((c.setLink i l1).emitFrame i f1).egressDone i e)

/-- `CREDIT_ACK_TIMER` (R247). -/
def execCreditAckTimer (c : Fin 8) (i : Fin 5) (s : State) : Host.Outcome State Fault Refusal :=
  chanStep s c (fun c =>
    let l := c.link i
    if l.st = .up && l.timer then c.setLink i (l.queueCredit c.node false) else c)

/-- `REPLAY_TIMEOUT` (R249). -/
def execReplayTimeout (c : Fin 8) (i : Fin 5) (s : State) : Host.Outcome State Fault Refusal :=
  chanStep s c (fun c => if (c.link i).st = .up then c.resendAll i else c)

/-! ## Training, holding, faults (R250, R251) -/

/-- The module serial number (R339). -/
def State.serial (s : State) : Nat := (s.pd.bank.get pdRegs R.PD_SERIAL_LO).toNat + (s.pd.bank.get pdRegs R.PD_SERIAL_HI).toNat * 2 ^ 32

/-- Whether an interface can train: a seam only when its other end is enabled too (R24). -/
def State.seamEnabled (s : State) (c i : Nat) : Bool :=
  match seamPeer c i with
  | some (k, j) => (s.chan k).ifEnabled j
  | none => true

/-- `LINK_TRAINED` (R24, R236, R250, R258, R268). -/
def execLinkTrained (c : Fin 8) (i : Fin 5) (laneRev : Bool) (polInv : Byte) (s : State) : Host.Outcome State Fault Refusal :=
  let serial := s.serial
  let both := s.seamEnabled c i
  chanStep s c (fun c =>
    let l := c.link i
    if l.st ≠ .training || l.phys || !both then c
    else
      let c1 := (c.setLink i { l with phys := true, heard := false, rxCharged := l.held, returned := [0, 0, 0, 0] }).checkAllot i
      let c2 := if i.val < 2 then
          ((c1.setLinkFld F.SP_LINK_STATUS_LANE_LOCK i 0xFF).setLinkFld F.SP_LINK_STATUS_LANE_REV i (if laneRev then 1 else 0)).setLinkFld
            F.SP_LINK_STATUS_POL_INV i polInv.toNat
        else c1
      c2.emitFrame i (helloFrame (c2.helloOf serial i)))

/-- `HELLO_TIMER` (R258). -/
def execHelloTimer (c : Fin 8) (i : Fin 5) (s : State) : Host.Outcome State Fault Refusal :=
  let serial := s.serial
  chanStep s c (fun c =>
    let l := c.link i
    if l.phys && !l.heard then c.emitFrame i (helloFrame (c.helloOf serial i)) else c)

/-- `RETRAIN_END` (R24, R246, R250): a success exchanges `HELLO`; the third failure in a row holds. -/
def execRetrainEnd (c : Fin 8) (i : Fin 5) (ok : Bool) (s : State) : Host.Outcome State Fault Refusal :=
  let serial := s.serial
  let both := s.seamEnabled c i
  chanStep s c (fun c =>
    let l := c.link i
    if l.st ≠ .retrain || l.phys || (ok && !both) then c
    else if ok then
      let c1 := (c.setLink i { l with phys := true, heard := false }).checkAllot i
      let c2 := if i.val < 2 then c1.setLinkFld F.SP_LINK_STATUS_LANE_LOCK i 0xFF else c1
      c2.emitFrame i (helloFrame (c2.helloOf serial i))
    else if l.fails + 1 < 3 then c.setLink i { l with fails := l.fails + 1 }
    else (c.setLink i { l with fails := 3 }).setLinkState i .hold)

/-- `LANE_LOSS` (R250). -/
def execLaneLoss (c : Fin 8) (i : Fin 5) (lanes : Byte) (s : State) : Host.Outcome State Fault Refusal :=
  chanStep s c (fun c =>
    if (c.link i).st ≠ .up || 2 ≤ i.val || lanes = 0 then c
    else (c.setLinkFld F.SP_LINK_STATUS_LANE_LOCK i (BitVec.ofNat 8 (c.linkFld F.SP_LINK_STATUS_LANE_LOCK i) &&& ~~~ lanes).toNat).linkReset i)

/-- `SEAM_SLIP` (R36). -/
def execSeamSlip (c : Fin 8) (e : Fin 3) (sep : Nat) (s : State) : Host.Outcome State Fault Refusal :=
  chanStep s c (fun c =>
    if (c.link (e.val + 2)).st ≠ .up || 8 < sep then c
    else
      let c1 := c.setFld ⟨R.CLK_SEAM_PHASE, 4 * e.val, 4⟩ sep
      if 2 ≤ sep && sep ≤ 6 then c1 else (c1.setFld ⟨R.CLK_STATUS, 8 + e.val, 1⟩ 1).linkReset (e.val + 2))

/-- `LINK_HOLD_EXPIRY` (R250, R251, R267): DOWN, flush, then training again. -/
def execLinkHoldExpiry (c : Fin 8) (i : Fin 5) (s : State) : Host.Outcome State Fault Refusal :=
  chanStep s c (fun c =>
    if (c.link i).st ≠ .hold then c else (((c.setLinkState i .down).dropEgress i).flush i).setLinkState i .training)

/-- `PARTNER_RETURN` (R250). -/
def execPartnerReturn (c : Fin 8) (i : Fin 5) (s : State) : Host.Outcome State Fault Refusal :=
  chanStep s c (fun c =>
    let l := c.link i
    if l.st ≠ .hold then c else (c.setLink i { l with phys := false, heard := false, fails := 0 }).setLinkState i .retrain)

/-- `RX_CELL_UE` (R251): the frame in the cell goes, counted, its credits return. -/
def execRxCellUe (c : Fin 8) (i : Fin 5) (cell : Nat) (s : State) : Host.Outcome State Fault Refusal :=
  chanStep s c (fun c =>
    match (c.link i).cells.find? (fun x => x.id = cell) with
    | none => c
    | some x =>
      let c1 := (List.range 5).foldl (fun c o =>
        let l := c.link o
        c.setLink o { l with egress := l.egress.filter (fun e => !(e.src = i.val && e.cell = cell)) }) c
      let l := c1.link i
      let l1 : Link := { l with cells := l.cells.filter (fun y => y.id ≠ cell) }
      (c1.setLink i (if x.units = 0 then l1 else l1.giveBack x.lane x.units)).countLink F.SP_DISCARD_COUNT_FLUSHED_FRAMES i)

/-- `LINK_STATE_UE` (R251): a flush, then training. -/
def execLinkStateUe (c : Fin 8) (i : Fin 5) (s : State) : Host.Outcome State Fault Refusal :=
  chanStep s c (fun c =>
    let st := (c.link i).st
    if st = .disabled || st = .down then c else (c.flush i).setLinkState i .training)

/-! ## Audits (R253, R254; log entry 25) -/

/-- `AUDIT_SEND` (R253). -/
def execAuditSend (c : Fin 8) (i : Fin 5) (s : State) : Host.Outcome State Fault Refusal :=
  chanStep s c (fun c =>
    let l := c.link i
    if l.st ≠ .up || l.creditedSent < 2 ^ 20 || l.audit ≠ none || l.recon ≠ 0 then c
    else c.setLink i (({ l with audit := some l.charged, creditedSent := 0 } : Link).queueCtl c.node (.audit l.charged)))

/-- Send `RECONCILE` after a mismatch (R253, R254). -/
def Chan.mismatch (c : Chan) (i : Nat) : Chan :=
  (c.setLink i ((c.link i).queueCtl c.node .reconcile)).setLinkFld F.SP_LINK_STATUS_AUDIT_MISMATCH i 1

/-- Take a link-local message out of an interface's receive area. -/
def Chan.takeLocal (c : Chan) (i : Nat) (m : CtlMsg) : Option Chan :=
  ((c.link i).take (fun f => f.payload = .ctl m)).map (fun l => c.setLink i l)

/-- `AUDIT` (R253): the totals are those at the acceptance of `AUDIT`. -/
def execAudit (c : Fin 8) (i : Fin 5) (charged : List Nat) (s : State) : Host.Outcome State Fault Refusal :=
  chanStep s c (fun c =>
    match c.takeLocal i (.audit charged) with
    | none => c
    | some c1 =>
      let l := c1.link i
      let c2 := c1.setLink i (l.queueCtl c1.node (.auditReply false l.auditAt l.returned l.held))
      if charged = l.auditAt then c2 else c2.mismatch i)

/-- `AUDIT_REPLY` (R253, R254). -/
def execAuditReply (c : Fin 8) (i : Fin 5) (corrected : Bool) (charged returned held : List Nat) (s : State) :
    Host.Outcome State Fault Refusal :=
  chanStep s c (fun c =>
    match c.takeLocal i (.auditReply corrected charged returned held) with
    | none => c
    | some c1 =>
      let l := c1.link i
      if corrected then
        if l.recon ≠ 2 then c1
        else if (held.zipIdx).any (fun q => decide (((l.partner.map (fun h => h.allot.getD q.2 0)).getD 0) < q.1)) then
          (c1.countLink F.SP_AUDIT_COUNT_AUDIT_RESETS i).linkReset i
        else
          ((c1.setLink i { l with charged := charged, retSeen := returned, recon := 0, audit := none }).setLinkFld
            F.SP_LINK_STATUS_RECONCILED i 1).countLink F.SP_AUDIT_COUNT_RECONCILES i
      else
        match l.audit with
        | none => c1
        | some sent =>
          if sent = charged && ((l.retSeen.zipIdx).all (fun q => decide (q.1 ≤ returned.getD q.2 0))) then
            (c1.setLink i { l with audit := none }).countLink F.SP_AUDIT_COUNT_AUDITS i
          else ((c1.setLink i { l with recon := 1 }).mismatch i).reconNext i)

/-- `RECONCILE` (R254): the sender of the audit stops credited frames; the receiver corrects its returned totals. -/
def execReconcile (c : Fin 8) (i : Fin 5) (s : State) : Host.Outcome State Fault Refusal :=
  chanStep s c (fun c =>
    match c.takeLocal i .reconcile with
    | none => c
    | some c1 =>
      let l := c1.link i
      if l.audit ≠ none && l.recon = 0 then (c1.setLink i { l with recon := 1 }).reconNext i
      else
        let l1 : Link := { l with returned := (l.rxCharged.zipIdx).map (fun q => q.1 - l.held.getD q.2 0) }
        c1.setLink i (l1.queueCtl c1.node (.auditReply true l1.rxCharged l1.returned l1.held)))

/-- `RECONCILE_TIMEOUT` (R254). -/
def execReconcileTimeout (c : Fin 8) (i : Fin 5) (s : State) : Host.Outcome State Fault Refusal :=
  chanStep s c (fun c =>
    if (c.link i).st = .up && (c.link i).recon = 2 then (c.countLink F.SP_AUDIT_COUNT_AUDIT_RESETS i).linkReset i else c)

/-! ## Routing tables (R259-R262) -/

/-- `TOPO_REPORT` (R259): the manager's channel takes the report; what the manager computes is the host's to install. -/
def execTopoReport (c : Fin 8) (src : Nat) (entries : List (Nat × Nat × Nat × Nat × Nat)) (s : State) : Host.Outcome State Fault Refusal :=
  chanStep s c (fun c => c.takeFrame (fun f => f.src = src && f.payload = .ctl (.topoReport entries)))

/-- Send `ID_ASSIGN` to the store or switch tray at an interface (R259): partner kinds 2 and 3. The host command that orders it has
no row in the opcode table (log entry 89). -/
def Chan.assignId (c : Chan) (i id fm : Nat) : Chan :=
  let l := c.link i
  match l.partner with
  | some p => if (p.kind = 2 || p.kind = 3) && l.st = .up then c.setLink i (l.queueCtl c.node (.idAssign id fm)) else c
  | none => c

/-- Start a swap; a further one while busy is ignored (R262, R268). -/
def Chan.startSwap (c : Chan) : Chan := if c.fld F.SP_RT_CTL_BUSY = 1 then c else c.setFld F.SP_RT_CTL_BUSY 1

/-- `ROUTE_SWAP` (R262). -/
def execRouteSwap (c : Fin 8) (s : State) : Host.Outcome State Fault Refusal :=
  chanStep s c (fun c => if c.st = .off || c.st = .locked then c else c.startSwap)

/-- The table images in HBM as lookup memory: six forwarding tables, then the multicast table at 0x3_0000. -/
def Chan.tableImages (c : Chan) : List Host.Cell :=
  let fw := c.fld F.SP_FWD_LINE_LINE * 64
  let mc := c.fld F.SP_MCAST_LINE_LINE * 64
  ((c.hbm.filter (fun p => decide (fw ≤ p.1) && decide (p.1 < fw + 0x30000))).map (fun p => (p.1 - fw, p.2))) ++
    ((c.hbm.filter (fun p => decide (mc ≤ p.1) && decide (p.1 < mc + 0x8000))).map (fun p => (p.1 - mc + 0x30000, p.2)))

/-- Whether a forwarding entry breaks R262. -/
def fwdBroken (ch node ingress n v : Nat) : Bool :=
  decide (7 ≤ v) || (ingress < 5 && v = ingress + 1) || (n = node && v ≠ 0) || (ingress = 5 && n ≠ node && v = 0) ||
    (1 ≤ v && v ≤ 5 && !hasIf ch (v - 1))

/-- Whether a group's 8 bytes are refused by R262. -/
def mcastBroken (ch : Nat) (b : Bytes) : Bool :=
  (List.range 6).any (fun i =>
    let m := (b.getD i 0).toNat
    (i < 5 && bits m (i + 1) 1 = 1) || (List.range 5).any (fun k => bits m (k + 1) 1 = 1 && !hasIf ch k))

/-- The first failing table and entry of loaded images (R262); `bad` says which HBM lines are uncorrectable. -/
def Chan.swapCheck (c : Chan) (t : List Host.Cell) (bad : Nat → Bool) : Option (Nat × Nat) :=
  let fw := c.fld F.SP_FWD_LINE_LINE
  let mc := c.fld F.SP_MCAST_LINE_LINE
  match (List.range 6).findSome? (fun tb => ((List.range 0xFFF0).find? (fun n =>
      bad (fw + (tb * 0x8000 + n / 2) / 64) ||
        fwdBroken c.idx c.node tb n (bits (cellByte t (tb * 0x8000 + n / 2)).toNat (4 * (n % 2)) 4))).map (fun n => (tb, n))) with
  | some r => some r
  | none => ((List.range 4096).find? (fun g => bad (mc + g / 8) || mcastBroken c.idx (cellRead t (0x30000 + 8 * g) 8))).map (fun g => (6, g))

/-- `ROUTE_SWAP_COMPLETE` (R262, R280): `ueLine` is a line of the images that reads uncorrectable. An entry that such a
line covers fails at the first node id or group of the line. -/
def execRouteSwapComplete (c : Fin 8) (ueLine : Option Nat) (s : State) : Host.Outcome State Fault Refusal :=
  chanStep s c (fun c =>
    if c.fld F.SP_RT_CTL_BUSY = 0 then c
    else
      let t := c.tableImages
      let c0 := c.setFld F.SP_RT_CTL_BUSY 0
      match c.swapCheck t (fun l => ueLine = some l || c.poison.contains l) with
      | some (tb, e) =>
        let c1 := match ueLine with | some l => c0.hbmUe l | none => c0
        ((c1.setFld F.SP_RT_CTL_SWAP_ERR 1).setFld F.SP_RT_CTL_ERR_TABLE tb).setFld F.SP_RT_CTL_ERR_ENTRY e
      | none => ({ c0 with tables := some t } : Chan).setFld F.SP_RT_CTL_IMAGE (1 - c0.fld F.SP_RT_CTL_IMAGE))

end Sys2Proof.Machine
end

