-- ==== Sys2Proof/Machine/Hbm.lean ====
section
/-! DEFINITION. HBM regions and dirty generations (R271-R274, R283). -/

namespace Sys2Proof.Machine

/-- Lines of region 3 at least (R273). -/
def dirtyLines : Nat := 109478

/-- Region `n` in a view of the registers. -/
def regionIn (rd : Nat → Word) (n : Nat) : Option (Nat × Nat × Bool) :=
  let lo := (rd (R.HBM_REGION_LO + 8 * n)).toNat
  let hi := (rd (R.HBM_REGION_HI + 8 * n)).toNat
  if bits hi 31 1 = 1 then some (bits lo 0 31, bits hi 0 31, bits lo 31 1 = 1) else none

/-- The first of items 1-4 of R283 that a view of the regions breaks; `caps` is the sum of `CAP` over the loaded groves. -/
def regionItem (rd : Nat → Word) (caps : Nat) : Option Nat :=
  let rs := (List.range 8).filterMap (fun n => (regionIn rd n).map (fun r => (n, r.1, r.2.1)))
  if rs.any (fun r => decide (r.2.2 < r.2.1) || decide (hbmLines ≤ r.2.2)) then some 1
  else if rs.any (fun a => rs.any (fun b => decide (a.1 < b.1) && decide (a.2.1 ≤ b.2.2) && decide (b.2.1 ≤ a.2.2))) then some 2
  else if (match regionIn rd 3 with
      | some (b, l, t) => decide (l + 1 - b < dirtyLines) || t
      | none => true) then some 3
  else if (match regionIn rd 1 with
      | some (b, l, _) => decide ((l + 1 - b) / 64 < caps)
      | none => decide (0 < caps)) then some 4
  else none

/-- Sum of `CAP` over all groves in a view (R183, R271). -/
def sumCap (rd : Nat → Word) : Nat :=
  groveNums.foldl (fun a g => a + bits (rd (R.HBM_STASH_GRV_CAP + g * 0x40)).toNat 0 25) 0

/-- Registers of the HBM region block. -/
def regionOffs : List Nat := (List.range 16).map (fun k => R.HBM_REGION_LO + 4 * k)

/-- Zero a run of HBM bytes. -/
def cellZero (m : List Host.Cell) (a n : Nat) : List Host.Cell := m.filter (fun p => !(decide (a ≤ p.1) && decide (p.1 < a + n)))

/-- Zero a run of HBM lines by whole-line writes, which take them off the poison list (R280). -/
def Chan.zeroLines (c : Chan) (line n : Nat) : Chan :=
  let p := c.poison.filter (fun x => !(decide (line ≤ x) && decide (x < line + n)))
  ({ c with hbm := cellZero c.hbm (line * 64) (n * 64), poison := p } : Chan).setFld F.HBM_UE_COUNT_LISTED p.length

/-- The channel has no grove loaded. -/
def Chan.idle (c : Chan) : Bool := groveNums.all (fun g => (c.grove g).st = .empty)

/-- `REGION_APPLY` (R271, R283, R463): an accepted apply zeroes region 3 before the regions take effect. -/
def Chan.regionApply (c : Chan) : Chan :=
  let c1 := regionOffs.foldl (fun c o => c.checkStaged o) c
  if !(c.st = .bringup || (c.st = .ready && c.idle)) || regionOffs.any (fun o => c.bank.badStaged.contains o) ||
      (regionItem c1.staged (sumCap c1.reg)).isSome then c1.setFld F.HBM_STATUS_REGION_ERR 1
  else
    let c2 := match regionIn c1.staged 3 with
      | some (b, l, _) => c1.zeroLines b (l + 1 - b)
      | none => c1
    regionOffs.foldl (fun c o => { c with bank := c.bank.applyAt chanRegs o }) c2

/-- `FLIP` (R274). -/
def Chan.flip (c : Chan) : Chan :=
  if c.fld F.HBM_STATUS_OTHER_CLEAN = 1 then
    (c.setFld F.HBM_STATUS_GEN (1 - c.fld F.HBM_STATUS_GEN)).setFld F.HBM_STATUS_OTHER_CLEAN 0
  else c.setFld F.HBM_STATUS_DIRTY_ERR 1

/-- `CLEAR` (R274): the generation that is frozen now is to be zeroed. -/
def Chan.clear (c : Chan) : Chan := ({ c with clearing := 1 - c.fld F.HBM_STATUS_GEN } : Chan).setFld F.HBM_STATUS_CLEAR_BUSY 1

/-- `REGION_APPLY`. -/
def execRegionApply (c : Fin 8) (s : State) : Host.Outcome State Fault Refusal :=
  chanStep s c (fun c => if c.st = .off || c.st = .locked then c else c.regionApply)

/-- `FLIP`. -/
def execFlip (c : Fin 8) (s : State) : Host.Outcome State Fault Refusal :=
  chanStep s c (fun c => if c.st = .off || c.st = .locked then c else c.flip)

/-- `CLEAR`. -/
def execClear (c : Fin 8) (s : State) : Host.Outcome State Fault Refusal :=
  chanStep s c (fun c => if c.st = .off || c.st = .locked then c else c.clear)

/-- The clear has ended (R274). The generation it named is zero; if a flip has made it the one that receives writes meanwhile, it was
zero already, and the generation frozen by that flip keeps its blocks and is not clean (log entry 81). -/
def Chan.clearDone (c : Chan) : Chan :=
  if c.fld F.HBM_STATUS_CLEAR_BUSY = 0 then c
  else if c.clearing = c.fld F.HBM_STATUS_GEN then c.setFld F.HBM_STATUS_CLEAR_BUSY 0
  else
    let c1 := match c.region 3 with
      | some (b, _, _) => c.zeroLines (b + c.clearing * genLines) genLines
      | none => c
    (c1.setFld F.HBM_STATUS_CLEAR_BUSY 0).setFld F.HBM_STATUS_OTHER_CLEAN 1

/-- `CLEAR_DONE` (R274). -/
def execClearDone (c : Fin 8) (s : State) : Host.Outcome State Fault Refusal := chanStep s c Chan.clearDone

end Sys2Proof.Machine
end

