-- ==== Sys2Proof/Machine/TileCtl.lean ====
section
/-! DEFINITION. Starting, stopping and clearing the contexts of a tile (R95, R103). -/

namespace Sys2Proof.Machine

/-- Whether a channel's registers answer: it is powered and not locked (R307, R308). -/
def Chan.regsUp (c : Chan) : Bool := c.st ≠ .off && c.st ≠ .locked

def enFld (i x : Nat) : Fld := ⟨R.TILE_CTL + tileSlot i, x, 1⟩
def entryReg (x : Nat) : Nat := if x = 0 then R.TILE_CTX0_ENTRY else R.TILE_CTX1_ENTRY

/-- A 0-to-1 write of `CTXn_EN`: the context starts at its entry; ignored while a fault code stands, and on a free tile,
which keeps its contexts disabled (R95, R103). -/
def Chan.ctxStart (c : Chan) (i x : Nat) : Chan :=
  if c.fld (enFld i x) = 1 || c.fld (F.TILE_FAULT_CODE.sh (tileSlot i)) ≠ 0 || ((c.tile i).slot).isNone then c
  else
    (c.setFld (enFld i x) 1).onCtx i x (fun v =>
      { v with st := .running, pc := BitVec.ofNat 21 (c.reg (entryReg x + tileSlot i)).toNat })

/-- A 1-to-0 write: issue stops after the current instruction; queued descriptors complete (R95). -/
def Chan.ctxStop (c : Chan) (i x : Nat) : Chan :=
  if c.fld (enFld i x) = 0 then c
  else (c.setFld (enFld i x) 0).onCtx i x (fun v => { v with st := if v.st = .faulted then .faulted else .idle })

/-- `CLR_FAULT` (R95). -/
def Chan.clrFault (c : Chan) (i : Nat) : Chan :=
  let t := c.tile i
  let clr (v : Ctx) : Ctx := { v with st := .idle, sems := [], qA := [], qB := [], qM := [] }
  let c1 := c.setTile i { t with c0 := clr t.c0, c1 := clr t.c1, a := Arr.reset, b := Arr.reset }
  ((c1.setFld (enFld i 0) 0).setFld (enFld i 1) 0).putReg (R.TILE_FAULT + tileSlot i) 0

/-- `CTX_START`. -/
def execCtxStart (t : TileRef) (x : Fin 2) (s : State) : Host.Outcome State Fault Refusal :=
  chanStep s t.ch (fun c => if c.regsUp then c.ctxStart (tileIdx t) x else c)

/-- `CTX_STOP`. -/
def execCtxStop (t : TileRef) (x : Fin 2) (s : State) : Host.Outcome State Fault Refusal :=
  chanStep s t.ch (fun c => if c.regsUp then c.ctxStop (tileIdx t) x else c)

/-- `CLR_FAULT`. -/
def execClrFault (t : TileRef) (s : State) : Host.Outcome State Fault Refusal :=
  chanStep s t.ch (fun c => if c.regsUp then c.clrFault (tileIdx t) else c)

/-- A tile that leaves its grove: contexts disabled, no accumulator held (R103, R105). -/
def Chan.freeTile (c : Chan) (i : Nat) : Chan :=
  let t := c.tile i
  ((c.setTile i { Tile.reset with sram := t.sram, poison := t.poison, scrub := t.scrub, scrubQ := t.scrubQ }).setFld (enFld i 0) 0).setFld (enFld i 1) 0

/-- Every router of a grove takes the tables in force; tiles the grove no longer maps become free (R100, R105, R109). -/
def Chan.takeTables (c : Chan) (g : Nat) : Chan :=
  let before := c.tilesOf g
  let c1 := c.mapSlots g
  (before.filter (fun i => ((c1.tile i).slot).isNone)).foldl (fun c i => c.freeTile i) c1

end Sys2Proof.Machine
end

