-- ==== Sys2Proof/Machine/RegOps.lean ====
section
/-! DEFINITION. Reads and writes of a channel's registers: what a register shows, aliases, strobes and their consistency
checkers, snapshots, parity (R313-R337, R463). -/

namespace Sys2Proof.Machine

/-! ## Reading -/

/-- Which interface a link register belongs to. -/
def linkOf (d : RegDef) (off : Nat) : Nat := if off < 0xC0000 then d.copyOf off else d.copyOf off + 2

/-- A grove's slot of 4 bits in the state words. -/
def Chan.groveNibbles (c : Chan) (lo : Nat) : Nat :=
  (List.range 8).foldl (fun a k => a + (c.grove (lo + k)).st.code * 2 ^ (4 * k)) 0

/-- Pages of the stash region that no grove occupies (R182). -/
def Chan.poolFree (c : Chan) : Nat :=
  ((c.region 1).map (fun r => (r.2.1 + 1 - r.1) / 64)).getD 0 - groveNums.foldl (fun a g => a + c.occ g) 0

/-- Whether a member waits for the verdict of the step and attempt in progress (R214): its frames are sent, or it has begun and
has none to send (log entry 88). -/
def Chan.waitsVerdict (c : Chan) (g : Nat) : Bool :=
  let v := c.grove g
  c.fld (F.RED_GRV_VCODE_WAITING.sh (redOff g)) = 1 || (v.st.active && v.kind = 1 && v.begun && !(c.egress g).any (·.valid))

/-- What a register reads: the stored word, with the fields whose home is elsewhere in the state. -/
def Chan.liveWord (c : Chan) (d : RegDef) (off : Nat) : Word :=
  let w := c.reg off
  let k := d.copyOf off
  let b := d.base
  let sums (f : Nat → Bool) (sh : Nat) : Nat := groveNums.foldl (fun a g => a + if f g then 2 ^ (sh + g) else 0) 0
  if b = R.CTL_ID then F.CTL_ID_NODE.into w c.node
  else if b = R.CTL_STATE then
    BitVec.ofNat 32 (c.st.code + c.freeze * 2 ^ 8 + sums (fun g => (c.grove g).st ≠ .empty) 16)
  else if b = R.CTL_GROVE_STATE_LO then BitVec.ofNat 32 (c.groveNibbles 0)
  else if b = R.CTL_GROVE_STATE_HI then BitVec.ofNat 32 (c.groveNibbles 8)
  else if b = R.CTL_STAGED then
    BitVec.ofNat 32 (sums (fun g => !(c.changed g).isEmpty) 0 + sums (fun g => (c.grove g).strobe.isSome) 16)
  else if b = R.CTL_STROBE_RESULT then F.CTL_STROBE_RESULT_BUSY.into w (if c.applyWait.isSome then 1 else 0)
  else if b = R.CTL_EVT_SEQ then BitVec.ofNat 32 c.evtSeq
  else if b = R.CTL_KNOTS then
    BitVec.ofNat 32 (c.knots.length + c.newKnots * 2 ^ 13 + (c.rows.map (fun v => bits v 58 2)).foldl (· + ·) 0 * 2 ^ 26)
  else if b = R.CTL_UND_FREE then
    F.CTL_UND_FREE_MIN_FREE.into w (minOr 720 ((List.range 6).map c.freeIn))
  else if b = R.CTL_GRV_CFG then F.CTL_GRV_CFG_SG.into w k
  else if b = R.CTL_GRV_USE then
    BitVec.ofNat 32 ((exceptionsAt c.reg k).length + (c.tilesOf k).length * 2 ^ 7)
  else if b = R.SP_WS_SLOT then
    BitVec.ofNat 32 (sums (fun g => (c.grove g).ws.active = some 1) 0 + sums (fun g => (c.grove g).ws.switch.isSome) 16)
  else if b = R.CKP_GRV_OP then
    let r := (c.grove k).ring
    BitVec.ofNat 32 (r.phase + if r.deltaOk then 8 else 0)
  else if b = R.HBM_STASH_POOL then BitVec.ofNat 32 c.poolFree
  else if b = R.HBM_STASH_GRV_OCC then BitVec.ofNat 32 (c.occ k)
  else if b = R.RED_GRV_VCODE then F.RED_GRV_VCODE_WAITING.into w (if c.waitsVerdict k then 1 else 0)
  else if b = R.RED_UNIT_STATUS then F.RED_UNIT_STATUS_OPEN_BLOCKS.into w (min 8 (c.openBlocks k))
  else if b = R.TH_DUTY then (if c.st = .frozen then F.TH_DUTY_DUTY.into w 0 else w)
  else if b = R.SP_NODE then BitVec.ofNat 32 (c.node + c.fm * 2 ^ 16)
  else if b = R.TILE_STATUS then
    let t := c.tile k
    let own (o : Option Nat) : Nat := (o.map (· + 1)).getD 0
    BitVec.ofNat 32 (w.toNat / 256 * 256 + t.c0.st.code + t.c1.st.code * 4 + own t.a.owner * 16 + own t.b.owner * 64)
  else if b = R.TILE_KEY_STEP0 then (c.tile k).c0.keyStep
  else if b = R.TILE_KEY_STEP1 then (c.tile k).c1.keyStep
  else if b = R.TILE_KEY_MB then BitVec.ofNat 32 ((c.tile k).c0.keyMb.toNat + (c.tile k).c1.keyMb.toNat * 2 ^ 16)
  else if b = R.SP_LINK_STATUS || b = R.SEAM_LINK_STATUS then
    let l := c.link (linkOf d off)
    BitVec.ofNat 32 (w.toNat / 256 * 256 + l.st.code + ((l.partner.map (·.kind)).getD 0) * 8)
  else if b = R.SP_SEQ || b = R.SEAM_SEQ then
    let l := c.link (linkOf d off)
    BitVec.ofNat 32 (l.txNext + l.rxNext * 2 ^ 16)
  else if b = R.SP_PARTNER || b = R.SEAM_PARTNER then
    match (c.link (linkOf d off)).partner with
    | some p => BitVec.ofNat 32 (p.node + p.ifx * 2 ^ 16)
    | none => w
  else w

/-- A seam end that the channel lacks reads 0 throughout (R268). -/
def Chan.lacks (c : Chan) (off : Nat) : Bool :=
  (decide (0xC0000 ≤ off) && decide (off < 0xC1000) && !hasIf c.idx 2) || (decide (0xC1000 ≤ off) && decide (off < 0xC2000) && !hasIf c.idx 3)

/-- Read of a register outside the alias window, view 0 (R315, R317, R337). -/
def Chan.readPlain (c : Chan) (off : Nat) : Word :=
  if c.lacks off then 0
  else
    match mapFind c.bank.held off with
    | some w => w
    | none =>
      match findReg chanRegs off with
      | some d => c.liveWord d off
      | none => 0

/-- The word and bit that an alias offset names (R321). -/
def aliasOf (off : Nat) : Nat × Nat := ((off - 0x800000) / 128 * 4, off % 128 / 4)

/-- Read, view 0 or 1 (R298, R317, R321, R326). -/
def Chan.readWord (c : Chan) (off view : Nat) : Word :=
  if 0x800000 ≤ off then
    let (a, b) := aliasOf off
    BitVec.ofNat 32 (bits (c.readPlain a).toNat b 1)
  else if view = 1 then
    match findReg chanRegs off with
    | some d => if d.isStaged then c.staged off else c.readPlain off
    | none => 0
  else c.readPlain off

/-- The parity checks of a read, and whether the word replies CFG_PARITY (R324, R325, R463). -/
def Chan.readCheck (c : Chan) (off view : Nat) : Bool × Chan :=
  let o := if 0x800000 ≤ off then (aliasOf off).1 else off
  if view = 1 && off < 0x800000 && (((findReg chanRegs o).map (·.isStaged)).getD false) then (c.bank.badStaged.contains o, c.checkStaged o)
  else (c.bank.bad.contains o, c.checkApplied o)

/-- Whether an offset lies in a block (R314, R315). -/
def chanBlock (off : Nat) : Bool := decide (off < 0x684000) || (decide (0x800000 ≤ off) && decide (off < 0x1000000))

/-! ## Consistency checkers (R119, R151, R183, R217, R235, R283, R331) -/

/-- The registers as they stand after an apply of the named groups. -/
def Chan.after (c : Chan) (gs : List Nat) (off : Nat) : Word :=
  match c.groupOf off with
  | some g => if gs.contains g then c.staged off else c.reg off
  | none => c.reg off

/-- A field in a view. -/
def rdFld (rd : Nat → Word) (f : Fld) : Nat := f.of (rd f.off)

def grantOff (g n : Nat) : Nat := R.HBM_GRANT_LO + g * 0x40 + n * 8

/-- Grant `n` of grove `g` in a view: base, limit, writes allowed (R272). -/
def grantIn (rd : Nat → Word) (g n : Nat) : Option (Nat × Nat × Bool) :=
  let lo := (rd (grantOff g n)).toNat
  let hi := (rd (grantOff g n + 4)).toNat
  if bits hi 31 1 = 1 then some (bits lo 0 31, bits hi 0 31, bits lo 31 1 = 1) else none

/-- Groves that hold something: loaded, or being loaded. -/
def Chan.held (c : Chan) (g : Nat) : Bool := (c.grove g).st ≠ .empty || (c.grove g).loading

/-- Whether a grant keeps R272. -/
def Chan.grantOk (c : Chan) (rd : Nat → Word) (g : Nat) (gr : Nat × Nat × Bool) : Bool :=
  let (b, l, w) := gr
  let inside (n : Nat) : Bool := match c.region n with
    | some (rb, rl, _) => decide (rb ≤ b) && decide (l ≤ rl)
    | none => false
  let ef := rdFld rd (F.RED_GRV_EF_EF_LINE.sh (redOff g))
  let nt := thinnedCount (c.egressAt (rdFld rd (F.RED_GRV_TABLE_TABLE_LINE.sh (redOff g))))
  decide (b ≤ l) && ([4, 5, 6, 7].any inside || (inside 2 && b = ef && l + 1 = ef + 128 * nt)) &&
    groveNums.all (fun h => h = g || !c.held h || (List.range 8).all (fun n =>
      match grantIn rd h n with
      | some (hb, hl, hw) => !(decide (hb ≤ l) && decide (b ≤ hl) && (w || hw))
      | none => true))

/-- R283 for a grove's grants: the regions are judged when a grant changes; each valid grant whenever the group applies, so that one left
by an earlier load, or whose `EF_LINE` or egress table changes, is judged before it is in force (R272). -/
def Chan.grantItem (c : Chan) (rd : Nat → Word) (g : Nat) : Option (Nat × Nat) :=
  let offs := (c.changed g).filter (fun o => decide (0x50000 ≤ o) && decide (o < 0x50400))
  match offs.head?.bind (fun o => (regionItem c.reg (sumCap rd)).map (fun k => (k, o))) with
  | some r => some r
  | none => ((List.range 8).find? (fun n => match grantIn rd g n with
        | some r => !c.grantOk rd g r
        | none => false)).map (fun n => (5, grantOff g n))

/-- R183. Semaphore 0 names none, so two fields of 0 are not equal semaphores (log entry 21). -/
def Chan.stashItem (c : Chan) (rd : Nat → Word) (g : Nat) : Option (Nat × Nat) :=
  let o := stashOff g
  let cap := rdFld rd (F.HBM_STASH_GRV_CAP_CAP.sh o)
  let rsv := rdFld rd (F.HBM_STASH_GRV_RSV_RSV.sh o)
  let sem := rdFld rd (F.HBM_STASH_GRV_CFG_STASH_SEM.sh o)
  let total := sumCap rd
  if cap < rdFld rd (F.HBM_STASH_GRV_MARK_MARK.sh o) + rsv then some (1, R.HBM_STASH_GRV_MARK + o)
  else if ((c.grove g).kind = 1 && sem = 0) || (sem ≠ 0 && sem = rdFld rd (F.SP_WS_GRV_CFG_GATE_SEM.sh (g * 0x10))) then
    some (2, R.HBM_STASH_GRV_CFG + o)
  else if ((c.region 1).map (fun r => (r.2.1 + 1 - r.1) / 64)).getD 0 < total then some (3, R.HBM_STASH_GRV_CAP + o)
  else if cap < c.occ g then some (4, R.HBM_STASH_GRV_CAP + o)
  else if rsv < c.occ g then some (4, R.HBM_STASH_GRV_RSV + o)
  else none

/-- Whether the grove has STORE-tier tensors. -/
def Chan.hasStore (c : Chan) (g : Nat) : Bool := (c.tensors (c.grove g)).any (fun t => t.tier = 1)

/-- R151. -/
def Chan.weightItem (c : Chan) (rd : Nat → Word) (g : Nat) : Option (Nat × Nat) :=
  if !c.hasStore g then none
  else if rdFld rd (F.SP_WS_GRV_CFG_GATE_SEM.sh (g * 0x10)) = 0 then some (1, R.SP_WS_GRV_CFG + g * 0x10)
  else
    let l := rdFld rd (F.SP_WS_GRV_REL_LINE_LINE.sh (g * 0x10))
    let general (b e : Nat) : Bool := [4, 5, 6, 7].any (fun n => match c.region n with
      | some (rb, rl, _) => decide (rb ≤ b) && decide (e ≤ rl)
      | none => false)
    if (List.range 8).any (fun n => match grantIn rd g n with
        | some (b, e, w) => w && decide (b ≤ l) && decide (l + 1 ≤ e) && general b e
        | none => false) then none
    else some (2, R.SP_WS_GRV_REL_LINE + g * 0x10)

/-- R217. -/
def Chan.redItem (c : Chan) (rd : Nat → Word) (g : Nat) : Option (Nat × Nat) :=
  let o := redOff g
  let pol := rdFld rd (F.RED_GRV_CFG_POLICY.sh o)
  let n := rdFld rd (F.RED_GRV_CFG_DUAL_N.sh o)
  let backs := (c.shardsAt (rdFld rd (F.RED_GRV_TABLE_TABLE_LINE.sh o))).any (fun s => s.sflags % 2 = 1)
  if pol = 3 then some (1, R.RED_GRV_CFG + o)
  else if n = 0 || 4096 < n then some (2, R.RED_GRV_CFG + o)
  else if pol = 1 && !backs then some (3, R.RED_GRV_CFG + o)
  else if backs && rdFld rd (F.RED_GRV_SPOOL_SPOOL_PAGES.sh o) = 0 then some (4, R.RED_GRV_SPOOL + o)
  else if (c.grove g).kind = 1 && rdFld rd (F.RED_GRV_STAGE_STAGE_PAGES.sh o) = 0 then some (5, R.RED_GRV_STAGE + o)
  else if rdFld rd (F.RED_GRV_CFG_COORD.sh o) ≠ (if (c.grove g).coord = c.node then 1 else 0) then
    some (6, R.RED_GRV_CFG + o)
  else none

/-- R235. Items 2-4 are judged where the grove owns shards, or the apply changes a field of the update block; a semaphore number of 0
is equal to none (log entry 21). -/
def Chan.updItem (c : Chan) (rd : Nat → Word) (g : Nat) : Option (Nat × Nat) :=
  let o := redOff g
  let sem := rdFld rd (F.CKP_UPD_GRV_CFG_UPD_SEM.sh o)
  let r := regionAt rd g (rdFld rd (F.CKP_UPD_GRV_CFG_UPD_REGION.sh o))
  let en := rdFld rd (F.CKP_UPD_GRV_CFG_ENABLE.sh o) = 1
  if en && sem = 0 then some (1, R.CKP_UPD_GRV_CFG + o)
  else if !en && !(c.changed g).any (fun x => decide (R.CKP_UPD_GRV_CFG ≤ x) && decide (x < 0x1C0500)) then none
  else if sem ≠ 0 && (sem = rdFld rd (F.SP_WS_GRV_CFG_GATE_SEM.sh (g * 0x10)) || sem = rdFld rd (F.HBM_STASH_GRV_CFG_STASH_SEM.sh (stashOff g))) then
    some (2, R.CKP_UPD_GRV_CFG + o)
  else if !r.valid || r.remote then some (3, R.CKP_UPD_GRV_CFG + o)
  else if rdFld rd (F.CKP_UPD_GRV_WB_WB_PAGES.sh o) < 2048 then some (4, R.CKP_UPD_GRV_WB + o)
  else none

/-- The rules of R97 for a footprint, without its origin. -/
def footShape (r : RegionEntry) : Bool :=
  r.fw % 3 = 0 && decide (3 ≤ r.fw) && decide (r.fw ≤ 48) && r.fh % 5 = 0 && decide (5 ≤ r.fh) && decide (r.fh ≤ 90)

/-- R97. -/
def footOk (r : RegionEntry) : Bool :=
  footShape r && r.x0 % 3 = 0 && r.y0 % 5 = 0 && decide (r.x0 + r.fw ≤ 48) && decide (r.y0 + r.fh ≤ 90)

def footOverlap (a b : RegionEntry) : Bool :=
  decide (a.x0 < b.x0 + b.fw) && decide (b.x0 < a.x0 + a.fw) && decide (a.y0 < b.y0 + b.fh) && decide (b.y0 < a.y0 + a.fh)

/-- R98. -/
def gridOk (r : RegionEntry) : Bool := decide (1 ≤ r.lw) && decide (r.lw ≤ r.fw) && decide (1 ≤ r.lh) && decide (r.lh ≤ r.fh)

def viaOk (ch : Nat) (r : RegionEntry) : Bool :=
  decide (r.via < 5) && (if r.via = 0 then hasIf ch 2 else if r.via = 1 then hasIf ch 3 else true)

/-- Valid local regions of a grove in a view. -/
def localRegions (rd : Nat → Word) (g : Nat) : List (Nat × RegionEntry) :=
  ((List.range 64).map (fun n => (n, regionAt rd g n))).filter (fun p => p.2.valid && !p.2.remote)

/-- Free tiles of a field once groves `gs` take the slots of a view: `tiles` are their default tiles, `kept` the tiles of exception
entries, of which those not mapped yet are not judged (R101, R104, R119). -/
def Chan.freeAfter (c : Chan) (gs : List Nat) (f : Nat) (tiles kept : List Nat) : Nat :=
  ((fieldTiles f).filter (fun i =>
    (match (c.tile i).slot with
      | none => true
      | some s => gs.contains s.grove && !kept.contains i) && !tiles.contains i && !c.isKnot i && decide (i / 48 < c.admittedRows))).length

/-- Whether the understory quota holds in every field where groves `gs` map a tile not mapped before (R101, R119). -/
def Chan.quotaOk (c : Chan) (gs : List Nat) (tiles kept : List Nat) : Bool :=
  let fresh := tiles.filter (fun i => decide (i < channelTiles) && ((c.tile i).slot).isNone && !c.isKnot i)
  (List.range 6).all (fun f => !fresh.any (fun i => fieldOf i = f) || decide (c.quota ≤ c.freeAfter gs f tiles kept))

/-- R119, for grove `g` of the groves `gs` that one strobe applies. -/
def Chan.tableItem (c : Chan) (rd : Nat → Word) (gs : List Nat) (g : Nat) : Option (Nat × Nat) :=
  let rs := localRegions rd g
  let others := groveNums.flatMap (fun h => if h = g || !c.held h then [] else (localRegions rd h).map (·.2))
  let w0 (n : Nat) : Nat := R.CTL_GRV_REGION_W0 + grvSlot g + n * 0x10
  let exc := exceptionsAt rd g
  let slots := slotsAt rd g
  let away := (groveNums.filter (fun h => h ≠ g && c.held h)).flatMap (fun h => (exceptionsAt rd h).map (fun e => (h, e)))
  let e0 (e : Nat) : Nat := R.CTL_GRV_EXC_W0 + grvSlot g + 8 * e
  match rs.find? (fun p => !footOk p.2) with
  | some p => some (1, w0 p.1)
  | none =>
  match rs.find? (fun p => rs.any (fun q => q.1 ≠ p.1 && footOverlap p.2 q.2) || others.any (footOverlap p.2)) with
  | some p => some (2, w0 p.1)
  | none =>
  match rs.find? (fun p => !gridOk p.2) with
  | some p => some (3, w0 p.1 + 4)
  | none =>
  match exc.find? (fun e => exc.any (fun f => f.1 ≠ e.1 && f.2.1 = e.2.1 && f.2.2.1 = e.2.2.1 && f.2.2.2.1 = e.2.2.2.1)) with
  | some e => some (4, e0 e.1)
  | none =>
  match exc.find? (fun e =>
      let t := e.2.2.2.2
      let w1 := (rd (R.CTL_GRV_EXC_W1 + grvSlot g + 8 * e.1)).toNat
      decide (48 ≤ bits w1 0 6) || decide (90 ≤ bits w1 6 7) || c.isKnot t ||
        ((((c.tile t).slot).map (fun s => !gs.contains s.grove)).getD false) ||
        slots.any (fun p => p.1 = t && !(p.2.region = e.2.1 && p.2.lx = e.2.2.1 && p.2.ly = e.2.2.2.1)) ||
        away.any (fun x => x.2.2.2.2.2 = t)) with
  | some e => some (5, e0 e.1)
  | none =>
  match away.find? (fun x => (defaultTiles rd g).contains x.2.2.2.2.2) with
  | some x => some (5, R.CTL_GRV_EXC_W0 + grvSlot x.1 + 8 * x.2.1)
  | none =>
    if !c.quotaOk gs (gs.flatMap (defaultTiles rd)) (gs.flatMap (exceptionTiles rd)) then some (6, w0 ((rs.map (·.1)).headD 0))
    else
      (((List.range 64).map (fun n => (n, regionAt rd g n))).find? (fun p => p.2.valid && p.2.remote && !viaOk c.idx p.2)).map
        (fun p => (7, w0 p.1 + 8))

/-- The checkers of a group, among those that apply at one edge, in the order of R331. A group with no changed field passes. -/
def Chan.checkGroup (c : Chan) (gs : List Nat) (g : Nat) : Option (Nat × Nat) :=
  let rd := c.after gs
  if (c.changed g).isEmpty then none
  else
    [c.grantItem rd g, c.stashItem rd g, c.weightItem rd g, c.redItem rd g, c.updItem rd g, c.tableItem rd gs g].findSome? id

/-- The item of the NEEDS_FREEZE rule of an offset's block (R331). -/
def freezeItem (off : Nat) : Nat :=
  if off < 0x60000 then 6 else if off < 0xA0000 then 5 else if off < 0x100000 then 3 else if off < 0x1C0000 then 7
  else if off < 0x200000 then 5 else if off < 0x640000 then 1 else 8

/-! ## Strobes (R330-R335) -/

/-- What a strobe operation did: finished with a status, item and failing offset; waits for the flit drain; or pends to a
boundary. -/
inductive StrobeRes where
  | done (st : Status) (item addr : Nat)
  | waits
  | pending
deriving DecidableEq, Repr

def groupsOf (mask : Nat) : List Nat := groveNums.filter (fun g => bits mask g 1 = 1)

/-- Record the outcome of a strobe operation (R331, R340). -/
def Chan.strobeResult (c : Chan) (st : Status) (item addr : Nat) (flag : Bool := true) : Chan :=
  let c1 := (c.setFld F.CTL_STROBE_RESULT_STATUS st.code).setFld F.CTL_STROBE_RESULT_ITEM item
  if st = .ok || st = .accepted then c1
  else if flag then (c1.setFld F.CTL_STROBE_ADDR_OFFSET addr).flagStrobe else c1.setFld F.CTL_STROBE_ADDR_OFFSET addr

/-- Steps 1-3 of R330: an EMPTY grove, a pending group, a staged copy that fails parity. -/
def Chan.strobeGate (c : Chan) (gs : List Nat) : Option (Status × Nat) × Chan :=
  if gs.any (fun g => (c.grove g).st = .empty) then (some (.stateConflict, 0), c)
  else if gs.any (fun g => (c.grove g).strobe.isSome) then (some (.stateConflict, 0), c)
  else
    match gs.flatMap c.badStagedOf with
    | [] => (none, c)
    | o :: t => (some (.cfgParity, o), (o :: t).foldl (fun c x => c.checkStaged x) c)

/-- Apply groups whose tables changed: fields, then the routers (R332). -/
def Chan.applyAll (c : Chan) (gs : List Nat) : Chan :=
  let tabs := gs.filter (fun g => (c.changed g).any isTableOff)
  tabs.foldl (fun c g => c.takeTables g) (gs.foldl (fun c g => c.applyGroup g) c)

/-- `STROBE` (R330-R332). `q` is the queue that a wait replies on. -/
def Chan.strobe (c : Chan) (mask : Nat) (q : Option Nat) : StrobeRes × Chan :=
  let gs := groupsOf mask
  match c.strobeGate gs with
  | (some (st, o), c1) => (.done st 0 o, c1.strobeResult st 0 o)
  | (none, c1) =>
    match gs.findSome? (fun g => if (c1.grove g).st.active then ((c1.changed g).head?) else none) with
    | some o => (.done .needsFreeze (freezeItem o) o, c1.strobeResult .needsFreeze (freezeItem o) o)
    | none =>
      match gs.findSome? (fun g => c1.checkGroup gs g) with
      | some (k, o) => (.done .consistencyFail k o, c1.strobeResult .consistencyFail k o)
      | none =>
        if gs.any (fun g => (c1.changed g).any isTableOff) then (.waits, { c1 with applyWait := some (mask, q) })
        else (.done .ok 0 0, (c1.applyAll gs).strobeResult .ok 0 0)

/-- `STROBE_AT_BOUNDARY` (R333-R335). `seq` and `q` name the command to complete; queue 8 is firmware. -/
def Chan.strobeBoundary (c : Chan) (mask : Nat) (seq : Word) (q : Nat) : StrobeRes × Nat × Chan :=
  let gs := groupsOf mask
  match c.strobeGate gs with
  | (some (st, o), c1) => (.done st 0 o, 0, c1.strobeResult st 0 o)
  | (none, c1) =>
    match gs.findSome? (fun g => c1.checkGroup gs g) with
    | some (k, o) => (.done .consistencyFail k o, 0, c1.strobeResult .consistencyFail k o)
    | none =>
      let freeze := gs.findSome? (fun g =>
        if (c1.grove g).st = .loaded then none else (c1.changed g).find? (fun o => !c1.boundaryOnly o))
      match freeze with
      | some o => (.done .needsFreeze (freezeItem o) o, 0, c1.strobeResult .needsFreeze (freezeItem o) o)
      | none =>
        let next := minOr 0xFFFFFFFF (gs.map (fun g => let v := c1.grove g; if v.begun then v.step + 1 else v.step))
        if gs.all (fun g => (c1.grove g).st = .loaded) then
          if gs.any (fun g => (c1.changed g).any isTableOff) then (.waits, next, { c1 with applyWait := some (mask, if q < 8 then some q else none) })
          else (.done .ok 0 0, next, (c1.applyAll gs).strobeResult .ok 0 0)
        else if gs.all (fun g => (c1.grove g).st = .running || (c1.grove g).st = .paused) then
          (.pending, next, (gs.foldl (fun c g => c.onGrove g (fun v => { v with strobe := some ⟨seq, q, 0xFFFFFFFF⟩ })) c1).strobeResult .accepted 0 0)
        else (.done .stateConflict 0 0, 0, c1.strobeResult .stateConflict 0 0)

/-- `STAGE_DISCARD` (R310, R327, R335). -/
def Chan.discard (c : Chan) (mask : Nat) : Status × Chan :=
  let gs := groupsOf mask
  if gs.any (fun g => (c.grove g).st = .empty || (c.grove g).strobe.isSome) then (.stateConflict, c.strobeResult .stateConflict 0 0 false)
  else (.ok, (gs.foldl (fun c g => c.discardGroup g) c).strobeResult .ok 0 0)

/-! ## Snapshots (R337) -/

def Chan.snap (c : Chan) (off : Nat) : Option Chan :=
  (chanBank off).map (fun los => { c with bank := c.bank.snap chanRegs los })

def Chan.unsnap (c : Chan) (off : Nat) : Option Chan := (chanBank off).map (fun los => { c with bank := c.bank.unsnap los })

/-! ## Writing -/

/-- How a register write ended. -/
inductive WriteStat where
  | ok | capacity | conflict
deriving DecidableEq, Repr

/-- A write of `CTL_UND_CFG.UNITS` (R102). -/
def Chan.unitsOk (c : Chan) (u : Nat) : Bool :=
  u ≤ 72 && (u ≤ c.fld F.CTL_UND_CFG_UNITS || (List.range 6).all (fun f => decide (u ≤ c.freeIn f)))

/-- A write of 0 restarts an ingress peak from what its buffer holds now (R150). -/
def Chan.restartIngress (c : Chan) (v : Word) : Chan :=
  [0, 1].foldl (fun (c : Chan) i =>
    if bits v.toNat (16 * i) 15 = 0 then c.setFld ⟨R.SP_WS_INGRESS_PEAK, 16 * i, 15⟩ ((c.link i).cells.foldl (fun a x => a + x.units) 0)
    else c) c

/-- What a write does beyond its fields: register actions and rules of the blocks. `old` is the word before. -/
def Chan.writeActs (c : Chan) (off : Nat) (v old : Word) : Chan :=
  if off = R.CTL_STROBE then
    let op := F.CTL_STROBE_OP.of v
    let m := F.CTL_STROBE_GROUPS.of v
    if c.applyWait.isSome || v = 0 then c
    else if op = 0 then (c.strobe m none).2 else if op = 1 then (c.strobeBoundary m 0 8).2.2 else if op = 2 then (c.discard m).2 else c
  else if off = R.CTL_SNAP then
    let o := F.CTL_SNAP_OFFSET.of v
    match (if v.getLsbD 31 then c.unsnap o else c.snap o) with
    | some c1 => c1
    | none => if v = 0 then c else c.flagSnap
  else if off = R.CTL_DIAG then
    if v.getLsbD 0 then { c with bank := { c.bank with inject := true } } else c
  else if off = R.CTL_STATUS then
    if v.getLsbD 0 then c.setFld F.CTL_PARITY_ADDR_SEEN 0 else c
  else if off = R.HBM_CTL then
    let c1 := if v.getLsbD 0 then c.regionApply else c
    let c2 := if v.getLsbD 1 then c1.flip else c1
    if v.getLsbD 2 then c2.clear else c2
  else if 0x60118 ≤ off ∧ off < 0x60500 ∧ off % 0x40 = 0x18 ∧ v = 0 then
    -- a peak restarts from what is occupied now (R182)
    let g := (off - 0x60118) / 0x40
    c.setFld (F.HBM_STASH_GRV_PEAK_PEAK.sh (stashOff g)) (c.occ g)
  else if off = R.SP_WS_INGRESS_PEAK then c.restartIngress v
  else if off = R.SP_RT_CTL then (if v.getLsbD 0 then c.startSwap else c)
  else if off % 0x1000 = 4 && (decide (0x80000 ≤ off) && decide (off < 0x82000) || decide (0xC0000 ≤ off) && decide (off < 0xC3000)) then
    c.refreshLinks
  else if 0x200000 ≤ off ∧ off < 0x638000 ∧ off % 0x400 = 4 then
    let i := (off - 0x200000) / 0x400
    -- the fields were written as data: put them back, then act on the edges
    let c0 := c.putReg off old
    let c1 := if v.getLsbD 2 then c0.clrFault i else c0
    [0, 1].foldl (fun c x => if v.getLsbD x then (if v.getLsbD 2 then c else c.ctxStart i x) else c.ctxStop i x) c1
  else c

/-- A word write outside the alias window (R315-R318, R335). -/
def Chan.writePlain (c : Chan) (off : Nat) (v : Word) : Chan × WriteStat :=
  match findReg chanRegs off with
  | none => (c, .ok)
  | some d =>
    if c.lacks off then (c, .ok)
    else
      let pend := d.isStaged && (match c.groupOf off with | some g => (c.grove g).strobe.isSome | none => false)
      if pend then (c, .conflict)
      else if [R.CKP_GRV_CFG, R.CKP_GRV_STAGE, R.CKP_GRV_RANGES, R.CKP_GRV_CARRY].contains d.base && (c.grove (d.copyOf off)).ring.phase ≠ 0
      then (c.setFld F.CKP_STATUS_CFG_BUSY 1, .ok)     -- ignored while the grove has a ring or restore in progress (R369)
      else if off = R.CTL_UND_CFG && !c.unitsOk (F.CTL_UND_CFG_UNITS.of v) then (c, .capacity)
      else
        let old := c.reg off
        let r := c.bank.write chanRegs d off v (c.liveWord d off)
        let c1 : Chan := { c with bank := r.bank }
        let c2 := if r.rsv then c1.flagRsv else c1
        (c2.writeActs off v old, .ok)

/-- An alias write: an atomic read-modify-write of one bit (R320-R322). -/
def Chan.writeAlias (c : Chan) (off : Nat) (v : Word) : Chan × WriteStat :=
  let (a, b) := aliasOf off
  if v.toNat ≥ 2 then (c.flagAlias, .ok)
  else
    match findReg chanRegs a with
    | none => (c, .ok)
    | some d =>
      let bit : Word := BitVec.ofNat 32 (2 ^ b)
      let act := d.bitsOf .w1c ||| d.bitsOf .wo
      -- other bits: W1C and WO written 0, RWS as staged, the rest as read
      let rws := d.bitsOf .rws
      let base := (c.liveWord d a &&& ~~~ act &&& ~~~ rws) ||| (c.staged a &&& rws)
      let isAct := act &&& bit ≠ 0
      if isAct && v = 0 then (c, .ok)
      else c.writePlain a ((base &&& ~~~ bit) ||| (if v = 1 then bit else 0))

/-- A register write, in or out of the alias window. -/
def Chan.writeWord (c : Chan) (off : Nat) (v : Word) : Chan × WriteStat :=
  if 0x800000 ≤ off then c.writeAlias off v else c.writePlain off v

/-- `REG_RMW` of a word: the old value with RWS fields as staged, the channel, the status (R320). -/
def Chan.rmwWord (c : Chan) (off : Nat) (mask v : Word) : Word × Chan × WriteStat :=
  if 0x800000 ≤ off then
    let old := c.readWord off 0
    let r := if mask.getLsbD 0 then c.writeAlias off (v &&& mask) else (c, .ok)
    (old, r.1, r.2)
  else
    match findReg chanRegs off with
    | none => (0, c, .ok)
    | some d =>
      let rws := d.bitsOf .rws
      let live := c.readPlain off
      let old := (live &&& ~~~ rws) ||| (c.staged off &&& rws)
      let act := d.bitsOf .w1c ||| d.bitsOf .wo
      let r := c.writePlain off ((old &&& ~~~ mask &&& ~~~ act) ||| (v &&& mask))
      (old, r.1, r.2)

/-! ## The commands that act on a channel's registers directly -/

/-- `REGISTER_WRITE` on a channel (R316). -/
def Chan.registerWrite (c : Chan) (off : Nat) (v : Word) : Chan :=
  if c.regsUp && off % 4 = 0 && off < 0x800000 then (c.writePlain off v).1 else c

/-- `ALIAS_WRITE` (R321, R322). -/
def execBitAliasWrite (c : Fin 8) (off : Nat) (value : Word) (s : State) : Host.Outcome State Fault Refusal :=
  chanStep s c (fun c => if c.regsUp && off % 4 = 0 && 0x800000 ≤ off && off < 0x1000000 then (c.writeAlias off value).1 else c)

/-- `UND_CFG_WRITE` (R102). -/
def execUndCfgWrite (c : Fin 8) (value : Word) (s : State) : Host.Outcome State Fault Refusal :=
  chanStep s c (fun c => if c.regsUp then (c.writePlain R.CTL_UND_CFG value).1 else c)

/-- `PARITY_INJECT` (R340). -/
def execParityInject (c : Fin 8) (s : State) : Host.Outcome State Fault Refusal :=
  chanStep s c (fun c => if c.regsUp then (c.writePlain R.CTL_DIAG 1).1 else c)

/-- The sweep over a channel's configuration registers (R324, R463). -/
def Chan.paritySweep (c : Chan) : Chan :=
  c.bank.badStaged.foldl (fun c o => c.checkStaged o) (c.bank.bad.foldl (fun c o => c.checkApplied o) c)

/-- The grove of a flit: of the slot it goes to, or of the job whose frame it carries to an interface. -/
def Chan.flitGrove (c : Chan) (f : Flit) : Option Nat :=
  match f.fin with
  | .sram g _ _ => some g
  | .egress _ fr _ => c.groveOfJob fr.job

/-- No flit of the named groves remains in any router (R109). The crossing FIFO of a seam holds a frame only within the command that
receives it. -/
def Chan.drained (c : Chan) (gs : List Nat) : Bool := c.flits.all (fun f => ((c.flitGrove f).map (fun g => !gs.contains g)).getD true)

/-- Reply to the command behind a waiting strobe (R332). -/
def Chan.endWait (c : Chan) (q : Option Nat) (st : Status) (next : Option Nat) : Chan :=
  let c1 : Chan := { c with applyWait := none }
  match q.bind (fun k => (c1.queue k).current) with
  | some d =>
    if d.opcode = 0x14 && st = .ok then
      let c2 := c1.reply d .accepted none [] []
      c2.complete d .ok none (leBytes 4 (next.getD 0))
    else c1.reply d st none [] []
  | none => c1

/-- `GROVE_TABLE_APPLY` (R109, R332): the waiting strobe applies once no flit of its groves remains. -/
def execGroveTableApply (c : Fin 8) (g : Fin 16) (s : State) : Host.Outcome State Fault Refusal :=
  chanStep s c (fun c =>
    match c.applyWait with
    | none => c
    | some (mask, q) =>
      let gs := groupsOf mask
      if !gs.contains g.val || !c.drained gs then c
      else
        let next := minOr 0xFFFFFFFF (gs.map (fun g => (c.grove g).step))
        ((c.applyAll gs).strobeResult .ok 0 0).endWait q .ok (some next))

/-- `TABLE_DRAIN_TIMEOUT` (R109, R332): the apply is abandoned; nothing applies in any named group. -/
def execTableDrainTimeout (c : Fin 8) (g : Fin 16) (s : State) : Host.Outcome State Fault Refusal :=
  chanStep s c (fun c =>
    match c.applyWait with
    | none => c
    | some (mask, q) =>
      if !(groupsOf mask).contains g.val || c.drained [g.val] then c
      else (((c.groveFault g .hwFault).strobeResult .hwFault 0 0).endWait q .hwFault none))

end Sys2Proof.Machine
end

