-- ==== Sys2Proof/Machine/Reduce.lean ====
section
/-! DEFINITION. Reduction units: gradient payloads, combiner inputs, slots and their selector, the root unit and the
owner's report (R193-R210, R218, R264, R265, R465, R466). -/

namespace Sys2Proof.Machine

/-! ## Payloads (R193-R195) -/

/-- What a block carries on the wire beside its values. -/
structure BlkHead where
  block   : Nat
  attempt : Nat
  cmax    : Nat
  sat     : Bool
  poison  : Nat
deriving DecidableEq, Repr

/-- The payload of one dense segment (R194). -/
def densePayload (h : BlkHead) (q : Nat) (vals : List Int) : Bytes :=
  leBytes 4 h.block ++ leBytes 1 q ++ leBytes 1 h.attempt ++ leBytes 1 h.cmax ++ leBytes 1 (if h.sat then 1 else 0) ++
    leBytes 2 (bits h.poison (16 * q) 16) ++ zeros 54 ++ ((vals.drop (512 * q)).take 512).flatMap (fun n => leBytes 8 (unsigned 64 n))

/-- A sparse block record (R195). -/
def sparseRecord (h : BlkHead) (wide : Bool) (es : List (Nat × Int)) : Bytes :=
  leBytes 4 h.block ++ leBytes 2 es.length ++
    leBytes 1 ((if wide then 1 else 0) + (if h.sat then 2 else 0) + 4 * h.attempt) ++ leBytes 1 h.cmax ++ leBytes 8 h.poison ++
    es.flatMap (fun e => if wide then leBytes 2 e.1 ++ zeros 6 ++ leBytes 8 (unsigned 64 e.2) else leBytes 8 (e.1 + unsigned 48 e.2 * 2 ^ 16))

/-- A record's entries. -/
def sparseEntries (b : Bytes) (wide : Bool) (n : Nat) : List (Nat × Int) :=
  (List.range n).map (fun k =>
    if wide then (leAt b (16 * k) 2, signed 64 (leAt b (16 * k + 8) 8)) else (leAt b (8 * k) 8 % 2 ^ 11, signed 48 (leAt b (8 * k + 2) 6)))

/-- The records of a sparse payload; the first argument bounds their number. -/
def parseSparse : Nat → Bytes → List (BlkHead × List (Nat × Int))
  | 0, _ => []
  | n + 1, b =>
    if b.length < 16 then []
    else
      let fl := leAt b 6 1
      let k := leAt b 4 2
      let len := k * (if fl % 2 = 1 then 16 else 8)
      (⟨leAt b 0 4, bits fl 2 1, leAt b 7 1, bits fl 1 1 = 1, leAt b 8 8⟩, sparseEntries (b.drop 16) (fl % 2 = 1) k) ::
        parseSparse n (b.drop (16 + len))

/-- The attempt of a gradient frame (R195). -/
def gradAttempt (f : Frame) : Nat :=
  if f.fmt = fmtSparse then bits (leAt f.payload.bytes 6 1) 2 1 else leAt f.payload.bytes 5 1

/-- Frame flags of a gradient frame (R193, R241). -/
def redFlags (poison sparse last backup second sr : Bool) : BitVec 16 :=
  BitVec.ofNat 16 ((if poison then 1 else 0) + (if sparse then 2 else 0) + (if last then 4 else 0) + (if backup then 8 else 0)
    + (if second then 16 else 0) + if sr then 64 else 0)

/-- The largest exponent of what is sent (R190). -/
def cmaxOf (l : List Int) : Nat :=
  let m := l.foldl (fun a v => max a v.natAbs) 0
  if m = 0 then 0xFF else Nat.log2 m

/-- The larger of two `CMAX` values; 0xFF is none (R197). -/
def cmaxJoin (a b : Nat) : Nat := if a = 0xFF then b else if b = 0xFF then a else max a b

/-! ## Sequences and units (R196, R199) -/

/-- A job's counter for a node. -/
def redKey (job node : Nat) : Nat := job * 65536 + node

/-- Send a gradient frame to its combiner through an interface, past the forwarding tables (R199, R265). -/
def Chan.redSend (c : Chan) (i : Nat) (f : Frame) : Chan :=
  let k := redKey f.job f.dst
  let q := mapGet (fun _ => 0) c.redTx k
  let c1 := ({ c with redTx := mapPut c.redTx k ((q + 1) % 2 ^ 32) } : Chan).setFld (F.RED_UNIT_TX_SEQ_SEQ.sh (unitOff i)) q
  (c1.toEgress i ⟨5, 0, { f with src := c.node, rseq := q }⟩).1

/-- A protocol error at a unit (R199). -/
def Chan.protoErr (c : Chan) (u : Nat) : Chan :=
  ((c.setFld F.RED_STATUS_PROTO_ERR 1).setFld (F.RED_UNIT_STATUS_PROTO_ERR.sh (unitOff u)) 1).count (F.RED_UNIT_ERR_PROTO.sh (unitOff u))

/-! ## Combiners (R196, R197, R202) -/

/-- The grid exponent of a shard's tensor in the open step (R206). -/
def Grove.gOf (v : Grove) (s : Shard) : Int := (mapFind v.verdict.g s.tensor).getD s.g0

/-- The combiner of a shard; a fresh one has the inputs of its tree entry, in the table's order. -/
def Chan.comb (c : Chan) (g : Nat) (s : Shard) (second : Bool) : Comb :=
  match c.combs.find? (fun x => x.grove = g && x.shard = s.num && x.second = second) with
  | some x => x
  | none =>
    let e := c.treeEntry (s.treeOf second)
    { grove := g, shard := s.num, second := second, unit := if e.root then 5 else e.parentIf, step := (c.grove g).step
      attempt := (c.grove g).verdict.attempt
      inputs := e.sources.map (fun x =>
        ⟨if x.ifx = 7 then c.node else x.node, x.ifx, if x.backup then some x.idx else none, false, 0, false, [], 0, false, false⟩)
      done := [], sent := 0, bits := 0, cmax := none }

def Chan.putComb (c : Chan) (x : Comb) : Chan :=
  { c with combs := c.combs.filter (fun y => !(y.grove = x.grove && y.shard = x.shard && y.second = x.second)) ++ [x] }

def Comb.setInput (x : Comb) (k : Nat) (i : RedIn) : Comb := { x with inputs := setAt x.inputs k i }

/-- The block an input presents. -/
def RedIn.head (i : RedIn) : Option RedBlk :=
  match i.blocks with
  | b :: _ => if b.sparse || b.segs = 4 then some b else none
  | [] => none

/-- The backup input of a primary entry. -/
def Comb.backup (x : Comb) (k : Nat) : Option (Nat × RedIn) :=
  (x.inputs.zipIdx.find? (fun p => p.1.backs = some k)).map (fun p => (p.2, p.1))

/-- A backup that can still be taken (R202, R203). -/
def RedIn.usable (i : RedIn) : Bool := !i.closed && !i.full

/-- The entry that serves the slot of primary entry `k`. -/
def Comb.serving (x : Comb) (k : Nat) : Nat :=
  match x.inputs[k]?, x.backup k with
  | some p, some (j, b) => if p.choice = 2 || (p.choice = 0 && p.closed && b.usable) then j else k
  | _, _ => k

/-- Primary entries, one per slot (R202). -/
def Comb.slots (x : Comb) : List Nat := (x.inputs.zipIdx.filter (fun p => p.1.backs.isNone)).map (·.2)

/-- Entries whose blocks the combiner waits for. A slot whose backup may still be taken is open. -/
def Comb.openInputs (x : Comb) : List Nat :=
  (x.slots.map x.serving).filter (fun k => ((x.inputs[k]?).map (fun i => !i.closed)).getD false)

/-- The block an entry presents to the sum; a backup presents none before it is taken (R202). -/
def Comb.presents (x : Comb) (k : Nat) : Option RedBlk :=
  match x.inputs[k]? with
  | none => none
  | some i =>
    match i.backs with
    | none => i.head
    | some p => if ((x.inputs[p]?).map (fun q => decide (q.choice = 2))).getD false then i.head else none

/-- Credits of frames that the reduction path is done with return (R201). -/
def Chan.takeFrames (c : Chan) (fs : List Frame) : Chan := fs.foldl (fun c f => c.takeFrame (fun x => x = f)) c

/-- Close an input for the rest of the step and attempt: what it holds is discarded (R199, R200). -/
def Chan.closeInput (c : Chan) (x : Comb) (k : Nat) : Chan × Comb :=
  match x.inputs[k]? with
  | none => (c, x)
  | some i =>
    let fs := i.blocks.flatMap (·.frames)
    ((c.takeFrames fs).countBy (F.RED_UNIT_DISC_CLOSED_FRAMES.sh (unitOff x.unit)) fs.length,
      x.setInput k { i with closed := true, blocks := [], pages := 0 })

/-- Spool pages that a grove's backups hold (R203). -/
def Chan.spoolUsed (c : Chan) (g : Nat) : Nat :=
  (c.combs.filter (fun x => x.grove = g)).foldl (fun a x => x.inputs.foldl (fun a i => a + i.pages) a) 0

/-! ## Owner (R207-R210, R218) -/

/-- Owned shards in table order. -/
def Chan.owned (c : Chan) (g : Nat) : List Shard := (c.shards g).filter (fun s => s.owner = c.node)

/-- Owned gradient blocks before a shard, and in all. -/
def ownedBefore (l : List Shard) (n : Nat) : Nat := ((l.takeWhile (fun s => s.num ≠ n)).map (·.nblock)).foldl (· + ·) 0
def ownedTotal (l : List Shard) : Nat := (l.map (·.nblock)).foldl (· + ·) 0

/-- HBM line of a block record: buffer 0 or 1 by step parity, 2 the compare buffer (R218). -/
def Chan.sumLine (c : Chan) (g : Nat) (buf : Nat) (shard block : Nat) : Nat :=
  let l := c.owned g
  c.fld (F.CKP_UPD_GRV_SUM_SUM_LINE.sh (redOff g)) + 257 * (buf * ownedTotal l + ownedBefore l shard + block)

/-- A reduced-sum record (R218). -/
def sumRecord (shard : Nat) (h : BlkHead) (count : Nat) (vals : List Int) : Bytes :=
  leBytes 4 shard ++ leBytes 4 h.block ++ leBytes 8 h.poison ++ leBytes 1 (if h.sat then 1 else 0) ++ leBytes 1 h.cmax ++
    leBytes 2 count ++ leBytes 1 1 ++ zeros 43 ++ vals.flatMap (fun n => leBytes 8 (unsigned 64 n))

/-- Whether a shard is sampled in a step (R209). -/
def Chan.sampled (c : Chan) (g : Nat) (s : Shard) (step : Nat) : Bool :=
  s.tree2 ≠ 0xFFFF && (s.num + step) % max (c.fld (F.RED_GRV_CFG_DUAL_N.sh (redOff g))) 1 = 0

/-- A combiner's shard is done: every block sent by a source is combined, or every input is closed. -/
def Chan.combDone (c : Chan) (g : Nat) (x : Comb) (s : Shard) : Bool :=
  (c.liveBlocks g s).all (fun b => x.done.contains b) || x.openInputs.isEmpty

/-- Record bytes of a shard's blocks in a buffer. -/
def Chan.sumBytes (c : Chan) (g buf : Nat) (s : Shard) : Bytes :=
  (c.liveBlocks g s).flatMap (fun b => c.hbmRead (c.sumLine g buf s.num b * 64) (257 * 64))

/-- Whether the comparison meets a listed line in a buffer (R280). -/
def Chan.sumsPoisoned (c : Chan) (g buf : Nat) (s : Shard) : Bool :=
  (c.liveBlocks g s).any (fun b => c.poison.any (fun l => decide (c.sumLine g buf s.num b ≤ l) && decide (l < c.sumLine g buf s.num b + 257)))

/-- An uncorrectable error in a unit (R201, R216). -/
def Chan.unitUe (c : Chan) (u : Nat) (ue : Bool) : Chan :=
  if ue then ((c.setFld F.RED_STATUS_UE 1).setFld (F.RED_UNIT_STATUS_UE.sh (unitOff u)) 1).count (F.RED_UNIT_ERR_UE.sh (unitOff u)) else c

/-- Report bits of a combiner with a missing block added as SHORT (R207). -/
def Chan.combBits (c : Chan) (g : Nat) (x : Comb) (s : Shard) : Nat :=
  x.bits ||| (if (c.liveBlocks g s).all (fun b => x.done.contains b) then 0 else 2)

/-- The nodes and interfaces that a channel's entry for a tree names: its parent, then its sources (R264). -/
def TreeEntry.ends (e : TreeEntry) : List (Nat × Nat) :=
  if !e.valid then [] else (if e.root then [] else [(e.parent, e.parentIf)]) ++ e.sources.map (fun x => (x.node, x.ifx))

/-- The coordinator expands a shard's two trees into their nodes and interfaces and logs them, one entry each (R209; log
entry 87). -/
def Chan.logTrees (c : Chan) (g : Nat) (s : Shard) : Chan :=
  [(s.tree, 0), (s.tree2, 1)].foldl (fun (c : Chan) t => (c.treeEntry t.1).ends.foldl (fun (c : Chan) e =>
    c.event .hwFault 5 0 (some g) (argWide (e.1 + e.2 * 2 ^ 16 + t.2 * 2 ^ 24))) c) c

/-- The dual-path check of one shard: its report bits, and the channel (R209, R210). -/
def Chan.dualCheck (c : Chan) (g : Nat) (s : Shard) : Nat × Chan :=
  let v := c.grove g
  let a := v.verdict.attempt
  if !c.sampled g s v.step then (0, c)
  else
    let b1 := c.combBits g (c.comb g s false) s
    let b2 := c.combBits g (c.comb g s true) s
    if bits b1 1 1 = 1 then (0, c)
    else if bits b2 0 2 ≠ 0 then (32, c)
    else if c.sumsPoisoned g (v.step % 2) s then (1, c.unitUe 5 true)
    else if c.sumsPoisoned g 2 s then (32, c.unitUe 5 true)
    else if c.sumBytes g (v.step % 2) s = c.sumBytes g 2 s then (0, c)
    else
      let arg : BitVec 64 := BitVec.ofNat 64 (s.num + a * 2 ^ 24 + s.tree * 2 ^ 32 + s.tree2 * 2 ^ 48)
      let c1 := ((c.setFld F.RED_STATUS_MISMATCH 1).count (F.RED_UNIT_ERR_MISMATCH.sh (unitOff 5))).event .hwFault 5 7 (some g) arg
      if a = 0 then (16, (if v.coord = c.node then c1.logTrees g s else c1).onGrove g (fun v => { v with verdict := { v.verdict with retry0 := v.verdict.retry0 ++ [s.num] } }))
      else if v.verdict.retry0.contains s.num then
        (16 + 64, c1.sendCtl v.coord v.job (.stepFault a v.job v.step Status.consistencyFail.code s.num))
      else (16, c1)

/-- The exponent an owner proposes for a tensor (R206); none without a value. -/
def Chan.proposal (c : Chan) (g : Nat) (l : List Shard) (t : Nat) : Option (Nat × Int) :=
  match l.find? (fun s => s.tensor = t) with
  | none => none
  | some s0 =>
    let cs := (l.filter (fun s => s.tensor = t)).map (fun s => c.comb g s false)
    let G := (c.grove g).gOf s0
    if cs.any (fun x => bits x.bits 3 1 = 1) then some (t, min (G + 8) 127)
    else
      match cs.foldl (fun a x => cmaxJoin a (x.cmax.getD 0xFF)) 0xFF with
      | 0xFF => none
      | u => some (t, max (-128) (min 127 ((u : Int) + G - 40)))

/-- Numbers in rising order, without repeats. -/
def sortedIds (l : List Nat) : List Nat := (l.foldl (fun (m : NMap Nat) t => mapPut m t t) []).map (·.1)

/-- Pieces of `n` items; the first argument bounds the pieces, and there is at least one. -/
def pieces {α : Type} (n : Nat) : Nat → List α → List (List α)
  | 0, _ => [[]]
  | k + 1, l => if l.length ≤ n then [l] else l.take n :: pieces n k (l.drop n)

/-- Send the step report (R208). -/
def Chan.sendReport (c : Chan) (g b : Nat) (props : List (Nat × Int)) : Chan :=
  let v := c.grove g
  let ps := pieces 2044 props.length props
  (ps.zipIdx).foldl (fun c p =>
    let last := p.2 + 1 = ps.length
    c.sendFrame { Frame.blank 0x07 v.coord (.ctl (.stepReport v.verdict.attempt v.job v.step b p.2 p.1 last)) with
      job := v.job, flags := if last then 4 else 0 }) c

/-- The owner reports once every shard it owns is complete or closed (R207). -/
def Chan.ownerCheck (c : Chan) (g : Nat) : Chan :=
  let v := c.grove g
  let l := c.owned g
  let now := some (v.step, v.verdict.attempt)
  if l = [] || v.verdict.reported = now || !v.st.active then c
  else if !l.all (fun s => c.combDone g (c.comb g s false) s && (!c.sampled g s v.step || c.combDone g (c.comb g s true) s)) then c
  else
    -- blocks that no source sends are written complete and empty (R218)
    let c1 := l.foldl (fun c s =>
      ((List.range s.nblock).filter (fun b => !(c.liveBlocks g s).contains b)).foldl (fun c b =>
        c.hbmWrite (c.sumLine g (v.step % 2) s.num b) (sumRecord s.num ⟨b, 0, 0xFF, false, 0⟩ 0 (List.replicate 2048 0))) c) c
    let (b, c2) := l.foldl (fun (r : Nat × Chan) s =>
      let (d, c) := r.2.dualCheck g s
      (r.1 ||| c.combBits g (c.comb g s false) s ||| d, c)) (0, c1)
    let c3 := c2.onGrove g (fun v => { v with verdict := { v.verdict with reported := now } })
    c3.sendReport g b ((sortedIds (l.map (·.tensor))).filterMap (fun t => c3.proposal g l t))

/-! ## Arrival (R199-R203, R215, R265, R465) -/

/-- Whether a gradient frame's format code is one its type may carry (R40, R193). -/
def gradFmtOk (f : Frame) : Bool :=
  (f.fmt = fmtRg64 && f.typ ≠ 3) || (f.fmt = fmtSparse && f.typ ≠ 2)

/-- Blocks a frame carries, as an input presents them; a segment is a block with one quarter. -/
def frameBlocks (f : Frame) : List RedBlk :=
  let b := f.payload.bytes
  let second := f.flags.getLsbD 4
  let sr := f.flags.getLsbD 6
  if f.fmt = fmtSparse then
    let rs := parseSparse (b.length / 16) b
    rs.zipIdx.map (fun p =>
      ⟨p.1.1.block, f.step, p.1.1.attempt, f.gexp.toNat, second, true, p.1.2, p.1.1.poison, p.1.1.sat, p.1.1.cmax, f.ccount, sr, 4,
        if p.2 + 1 = rs.length then [f] else [], f.typ ≠ 4⟩)
  else
    let q := leAt b 4 1 % 4
    [⟨leAt b 0 4, f.step, leAt b 5 1, f.gexp.toNat, second, false,
      (List.range 512).map (fun k => (512 * q + k, signed 64 (leAt b (64 + 8 * k) 8))),
      leAt b 8 2 * 2 ^ (16 * q), bits (leAt b 7 1) 0 1 = 1, leAt b 6 1, f.ccount, sr, 1, [f], f.typ ≠ 4⟩]

/-- Add a segment to the block it continues. -/
def RedBlk.join (a b : RedBlk) : RedBlk :=
  { a with vals := a.vals ++ b.vals, poison := a.poison ||| b.poison, sat := a.sat || b.sat, cmax := cmaxJoin a.cmax b.cmax,
           segs := a.segs + 1, frames := a.frames ++ b.frames }

/-- Append what a frame carries to an input. -/
def RedIn.push (i : RedIn) (b : RedBlk) : RedIn :=
  match i.blocks.getLast? with
  | some a =>
    if !a.sparse && !b.sparse && a.segs < 4 && a.block = b.block then { i with blocks := i.blocks.dropLast ++ [a.join b] }
    else { i with blocks := i.blocks ++ [b] }
  | none => { i with blocks := [b] }

/-- Spool a backup frame: its credits return at once; a full spool ends the backup (R202, R203). -/
def Chan.spoolFrame (c : Chan) (g : Nat) (x : Comb) (k : Nat) (i : RedIn) (f : Frame) : Chan :=
  let c1 := c.takeFrame (fun y => y = f)
  let n := (f.plen + 4095) / 4096
  if i.full then c1
  else if c.fld (F.RED_GRV_SPOOL_SPOOL_PAGES.sh (redOff g)) < c.spoolUsed g + n then
    (c1.setFld F.RED_STATUS_SPOOL_FULL 1).putComb (x.setInput k { i with full := true, blocks := [], pages := 0 })
  else
    let i1 := (frameBlocks f).foldl (fun i b => i.push { b with frames := [] }) i
    c1.putComb (x.setInput k { i1 with pages := i.pages + n, last := i.last || f.flags.getLsbD 2 })

/-- A frame of a primary whose backup was taken: the slot counts once as late (R201, R202). -/
def Chan.lateFrame (c : Chan) (g : Nat) (x : Comb) (k : Nat) (i : RedIn) : Chan :=
  let c1 := c.setFld F.RED_STATUS_LATE 1
  if i.late then c1 else (c1.count (F.RED_GRV_DISC_LATE.sh (redOff g))).putComb (x.setInput k { i with late := true })

/-- Discard a frame as a protocol error (R199). -/
def Chan.protoDiscard (c : Chan) (u : Nat) (f : Frame) : Chan :=
  let c1 := (c.takeFrame (fun x => x = f)).protoErr u
  { c1 with redRx := mapPut c1.redRx (redKey f.job f.src) ((f.rseq + 1) % 2 ^ 32) }

/-- Whether the frame that a source's next sequence number names still waits at its interface, behind a verdict or the
combine buffer: the frames behind it wait too (R199, R465). -/
def Chan.behindWaiting (c : Chan) (f : Frame) : Bool :=
  let q := mapGet (fun _ => 0) c.redRx (redKey f.job f.src)
  let same (h : Frame) : Bool := 2 ≤ h.typ && h.typ ≤ 4 && h.src = f.src && h.job = f.job && h.rseq = q
  f.rseq ≠ q && (c.inbox.any same || (List.range 5).any (fun i => (c.link i).cells.any (fun x => x.outs.contains 5 && same x.frame)))

/-- A unit's combine buffer holds 8 blocks in progress: an input that already presents one waits (R198; log entry 86). -/
def Chan.bufferFull (c : Chan) (u : Nat) (i : RedIn) : Bool := i.backs.isNone && i.head.isSome && decide (8 ≤ c.openBlocks u)

/-- A gradient frame for a shard and tree that this channel combines (R197-R203, R215, R465). -/
def Chan.combFrame (c : Chan) (ifx g : Nat) (s : Shard) (second : Bool) (f : Frame) : Chan :=
  let v := c.grove g
  let x := c.comb g s second
  let k := redKey f.job f.src
  let attempt := gradAttempt f
  match x.inputs.zipIdx.find? (fun p => p.1.src = f.src && p.1.ifx ≠ 7) with
  | none => c.protoDiscard x.unit f
  | some (i, n) =>
    if c.behindWaiting f then c
    else if f.plen = 0 || !gradFmtOk f || f.rseq ≠ mapGet (fun _ => 0) c.redRx k then
      let (c1, x1) := (c.protoDiscard x.unit f).closeInput x n
      (c1.putComb x1).ownerCheck g
    else
      let seen (c : Chan) : Chan :=
        ({ c with redRx := mapPut c.redRx k ((f.rseq + 1) % 2 ^ 32) } : Chan).setFld (F.RED_UNIT_RX_SEQ_SEQ.sh (unitOff ifx)) f.rseq
      if f.step < v.step || (f.step = v.step && attempt < v.verdict.attempt) then
        ((seen c).takeFrame (fun y => y = f)).count (F.RED_UNIT_DISC_STALE_FRAMES.sh (unitOff x.unit))
      else if v.step < f.step || v.verdict.attempt < attempt then c
      else if i.closed then ((seen c).takeFrame (fun y => y = f)).count (F.RED_UNIT_DISC_CLOSED_FRAMES.sh (unitOff x.unit))
      else if i.backs.isSome then (seen c).spoolFrame g x n i f
      else if i.choice = 2 then ((seen c).takeFrame (fun y => y = f)).lateFrame g x n i
      else if c.bufferFull x.unit i then c
      else
        let i1 := (frameBlocks f).foldl RedIn.push i
        (seen c).putComb (x.setInput n { i1 with choice := 1, last := i.last || f.flags.getLsbD 2 })

/-- `GRADIENT_FRAME` (R196, R199, R215, R265). -/
def execGradientFrame (c : Fin 8) (i : Fin 5) (f : Frame) (s : State) : Host.Outcome State Fault Refusal :=
  chanStep s c (fun c =>
    if f.typ < 2 || 4 < f.typ then c
    else
      match c.groveOfJob f.job with
      | none => c.takeFrame (fun x => x = f)
      | some g =>
        let v := c.grove g
        if v.st = .paused then c
        else if !v.st.active then c.takeFrame (fun x => x = f)
        else
          let second := f.flags.getLsbD 4
          match c.shard g f.shard with
          | none => c.protoDiscard 5 f
          | some sh =>
            let e := c.treeEntry (sh.treeOf second)
            if !e.valid || !(e.root || e.combine) then c.protoDiscard (if e.combine && !e.root then e.parentIf else 5) f
            else if e.root && sh.owner ≠ c.node then c.protoDiscard 5 f
            else c.combFrame i.val g sh second f)

/-! ## Combining (R197, R205, R466) -/

/-- Value of a block at an index. -/
def RedBlk.val (b : RedBlk) (i : Nat) : Int := mapGet (fun _ => 0) b.vals i

/-- The block that enters the sum for an entry: under SUBSTITUTE a poisoned leaf block of a primary gives way to its backup's
(R204, R205). None when the backup's block is still awaited. -/
def Comb.substitute (x : Comb) (on : Bool) (k : Nat) (b : RedBlk) : Option RedBlk :=
  match x.inputs[k]?, x.backup k with
  | some p, some (_, bk) =>
    if !on || b.poison = 0 || !b.leaf || p.backs.isSome || !bk.usable then some b
    else
      match bk.blocks.find? (fun y => y.block = b.block && (y.sparse || y.segs = 4)) with
      | some y => if y.poison = 0 then some { y with count := 1, frames := b.frames } else some b
      | none => if bk.last then some b else none
  | _, _ => some b

/-- The combined block (R197): head, count, values by index, whether sparse and whether wide. -/
structure CombOut where
  head   : BlkHead
  count  : Nat
  sparse : Bool
  wide   : Bool
  sr     : Bool
  vals   : List (Nat × Int)
deriving DecidableEq, Repr

/-- Sum blocks element by element in 64-bit two's complement (R197). -/
def sumBlocks (attempt : Nat) (bs : List RedBlk) : CombOut :=
  let allSparse := bs.all (·.sparse)
  let idx := if allSparse then sortedIds (bs.flatMap (fun b => b.vals.map (·.1))) else List.range 2048
  let vals := idx.map (fun i => (i, signed 64 (unsigned 64 ((bs.map (fun b => b.val i)).foldl (· + ·) 0))))
  let wide := vals.any (fun p => decide (2 ^ 47 ≤ p.2.natAbs))
  { head := ⟨(bs.head?.map (·.block)).getD 0, attempt, bs.foldl (fun a b => cmaxJoin a b.cmax) 0xFF, bs.any (·.sat),
      bs.foldl (fun a b => a ||| b.poison) 0⟩
    count := (bs.map (·.count)).foldl (· + ·) 0
    sparse := allSparse && decide (vals.length ≤ if wide then 511 else 1022), wide := wide, sr := bs.any (·.sr), vals := vals }

/-- All 2,048 values of a combined block. -/
def CombOut.dense (o : CombOut) : List Int := (List.range 2048).map (fun i => mapGet (fun _ => 0) o.vals i)

/-- Emit a combined block towards the parent: one sparse frame, or four dense ones (R197; log entry 24). -/
def Chan.emitBlock (c : Chan) (g : Nat) (s : Shard) (x : Comb) (o : CombOut) : Chan :=
  let v := c.grove g
  let e := c.treeEntry (s.treeOf x.second)
  let final := some o.head.block = (c.liveBlocks g s).getLast?
  let fr (idx : Nat) (fmt : Nat) (poison last : Bool) (p : Bytes) : Frame :=
    { Frame.blank 0x04 e.parent (.raw p) with
      job := v.job, fmt := fmt, tensor := s.tensor, shard := s.num, step := x.step, mb := (x.sent + idx) % 65536
      flags := redFlags poison o.sparse last false x.second o.sr, gexp := BitVec.ofInt 8 (v.gOf s), ccount := o.count % 65536 }
  if o.sparse then
    c.redSend e.parentIf (fr 0 fmtSparse (o.head.poison ≠ 0) final (sparseRecord o.head o.wide o.vals))
  else
    (List.range 4).foldl (fun c q =>
      c.redSend e.parentIf (fr q fmtRg64 (bits o.head.poison (16 * q) 16 ≠ 0) (final && q = 3) (densePayload o.head q o.dense))) c

/-- Report bits that a root block raises (R207). -/
def blockBits (s : Shard) (o : CombOut) : Nat :=
  (if o.head.poison ≠ 0 then 1 else 0) + (if o.count < s.expect then 2 else 0) + (if s.expect < o.count then 4 else 0) +
    if o.head.sat then 8 else 0

/-- Whether the root may write blocks of the open step: the update two steps back is complete (R218, R465). -/
def GroveUpdate.before (u : GroveUpdate) (step : Nat) : Bool := (u.step.toList ++ u.queued).any (fun q => decide (q + 2 ≤ step))

/-- Remove the head that each of these entries contributed; after a primary's last block its backup's spool is freed (R202). -/
def Comb.consume (x : Comb) (ks : List Nat) (last : Bool) : Comb :=
  ks.foldl (fun x k =>
    match x.inputs[k]? with
    | none => x
    | some i =>
      let x1 := x.setInput k { i with blocks := i.blocks.tail, pages := if last then 0 else i.pages }
      match x1.backup k with
      | some (j, b) => if last then x1.setInput j { b with blocks := [], pages := 0 } else x1
      | none => x1) x

/-- Close the inputs whose heads break R466. -/
def Chan.closeWrong (c : Chan) (x : Comb) (g : Nat) (s : Shard) (heads : List (Nat × RedBlk)) : Chan × Comb :=
  let low := minOr 0xFFFFFFFF (heads.map (·.2.block))
  let gx := unsigned 8 ((c.grove g).gOf s)
  (heads.filter (fun p => p.2.block ≠ low || p.2.gexp ≠ gx || p.2.second ≠ x.second || p.2.attempt ≠ x.attempt)).foldl
    (fun r p => (r.1.protoErr x.unit).closeInput r.2 p.1) (c, x)

/-- A combined block that an uncorrectable error touched: every poison bit is set (R201). -/
def CombOut.poisoned (o : CombOut) (ue : Bool) : CombOut := if ue then { o with head := { o.head with poison := 2 ^ 64 - 1 } } else o

/-- Combine the block that every open input presents; unchanged while one is awaited. `ue`: an uncorrectable error in the
unit's combine buffer, spool or datapath touches the block (R201). -/
def Chan.combine (c : Chan) (g : Nat) (s : Shard) (second ue : Bool) : Chan :=
  let v := c.grove g
  let x := c.comb g s second
  let ks := x.openInputs
  let heads := ks.filterMap (fun k => (x.presents k).map (fun b => (k, b)))
  if ks = [] || heads.length ≠ ks.length then c
  else
    let (c1, x1) := c.closeWrong x g s heads
    let live := heads.filter (fun p => ((x1.inputs[p.1]?).map (fun i => !i.closed)).getD false)
    let subst := c.fld (F.RED_GRV_CFG_POLICY.sh (redOff g)) = 1
    let bs := live.filterMap (fun p => x1.substitute subst p.1 p.2)
    if live = [] then (c1.putComb x1).ownerCheck g
    else if bs.length ≠ live.length then c1.putComb x1
    else
      let o := (sumBlocks x1.attempt bs).poisoned ue
      let final := some o.head.block = (c.liveBlocks g s).getLast?
      let c2 := (c1.takeFrames (bs.flatMap (·.frames))).unitUe x1.unit ue
      let off := R.RED_UNIT_BLOCKS_LO + unitOff x1.unit
      let c3 : Chan := { c2 with bank := c2.bank.add64 chanRegs off 1 }
      let x2 := x1.consume (live.map (·.1)) final
      let x3 : Comb := { x2 with
        done := x2.done ++ [o.head.block], sent := x2.sent + (if o.sparse then 1 else 4)
        bits := x2.bits ||| blockBits s o, cmax := some (cmaxJoin (x2.cmax.getD 0xFF) o.head.cmax) }
      if x1.unit = 5 then
        let buf := if second then 2 else v.step % 2
        ((c3.putComb x3).hbmWrite (c.sumLine g buf s.num o.head.block) (sumRecord s.num o.head o.count o.dense)).ownerCheck g
      else (c3.emitBlock g s x1 o).putComb x3

/-- `COMBINE_BLOCK` (R197, R201, R465, R466). -/
def execCombineBlock (c : Fin 8) (g : Fin 16) (shard : Nat) (second : WithUe Bool) (s : State) : Host.Outcome State Fault Refusal :=
  chanStep s c (fun c =>
    match c.shard g shard with
    | none => c
    | some sh =>
      let e := c.treeEntry (sh.treeOf second.it)
      let v := c.grove g
      if !v.st.active || !e.valid || !(e.root || e.combine) || (e.root && v.update.before v.step) then c
      else c.combine g sh second.it second.ue)

/-- Entries that a combiner waits for: open ones that present nothing, but a complete backup whose grace window decides;
and backups whose block a substitution awaits (R200, R202, R205). -/
def Comb.awaited (x : Comb) (on : Bool) : List Nat :=
  let ks := x.openInputs
  let undecided (k : Nat) : Bool := match x.inputs[k]? with
    | some i => i.last && (match i.backs with
        | some p => ((x.inputs[p]?).map (fun q => decide (q.choice = 0))).getD false
        | none => false)
    | none => false
  ks.filter (fun k => (x.presents k).isNone && !undecided k) ++
    ks.filterMap (fun k => match x.presents k with
      | some b => if (x.substitute on k b).isNone then (x.backup k).map (·.1) else none
      | none => none)

/-- `SLOT_TIMEOUT` (R200): an input that presents nothing is closed. -/
def execSlotTimeout (c : Fin 8) (g : Fin 16) (shard : Nat) (second : Bool) (src : Nat) (s : State) : Host.Outcome State Fault Refusal :=
  chanStep s c (fun c =>
    match c.shard g shard with
    | none => c
    | some sh =>
      let e := c.treeEntry (sh.treeOf second)
      let v := c.grove g
      let x := c.comb g sh second
      if !v.st.active || !e.valid || !(e.root || e.combine) then c
      else
        match (x.awaited (c.fld (F.RED_GRV_CFG_POLICY.sh (redOff g)) = 1)).find? (fun k =>
            ((x.inputs[k]?).map (fun i => decide (i.src = src))).getD false) with
        | none => c
        | some k =>
          let (c1, x1) := c.closeInput x k
          (((c1.setFld F.RED_STATUS_SLOT_CLOSED 1).count (F.RED_UNIT_ERR_CLOSED.sh (unitOff x.unit))).putComb x1).ownerCheck g)

/-- `GRACE_EXPIRY` (R202): the complete backup of an undecided slot is taken. `src` names the slot's primary or backup. -/
def execGraceExpiry (c : Fin 8) (g : Fin 16) (shard : Nat) (src : Nat) (s : State) : Host.Outcome State Fault Refusal :=
  chanStep s c (fun c =>
    match c.shard g shard with
    | none => c
    | some sh =>
      let x := c.comb g sh false
      match x.slots.find? (fun k =>
          match x.inputs[k]?, x.backup k with
          | some p, some (_, b) => p.choice = 0 && b.usable && b.last && (p.src = src || b.src = src)
          | _, _ => false) with
      | none => c
      | some k =>
        match x.inputs[k]? with
        | none => c
        | some p => (c.count (F.RED_GRV_CNT_BACKUPS.sh (redOff g))).putComb (x.setInput k { p with choice := 2 }))

end Sys2Proof.Machine
end

