-- ==== Sys2Proof/Machine/Egress.lean ====
section
/-! DEFINITION. The egress engine: records from tiles, thinning with error feedback, poison, and gradient frames
(R184, R187-R193, R204, R209). -/

namespace Sys2Proof.Machine

/-! ## Records (R187, R188, R192) -/

/-- Pages of staged records, each in whole pages. -/
def stagePages (l : List StagedRec) : Nat := (l.map (fun r => (r.body.length + 64 + 4095) / 4096)).foldl (· + ·) 0

/-- Whether a record's header agrees with its entry, its shard and the open step (R187, R188). -/
def recordOk (v : Grove) (s : Shard) (e : EgEntry) (b : Bytes) : Bool :=
  leAt b 0 4 = s.tensor && leAt b 4 4 = e.block && leAt b 8 1 = e.half && leAt b 9 1 = (if e.thinned then 0x00 else 0x20) &&
    (e.thinned = decide (s.kshift ≠ 0)) && leAt b 10 1 = unsigned 8 (v.gOf s) && leAt b 12 4 = v.step &&
    b.length = 64 * (if e.thinned then 81 else 145)

/-- A tile's write into the egress aperture; `off` is its offset in lines (R187, R188, R192). -/
def Chan.egressWrite (c : Chan) (r : SlotRef) (off : Nat) (b : Bytes) : DevRes :=
  let g := r.grove
  let v := c.grove g
  let idx := bits off 8 19
  let e := ((c.egress g)[idx]?).getD (parseEg 0)
  match c.shard g e.shard with
  | none => .refuse 0x0F c
  | some s =>
    if !e.valid || bits off 0 8 ≠ 0 || !recordOk v s e b then .refuse 0x0F c
    else if v.egress.accepted.contains idx then
      (if v.egress.replayed then .done [] (c.count (F.RED_GRV_DISC_REWRITE.sh (redOff g))) else .refuse 0x0F c)
    else
      let x : StagedRec := ⟨idx, leAt b 11 1 % 2 = 1, b.drop 64⟩
      let slot := slotNum r
      if c.fld (F.RED_GRV_STAGE_STAGE_PAGES.sh (redOff g)) < stagePages (v.egress.staged ++ [x]) then
        .waits (c.setGrove g { v with egress := { v.egress with
          waiting := v.egress.waiting.filter (· ≠ slot) ++ [slot] } })
      else
        .done [] (c.setGrove g { v with egress := { v.egress with
          accepted := v.egress.accepted ++ [idx], staged := v.egress.staged ++ [x], waiting := v.egress.waiting.filter (· ≠ slot) } })

/-- `EGRESS_STAGE_TIMEOUT` (R192). -/
def execEgressStageTimeout (c : Fin 8) (g : Fin 16) (s : State) : Host.Outcome State Fault Refusal :=
  chanStep s c (fun c => if (c.grove g).egress.waiting = [] then c else c.groveFault g .capacity)

/-! ## Blocks (R189, R190) -/

/-- One gradient block as egress sends it, with the error feedback it writes: byte address and 4,096 bytes. -/
structure EgBlock where
  head   : BlkHead
  vals   : List (Nat × Int)
  zeroed : List Nat
  sr     : Bool
  ef     : List (Nat × Bytes)
deriving DecidableEq, Repr

/-- Poison bits of a set of elements (R184, R190). -/
def poisonOf (l : List Nat) : Nat := (List.range 64).foldl (fun a p => a + if l.any (fun i => i / 32 = p) then 2 ^ p else 0) 0

/-- Where element `i` of a block lies in its half's record. -/
def halfOf (i : Nat) : Nat := i % 64 / 32
def inHalf (i : Nat) : Nat := i / 64 * 32 + i % 32

/-- A flag byte that carries `NAN`, `INF_POS` or `INF_NEG`. -/
def flBad (f : Nat) : Bool := f % 8 ≠ 0

/-- The staged record of a half of a block. -/
def Chan.halfRec (c : Chan) (g shard block half : Nat) : Option StagedRec :=
  let es := c.egress g
  (c.grove g).egress.staged.find? (fun r =>
    match es[r.index]? with
    | some e => e.valid && e.shard = shard && e.block = block && e.half = half
    | none => false)

/-- What the padding of a block is; a tensor the list does not name has none. -/
def Chan.padding (c : Chan) (g : Nat) (s : Shard) (blk : Nat) : List Bool :=
  match c.tensorOf g s.tensor with
  | some t => skipBits t none (s.first + blk)
  | none => List.replicate 2048 false

/-- Padding and pruned elements of a block (R176, R189). -/
def Chan.skipped (c : Chan) (g : Nat) (s : Shard) (blk : Nat) : List Bool :=
  match c.tensorOf g s.tensor with
  | some t => skipBits t (c.maskOf g s.tensor) (s.first + blk)
  | none => List.replicate 2048 false

def Chan.zeroPolicy (c : Chan) (g : Nat) : Bool := c.fld (F.RED_GRV_CFG_POLICY.sh (redOff g)) = 2

/-- A dense block (R177, R189, R190). -/
def Chan.denseBlock (c : Chan) (g : Nat) (s : Shard) (blk : Nat) : EgBlock :=
  let v := c.grove g
  let h0 := c.halfRec g s.num blk 0
  let h1 := c.halfRec g s.num blk 1
  let pad := c.skipped g s blk
  -- flag byte and element, zero where padded or pruned (R177), or where the table lists no such half
  let el : List (Nat × Nat × Int) := (List.range 2048).map (fun i =>
    match (if halfOf i = 0 then h0 else h1) with
    | some r => if pad.getD i false then (i, 0, 0) else (i, leAt r.body (inHalf i) 1, signed 64 (leAt r.body (1024 + 8 * inHalf i) 8))
    | none => (i, 0, 0))
  let bad := (el.filter (fun e => flBad e.2.1)).map (·.1)
  let vals := el.map (fun e => (e.1, if flBad e.2.1 then 0 else e.2.2))
  let zero := c.zeroPolicy g
  { head := ⟨blk, v.verdict.attempt, cmaxOf (vals.map (·.2)), el.any (fun e => bits e.2.1 4 1 = 1), if zero then 0 else poisonOf bad⟩
    vals := vals, zeroed := if zero then bad else [], sr := (h0.map (·.sr)).getD false || (h1.map (·.sr)).getD false, ef := [] }

/-- One element on its way through thinning (R189): the sum a, whether it is non-finite, and n. -/
structure ThinElem where
  i     : Nat
  a     : Nat
  bad   : Bool
  n     : Int
  sat   : Bool
  skip  : Bool
deriving DecidableEq, Repr

/-- Steps 1-3 of R189 for one element. -/
def thinElem (G : Int) (i fl g e : Nat) (skip : Bool) : ThinElem :=
  let a := (binary32.add (binary32.decode g) (binary32.decode e)).1
  match binary32.decode g, binary32.decode e, binary32.decode a with
  | .fin .., .fin .., .fin s m x =>
    if flBad fl then ⟨i, a, true, 0, false, skip⟩
    else
      let (n, f) := toRg64 G ⟨s, m, x⟩
      ⟨i, a, false, n, decide (f &&& flOvf ≠ 0), skip⟩
  | _, _, _ => ⟨i, a, true, 0, false, skip⟩

/-- Step 4 of R189: the `k` largest, ties to the lower index. -/
def thinSelect (k : Nat) (l : List ThinElem) : List ThinElem :=
  let el := l.filter (fun e => !e.skip && !e.bad)
  el.filter (fun e => decide ((el.filter (fun d =>
    decide (e.n.natAbs < d.n.natAbs) || (d.n.natAbs = e.n.natAbs && decide (d.i < e.i)))).length < k))

/-- Step 5 of R189 and R190: the next error-feedback entry. -/
def thinEf (G : Int) (selected : Bool) (e : ThinElem) : Nat :=
  if e.bad then 0
  else if !selected then e.a
  else
    match binary32.decode e.a with
    | .fin s m x => (binary32.addFin s m x (decide (0 < e.n)) e.n.natAbs G).1
    | _ => 0

/-- Byte address of an error-feedback segment (R191). -/
def Chan.efAddr (c : Chan) (g buf index : Nat) : Nat :=
  let es := c.egress g
  let seg := thinnedCount (es.take index)
  (c.fld (F.RED_GRV_EF_EF_LINE.sh (redOff g)) + 64 * (buf * thinnedCount es + seg)) * 64

/-- A thinned block (R189-R191). -/
def Chan.thinBlock (c : Chan) (g : Nat) (s : Shard) (blk : Nat) : EgBlock :=
  let v := c.grove g
  let G := v.gOf s
  let cur := c.fld (F.RED_GRV_VCODE_EF_CUR.sh (redOff g))
  let h0 := c.halfRec g s.num blk 0
  let h1 := c.halfRec g s.num blk 1
  let pad := c.padding g s blk
  let skip := c.skipped g s blk
  let el : List ThinElem := (List.range 2048).filterMap (fun i =>
    (if halfOf i = 0 then h0 else h1).map (fun r =>
      let e := leNat (c.hbmRead (c.efAddr g cur r.index + 4 * inHalf i) 4)
      let x := thinElem G i (leAt r.body (inHalf i) 1) (leAt r.body (1024 + 4 * inHalf i) 4) e (skip.getD i false)
      if pad.getD i false then { x with a := 0, bad := false, n := 0, sat := false } else x))
  let sel := thinSelect (2048 / 2 ^ s.kshift) el
  let bad := (el.filter (·.bad)).map (·.i)
  let zero := c.zeroPolicy g
  let vals := sel.map (fun e => (e.i, e.n))
  let ef (r : Option StagedRec) (half : Nat) : List (Nat × Bytes) :=
    match r with
    | none => []
    | some r => [(c.efAddr g (1 - cur) r.index, ((el.filter (fun e => halfOf e.i = half)).flatMap (fun e =>
        leBytes 4 (thinEf G (sel.any (fun d => d.i = e.i)) e))))]
  let ovf := [h0, h1].any (fun h => (h.map (fun r => (r.body.take 1024).any (fun f => f.getLsbD 4))).getD false)
  { head := ⟨blk, v.verdict.attempt, cmaxOf (vals.map (·.2)), ovf || el.any (·.sat), if zero then 0 else poisonOf bad⟩
    vals := vals, zeroed := if zero then bad else [], sr := (h0.map (·.sr)).getD false || (h1.map (·.sr)).getD false, ef := ef h0 0 ++ ef h1 1 }

/-! ## Sending (R192, R193) -/

/-- Blocks of a shard that the egress table lists, in rising order. -/
def Chan.listedBlocks (c : Chan) (g shard : Nat) : List Nat :=
  sortedIds (((c.egress g).filter (fun e => e.valid && e.shard = shard)).map (·.block))

/-- Shards in egress-table order. -/
def Chan.egressShards (c : Chan) (g : Nat) : List Nat := (((c.egress g).filter (·.valid)).map (·.shard)).eraseDups

/-- Every half that the table lists for a block is staged (R192). -/
def Chan.blockReady (c : Chan) (g shard block : Nat) : Bool :=
  (c.egress g).all (fun e => !(e.valid && e.shard = shard && e.block = block) || (c.halfRec g shard block e.half).isSome)

/-- Blocks of a grove's egress still to be sent, in order. -/
def Chan.unsent (c : Chan) (g : Nat) : List (Nat × Nat) :=
  ((c.egressShards g).flatMap (fun n => (c.listedBlocks g n).map (fun b => (n, b)))).filter (fun p => !(c.grove g).egress.sent.contains p)

/-- The leading items whose sizes fit together in `room` (R192). -/
def fitting (room : Nat) : List (Nat × Nat) → List Nat
  | [] => []
  | (b, n) :: t => if n ≤ room then b :: fitting (room - n) t else []

/-- Bytes of a thinned block's record on the wire; a wholly pruned block sends none (R186, R195). -/
def Chan.recordBytes (c : Chan) (g : Nat) (s : Shard) (blk : Nat) : Nat :=
  if (c.liveBlocks g s).contains blk then 16 + 8 * (c.thinBlock g s blk).vals.length else 0

/-- The next blocks to send together: one dense block, or the ready run of a thinned shard that one frame holds (R192). -/
def Chan.nextRun (c : Chan) (g : Nat) (s : Shard) : List Nat :=
  let bs := (((c.unsent g).takeWhile (fun p => p.1 = s.num)).map (·.2)).takeWhile (fun b => c.blockReady g s.num b)
  if s.kshift = 0 then bs.take 1 else fitting 8192 (bs.map (fun b => (b, c.recordBytes g s b)))

/-- A block as the channel's own input of a combiner presents it. -/
def EgBlock.toRed (b : EgBlock) (v : Grove) (s : Shard) (second : Bool) : RedBlk :=
  ⟨b.head.block, v.step, v.verdict.attempt, unsigned 8 (v.gOf s), second, s.kshift ≠ 0, b.vals, b.head.poison, b.head.sat, b.head.cmax, 1, b.sr, 4, [], true⟩

/-- Whether the channel's own combiner has no room for its egress now (R198; log entry 86). -/
def Chan.ownFull (c : Chan) (g : Nat) (s : Shard) : Bool :=
  [false, true].any (fun second =>
    let e := c.treeEntry (s.treeOf second)
    e.valid && (e.root || e.combine) && (!second || c.sampled g s (c.grove g).step) &&
      (c.comb g s second).inputs.any (fun i => i.ifx = 7 && c.bufferFull (c.comb g s second).unit i))

/-- Send a run of blocks on one tree: into the channel's own combiner, or as frames to the parent (R186, R193, R264; log
entry 24). -/
def Chan.sendRun (c : Chan) (g : Nat) (s : Shard) (bs : List EgBlock) (second : Bool) : Chan :=
  let v := c.grove g
  let e := c.treeEntry (s.treeOf second)
  let backup := e.sources.any (fun x => x.ifx = 7 && x.backup)
  let last := (c.liveBlocks g s).getLast?
  if !e.valid || bs = [] || (second && backup) then c
  else if e.root || e.combine then
    let x := c.comb g s second
    match x.inputs.zipIdx.find? (fun p => p.1.ifx = 7) with
    | none => c
    | some (i, k) =>
      if i.closed then c
      else if i.choice = 2 then c.lateFrame g x k i
      else
        let i1 : RedIn := { i with
          blocks := i.blocks ++ bs.map (fun b => b.toRed v s second), choice := if i.backs.isSome then i.choice else 1
          last := i.last || bs.any (fun b => some b.head.block = last) }
        c.putComb (x.setInput k i1)
  else if !e.leaf then c
  else
    let key := 2 * s.num + if second then 1 else 0
    let n := mapGet (fun _ => 0) v.egress.frames key
    let fr (typ fmt k : Nat) (poison fin sr : Bool) (p : Bytes) : Frame :=
      { Frame.blank typ e.parent (.raw p) with
        job := v.job, fmt := fmt, tensor := s.tensor, shard := s.num, step := v.step, mb := (n + k) % 65536
        flags := redFlags poison (typ = 3) fin backup second sr, gexp := BitVec.ofInt 8 (v.gOf s), ccount := 1 }
    let frames : List Frame :=
      if s.kshift = 0 then
        bs.flatMap (fun b => (List.range 4).map (fun q =>
          fr 2 fmtRg64 q (bits b.head.poison (16 * q) 16 ≠ 0) (some b.head.block = last && q = 3) b.sr
            (densePayload b.head q (b.vals.map (·.2)))))
      else
        [fr 3 fmtSparse 0 (bs.any (fun b => b.head.poison ≠ 0)) (bs.any (fun b => some b.head.block = last)) (bs.any (·.sr))
          (bs.flatMap (fun b => sparseRecord b.head false b.vals))]
    let c1 := c.onGrove g (fun v => { v with egress := { v.egress with frames := mapPut v.egress.frames key (n + frames.length) } })
    frames.foldl (fun c f => c.redSend e.parentIf f) c1

/-- Note elements that ZERO_ELEMENT cleared (R204): the shard's first, the full count, and at its last block the event. -/
def Chan.noteZeroed (c : Chan) (g : Nat) (s : Shard) (bs : List EgBlock) (final : Bool) : Chan :=
  let v := c.grove g
  let z := bs.flatMap (fun b => b.zeroed.map (fun i => (b.head.block, i)))
  let old := v.egress.zeroed.find? (fun p => p.1 = s.num)
  let now : Option (Nat × Nat × Nat × Nat) :=
    match old, z with
    | some (n, b, i, k), _ => some (n, b, i, k + z.length)
    | none, (b, i) :: _ => some (s.num, b, i, z.length)
    | none, [] => none
  let c1 := if z = [] then c else (c.setFld F.RED_STATUS_ZERO 1).countBy (F.RED_GRV_DISC_ZERO.sh (redOff g)) z.length
  match now with
  | none => c1
  | some p =>
    let c2 := c1.onGrove g (fun v => { v with egress := { v.egress with zeroed := v.egress.zeroed.filter (fun q => q.1 ≠ s.num) ++ [p] } })
    if final then
      c2.event .ok 5 6 (some g) (BitVec.ofNat 64 (s.num + p.2.1 * 2 ^ 24 + p.2.2.1 * 2 ^ 38 + min p.2.2.2 0x7FFF * 2 ^ 49))
    else c2

/-- Open the coordinator's decision for the step and attempt in progress, unless it is decided or open (R211). -/
def GroveVerdict.openFor (w : GroveVerdict) (step attempt : Nat) : GroveVerdict :=
  if w.log.any (fun r => r.step = step && r.attempt = attempt) || w.open_.any (fun d => d.step = step && d.attempt = attempt) then w
  else { w with open_ := w.open_ ++ [⟨step, attempt, [], []⟩] }

/-- Egress of the step is done: the member waits for the verdict; the coordinator's timer starts (R211, R214). -/
def Chan.egressDone_ (c : Chan) (g : Nat) : Chan :=
  let v := c.grove g
  if c.unsent g ≠ [] || c.egressShards g = [] then c
  else
    let c1 := c.setFld (F.RED_GRV_VCODE_WAITING.sh (redOff g)) 1
    let c2 := if v.coord = c.node then
        c1.onGrove g (fun v => { v with verdict := v.verdict.openFor v.step v.verdict.attempt })
      else c1
    c2.ownerCheck g

/-- A block that an uncorrectable error touched: every poison bit is set (R201, R280). -/
def EgBlock.poisoned (b : EgBlock) (ue : Bool) : EgBlock := if ue then { b with head := { b.head with poison := 2 ^ 64 - 1 } } else b

/-- Whether an error-feedback line that a run reads is on the poison list (R191, R280). -/
def Chan.efPoisoned (c : Chan) (g : Nat) (s : Shard) (run : List Nat) : Bool :=
  s.kshift ≠ 0 && run.any (fun b => [0, 1].any (fun h => ((c.halfRec g s.num b h).map (fun r =>
    let a := c.efAddr g (c.fld (F.RED_GRV_VCODE_EF_CUR.sh (redOff g))) r.index / 64
    c.poison.any (fun l => decide (a ≤ l) && decide (l < a + 64)))).getD false))

/-- `EGRESS_SEND` (R192): the next blocks in order that are ready leave, and their pages are freed. `ue`: the staging of these blocks
reads uncorrectable (R201, R280). -/
def execEgressSend (c : Fin 8) (g : WithUe (Fin 16)) (s : State) : Host.Outcome State Fault Refusal :=
  chanStep s c (fun c =>
    let ue := g.ue
    let g := g.it.val
    let v := c.grove g
    if !v.st.active || v.kind ≠ 1 then c
    else
      match c.unsent g with
      | [] => c
      | (n, _) :: _ =>
        match c.shard g n with
        | none => c
        | some sh =>
          let run := c.nextRun g sh
          if run = [] || c.ownFull g sh then c
          else
            let bad := ue || c.efPoisoned g sh run
            let bs := run.map (fun b => (if sh.kshift = 0 then c.denseBlock g sh b else c.thinBlock g sh b).poisoned bad)
            let live := c.liveBlocks g sh
            let out := bs.filter (fun b => live.contains b.head.block)
            let es := c.egress g
            let c0 := if bad then c.setFld F.RED_STATUS_UE 1 else c
            let c1 := bs.foldl (fun c b => b.ef.foldl (fun c p => c.hbmWrite (p.1 / 64) p.2) c) c0
            let c2 := c1.sendRun g sh out false
            let c3 := if c.sampled g sh v.step then c2.sendRun g sh out true else c2
            let c4 := c3.noteZeroed g sh out (run.any (fun b => some b = (c.listedBlocks g n).getLast?))
            let c5 := c4.onGrove g (fun v => { v with egress := { v.egress with
              sent := v.egress.sent ++ run.map (fun b => (n, b))
              staged := v.egress.staged.filter (fun r => match es[r.index]? with
                | some e => !(e.shard = n && run.contains e.block)
                | none => true) } })
            c5.egressDone_ g)

end Sys2Proof.Machine
end

