-- ==== Sys2Proof/Machine/GroveOps.lean ====
section
/-! DEFINITION. Grove states: pausing, resuming, draining, and what they answer (R307, R309, R312, R333). -/

namespace Sys2Proof.Machine

/-- Complete every `GROVE_DRAIN` of a grove; a grove that finished no step has no last one, and the value is free (R300). -/
def Chan.answerDrain (c : Chan) (g last : Nat) (none_ : Bool) : Chan :=
  (c.acceptedFor 0x55 g).foldl (fun c d =>
    let (n, c1) := if none_ then c.draw else (last, c)
    c1.complete d .ok (some g) (leBytes 4 n)) c

/-- The end of a drain: the grove is LOADED (R309). -/
def Chan.drainEnd (c : Chan) (g last : Nat) (none_ : Bool) : Chan :=
  let c1 := (c.onGrove g (fun v => { v with st := .loaded, draining := false, pauseAt := none, ws := { v.ws with attached := false } })).answerDrain
    g last none_
  -- a pause at a step that does not come any more is refused (R309; log entry 54)
  ((c1.deferred 0x53 g).foldl (fun c d => c.conflict d (some g)) c1).settle

/-- A training grove between steps, with no update in progress or due. -/
def Grove.between (v : Grove) : Bool := v.kind = 1 && !v.begun && v.update.step.isNone && v.update.queued.isEmpty

/-- What a training grove does once it stands between steps: it ends a drain, or pauses where it was told to (R300, R309). -/
def Chan.stepReached (c : Chan) (g : Nat) : Chan :=
  let v := c.grove g
  if !v.between then c
  else if v.st = .draining || (v.st = .running && v.stop ≤ v.step) then c.drainEnd g (v.step - 1) (v.step = 0)
  else if v.st = .running && v.pauseAt = some v.step then (c.pauseGrove g 0).answerPause g v.step
  else c

/-- Clear a pause cause; with none left the grove returns to the state it paused from (R307, R309). -/
def Chan.unpause (c : Chan) (g cause : Nat) : Chan :=
  let v := c.grove g
  let m := if bits v.causes cause 1 = 1 then v.causes - 2 ^ cause else v.causes
  if v.st ≠ .paused then c
  else if m ≠ 0 then c.setGrove g { v with causes := m }
  else
    ((c.setGrove g { v with st := if v.draining then .draining else v.from_, causes := 0, draining := false }).settle).stepReached g

/-- A grove's descriptors in progress are complete and no update runs: nothing of a paused or drained grove moves (R309). -/
def Chan.quiet (c : Chan) (g : Nat) : Bool :=
  ((c.tilesOf g).all (fun i => (c.tile i).a.run.isNone && (c.tile i).b.run.isNone)) && (c.grove g).update.step.isNone

/-- Answer the `CHANNEL_FREEZE` commands that wait, once every grove is paused (R297). -/
def Chan.answerFreeze (c : Chan) : Chan :=
  if groveNums.any (fun g => (c.grove g).st.active || ((c.grove g).st = .paused && !c.quiet g)) then c
  else
    ((List.range 8).filterMap (fun q => match (c.queue q).current with
      | some d => if d.opcode = 0x0B then some d else none
      | none => none)).foldl (fun c d => c.reply d .ok none [] []) c

/-- Set a freeze cause: the first one freezes a READY or RUNNING channel and pauses its active groves; one that is paused already takes
the cause too (R307, R390; log entry 93). -/
def Chan.freezeBy (c : Chan) (bit : Nat) : Chan :=
  let c1 : Chan := { c with freeze := if bits c.freeze bit 1 = 1 then c.freeze else c.freeze + 2 ^ bit }
  if c.st = .ready || c.st = .running then
    groveNums.foldl (fun (c : Chan) g => c.pauseGrove g 1) { c1 with st := .frozen }
  else if c.st = .frozen then c1
  else c

/-- Clear a freeze cause; with none left the channel leaves FROZEN and the FREEZE pauses end (R307). -/
def Chan.thawBy (c : Chan) (bit : Nat) : Chan :=
  if bits c.freeze bit 1 = 0 then c
  else
    let c1 : Chan := { c with freeze := c.freeze - 2 ^ bit }
    if c1.freeze ≠ 0 || c.st ≠ .frozen then c1
    else (groveNums.foldl (fun (c : Chan) g => if bits (c.grove g).causes 1 1 = 1 then c.unpause g 1 else c) { c1 with st := .ready }).settle

/-- `GROVE_QUIESCENT` (R309): a paused grove is quiet and its `GROVE_PAUSE` replies; an evaluation grove that drains has
finished its batches. -/
def execGroveQuiescent (c : Fin 8) (g : Fin 16) (s : State) : Host.Outcome State Fault Refusal :=
  chanStep s c (fun c =>
    let v := c.grove g
    if !c.quiet g then c
    else if v.st = .paused then (c.answerPause g 0xFFFFFFFF).answerFreeze
    else if v.st = .draining && v.kind = 0 then
      let last := if v.begun then v.step else v.step - 1
      (c.drainEnd g last (!v.begun && v.step = 0))
    else c)

end Sys2Proof.Machine
end

