-- ==== Sys2Proof/Machine/Pd.lean ====
section
/-! DEFINITION. The port die: its registers, the module fault log, sessions and replies, freeze causes, caps, alarms and
key erasure (R28, R290-R295, R307, R313, R331, R339, R372, R377, R391, R417, R428-R430, R440). -/

namespace Sys2Proof.Machine

/-! ## Registers and flags -/

def PortDie.reg (p : PortDie) (off : Nat) : Word := p.bank.get pdRegs off
def PortDie.putReg (p : PortDie) (off : Nat) (v : Word) : PortDie := { p with bank := p.bank.put pdRegs off v }
def PortDie.fld (p : PortDie) (f : Fld) : Nat := p.bank.fld pdRegs f
def PortDie.setFld (p : PortDie) (f : Fld) (v : Nat) : PortDie := { p with bank := p.bank.setFld pdRegs f v }
def PortDie.count (p : PortDie) (f : Fld) : PortDie := { p with bank := p.bank.count pdRegs f }
def PortDie.flag (p : PortDie) (f n : Fld) : PortDie := (p.setFld f 1).count n

/-- Act on the port die's part of the state. -/
def State.onPort (s : State) (f : PortDie → PortDie) : State := { s with pd := f s.pd }

/-- A free value of the port die, and the state that has drawn it (log entry 3). -/
def State.draw (s : State) : Nat × State :=
  (Config.freeNat (8 * 2 ^ 40 + s.pd.free), s.onPort (fun p => { p with free := p.free + 1 }))

/-- Free bytes of the port die: a nonce. -/
def State.drawBytes (s : State) (n : Nat) : Bytes × State :=
  (slice (Config.freeBytes s.pd.free n) 0 n, s.onPort (fun p => { p with free := p.free + 1 }))

/-! ## The module fault log (R305, R414, R417) -/

/-- Whether a channel's clock runs: its PLL has locked since it left OFF (R38, R396). -/
def Chan.clocked (c : Chan) : Bool := c.fld F.CLK_STATUS_PLL_LOCK = 1

/-- `PCLK` of a module entry: the named channel's count; else 0 before a channel clock exists, and a free value where the
manual does not say whose count it is (log entry 41). -/
def State.logClock (s : State) (ch : Option Nat) : Nat × State :=
  match ch with
  | some c => ((s.chan c).pclk, s)
  | none =>
    if (List.range 8).any (fun c => (s.chan c).clocked) then let (n, s1) := s.draw; (n % 2 ^ 64, s1) else (0, s)

/-- Append an entry to the module fault log and send it (R305, R417). -/
def State.flog (s : State) (st : Status) (src code : Nat) (ch : Option Nat) (arg : BitVec 64) : State :=
  let (t, s1) := s.logClock ch
  let e : LogEntry :=
    { seq := s1.pd.fld F.PD_FLOG_SEQ_NEXT, step := 0xFFFFFFFF, pclk := t, status := st, src := src, code := code, grove := 0xFF
      ch := ch.getD 0xFF, job := 0, arg := arg }
  let s2 := s1.onPort (fun p =>
    { p.setFld F.PD_FLOG_SEQ_NEXT (e.seq + 1) with
      log := newest 1024 (p.log ++ [e]), unringed := newest 1024 (p.unringed ++ [e]) })
  (s2.deliver 0xFF (.event e)).settleServices

/-- Set a flag of the port die and count it. -/
def State.pdFlag (s : State) (f n : Fld) : State := s.onPort (fun p => p.flag f n)

/-! ## Sessions, module queues and replies (R290-R295) -/

/-- The session of a command, ended or not (R290). -/
def PortDie.anySession (p : PortDie) (id : Nat) : Option Session :=
  match p.session id with
  | some x => some x
  | none => p.ended.find? (fun x => x.id = id)

/-- Change a session, open or ended. -/
def PortDie.onSession (p : PortDie) (id : Nat) (f : Session → Session) : PortDie :=
  { p with sessions := p.sessions.map (fun x => if x.id = id then f x else x)
           ended := if (p.session id).isSome then p.ended else p.ended.map (fun x => if x.id = id then f x else x) }

/-- The queue of a session that executes module commands. -/
def PortDie.modQueue (p : PortDie) (id : Nat) : Queue := ((p.anySession id).map (·.queue)).getD Queue.fresh

/-- The reply of a session that is not open is kept (R290; log entry 90). -/
def PortDie.keepReply (p : PortDie) (id : Nat) (r : ReplyRec) : PortDie :=
  if (p.session id).isSome then p else { p with undelivered := p.undelivered ++ [r] }

/-- Reply to a module command. On session 0 the reply carries no token, and the manual gives its token count no value: it
is free (R292, R294; log entry 35). The reply of a session that has ended is kept in `undelivered`, and not sent (R290; log entry 90). -/
def State.replyM (s : State) (d : Datagram) (st : Status) (detail data : Bytes) : State :=
  if d.session = 0 then
    let (n, s1) := s.draw
    let r : ReplyRec := ⟨d.seq, d.opcode, d.origin, replyBlock st 0xFF 0xFF 0xFF (n % 2 ^ 16) detail ++ data⟩
    (s1.onPort (fun p => { p with session0 := p.session0.filter (fun x => x ≠ d) })).deliver 0xFF (.reply 0xFF 0 0 r)
  else
    let q := s.pd.modQueue d.session
    let r : ReplyRec := ⟨d.seq, d.opcode, d.origin, replyBlock st 0xFF 0xFF 0xFF (min (q.tokens + 1) 64) detail ++ data⟩
    (s.onPort (fun p => (p.onSession d.session (fun x => { x with queue := q.answer d st r })).keepReply d.session r)).deliver 0xFF
      (.reply 0xFF 0 d.session r)

/-- Reply BAD_PARAM to a module command. -/
def State.badParamM (s : State) (d : Datagram) (off : Nat) : State := s.replyM d .badParam (leBytes 2 off) []

/-- Complete an ACCEPTED module command: an event of the module fault log too (R305). -/
def State.completeM (s : State) (d : Datagram) (st : Status) (data : Bytes) : State :=
  let (t, s1) := s.logClock none
  let e : LogEntry :=
    { seq := s1.pd.fld F.PD_FLOG_SEQ_NEXT, step := 0xFFFFFFFF, pclk := t, status := st, src := 10, code := 0, grove := 0xFF, ch := 0xFF
      job := 0, arg := argNone }
  let s2 := s1.onPort (fun p =>
    { (p.setFld F.PD_FLOG_SEQ_NEXT (e.seq + 1)).onSession d.session (fun x =>
        { x with queue := { x.queue with accepted := x.queue.accepted.filter (fun y => y.seq ≠ d.seq) } }) with
      log := newest 1024 (p.log ++ [e]), unringed := newest 1024 (p.unringed ++ [e]) })
  (s2.deliver 0xFF (.completion e d st data)).settleServices

/-- Answer the commands at the head of a module queue whose opcode or length is wrong (R296). -/
def State.flushM (id : Nat) : Nat → State → State
  | 0, s => s
  | n + 1, s =>
    match (s.pd.modQueue id).head with
    | none => s
    | some d =>
      match formatCheck false d.opcode d.params with
      | none => s
      | some st =>
        State.flushM id n ((s.onPort (fun p => p.onSession id (fun x => { x with queue := x.queue.begin d }))).replyM d st [] [])

/-- Every module queue, flushed. -/
def State.flushAll (s : State) : State :=
  ((s.pd.sessions ++ s.pd.ended).map (·.id)).foldl (fun s i => State.flushM i 65 s) s

/-- Whether an admitted command of a session is left anywhere (R290). -/
def State.admitted (s : State) (id : Nat) : Bool :=
  decide ((s.pd.modQueue id).tokens < 64) ||
    s.chans.any (fun c => c.2.queues.any (fun q => q.2.owner = some id && decide (q.2.tokens < 64)))

/-- A session ends (R290): its keys go, and the queues it claimed are released once their last admitted command has
replied. -/
def State.endSession (s : State) (id : Nat) : State :=
  match s.pd.session id with
  | none => s
  | some x =>
    let busy := s.admitted id
    let rel (q : Queue) : Queue :=
      if q.owner ≠ some id then q
      else if q.tokens = 64 then { Queue.fresh with accepted := q.accepted } else { q with ending := true }
    { s with
      chans := s.chans.map (fun c => (c.1, { c.2 with queues := c.2.queues.map (fun q => (q.1, rel q.2)) }))
      pd := { s.pd with
        sessions := s.pd.sessions.filter (fun y => y.id ≠ id)
        ended := if busy then s.pd.ended ++ [{ x with kHm := [], kMh := [], sub := none }] else s.pd.ended } }

/-! ## Freeze causes set by the port die (R307) -/

/-- Channels that a module-wide cause reaches: not OFF, not LOCKED. -/
def State.liveChans (s : State) : List Nat := (List.range 8).filter (fun c => (s.chan c).st ≠ .off && (s.chan c).st ≠ .locked)

/-- Set a freeze cause in every live channel; a channel in BRINGUP takes it on reaching READY (R307, R429). -/
def State.freezeAll (s : State) (bit : Nat) : State := s.liveChans.foldl (fun s c => s.onChan c (fun c => c.freezeBy bit)) s

/-- Clear a freeze cause in every channel. -/
def State.thawAll (s : State) (bit : Nat) : State := (List.range 8).foldl (fun s c => s.onChan c (fun c => c.thawBy bit)) s

/-- Whether a freeze cause is set in some channel. -/
def State.causeSet (s : State) (bit : Nat) : Bool := (List.range 8).any (fun c => bits (s.chan c).freeze bit 1 = 1)

/-! ## The module cap (R371, R372, R376, R377) -/

def State.sharedW (s : State) : Nat := 4 * s.pd.fld F.TH_MOD_CFG_SHARED

/-- H_c of a channel out of OFF; in BRINGUP, before it is measured, its power stands for it (R371, R390). -/
def Chan.holdW (c : Chan) : Nat := if c.fld F.TH_DUTY_HOLD = 0 then c.fld F.TH_POWER_POWER else c.fld F.TH_DUTY_HOLD

/-- Without power: OFF or LOCKED. -/
def Chan.down (c : Chan) : Bool := c.st = .off || c.st = .locked

/-- A figure summed over the channels that satisfy `p`. -/
def State.sumOver (s : State) (p : Chan → Bool) (f : Chan → Nat) : Nat :=
  (List.range 8).foldl (fun a c => a + if p (s.chan c) then f (s.chan c) else 0) 0

/-- Power of the channels in OFF (R371, R378). -/
def State.offW (s : State) : Nat := s.sumOver Chan.down (·.fld F.TH_POWER_POWER)

/-- The module floor F (R371). -/
def State.floorW (s : State) : Nat := s.sharedW + s.offW + s.sumOver (fun c => !c.down) Chan.holdW

/-- Shares that channels without a controller link keep (R378). -/
def State.keptW (s : State) : Nat := s.sumOver (fun c => !c.down && c.linkLost) (·.fld F.TH_TARGET_SHARE)

/-- Hold power of the channels that share the rest. -/
def State.upHoldW (s : State) : Nat := s.sumOver (fun c => !c.down && !c.linkLost) Chan.holdW

/-- The supply limit (R376); none from 46 V up. -/
def State.supplyLimit (s : State) : Option Nat :=
  let v := s.pd.power.vin
  let f := s.floorW
  if 46000 ≤ v then none
  else if v < 44500 then some f
  else some (f + (24000 - f) * (v - 44500) / 1500)

/-- The limits in force with their source codes (R372). -/
def State.limits (s : State) : List (Nat × Nat) :=
  let p := s.pd
  [(0, 24000)] ++ (match p.power.pmbusCap with | some w => [(1, w / 65536)] | none => []) ++ [(2, p.fld F.TH_MOD_HOST_CAP_CAP)]
    ++ (if p.power.orphan then [(3, p.fld F.TH_MOD_ORPHAN_CAP)] else [])
    ++ (if p.power.capStep then [(4, p.fld F.TH_MOD_STEP_CAP_CAP)] else [])
    ++ (if p.powered then (match s.supplyLimit with | some w => [(5, w)] | none => []) else [])

/-- C and the source that sets it, the lowest code among equals (R372). -/
def State.capOf (s : State) : Nat × Nat :=
  s.limits.foldl (fun a p => if p.2 < a.2 then p else a) (0, 24000)

/-- Whether freeze cause CAP is due: C below the floor, or a budget below the hold power of the channels that share it
(R377, R378; log entry 64). -/
def State.capCause (s : State) : Bool :=
  decide (s.capOf.2 < s.floorW) || decide (s.capOf.2 < s.sharedW + s.offW + s.keptW + s.upHoldW)

/-- Recompute C, the floor and the power figures; a cap below the floor freezes every channel under CAP until it is at or
above it again (R372, R377, R391). -/
def State.recap (s : State) : State :=
  let (src, cap) := s.capOf
  let f := s.floorW
  let pw := (List.range 8).foldl (fun a c => a + (s.chan c).fld F.TH_POWER_POWER) s.sharedW
  let dm := (List.range 8).foldl (fun a c => a + if (s.chan c).st = .off then 0 else (s.chan c).fld F.TH_POWER_DEMAND) s.sharedW
  let below := s.causeSet 1
  let s1 := s.onPort (fun p =>
    ((((p.setFld F.TH_MOD_CAP_CAP cap).setFld F.TH_MOD_CAP_SOURCE src).setFld F.TH_MOD_FLOOR_FLOOR f).setFld
      F.TH_MOD_POWER_POWER pw).setFld F.TH_MOD_POWER_DEMAND dm)
  if s.capCause then
    let s2 := if below || decide (f ≤ cap) then s1 else s1.pdFlag F.TH_MOD_STATUS_BELOW_FLOOR F.TH_MOD_COUNT_BELOW_FLOOR
    s2.freezeAll 1
  else if below then s1.thawAll 1 else s1

/-! ## Alarms and key erasure (R428-R430) -/

/-- Flag and companion of an alarm flag: 0 MESH, 1 SEAL, 2 GLITCH, 3 FW_AUTH, 4 ATTEST (R440). -/
def alarmFlag (k : Nat) : Fld := ⟨R.SEC_STATUS, k, 1⟩
def alarmCount (k : Nat) : Fld := if k = 4 then F.SEC_ALARM_COUNT2_ATTEST else ⟨R.SEC_ALARM_COUNT, 8 * k, 8⟩

/-- Response in force for a flag's class: 0 LOG, 1 FREEZE, 2 ERASE_KEYS (R429). -/
def State.response (s : State) (k : Nat) : Nat :=
  let cls := if k ≤ 1 then 0 else k - 1
  s.pd.fld ⟨R.SEC_ALARM_CFG, 2 * cls, 2⟩

/-- Channel in LOCKED: groves, queues and memories gone (R430). -/
def Chan.lock (c : Chan) : Chan := { Chan.reset c.idx with st := .locked, free := c.free }

/-- Key erasure (R430): sessions and keys go, the module is LOCKED, every channel with it. Nothing is sent. -/
def State.eraseKeys (s : State) : State :=
  { s with
    chans := s.chans.map (fun c => (c.1, c.2.lock))
    pd := { s.pd with
      sessions := [], ended := [], pending := [], session0 := [], keys := [], locked := true, services := [0xFF, 0xFF, 0xFF]
      power := { s.pd.power with regOff := true, pwrOk := false } } }

/-- Raise an alarm (R429). -/
def State.alarm (s : State) (k : Nat) : State :=
  let r := s.response k
  let s1 := (s.pdFlag (alarmFlag k) (alarmCount k)).flog (if r = 2 then .locked else .hwFault) 10 0 none (argFld (alarmFlag k))
  if s.pd.locked then s else if r = 0 then s1 else if r = 1 then s1.freezeAll 5 else s1.eraseKeys

/-- Signature failures inside the present window (R428, R440). -/
def PortDie.failsNow (p : PortDie) : Nat :=
  (p.sigFails.filter (fun t => decide (p.clock < t + p.fld F.SEC_FWA_CFG_WINDOW * 800000000))).length

/-- Count a signature failure; the one that reaches `LIMIT` raises FW_AUTH (R428). -/
def State.sigFail (s : State) : State :=
  let before := s.pd.failsNow
  let s1 := s.onPort (fun p => { p with sigFails := p.sigFails ++ [p.clock] })
  let lim := s1.pd.fld F.SEC_FWA_CFG_LIMIT
  if before < lim && lim ≤ s1.pd.failsNow then s1.alarm 3 else s1

/-- Freeze cause ALARM clears once no flag of a class whose response is FREEZE is set (R429). -/
def State.settleAlarm (s : State) : State :=
  if s.causeSet 5 && !(List.range 5).any (fun k => s.pd.fld (alarmFlag k) = 1 && s.response k = 1) then s.thawAll 5 else s

/-! ## What a module-global register reads -/

def Cell.sealOk (c : Cell) : Bool := !c.broken

/-- Whether a channel's controller link is trained (R26, R396). -/
def Chan.linkUp (c : Chan) : Bool :=
  c.st ≠ .off && c.st ≠ .locked && !c.linkLost && decide (4 ≤ c.fld F.CTL_BRINGUP_STEP)

/-- Whether the present cell is the bound one (R437). -/
def State.boundOk (s : State) : Bool := s.pd.bound = some Config.cellKey

/-- Staged registers of module group `n` whose RWS fields differ (R327). -/
def PortDie.changed (p : PortDie) (n : Nat) : List Nat :=
  (p.bank.staged.map (·.1)).filter (fun o =>
    ((findReg pdRegs o).map (fun d => decide (d.group = .mg n))).getD false && p.bank.changedAt pdRegs o)

/-- Owner, host or publisher keys registered. -/
def PortDie.keysOf (p : PortDie) (kind : Nat) : List KeyRec := p.keys.filter (fun k => k.kind = kind)

/-- A register's word with the fields whose home is elsewhere in the state. -/
def State.pdLive (s : State) (off : Nat) : Word :=
  let p := s.pd
  let w := p.reg off
  let num (n : Nat) : Word := BitVec.ofNat 32 n
  let b (x : Bool) (k : Nat) : Nat := if x then 2 ^ k else 0
  if off = R.PD_SERIAL_LO then num Config.serial.toNat
  else if off = R.PD_SERIAL_HI then num (Config.serial.toNat / 2 ^ 32)
  else if off = R.PD_MODULE then num ((p.flash.modid.getD 0) + b p.flash.modid.isSome 12 + p.flash.fm * 2 ^ 16)
  else if off = R.PD_CH_STATE then num ((List.range 8).foldl (fun a c => a + (s.chan c).st.code * 2 ^ (4 * c)) 0)
  else if off = R.PD_LINKS then num ((List.range 8).foldl (fun a c => a + b (s.chan c).linkUp c) 0)
  else if off = R.PD_SESSIONS then num (p.sessions.length + p.pending.length * 2 ^ 5)
  else if off = R.PD_STAGED then num ((List.range 4).foldl (fun a n => a + b (!(p.changed n).isEmpty) n) 0)
  else if off = R.TH_MOD_STATUS then F.TH_MOD_STATUS_STEP_ACTIVE.into w (if p.power.capStep then 1 else 0)
  else if off = R.TH_MOD_SUPPLY then num (p.power.vin * 256 / 1000 % 2 ^ 16 + unsigned 16 p.power.tin * 2 ^ 16)
  else if off = R.TH_MOD_FLOOR then F.TH_MOD_FLOOR_PMBUS_CAP.into w (p.power.pmbusCap.getD 0 / 65536)
  else if off = R.SEC_STATUS then
    F.SEC_STATUS_ALARM_FREEZE.into (F.SEC_STATUS_MESH_NOW.into w (if p.meshOpen then 1 else 0)) (if s.causeSet 5 then 1 else 0)
  else if off = R.SEC_KEYS then num ((p.keysOf 0).length + (p.keysOf 1).length * 2 ^ 2 + (p.keysOf 2).length * 2 ^ 8)
  else if off = R.SEC_ALARM_COUNT2 then F.SEC_ALARM_COUNT2_SIG_FAILS.into w (min p.failsNow 255)
  else if off = R.MET_STATUS then
    F.MET_STATUS_BOUND_OK.into (F.MET_STATUS_SEAL_OK.into (F.MET_STATUS_PRESENT.into w (if s.cell.link then 1 else 0))
      (if s.cell.sealOk then 1 else 0)) (if s.boundOk then 1 else 0)
  else if off = R.MET_SERIAL_LO then num Config.cellSerial.toNat
  else if off = R.MET_SERIAL_HI then num (Config.cellSerial.toNat / 2 ^ 32)
  else if off = R.MET_FW_SUM then Config.cellFwSum
  else w

/-- Offsets inside a module-global block (R313, R315). -/
def pdBlock (off : Nat) : Bool := decide (off < 0x50000)

/-- A word of the fault log window: entry n at (n mod 1,024) × 32 (R417). -/
def PortDie.window (p : PortDie) (off : Nat) : Word :=
  let k := (off - 0x40000) / 32
  match (p.log.reverse).find? (fun e => e.seq % 1024 = k) with
  | some e => BitVec.ofNat 32 (leAt e.bytes ((off - 0x40000) % 32) 4)
  | none => 0

/-- A module register seen through its staged copy. -/
def PortDie.staged (p : PortDie) (off : Nat) : Word :=
  let rws := ((findReg pdRegs off).map (·.bitsOf .rws)).getD 0
  (p.reg off &&& ~~~ rws) ||| (p.bank.getStaged pdRegs off &&& rws)

/-- Read a module-global register, view 0 or 1 (R298, R315, R317, R337). -/
def State.pdRead (s : State) (off view : Nat) : Word :=
  if 0x40000 ≤ off ∧ off < 0x48000 then s.pd.window off
  else
    match mapFind s.pd.bank.held off with
    | some w => w
    | none =>
      match findReg pdRegs off with
      | some d => if view = 1 && d.isStaged then s.pd.staged off else s.pdLive off
      | none => 0

/-! ## Parity of the port die's registers (R324-R326, R463) -/

/-- Report a mismatch: flag, count, first address, event. -/
def State.pdParity (s : State) (off : Nat) : State :=
  let s1 := s.pdFlag F.PD_STATUS_PARITY F.PD_FLAG_COUNT_PARITY
  let s2 := if s1.pd.fld F.PD_PARITY_ADDR_SEEN = 0 then
      s1.onPort (fun p => (p.setFld F.PD_PARITY_ADDR_ADDR off).setFld F.PD_PARITY_ADDR_SEEN 1) else s1
  s2.flog .cfgParity 10 0 none (argFlag off 0)

def State.pdCheckApplied (s : State) (off : Nat) : State :=
  if s.pd.bank.bad.contains off && !s.pd.bank.failing.contains off then
    (s.onPort (fun p => { p with bank := { p.bank with failing := p.bank.failing ++ [off] } })).pdParity off
  else s

def State.pdCheckStaged (s : State) (off : Nat) : State :=
  if s.pd.bank.badStaged.contains off && !s.pd.bank.reported.contains off then
    (s.onPort (fun p => { p with bank := { p.bank with reported := p.bank.reported ++ [off] } })).pdParity off
  else s

/-- The parity checks of a read, and whether the word replies CFG_PARITY. -/
def State.pdReadCheck (s : State) (off view : Nat) : Bool × State :=
  if view = 1 && ((findReg pdRegs off).map (·.isStaged)).getD false then (s.pd.bank.badStaged.contains off, s.pdCheckStaged off)
  else (s.pd.bank.bad.contains off, s.pdCheckApplied off)

/-! ## Strobes of MG0-MG3 (R327, R330, R331, R392, R441) -/

/-- The first item that a module group's checker refuses, with the offset it names. `rd` is the staged view. -/
def mgItem (rd : Nat → Word) (floor n : Nat) : Option (Nat × Nat) :=
  let l6 := (F.PD_NET_CFG_LEN6.of (rd R.PD_NET_CFG))
  let l4 := (F.PD_NET_CFG_LEN4.of (rd R.PD_NET_CFG))
  let ip6 := [0, 1, 2, 3].map (fun k => rd (R.PD_NET_IP6 + 4 * k))
  let ip4 := (rd R.PD_NET_IP4).toNat % 256
  let oc := F.TH_MOD_ORPHAN_CAP.of (rd R.TH_MOD_ORPHAN)
  let sc := F.TH_MOD_STEP_CAP_CAP.of (rd R.TH_MOD_STEP_CAP)
  let keep := F.TH_MOD_CFG_KEEP_S.of (rd R.TH_MOD_CFG)
  if n = 0 then
    if 128 < l6 then some (1, R.PD_NET_CFG)
    else if 32 < l4 then some (2, R.PD_NET_CFG)
    else if l6 = 0 ∧ l4 = 0 then some (3, R.PD_NET_CFG)
    else if l6 ≠ 0 ∧ (ip6.all (· = 0) ∨ (ip6.headD 0).toNat % 256 = 0xFF) then some (4, R.PD_NET_IP6)
    else if l4 ≠ 0 ∧ (ip4 = 0 ∨ 224 ≤ ip4) then some (4, R.PD_NET_IP4)
    else none
  else if n = 1 then
    if 24000 < F.TH_MOD_HOST_CAP_CAP.of (rd R.TH_MOD_HOST_CAP) then some (1, R.TH_MOD_HOST_CAP)
    else if oc < floor ∨ 24000 < oc then some (2, R.TH_MOD_ORPHAN)
    else if sc < floor ∨ 24000 < sc then some (3, R.TH_MOD_STEP_CAP)
    else if F.TH_MOD_ORPHAN_SILENCE.of (rd R.TH_MOD_ORPHAN) = 0 then some (4, R.TH_MOD_ORPHAN)
    else if keep = 0 ∨ 60 < keep then some (4, R.TH_MOD_CFG)
    else if F.TH_MOD_CFG_DTDT.of (rd R.TH_MOD_CFG) < 8 then some (5, R.TH_MOD_CFG)
    else none
  else if n = 2 then
    if (List.range 4).any (fun k => bits (rd R.SEC_ALARM_CFG).toNat (2 * k) 2 = 3) then some (1, R.SEC_ALARM_CFG)
    else if F.SEC_FWA_CFG_LIMIT.of (rd R.SEC_FWA_CFG) = 0 ∨ F.SEC_FWA_CFG_WINDOW.of (rd R.SEC_FWA_CFG) = 0 then some (2, R.SEC_FWA_CFG)
    else none
  else
    let a := F.MET_CFG_APP_INT.of (rd R.MET_CFG)
    if a < 10 ∨ 250 < a then some (1, R.MET_CFG) else none

/-- Module groups of a mask. -/
def mgOf (mask : Nat) : List Nat := (List.range 4).filter (fun n => bits mask n 1 = 1)

/-- Staged copies of a module group that fail parity. -/
def PortDie.badStagedOf (p : PortDie) (n : Nat) : List Nat :=
  p.bank.badStaged.filter (fun o => ((findReg pdRegs o).map (fun d => decide (d.group = .mg n))).getD false)

/-- What an apply does beyond its fields: MG0 goes to flash, MG1 sets the cap, MG2 the alarm cause (R339, R372, R429). -/
def State.applied (s : State) (n : Nat) : State :=
  if n = 0 then
    s.onPort (fun p => { p with flash := { p.flash with net :=
      [R.PD_NET_IP6, R.PD_NET_IP6 + 4, R.PD_NET_IP6 + 8, R.PD_NET_IP6 + 12, R.PD_NET_IP4, R.PD_NET_CFG].map (fun o => (o, p.reg o)) } })
  else if n = 1 then s.recap
  else if n = 2 then s.settleAlarm
  else s

/-- Apply the changed fields of a module group. -/
def State.applyMg (s : State) (n : Nat) : State :=
  (s.onPort (fun p => { p with bank := (p.changed n).foldl (fun b o => b.applyAt pdRegs o) p.bank })).applied n

/-- A strobe of module groups (R330): status, item, failing offset. -/
def State.strobeMg (s : State) (mask : Nat) : (Status × Nat × Nat) × State :=
  let gs := mgOf mask
  match gs.flatMap s.pd.badStagedOf with
  | o :: t => ((.cfgParity, 0, o), (o :: t).foldl (fun s x => s.pdCheckStaged x) s)
  | [] =>
    match gs.findSome? (fun n => if (s.pd.changed n).isEmpty then none else mgItem s.pd.staged s.floorW n) with
    | some (k, o) => ((.consistencyFail, k, o), s)
    | none => ((.ok, 0, 0), gs.foldl (fun s n => if (s.pd.changed n).isEmpty then s else s.applyMg n) s)

/-- `STAGE_DISCARD` of module groups (R327, R463). -/
def State.discardMg (s : State) (mask : Nat) : State :=
  s.onPort (fun p => { p with bank := ((p.bank.staged.map (·.1) ++ p.bank.badStaged).filter (fun o =>
    (mgOf mask).any (fun n => ((findReg pdRegs o).map (fun d => decide (d.group = .mg n))).getD false))).foldl Bank.discardAt p.bank })

/-- `DETAIL` of a failed strobe (R294): module address and item. -/
def strobeDetail (st : Status) (item addr : Nat) : Bytes :=
  if st = .consistencyFail || st = .needsFreeze then leBytes 4 addr ++ leBytes 2 item ++ zeros 2 else []

/-! ## Writes -/

/-- Whether writing a module-global register takes an OWNER session (R328, R339, R420, R440). -/
def ownerOnly (off : Nat) : Bool :=
  off = R.PD_CH_ENABLE || off = R.PD_CH_HOLD || (decide (0x20000 ≤ off) && decide (off < 0x40000)) ||
    ((findReg pdRegs off).map (fun d => match d.group with | .mg n => decide (n ≤ 2) | _ => false)).getD false

/-- `SVN_COMMIT` (R425): `MIN_SVN` never falls. -/
def PortDie.svnCommit (p : PortDie) : PortDie :=
  p.setFld F.SEC_SVN_MIN_SVN (max (p.fld F.SEC_SVN_MIN_SVN) (p.fld F.SEC_SVN_ACTIVE_SVN))

/-- `BIND` (R437, R439). -/
def State.bindCell (s : State) : State :=
  if s.cell.link then s.onPort (fun p => { p with bound := some Config.cellKey })
  else s.pdFlag F.MET_STATUS_LINK_ERR F.MET_COUNT_LINK_ERR

/-- A channel that waits in step 10 goes on to READY when its hold bit is clear (R396, R420). -/
def Chan.holdRelease (c : Chan) : Chan :=
  if c.st = .bringup && c.fld F.CTL_BRINGUP_HELD = 1 then c.setFld F.CTL_BRINGUP_HELD 0 else c

/-- What a write of a module-global register does beyond its fields. -/
def State.pdWriteActs (s : State) (off : Nat) (v : Word) : State :=
  if off = R.PD_CH_ENABLE then s.onPort (fun p => { p with flash := { p.flash with enable := v.toNat % 256 } })
  else if off = R.PD_CH_HOLD then
    let s1 := s.onPort (fun p => { p with flash := { p.flash with hold := v.toNat % 256 } })
    (List.range 8).foldl (fun s c => if bits v.toNat c 1 = 0 then s.onChan c Chan.holdRelease else s) s1
  else if off = R.PD_STATUS then
    if v.getLsbD 3 then s.onPort (fun p => p.setFld F.PD_PARITY_ADDR_SEEN 0) else s
  else if off = R.PD_SNAP then
    let o := F.PD_SNAP_OFFSET.of v
    match pdBank o with
    | some los => s.onPort (fun p => { p with bank := if v.getLsbD 31 then p.bank.unsnap los else p.bank.snap pdRegs los })
    | none => if v = 0 then s else s.pdFlag F.PD_STATUS_SNAP_ERR F.PD_FLAG_COUNT_SNAP_ERR
  else if off = R.SEC_STATUS then
    (s.onPort (fun p =>
      let p1 := if p.meshOpen && v.getLsbD 0 then p.setFld (alarmFlag 0) 1 else p
      if s.cell.broken && v.getLsbD 1 then p1.setFld (alarmFlag 1) 1 else p1)).settleAlarm
  else if off = R.SEC_CTL then (if v.getLsbD 0 then s.onPort PortDie.svnCommit else s)
  else if off = R.MET_CTL then (if v.getLsbD 0 then s.bindCell else s)
  else s

/-- Write a module-global register (R315-R318). -/
def State.pdWrite (s : State) (off : Nat) (v : Word) : State :=
  match findReg pdRegs off with
  | none => s
  | some d =>
    let r := s.pd.bank.write pdRegs d off v (s.pdLive off)
    let s1 := s.onPort (fun p => { p with bank := r.bank })
    (if r.rsv then s1.pdFlag F.PD_STATUS_RSV_WRITE F.PD_FLAG_COUNT_RSV_WRITE else s1).pdWriteActs off v

/-- `REG_RMW` of a module-global register (R320). -/
def State.pdRmw (s : State) (off : Nat) (mask v : Word) : Word × State :=
  match findReg pdRegs off with
  | none => (0, s)
  | some d =>
    let rws := d.bitsOf .rws
    let old := (s.pdRead off 0 &&& ~~~ rws) ||| (s.pd.staged off &&& rws)
    let act := d.bitsOf .w1c ||| d.bitsOf .wo
    (old, s.pdWrite off ((old &&& ~~~ mask &&& ~~~ act) ||| (v &&& mask)))

/-- Whether the port die takes commands and register traffic: its firmware runs and the command port is up (R394). -/
def PortDie.serving (p : PortDie) : Bool := p.powered && decide (4 ≤ p.boot) && !p.resetPin

/-- Whether the port die firmware runs: registers and PMBus answer (R394, R395, R448). -/
def PortDie.running (p : PortDie) : Bool := p.powered && decide (3 ≤ p.boot) && !p.resetPin

end Sys2Proof.Machine
end

