-- ==== Sys2Proof/Machine/Port.lean ====
section
/-! DEFINITION. The command port: datagrams and their admission, network packets, TCP segments, and the shared procedure by
which an admitted command executes (R284-R296). -/

namespace Sys2Proof.Machine

/-! ## Admission (R292, R293) -/

/-- What a queue does with a datagram's sequence (R292 step 5). -/
inductive Admit where
  | resend (r : ReplyRec)
  | late                   -- passed, and no reply cached
  | drop
  | noToken
  | take
deriving DecidableEq, Repr

/-- The sequence and token checks. A datagram whose sequence already waits is one that is admitted: it is dropped (log
entry 35). -/
def Queue.admission (q : Queue) (d : Datagram) : Admit :=
  let diff := (d.seq - q.expect).toNat
  if 2 ^ 31 ≤ diff then
    match q.cache.reverse.find? (fun r => r.seq = d.seq) with
    | some r => .resend { r with origin := d.origin }
    | none => .late
  else if 64 ≤ diff || q.tokens = 0 then .noToken
  else if q.waiting.any (fun x => x.seq = d.seq) then .drop
  else .take

/-- A queue with one more admitted command. -/
def Queue.push (q : Queue) (d : Datagram) : Queue := { q with tokens := q.tokens - 1, waiting := q.waiting ++ [d] }

/-- The queue that a datagram names. -/
def State.namedQueue (s : State) (d : Datagram) : Queue :=
  if d.channel < 8 then (s.chan d.channel).queue d.queue else s.pd.modQueue d.session

/-- A reply from steps 2-5 of R292: no token moves and nothing is cached. On session 0 the token count is free (log entry
35). -/
def State.replyPort (s : State) (d : Datagram) (st : Status) : State :=
  let (n, s1) := if d.session = 0 then s.draw else ((s.namedQueue d).tokens, s)
  let ch := s1.chan d.channel
  let g := if d.channel < 8 then groveNamed d else none
  let blk := if d.channel < 8 then ch.block st g (n % 2 ^ 16) [] else replyBlock st 0xFF 0xFF 0xFF (n % 2 ^ 16) []
  s1.deliver 0xFF (.reply d.channel d.queue d.session ⟨d.seq, d.opcode, d.origin, blk⟩)

/-- Step 1 of R292: lengths, `MAGIC`, `VERSION`, `FLAGS` (R284, R286). -/
def formOk (d : Datagram) : Bool :=
  d.udpLen = 32 + d.plen && d.params.length = d.plen && decide (d.plen ≤ 8192) && d.magic = 0x4B50 && d.version = 1
    && decide (d.flags < 4)

/-- Step 2 of R292: session 0. In RECOVERY only `NOP` and `MODULE_INFO` are answered (R395). -/
def State.admit0 (s : State) (d : Datagram) : State :=
  let bare := d.opcode = 0x00 || d.opcode = 0x06
  let plain := d.channel = 0xFF && d.queue = 0 && (bare || d.opcode = 0x01 || d.opcode = 0x02)
  if s.pd.fld F.PD_FW_RECOVERY = 1 && !(plain && bare) then s
  else if !plain then s.replyPort d (if s.pd.locked then .locked else .badOpcode)
  else
    match formatCheck false d.opcode d.params with
    | some st => s.replyPort d st
    | none => s.onPort (fun p => { p with session0 := p.session0 ++ [d] })

/-- Step 3 of R292: the tag under the session's K_hm (R287). -/
def tagOk (x : Session) (d : Datagram) : Bool :=
  d.tag = kmac256 x.kHm (header d.channel d.queue d.opcode d.flags d.seq.toNat d.plen d.session ++ d.params) 128 "PLK4824-CMD"

/-- Step 4 of R292: the named queue is the session's. -/
def State.queueOwned (s : State) (d : Datagram) : Bool :=
  if d.channel < 8 then decide (d.queue < 8) && (s.namedQueue d).owner = some d.session else d.channel = 0xFF && d.queue = 0

/-- Steps 3-5 of R292 for a session other than 0. -/
def State.admitTagged (s : State) (d : Datagram) : State :=
  match s.pd.session d.session with
  | none => s.pdFlag F.PD_STATUS_TAG_FAIL F.PD_DROP_COUNT_TAG
  | some x =>
    if !tagOk x d then s.pdFlag F.PD_STATUS_TAG_FAIL F.PD_DROP_COUNT_TAG
    else if !s.queueOwned d then s.replyPort d .authFail
    else
      match (s.namedQueue d).admission d with
      | .resend r => s.deliver 0xFF (.reply d.channel d.queue d.session r)
      | .late => s.onPort (fun p => { p with late := p.late + 1 })
      | .drop => s
      | .noToken => s.replyPort d .noToken
      | .take =>
        let s1 := s.onPort (fun p => { p with bank := p.bank.add64 pdRegs R.PD_CMD_LO 1 })
        if d.channel < 8 then s1.onChan d.channel (fun c => c.setQueue d.queue ((c.queue d.queue).push d))
        else State.flushM d.session 65 (s1.onPort (fun p => p.onSession d.session (fun x => { x with queue := x.queue.push d })))

/-- `COMMAND_DATAGRAM` (R292). -/
def execCommandDatagram (d : Datagram) (s : State) : Host.Outcome State Fault Refusal :=
  .next (
    if !s.pd.serving then s
    else if !formOk d then s.pdFlag F.PD_STATUS_DROP F.PD_DROP_COUNT_FORMAT
    else if d.session = 0 then s.admit0 d
    else if s.pd.fld F.PD_FW_RECOVERY = 1 then s
    else s.admitTagged d)

/-! ## Other packets (R284, R285) -/

/-- The module's IPv6 address, first byte on the wire lowest (R339). -/
def PortDie.ip6 (p : PortDie) : Nat := leNat ([0, 1, 2, 3].flatMap (fun k => leBytes 4 (p.reg (R.PD_NET_IP6 + 4 * k)).toNat))

/-- What the port die answers a network packet with: the part its protocol does not fix from the packet alone (log entry 42);
none drops it (R284). -/
def netAnswer (p : PortDie) : NetPacket → Option Bytes
  | .arp t => if p.fld F.PD_NET_CFG_LEN4 ≠ 0 ∧ t = p.reg R.PD_NET_IP4 then some (leBytes 4 t.toNat) else none
  | .icmpEcho true t b => if p.fld F.PD_NET_CFG_LEN6 ≠ 0 ∧ t = p.ip6 then some b else none
  | .icmpEcho false t b => if p.fld F.PD_NET_CFG_LEN4 ≠ 0 ∧ t = (p.reg R.PD_NET_IP4).toNat then some b else none
  | .neighbourSolicit t => if p.fld F.PD_NET_CFG_LEN6 ≠ 0 ∧ t = p.ip6 then some (leBytes 16 t) else none
  | .fragment => none
  | .other => none

/-- `NETWORK_PROTOCOL_PACKET` (R284). -/
def execNetworkProtocolPacket (p : NetPacket) (s : State) : Host.Outcome State Fault Refusal :=
  .next (if !s.pd.serving then s else
    match netAnswer s.pd p with
    | some b => { s with out := s.out ++ [.net b] }
    | none => s)

/-- `NVME_TCP_SEGMENT` (R285): forwarded to its channel's initiator over a trained controller link; every other segment is
dropped and answered with nothing. -/
def execNvmeTcpSegment (dport : Nat) (body : Bytes) (s : State) : Host.Outcome State Fault Refusal :=
  let c := (dport - 49152) / 1024
  .next (if s.pd.serving && decide (49152 ≤ dport) && decide (c < 8) && (s.chan c).linkUp then { s with out := s.out ++ [.nvme c body] } else s)

/-! ## How an admitted command executes (R292, R296, R308, R311) -/

/-- Whether some grove of the channel is loaded. -/
def Chan.anyLoaded (c : Chan) : Bool := groveNums.any (fun g => (c.grove g).st ≠ .empty)

/-- Whether a session's role grants what a row of the opcode table asks (R288); none asks for session 0, which no queue holds. -/
def roleOk : Option Role → Option Role → Bool
  | some r, some n => r.atLeast n
  | _, _ => false

/-- The command that a row names, if it is the next one of its channel queue. -/
def Chan.headFor (c : Chan) (q : Issue) (op : Nat) (fs : List (Nat × Nat × Nat)) : Option Datagram :=
  match (c.queue q.queue).head with
  | some d => if isFor d q op fs then some d else none
  | none => none

/-- The checks of a begun command, in the order role, channel state, parameters (R292, R296, R308): the status and detail
it is refused with. `conf` is the state check beyond R308, `bad` the parameters out of range. -/
def Chan.refused (c : Chan) (role : Option Role) (sees : Bool) (d : Datagram) (g : Option Nat) (conf : Chan → Datagram → Bool)
    (bad : List (Bool × Nat)) : Option (Status × Bytes) :=
  match opFind d.opcode with
  | none => some (.badOpcode, [])
  | some o =>
    if !(sees && roleOk role o.role) then some (.authFail, [])
    else if !chAccepts d.opcode c.st c.anyLoaded || conf c d then some (.stateConflict, c.causes g)
    else (badOffset o d.params bad).map (fun k => (.badParam, leBytes 2 k))

/-- Role of a command's session, and whether that session may see the channel (R288). -/
def State.rights (s : State) (id ch : Nat) : Option Role × Bool :=
  match s.pd.anySession id with
  | some x => (some x.role, x.sees ch)
  | none => (none, false)

/-- A channel command (R292) that E has reached: it begins, and is refused or has the effect `f`; with the controller link
lost the port die answers HW_FAULT to all but `CHANNEL_STOP` (R26). `fs` are the operands it
must carry. -/
def State.chanCmdS (s : State) (q : Issue) (op : Nat) (fs : List (Nat × Nat × Nat)) (conf : Chan → Datagram → Bool)
    (bad : Datagram → List (Bool × Nat)) (f : Datagram → State → State) : State :=
  if 8 ≤ q.channel then s
  else
    match (s.chan q.channel).headFor q op fs with
    | none => s
    | some d =>
      let (role, sees) := s.rights d.session q.channel
      let g := groveNamed d
      let s1 := s.setChan q.channel (let c := s.chan q.channel; c.setQueue d.queue ((c.queue d.queue).begin d))
      if (s.chan q.channel).linkLost && d.opcode ≠ 0x0A then s1.onChan q.channel (fun c => c.reply d .hwFault g [] [])
      else
      match (s1.chan q.channel).refused role sees d g conf (bad d) with
      | some (st, detail) => s1.onChan q.channel (fun c => c.reply d st g detail [])
      | none => f d s1

/-- A channel command whose effect lies within its channel. -/
def State.chanCmd (s : State) (q : Issue) (op : Nat) (fs : List (Nat × Nat × Nat)) (conf : Chan → Datagram → Bool)
    (bad : Datagram → List (Bool × Nat)) (f : Datagram → Chan → Chan) : State :=
  s.chanCmdS q op fs conf bad (fun d s => s.onChan q.channel (f d))

/-- No state check beyond R308. -/
def noConf (_ : Chan) (_ : Datagram) : Bool := false

/-- The grove parameter, of a command whose first byte is a grove: out of range (R296). -/
def badGrove (d : Datagram) : Bool × Nat := (decide (16 ≤ pAt d 0 1), 0)

/-- A command naming a grove in a state that is not one of those listed, or that is loading, replies STATE_CONFLICT (R309). -/
def groveNot (ok : List GroveState) (c : Chan) (d : Datagram) : Bool :=
  let g := pAt d 0 1
  decide (g < 16) && ((c.grove g).loading || !ok.contains (c.grove g).st)

/-- The module command that a row names, if it is the next one of its queue: of session 0 any that waits (R292 step 2). -/
def State.modHead (s : State) (q : Issue) (op : Nat) (fs : List (Nat × Nat × Nat)) : Option Datagram :=
  if q.channel ≠ 0xFF ∨ q.queue ≠ 0 then none
  else if q.session = 0 then s.pd.session0.find? (fun d => isFor d q op fs)
  else
    match (s.pd.modQueue q.session).head with
    | some d => if isFor d q op fs then some d else none
    | none => none

/-- A module command (R292): role, state and parameters are checked in that order, then `f` gives its effect. -/
def State.modCmd (s : State) (q : Issue) (op : Nat) (fs : List (Nat × Nat × Nat)) (conf : Bool) (bad : Datagram → List (Bool × Nat))
    (f : Datagram → State → State) : State :=
  match s.modHead q op fs with
  | none => s
  | some d =>
    let s1 := if d.session = 0 then s else s.onPort (fun p => p.onSession d.session (fun x => { x with queue := x.queue.begin d }))
    let s2 :=
      match opFind d.opcode with
      | none => s1.replyM d .badOpcode [] []
      | some o =>
        let okRole :=
          if d.session = 0 then true
          else roleOk (s.rights d.session 0xFF).1 o.role
        if !okRole then s1.replyM d .authFail [] []
        else if conf then s1.replyM d .stateConflict [] []
        else
          match badOffset o d.params (bad d) with
          | some k => s1.badParamM d k
          | none => f d s1
    (State.flushM d.session 65 s2).sweepEnded

end Sys2Proof.Machine
end

