-- ==== Sys2Proof/Machine/Start.lean ====
section
/-! DEFINITION. Channels into OFF, out of it, and into FAULTED (R24, R26, R37, R295, R307, R312, R388, R389, R394, R453). -/

namespace Sys2Proof.Machine

/-! ## Into OFF (R295, R307, R312) -/

/-- Complete every pending ACCEPTED command with a status. -/
def Chan.completeAll (c : Chan) (st : Status) : Chan :=
  (List.range 8).foldl (fun (c : Chan) q => (c.queue q).accepted.foldl (fun c d => c.complete d st (groveNamed d) []) c) c

/-- Begin and refuse the commands whose sequence E has reached; the first argument bounds them. -/
def Chan.refuseHeads (q : Nat) (st : Status) : Nat → Chan → Chan
  | 0, c => c
  | n + 1, c =>
    match (c.queue q).head with
    | none => c
    | some d =>
      let c1 := c.setQueue q ((c.queue q).begin d)
      Chan.refuseHeads q st n (c1.reply d st (groveNamed d) (if st = .stateConflict then c1.causes (groveNamed d) else []) [])

/-- Answer every admitted command that has no reply, but a `CHANNEL_START` or `CHANNEL_STOP` that is executing. E stays
before the first sequence that has not come (log entry 44). -/
def Chan.refuseAll (c : Chan) (st : Status) : Chan :=
  let ans (c : Chan) (d : Datagram) : Chan := c.reply d st (groveNamed d) (if st = .stateConflict then c.causes (groveNamed d) else []) []
  (List.range 8).foldl (fun (c : Chan) q =>
    let busy := (c.queue q).current
    let c1 : Chan := match busy with
      | some d => if d.opcode = 0x09 || d.opcode = 0x0A then c else ans c d
      | none => c
    let c2 := if (c1.queue q).current.isSome then c1 else Chan.refuseHeads q st 65 c1
    (c2.queue q).waiting.foldl ans c2) c

/-- Everything of a channel that leaves with its power; its queues keep their claims, and its sensors are read on and keep
their suspect marks until it leaves OFF (R383, R389; log entry 66). -/
def Chan.blankOff (c : Chan) : Chan :=
  ((((Chan.reset c.idx).putReg R.TH_SUSPECT_LO (c.reg R.TH_SUSPECT_LO)).putReg R.TH_SUSPECT_HI (c.reg R.TH_SUSPECT_HI)) |> fun r =>
    { r with
      queues := c.queues, outbox := c.outbox, free := c.free
      power := { ChanPower.reset with temps := c.power.temps, spots := c.power.spots, hot := c.power.hot } })

/-- Entry to OFF: pending ACCEPTED commands complete with STATE_CONFLICT, then the channel is OFF, its groves are gone, and
its waiting commands reply STATE_CONFLICT (R295, R307, R312). -/
def Chan.enterOff (c : Chan) : Chan :=
  if c.st = .locked then c else ((c.completeAll .stateConflict).blankOff).refuseAll .stateConflict

/-- The channels not in LOCKED go to OFF (R389, R449, R453). -/
def State.allOff (s : State) : State :=
  (List.range 8).foldl (fun s c => s.onChan c (fun c => if c.st = .off then c else c.enterOff)) s

/-! ## Into FAULTED (R37, R105, R307, R397) -/

/-- A channel fault: groves fault with it, its seams are disabled, and a `CHANNEL_START` that waits completes (R24, R297,
R307; log entry 45). -/
def Chan.chanFault (c : Chan) (st : Status) : Chan :=
  if c.st = .off || c.st = .locked || c.st = .faulted then c
  else
    let c1 := groveNums.foldl (fun (c : Chan) g => c.groveFault g st) c
    let c2 := ({ c1 with st := .faulted }).refreshLinks
    let c3 := (List.range 8).foldl (fun (c : Chan) q =>
      ((c.queue q).accepted.filter (fun d => d.opcode = 0x09)).foldl (fun c d => c.complete d st none []) c) c2
    c3.answerFreeze

/-! ## Into BRINGUP (R307, R394, R396) -/

/-- Module-wide freeze causes whose condition holds: a channel that comes up later takes them at READY (R307, R429). -/
def State.moduleCauses (s : State) : Nat :=
  (if s.capCause then 2 else 0) + (if s.pd.power.coolant then 4 else 0)
    + (if s.pd.power.vin < 44000 || s.causeSet 3 then 8 else 0)
    + (if (List.range 5).any (fun k => s.pd.fld (alarmFlag k) = 1 && s.response k = 1) then 32 else 0)

/-- A channel leaves OFF: bring-up step 1 (R396). -/
def Chan.release (c : Chan) (causes : Nat) : Chan :=
  { Chan.reset c.idx with
    st := .bringup, freeze := causes, queues := c.queues, outbox := c.outbox, free := c.free
    power := { ChanPower.reset with spots := c.power.spots } }.setFld F.CTL_BRINGUP_STEP 1

/-- Branch count of a channel as the cell last reported it (R440). -/
def PortDie.branch (p : PortDie) (c : Nat) : Nat := p.bank.get64 pdRegs (R.MET_E_LO + 8 * (1 + c))

/-- A channel's energy accounts start again from its present branch count (R438). -/
def PortDie.openAccounts (p : PortDie) (c : Nat) : PortDie :=
  { p with apport := mapPut p.apport c { Apport.reset with last := p.branch c } }

/-- Take an OFF channel into BRINGUP; its energy accounts start again (R438). -/
def State.startChan (s : State) (c : Nat) : State :=
  let m := s.moduleCauses
  let s1 := s.onPort (fun p => { p.openAccounts c with power := { p.power with regOff := false } })
  (s1.onChan c (fun c => c.release m)).recap

/-- Whether heat or the coolant stands in the way of `CHANNEL_START` (R389): above 85 °C, or no flow. -/
def State.tooHot (s : State) : Bool :=
  decide (85 * 16 < s.pd.power.hottest) || (s.pd.power.flowLoss && s.pd.fld F.TH_MOD_CFG_FLOW_EN = 1)

/-- Whether the input has stayed within 46-58 V for a number of PCLK ticks (R394, R453). -/
def PortDie.inputOk (p : PortDie) (ticks : Nat) : Bool :=
  match p.power.okSince with
  | some t => decide (t + ticks ≤ p.clock)
  | none => false

/-- Module shutdown (R389): channels OFF, regulators off, logged. The entry's detail holds the low 24 bits of the hottest
temperature, and one entry a channel holds its Tj,max (log entry 46). -/
def State.shutdown (s : State) (st : Status) (detail : Nat) : State :=
  let s0 := (List.range 8).foldl (fun (t : State) c =>
    t.flog st 2 0 (some c) (argFld F.TH_MOD_STATUS_SHUTDOWN ((s.chan c).fld F.TH_TJ_TJ_MAX))) s
  let s1 := s0.allOff.onPort (fun p => { (p.setFld F.TH_MOD_STATUS_SHUTDOWN 1) with
    power := { p.power with regOff := true, coolant := false } })
  (s1.flog st 2 0 none (argFld F.TH_MOD_STATUS_SHUTDOWN detail)).recap

end Sys2Proof.Machine
end

