-- ==== Sys2Proof/Machine/Admin.lean ====
section
/-! DEFINITION. Sessions, queues and module administration (R26, R28, R259, R288-R291, R297, R307, R331). -/

namespace Sys2Proof.Machine

/-- A key's fingerprint (R421). -/
def fprOf (key : Bytes) : Bytes := shake256 key 16

/-- The device key's fingerprint (R289, R421). -/
def deviceFpr : Bytes := fprOf (slice Config.deviceKey 0 1793)

/-- A byte string as an operand: where it lies and what it must read. -/
def opBytes (off n : Nat) (b : Bytes) : Nat × Nat × Nat := (off, n, leNat (slice b 0 n))

/-- The registered key with a fingerprint. -/
def PortDie.keyFor (p : PortDie) (fpr : Bytes) : Option KeyRec := p.keys.find? (fun k => fprOf k.key = fpr)

/-- The key that may open a session under a fingerprint: a host's or an owner's (R289, R421). -/
def PortDie.hostKey (p : PortDie) (fpr : Bytes) : Option KeyRec :=
  match p.keyFor fpr with
  | some k => if k.kind ≤ 1 then some k else none
  | none => none

/-- Role that a key's record gives (R288, R421, R423). -/
def KeyRec.roleOf (k : KeyRec) : Role := if k.kind = 0 || k.role = 0 then .owner else if k.role = 1 then .operator else .tenant

def Role.num : Role → Nat
  | .owner => 0 | .operator => 1 | .tenant => 2

/-! ## Timers (R289, R290) -/

/-- `SESSION_IDLE_TIMEOUT` (R290). -/
def execSessionIdleTimeout (session : Nat) (s : State) : Host.Outcome State Fault Refusal := .next (s.endSession session)

/-- `SESSION_OPEN_EXPIRY` (R289). -/
def execSessionOpenExpiry (session : Nat) (s : State) : Host.Outcome State Fault Refusal :=
  .next (s.onPort (fun p => { p with pending := p.pending.filter (fun x => x.id ≠ session) }))

/-! ## Session commands (R288-R290, R297) -/

/-- `NOP` (R297). -/
def execNop (q : Issue) (s : State) : Host.Outcome State Fault Refusal :=
  .next (s.modCmd q 0x00 [] false (fun _ => []) (fun d s => s.replyM d .ok [] []))

/-- An unused session id, 0x0001-0xFFFE, sought from a free place on (R289; log entry 3). -/
def PortDie.newId (p : PortDie) (start : Nat) : Nat :=
  let used := p.sessions.map (·.id) ++ p.pending.map (·.id) ++ p.ended.map (·.id)
  ((List.range (used.length + 1)).map (fun k => (start + k) % 0xFFFE + 1)).find? (fun i => !used.contains i) |>.getD 1

/-- The first exchange of an open (R289): id, module nonce, serial, encapsulation key, device fingerprint, signature. -/
def State.openSession (s : State) (d : Datagram) (fpr : Bytes) (idle : Nat) : State :=
  let (start, s1) := s.draw
  let (nonce, s2) := s1.drawBytes 32
  let (kd, s3) := s2.draw
  let (sd, s4) := s3.draw
  let id := s4.pd.newId start
  let pair := Config.kemKeyGen kd
  let body := leBytes 2 id ++ zeros 6 ++ nonce ++ leBytes 8 Config.serial.toNat ++ slice pair.1 0 1568 ++ deviceFpr
  let data := body ++ slice (Config.falconSign Config.deviceSeed (d.params ++ body) sd) 0 1280
  (s4.onPort (fun p => { p with pending := p.pending ++ [⟨id, fpr, if idle = 0 then 600 else idle, pair.2, d.params, data⟩] })).replyM
    d .ok [] data

/-- `SESSION_OPEN` (R289). -/
def execSessionOpen (q : Issue) (fpr nonce : Bytes) (idle : Nat) (s : State) : Host.Outcome State Fault Refusal :=
  .next (s.modCmd q 0x01 [opBytes 0 16 fpr, opBytes 16 32 nonce, (48, 2, idle)] false (fun _ => []) (fun d s =>
    if s.pd.locked then s.replyM d .locked [] []
    else if (s.pd.hostKey (slice fpr 0 16)).isNone then s.replyM d .authFail [] []
    else if idle ≠ 0 ∧ (idle < 10 ∨ 3600 < idle) then s.badParamM d 48
    else if 16 ≤ s.pd.sessions.length ∨ 4 ≤ s.pd.pending.length then s.replyM d .capacity [] []
    else s.openSession d (slice fpr 0 16) idle))

/-- The second exchange (R289): the keys, and the session. A failure of either check discards the pending id. -/
def State.keySession (s : State) (d : Datagram) (o : PendingOpen) (ct sig : Bytes) : State :=
  let t := digest (o.openPar ++ o.reply ++ slice d.params 0 1572)
  let s1 := s.onPort (fun p => { p with pending := p.pending.filter (fun x => x.id ≠ o.id) })
  match s.pd.hostKey o.fpr, Config.kemDecap o.dk (slice ct 0 1568) with
  | some k, some ss =>
    if !Config.falconVerify k.key t (slice sig 0 1280) then (s1.replyM d .signatureFail [] []).sigFail
    else
      let km := kmac256 ss t 512 "PLK4824-SESSION"
      let x : Session :=
        { id := o.id, fpr := o.fpr, role := k.roleOf, mask := k.mask, kHm := slice km 0 32, kMh := slice km 32 32, idle := o.idle
          sub := none, queue := { Queue.fresh with owner := some o.id } }
      let (n, s2) := s1.draw
      let data := replyBlock .ok 0xFF 0xFF 0xFF (n % 2 ^ 16) [] ++ leBytes 1 k.roleOf.num ++ leBytes 1 k.mask ++ zeros 6
      (s2.onPort (fun p => { p with sessions := p.sessions ++ [x], session0 := p.session0.filter (fun y => y ≠ d) })).deliver 0xFF
        (.keyReply o.id ⟨d.seq, d.opcode, d.origin, data⟩)
  | _, _ => (s1.replyM d .signatureFail [] []).sigFail

/-- `SESSION_KEY` (R289). -/
def execSessionKey (q : Issue) (session : Nat) (ct sig : Bytes) (s : State) : Host.Outcome State Fault Refusal :=
  .next (s.modCmd q 0x02 [(0, 2, session), opBytes 4 1568 ct, opBytes 1572 1280 sig] false (fun _ => []) (fun d s =>
    if s.pd.locked then s.replyM d .locked [] []
    else
      match s.pd.pending.find? (fun x => x.id = session) with
      | none => s.replyM d .stateConflict [] []
      | some o => if 16 ≤ s.pd.sessions.length then s.replyM d .capacity [] [] else s.keySession d o ct sig))

/-- `SESSION_CLOSE` (R290). -/
def execSessionClose (q : Issue) (s : State) : Host.Outcome State Fault Refusal :=
  .next (s.modCmd q 0x03 [] false (fun _ => []) (fun d s => (s.replyM d .ok [] []).endSession d.session))

/-- A session may name a channel (R288). -/
def State.maySee (s : State) (d : Datagram) (ch : Nat) : Bool := (s.rights d.session ch).2

/-- Channel and queue parameters out of range. -/
def badQueue (d : Datagram) : List (Bool × Nat) := [(decide (8 ≤ pAt d 0 1), 0), (decide (8 ≤ pAt d 1 1), 1)]

/-- `QUEUE_CLAIM` (R291, R293, R297). -/
def execQueueClaim (q : Issue) (ch qn : Nat) (seq : Word) (s : State) : Host.Outcome State Fault Refusal :=
  .next (s.modCmd q 0x04 [(0, 1, ch), (1, 1, qn), (4, 4, seq.toNat)] false badQueue (fun d s =>
    let v := (s.chan ch).queue qn
    if !s.maySee d ch then s.replyM d .authFail [] []
    else if v.owner ≠ none ∧ v.owner ≠ some d.session then s.replyM d .stateConflict [] []
    else
      let v1 := if v.owner = none then { Queue.fresh with owner := some d.session, expect := seq, accepted := v.accepted }
        else { v with expect := seq }
      (s.onChan ch (fun c => c.setQueue qn v1)).replyM d .ok [] []))

/-- `QUEUE_RELEASE` (R297): the owner only; not with commands unreplied. -/
def execQueueRelease (q : Issue) (ch qn : Nat) (s : State) : Host.Outcome State Fault Refusal :=
  .next (s.modCmd q 0x05 [(0, 1, ch), (1, 1, qn)] false badQueue (fun d s =>
    let v := (s.chan ch).queue qn
    if v.owner ≠ some d.session then s.replyM d .authFail [] []
    else if v.tokens < 64 then s.replyM d .stateConflict [] []
    else (s.onChan ch (fun c => c.setQueue qn { Queue.fresh with accepted := v.accepted })).replyM d .ok [] []))

/-- Module id as replies report it; 0xFFFF before one is installed (log entry 47). -/
def PortDie.modid (p : PortDie) : Nat := p.flash.modid.getD 0xFFFF

/-- Firmware version: of the running image; 0 in RECOVERY (R395, R425). -/
def PortDie.fwver (p : PortDie) : Nat := if p.fld F.PD_FW_RECOVERY = 1 then 0 else leAt p.fwHeader 8 4

/-- `MODULE_INFO` (R297). -/
def execModuleInfo (q : Issue) (s : State) : Host.Outcome State Fault Refusal :=
  .next (s.modCmd q 0x06 [] false (fun _ => []) (fun d s =>
    s.replyM d .ok [] (leBytes 8 Config.serial.toNat ++ leBytes 2 s.pd.modid ++ leBytes 2 s.pd.flash.fm ++ leBytes 4 s.pd.fwver
      ++ leBytes 4 Config.romVersion.toNat ++ (List.range 8).flatMap (fun c => leBytes 1 (s.chan c).st.code)
      ++ [if s.pd.locked then 1 else 0] ++ zeros 3 ++ deviceFpr)))

/-- A channel takes the node ids installed in flash (R259, R297). -/
def Chan.takeIds (c : Chan) (modid fm : Nat) : Chan := { c with node := modid * 8 + c.idx, fm := fm }

/-- Whether a channel runs or holds a grove, so that the module's ids stay as they are (R297, R312). -/
def State.idsHeld (s : State) : Bool :=
  (List.range 8).any (fun c => (s.chan c).st = .running || (s.chan c).st = .frozen || groveNums.any (fun g => (s.chan c).held g))

/-- `MODULE_ID_SET` (R259, R297, R312). -/
def execModuleIdSet (q : Issue) (modid fm : Nat) (s : State) : Host.Outcome State Fault Refusal :=
  .next (s.modCmd q 0x07 [(0, 2, modid), (2, 2, fm)] s.idsHeld (fun _ => [(decide (4095 < modid), 0)]) (fun d s =>
    let s1 := s.onPort (fun p => { p with flash := { p.flash with modid := some modid, fm := fm } })
    ((List.range 8).foldl (fun s c => s.onChan c (fun c => if c.st = .ready || c.st = .faulted then c.takeIds modid fm else c)) s1).replyM
      d .ok [] []))

/-- `EVENT_SUBSCRIBE` (R297). -/
def execEventSubscribe (q : Issue) (addr : Bytes) (port chmask : Nat) (s : State) : Host.Outcome State Fault Refusal :=
  .next (s.modCmd q 0x08 [opBytes 0 16 addr, (16, 2, port), (18, 1, chmask)] false (fun _ => []) (fun d s =>
    (s.onPort (fun p => p.onSession d.session (fun x => { x with sub := if port = 0 then none else some ⟨slice addr 0 16, port, chmask⟩ }))).replyM
      d .ok [] []))

/-! ## Channels (R26, R297, R307) -/

/-- `CHANNEL_START` (R307, R389, R453): through OFF into BRINGUP. -/
def execChannelStart (q : Issue) (s : State) : Host.Outcome State Fault Refusal :=
  let hot := s.tooHot
  let held := s.pd.power.ovHold && !s.pd.inputOk 800000000
  let m := s.moduleCauses
  let s1 := s.chanCmd q 0x09 [] noConf (fun _ => []) (fun d c =>
    if hot then c.reply d .thermalHold none [] []
    else if held then c.conflict d none
    else ((if c.st = .off then c else c.enterOff).reply d .accepted none [] []).release m)
  .next (if (s1.chan q.channel).st = .bringup && (s.chan q.channel).st ≠ .bringup then
      (s1.onPort (fun p => { p.openAccounts q.channel with power := { p.power with regOff := false, ovHold := false } })).recap
    else s1)

/-- `CHANNEL_STOP` (R26, R307); with the controller link lost the port die does it through the reset line. -/
def execChannelStop (q : Issue) (s : State) : Host.Outcome State Fault Refusal :=
  .next (s.chanCmd q 0x0A [] noConf (fun _ => []) (fun d c => (c.enterOff).reply d .ok none [] [])).recap

/-- `CHANNEL_FREEZE` (R297, R307): the reply waits until every grove is paused. -/
def execChannelFreeze (q : Issue) (s : State) : Host.Outcome State Fault Refusal :=
  .next (s.chanCmd q 0x0B [] noConf (fun _ => []) (fun _ c => (c.freezeBy 0).answerFreeze))

/-- `CHANNEL_THAW` (R297, R307). -/
def execChannelThaw (q : Issue) (s : State) : Host.Outcome State Fault Refusal :=
  .next (s.chanCmd q 0x0C [] noConf (fun _ => []) (fun d c =>
    let c1 := c.thawBy 0
    c1.reply d .ok none [] (leBytes 1 c1.freeze ++ zeros 7)))

/-- `SERVICE_MOVE` (R28, R297): an anchor that hosts none replies STATE_CONFLICT. -/
def execServiceMove (q : Issue) (services anchor : Nat) (s : State) : Host.Outcome State Fault Refusal :=
  .next (s.modCmd q 0x0D [(0, 1, services), (1, 1, anchor)]
    (decide (anchor = 0 ∨ anchor = 7) && !(s.chan anchor).st.hosts)
    (fun _ => [(decide (8 ≤ services), 0), (decide (anchor ≠ 0 ∧ anchor ≠ 7), 1)]) (fun d s =>
    (s.onPort (fun p => { p with services := p.services.zipIdx.map (fun x => if bits services x.2 1 = 1 then anchor else x.1) })).settleServices.replyM
      d .ok [] []))

/-- `NET_SET` (R297, R331, R339): the addresses are staged, and strobed after the reply, which
the strobe's outcome therefore does not reach (log entry 48). -/
def execNetSet (q : Issue) (ip6 : Bytes) (len6 : Nat) (ip4 : Bytes) (len4 : Nat) (s : State) : Host.Outcome State Fault Refusal :=
  .next (s.modCmd q 0x0E [opBytes 0 16 ip6, (16, 1, len6), opBytes 20 4 ip4, (24, 1, len4)] false
    (fun _ => [(decide (64 ≤ len4), 24)]) (fun d s =>
    let s1 := [0, 1, 2, 3].foldl (fun s k => s.pdWrite (R.PD_NET_IP6 + 4 * k) (BitVec.ofNat 32 (leAt ip6 (4 * k) 4))) s
    let s2 := s1.pdWrite R.PD_NET_IP4 (BitVec.ofNat 32 (leAt ip4 0 4))
    let cfg := F.PD_NET_CFG_LEN4.into (F.PD_NET_CFG_LEN6.into (s2.pdRead R.PD_NET_CFG 0) len6) len4
    (((s2.pdWrite R.PD_NET_CFG cfg).replyM d .ok [] []).strobeMg 1).2))

end Sys2Proof.Machine
end

