-- ==== Sys2Proof/Machine/DataCmd.lean ====
section
/-! DEFINITION. Memory, DMA and user-program commands, and what a crown core may access (R29-R32, R272, R280, R299). -/

namespace Sys2Proof.Machine

/-! ## Extents -/

/-- Whether `n` lines from `line` are populated (R269). -/
def populated (line n : Nat) : Bool := decide (line + n ≤ hbmLines)

/-- Whether an extent touches a valid region. -/
def Chan.touches (c : Chan) (r line n : Nat) : Bool :=
  match c.region r with
  | some (b, l, _) => decide (line ≤ l) && decide (b < line + n)
  | none => false

/-- Whether an extent lies inside one grant of a grove; a write needs `WRITE` (R272). -/
def Chan.granted (c : Chan) (g line n : Nat) (write : Bool) : Bool :=
  (List.range 8).any (fun k => match grantIn c.reg g k with
    | some (b, l, w) => decide (b ≤ line) && decide (line + n ≤ l + 1) && (w || !write)
    | none => false)

/-- Whether a tenant may address an extent: inside a grant of a loaded grove of the channel (R299; log entry 39). -/
def Chan.tenantMay (c : Chan) (line n : Nat) (write : Bool) : Bool :=
  groveNums.any (fun g => (c.grove g).st ≠ .empty && c.granted g line n write)

/-- Parameters of line commands out of range: the count. -/
def badLines (off : Nat) (d : Datagram) : Bool × Nat := (decide (pAt d off 2 = 0 ∨ 127 < pAt d off 2), off)

/-! ## Memory (R299) -/

/-- `MEM_READ` (R299): a line that reads uncorrectable gives HW_FAULT and no data. -/
def execMemRead (q : Issue) (line n : Nat) (errs : NMap LineErr) (s : State) : Host.Outcome State Fault Refusal :=
  let role := (s.rights q.session q.channel).1
  .next (s.chanCmd q 0x30 [(0, 4, line), (4, 2, n)] noConf (fun d => [(!populated line n, 0), badLines 4 d]) (fun d c =>
    if role = some .tenant && !c.tenantMay line n false then c.reply d .authFail none [] []
    else
      match c.readLines line errs n with
      | (some b, c1) => c1.reply d .ok none [] b
      | (none, c1) => c1.reply d .hwFault none [] []))

/-- Whether an extent lies where only its own writer may write (R271): region 1 is the stash controller's, region 3 the hardware's;
region 2 is the egress engine's, but for lines that a grant with `WRITE` covers (R272; log entry 49). -/
def Chan.closed (c : Chan) (line n : Nat) : Bool :=
  c.touches 1 line n || c.touches 3 line n || (c.touches 2 line n && !c.tenantMay line n true)

/-- Whether an extent touches the optimizer table or a learning-rate table of a RUNNING or DRAINING grove (R227). -/
def Chan.tableInUse (c : Chan) (line n : Nat) : Bool :=
  let meets (b k : Nat) : Bool := decide (b < line + n) && decide (line < b + k)
  groveNums.any (fun g => ((c.grove g).st = .running || (c.grove g).st = .draining) &&
    c.fld (F.CKP_UPD_GRV_CFG_ENABLE.sh (redOff g)) = 1 &&
    (meets (c.fld (F.CKP_UPD_GRV_TABLE_TABLE_LINE.sh (redOff g))) (1 + (c.optEntries g).length) ||
      (c.optEntries g).any (fun e => meets e.lrLine ((4 * e.lrCount + 63) / 64))))

/-- `MEM_WRITE` (R271, R299): region 0 needs OWNER, closed lines are refused, and so is an optimizer or learning-rate table in use
(R227). -/
def execMemWrite (q : Issue) (line n : Nat) (data : Bytes) (s : State) : Host.Outcome State Fault Refusal :=
  let role := (s.rights q.session q.channel).1
  .next (s.chanCmdS q 0x31 [(0, 4, line), (4, 2, n), (8, 64 * n, leNat (slice data 0 (64 * n)))]
    (fun c _ => c.tableInUse line n) (fun d => [(!populated line n || (s.chan q.channel).closed line n, 0), badLines 4 d]) (fun d s => s.onChan q.channel (fun c =>
      if (role = some .tenant && !c.tenantMay line n true) || (role ≠ some .owner && c.touches 0 line n) then c.reply d .authFail none [] []
      else (c.hbmWrite line (slice data 0 (64 * n))).reply d .ok none [] [])))

/-- Parameters of tile commands out of range: X, Y, the address, the count. -/
def badTile (d : Datagram) : List (Bool × Nat) :=
  [(decide (48 ≤ pAt d 0 1), 0), (decide (90 ≤ pAt d 1 1), 1),
   (decide (pAt d 4 4 % 64 ≠ 0 ∨ sramBytes < pAt d 4 4 + 64 * pAt d 8 2), 4), badLines 8 d]

/-- Read tile lines in rising order; none as soon as one reads uncorrectable. -/
def Chan.sramLines (c : Chan) (i line : Nat) (errs : NMap LineErr) : Nat → Option Bytes × Chan
  | 0 => (some [], c)
  | n + 1 =>
    match c.sramLines i line errs n with
    | (none, c1) => (none, c1)
    | (some b, c1) =>
      match c1.sramLine i (line + n) (mapGet (fun _ => 0) errs (line + n)) with
      | (none, c2) => (none, c2)
      | (some x, c2) => (some (b ++ x), c2)

/-- `TILE_READ` (R299). -/
def execTileRead (q : Issue) (x y addr n : Nat) (errs : NMap LineErr) (s : State) : Host.Outcome State Fault Refusal :=
  .next (s.chanCmd q 0x32 [(0, 1, x), (1, 1, y), (4, 4, addr), (8, 2, n)] noConf badTile (fun d c =>
    match c.sramLines (y * 48 + x) (addr / 64) errs n with
    | (some b, c1) => c1.reply d .ok none [] b
    | (none, c1) => c1.reply d .hwFault none [] []))

/-- `TILE_WRITE` (R299): STATE_CONFLICT while an active grove maps the tile. -/
def execTileWrite (q : Issue) (x y addr n : Nat) (data : Bytes) (s : State) : Host.Outcome State Fault Refusal :=
  .next (s.chanCmd q 0x33 [(0, 1, x), (1, 1, y), (4, 4, addr), (8, 2, n), (12, 64 * n, leNat (slice data 0 (64 * n)))]
    (fun c _ => match (c.tile (y * 48 + x)).slot with
      | some r => decide (x < 48) && decide (y < 90) && (c.grove r.grove).st.active
      | none => false) badTile (fun d c =>
    (c.sramWrite (y * 48 + x) addr (slice data 0 (64 * n))).reply d .ok none [] []))

/-! ## The file store (R299) -/

/-- `NVME_TARGET_SET` (R299). -/
def execNvmeTargetSet (q : Issue) (idx port : Nat) (addr nqn : Bytes) (s : State) : Host.Outcome State Fault Refusal :=
  .next (s.chanCmd q 0x34 [(0, 1, idx), (2, 2, port), opBytes 4 16 addr, (20, 1, nqn.length), opBytes 24 nqn.length nqn] noConf
    (fun d => [(decide (4 ≤ pAt d 0 1), 0), (decide (pAt d 20 1 = 0 ∨ 223 < pAt d 20 1), 20)]) (fun d c =>
    ({ c with targets := mapPut c.targets idx ⟨port, slice addr 0 16, nqn⟩ } : Chan).reply d .ok none [] []))

/-- Parameters of DMA commands. -/
def dmaFields (idx nsid lba blocks line : Nat) : List (Nat × Nat × Nat) := [(0, 1, idx), (4, 4, nsid), (8, 8, lba), (16, 4, blocks), (20, 4, line)]

/-- DMA parameters out of range: the target, and lines that are not populated (R269). -/
def badDma (d : Datagram) : List (Bool × Nat) := [(decide (4 ≤ pAt d 0 1), 0), (!populated (pAt d 20 4) (64 * pAt d 16 4), 20)]

/-- Reply ACCEPTED. -/
def Chan.accept (c : Chan) (d : Datagram) : Chan := c.reply d .accepted (groveNamed d) [] []

/-- The ACCEPTED command that a completion row names. -/
def Chan.acceptedCmd (c : Chan) (q : Issue) (op : Nat) : Option Datagram :=
  (c.queue q.queue).accepted.find? (fun d => d.session = q.session && d.seq = q.seq && d.opcode = op)

/-- Complete the ACCEPTED command that a row names. -/
def completeStep (s : State) (q : Issue) (op : Nat) (f : Datagram → Chan → Chan) : Host.Outcome State Fault Refusal :=
  .next (if 8 ≤ q.channel then s
    else s.onChan q.channel (fun c => match c.acceptedCmd q op with
      | some d => f d c
      | none => c))

/-- `DMA_FETCH` (R299); region 0 takes no write but the firmware's, and closed lines none (R271; log entry 49), nor a table in use
(R227). -/
def execDmaFetch (q : Issue) (idx nsid lba blocks line : Nat) (s : State) : Host.Outcome State Fault Refusal :=
  .next (s.chanCmd q 0x35 (dmaFields idx nsid lba blocks line) (fun c _ => c.tableInUse line (64 * blocks))
    (fun d => ((s.chan q.channel).touches 0 line (64 * blocks) || (s.chan q.channel).closed line (64 * blocks), 20) :: badDma d) (fun d c => c.accept d))

/-- The fetch ends: the blocks are in HBM, or the target did not give them; a table that came into use meanwhile is not written
(R227). -/
def execDmaFetchComplete (q : Issue) (data : Option Bytes) (s : State) : Host.Outcome State Fault Refusal :=
  completeStep s q 0x35 (fun d c =>
    let n := pAt d 16 4 * 4096
    match data with
    | some b => if c.tableInUse (pAt d 20 4) (64 * pAt d 16 4) then c.complete d .stateConflict none [] else (c.hbmWrite (pAt d 20 4) (slice b 0 n)).complete d .ok none (leBytes 8 n)
    | none => c.complete d .hwFault none [])

/-- `DMA_STORE` (R299). -/
def execDmaStore (q : Issue) (idx nsid lba blocks line : Nat) (s : State) : Host.Outcome State Fault Refusal :=
  .next (s.chanCmd q 0x36 (dmaFields idx nsid lba blocks line) noConf badDma (fun d c => c.accept d))

/-- The store ends: the target has taken the blocks; a line that reads uncorrectable ends it with HW_FAULT (R280). -/
def execDmaStoreComplete (q : Issue) (ok : WithErrs Bool) (s : State) : Host.Outcome State Fault Refusal :=
  completeStep s q 0x36 (fun d c =>
    let n := pAt d 16 4
    if !ok.it then c.complete d .hwFault none []
    else
      match c.readLines (pAt d 20 4) ok.errs (64 * n) with
      | (none, c1) => c1.complete d .hwFault none []
      | (some b, c1) =>
        ({ c1 with outbox := c1.outbox ++ [.blocks (pAt d 0 1) (pAt d 4 4) (pAt d 8 8) b] } : Chan).complete d .ok none (leBytes 8 (n * 4096)))

/-! ## User programs (R29, R299) -/

/-- `PROG_LOAD` (R29, R299): for a loaded grove, on crown core 1-3; a channel runs at most 16 programs. -/
def execProgLoad (q : Issue) (grove core line len : Nat) (s : State) : Host.Outcome State Fault Refusal :=
  .next (s.chanCmd q 0x37 [(0, 1, grove), (1, 1, core), (4, 4, line), (8, 4, len)]
    (groveNot [.loaded, .running, .paused, .draining, .faulted])
    (fun d => [badGrove d, (decide (core = 0 ∨ 3 < core), 1), (!populated line ((len + 63) / 64), 4)]) (fun d c =>
    if 16 ≤ c.progs.length then c.reply d .capacity (some grove) [] [] else c.accept d))

/-- The program runs: the firmware gives it an id not in use. -/
def execProgLoadComplete (q : Issue) (pid : Nat) (s : State) : Host.Outcome State Fault Refusal :=
  completeStep s q 0x37 (fun d c =>
    let g := pAt d 0 1
    if c.progs.any (fun p => p.2.2 = pid % 2 ^ 16) then c
    else if (c.grove g).st = .empty then c.complete d .stateConflict (some g) []
    else if 16 ≤ c.progs.length then c.complete d .capacity (some g) []
    else ({ c with progs := c.progs ++ [(g, pAt d 1 1, pid % 2 ^ 16)] } : Chan).complete d .ok (some g) (leBytes 2 pid ++ zeros 2))

/-- `PROG_STOP` (R299): the grove's programs stop. -/
def execProgStop (q : Issue) (grove : Nat) (s : State) : Host.Outcome State Fault Refusal :=
  .next (s.chanCmd q 0x38 [(0, 1, grove)] (fun c _ => (c.grove grove).loading) (fun d => [badGrove d]) (fun d c =>
    ({ c with progs := c.progs.filter (fun p => p.1 ≠ grove) } : Chan).reply d .ok (some grove) [] []))

/-! ## Crown-core accesses (R30, R31) -/

/-- Where a crown-core address lies (R30). -/
inductive CrownPlace where
  | rom | regs (off : Nat) | global (off : Nat) | tile (i a : Nat) | hbm (a : Nat) | nowhere
deriving DecidableEq, Repr

def crownPlace (addr : Nat) : CrownPlace :=
  if addr < 0x20000 then .rom
  else if 0x10000000 ≤ addr ∧ addr < 0x11000000 then .regs (addr - 0x10000000)
  else if 0x20000000 ≤ addr ∧ addr < 0x21000000 then .global (addr - 0x20000000)
  else if 0x400000000 ≤ addr ∧ addr < 0x800000000 then
    let i := (addr - 0x400000000) / 0x200000
    let a := (addr - 0x400000000) % 0x200000
    if i < channelTiles ∧ a < sramBytes then .tile i a else .nowhere
  else if 0x2000000000 ≤ addr ∧ addr < 0x2000000000 + hbmLines * 64 then .hbm (addr - 0x2000000000)
  else .nowhere

/-- What an access returns to its core: data, or a bus error. -/
def Chan.toCrown (c : Chan) (core : Nat) (data : Option Bytes) : Chan := { c with outbox := c.outbox ++ [.crown core data] }

/-- A bus error of the region filter: flagged, counted, logged with core number and address (R31, R340). The 24 detail bits of R414
hold the core number and address bits 39:32; a second entry without a register holds bits 31:0 (log entry 80). -/
def Chan.busRefused (c : Chan) (core addr : Nat) : Chan :=
  (((c.flagBus).event .hwFault 11 0 none (argFld F.CTL_STATUS_BUS_REFUSED (core + addr / 2 ^ 32 % 2 ^ 8 * 2 ^ 8))).event .hwFault 11 0 none
    (argWide addr)).toCrown core none

/-- The lines that an extent touches, with the part of each: first and last byte address, the last not included. -/
def linePieces (a n : Nat) : List (Nat × Nat × Nat) :=
  if n = 0 then [] else (List.range ((a + n - 1) / 64 - a / 64 + 1)).map (fun k => (a / 64 + k, max a ((a / 64 + k) * 64), min (a + n) ((a / 64 + k) * 64 + 64)))

/-- A line with bytes from `off` on replaced. -/
def splice (old : Bytes) (off : Nat) (b : Bytes) : Bytes := slice old 0 off ++ b ++ (slice old 0 64).drop (off + b.length)

/-- HBM bytes stored by a crown core, line by line (R273, R277, R280): a part of a line is a read-modify-write, which a line that
reads uncorrectable refuses. Whether one was refused, and the channel. -/
def Chan.hbmPoke (c : Chan) (a : Nat) (b : Bytes) (errs : NMap LineErr) : Bool × Chan :=
  (linePieces a b.length).foldl (fun r p =>
    let new := slice (b.drop (p.2.1 - a)) 0 (p.2.2 - p.2.1)
    if p.2.2 - p.2.1 = 64 then (r.1, r.2.hbmWriteLine p.1 new)
    else
      match r.2.readLine p.1 errs with
      | (some old, c1) => (r.1, c1.hbmWriteLine p.1 (splice old (p.2.1 - p.1 * 64) new))
      | (none, c1) => (true, c1)) (false, c)

/-- Tile SRAM bytes stored by a crown core, line by line (R273, R277). -/
def Chan.sramPoke (c : Chan) (i a : Nat) (b : Bytes) (errs : NMap LineErr) : Bool × Chan :=
  (linePieces a b.length).foldl (fun r p =>
    let new := slice (b.drop (p.2.1 - a)) 0 (p.2.2 - p.2.1)
    if p.2.2 - p.2.1 = 64 then (r.1, r.2.sramWrite i p.2.1 new)
    else
      match r.2.sramLine i p.1 (mapGet (fun _ => 0) errs p.1) with
      | (some old, c1) => (r.1, c1.sramWrite i (p.1 * 64) (splice old (p.2.1 - p.1 * 64) new))
      | (none, c1) => (true, c1)) (false, c)

/-- Lines that an extent of at least one byte touches. -/
def linesIn (a n : Nat) : Nat := (a + n + 63) / 64 - a / 64

/-- An uncorrectable tile SRAM line that a crown core met is logged, and the core takes a bus error (R277, R280). -/
def Chan.crownSramBad (c : Chan) (core i : Nat) : Chan :=
  (c.event .hwFault 11 0 none (argFld (F.TILE_STATUS_ECC_UE.sh (tileSlot i)))).toCrown core none

/-- What a permitted access does (R30-R32, R280): a load returns its data to the core, a store changes the memory or register; an
uncorrectable line is a bus error. The boot ROM's contents are not the manual's: a constant without a body (log entry 80). -/
def State.crownAct (s : State) (c : Nat) (a : CrownAccess) (place : CrownPlace) : State :=
  let core := a.core.val
  match place, a.write with
  | .rom, _ => s.onChan c (fun c => c.toCrown core (some ((List.range a.size).map (fun k => Config.romByte (a.addr.toNat + k)))))
  | .regs off, none => s.onChan c (fun c => ((c.readCheck off 0).2).toCrown core (some (leBytes 4 (c.readWord off 0).toNat)))
  | .regs off, some b => s.onChan c (fun c => (c.writeWord off (BitVec.ofNat 32 (leAt b 0 4))).1)
  | .global off, none =>
    let w := s.pdRead off 0
    (s.pdReadCheck off 0).2.onChan c (fun c => c.toCrown core (some (leBytes 4 w.toNat)))
  | .global _, some _ => s
  | .tile i t, none => s.onChan c (fun c =>
      match c.sramLines i (t / 64) a.errs (linesIn t a.size) with
      | (some b, c1) => c1.toCrown core (some (slice b (t % 64) a.size))
      | (none, c1) => c1.crownSramBad core i)
  | .tile i t, some b => s.onChan c (fun c =>
      let r := c.sramPoke i t (slice b 0 a.size) a.errs
      if r.1 then r.2.crownSramBad core i else r.2)
  | .hbm h, none => s.onChan c (fun c =>
      match c.readLines (h / 64) a.errs (linesIn h a.size) with
      | (some b, c1) => c1.toCrown core (some (slice b (h % 64) a.size))
      | (none, c1) => c1.toCrown core none)
  | .hbm h, some b => s.onChan c (fun c =>
      let r := c.hbmPoke h (slice b 0 a.size) a.errs
      if r.1 then r.2.toCrown core none else r.2)
  | .nowhere, _ => s

/-- Whether the region filter lets an access through (R30, R31, R315): windows are firmware's, a user program has its
grove's grants, firmware stores to no closed line (R271), nothing stores to a table in use (R227), registers take aligned words, and no channel writes a module-global
register, since none names one. -/
def Chan.crownMay (c : Chan) (a : CrownAccess) (place : CrownPlace) : Bool :=
  let word := a.size = 4 && a.addr.toNat % 4 = 0
  match place with
  | .rom => a.firmware && a.write.isNone && decide (a.addr.toNat + a.size ≤ 0x20000)
  | .regs off => a.firmware && word && chanBlock off
  | .global off => a.firmware && word && pdBlock off && a.write.isNone
  | .tile _ t => a.firmware && decide (t + a.size ≤ sramBytes)
  | .hbm h =>
    decide (h + a.size ≤ hbmLines * 64) && (a.write.isNone || !c.tableInUse (h / 64) (linesIn h a.size)) &&
      (if a.firmware then a.write.isNone || !c.closed (h / 64) (linesIn h a.size)
       else c.granted a.grove.val (h / 64) (linesIn h a.size) a.write.isSome)
  | .nowhere => false

/-- `CROWN_CORE_ACCESS` (R30, R31); in a capture hold a grove's user programs are suspended (R345). -/
def execCrownCoreAccess (c : Fin 8) (a : CrownAccess) (s : State) : Host.Outcome State Fault Refusal :=
  let ch := s.chan c
  let p := crownPlace a.addr.toNat
  .next (if !ch.regsUp || (!a.firmware && (ch.grove a.grove.val).holding) then s
    else if ch.crownMay a p then s.crownAct c a p
    else s.onChan c (fun c => c.busRefused a.core.val a.addr.toNat))

end Sys2Proof.Machine
end

