-- ==== Sys2Proof/Machine/WsCore.lean ====
section
/-! DEFINITION. Weight streaming: what the reader requests, where frames go, gates and releases (R126-R137, R139, R148). -/

namespace Sys2Proof.Machine

/-- The slot a grove's stream runs on; none is streaming nothing (log entry 29). -/
def Chan.streamSlot (c : Chan) (g : Nat) : Option Nat :=
  if c.isSub g then some (c.fld (F.SP_WS_GRV_CFG_BASE_SLOT.sh (wsOff g))) else (c.grove g).ws.active

/-- Whether a chunk's tensor receives dW in the grove. -/
def Chan.chunkTrained (c : Chan) (g : Nat) (w : WSlot) (chunk : Nat) : Bool :=
  match (w.chunk chunk).bind (fun m => c.tensorOf g m.tensor) with
  | some t => t.trained
  | none => false

/-! ## The reader (R129, R134, R139) -/

/-- A schedule that runs back over its residencies after its last layer, as a training step's does (R126). -/
def mirrored (rs : List Residency) : Bool :=
  rs.length ≤ 1 || (rs.length % 2 = 1 && (rs.zip rs.reverse).all (fun p => p.1.first = p.2.first && p.1.nchunk = p.2.nchunk))

/-- A subscriber that trains takes the grove's stream. -/
def Chan.feedsTraining (c : Chan) (g : Nat) : Bool :=
  let v := c.grove g
  v.ws.trainers ≠ [] || c.trainBases.contains v.job || Config.farTrains c.free v.job

/-- The residencies that a grove's passes run: an evaluation grove whose job map lists a training schedule streams its backward
residencies only for a subscriber that trains (R126, R180). -/
def Chan.schedule (c : Chan) (g : Nat) : List Residency :=
  let v := c.grove g
  let rs := c.residencies v
  if v.kind = 0 && decide (2 ≤ rs.length) && !c.isSub g && mirrored rs && !c.feedsTraining g then rs.take ((rs.length + 1) / 2) else rs

/-- Index of the residency before `k` on the same buffer; none where the buffer has not been used. -/
def prevOnBuffer (n pass k : Nat) : Option Nat :=
  if 2 ≤ k then some (k - 2)
  else if pass = 0 then none
  else ((List.range n).reverse).find? (fun j => j % 2 = k % 2)

/-- A subscribing channel counts no more: it has left the stream (R149; log entry 27). -/
def Chan.hasLeft (c : Chan) (g node : Nat) : Bool :=
  let v := c.grove g
  v.ws.detached.contains node || (node / 8 ≠ c.node / 8 && !Config.farAttached c.free v.job node)

/-- Every subscribing channel that has not left has freed the buffer (R134, R149). -/
def Chan.freedBy (c : Chan) (g ord : Nat) : Bool :=
  let v := c.grove g
  (Config.subscribers v.job ord).all (fun s => v.ws.freed.contains (s, ord) || c.hasLeft g s)

/-- Evaluation passes that no gate has opened in begin with this one: a pass whose first gate is open is begun (log entry 29). -/
def Grove.freshPassNo (v : Grove) : Nat := max v.ws.batches (v.ws.gatePass + if 0 < v.ws.next then 1 else 0)

/-- The step or batch at which a switch of a running grove takes effect (R145, R147). -/
def Grove.switchPoint (v : Grove) : Nat :=
  if v.kind = 1 then v.step + 1 else (if v.begun then v.step + 1 else v.step) + (v.freshPassNo - v.ws.batches)

/-- The switch of a grove at a point: its pass is that of the batch (R145). -/
def Grove.switchAt (v : Grove) (slot at_ : Nat) : Switch :=
  ⟨slot, at_, v.ws.batches + (at_ - if v.begun then v.step + 1 else v.step)⟩

/-- A pending switch takes effect before the pass that the reader or the gates come to now: nothing more is asked for, or opened, on the
old slot (R145; log entry 29). -/
def Grove.atSwitch (v : Grove) (pass : Nat) : Bool :=
  match v.ws.switch with
  | some w => if v.kind = 1 then decide (w.at_ ≤ v.step) else decide (w.pass ≤ pass)
  | none => false

/-- Requests outstanding at an entry port of a residency. -/
def Grove.outstanding (v : Grove) (rs : List Residency) (port : Nat) : Nat :=
  (v.ws.reqs.filter (fun q => rs.any (fun r => r.ord = q.resOrd && r.covers q.chunk && (r.route (q.chunk - r.first)).2 = port))).length

/-- One move of the reader: a request, or on to the next residency; none when it must wait. -/
def Chan.pumpOne (c : Chan) (g : Nat) : Option Chan :=
  let v := c.grove g
  let rs := c.schedule g
  let ws := v.ws
  match ws.active, rs[ws.askRes]? with
  | some slot, some r =>
    let w := v.wslot slot
    if r.reader ≠ c.node || r.nchunk ≤ ws.askQ then
      some (c.setGrove g { v with ws := { ws with askRes := ws.askRes + 1, askQ := 0 } })
    else
      let before := (prevOnBuffer rs.length ws.pass ws.askRes).bind (fun j => rs[j]?)
      let wait := ws.askQ = 0 && (match before with | some p => !c.freedBy g p.ord | none => false)
      let chunk := r.first + ws.askQ
      let (grp, port) := r.route ws.askQ
      let window := c.fld F.SP_WS_CFG_REQ_WINDOW
      if wait || v.atSwitch ws.pass || window ≤ v.outstanding rs port || (v.kind = 1 && (w.digestOf (c.chunkTrained g w chunk) chunk v.step).isNone) then none
      else
        let freed := match before with
          | some p => if ws.askQ = 0 then ws.freed.filter (fun q => q.2 ≠ p.ord) else ws.freed
          | none => ws.freed
        some ((c.setGrove g { v with ws := { ws with
            freed := freed, askQ := ws.askQ + 1, reqs := ws.reqs ++ [⟨chunk, r.ord, [], 0, 0⟩] } }).sendCtl w.store1 v.job
          (.readChunk (w.setId.take 16) chunk grp true port slot))
  | some _, none =>
    -- an evaluation pass follows the last one; a training pass waits for the verdict
    if v.kind = 0 && rs.any (fun r => r.reader = c.node && r.nchunk ≠ 0) then
      some (c.setGrove g { v with ws := { ws with askRes := 0, askQ := 0, pass := ws.pass + 1 } })
    else none
  | none, _ => none

/-- Request what may be requested now. A pass has at most as many moves as chunks and residencies; the argument bounds them. -/
def Chan.pumpN (g : Nat) : Nat → Chan → Chan
  | 0, c => c
  | n + 1, c =>
    match c.pumpOne g with
    | some c1 => Chan.pumpN g n c1
    | none => c

def Chan.pump (c : Chan) (g : Nat) : Chan :=
  let v := c.grove g
  if !v.st.active || v.ws.failed.isSome || c.isSub g then c else Chan.pumpN g 1024 c

/-! ## Gates and releases (R132, R133, R137) -/

/-- Destination tiles of a residency in this channel. -/
def Chan.resTiles (c : Chan) (g : Nat) (r : Residency) : List Nat :=
  sortedIds ((List.range r.nchunk).flatMap (fun q => (List.range 512).flatMap (fun f =>
    (c.scatterOf r q f).map (fun d => slotTile c.reg g d.1 d.2.1 d.2.2.1))))

/-- Whether a chunk of a residency has a destination in this channel. -/
def Chan.hasDest (c : Chan) (r : Residency) (q : Nat) : Bool := (List.range 512).any (fun f => c.scatterOf r q f ≠ [])

/-- Fields of a buffer in `SP_WS_GRV_REL`. -/
def relFld (g k : Nat) : Fld := if k = 0 then F.SP_WS_GRV_REL_REL0.sh (wsOff g) else F.SP_WS_GRV_REL_REL1.sh (wsOff g)
def gateFld (g k : Nat) : Fld := if k = 0 then F.SP_WS_GRV_REL_GATE0.sh (wsOff g) else F.SP_WS_GRV_REL_GATE1.sh (wsOff g)

/-- Post the gate semaphore once per context in each destination tile of a residency (R132). -/
def Chan.postGate (c : Chan) (g : Nat) (r : Residency) : Chan :=
  let sem := c.fld (F.SP_WS_GRV_CFG_GATE_SEM.sh (wsOff g))
  (c.resTiles g r).foldl (fun c t => (c.post t 0 sem 3 0).post t 1 sem 3 0) c

/-- A trained RESIDENT chunk of the open step is still missing (R231). -/
def Chan.residentDue (c : Chan) (g : Nat) : Bool :=
  let v := c.grove g
  v.kind = 1 && (match v.ws.active with
    | none => false
    | some k =>
      let w := v.wslot k
      (c.tensors v).any (fun t => t.trained && t.tier = 0 && (mTensors w.manifest).any (fun m => m.id = t.id &&
        (List.range m.count).any (fun j => (w.digestOf true (m.first + j) v.step).isNone ||
          (v.step ≠ w.base && !v.ws.chunks.any (fun p => p.chunk = m.first + j && p.step = v.step && p.complete))))))

/-- Open the next residency's gate once every chunk of it with a destination here is complete (R132, R213). -/
def Chan.tryGate (c : Chan) (g : Nat) : Chan :=
  let v := c.grove g
  let rs := c.schedule g
  match rs[v.ws.next]? with
  | none => c
  | some r =>
    let k := r.ord % 2
    let ready := (List.range r.nchunk).all (fun q => !c.hasDest r q ||
      v.ws.chunks.any (fun p => p.chunk = r.first + q && p.res = v.ws.next && p.complete && (v.kind = 0 || c.isSub g || p.step = v.step)))
    if !v.st.active || v.replay || v.atSwitch v.ws.gatePass || v.ws.failed.isSome || c.fld (gateFld g k) = 1 || !ready || (v.ws.next = 0 && c.residentDue g) then c
    else
      let nx := v.ws.next + 1
      let wraps := v.kind = 0 && rs.length ≤ nx
      let c1 := c.setGrove g { v with ws := { v.ws with
        next := if wraps then 0 else nx
        open0 := if k = 0 then some v.ws.next else v.ws.open0, open1 := if k = 1 then some v.ws.next else v.ws.open1, gatePass := if wraps then v.ws.gatePass + 1 else v.ws.gatePass } }
      (c1.setFld (gateFld g k) 1).postGate g r

/-- The residency whose weights a buffer holds: the last one opened on it. -/
def Chan.openOn (c : Chan) (g k : Nat) : Option (Nat × Residency) :=
  let v := c.grove g
  (if k = 0 then v.ws.open0 else v.ws.open1).bind (fun j => ((c.residencies v)[j]?).map (fun r => (j, r)))

/-- A failed weight set faults its member once no residency is open (R137; log entry 30). -/
def Chan.settleFail (c : Chan) (g : Nat) : Chan :=
  let v := c.grove g
  match v.ws.failed with
  | none => c
  | some (chunk, s1, s2) =>
    if c.fld (gateFld g 0) = 1 || c.fld (gateFld g 1) = 1 || v.st = .empty || v.st = .faulted then c
    else (c.event .digestFail 8 0 (some g) (BitVec.ofNat 64 (chunk + s1 * 2 ^ 32 + s2 * 2 ^ 48))).groveFault g .digestFail

/-- A tile's release write of buffer `k` (R133). -/
def Chan.releaseHit (c : Chan) (g k : Nat) : Chan :=
  let n := c.fld (relFld g k) + 1
  match c.openOn g k with
  | none => (c.setFld F.SP_WS_STATUS_REL_EXCESS 1).groveFault g .badParam
  | some (j, r) =>
    if c.fld (gateFld g k) = 0 then (c.setFld F.SP_WS_STATUS_REL_EXCESS 1).groveFault g .badParam
    else if n < r.ndest then c.setFld (relFld g k) n
    else
      let c1 := (c.setFld (relFld g k) 0).setFld (gateFld g k) 0
      let c2 := c1.onGrove g (fun v => { v with ws := { v.ws with chunks := v.ws.chunks.filter (fun p => p.res ≠ j) } })
      let c3 := if c.isSub g && !(c.grove g).ws.attached then c2 else c2.sendCtl r.reader (c.streamJob g) (.bufFree (c.streamJob g) r.ord)
      (c3.tryGate g).settleFail g

/-- A pass begins afresh with a step or an attempt (R126, R213). -/
def Chan.freshPass (c : Chan) (g : Nat) : Chan :=
  let n := (c.residencies (c.grove g)).length
  ((c.onGrove g (fun v => { v with ws := { v.ws with
    next := 0, askRes := 0, askQ := 0, pass := v.ws.pass + 1
    chunks := v.ws.chunks.filter (fun p => decide (p.res < n) || decide (v.step ≤ p.step)) } })).pump g).tryGate g

end Sys2Proof.Machine
end

