-- ==== Sys2Proof/Machine/Verdict.lean ====
section
/-! DEFINITION. Decisions of the coordinator and verdicts at the members (R206, R208, R210-R215). -/

namespace Sys2Proof.Machine

/-! ## The coordinator (R211, R212) -/

/-- The grove of a job that this channel coordinates. -/
def Chan.coordOf (c : Chan) (job : Nat) : Option Nat :=
  groveNums.find? (fun g => (c.grove g).st ≠ .empty && (c.grove g).job = job && (c.grove g).kind = 1 && (c.grove g).coord = c.node)

/-- Frames of a decision as the verdict log keeps it (R212): payload bytes and whether the frame is the last. -/
def verdictPayloads (job : Nat) (r : VerdictRec) : List (Bytes × Bool) :=
  let ps := pieces 2044 r.gtable.length r.gtable
  ps.zipIdx.map (fun p =>
    (leBytes 2 job ++ leBytes 1 r.attempt ++ leBytes 1 r.verdict ++ leBytes 4 r.step ++ leBytes 2 r.reason ++ leBytes 2 p.2 ++
      leBytes 2 p.1.length ++ zeros 2 ++ p.1.flatMap (fun e => leBytes 3 e.1 ++ leBytes 1 (unsigned 8 e.2)), p.2 + 1 = ps.length))

/-- Send a decision: to the verdict group, or to one member that asked (R212, R214). -/
def Chan.sendVerdict (c : Chan) (g : Nat) (r : VerdictRec) (dst : Option Nat) : Chan :=
  let v := c.grove g
  let grp := c.fld (F.RED_GRV_CFG_VGROUP.sh (redOff g))
  (verdictPayloads v.job r).foldl (fun c p =>
    c.sendFrame { Frame.blank 0x05 (dst.getD grp) (.raw p.1) with
      job := v.job, step := r.step, flags := BitVec.ofNat 16 ((if p.2 then 4 else 0) + if dst.isNone then 32 else 0) }) c

/-- Owners of the job map's shards. -/
def Chan.owners (c : Chan) (g : Nat) : List Nat := sortedIds ((c.shards g).map (·.owner))

/-- Every frame of an owner's report is here. -/
def OwnerRep.complete (r : OwnerRep) : Bool :=
  match r.last with
  | some k => (List.range (k + 1)).all (fun i => r.frames.contains i)
  | none => false

def Decision.report (d : Decision) (o : Nat) : Option OwnerRep := d.reports.find? (fun r => r.owner = o && r.complete)

/-- The reason of a decision (R211). -/
def Decision.reason (d : Decision) (owners : List Nat) : Nat :=
  (owners.foldl (fun a o => a ||| (match d.report o with
    | some r => r.bits
    | none => 256)) 0) ||| (if d.faults = [] then 0 else 512)

/-- The largest proposal received per tensor, an incomplete report's too, in rising tensor id (R206). -/
def Decision.gtable (d : Decision) (owners : List Nat) : List (Nat × Int) :=
  let ps := (d.reports.filter (fun r => owners.contains r.owner)).flatMap (·.props)
  (sortedIds (ps.map (·.1))).map (fun t =>
    let vs := (ps.filter (fun p => p.1 = t)).map (·.2)
    (t, vs.foldl max (vs.headD 0)))

/-- The verdict code for a reason (R211): 1 COMMIT, 2 SKIP, 3 RETRY. -/
def verdictFor (reason attempt : Nat) : Nat :=
  if bits reason 4 1 = 1 && attempt = 0 && bits reason 9 1 = 0 then 3
  else if reason = 0 || reason = 32 then 1 else 2

/-- Decide an open (s, a): into the log, which keeps 16 decisions, and out to the verdict group (R211). -/
def Chan.decideStep (c : Chan) (g : Nat) (d : Decision) : Chan :=
  let owners := c.owners g
  let reason := d.reason owners
  let vd := verdictFor reason d.attempt
  let r : VerdictRec := ⟨d.step, d.attempt, vd, reason, if vd = 3 then [] else d.gtable owners⟩
  let c1 := c.onGrove g (fun v => { v with verdict := { v.verdict with
    open_ := v.verdict.open_.filter (fun x => !(x.step = d.step && x.attempt = d.attempt))
    log := newest 16 (v.verdict.log ++ [r]) } })
  c1.sendVerdict g r none

/-- Decide (s, a) once every owner has reported. -/
def Chan.tryDecide (c : Chan) (g step attempt : Nat) : Chan :=
  match (c.grove g).verdict.open_.find? (fun d => d.step = step && d.attempt = attempt) with
  | none => c
  | some d => if (c.owners g).all (fun o => (d.report o).isSome) then c.decideStep g d else c

/-- Whether (s, a) is decided: in the log, or older than the step and attempt in progress (R211). -/
def Grove.decided (v : Grove) (step attempt : Nat) : Bool :=
  v.verdict.log.any (fun r => r.step = step && r.attempt = attempt) || decide (step < v.step) ||
    (step = v.step && decide (attempt < v.verdict.attempt))

/-- States of the coordinator's grove in which it takes reports, faults and queries: it may hold reports before it is enabled;
a faulted one decides nothing (R211, R215; log entry 29). -/
def GroveState.coordinates (st : GroveState) : Bool := st.active || st = .loaded

/-- Take one report or fault into the decision of its (s, a); one already decided only counts (R211). -/
def Chan.noteDecision (c : Chan) (g step attempt : Nat) (f : Decision → Decision) : Chan :=
  if (c.grove g).decided step attempt then c.count (F.RED_GRV_CNT_LATE_REPORT.sh (redOff g))
  else
    (c.onGrove g (fun v =>
      let w1 := v.verdict.openFor step attempt
      { v with verdict := { w1 with open_ := w1.open_.map (fun d => if d.step = step && d.attempt = attempt then f d else d) } })).tryDecide
        g step attempt

/-- Add a report frame. -/
def Decision.addReport (d : Decision) (src b idx : Nat) (props : List (Nat × Int)) (last : Bool) : Decision :=
  match d.reports.find? (fun r => r.owner = src) with
  | some r =>
    if r.frames.contains idx then d
    else
      let r1 : OwnerRep := { r with bits := r.bits ||| b, props := r.props ++ props, frames := r.frames ++ [idx], last := if last then some idx else r.last }
      { d with reports := d.reports.filter (fun x => x.owner ≠ src) ++ [r1] }
  | none => { d with reports := d.reports ++ [⟨src, b, props, [idx], if last then some idx else none⟩] }

/-- `STEP_REPORT` (R208, R211); while the coordinator's grove is PAUSED the frame waits. -/
def execStepReport (c : Fin 8) (src attempt job step bits frameIdx : Nat) (proposals : List (Nat × Int)) (last : Bool) (s : State) :
    Host.Outcome State Fault Refusal :=
  chanStep s c (fun c =>
    let took := c.takeFrame (fun f => f.src = src && f.payload = .ctl (.stepReport attempt job step bits frameIdx proposals last))
    match c.coordOf job with
    | none => took
    | some g =>
      if (c.grove g).st = .paused then c
      else if !(c.grove g).st.coordinates then took
      else took.noteDecision g step attempt (fun d => d.addReport src bits frameIdx proposals last))

/-- `STEP_FAULT` (R208, R210, R211): a fault under CONSISTENCY_FAIL marks both trees of its shard suspect. -/
def execStepFault (c : Fin 8) (src attempt job step status shard : Nat) (s : State) : Host.Outcome State Fault Refusal :=
  chanStep s c (fun c =>
    let took := c.takeFrame (fun f => f.src = src && f.payload = .ctl (.stepFault attempt job step status shard))
    match c.coordOf job with
    | none => took
    | some g =>
      if (c.grove g).st = .paused then c
      else if !(c.grove g).st.coordinates then took
      else
        let c1 :=
          match took.shard g shard with
          | some sh =>
            if status = Status.consistencyFail.code then
              let m := CtlMsg.suspectMark attempt job step shard sh.tree sh.tree2
              let f : Frame := { Frame.blank 0x07 (took.fld (F.RED_GRV_CFG_VGROUP.sh (redOff g))) (.ctl m) with job := job, flags := 32 }
              ((took.logTrees g sh).sendFrame f).sendCtl took.fm job m
            else took
          | none => took
        c1.noteDecision g step attempt (fun d => { d with faults := d.faults ++ [(src, status)] }))

/-- `VERDICT_TIMEOUT` (R211): the open (s, a) is decided with what is there. -/
def execVerdictTimeout (c : Fin 8) (g : Fin 16) (step attempt : Nat) (s : State) : Host.Outcome State Fault Refusal :=
  chanStep s c (fun c =>
    let v := c.grove g
    match v.verdict.open_.find? (fun d => d.step = step && d.attempt = attempt) with
    | some d => if v.st.coordinates && v.coord = c.node then c.decideStep g d else c
    | none => c)

/-- `VERDICT_QUERY` (R214): answered from the log by unicast. -/
def execVerdictQuery (c : Fin 8) (src job step attempt : Nat) (s : State) : Host.Outcome State Fault Refusal :=
  chanStep s c (fun c =>
    let took := c.takeFrame (fun f => f.src = src && f.payload = .ctl (.verdictQuery job step attempt))
    match c.coordOf job with
    | none => took
    | some g =>
      if (c.grove g).st = .paused then c
      else
        match (c.grove g).verdict.log.find? (fun r => r.step = step && r.attempt = attempt) with
        | some r => if (c.grove g).st.coordinates then took.sendVerdict g r (some src) else took
        | none => took)

/-! ## The members (R213, R214) -/

/-- Take every frame of a verdict. -/
def Chan.takeVerdict (c : Chan) (job step n : Nat) : Chan :=
  (List.range n).foldl (fun c _ => c.takeFrame (fun f => f.typ = 0x05 && f.job = job && f.step = step)) c

/-- On SKIP each reader treats the digests of step s as those of s + 1 (R213). -/
def WSlot.skipTo (w : WSlot) (step : Nat) : WSlot :=
  { w with
    digests := w.digests.map (fun d => if d.step = step then { d with step := step + 1 } else d)
    base := if w.base = step then step + 1 else w.base }

/-- On SKIP of a step a reader treats its digests as the next step's, and a member its RESIDENT chunks of the step, which are complete
beside the schedule's residencies, as those of the next (R213, R231). -/
def GroveWs.skipTo (w : GroveWs) (residencies step : Nat) : GroveWs :=
  { w with
    slot0 := w.slot0.skipTo step, slot1 := w.slot1.skipTo step
    chunks := w.chunks.map (fun p => if residencies ≤ p.res && p.step = step then { p with step := step + 1 } else p) }

/-- Per-attempt state starts afresh: egress, what was reported, queries, the stash's admission points (R168, R188). -/
def Grove.freshAttempt (v : Grove) (attempt : Nat) : Grove :=
  { v with
    begun := false, mb := 0, egress := GroveEgress.reset
    stash := { v.stash with point := 0, arrived := true }
    verdict := { v.verdict with attempt := attempt, queries := 0, reported := none } }

/-- The grove after COMMIT or SKIP of its open step. -/
def Grove.nextStep (v : Grove) (gtable : List (Nat × Int)) : Grove :=
  let w := (v.freshAttempt 0)
  { w with
    step := v.step + 1, replays := 0, remaps := 0
    verdict := { w.verdict with retry0 := [], g := gtable.foldl (fun m e => mapPut m e.1 e.2) w.verdict.g } }

/-- Record the verdict held (R216). -/
def Chan.holdVerdict (c : Chan) (g step attempt verdict reason : Nat) : Chan :=
  let o := redOff g
  ((((c.setFld (F.RED_GRV_VSTEP_STEP.sh o) step).setFld (F.RED_GRV_VCODE_VERDICT.sh o) verdict).setFld
    (F.RED_GRV_VCODE_ATTEMPT.sh o) attempt).setFld (F.RED_GRV_VCODE_REASON.sh o) reason).setFld (F.RED_GRV_VCODE_WAITING.sh o) 0

/-- Frames of a decided (s, a) that a grove's combiners hold count as stale, each at its unit (R201, R215). -/
def Chan.countStale (c : Chan) (g : Nat) : Chan :=
  (c.combs.filter (fun x => x.grove = g)).foldl (fun c x =>
    c.countBy (F.RED_UNIT_DISC_STALE_FRAMES.sh (unitOff x.unit)) (x.inputs.flatMap (fun i => i.blocks.flatMap (·.frames))).length) c

/-- Act on the verdict of the open (s, a) (R213, R215, R222). -/
def Chan.actVerdict (c : Chan) (g attempt verdict step reason : Nat) (gtable : List (Nat × Int)) : Chan :=
  let o := redOff g
  let c1 := (((c.holdVerdict g step attempt verdict reason).countStale g).dropCombs g).onGrove g (fun v =>
    { v with verdict := { v.verdict with held := some (step, attempt) } })
  if verdict = 3 then ((c1.count (F.RED_GRV_CNT_RETRIES.sh o)).onGrove g (fun v => v.freshAttempt 1)).freshPass g
  else
    let c2 :=
      if verdict = 1 then
        let c2 := if thinnedCount (c.egress g) = 0 then c1
          else c1.setFld (F.RED_GRV_VCODE_EF_CUR.sh o) (1 - c1.fld (F.RED_GRV_VCODE_EF_CUR.sh o))
        if c.fld (F.CKP_UPD_GRV_CFG_ENABLE.sh o) = 1 then
          c2.onGrove g (fun v => { v with update := { v.update with
            queued := v.update.queued ++ [step], gexp := mapPut v.update.gexp step v.verdict.g } })
        else c2
      else
        (c1.count (F.RED_GRV_CNT_SKIPS.sh o)).onGrove g (fun v =>
          { v with ws := v.ws.skipTo (c.residencies v).length step })
    -- with no update to wait for, this boundary is the capture point of ring `step` (R341)
    let c3 := c2.onGrove g (fun v =>
      let w := v.nextStep gtable
      if verdict = 1 && c.fld (F.CKP_UPD_GRV_CFG_ENABLE.sh o) = 1 then w else w.pass step c.pclk)
    ((c3.boundary g (step + 1)).stepReached g).freshPass g

/-- `VERDICT` (R213): a member that holds every frame of the verdict of its open step and attempt acts on it; a PAUSED one
leaves it waiting (R214). -/
def execVerdict (c : Fin 8) (job attempt verdict step : Nat) (reason : Nat) (gtable : List (Nat × Int)) (s : State) :
    Host.Outcome State Fault Refusal :=
  chanStep s c (fun c =>
    match c.groveOfJob job with
    | none => c
    | some g =>
      let v := c.grove g
      if v.st = .paused then c
      else
        let took := c.takeVerdict job step (gtable.length / 2044 + 1)
        if !v.st.active || v.kind ≠ 1 || step ≠ v.step || attempt ≠ v.verdict.attempt || verdict = 0 || 4 ≤ verdict then took
        else took.actVerdict g attempt verdict step reason gtable)

/-- `VERDICT_WAIT_EXPIRY` (R214): a query, and after four unanswered ones the grove faults. -/
def execVerdictWaitExpiry (c : Fin 8) (g : Fin 16) (s : State) : Host.Outcome State Fault Refusal :=
  chanStep s c (fun c =>
    let v := c.grove g
    if !v.st.active || !c.waitsVerdict g then c
    else
      let c1 := if 0 < v.verdict.queries then c.setFld F.RED_STATUS_VERDICT_LOST 1 else c
      if v.verdict.queries < 4 then
        (c1.sendCtl v.coord v.job (.verdictQuery v.job v.step v.verdict.attempt)).onGrove g (fun v =>
          { v with verdict := { v.verdict with queries := v.verdict.queries + 1 } })
      else (c1.event .hwFault 5 0 (some g.val) (argFld F.RED_STATUS_VERDICT_LOST)).groveFault g .hwFault)

/-- Interfaces that a tree entry names (R210). -/
def TreeEntry.units (e : TreeEntry) : List Nat :=
  (if e.root then [5] else [e.parentIf]) ++ (e.sources.filter (fun x => x.ifx ≠ 7)).map (·.ifx)

/-- `SUSPECT_MARK` (R210). -/
def execSuspectMark (c : Fin 8) (attempt job step shard tree tree2 : Nat) (s : State) : Host.Outcome State Fault Refusal :=
  chanStep s c (fun c =>
    let took := c.takeCtl (.suspectMark attempt job step shard tree tree2)
    let us := [tree, tree2].flatMap (fun t => let e := took.treeEntry t; if e.valid then e.units else [])
    us.foldl (fun c u => (c.setFld (F.RED_UNIT_STATUS_SUSPECT.sh (unitOff u)) 1).setFld F.RED_STATUS_SUSPECT_SET 1) took)

end Sys2Proof.Machine
end

