-- ==== Sys2Proof/Machine/Update.lean ====
section
/-! DEFINITION. Shard update on the owner channel: state records, the update aperture, chunks and write-back
(R218-R233). -/

namespace Sys2Proof.Machine

/-! ## Optimizer state (R219-R221) -/

/-- The binary32 pattern of 1.0. -/
def one32 : Nat := 0x3F800000

def mul32 (a b : Nat) : Nat := (binary32.mul (binary32.decode a) (binary32.decode b)).1
def sub32 (a b : Nat) : Nat := (binary32.add (binary32.decode a) (binary32.decode b).neg).1
def div32 (a b : Nat) : Nat := (binary32.div (binary32.decode a) (binary32.decode b)).1
def finite32 (a : Nat) : Bool := bits a 23 8 ≠ 255

/-- Lines of a state record by kind (R220). -/
def stateLines (kind : Nat) : Nat := if kind = 0 then 97 else if kind = 2 then 99 else 129

def Chan.optOf (c : Chan) (g tensor : Nat) : Option OptEntry := (c.optEntries g).find? (fun e => e.tensor = tensor)

/-- Panel `p` of a grove: its shard, block in the shard, half (R218, R223). -/
def Chan.panel (c : Chan) (g p : Nat) : Option (Shard × Nat × Nat) :=
  let l := c.owned g
  (l.find? (fun s => decide (ownedBefore l s.num ≤ p / 2) && decide (p / 2 < ownedBefore l s.num + s.nblock))).map
    (fun s => (s, p / 2 - ownedBefore l s.num, p % 2))

/-- Number of owned panels. -/
def Chan.panels (c : Chan) (g : Nat) : Nat := 2 * ownedTotal (c.owned g)

def Chan.kindOf (c : Chan) (g : Nat) (s : Shard) : Nat := ((c.optOf g s.tensor).map (·.kind)).getD 0

/-- HBM line of a panel's state record (R220). -/
def Chan.stateLine (c : Chan) (g : Nat) (s : Shard) (block half : Nat) : Nat :=
  let before := (c.owned g).takeWhile (fun x => x.num ≠ s.num)
  c.fld (F.CKP_UPD_GRV_STATE_STATE_LINE.sh (redOff g)) + before.foldl (fun a x => a + 2 * x.nblock * stateLines (c.kindOf g x)) 0 +
    (2 * block + half) * stateLines (c.kindOf g s)

/-- 32-bit words of a byte string. -/
def words32 (b : Bytes) (n : Nat) : List Nat := (List.range n).map (fun i => leAt b (4 * i) 4)
def bytes32 (l : List Nat) : Bytes := l.flatMap (leBytes 4)

/-- Store a block of 32 binary32 values as bfloat16 under one scale (R220): scale byte and patterns. -/
def packMoments (l : List Nat) : Nat × List Nat :=
  let ex : List Exact := l.map (fun w => match binary32.decode w with | .fin n m e => ⟨n, m, e⟩ | _ => ⟨false, 0, 0⟩)
  let a : Exact := ex.foldl (fun m v => if m.magLt v then v else m) ⟨false, 0, 0⟩
  let x : Int := if a.m = 0 then 0 else max (-127) (min 127 (a.e + Nat.log2 a.m))
  ((x + 127).toNat, ex.map (fun v => (roundElem fmtBf16 none { v with e := v.e - x }).1))

/-- A stored moment as binary32 (R220). -/
def unpackMoment (scale w : Nat) : Nat :=
  match bfloat16.decode w with
  | .fin n m e => (binary32.round n m (e + ((scale : Int) - 127)) false).1
  | _ => 0

/-- Moments of a panel stored at `off` of a record with their scales at `soff`. -/
def readMoments (b : Bytes) (off soff n : Nat) : List Nat :=
  (List.range n).map (fun i => unpackMoment (leAt b (soff + i / 32) 1) (leAt b (off + 2 * i) 2))

/-- The optimizer state of a panel in binary32: master, moment 1, moment 2 or the 64 factors. -/
structure PanelState where
  master : List Nat
  m1     : List Nat
  m2     : List Nat
deriving DecidableEq, Repr

def parseState (kind : Nat) (b : Bytes) : PanelState :=
  let sc := 64 * (stateLines kind - 1)
  ⟨words32 b 1024, readMoments b 4096 sc 1024,
    if kind = 0 then [] else if kind = 2 then readMoments b 6144 (sc + 32) 64 else readMoments b 6144 (sc + 32) 1024⟩

/-- Blocks of 32 values. -/
def blocks32 (l : List Nat) : List (List Nat) := (List.range (l.length / 32)).map (fun k => (l.drop (32 * k)).take 32)

/-- A state record (R220). -/
def stateBytes_ (s : PanelState) : Bytes :=
  let p1 := (blocks32 s.m1).map packMoments
  let p2 := (blocks32 s.m2).map packMoments
  let scale := (p1 ++ p2).map (fun p => BitVec.ofNat 8 p.1)
  bytes32 s.master ++ (p1 ++ p2).flatMap (fun p => p.2.flatMap (leBytes 2)) ++ slice scale 0 64

/-! ## Compute format (R226) -/

/-- The trained tensor's manifest entry in the active slot. -/
def Chan.mTensor (c : Chan) (g tensor : Nat) : Option MTensor :=
  let v := c.grove g
  v.ws.active.bind (fun k => (mTensors (v.wslot k).manifest).find? (fun t => t.id = tensor))

/-- A format's encoding of a finite master value at scale exponent `x` (R55). -/
def formElem (f : Nat) (x : Int) (w : Nat) : Nat :=
  match binary32.decode w with
  | .fin n m e => (roundElem f none ⟨n, m, e - x⟩).1
  | _ => 0

/-- A master value as bfloat16 (R226): an infinity or a NaN keeps its upper half, so that an element that entered as one keeps its
bits; a NaN whose upper half would read as an infinity becomes the quiet NaN (log entry 82). -/
def formBf16 (w : Nat) : Nat :=
  if finite32 w then formElem fmtBf16 0 w
  else if bits w 0 23 ≠ 0 && bits w 16 7 = 0 then bfloat16.nanBits
  else w / 2 ^ 16

def exactOf (w : Nat) : Exact := match binary32.decode w with | .fin n m e => ⟨n, m, e⟩ | _ => ⟨false, 0, 0⟩

/-- The scale byte of a set of master values: 0xFF where one is not finite, else the exponent's (R56). -/
def formScale (f : Nat) (l : List Nat) : Nat :=
  if l.all finite32 then
    (scaleExp f (some ((l.map exactOf).foldl (fun m v => if m.magLt v then v else m) ⟨false, 0, 0⟩)) + 127).toNat
  else 0xFF

/-- Element codes of a block under a scale byte: all 0 under 0xFF (R56). -/
def formBlock (f sc : Nat) (l : List Nat) : List Nat := l.map (fun w => if sc = 0xFF then 0 else formElem f ((sc : Int) - 127) w)

/-- A panel's image: element bytes, then its 32 scale bytes for an MX format (R226). -/
def formPanel (f : Nat) (square : Bool) (master : List Nat) : Bytes :=
  if f = fmtBin32 then bytes32 master
  else if f = fmtBf16 then master.flatMap (fun w => leBytes 2 (formBf16 w))
  else
    let rows := blocks32 master
    let sq := formScale f master
    let xs := rows.map (fun r => if square then sq else formScale f r)
    (rows.zip xs).flatMap (fun p => packBlock f (formBlock f p.2 p.1)) ++ xs.map (BitVec.ofNat 8)

/-- Element bytes of a panel in a format. -/
def panelElems (f : Nat) : Nat := if f = fmtBin32 then 4096 else panelBytes f

/-! ## Initialisation (R221) -/

/-- Bytes of a tensor's image from the set its stage read; what the stage did not read is free (log entry 3). -/
def Chan.imageBytes (c : Chan) (w : WSlot) (t : MTensor) (off n : Nat) : Bytes :=
  (List.range n).map (fun i =>
    let a := off + i
    let k := t.first + a / 4194304
    match mapFind w.data k with
    | some b => b.getD (a % 4194304) 0
    | none => (Config.freeBytes (8 * c.free + c.idx) (a + 1)).getD a 0)

/-- The exact binary32 value of a compute-format element under its scale byte (R221); a NaN is the quiet NaN, and one of bfloat16
keeps its bits. -/
def elemWord (f code sc : Nat) : Nat :=
  if f = fmtBin32 then code
  else if f = fmtBf16 then code * 2 ^ 16
  else
    match scaledValue f code sc, elemOf f code with
    | some v, _ => (binary32.round v.neg v.m v.e false).1
    | none, .inf n => if sc = 0xFF then binary32.nanBits else binary32.signed n binary32.infBits
    | none, _ => binary32.nanBits

/-- The initial master of a panel: from the set's MASTER tensor, or the exact value of the compute-format element. -/
def Chan.initMaster (c : Chan) (w : WSlot) (t : MTensor) (panel total : Nat) : List Nat :=
  match (if leAt w.manifest 6 2 % 2 = 1 then (mTensors w.manifest).find? (fun m => bits m.tflags 1 1 = 1 && m.masterOf = t.id) else none) with
  | some m => words32 (c.imageBytes w m (panel * 4096) 4096) 1024
  | none =>
    let n := panelElems t.fmt
    let b := c.imageBytes w t (panel * n) n
    let sc := if fmtIsMx t.fmt then c.imageBytes w t (total * n + panel * 32) 32 else []
    let all := leNat b
    (List.range 1024).map (fun i =>
      elemWord t.fmt (bits all (i * fmtBits t.fmt) (fmtBits t.fmt)) (if fmtIsMx t.fmt then leAt sc (i / 32) 1 else 127))

/-- Reset `P1`, `P2` and `T` of every table entry. -/
def Chan.initTable (c : Chan) (g : Nat) : Chan :=
  (c.optEntries g).foldl (fun c e =>
    let a := e.line / 64
    c.hbmWriteLine a (slice (c.hbmLine a) 0 48 ++ leBytes 4 one32 ++ leBytes 4 one32 ++ leBytes 4 0 ++ slice (c.hbmLine a) 60 4)) c

/-- Blocks of a tensor in all. -/
def tensorBlocks (t : WTensor) : Nat := (t.din + 31) / 32 * blockCols t.dout

/-- Initialise the state of every owned panel from a slot (R221). -/
def Chan.initState (c : Chan) (g slot : Nat) : Chan :=
  let w := (c.grove g).wslot slot
  (c.owned g).foldl (fun c s =>
    match (mTensors w.manifest).find? (fun t => t.id = s.tensor), c.tensorOf g s.tensor with
    | some t, some wt =>
      let kind := c.kindOf g s
      (List.range (2 * s.nblock)).foldl (fun c p =>
        let st : PanelState := ⟨c.initMaster w t (2 * s.first + p) (2 * tensorBlocks wt), List.replicate 1024 0,
          if kind = 0 then [] else List.replicate (if kind = 2 then 64 else 1024) 0⟩
        c.hbmWrite (c.stateLine g s (p / 2) (p % 2)) (stateBytes_ st)) c
    | _, _ => c) (c.initTable g)

/-- At a load: the table entries, and the moments and factors of every owned panel; the masters come from the weight set once a slot
holds one (R221; log entry 83). -/
def Chan.initLoad (c : Chan) (g : Nat) : Chan :=
  (c.owned g).foldl (fun c s =>
    let kind := c.kindOf g s
    let st : PanelState := ⟨List.replicate 1024 0, List.replicate 1024 0,
      if kind = 0 then [] else List.replicate (if kind = 2 then 64 else 1024) 0⟩
    (List.range (2 * s.nblock)).foldl (fun c p =>
      c.hbmWrite (c.stateLine g s (p / 2) (p % 2) + 64) ((stateBytes_ st).drop 4096)) c) (c.initTable g)

/-- Clear both error-feedback buffers of a grove (R145). -/
def Chan.clearEf (c : Chan) (g : Nat) : Chan :=
  let n := 128 * thinnedCount (c.egress g)
  (List.range n).foldl (fun c k => c.hbmWriteLine (c.fld (F.RED_GRV_EF_EF_LINE.sh (redOff g)) + k) (zeros 64)) c

/-! ## The update aperture (R223-R225) -/

/-- `P1` and `P2` of this update per tensor (R224). -/
def Chan.updConsts (c : Chan) (g : Nat) : NMap (Nat × Nat) :=
  (c.optEntries g).foldl (fun m e => mapPut m e.tensor (mul32 e.p1 e.b1, mul32 e.p2 e.b2)) []

/-- The read header of a panel (R224). -/
def Chan.updHeader (c : Chan) (g step : Nat) (s : Shard) (block half : Nat) (e : OptEntry) (masked done : Bool) : Bytes :=
  let t := e.t + 1
  let lr := leNat (c.hbmRead (e.lrLine * 64 + 4 * min (t - 1) (e.lrCount - 1)) 4)
  let (p1, p2) := mapGet (fun _ => (one32, one32)) (c.grove g).update.consts s.tensor
  let r (p : Nat) : Nat := if e.kind = 0 then one32 else div32 one32 (sub32 one32 p)
  leBytes 4 s.tensor ++ leBytes 4 block ++ leBytes 1 half ++ leBytes 1 e.kind ++ leBytes 1 e.variant ++
    leBytes 1 ((if masked then 1 else 0) + if done then 2 else 0) ++ leBytes 4 step ++ leBytes 4 t ++ leBytes 4 lr ++ leBytes 4 (r p1) ++
    leBytes 4 (r p2) ++ leBytes 4 e.b1 ++ leBytes 4 (sub32 one32 e.b1) ++ leBytes 4 e.b2 ++ leBytes 4 (sub32 one32 e.b2) ++ leBytes 4 e.eps ++
    leBytes 4 e.wd ++ leBytes 4 e.clip ++ leBytes 4 e.user

/-- Masked elements of a panel, row-major (R176, R223). -/
def Chan.panelSkip (c : Chan) (g : Nat) (s : Shard) (block half : Nat) : List Bool :=
  let l := c.skipped g s block
  (List.range 1024).map (fun i => l.getD (i / 32 * 64 + half * 32 + i % 32) false)

/-- The lines of a block's reduced sum that hold one half's elements, row by row (R218). -/
def Chan.sumHalf (c : Chan) (g step : Nat) (s : Shard) (block half : Nat) : List Nat :=
  (List.range 128).map (fun k => c.sumLine g (step % 2) s.num block + 1 + k / 4 * 8 + half * 4 + k % 4)

/-- The gradient of a panel from the half's sums (R223): RNE(RNE(n * 2^G) * GSCALE). -/
def Chan.panelGrad (c : Chan) (g step : Nat) (s : Shard) (b : Bytes) (gscale : Nat) : List Nat :=
  let G := (mapFind (mapGet (fun _ => []) (c.grove g).update.gexp step) s.tensor).getD s.g0
  (List.range 1024).map (fun i =>
    let n := signed 64 (leAt b (8 * i) 8)
    mul32 (binary32.round (decide (n < 0)) n.natAbs G false).1 gscale)

def boolBits (l : List Bool) : Bytes := leBytes (l.length / 8) (l.foldr (fun b a => (if b then 1 else 0) + 2 * a) 0)

/-- An aperture access that breaks R223, or outside an update (R225). -/
def Chan.updRefuse (c : Chan) : DevRes := .refuse 0x0F (c.setFld F.CKP_UPD_STATUS_APERTURE_FAULT 1)

def Chan.stateOf (c : Chan) (g : Nat) (s : Shard) (block half : Nat) : PanelState :=
  let kind := c.kindOf g s
  parseState kind (c.hbmRead (c.stateLine g s block half * 64) (64 * stateLines kind))

/-- Lines of a panel's state record. -/
def Chan.stateLinesOf (c : Chan) (g : Nat) (s : Shard) (block half : Nat) : List Nat :=
  (List.range (stateLines (c.kindOf g s))).map (fun k => c.stateLine g s block half + k)

/-- A tile's read of a panel: 259 lines (R223, R224). A sum or state that reads uncorrectable faults the grove, and the descriptor
stays where it stands (R280). -/
def Chan.updRead (c : Chan) (r : SlotRef) (off n : Nat) (errs : NMap LineErr) : DevRes :=
  let g := r.grove
  let p := bits off 9 18
  match (c.grove g).update.step, c.panel g p with
  | some step, some (s, block, half) =>
    match c.optOf g s.tensor with
    | none => c.updRefuse
    | some e =>
      if bits off 0 9 ≠ 0 || n ≠ 259 then c.updRefuse
      else
        let skip := c.panelSkip g s block half
        match c.readList errs (c.sumHalf g step s block half) with
        | (none, c1) => .waits (c1.groveFault g .hwFault)
        | (some sums, c1) =>
          match c1.readList errs (c.stateLinesOf g s block half) with
          | (none, c2) => .waits (c2.groveFault g .hwFault)
          | (some b, c2) =>
            let st := parseState (c.kindOf g s) b
            .done (c.updHeader g step s block half e (skip.any id) ((c.grove g).update.written.contains p) ++ boolBits skip ++
              bytes32 (c.panelGrad g step s sums e.gscale) ++ bytes32 st.master ++ bytes32 st.m1 ++ slice (bytes32 st.m2) 0 4096) c2
  | _, _ => c.updRefuse

/-! ## Chunks (R230, R231) -/

/-- The slot number an update writes to: the one in force. -/
def Grove.slotNow (v : Grove) : Nat := v.ws.active.getD 0

/-- A written panel's image by its number in the tensor. -/
def Chan.panelImage (c : Chan) (g : Nat) (tensor k : Nat) : Option Bytes :=
  let l := c.owned g
  (l.find? (fun s => s.tensor = tensor && decide (2 * s.first ≤ k) && decide (k < 2 * (s.first + s.nblock)))).bind (fun s =>
    mapFind (c.grove g).update.images (2 * ownedBefore l s.num + k - 2 * s.first))

/-- Whether panel `k` of a tensor has bytes in a chunk: of its elements or of its scales. -/
def panelIn (t : MTensor) (total : Nat) (m : MChunk) (k : Nat) : Bool :=
  let n := panelElems t.fmt
  let hit (a w : Nat) : Bool := decide (a < m.off + m.len) && decide (m.off < a + w)
  hit (k * n) n || (fmtIsMx t.fmt && hit (total * n + k * 32) 32)

/-- The bytes of a chunk, once every panel with bytes in it is written. -/
def Chan.formChunk (c : Chan) (g : Nat) (t : MTensor) (total : Nat) (m : MChunk) : Option Bytes :=
  let n := panelElems t.fmt
  let ks := (List.range total).filter (panelIn t total m)
  if ks.any (fun k => (c.panelImage g t.id k).isNone) then none
  else
    some ((List.range m.len).map (fun i =>
      let a := m.off + i
      if a < total * n then ((c.panelImage g t.id (a / n)).getD []).getD (a % n) 0
      else ((c.panelImage g t.id ((a - total * n) / 32)).getD []).getD (n + (a - total * n) % 32) 0))

/-- Frames of a chunk (R130, R230). -/
def chunkFrames (job dst slot step chunk fmt tensor : Nat) (group : Bool) (data : Bytes) : List Frame :=
  let ps := chunksOf (data.length / 8192 + 1) 8192 data
  ps.zipIdx.map (fun p =>
    { Frame.blank 0x01 dst (.raw p.1) with
      job := job, fmt := fmt, tensor := tensor, shard := chunk, step := step, mb := p.2
      flags := BitVec.ofNat 16 ((if p.2 + 1 = ps.length then 4 else 0) + if group then 32 else 0), rseq := slot })

/-- Send a chunk to a store, ahead of it `WRITE_CHUNK`; chunks alternate between the two stream ports (R230). -/
def Chan.sendChunk (c : Chan) (g step chunk ord : Nat) (m : MChunk) (fmt : Nat) (store replica : Nat) (data : Bytes) : Chan :=
  let v := c.grove g
  let k := v.slotNow
  let w := v.wslot k
  let c1 := c.sendCtl store v.job (.writeChunk v.job (w.setId.take 16) chunk (step + 1) data.length (digest data) replica)
  (chunkFrames v.job store k (step + 1) chunk fmt m.tensor false data).foldl (fun c f =>
    (c.toEgress (ord % 2) ⟨5, 0, { f with src := c.node }⟩).1) c1

/-- Multicast a trained RESIDENT chunk, its digest ahead of it (R231; log entry 32). -/
def Chan.castChunk (c : Chan) (g step chunk : Nat) (m : MChunk) (fmt : Nat) (data : Bytes) : Chan :=
  let v := c.grove g
  let grp := Config.residentGroup v.image m.tensor
  let c1 := c.sendFrame { Frame.blank 0x07 grp (.ctl (.digestUpdate v.job (step + 1) chunk (digest data))) with job := v.job, flags := 32 }
  (chunkFrames v.job grp v.slotNow (step + 1) chunk fmt m.tensor true data).foldl (fun c f => c.sendFrame f) c1

/-- Chunks of the owned trained tensors in shard-table order (R222): tensor, total panels, tier, chunk index, entry. A chunk that
holds panels of several shards comes with the first of them. -/
def Chan.ownedChunks (c : Chan) (g : Nat) : List (MTensor × Nat × Nat × Nat × MChunk) :=
  let v := c.grove g
  let w := v.wslot v.slotNow
  let cs := mChunks w.manifest
  ((c.owned g).flatMap (fun s =>
    match c.mTensor g s.tensor, c.tensorOf g s.tensor with
    | some t, some wt =>
      let total := 2 * tensorBlocks wt
      (List.range t.count).filterMap (fun j => (cs[t.first + j]?).bind (fun m =>
        if (List.range (2 * s.nblock)).any (fun k => panelIn t total m (2 * s.first + k)) then some (t, total, wt.tier, t.first + j, m) else none))
    | _, _ => [])).eraseDups

/-- Pages the write-back area holds (R230). -/
def GroveUpdate.wbPages (u : GroveUpdate) : Nat := (u.chunks.map (fun k => (k.data.length + 4095) / 4096)).foldl (· + ·) 0

/-- Form and send the next chunks that are ready and fit the write-back pages; the argument bounds them. -/
def Chan.formChunks (g step : Nat) : Nat → Chan → Chan
  | 0, c => c
  | n + 1, c =>
    let u := (c.grove g).update
    match (c.ownedChunks g).find? (fun k => !u.formed.contains k.2.2.2.1) with
    | none => c
    | some (t, total, tier, k, m) =>
      match c.formChunk g t total m with
      | none => c
      | some data =>
        if c.fld (F.CKP_UPD_GRV_WB_WB_PAGES.sh (redOff g)) < u.wbPages + (data.length + 4095) / 4096 then c
        else
          let w := (c.grove g).wslot (c.grove g).slotNow
          let c1 := c.onGrove g (fun v => { v with update := { v.update with
            formed := v.update.formed ++ [k], chunks := v.update.chunks ++ [⟨k, data, 0, []⟩] } })
          let c2 := if tier = 0 then c1.castChunk g step k m t.fmt data
            else c1.sendChunk g step k u.formed.length m t.fmt w.store1 w.store2 data
          Chan.formChunks g step n c2

/-- The update is complete once every owned panel is written and every chunk confirmed (R224, R232); a restore ends by itself
(R365). -/
def Chan.updCheck (c : Chan) (g : Nat) : Chan :=
  let u := (c.grove g).update
  match u.step with
  | none => c
  | some step =>
    if (c.grove g).ring.phase = 5 || u.written.length < c.panels g || u.chunks ≠ [] || (c.ownedChunks g).any (fun k => !u.formed.contains k.2.2.2.1) then c
    else
      let c1 := (c.optEntries g).foldl (fun c e =>
        let a := e.line / 64
        let (p1, p2) := mapGet (fun _ => (e.p1, e.p2)) u.consts e.tensor
        c.hbmWriteLine a (slice (c.hbmLine a) 0 48 ++ leBytes 4 p1 ++ leBytes 4 p2 ++ leBytes 4 (e.t + 1) ++ slice (c.hbmLine a) 60 4)) c
      let c2 := c1.setFld (F.CKP_UPD_GRV_STEP_STEP.sh (redOff g)) step
      (c2.onGrove g (fun v => { v with update := { GroveUpdate.reset with
        queued := v.update.queued, gexp := mapDel v.update.gexp step } }.pass step c.pclk)).stepReached g

/-- Form what is ready, then see whether the update is complete. -/
def Chan.updForm (c : Chan) (g : Nat) : Chan :=
  match (c.grove g).update.step with
  | some step => (Chan.formChunks g step 65536 c).updCheck g
  | none => c

/-- New values of one panel, element by element: masked and non-finite ones keep the old (R225). The flag says kept. -/
def keepOld (skip : Bool) (old new : List Nat) : List Nat × Bool :=
  if skip then (old, false) else if new.all finite32 then (new, false) else (old, true)

/-- A tile's write of a panel: 193 lines (R223, R225, R226); an old state that reads uncorrectable faults the grove (R280). The first non-finite element of a shard is named by two entries: its
shard beside the flag, and its block and index in 32 bits of an entry without a register (log entry 80). -/
def Chan.updWrite (c : Chan) (r : SlotRef) (off : Nat) (b : Bytes) : DevRes :=
  let g := r.grove
  let p := bits off 9 18
  let v := c.grove g
  match v.update.step, c.panel g p with
  | some _, some (s, block, half) =>
    if bits off 0 9 ≠ 0 || b.length ≠ 64 * 193 then c.updRefuse
    else if v.update.written.contains p then .done [] (c.count (F.CKP_UPD_GRV_CNT_REWRITE.sh (redOff g)))
    else if (c.stateLinesOf g s block half).any (fun l => c.poison.contains l) then
      .waits (((c.readList [] (c.stateLinesOf g s block half)).2).groveFault g .hwFault)
    else
      let kind := c.kindOf g s
      let old := c.stateOf g s block half
      let skip := c.panelSkip g s block half
      let nw := words32 (b.drop 64) 1024
      let n1 := words32 (b.drop 4160) 1024
      let n2 := words32 (b.drop 8256) (if kind = 2 then 64 else 1024)
      let two := kind = 1 || kind = 3
      let rs := (List.range 1024).map (fun i =>
        keepOld (skip.getD i false) ([old.master.getD i 0, old.m1.getD i 0] ++ if two then [old.m2.getD i 0] else [])
          ([nw.getD i 0, n1.getD i 0] ++ if two then [n2.getD i 0] else []))
      let m2 := if two then rs.map (fun q => q.1.getD 2 0)
        else if kind = 2 then (List.range 64).map (fun i => if finite32 (n2.getD i 0) then n2.getD i 0 else old.m2.getD i 0) else []
      let st : PanelState := ⟨rs.map (fun q => q.1.getD 0 0), rs.map (fun q => q.1.getD 1 0), m2⟩
      let kept := (rs.zipIdx.filter (fun q => q.1.2)).map (·.2)
      let c1 := c.hbmWrite (c.stateLine g s block half) (stateBytes_ st)
      let c2 := match kept with
        | [] => c1
        | i :: _ =>
          let cc := (c1.setFld F.CKP_UPD_STATUS_NONFINITE 1).countBy (F.CKP_UPD_GRV_CNT_NONFINITE.sh (redOff g)) kept.length
          if v.update.logged.contains s.num then cc
          else
            ((cc.event .ok 6 0 (some g) (argFld F.CKP_UPD_STATUS_NONFINITE s.num)).event .ok 6 0 (some g)
              (argWide (block * 2048 + i / 32 * 64 + half * 32 + i % 32))).onGrove g (fun v =>
              { v with update := { v.update with logged := v.update.logged ++ [s.num] } })
      let fmt := ((c.tensorOf g s.tensor).map (·.fmt)).getD 0
      let square := ((c.mTensor g s.tensor).map (fun t => decide (t.tflags % 2 = 1))).getD false
      let c3 := c2.onGrove g (fun v => { v with update := { v.update with
        written := v.update.written ++ [p], images := mapPut v.update.images p (formPanel fmt square st.master) } })
      .done [] (c3.updForm g)
  | _, _ => c.updRefuse

/-! ## Commands -/

/-- `UPDATE_START` (R222, R345): outside a capture hold the next committed step's update begins, and `UPD_SEM` is posted in the update region. -/
def execUpdateStart (c : Fin 8) (g : Fin 16) (s : State) : Host.Outcome State Fault Refusal :=
  chanStep s c (fun c =>
    let g := g.val
    let v := c.grove g
    match v.update.step, v.update.queued with
    | none, step :: rest =>
      if !v.st.active || v.replay || v.holding then c
      else
        let consts := c.updConsts g
        let c1 := c.setGrove g { v with update := { v.update with step := some step, queued := rest, consts := consts } }
        let region := c.fld (F.CKP_UPD_GRV_CFG_UPD_REGION.sh (redOff g))
        let sem := c.fld (F.CKP_UPD_GRV_CFG_UPD_SEM.sh (redOff g))
        let tiles := (c1.tilesOf g).filter (fun i => ((c1.tile i).slot.map (·.region)) = some region)
        (tiles.foldl (fun c i => c.post i 0 sem 3 0) c1).updForm g
    | _, _ => c)

/-- The reader of a chunk's residency. -/
def Chan.readerOf (c : Chan) (g chunk : Nat) : Option Nat :=
  ((c.residencies (c.grove g)).find? (fun r => r.covers chunk)).map (·.reader)

/-- A chunk is confirmed: its pages are freed (R230-R232). -/
def Chan.chunkConfirmed (c : Chan) (g chunk : Nat) : Chan :=
  (c.onGrove g (fun v => { v with update := { v.update with chunks := v.update.chunks.filter (fun k => k.chunk ≠ chunk) } })).updForm g

/-- `CHUNK_STORED` (R230). -/
def execChunkStored (c : Fin 8) (job chunk step count : Nat) (s : State) : Host.Outcome State Fault Refusal :=
  chanStep s c (fun c =>
    let took := c.takeCtl (.chunkStored job chunk step count)
    match took.groveOfJob job with
    | none => took
    | some g =>
      let v := took.grove g
      match v.update.chunks.find? (fun k => k.chunk = chunk) with
      | none => took
      | some k =>
        if v.update.step.map (· + 1) ≠ some step || v.st = .faulted then took
        else
          let c1 := match took.readerOf g chunk with
            | some rd => took.sendCtl rd job (.digestUpdate job step chunk (digest k.data))
            | none => took
          c1.chunkConfirmed g chunk)

/-- `WRITEBACK_TIMEOUT` (R230): once more to the alternate store, then the grove faults. -/
def execWritebackTimeout (c : Fin 8) (g : Fin 16) (chunk : Nat) (s : State) : Host.Outcome State Fault Refusal :=
  chanStep s c (fun c =>
    let g := g.val
    let v := c.grove g
    let w := v.wslot v.slotNow
    match v.update.step, v.update.chunks.find? (fun k => k.chunk = chunk), w.chunk chunk with
    | some step, some k, some m =>
      let tier := ((c.tensorOf g m.tensor).map (·.tier)).getD 1
      let fmt := ((c.tensorOf g m.tensor).map (·.fmt)).getD 0
      if tier = 0 || v.st = .faulted then c
      else if k.tries = 0 then
        let c1 := (c.setFld F.CKP_UPD_STATUS_STORE_RETRY 1).count (F.CKP_UPD_GRV_CNT_RETRIES.sh (redOff g))
        let c2 := c1.onGrove g (fun v => { v with update := { v.update with
          chunks := v.update.chunks.map (fun x => if x.chunk = chunk then { x with tries := 1 } else x) } })
        c2.sendChunk g step chunk ((firstIdx (· = chunk) v.update.formed).getD 0) m fmt w.store2 0xFFFF k.data
      else ((c.setFld F.CKP_UPD_STATUS_STORE_FAIL 1).event .hwFault 6 0 (some g) (argFld F.CKP_UPD_STATUS_STORE_FAIL)).groveFault g .hwFault
    | _, _, _ => c)

end Sys2Proof.Machine
end

