-- ==== Sys2Proof/Machine/Weights.lean ====
section
/-! DEFINITION. Weight streaming commands: frames and digests at the channel, notices at the reader, slot switches, base
subscriptions and HBM-tier reloads (R130-R149). -/

namespace Sys2Proof.Machine

/-- Groves of the channel that take a weight frame: its job's stream, on the slot it names (R130, R132). -/
def Chan.weightTakers (c : Chan) (f : Frame) : List Nat := (c.streamGroves f.job).filter (fun g => c.streamSlot g = some (f.rseq % 2))

/-- The residency a chunk's frames fill: the first from the next one on that covers it; past the schedule for a RESIDENT
tensor. -/
def Chan.resFor (c : Chan) (g chunk : Nat) : Nat :=
  let v := c.grove g
  let rs := c.schedule g
  let n := rs.length
  (((List.range n).map (fun d => (v.ws.next + d) % max n 1)).find? (fun j => ((rs[j]?).map (fun r => r.covers chunk)).getD false)).getD (c.residencies v).length

/-- Destinations of frame `f` of a chunk (R128, R231). -/
def Chan.chunkDests (c : Chan) (g res chunk f slot : Nat) : List (Nat × Nat × Nat × Nat) :=
  let v := c.grove g
  match (c.residencies v)[res]? with
  | some r => c.scatterOf r (chunk - r.first) f
  | none => Config.residentCopy v.image slot chunk f

/-- Write a frame's lines to its destination tiles; a bad destination faults the grove (R128). -/
def Chan.deliverWeight (c : Chan) (g res : Nat) (f : Frame) : Chan :=
  (c.chunkDests g res f.shard f.mb (f.rseq % 2)).foldl (fun c d =>
    let (n, lx, ly, line) := d
    let r := regionAt c.reg g n
    if !r.valid || r.remote || r.lw ≤ lx || r.lh ≤ ly || sramBytes < line * 64 + 8192 then c.groveFault g .badParam
    else c.sramWrite (slotTile c.reg g n lx ly) (line * 64) f.payload.bytes) c

/-- Every destination tile of a frame runs: where heat or a tile failure stops one, its writes wait (R66, R387). -/
def Chan.destsRun (c : Chan) (g res : Nat) (f : Frame) : Bool :=
  (c.chunkDests g res f.shard f.mb (f.rseq % 2)).all (fun d =>
    let r := regionAt c.reg g d.1
    !r.valid || r.remote || decide (r.lw ≤ d.2.1) || decide (r.lh ≤ d.2.2.1) || c.tileRuns (slotTile c.reg g d.1 d.2.1 d.2.2.1))

/-- A chunk's progress in a grove. -/
def Grove.prog (v : Grove) (chunk step res : Nat) : ChunkProg :=
  (v.ws.chunks.find? (fun p => p.chunk = chunk && p.step = step && p.res = res)).getD ⟨chunk, res, step, [], none, 0, false, false⟩

def Grove.setProg (v : Grove) (p : ChunkProg) : Grove :=
  { v with ws := { v.ws with chunks := v.ws.chunks.filter (fun q => !(q.chunk = p.chunk && q.step = p.step && q.res = p.res)) ++ [p] } }

/-- The chunk is complete in the grove already (R132). -/
def Grove.hasChunk (v : Grove) (f : Frame) : Bool :=
  v.ws.chunks.any (fun p => p.chunk = f.shard && p.step = f.step && (p.complete || p.written))

/-- The multicast group of a chunk (R129, R231). -/
def Chan.chunkGroup (c : Chan) (g chunk tensor : Nat) : Nat :=
  let v := c.grove g
  match (c.residencies v)[c.resFor g chunk]? with
  | some r => (r.route (chunk - r.first)).1
  | none => Config.residentGroup v.image tensor

/-- A unicast chunk frame at its entry port goes on over the seams as the group's routing directs, each copy from the frame's own
receive cell (R131, R142). -/
def Chan.forwardUnicast (c : Chan) (i grp : Nat) (f : Frame) : Chan :=
  let l := c.link i
  match l.cells.find? (fun x => x.frame = f) with
  | none => c
  | some x =>
    let outs := (List.range 5).filter (fun o => o ≠ i && bits (c.mcastMap i grp) (o + 1) 1 = 1)
    let c1 := c.setLink i { l with cells := l.cells.map (fun y => if y.id = x.id then { y with outs := y.outs ++ outs } else y) }
    outs.foldl (fun c o =>
      let r := c.toEgress o ⟨i, x.id, { f with dst := grp, flags := f.flags ||| 32 }⟩
      if r.2 then r.1 else r.1.setLink i ((r.1.link i).cellDone x.id o)) c1

/-- Discard a held final frame with its receive cell: no copy of it leaves, its credits return (R131, R142). -/
def Chan.dropCellOf (c : Chan) (i : Nat) (f : Frame) : Chan :=
  let l := c.link i
  match l.cells.find? (fun x => x.frame = f) with
  | none => c
  | some x =>
    let l1 : Link := { l with cells := l.cells.filter (fun y => y.id ≠ x.id) }
    c.setLink i (if x.units = 0 then l1 else l1.giveBack x.lane x.units)

/-- Release a held final frame: to its seams, and out of the receive cell (R131). -/
def Chan.releaseFinal (c : Chan) (i : Nat) (f : Frame) : Chan :=
  match (c.link i).cells.find? (fun x => x.frame = f) with
  | none => c
  | some x =>
    let c1 := (x.outs.filter (· ≠ 5)).foldl (fun c o =>
      let r := c.toEgress o ⟨i, x.id, f⟩
      if r.2 then r.1 else r.1.setLink i ((r.1.link i).cellDone x.id o)) c
    c1.setLink i ((c1.link i).cellDone x.id 5)

/-! ## Chunks reloaded for remapped slots (R408) -/

def Grove.slotReloadOf (v : Grove) (chunk : Nat) : Option SlotReload := v.ws.slotReload.find? (fun r => r.chunk = chunk)

def Grove.setSlotReload (v : Grove) (r : SlotReload) : Grove :=
  { v with ws := { v.ws with slotReload := v.ws.slotReload.filter (fun x => x.chunk ≠ r.chunk) ++ [r] } }

/-- A frame's lines to the reloaded slots only. -/
def Chan.deliverReload (c : Chan) (g : Nat) (r : SlotReload) (f : Frame) : Chan :=
  ((c.chunkDests g r.res f.shard f.mb (f.rseq % 2)).filter (fun d => r.slots.contains (d.1, d.2.1, d.2.2.1))).foldl (fun (c : Chan) d =>
    c.sramWrite (slotTile c.reg g d.1 d.2.1 d.2.2.1) (d.2.2.2 * 64) f.payload.bytes) c

/-- A frame of a reloaded chunk: written to the slots, the final one held for the comparison. -/
def Chan.reloadFrame (c : Chan) (g : Nat) (r : SlotReload) (f : Frame) : Chan :=
  let v := c.grove g
  if f.flags.getLsbD 2 then c.setGrove g (v.setSlotReload { r with held := some f })
  else
    let data := if f.mb = 0 then f.payload.bytes else r.data ++ f.payload.bytes
    ((c.setGrove g (v.setSlotReload { r with data := data })).deliverReload g r f).takeFrame (fun x => x = f)

/-- The comparison of a reloaded chunk (R131, R136, R137, R408): a second failed attempt faults the grove. -/
def Chan.reloadCompare (c : Chan) (g : Nat) (r : SlotReload) (f : Frame) (want : Option Bytes) : Chan :=
  let v := c.grove g
  let data := if f.mb = 0 then f.payload.bytes else r.data ++ f.payload.bytes
  let rest := v.ws.slotReload.filter (fun x => x.chunk ≠ r.chunk)
  let c1 := c.takeFrame (fun x => x = f)
  if want = some (digest data) then ((c1.setGrove g { v with ws := { v.ws with slotReload := rest } }).deliverReload g r f)
  else
    let c2 := (c1.setFld F.SP_WS_STATUS_MISMATCH 1).count F.SP_WS_ERR_COUNT_MISMATCH
    if r.tries = 0 then
      let w := v.wslot (f.rseq % 2)
      let port := (((c.residencies v)[r.res]?).map (fun x => (x.route (r.chunk - x.first)).2)).getD (2 * c.idx)
      (c2.setGrove g (v.setSlotReload { r with held := none, data := [], tries := 1 })).sendCtl w.store2 f.job
        (.readChunk (w.setId.take 16) r.chunk c.node false port (f.rseq % 2))
    else
      ((c2.flag F.CTL_FAULT_STATUS_REPLAY_FAIL F.CTL_FAULT_COUNT2_REPLAY_FAIL).event .digestFail 8 0 (some g)
        (argFld F.CTL_FAULT_STATUS_REPLAY_FAIL)).groveFault g .digestFail

/-- A chunk frame that no grove of the channel takes is discarded (R111, R132, R142): the job's coordinator is told, unless a member
of the job is here that waits for other frames. -/
def Chan.strayChunk (c : Chan) (i : Nat) (held : Bool) (f : Frame) : Chan :=
  let c1 := (if held then c.dropCellOf i f else c).count F.SP_WS_ERR_COUNT_DUP
  let here (g : Nat) : Bool := (c.grove g).st ≠ .empty && c.streamJob g = f.job
  if groveNums.any (fun g => here g && ((c.grove g).st ≠ .faulted || c.isSub g)) then c1.takeFrame (fun x => x = f)
  else c1.dropMember f (groveNums.find? here)

/-- `WEIGHT_FRAME` (R111, R131, R132, R149): an entry port hashes for the module's other channels too while its own subscriber is
detached. -/
def execWeightFrame (c : Fin 8) (i : Fin 5) (f : Frame) (s : State) : Host.Outcome State Fault Refusal :=
  chanStep s c (fun c =>
    if f.typ ≠ 0x01 then c
    else
      let entry := i.val < 2
      let final := f.flags.getLsbD 2
      let gs := c.weightTakers f
      let cs := if entry then c.carriers f.job else []
      if gs ++ cs = [] then c.strayChunk i (entry && final) f
      else
      match gs.findSome? (fun g => ((c.grove g).slotReloadOf f.shard).map (fun r => (g, r))) with
      | some (g, r) => c.reloadFrame g r f
      | none =>
      if gs.any (fun g => (c.grove g).st = .paused || (c.grove g).replay || !c.destsRun g (c.resFor g f.shard) f) then c
      else if (gs ++ cs).all (fun g => (c.grove g).hasChunk f) then
        (((if entry && final then c.dropCellOf i f else c)).takeFrame (fun x => x = f)).count F.SP_WS_ERR_COUNT_DUP
      else
        let fresh := (gs ++ cs).filter (fun g => !(c.grove g).hasChunk f)
        let uni := entry && !f.flags.getLsbD 5
        if entry && final then
          fresh.foldl (fun c g =>
            let v := c.grove g
            c.setGrove g (v.setProg { v.prog f.shard f.step (c.resFor g f.shard) with held := some f })) c
        else
          let c1 := fresh.foldl (fun c g =>
            let v := c.grove g
            let res := c.resFor g f.shard
            let p := v.prog f.shard f.step res
            let p1 : ChunkProg := { p with
              data := if !entry then [] else if f.mb = 0 then f.payload.bytes else p.data ++ f.payload.bytes, written := final }
            let c1 := c.setGrove g (v.setProg p1)
            if gs.contains g then c1.deliverWeight g res f else c1.count F.SP_WS_ERR_COUNT_DUP) c
          let c2 := match fresh with
            | g :: _ => if uni then c1.forwardUnicast i (c.chunkGroup g f.shard f.tensor) f else c1
            | [] => c1
          c2.takeFrame (fun x => x = f))

/-- The digest a chunk frame must match: in the grove's slot that the frame names; a subscriber takes the base grove's in
this channel, or its own `BASE_SLOT` (R131, R139; log entry 29). -/
def Chan.chunkDigest (c : Chan) (g : Nat) (f : Frame) : Option Bytes :=
  let look (h k : Nat) : Option Bytes :=
    let w := (c.grove h).wslot k
    w.digestOf (c.chunkTrained h w f.shard) f.shard f.step
  if c.isSub g then
    match c.groveOfJob f.job with
    | some h => look h (f.rseq % 2)
    | none => look g ((c.streamSlot g).getD 0)
  else look g (f.rseq % 2)

/-- The progress of a chunk whose final frame is held. -/
def Grove.heldProg (v : Grove) (chunk : Nat) : Option ChunkProg := v.ws.chunks.find? (fun p => p.chunk = chunk && p.held.isSome)

/-- A verified chunk's final frame goes to a grove's destinations; a detached subscriber drops it (R131, R132, R149). -/
def Chan.takeChunk (c : Chan) (g chunk : Nat) (f : Frame) : Chan :=
  let v := c.grove g
  match v.heldProg chunk with
  | none => c
  | some p =>
    if (c.carriers f.job).contains g then
      (c.setGrove g { v with ws := { v.ws with chunks := v.ws.chunks.filter (fun q => q ≠ p) } }).count F.SP_WS_ERR_COUNT_DUP
    else (c.setGrove g (v.setProg { p with held := none, data := [], written := true })).deliverWeight g p.res f

/-- `CHUNK_DIGEST_COMPARE` (R131, R136, R137): a failed attempt at the alternate store is the second one, whoever asked for it. -/
def execChunkDigestCompare (c : Fin 8) (i : Fin 5) (job chunk : Nat) (s : State) : Host.Outcome State Fault Refusal :=
  chanStep s c (fun c =>
    let gs := (c.streamGroves job ++ c.carriers job).filter (fun g => ((c.grove g).heldProg chunk).isSome)
    match (c.streamGroves job).findSome? (fun g => ((c.grove g).slotReloadOf chunk).bind (fun r => r.held.map (fun f => (g, r, f)))) with
    | some (g, r, f) => c.reloadCompare g r f (c.chunkDigest g f)
    | none =>
    match gs.head?.bind (fun g => ((c.grove g).heldProg chunk).bind (fun p => p.held.map (fun f => (g, p, f)))) with
    | none => c
    | some (g, p, f) =>
      let v := c.grove g
      let data := if f.mb = 0 then f.payload.bytes else p.data ++ f.payload.bytes
      let reader := (c.readerOf g chunk).getD f.src
      if gs.any (fun g => (c.streamGroves job).contains g && !c.destsRun g ((((c.grove g).heldProg chunk).map (·.res)).getD 0) f) then c
      else if c.chunkDigest g f = some (digest data) then
        let c1 := gs.foldl (fun c g => c.takeChunk g chunk f) c
        let c3 := if f.flags.getLsbD 5 then c1.releaseFinal i f
          else (c1.forwardUnicast i (c.chunkGroup g chunk f.tensor) f).takeFrame (fun x => x = f)
        (({ c3 with bank := c3.bank.add64 chanRegs R.SP_WS_VERIFIED_LO 1 } : Chan)).sendCtl reader job (.chunkDone job chunk (c.node / 8))
      else
        let w := v.wslot (f.rseq % 2)
        let n := if f.src = w.store2 && w.store1 ≠ w.store2 then 2 else p.attempts + 1
        let c1 := ((c.setFld F.SP_WS_STATUS_MISMATCH 1).count F.SP_WS_ERR_COUNT_MISMATCH).dropCellOf i f
        let c2 := gs.foldl (fun c g =>
          match (c.grove g).heldProg chunk with
          | some p => c.setGrove g ((c.grove g).setProg { p with held := none, data := [], attempts := n })
          | none => c) c1
        let c3 := c2.sendCtl reader job (.chunkBad job chunk (min n 2) f.src)
        if n = 1 then
          c3.sendCtl w.store2 job (.readChunk (w.setId.take 16) chunk c.node false (2 * c.idx + i.val) (f.rseq % 2))
        else
          let m := CtlMsg.wsetFail job chunk w.store1 w.store2
          ((c3.setFld F.SP_WS_STATUS_SET_FAIL 1).sendCtl reader job m).sendCtl v.coord job m)

/-- `CHUNK_COMPLETE` (R132). -/
def execChunkComplete (c : Fin 8) (g : Fin 16) (chunk : Nat) (s : State) : Host.Outcome State Fault Refusal :=
  chanStep s c (fun c =>
    let v := c.grove g
    match v.ws.chunks.find? (fun p => p.chunk = chunk && p.written && !p.complete) with
    | none => c
    | some p => (c.setGrove g (v.setProg { p with complete := true })).tryGate g)

/-! ## The reader's side -/

/-- `BUF_FREE` (R134). -/
def execBufFree (c : Fin 8) (src job resOrd : Nat) (s : State) : Host.Outcome State Fault Refusal :=
  chanStep s c (fun c =>
    let took := c.takeFrame (fun f => f.src = src && f.payload = .ctl (.bufFree job resOrd))
    match took.groveOfJob job with
    | none => took
    | some g =>
      (took.onGrove g (fun v => { v with ws := { v.ws with
        freed := if v.ws.freed.contains (src, resOrd) then v.ws.freed else v.ws.freed ++ [(src, resOrd)] } })).pump g)

/-- Modules that subscribe to a residency. -/
def subModules (job ord : Nat) : List Nat := ((Config.subscribers job ord).map (· / 8)).eraseDups

/-- The modules that confirm a written chunk of a RESIDENT tensor in an update that runs (R231-R233); none otherwise. -/
def Chan.confirmers (c : Chan) (g chunk : Nat) : Option (List Nat) :=
  let v := c.grove g
  match (v.wslot (v.ws.active.getD 0)).chunk chunk with
  | some m => if v.st ≠ .faulted && ((c.tensorOf g m.tensor).map (·.tier)) = some 0 then some (Config.residentMembers v.image m.tensor) else none
  | none => none

/-- `CHUNK_DONE` (R134, R232): a request retires, or a written RESIDENT chunk is confirmed, once every module has sent one. -/
def execChunkDone (c : Fin 8) (job chunk modid : Nat) (s : State) : Host.Outcome State Fault Refusal :=
  chanStep s c (fun c =>
    let took := c.takeCtl (.chunkDone job chunk modid)
    match took.groveOfJob job with
    | none => took
    | some g =>
      let v := took.grove g
      let add (l : List Nat) : List Nat := if l.contains modid then l else l ++ [modid]
      match v.update.chunks.find? (fun k => k.chunk = chunk), v.ws.reqs.find? (fun q => q.chunk = chunk) with
      | some k, none =>
        match took.confirmers g chunk with
        | none => took
        | some ms =>
          let seen := add k.seen
          let c1 := took.setGrove g { v with update := { v.update with
            chunks := v.update.chunks.map (fun x => if x.chunk = chunk then { x with seen := seen } else x) } }
          if ms.all (fun m => seen.contains m) then c1.chunkConfirmed g chunk else c1
      | _, some q =>
        let ms := add q.modules
        let rest := v.ws.reqs.filter (fun x => x ≠ q)
        let reqs := if (subModules job q.resOrd).all (fun m => ms.contains m) then rest else rest ++ [{ q with modules := ms }]
        (took.setGrove g { v with ws := { v.ws with reqs := reqs } }).pump g
      | none, none => took)

/-- A member learns that the set has failed (R137). -/
def Chan.noteFail (c : Chan) (g chunk s1 s2 : Nat) : Chan :=
  if (c.grove g).ws.failed.isSome then c
  else ((c.onGrove g (fun v => { v with ws := { v.ws with failed := some (chunk, s1, s2) } })).setFld F.SP_WS_STATUS_SET_FAIL 1).settleFail g

/-- The reader tells every subscriber and the coordinator (R137). -/
def Chan.spreadFail (c : Chan) (g job chunk s1 s2 : Nat) : Chan :=
  let v := c.grove g
  let m := CtlMsg.wsetFail job chunk s1 s2
  let ord := (((c.residencies v).find? (fun r => r.covers chunk)).map (·.ord)).getD 0
  ((Config.subscribers job ord).filter (· ≠ c.node)).foldl (fun c n => c.sendCtl n job m) c

/-- `CHUNK_BAD` (R136, R137): the reader notes the failed attempt; with a timeout of the chunk before it, it is the second one. -/
def execChunkBad (c : Fin 8) (job chunk attempt store : Nat) (s : State) : Host.Outcome State Fault Refusal :=
  chanStep s c (fun c =>
    let took := c.takeCtl (.chunkBad job chunk attempt store)
    match took.groveOfJob job with
    | none => took
    | some g =>
      let v := took.grove g
      let w := v.wslot v.slotNow
      let c1 := took.setGrove g { v with ws := { v.ws with
        reqs := v.ws.reqs.map (fun q => if q.chunk = chunk then { q with bad := max q.bad attempt } else q) } }
      if v.ws.reqs.any (fun q => q.chunk = chunk && decide (0 < q.tries)) && v.ws.failed.isNone then
        ((c1.spreadFail g job chunk w.store1 w.store2).sendCtl v.coord job (.wsetFail job chunk w.store1 w.store2)).noteFail g chunk
          w.store1 w.store2
      else c1)

/-- `CHUNK_TIMEOUT` (R136, R137): the reader asks the alternate store, addressed to the group; a second failure, or an
alternate that cannot be reached, fails the set. -/
def execChunkTimeout (c : Fin 8) (g : Fin 16) (chunk : Nat) (altReachable : Bool) (s : State) : Host.Outcome State Fault Refusal :=
  chanStep s c (fun c =>
    let g := g.val
    let v := c.grove g
    match v.ws.reqs.find? (fun q => q.chunk = chunk), v.ws.active with
    | some q, some slot =>
      let w := v.wslot slot
      let c1 := (c.setFld F.SP_WS_STATUS_TIMEOUT 1).count F.SP_WS_ERR_COUNT_TIMEOUTS
      if q.tries = 0 && q.bad = 0 && altReachable then
        match (c.residencies v).find? (fun r => r.ord = q.resOrd) with
        | none => c1
        | some r =>
          let (grp, port) := r.route (chunk - r.first)
          (c1.onGrove g (fun v => { v with ws := { v.ws with
            reqs := v.ws.reqs.map (fun x => if x = q then { x with tries := 1 } else x) } })).sendCtl w.store2 v.job
              (.readChunk (w.setId.take 16) chunk grp true port slot)
      else
        let c2 := c1.onGrove g (fun v => { v with ws := { v.ws with reqs := v.ws.reqs.filter (fun x => x ≠ q) } })
        ((c2.spreadFail g v.job chunk w.store1 w.store2).sendCtl v.coord v.job (.wsetFail v.job chunk w.store1 w.store2)).noteFail g chunk
          w.store1 w.store2
    | _, _ => c)

/-- `WSET_FAIL` (R137): the reader forwards it once; every member of the job's stream notes it. -/
def execWsetFail (c : Fin 8) (job chunk store1 store2 : Nat) (s : State) : Host.Outcome State Fault Refusal :=
  chanStep s c (fun c =>
    let took := c.takeCtl (.wsetFail job chunk store1 store2)
    (took.streamGroves job).foldl (fun c g =>
      let first := (c.grove g).ws.failed.isNone
      let c1 := if first && !c.isSub g && c.readerOf g chunk = some c.node then c.spreadFail g job chunk store1 store2 else c
      c1.noteFail g chunk store1 store2) took)

/-- `DIGEST_UPDATE` (R139): recorded for its step; the reader forwards a new one to the chunk's group. -/
def execDigestUpdate (c : Fin 8) (job step chunk : Nat) (digest : Bytes) (s : State) : Host.Outcome State Fault Refusal :=
  chanStep s c (fun c =>
    let took := c.takeCtl (.digestUpdate job step chunk digest)
    match took.groveOfJob job with
    | none => took
    | some g =>
      let v := took.grove g
      let k := v.slotNow
      let w := v.wslot k
      let d : DigestRec := ⟨chunk, step, digest⟩
      if v.st = .faulted || w.digests.contains d then took
      else
        let w1 : WSlot := { w with
          digests := w.digests.filter (fun x => !(x.chunk = chunk && (x.step = step || x.step + 1 < step))) ++ [d] }
        let c1 := took.setGrove g (v.setWslot k w1)
        let c2 := match (c1.residencies v).find? (fun r => r.covers chunk) with
          | some r =>
            if r.reader = c1.node then
              c1.sendFrame { Frame.blank 0x07 (r.route (chunk - r.first)).1 (.ctl (.digestUpdate job step chunk digest)) with
                job := job, flags := 32 }
            else c1
          | none => c1
        (c2.pump g).tryGate g)

/-! ## Switches, base subscriptions, reloads -/

/-- `SWITCH_AT` (R146). -/
def execSwitchAt (c : Fin 8) (job slot point : Nat) (s : State) : Host.Outcome State Fault Refusal :=
  chanStep s c (fun c =>
    let took := c.takeCtl (.switchAt job slot point)
    match took.groveOfJob job with
    | none => took
    | some g =>
      let v := took.grove g
      if v.st = .faulted || slot > 1 || (v.wslot slot).st ≠ .staged || v.ws.switch.isSome then took
      else took.setGrove g { v with ws := { v.ws with switch := some (v.switchAt slot point) } })

/-- Residencies that the reader has asked for ahead of the next gate, as pass and index. -/
def Grove.askedAhead (v : Grove) (n : Nat) : List (Nat × Nat) :=
  let ahead := (if v.kind = 1 then 0 else (v.ws.pass - v.ws.gatePass) * n) + v.ws.askRes + (if 0 < v.ws.askQ then 1 else 0) - v.ws.next
  (List.range ahead).map (fun d =>
    ((if v.kind = 1 then v.ws.pass else v.ws.gatePass + (v.ws.next + d) / max n 1), (v.ws.next + d) % max n 1))

/-- What was asked for on a slot that is no longer ACTIVE is asked for again: the reader goes back to the next gate, and its buffers
are free still (R134, R145). -/
def Chan.rewindAsk (c : Chan) (g : Nat) : Chan :=
  let v := c.grove g
  let rs := c.schedule g
  let back := (v.askedAhead rs.length).filterMap (fun a => (prevOnBuffer rs.length a.1 a.2).bind (fun j => (rs[j]?).map (·.ord)))
  c.setGrove g { v with ws := { v.ws with
    askRes := v.ws.next, askQ := 0, pass := if v.kind = 1 then v.ws.pass else v.ws.gatePass, reqs := [], chunks := []
    freed := v.ws.freed ++ back.flatMap (fun o => (Config.subscribers v.job o).map (fun s => (s, o))) } }

/-- A staged slot becomes ACTIVE (R145): the old one is STAGED in an evaluation grove and EMPTY in a training grove, which
takes its masters from the new set and clears moments and error feedback (R221). -/
def Chan.switchNow (c : Chan) (g slot : Nat) : Chan :=
  let v := c.grove g
  let v1 := v.setWslot slot { v.wslot slot with st := .active, base := v.step }
  let v2 := match v.ws.active with
    | some old => if old = slot then v1 else v1.setWslot old (if v.kind = 1 then WSlot.empty else { v1.wslot old with st := .staged })
    | none => v1
  let c1 := c.setGrove g { v2 with ws := { v2.ws with active := some slot, switch := none }, ring := { v2.ring with deltaOk := false } }
  let c2 := if v.kind = 1 then (c1.initState g slot).clearEf g else c1
  ((c2.rewindAsk g).pump g).tryGate g

/-- `WSET_SWITCH_APPLY` (R145, R147, R233): what is replayed runs on the slot it began on. -/
def execWsetSwitchApply (c : Fin 8) (g : Fin 16) (s : State) : Host.Outcome State Fault Refusal :=
  chanStep s c (fun c =>
    let v := c.grove g
    match v.ws.switch with
    | none => c
    | some w =>
      if v.st = .empty || v.st = .faulted || v.st = .paused || v.replay then c
      else if v.kind = 1 then (if v.step = w.at_ && v.between then c.switchNow g w.slot else c)
      else if w.at_ ≤ v.step || (w.at_ = v.step + 1 && c.quiet g) then c.switchNow g w.slot
      else c)

/-- `BASE_REATTACH` (R149). -/
def execBaseReattach (c : Fin 8) (g : Fin 16) (s : State) : Host.Outcome State Fault Refusal :=
  chanStep s c (fun c =>
    let v := c.grove g
    if c.isSub g && v.st = .running && !v.ws.attached then c.setGrove g { v with ws := { v.ws with attached := true } } else c)

/-- A reloaded RESIDENT chunk goes to the slots that wait for it (R408). -/
def Chan.refill (c : Chan) (g k chunk : Nat) (data : Bytes) : Chan :=
  let v := c.grove g
  let dst := v.ws.reloadTo.filter (fun x => x.1 = chunk)
  let c1 := c.setGrove g { v with ws := { v.ws with reloadTo := v.ws.reloadTo.filter (fun x => x.1 ≠ chunk) } }
  (slotsAt c.reg g).foldl (fun (c : Chan) p =>
    if dst.contains (chunk, p.2.region, p.2.lx, p.2.ly) then
      (List.range 512).foldl (fun (c : Chan) f =>
        ((Config.residentCopy v.image k chunk f).filter (fun d => d.1 = p.2.region && d.2.1 = p.2.lx && d.2.2.1 = p.2.ly)).foldl
          (fun (c : Chan) d => c.sramWrite p.1 (64 * d.2.2.2) ((data.drop (8192 * f)).take 8192)) c) c
    else c) c1

/-- `HBM_TIER_RELOAD` (R138, R408): the reloaded chunk, or a failed attempt; the second one faults the grove. -/
def execHbmTierReload (c : Fin 8) (g : Fin 16) (chunk : Nat) (data : Option Bytes) (s : State) : Host.Outcome State Fault Refusal :=
  chanStep s c (fun c =>
    let v := c.grove g
    match v.ws.reload.find? (fun p => p.1 = chunk) with
    | none => c
    | some (_, fails) =>
      let rest := v.ws.reload.filter (fun p => p.1 ≠ chunk)
      let k := v.slotNow
      let good := match data, (v.wslot k).chunk chunk with
        | some b, some m => b.length = m.len && digest b = m.digest
        | _, _ => false
      let resident := ((v.wslot k).chunk chunk).bind (fun m => (c.tensorOf g m.tensor).map (fun t => decide (t.tier = 0)))
      if good then
        let c1 := c.setGrove g { v with ws := { v.ws with reload := rest } }
        if resident = some true then c1.refill g k chunk (data.getD []) else c1.hbmWrite (Config.hbmCopy v.image k chunk) (data.getD [])
      else if fails = 0 then c.setGrove g { v with ws := { v.ws with reload := rest ++ [(chunk, 1)] } }
      else (c.event .digestFail 8 0 (some g.val) (argNone)).groveFault g .digestFail)

end Sys2Proof.Machine
end

