-- ==== Sys2Proof/Machine/GroveLoad.lean ====
section
/-! DEFINITION. Loading a grove: the checks of a job map image, placement, and what a load leaves in place (R97-R104, R125,
R140, R157, R175, R176, R181, R185, R191, R301, R464). -/

namespace Sys2Proof.Machine

/-! ## The image -/

/-- The section directory of an image (R301). -/
def parseSections (b : Bytes) : List Section :=
  (List.range (leAt b 6 2)).map (fun k => ⟨leAt b (64 + 16 * k) 2, leAt b (64 + 16 * k + 4) 4, leAt b (64 + 16 * k + 8) 8⟩)

/-- The header is as R301 lays it out. -/
def headerOk (b : Bytes) : Bool :=
  let kind := leAt b 10 1
  let n := leAt b 6 2
  leAt b 0 4 = 0x4D4A4C50 && leAt b 4 2 = 1 && decide (1 ≤ n) && decide (n ≤ 64) && decide (kind ≤ 1) && decide (leAt b 11 1 ≤ 2) &&
    (kind = 1 || leAt b 11 1 = 0) && decide (1 ≤ leAt b 24 2) && decide (leAt b 26 1 ≤ 2) && leAt b 27 37 = 0 &&
    decide (64 + 16 * n ≤ b.length) && (List.range n).all (fun k => leAt b (64 + 16 * k + 2) 2 = 0)

/-- Item 1 of R464, and sections that lie inside the image. -/
def sectionsOk (b : Bytes) (ss : List Section) : Bool :=
  ss.all (fun x => decide (1 ≤ x.typ) && decide (x.typ ≤ 0x0C) && x.off % 64 = 0 && decide (x.off + x.len ≤ b.length) &&
    (ss.filter (fun y => y.typ = x.typ)).length = 1)

/-- The power hints of section 0x0C (R382): residency ordinal and watts. -/
def parseHints (b : Bytes) : List (Nat × Nat) :=
  match (parseSections b).find? (fun x => x.typ = 0x0C) with
  | none => []
  | some x => (List.range (x.len / 16)).map (fun k => (leAt b (x.off + 16 * k) 4, leAt b (x.off + 16 * k + 4) 4))

/-- The grove a load would make of an image at HBM line `line`. -/
def groveOfImage (b : Bytes) (line : Nat) : Grove :=
  { Grove.empty with
    image := line, sections := parseSections b, hints := parseHints b, kind := leAt b 10 1, cls := leAt b 11 1, job := leAt b 8 2, coord := leAt b 14 2
    seed := leAt b 16 8, members := leAt b 24 2, policy := leAt b 26 1 }

/-- The three words of each region entry of section 0x01. -/
def Chan.regionWords (c : Chan) (v : Grove) : List (Nat × Word × Word × Word) :=
  let b := c.secBytes v 0x01
  (List.range (b.length / 12)).map (fun n =>
    (n, BitVec.ofNat 32 (leAt b (12 * n) 4), BitVec.ofNat 32 (leAt b (12 * n + 4) 4), BitVec.ofNat 32 (leAt b (12 * n + 8) 4)))

/-- The valid region entries with their numbers. -/
def Chan.mapRegions (c : Chan) (v : Grove) : List (Nat × RegionEntry) :=
  ((c.regionWords v).map (fun w => (w.1, regionOfWords w.2.1 w.2.2.1 w.2.2.2))).filter (fun r => r.2.valid)

def localOf (rs : List (Nat × RegionEntry)) : List (Nat × RegionEntry) := rs.filter (fun r => !r.2.remote)

/-- Two entries of a list overlap. -/
def anyOverlap (rs : List (Nat × RegionEntry)) : Bool := rs.any (fun p => rs.any (fun q => q.1 ≠ p.1 && footOverlap p.2 q.2))

/-- Item 2 of R464. -/
def Chan.regionsOk (c : Chan) (v : Grove) : Bool :=
  let rs := c.mapRegions v
  let len : Nat := ((v.sec 0x01).map (·.len)).getD 0
  len % 12 = 0 && decide (len ≤ 64 * 12) && rs ≠ [] &&
    rs.all (fun r => if r.2.remote then viaOk c.idx r.2 else footShape r.2 && gridOk r.2) && !anyOverlap (localOf rs)

/-- Item 3 of R464, with R125 and R175; the panel order of R219 is that of a matrix. -/
def Chan.tensorsOk (c : Chan) (v : Grove) : Bool :=
  (c.tensors v).all (fun t =>
    fmtListed t.fmt && t.fmt ≠ fmtRg64 && t.fmt ≠ fmtSparse && decide (t.tier ≤ 2) && t.rsvOk &&
      (!t.trained || (v.kind = 1 && t.tier ≠ 2 && (v.cls ≠ 2 || t.tier = 0) && t.dims.all (fun d => decide (1 ≤ d)) &&
        (t.dims.drop 2).all (fun d => d = 1))))

/-- Formats of activations and weights in a training grove (R157), as the stash plan gives the activations. -/
def Chan.planOk (c : Chan) (v : Grove) : Bool :=
  v.kind = 0 ||
    (let b := c.secBytes v 0x07
     (List.range (leAt b 0 2)).all (fun e =>
       let f := leAt b (64 + 16 * e) 1
       let layer := leAt b (64 + 16 * e + 4) 4
       [fmtE4M3, fmtE5M2, fmtBf16].contains f &&
         (c.tensors v).all (fun t => !t.roles.any (fun r => r.1 = layer) || (if f = fmtBf16 then t.fmt = fmtBf16 else fmtIsMx t.fmt))))

/-- Masks of a MASKED grove (R176). -/
def Chan.masksOk (c : Chan) (v : Grove) : Bool :=
  v.cls ≠ 1 || (c.masks v).all (fun m =>
    decide (m.gran ≤ 1) && (match (c.tensors v).find? (fun t => t.id = m.tensor) with
      | some t => m.nbits = if m.gran = 0 then t.din else (t.din + 31) / 32 * ((t.dout + 31) / 32)
      | none => false))

/-- The shard table that section 0x08 holds. -/
def Chan.mapShards (c : Chan) (v : Grove) : List Shard := if (v.sec 0x08).isSome then c.shardsAt (v.secAddr 0x08 / 64) else []

/-- A shard boundary inside a tensor falls on a chunk boundary (R140); an MX tensor's scale plane spans its shards (R219). -/
def onChunk (t : WTensor) (first : Nat) : Bool := first = 0 || (!fmtIsMx t.fmt && first * 2048 * fmtBits t.fmt / 8 % 4194304 = 0)

/-- The shard table of a training grove (R140, R185). -/
def Chan.shardsOk (c : Chan) (v : Grove) : Bool :=
  let ts := c.tensors v
  let ss := c.mapShards v
  v.kind = 0 ||
    (ss.zipIdx.all (fun p => let s := p.1; s.rsvOk && decide (1 ≤ s.nblock) && decide (s.nblock ≤ 16384) && decide (1 ≤ s.expect) &&
        (s.kshift = 0 || (decide (3 ≤ s.kshift) && decide (s.kshift ≤ 8))) &&
        (match ts.find? (fun t => t.id = s.tensor) with
         | some t => t.trained && decide (s.first + s.nblock ≤ tensorBlocks t) && onChunk t s.first
         | none => false) &&
        ss.zipIdx.all (fun q => let r := q.1; q.2 = p.2 || r.tensor ≠ s.tensor ||
          (r.g0 = s.g0 && (decide (r.first + r.nblock ≤ s.first) || decide (s.first + s.nblock ≤ r.first))))) &&
      ts.all (fun t => !t.trained ||
        ((ss.filter (fun s => s.tensor = t.id)).map (·.nblock)).foldl (· + ·) 0 = tensorBlocks t))

/-- Bytes that a residency delivers in this channel (R127, R128). -/
def Chan.resBytes (c : Chan) (r : Residency) : Nat :=
  ((List.range r.nchunk).flatMap (fun q => (List.range 512).map (fun f => 8192 * (c.scatterOf r q f).length))).foldl (· + ·) 0

/-- Every residency fits the weight buffer that the job map reserves for it (R127; log entry 31). -/
def Chan.buffersFit (c : Chan) (v : Grove) : Bool :=
  (c.residencies v).all (fun r => decide (c.resBytes r ≤ Config.weightBuffer v.image (r.ord % 2)))

/-- Mask digests of a grove, by tensor (R176). -/
def Chan.maskDigests (c : Chan) (v : Grove) : List (Nat × Bytes) :=
  (c.masks v).map (fun m => (m.tensor, digest (leBytes 4 m.tensor ++ leBytes 1 m.gran ++ zeros 3 ++ leBytes 4 m.nbits ++ zeros 4 ++ m.bitmap)))

/-- What a load asks of the module's other channels: whether another member sets `COORD` (R217), the mask digests of the job's members
that are loaded (R176), and the base jobs that stream an evaluation schedule only (R180). -/
structure Others where
  coord : Nat → Bool
  masks : Nat → List (List (Nat × Bytes))
  evals : List Nat

/-- The base subscription that a load gives grove `g`: its job; none where it has none. -/
def subscribes (rd : Nat → Word) (g : Nat) : Option Nat :=
  if rdFld rd (F.SP_WS_GRV_CFG_BASE_SUB.sh (wsOff g)) = 1 then some (rdFld rd (F.SP_WS_GRV_CFG_BASE_JOB.sh (wsOff g))) else none

/-- A training grove that subscribes is of class GRAFT, and its base streams a training schedule (R175, R180). -/
def Chan.baseOk (c : Chan) (v : Grove) (o : Others) (base : Option Nat) : Bool :=
  match base with
  | none => true
  | some b => v.kind = 0 || (v.cls = 2 && mirrored (c.residencies v) && !o.evals.contains b)

/-- An entry of the tile load list (R301). -/
structure TileLoad where
  region : Nat
  lx     : Nat
  ly     : Nat
  addr   : Nat
  len    : Nat
  src    : Nat
  rsvOk  : Bool
deriving DecidableEq, Repr

def Chan.tileLoads (c : Chan) (v : Grove) : List TileLoad :=
  let b := c.secBytes v 0x03
  (List.range (b.length / 24)).map (fun k =>
    let e := slice b (24 * k) 24
    ⟨leAt e 0 1, leAt e 1 1, leAt e 2 1, leAt e 4 4, leAt e 8 4, leAt e 16 8, decide (leAt e 3 1 = 0) && decide (leAt e 12 4 = 0)⟩)

def Chan.loadsOk (c : Chan) (v : Grove) (len : Nat) : Bool :=
  let rs := localOf (c.mapRegions v)
  (c.tileLoads v).all (fun e => e.rsvOk && decide (e.addr + e.len ≤ sramBytes) && decide (e.src + e.len ≤ len) &&
    rs.any (fun r => r.1 = e.region && decide (e.lx < r.2.lw) && decide (e.ly < r.2.lh)))

/-- Pairs of the register image: offset and value (R301). -/
def Chan.regImage (c : Chan) (v : Grove) : List (Nat × Word) :=
  let b := c.secBytes v 0x02
  (List.range (b.length / 8)).map (fun k => (leAt b (8 * k) 4, BitVec.ofNat 32 (leAt b (8 * k + 4) 4)))

/-- The register of grove `g` that a pair names: the image holds per-grove registers at some grove's offsets, and the load
moves them to the grove it assigns (log entry 50); a tile window keeps its offset. None where it has no RWS field. -/
def groveReg (g off : Nat) : Option Nat :=
  match findReg chanRegs off with
  | some d =>
    if !d.isStaged || d.group ≠ .grove then none
    else if 0x200000 ≤ off ∧ off < 0x638000 then some off
    else some (off - d.copyOf off * d.s1 + g * d.s1)
  | none => none

/-- Everything that completes a load with BAD_PARAM before placement (R464). -/
def Chan.imageOk (c : Chan) (b : Bytes) (line : Nat) : Bool :=
  let v := groveOfImage b line
  headerOk b && sectionsOk b v.sections && c.regionsOk v && c.tensorsOk v && c.planOk v && c.masksOk v && c.shardsOk v &&
    c.loadsOk v b.length && (c.regImage v).all (fun p => (groveReg 0 p.1).isSome)

/-- One tensor id in two weight roles (R181). -/
def Chan.tied (c : Chan) (v : Grove) : Bool :=
  (c.tensors v).any (fun t => decide (2 ≤ t.roles.length)) ||
    (c.tensors v).any (fun t => ((c.tensors v).filter (fun u => u.id = t.id)).length ≠ 1)

/-! ## Placement (R99, R101, R104) -/

/-- Origins in the order a load tries them. -/
def origins (pinned : Bool) (o : Nat × Nat) : List (Nat × Nat) :=
  if pinned then [o] else o :: (List.range 18).flatMap (fun j => (List.range 16).map (fun i => (3 * i, 5 * j)))

def RegionEntry.moved (r : RegionEntry) (o : Nat × Nat) : RegionEntry := { r with x0 := r.x0 + o.1, y0 := r.y0 + o.2 }

/-- Slots of local regions with their default tiles, regions rising, then rows, then columns. -/
def defaultSlots (rs : List (Nat × RegionEntry)) : List (Nat × Nat × Nat × Nat) :=
  rs.flatMap (fun r => (List.range r.2.lh).flatMap (fun ly => (List.range r.2.lw).map (fun lx =>
    ((r.2.y0 + ly) * 48 + r.2.x0 + lx, r.1, lx, ly))))

/-- The tile that replaces one, outside tiles already taken (R104). -/
def Chan.pickOutside (c : Chan) (taken : List Nat) (i : Nat) : Option Nat :=
  match nearest i ((fieldTiles (fieldOf i)).filter (fun t => c.isFree t && !taken.contains t)) with
  | some t => some t
  | none => nearest i ((List.range channelTiles).filter (fun t => c.isFree t && !taken.contains t))

/-- Remap slots whose default tile is a knot: region, lx, ly, tile; none when tiles or entries run out (R104). -/
def Chan.remapKnots (c : Chan) : List (Nat × Nat × Nat × Nat) → List Nat → Option (List (Nat × Nat × Nat × Nat))
  | [], _ => some []
  | (i, n, lx, ly) :: t, taken =>
    match c.pickOutside taken i with
    | none => none
    | some j => (c.remapKnots t (j :: taken)).map (fun l => (n, lx, ly, j) :: l)

/-- What an origin gives: none where it does not qualify; else its exception entries, none where the remap fails. The quota is judged
before the remap, which may take a field below it (R99, R101). -/
def Chan.placeAt (c : Chan) (g : Nat) (rs : List (Nat × RegionEntry)) (o : Nat × Nat) :
    Option (Option (List (Nat × Nat × Nat × Nat))) :=
  let ls := (localOf rs).map (fun r => (r.1, r.2.moved o))
  let others := groveNums.flatMap (fun h => if h = g || (c.grove h).st = .empty then [] else (localRegions c.reg h).map (·.2))
  let inside (i : Nat) : Bool := ls.any (fun r =>
    decide (r.2.x0 ≤ i % 48) && decide (i % 48 < r.2.x0 + r.2.fw) && decide (r.2.y0 ≤ i / 48) && decide (i / 48 < r.2.y0 + r.2.fh))
  let slots := defaultSlots ls
  if !ls.all (fun r => footOk r.2) || ls.any (fun r => others.any (footOverlap r.2)) ||
      c.tiles.any (fun p => p.2.slot.isSome && inside p.1) || slots.any (fun x => decide (c.admittedRows ≤ x.1 / 48)) then none
  else
    let good := slots.filter (fun x => !c.isKnot x.1)
    if !c.quotaOk [g] (good.map (·.1)) [] then none
    else
    match c.remapKnots (slots.filter (fun x => c.isKnot x.1)) (good.map (·.1)) with
    | none => some none
    | some exc =>
      if 64 < exc.length then some none
      else some (some exc)

/-- The first origin that qualifies, with the exception entries it needs (R99). -/
def Chan.place (c : Chan) (g : Nat) (rs : List (Nat × RegionEntry)) (o : Nat × Nat) : Option ((Nat × Nat) × List (Nat × Nat × Nat × Nat)) :=
  match (origins (rs.any (fun r => r.2.pinned)) o).findSome? (fun p => (c.placeAt g rs p).map (fun e => (p, e))) with
  | some (p, some e) => some (p, e)
  | _ => none

/-! ## The load -/

/-- Stage the RWS fields of a register. -/
def Chan.stageReg (c : Chan) (off : Nat) (v : Word) : Chan :=
  let rws := ((findReg chanRegs off).map (·.bitsOf .rws)).getD 0
  { c with bank := c.bank.putStaged chanRegs off ((c.bank.getStaged chanRegs off &&& ~~~ rws) ||| (v &&& rws)) }

/-- Stage one RWS field. -/
def Chan.stageFld (c : Chan) (f : Fld) (v : Nat) : Chan := c.stageReg f.off (f.into (c.staged f.off) v)

/-- Stage the translation tables of a placed grove. -/
def Chan.stageTables (c : Chan) (g : Nat) (v : Grove) (o : Nat × Nat) (exc : List (Nat × Nat × Nat × Nat)) : Chan :=
  let s := grvSlot g
  let c1 := (c.regionWords v).foldl (fun c w =>
    let r := regionOfWords w.2.1 w.2.2.1 w.2.2.2
    let w0 := if r.valid && !r.remote then
        F.CTL_GRV_REGION_W0_Y0.into (F.CTL_GRV_REGION_W0_X0.into w.2.1 (r.x0 + o.1)) (r.y0 + o.2)
      else w.2.1
    let a := s + w.1 * 0x10
    ((c.stageReg (R.CTL_GRV_REGION_W0 + a) w0).stageReg (R.CTL_GRV_REGION_W1 + a) w.2.2.1).stageReg (R.CTL_GRV_REGION_W2 + a) w.2.2.2) c
  let c2 := exc.zipIdx.foldl (fun c e =>
    let a := s + e.2 * 8
    let (n, lx, ly, t) := e.1
    (c.stageReg (R.CTL_GRV_EXC_W0 + a) (BitVec.ofNat 32 (1 + n * 2 + lx * 2 ^ 7 + ly * 2 ^ 15))).stageReg (R.CTL_GRV_EXC_W1 + a)
      (BitVec.ofNat 32 (t % 48 + t / 48 * 2 ^ 6))) c1
  ((c2.stageFld (F.CTL_GRV_CFG_NREG.sh s) (c.mapRegions v).length).stageFld (F.CTL_GRV_CFG_JOINED.sh s)
    (if 1 < v.members then 1 else 0)).stageFld (F.CTL_GRV_CFG_JOB_ID.sh s) v.job

/-- Point the line registers at their sections (R301 step 4). -/
def Chan.stageLines (c : Chan) (g : Nat) (v : Grove) : Chan :=
  let put (c : Chan) (t : Nat) (f : Fld) : Chan := if (v.sec t).isSome then c.stageFld f (v.secAddr t / 64) else c
  put (put (put c 0x07 (F.HBM_STASH_GRV_PLAN_PLAN_LINE.sh (stashOff g))) 0x08 (F.RED_GRV_TABLE_TABLE_LINE.sh (redOff g))) 0x09
    (F.CKP_UPD_GRV_TABLE_TABLE_LINE.sh (redOff g))

/-- The error-feedback pair of a thinned grove lies inside region 2 and a grant of the grove (R191, R272). -/
def Chan.efFits (c : Chan) (rd : Nat → Word) (g : Nat) : Bool :=
  let n := 128 * thinnedCount (c.egressAt (rdFld rd (F.RED_GRV_TABLE_TABLE_LINE.sh (redOff g))))
  let b := rdFld rd (F.RED_GRV_EF_EF_LINE.sh (redOff g))
  n = 0 || ((match c.region 2 with | some (lo, hi, _) => decide (lo ≤ b) && decide (b + n ≤ hi + 1) | none => false) &&
    (List.range 8).any (fun k => match grantIn rd g k with
      | some (lo, hi, _) => decide (lo ≤ b) && decide (b + n ≤ hi + 1)
      | none => false))

/-- Per-grove state registers, which a load returns to their reset values (R182, R216, R234, R369): offset and stride. -/
def groveCounters : List (Nat × Nat) :=
  [(R.SP_WS_GRV_REL, 0x10)] ++ ([R.HBM_STASH_GRV_PEAK, 0x6011C, R.HBM_STASH_GRV_HOLD_LO, R.HBM_STASH_GRV_HOLD_HI, R.RED_GRV_VSTEP,
    R.RED_GRV_VCODE, R.RED_GRV_CNT, R.RED_GRV_DISC, R.CKP_UPD_GRV_STEP, R.CKP_UPD_GRV_CNT, R.CKP_GRV_OP, R.CKP_GRV_RING,
    R.CKP_GRV_ATTEMPT, R.CKP_GRV_HOLD, R.CKP_GRV_CNT].map (fun o => (o, 0x40)))

def Chan.zeroCounters (c : Chan) (g : Nat) : Chan :=
  groveCounters.foldl (fun c p => c.putReg (p.1 + g * p.2) (regReset chanRegs (p.1 + g * p.2))) c

/-- Fill the slots' SRAM from the load list, and zero the replay range of every slot (R301, R409). -/
def Chan.fillTiles (c : Chan) (g : Nat) (v : Grove) : Chan :=
  let c1 := (c.tileLoads v).foldl (fun c e =>
    c.sramWrite (slotTile c.reg g e.region e.lx e.ly) e.addr (c.hbmRead (v.image * 64 + e.src) e.len)) c
  (c1.tilesOf g).foldl (fun c t => c.sramWrite t 0x17FE00 (zeros 512)) c1

/-- A grove of the channel, other than `g`, is loaded for a job with `COORD` = 1 (R217). -/
def Chan.coordinates (c : Chan) (g job : Nat) : Bool :=
  groveNums.any (fun h => h ≠ g && (c.grove h).st ≠ .empty && (c.grove h).job = job && c.fld (F.RED_GRV_CFG_COORD.sh (redOff h)) = 1)

/-- Run a load into grove `g`: its status, completion data, and the channel; a refusal leaves nothing (R301). -/
def Chan.loadGrove (c : Chan) (o : Others) (g line len : Nat) (want : Bytes) : (Status × Bytes) × Chan :=
  let b := c.hbmRead (line * 64) len
  let lines := (List.range ((len + 63) / 64)).map (fun k => line + k)
  match lines.find? (fun l => c.poison.contains l) with
  | some l => ((.hwFault, []), c.hbmUe l)
  | none =>
  if digest b ≠ want then ((.digestFail, []), c)
  else if !c.imageOk b line then ((.badParam, []), c)
  else
    let v := groveOfImage b line
    let staged := ((c.regImage v).filterMap (fun p => (groveReg g p.1).map (fun r => (r, p.2)))).foldl (fun c p => c.stageReg p.1 p.2) c
    if !c.baseOk v o (subscribes staged.staged g) || (o.masks v.job).any (· ≠ c.maskDigests v) then ((.badParam, []), c)
    else if c.tied v then ((.tiedWeights, []), c)
    else
      match c.place g (c.mapRegions v) (leAt b 12 1, leAt b 13 1) with
      | none => ((.capacity, []), c)
      | some (at_, exc) =>
        if !c.buffersFit v then ((.capacity, []), c)
        else
        let v1 : Grove := { v with st := .loaded, digest := want, px := at_.1, py := at_.2 }
        let c1 := ((c.setGrove g { v1 with st := .empty, loading := true }).stageTables g v at_ exc).stageLines g v
        let pairs := (c.regImage v).filterMap (fun p => (groveReg g p.1).map (fun r => (r, p.2)))
        let c2 := pairs.foldl (fun c p => c.stageReg p.1 p.2) c1
        let mapped := (slotsAt c2.staged g).map (·.1)
        let stray := pairs.any (fun p => decide (0x200000 ≤ p.1) && decide (p.1 < 0x638000) && !mapped.contains ((p.1 - 0x200000) / 0x400))
        if stray then ((.badParam, []), c)
        else if c2.badStagedOf g ≠ [] then ((.cfgParity, []), (c2.badStagedOf g).foldl (fun c x => c.checkStaged x) c)
        else
          match c2.checkGroup [g] g with
          | some (k, a) => ((.consistencyFail, []), c.strobeResult .consistencyFail k a)
          | none =>
            let cfg := F.RED_GRV_CFG_COORD.sh (redOff g)
            if rdFld (c2.after [g]) cfg = 1 && (o.coord v.job || c.coordinates g v.job) then
              ((.consistencyFail, []), c.strobeResult .consistencyFail 6 cfg.off)
            else if !c2.efFits (c2.after [g]) g then ((.capacity, []), c)
            else
              let c3 := (((c2.applyGroup g).takeTables g).applyGroup g).setGrove g v1
              let c4 := (((List.range 6).foldl (fun c f => c.noteLow (c2.freeIn f) f g) c3).fillTiles g v1).zeroCounters g
              -- reduction sequences start at 0 (R199)
              let new (m : NMap Nat) : NMap Nat := m.filter (fun p => p.1 / 65536 ≠ v.job)
              let c5 : Chan := { if v.kind = 1 then c4.initLoad g else c4 with redTx := new c4.redTx, redRx := new c4.redRx }
              ((.ok, leBytes 1 g ++ leBytes 1 at_.1 ++ leBytes 1 at_.2 ++ [0] ++ leBytes 2 (c5.tilesOf g).length ++ zeros 2), c5)

/-- `GROVE_LOAD` (R301): the lowest free grove number is assigned; with none the reply is CAPACITY. -/
def execGroveLoad (q : Issue) (line len : Nat) (digest : Bytes) (s : State) : Host.Outcome State Fault Refusal :=
  .next (s.chanCmd q 0x50 [(0, 4, line), (4, 4, len), opBytes 8 32 digest] noConf
    (fun _ => [(!populated line ((len + 63) / 64), 0)]) (fun d c =>
    match groveNums.find? (fun g => !c.held g) with
    | none => c.reply d .capacity none [] []
    | some g => (c.setGrove g { Grove.empty with loading := true, loader := (d.queue, d.seq) }).accept d))

/-- What a load in channel `ch` may ask of the other channels. -/
def State.others (s : State) (ch : Nat) : Others :=
  let loaded (k : Nat) : List Nat := groveNums.filter (fun h => ((s.chan k).grove h).st ≠ .empty)
  { coord := fun job => (List.range 8).any (fun k => k ≠ ch && (s.chan k).coordinates 16 job)
    masks := fun job => ((List.range 8).filter (· ≠ ch)).flatMap (fun k =>
      ((loaded k).filter (fun h => ((s.chan k).grove h).job = job)).map (fun h => (s.chan k).maskDigests ((s.chan k).grove h)))
    evals := (List.range 8).flatMap (fun k => ((loaded k).filter (fun h =>
      ((s.chan k).grove h).kind = 0 && !(s.chan k).isSub h && !mirrored ((s.chan k).residencies ((s.chan k).grove h)))).map
        (fun h => ((s.chan k).grove h).job)) }

/-- What `GROVE_LOAD`'s end does in its channel (R301). -/
def State.loadEnds (s : State) (q : Issue) : Host.Outcome State Fault Refusal :=
  completeStep s q 0x50 (fun d c =>
    match groveNums.find? (fun g => (c.grove g).loading && (c.grove g).loader = (d.queue, d.seq)) with
    | none => c.complete d .hwFault none []
    | some g =>
      if c.st = .faulted then (c.setGrove g Grove.empty).complete d .hwFault (some g) []
      else
        let ((st, data), c1) := c.loadGrove (s.others q.channel) g (pAt d 0 4) (pAt d 4 4) (slice d.params 8 32)
        let c2 := if st = .ok then c1 else c1.setGrove g Grove.empty
        c2.complete d st (if st = .ok then some g else none) data)

/-- A grove's energy figure restarts when it is loaded (R438). -/
def State.restartFigures (s : State) (ch : Nat) (gs : List Nat) : State :=
  s.onPort (fun p =>
    let a := mapGet (fun _ => Apport.reset) p.apport ch
    if gs = [] then p else { p with apport := mapPut p.apport ch { a with groves := gs.foldl (fun m g => mapDel m g) a.groves } })

/-- `GROVE_LOAD` ends (R301). -/
def execGroveLoadComplete (q : Issue) (s : State) : Host.Outcome State Fault Refusal :=
  match s.loadEnds q with
  | .next t => .next (t.restartFigures q.channel (groveNums.filter (fun g =>
      ((s.chan q.channel).grove g).st = .empty && ((t.chan q.channel).grove g).st ≠ .empty)))
  | .fault f => .fault f
  | .refused r => .refused r

end Sys2Proof.Machine
end

