-- ==== Sys2Proof/Machine/GroveCmd.lean ====
section
/-! DEFINITION. Grove commands but the load: unloading, starting, pausing, resuming, draining, and what `GROVE_STATUS` returns
(R105, R300, R309, R312, R368). -/

namespace Sys2Proof.Machine

/-- The offsets of a grove's region and exception entries. -/
def tableOffs (g : Nat) : List Nat :=
  (List.range 64).flatMap (fun n =>
    let a := grvSlot g + n * 0x10
    let e := grvSlot g + n * 8
    [R.CTL_GRV_REGION_W0 + a, R.CTL_GRV_REGION_W1 + a, R.CTL_GRV_REGION_W2 + a, R.CTL_GRV_EXC_W0 + e, R.CTL_GRV_EXC_W1 + e])

/-- The tables of a grove are emptied, and its tiles return to the understory (R100, R105). -/
def Chan.dropTables (c : Chan) (g : Nat) : Chan :=
  ((tableOffs g).foldl (fun c o => c.putReg o 0) c).takeTables g

/-- Commands of a grove that replied ACCEPTED or wait for their reply, by opcode. -/
def groveOps : List Nat := [0x37, 0x55, 0x70]

/-- Everything of a grove goes (R105, R309, R312, R368): a pending strobe and switch are cancelled, a ring under way fails,
what waits for the grove ends with STATE_CONFLICT (log entry 45). -/
def Chan.unloadGrove (c : Chan) (g : Nat) : Chan :=
  let c1 := (((c.cancelStrobe g).cancelSwitch g).ringStop g).dropCombs g
  let c2 := (c1.deferred 0x53 g).foldl (fun c d => c.conflict d (some g)) c1
  let c3 := groveOps.foldl (fun (c : Chan) op =>
    (c.acceptedFor op g).foldl (fun c d => c.complete d .stateConflict (some g) []) c) c2
  let c4 := c3.dropTables g
  ({ c4.setGrove g Grove.empty with progs := c4.progs.filter (fun p => p.1 ≠ g) } : Chan).settle

/-- `GROVE_UNLOAD` (R309). -/
def execGroveUnload (q : Issue) (grove : Nat) (s : State) : Host.Outcome State Fault Refusal :=
  .next (s.chanCmd q 0x51 [(0, 1, grove)] (groveNot [.loaded, .paused, .faulted]) (fun d => [badGrove d]) (fun d c =>
    (c.unloadGrove grove).reply d .ok (some grove) [] []))

/-- Whether a field that holds tiles of a grove is stopped for heat (R309, R387). -/
def Chan.heatStops (c : Chan) (g : Nat) : Bool := (c.tilesOf g).any (fun i => bits (c.fld F.TH_TJ_STOPPED) (fieldOf i) 1 = 1)

/-- The reader and the gates of a grove move on. -/
def Chan.stream (c : Chan) (g : Nat) : Chan := (c.pump g).tryGate g

/-- `GROVE_START` (R300, R309): not while a restore is under way (R365). -/
def execGroveStart (q : Issue) (grove : Nat) (stop : Word) (s : State) : Host.Outcome State Fault Refusal :=
  .next (s.chanCmd q 0x52 [(0, 1, grove), (4, 4, stop.toNat)]
    (fun c d => groveNot [.loaded] c d || (c.grove grove).ring.phase = 5) (fun d => [badGrove d]) (fun d c =>
    if c.heatStops grove then c.reply d .thermalHold (some grove) [] []
    else
      let c1 := (c.onGrove grove (fun v => { v with st := .running, stop := stop.toNat, pauseAt := none, draining := false })).settle
      ((c1.stream grove).reply d .ok (some grove) [] []).stepReached grove))

/-- The value of `at` and of `paused` that means at once. -/
def pauseNow : Nat := 0xFFFFFFFF

/-- A grove that pauses at once: the reply is sent when it is quiescent (R309). -/
def Chan.pauseAtOnce (c : Chan) (g : Nat) : Chan :=
  let v := c.grove g
  if v.replay then c.onGrove g (fun v => { v with pauseAt := some pauseNow })
  else
    let c1 := c.pauseGrove g 0
    if c1.quiet g then c1.answerPause g pauseNow else c1

/-- A grove that is to pause before a step (R309; log entry 54). -/
def Chan.pauseBefore (c : Chan) (g at_ : Nat) : Chan :=
  if (c.grove g).st = .paused then (c.pauseGrove g 0).answerPause g at_
  else (c.onGrove g (fun v => { v with pauseAt := some at_ })).stepReached g

/-- `GROVE_PAUSE` (R309, R312): its reply is deferred. -/
def execGrovePause (q : Issue) (grove : Nat) (at_ : Word) (s : State) : Host.Outcome State Fault Refusal :=
  .next (s.chanCmd q 0x53 [(0, 1, grove), (4, 4, at_.toNat)]
    (fun c d => groveNot [.running, .paused, .draining] c d ||
      (let v := c.grove grove
       at_.toNat ≠ pauseNow && (decide (at_.toNat < v.step) || (at_.toNat = v.step && v.begun))))
    (fun d => [badGrove d]) (fun _ c => if at_.toNat = pauseNow then c.pauseAtOnce grove else c.pauseBefore grove at_.toNat))

/-- `GROVE_RESUME` (R309). -/
def execGroveResume (q : Issue) (grove : Nat) (s : State) : Host.Outcome State Fault Refusal :=
  .next (s.chanCmd q 0x54 [(0, 1, grove)] (fun c d => groveNot [.paused] c d || bits (c.grove grove).causes 1 1 = 1)
    (fun d => [badGrove d]) (fun d c =>
    if c.heatStops grove then c.reply d .thermalHold (some grove) [] []
    else ((c.unpause grove 0).stream grove).reply d .ok (some grove) [] []))

/-- `GROVE_DRAIN` (R300, R309); a subscriber leaves its base stream (R149). -/
def execGroveDrain (q : Issue) (grove : Nat) (s : State) : Host.Outcome State Fault Refusal :=
  .next (s.chanCmd q 0x55 [(0, 1, grove)] (groveNot [.running, .paused, .draining]) (fun d => [badGrove d]) (fun d c =>
    match (c.grove grove).st with
    | .draining => c.reply d .ok (some grove) [] []
    | .paused => (c.onGrove grove (fun v => { v with draining := true })).reply d .accepted (some grove) [] []
    | _ => ((c.onGrove grove (fun v => { v with st := .draining, ws := { v.ws with attached := false } })).reply d .accepted (some grove) [] []).stepReached grove))

/-- `GROVE_STATUS` (R300); the slot number of a grove without an ACTIVE slot is free (log entry 3). -/
def execGroveStatus (q : Issue) (grove : Nat) (s : State) : Host.Outcome State Fault Refusal :=
  .next (s.chanCmd q 0x56 [(0, 1, grove)] (fun c _ => (c.grove grove).loading) (fun d => [badGrove d]) (fun d c =>
    let v := c.grove grove
    let (slot, c1) := match v.ws.active with
      | some k => (k, c)
      | none => c.draw
    c1.reply d .ok (some grove) [] (leBytes 1 v.kind ++ leBytes 1 v.cls ++ leBytes 1 v.causes ++ leBytes 1 v.fault ++ leBytes 2 v.job
      ++ leBytes 1 slot ++ [0] ++ leBytes 4 v.step ++ leBytes 2 v.mb ++ leBytes 2 (c.tilesOf grove).length
      ++ leBytes 1 (exceptionsAt c.reg grove).length ++ zeros 3)))

end Sys2Proof.Machine
end

