-- ==== Sys2Proof/Machine/Power.lean ====
section
/-! DEFINITION. Power: the limiter and the shares, the supply, CAP_STEP and the orphan source, PMBus, and the power commands
(R303, R370-R382, R390-R393, R448). -/

namespace Sys2Proof.Machine

/-! ## Forecast, demand and limits of a channel (R379-R382, R393) -/

/-- Watts a grove is forecast to draw for a residency ordinal: its own hint, else the default hint, else the default figure
over the mapped tiles (R382). -/
def Chan.hintFor (c : Chan) (g : Nat) (ord : Option Nat) : Nat :=
  let hs := (c.grove g).hints
  match ord.bind (mapFind hs) with
  | some w => w
  | none => (mapFind hs 0xFFFFFFFF).getD (2300 * (c.tilesOf g).length / 4104)

/-- h_g (R382): the larger hint of the residencies whose gate is open. -/
def Chan.forecast (c : Chan) (g : Nat) : Nat :=
  let opened := [0, 1].filterMap (fun k => if c.fld (gateFld g k) = 1 then (c.openOn g k).map (·.2.ord) else none)
  if opened = [] then c.hintFor g none else opened.foldl (fun m o => max m (c.hintFor g (some o))) 0

/-- Σ h_g over the RUNNING and DRAINING groves. -/
def Chan.dynamicW (c : Chan) : Nat := groveNums.foldl (fun a g => a + if (c.grove g).st.active then c.forecast g else 0) 0

/-- The channel's demand (R382). -/
def Chan.demandW (c : Chan) : Nat := c.holdW + c.dynamicW

/-- LIMIT_c (R378, R393): above 4,000 W it acts as 4,000 W, below H_c as H_c. -/
def Chan.limitW (c : Chan) : Nat := max c.holdW (min 4000 (c.fld F.TH_CH_CFG_LIMIT))

/-- The least of a figure and a cap that may be absent. -/
def capBy (n : Nat) : Option Nat → Nat
  | none => n
  | some m => min n m

/-- T_c before the slew limit (R379). -/
def Chan.targetW (c : Chan) : Nat := capBy (capBy (min (c.fld F.TH_TARGET_SHARE) c.limitW) c.power.thetaCap) c.power.trim

/-- The duty preset for a target (R380). -/
def Chan.presetFor (c : Chan) (target : Nat) : Nat :=
  let h := c.dynamicW
  if h = 0 then 256 else min 256 (256 * (target - c.holdW) / h)

/-- The next duty (R380, R381; log entry 63): a lower preset is reached by an 8 µs linear ramp, a higher one at once; on
an unchanged preset D moves by 1 towards the target, within 32 of it. -/
def nextDuty (d preset was ramp power target : Nat) : Nat × Nat :=
  let left := if preset < was && decide (preset < d) then (if ramp = 0 then 8 else ramp) else ramp
  if left ≠ 0 && decide (preset < d) then (d - (d - preset) / left, left - 1)
  else if preset ≠ was then (preset, 0)
  else
    let moved := if power < target then d + 1 else if target < power then d - 1 else d
    (max (preset - 32) (min (min 256 (preset + 32)) moved), 0)

/-- One microsecond of the limiter (R379-R382): the measured power, the demand, the target and the duty. -/
def Chan.limiterStep (c : Chan) (watts : Nat) : Chan :=
  let c1 := c.setFld F.TH_POWER_POWER (min watts 65535)
  if c1.down then c1
  else
    let c2 := c1.setFld F.TH_POWER_DEMAND (min c1.demandW 65535)
    let slew := max 8 (c2.fld F.TH_CH_CFG_SLEW)
    let t := min c2.targetW (c2.fld F.TH_TARGET_TARGET + slew)
    let c3 := (c2.setFld F.TH_TARGET_TARGET t).setFld F.TH_STATUS_LIMITING (if t < c2.demandW then 1 else 0)
    if c3.st = .frozen || c3.st = .bringup then
      { c3.setFld F.TH_DUTY_DUTY 0 with power := { c3.power with preset := 0, ramp := 0 } }
    else
      let p := c3.presetFor t
      let r := nextDuty (c3.fld F.TH_DUTY_DUTY) p c3.power.preset c3.power.ramp watts t
      { c3.setFld F.TH_DUTY_DUTY r.1 with power := { c3.power with preset := p, ramp := r.2 } }

/-- `LIMITER_TRIM` (R370, R379-R382). -/
def execLimiterTrim (c : Fin 8) (watts : Nat) (s : State) : Host.Outcome State Fault Refusal :=
  .next ((s.onChan c (fun c => c.limiterStep watts)).recap)

/-! ## Shares (R378, R390) -/

/-- top_c and want_c of a channel. -/
def Chan.topW (c : Chan) : Nat := capBy c.limitW c.power.thetaCap
def Chan.wantW (c : Chan) : Nat := max c.holdW (min (c.fld F.TH_POWER_DEMAND) c.topW)

/-- A channel in BRINGUP whose H_c is not measured: its share is its measured power (R390). -/
def Chan.unmeasured (c : Chan) : Bool := c.st = .bringup && c.fld F.TH_DUTY_HOLD = 0

/-- S_c from the budget and the sums over the channels that share it (R378). -/
def Chan.shareW (c : Chan) (avail sumH sumW : Nat) : Nat :=
  if c.unmeasured then c.fld F.TH_POWER_POWER
  else if avail < sumH then c.holdW
  else if sumW ≤ avail then min c.topW (c.wantW + (avail - sumW) * c.wantW / sumW)
  else c.holdW + (avail - sumH) * (c.wantW - c.holdW) / (sumW - sumH)

/-- `SHARE_COMPUTE` (R378): a channel whose controller link is lost keeps its share. -/
def execShareCompute (s : State) : Host.Outcome State Fault Refusal :=
  let up (c : Chan) : Bool := !c.down && !c.linkLost
  let avail := s.capOf.2 - s.sharedW - s.offW - s.keptW
  let sumH := s.upHoldW
  let sumW := s.sumOver up (fun c => if c.unmeasured then c.fld F.TH_POWER_POWER else c.wantW)
  .next ((List.range 8).foldl (fun s c => s.onChan c (fun c =>
    if up c then c.setFld F.TH_TARGET_SHARE (min (c.shareW avail sumH sumW) 65535) else c)) s).recap

/-! ## `STATUS_WORD` and SMB_ALERT_N (R373, R448) -/

/-- Conditions of `STATUS_WORD` that hold at present: bit 3 input below 46 V, bit 2 a stopped field, bit 13 freeze cause
SUPPLY. -/
def State.pmConditions (s : State) : Nat :=
  (if s.pd.power.vin < 46000 then 8 else 0)
    + (if (List.range 8).any (fun c => (s.chan c).fld F.TH_TJ_STOPPED ≠ 0) then 4 else 0) + (if s.causeSet 3 then 2 ^ 13 else 0)

/-- `STATUS_WORD`: latched until `CLEAR_FAULTS`, and what holds at present. -/
def State.statusWordOf (s : State) : Nat := s.pd.power.latches ||| s.pmConditions

/-- Latch `STATUS_WORD` bits. -/
def State.latch (s : State) (b : Nat) : State := s.onPort (fun p => { p with power := { p.power with latches := p.power.latches ||| b } })

/-- SMB_ALERT_N: asserted while any bit of `STATUS_WORD` is set (R448). -/
def State.smbAlert (s : State) : Bool := s.statusWordOf ≠ 0

/-! ## The supply (R376, R394, R453, R454) -/

/-- A port die that has lost its supply or is held in reset: what flash, the key store and fuses hold stays, with the
levels at its pins (R339, R395, R422, R425, R430, R449). -/
def PortDie.fresh (p : PortDie) : PortDie :=
  let kept : Bank := [(R.SEC_KEY_COUNTER, p.reg R.SEC_KEY_COUNTER), (R.SEC_SVN, F.SEC_SVN_ACTIVE_SVN.into (p.reg R.SEC_SVN) 0)].foldl
    (fun b x => b.put pdRegs x.1 x.2) Bank.empty
  { PortDie.reset with
    bank := kept, ring := p.ring, keys := p.keys, locked := p.locked, flash := p.flash, found := p.found, straps := p.straps, bound := p.bound
    clock := p.clock, free := p.free, resetPin := p.resetPin
    power := { ModPower.reset with
      capStep := p.power.capStep, vin := p.power.vin, okSince := p.power.okSince, tin := p.power.tin, flowLoss := p.power.flowLoss
      hottest := p.power.hottest, lastRise := p.power.lastRise } }

/-- A channel whose power goes without an answer to anyone. -/
def Chan.darken (c : Chan) : Chan :=
  if c.st = .locked then c
  else { c.blankOff with queues := [], outbox := [] }

/-- The input has fallen below 20 V: nothing is powered (R454). -/
def State.powerLost (s : State) : State :=
  { s with chans := s.chans.map (fun c => (c.1, c.2.darken)), pd := s.pd.fresh }

/-- `SUPPLY_SAMPLE` (R376, R391): the input voltage in mV. -/
def execSupplySample (mv : Nat) (s : State) : Host.Outcome State Fault Refusal :=
  let was := s.pd.power.vin
  let s1 := s.onPort (fun p => { p with power := { p.power with
    vin := mv
    okSince := if 46000 ≤ mv ∧ mv ≤ 58000 then some (p.power.okSince.getD p.clock) else none } })
  .next (
    if mv < 20000 then (if s.pd.powered then s1.powerLost else s1)
    else if !s.pd.powered then s1
    else
      let s2 := if mv < 46000 then (s1.onPort (fun p => p.setFld F.TH_MOD_STATUS_SUPPLY_LOW 1)).latch 8 else s1
      let s3 := if 58000 < mv ∧ was ≤ 58000 then
          (s2.onPort (fun p => p.setFld F.TH_MOD_STATUS_SUPPLY_HIGH 1)).flog .hwFault 2 0 none (argFld F.TH_MOD_STATUS_SUPPLY_HIGH)
        else s2
      s3.recap)

/-- End of bring-up without READY (R397): recorded, logged, FAULTED. -/
def Chan.bringupFails (c : Chan) (st : Status) : Chan :=
  let step := c.fld F.CTL_BRINGUP_STEP
  (((c.setFld F.CTL_BRINGUP_FAIL_STEP step).setFld F.CTL_BRINGUP_HELD 0).event st 12 step none argNone).chanFault st

/-- `SUPPLY_FREEZE` (R376): input below 44 V; a channel in BRINGUP goes to FAULTED (R418). -/
def execSupplyFreeze (s : State) : Host.Outcome State Fault Refusal :=
  .next (if 44000 ≤ s.pd.power.vin || !s.pd.powered then s
    else
      (((List.range 8).foldl (fun s c => s.onChan c (fun c => if c.st = .bringup then c.bringupFails .hwFault else c)) s).freezeAll 3).latch
        (2 ^ 13))

/-- `SUPPLY_RECOVER` (R376): at or above 45 V. -/
def execSupplyRecover (s : State) : Host.Outcome State Fault Refusal :=
  .next (if s.pd.power.vin < 45000 then s else s.thawAll 3)

/-! ## CAP_STEP and the orphan source (R374, R375) -/

/-- `CAP_STEP_ASSERT` (R374). -/
def execCapStepAssert (s : State) : Host.Outcome State Fault Refusal :=
  .next (s.onPort (fun p => { p with power := { p.power with capStep := true } })).recap

/-- `CAP_STEP_DEASSERT` (R374). -/
def execCapStepDeassert (s : State) : Host.Outcome State Fault Refusal :=
  .next (s.onPort (fun p => { p with power := { p.power with capStep := false } })).recap

/-- `ORPHAN_EXPIRY` (R375): only once a write has arrived since power-on. -/
def execOrphanExpiry (s : State) : Host.Outcome State Fault Refusal :=
  .next (if s.pd.power.pmbusCap.isNone || s.pd.power.orphan then s
    else ((s.onPort (fun p => { p with power := { p.power with orphan := true } })).pdFlag
      F.TH_MOD_STATUS_ORPHAN F.TH_MOD_COUNT_ORPHAN).recap)

/-! ## PMBus (R373, R448) -/

/-- One byte into the packet error code: CRC-8, x^8 + x^2 + x + 1 (log entry 63). -/
def pecByte (crc : Nat) (b : Byte) : Nat :=
  (List.range 8).foldl (fun a _ => if 128 ≤ a then (a * 2) % 256 ^^^ 7 else a * 2) (crc ^^^ b.toNat)

def pecOf (m : Bytes) : Byte := BitVec.ofNat 8 (m.foldl pecByte 0)

/-- The port die's 7-bit PMBus address (R448). -/
def PortDie.pmAddr (p : PortDie) : Nat := 0x40 + p.straps

/-- The answer to a read: data bytes, low first, and the packet error code. -/
def State.pmRead (s : State) (code : Nat) (data : Bytes) : State :=
  let a := s.pd.pmAddr
  let pec := pecOf ([BitVec.ofNat 8 (2 * a), BitVec.ofNat 8 code, BitVec.ofNat 8 (2 * a + 1)] ++ data)
  { s with out := s.out ++ [.pmbus (some (data ++ [pec]))] }

/-- An acknowledged write. -/
def State.pmAck (s : State) : State := { s with out := s.out ++ [.pmbus (some [])] }

/-- A transaction that is not acknowledged, ignored and counted; CML latches (R373). -/
def State.pmNack (s : State) : State :=
  let s1 := (s.pdFlag F.TH_MOD_STATUS_PMBUS_ERR F.TH_MOD_COUNT_PMBUS_ERR).latch 2
  { s1 with out := s1.out ++ [.pmbus none] }

/-- Whether the port die answers PMBus: its firmware runs, and the module is neither LOCKED nor in RECOVERY, which answer
commands only (R292, R395, R430; log entry 63). -/
def State.pmLive (s : State) : Bool := s.pd.running && !s.pd.locked && s.pd.fld F.PD_FW_RECOVERY = 0

/-- A PMBus transaction: nobody answers, a bad packet error code is refused, or it has its effect. -/
def State.pmbus (s : State) (pecOk : Bool) (f : State → State) : State :=
  if !s.pmLive then { s with out := s.out ++ [.pmbus none] }
  else if !pecOk then s.pmNack
  else f s

def pmBytes (w : BitVec 16) : Bytes := leBytes 2 w.toNat

/-- A LINEAR11 reading. -/
def State.pmLinear (s : State) (code : Nat) (num : Int) (den : Nat) : State := s.pmRead code (pmBytes (Config.linear11 num den))

/-- `CLEAR_FAULTS` (R373): the latches go; SMB_ALERT_N stays while a condition is present (R448). -/
def execClearFaults (pecOk : Bool) (s : State) : Host.Outcome State Fault Refusal :=
  .next (s.pmbus pecOk (fun s => (s.onPort (fun p => { p with power := { p.power with latches := 0 } })).pmAck))

/-- `STATUS_WORD` (R373). -/
def execStatusWord (pecOk : Bool) (s : State) : Host.Outcome State Fault Refusal :=
  .next (s.pmbus pecOk (fun s => s.pmRead 0x79 (leBytes 2 s.statusWordOf)))

/-- `READ_VIN` (R373): V. -/
def execReadVin (pecOk : Bool) (s : State) : Host.Outcome State Fault Refusal :=
  .next (s.pmbus pecOk (fun s => s.pmLinear 0x88 s.pd.power.vin 1000))

/-- `READ_IIN` (R373): A, from the branch monitors and the shared reserve. -/
def execReadIin (pecOk : Bool) (s : State) : Host.Outcome State Fault Refusal :=
  .next (s.pmbus pecOk (fun s => s.pmLinear 0x89 (s.pd.fld F.TH_MOD_POWER_POWER * 1000 : Nat) s.pd.power.vin))

/-- `READ_TEMPERATURE_1` (R373, R384): T_in. -/
def execReadTemperature1 (pecOk : Bool) (s : State) : Host.Outcome State Fault Refusal :=
  .next (s.pmbus pecOk (fun s => s.pmLinear 0x8D s.pd.power.tin 16))

/-- `READ_TEMPERATURE_2` (R373, R383): the hottest ruling field temperature. -/
def execReadTemperature2 (pecOk : Bool) (s : State) : Host.Outcome State Fault Refusal :=
  .next (s.pmbus pecOk (fun s => s.pmLinear 0x8E s.pd.power.hottest 16))

/-- `READ_PIN` (R373): module power, W. -/
def execReadPin (pecOk : Bool) (s : State) : Host.Outcome State Fault Refusal :=
  .next (s.pmbus pecOk (fun s => s.pmLinear 0x97 (s.pd.fld F.TH_MOD_POWER_POWER) 1))

/-- The value of a LINEAR11 word in 1/65,536: none when it is negative. -/
def ofLinear11 (w : BitVec 16) : Option Nat :=
  let m := bits w.toNat 0 11
  let e := bits w.toNat 11 5
  if 1024 ≤ m then none
  else some (if e < 16 then m * 2 ^ (16 + e) else m * 2 ^ (16 + e - 32))

/-- `MFR_PLK_CAP` write (R372, R373, R375). -/
def execMfrPlkCapWrite (pecOk : Bool) (word : BitVec 16) (s : State) : Host.Outcome State Fault Refusal :=
  .next (s.pmbus pecOk (fun s =>
    match ofLinear11 word with
    | none => s.pmNack
    | some w =>
      ((s.onPort (fun p => { p with power := { p.power with pmbusCap := some (min w (24000 * 65536)), orphan := false } })).recap).pmAck))

/-- `MFR_PLK_CAP` read (R373): 24,000 W before the first write. -/
def execMfrPlkCapRead (pecOk : Bool) (s : State) : Host.Outcome State Fault Refusal :=
  .next (s.pmbus pecOk (fun s => s.pmLinear 0xD0 (s.pd.power.pmbusCap.getD (24000 * 65536)) 65536))

/-- `MFR_PLK_DEMAND` (R373, R382). -/
def execMfrPlkDemand (pecOk : Bool) (s : State) : Host.Outcome State Fault Refusal :=
  .next (s.pmbus pecOk (fun s => s.pmLinear 0xD1 (s.pd.fld F.TH_MOD_POWER_DEMAND) 1))

/-- `MFR_PLK_FLOOR` (R373). -/
def execMfrPlkFloor (pecOk : Bool) (s : State) : Host.Outcome State Fault Refusal :=
  .next (s.pmbus pecOk (fun s => s.pmLinear 0xD2 s.floorW 1))

/-- `MFR_PLK_STATE` (R373). -/
def execMfrPlkState (pecOk : Bool) (s : State) : Host.Outcome State Fault Refusal :=
  .next (s.pmbus pecOk (fun s => s.pmRead 0xD3 (leBytes 1 (s.capOf.1 + (if s.capOf.2 < s.floorW then 8 else 0)
    + (if s.pd.power.orphan then 16 else 0) + (if s.pd.power.coolant then 32 else 0)))))

/-- Command codes of R373. -/
def pmCodes : List Nat := [0x03, 0x79, 0x88, 0x89, 0x8D, 0x8E, 0x97, 0xD0, 0xD1, 0xD2, 0xD3]

/-- `PMBUS_UNKNOWN_COMMAND` (R373): a code that R373 lists is another row's. -/
def execPmbusUnknownCommand (code : Byte) (s : State) : Host.Outcome State Fault Refusal :=
  .next (if pmCodes.contains code.toNat then s else s.pmbus true State.pmNack)

/-- `SMBUS_ALERT_RESPONSE` (R448): while SMB_ALERT_N is asserted the port die answers with its address; else nothing of the
module answers (log entry 63). -/
def execSmbusAlertResponse (s : State) : Host.Outcome State Fault Refusal :=
  .next (if s.pmLive && s.smbAlert then { s with out := s.out ++ [.pmbus (some [BitVec.ofNat 8 s.pd.pmAddr])] }
    else { s with out := s.out ++ [.pmbus none] })

/-! ## Commands (R303, R377, R393) -/

/-- Reply to a command whose registers MG1 has applied, or refuse it as the strobe did (R294, R330). -/
def State.afterMg1 (s : State) (d : Datagram) (good : State → State) : State :=
  let r := s.strobeMg 2
  let (st, item, off) := r.1
  if st = .ok then good r.2 else r.2.replyM d st (strobeDetail st item off) []

/-- `CAP_SET` (R377, R391): recorded and in force even below the floor. -/
def execCapSet (q : Issue) (watts : Nat) (s : State) : Host.Outcome State Fault Refusal :=
  .next (s.modCmd q 0xA0 [(0, 4, watts)] false (fun d => [(decide (24000 < pAt d 0 4), 0)]) (fun d s =>
    (s.pdRmw R.TH_MOD_HOST_CAP 0xFFFF (BitVec.ofNat 32 watts)).2.afterMg1 d (fun s =>
      s.replyM d (if s.capOf.2 < s.floorW then .capBelowFloor else .ok) [] (leBytes 4 s.capOf.2))))

/-- `ORPHAN_CAP_SET` (R377, R391): F to 24,000 W. -/
def execOrphanCapSet (q : Issue) (watts : Nat) (s : State) : Host.Outcome State Fault Refusal :=
  .next (s.modCmd q 0xA1 [(0, 4, watts)] false (fun d => [(decide (pAt d 0 4 < s.floorW ∨ 24000 < pAt d 0 4), 0)]) (fun d s =>
    (s.pdRmw R.TH_MOD_ORPHAN 0xFFFF (BitVec.ofNat 32 watts)).2.afterMg1 d (fun s => s.replyM d .ok [] [])))

/-- `POWER_STATUS` (R303, R393), to a channel or to the module. -/
def execPowerStatus (q : Issue) (s : State) : Host.Outcome State Fault Refusal :=
  .next (if q.channel = 0xFF then
      s.modCmd q 0xA2 [] false (fun _ => []) (fun d s => s.replyM d .ok [] (leBytes 4 s.capOf.2
        ++ leBytes 4 (s.pd.fld F.TH_MOD_POWER_DEMAND) ++ leBytes 4 (s.pd.fld F.TH_MOD_POWER_POWER) ++ zeros 4))
    else
      s.chanCmd q 0xA2 [] noConf (fun _ => []) (fun d c => c.reply d .ok none [] (leBytes 4 (c.fld F.TH_TARGET_TARGET)
        ++ leBytes 4 (c.fld F.TH_POWER_DEMAND) ++ leBytes 4 (c.fld F.TH_POWER_POWER) ++ zeros 4)))

/-- `THERMAL_STATUS` (R303, R393). -/
def execThermalStatus (q : Issue) (s : State) : Host.Outcome State Fault Refusal :=
  .next (s.chanCmd q 0xA3 [] noConf (fun _ => []) (fun d c => c.reply d .ok none [] (leBytes 2 (c.fld F.TH_TJ_TJ_MAX)
    ++ leBytes 1 (c.fld F.TH_TJ_STOPPED) ++ [0] ++ leBytes 4 (c.reg R.TH_THETA).toNat)))

end Sys2Proof.Machine
end

