-- ==== Sys2Proof/Machine/Thermal.lean ====
section
/-! DEFINITION. Heat: junction and inlet sensors, theta, the heat trim, stopped fields, and the coolant stop (R383-R389). -/

namespace Sys2Proof.Machine

/-! ## Sensors (R383). Temperatures are in 1/16 °C. -/

/-- A sensor's register and bit. -/
def suspectFld (i : Nat) : Fld := if i < 32 then ⟨R.TH_SUSPECT_LO, i, 1⟩ else ⟨R.TH_SUSPECT_HI, i - 32, 1⟩

def Chan.suspect (c : Chan) (i : Nat) : Bool := c.fld (suspectFld i) = 1

/-- Mark a sensor suspect; when its partner is suspect too, that is logged (R383; log entry 65). -/
def Chan.markSuspect (c : Chan) (i : Nat) : Chan :=
  if c.suspect i then c
  else
    let c1 := (c.setFld (suspectFld i) 1).flag F.TH_STATUS_SENSOR_SUSPECT F.TH_COUNT_SENSOR_SUSPECT
    let other := if i % 2 = 0 then i + 1 else i - 1
    if c1.suspect other then c1.event .hwFault 2 0 none (argFld F.TH_STATUS_SENSOR_SUSPECT i) else c1

/-- Readings of the two sensors of hot spot `h`, 4 f + k. -/
def pairAt (t : List Int) (h : Nat) : Int × Int := (t.getD (2 * h) 0, t.getD (2 * h + 1) 0)

/-- The difference of a pair. -/
def pairGap (t : List Int) (h : Nat) : Nat := ((pairAt t h).1 - (pairAt t h).2).natAbs

/-- Ruling reading of a hot spot with a sensor left: their mean, the higher one, or the other one and 2 K (R383). -/
def Chan.rulingOwn (c : Chan) (t : List Int) (h : Nat) : Option Int :=
  let (a, b) := pairAt t h
  if c.suspect (2 * h) then (if c.suspect (2 * h + 1) then none else some (b + 32))
  else if c.suspect (2 * h + 1) then some (a + 32)
  else if c.power.hot.contains h then some (max a b)
  else some ((a + b) / 2)

/-- The highest of a list of readings. -/
def maxTemp : List Int → Option Int
  | [] => none
  | x :: t => some (t.foldl max x)

/-- Ruling readings of the 24 hot spots: one without sensors reads its field's highest other one and 5 K; a field without
any other reads a free value (R383; log entry 65). -/
def Chan.rulings (c : Chan) (t : List Int) : List Int × Chan :=
  let own := (List.range 24).map (c.rulingOwn t)
  (List.range 24).foldl (fun (a : List Int × Chan) h =>
    match own.getD h none with
    | some v => (a.1 ++ [v], a.2)
    | none =>
      match maxTemp ((List.range 4).filterMap (fun k => own.getD (h / 4 * 4 + k) none)) with
      | some m => (a.1 ++ [m + 80], a.2)
      | none => let (n, c1) := a.2.draw; (a.1 ++ [(n : Int)], c1)) ([], c)

/-- A field's temperature. -/
def fieldTemp (spots : List Int) (f : Nat) : Int := (maxTemp ((List.range 4).map (fun k => spots.getD (4 * f + k) 0))).getD 0

/-- Field temperatures of a channel. -/
def Chan.fieldTemps (c : Chan) : List Int := (List.range 6).map (fieldTemp c.power.spots)

/-- Compute the ruling readings, the field temperatures and Tj,max from the last readings (R383, R393). -/
def Chan.readTemps (c : Chan) : Chan :=
  let (sp, c1) := c.rulings c.power.temps
  let c2 : Chan := { c1 with power := { c1.power with spots := sp } }
  let fs := c2.fieldTemps
  let top := (maxTemp fs).getD 0
  let at_ := ((List.range 6).find? (fun f => fs.getD f 0 = top)).getD 0
  let c3 := (List.range 6).foldl (fun (c : Chan) f => c.setFld (F.TH_FIELD_TEMP_TEMP.sh (4 * f)) (unsigned 16 (fs.getD f 0))) c2
  (c3.setFld F.TH_TJ_TJ_MAX (unsigned 16 top)).setFld F.TH_TJ_HOT_FIELD at_

/-- A sample of the 48 sensors: those out of range are suspect at once, a pair that agrees again is ruled by its mean. -/
def Chan.sampleTemps (c : Chan) (temps : List Int) : Chan :=
  let t := (List.range 48).map (fun i => temps.getD i 0)
  let c1 := (List.range 48).foldl (fun (c : Chan) i =>
    if t.getD i 0 < -320 ∨ 2400 < t.getD i 0 then c.markSuspect i else c) c
  ({ c1 with power := { c1.power with temps := t, hot := c1.power.hot.filter (fun h => decide (64 < pairGap t h)) } }).readTemps

/-! ## Stopped fields (R387) -/

/-- Fields of the tiles a grove maps that are stopped: HEAT ends once none is (R387). -/
def Chan.heatEnds (c : Chan) : Chan :=
  groveNums.foldl (fun (c : Chan) g =>
    if bits (c.grove g).causes 2 1 = 1 && !c.heatStops g then (c.unpause g 2).stream g else c) c

/-- ACLK returns to the stopped fields at or below 90 °C (R387). -/
def Chan.fieldsReturn (c : Chan) : Chan :=
  let stopped := c.fld F.TH_TJ_STOPPED
  let back := (List.range 6).filter (fun f => bits stopped f 1 = 1 && decide (c.fieldTemps.getD f 0 ≤ 1440))
  if back = [] then c
  else (c.setFld F.TH_TJ_STOPPED (back.foldl (fun m f => m - 2 ^ f) stopped)).heatEnds

/-! ## Coolant (R388, R389) -/

/-- The field temperatures of the module. -/
def State.allTemps (s : State) : List Int := (List.range 8).flatMap (fun c => (s.chan c).fieldTemps)

/-- Keep the hottest field temperature and when it last rose. -/
def State.noteHottest (s : State) : State :=
  let h := (maxTemp s.allTemps).getD 0
  s.onPort (fun p => { p with power := { p.power with
    hottest := h, lastRise := if p.power.hottest < h then p.clock else p.power.lastRise } })

/-- A sudden coolant stop (R388). -/
def State.coolantStop (s : State) : State :=
  if s.pd.power.coolant then s
  else
    ((s.onPort (fun p => { p with power := { p.power with coolant := true } })).pdFlag
      F.TH_MOD_STATUS_COOLANT_STOP F.TH_MOD_COUNT_COOLANT_STOP).freezeAll 2

/-- FLOW_LOSS_N asserted and in use. -/
def State.flowLost (s : State) : Bool := s.pd.power.flowLoss && s.pd.fld F.TH_MOD_CFG_FLOW_EN = 1

/-- Freeze cause COOLANT clears (R388): flow present or ignored, hottest field at or below 85 °C, no rise in the last 100 ms. -/
def State.coolantCheck (s : State) : State :=
  if s.pd.power.coolant && !s.flowLost && decide (s.pd.power.hottest ≤ 1360)
      && decide (s.pd.power.lastRise + 80000000 ≤ s.pd.clock) then
    (s.onPort (fun p => { p with power := { p.power with coolant := false } })).thawAll 2
  else s

/-- Whether a 1 ms window of samples, newest first, shows a field rising faster than `rate` while the power did not rise
(R388; log entry 66). -/
def suddenRise (w : List (List Int × Nat)) (rate : Nat) : Bool :=
  decide (11 ≤ w.length) &&
    (List.range 10).all (fun k => decide ((w.getD k ([], 0)).2 ≤ (w.getD (k + 1) ([], 0)).2)) &&
    (List.range 6).any (fun f => decide ((rate : Int) < (w.getD 0 ([], 0)).1.getD f 0 - (w.getD 10 ([], 0)).1.getD f 0))

/-- A thermal trip latches `STATUS_WORD` (R373) and shuts the module down (R389). -/
def State.thermalTrip (s : State) : State := (s.latch 4).shutdown .thermalHold (unsigned 24 s.pd.power.hottest)

/-- `TEMP_SAMPLE` (R383, R387-R389): every 100 µs. -/
def execTempSample (c : Fin 8) (temps : List Int) (s : State) : Host.Outcome State Fault Refusal :=
  let s1 := (s.onChan c (fun c =>
    let c1 := c.sampleTemps temps
    ({ c1 with power := { c1.power with window := ((c1.fieldTemps, c1.fld F.TH_POWER_POWER) :: c1.power.window).take 11 } }).fieldsReturn)).noteHottest
  let ch := s1.chan c
  .next (
    if ch.fieldTemps.any (fun t => decide (1600 ≤ t)) then (if s1.pd.power.regOff then s1 else s1.thermalTrip)
    else if (!ch.down && suddenRise ch.power.window (s1.pd.fld F.TH_MOD_CFG_DTDT))
        || (s1.flowLost && (List.range 8).any (fun k => !(s1.chan k).down)) then s1.coolantStop
    else s1.coolantCheck)

/-- `SENSOR_DISAGREE` (R383): by more than 4 K for more than 10 ms. -/
def execSensorDisagree (c : Fin 8) (field hot : Nat) (s : State) : Host.Outcome State Fault Refusal :=
  let h := 4 * field + hot
  chanStep s c (fun c =>
    if 6 ≤ field || 4 ≤ hot || c.suspect (2 * h) || c.suspect (2 * h + 1) || decide (pairGap c.power.temps h ≤ 64)
        || c.power.hot.contains h then c
    else
      (({ c with power := { c.power with hot := c.power.hot ++ [h] } }).flagEvent F.TH_STATUS_PAIR_DISAGREE
        F.TH_COUNT_PAIR_DISAGREE .hwFault 2 none).readTemps)

/-- Six times the reference value of R383: the prediction, and the mean of the field's other ruling readings. -/
def Chan.reference6 (c : Chan) (field hot : Nat) (predicted : Int) : Int :=
  3 * predicted + ((List.range 4).filter (· ≠ hot)).foldl (fun (a : Int) k => a + c.power.spots.getD (4 * field + k) 0) 0

/-- `SENSOR_SUSPECT` (R383): the sensor further from the reference; between equals the choice is free (log entry 65). -/
def execSensorSuspect (c : Fin 8) (field hot : Nat) (predicted : Int) (s : State) : Host.Outcome State Fault Refusal :=
  let h := 4 * field + hot
  chanStep s c (fun c =>
    if 6 ≤ field || 4 ≤ hot || !c.power.hot.contains h then c
    else
      let r := c.reference6 field hot predicted
      let (a, b) := pairAt c.power.temps h
      let da := (6 * a - r).natAbs
      let db := (6 * b - r).natAbs
      let (n, c1) := if da = db then c.draw else (if da < db then 1 else 0, c)
      ((({ c1 with power := { c1.power with hot := c1.power.hot.filter (· ≠ h) } }).markSuspect (2 * h + n % 2))).readTemps)

/-- `INLET_SAMPLE` (R384): the higher of the sensors within 0-80 °C; 45 °C when there is none. -/
def execInletSample (t0 t1 : Int) (s : State) : Host.Outcome State Fault Refusal :=
  let good := [t0, t1].filter (fun t => decide (0 ≤ t) && decide (t ≤ 1280))
  .next (match maxTemp good with
    | some t => s.onPort (fun p => { p with power := { p.power with tin := t } })
    | none => s.onPort (fun p => { (p.setFld F.TH_MOD_STATUS_INLET_FAIL 1) with power := { p.power with tin := 720 } }))

/-! ## θ (R385, R386) -/

/-- A binary32 word times 2^149; 0 for a NaN or a negative number. -/
def scaled32 (w : Word) : Nat :=
  match binary32.decode w.toNat with
  | .fin false m e => m * 2 ^ (e + 149).toNat
  | .inf false => 2 ^ 400
  | _ => 0

/-- The θ cap: (95 °C − T_in) ÷ θ_ch, θ_ch limited below to half the nominal, in whole watts (R385). -/
def thetaCapOf (theta nom : Word) (tin : Int) : Nat :=
  let th2 := max (2 * scaled32 theta) (scaled32 nom)
  (1520 - tin).toNat * 2 * 2 ^ 149 / (16 * th2)

/-- θ above 1.5 times the nominal. -/
def thetaHigh (theta nom : Word) : Bool := decide (3 * scaled32 nom < 2 * scaled32 theta)

/-- `THETA_UPDATE` (R385, R386): θ_ch keeps its value below 1,000 W. -/
def execThetaUpdate (c : Fin 8) (s : State) : Host.Outcome State Fault Refusal :=
  let tin := s.pd.power.tin
  chanStep s c (fun c =>
    if c.down then c
    else
      let p := c.fld F.TH_POWER_POWER
      let nom := c.reg R.TH_THETA_NOM
      let old := c.power.theta
      let new := if p < 1000 then old else some (Config.thetaAverage old ((maxTemp c.fieldTemps).getD 0 - tin) p)
      match new with
      | none => c
      | some th =>
        let c1 : Chan := { c.putReg R.TH_THETA th with power := { c.power with theta := some th, thetaCap := some (thetaCapOf th nom tin) } }
        if thetaHigh th nom then
          if (old.map (fun o => thetaHigh o nom)).getD false then c1.setFld F.TH_STATUS_THETA_ALERT 1
          else c1.flagEvent F.TH_STATUS_THETA_ALERT F.TH_COUNT_THETA_ALERT .hwFault 2 none
        else c1)

/-! ## Heat trim and gating (R387) -/

/-- `HEAT_TRIM` (R387): every 1 ms. -/
def execHeatTrim (c : Fin 8) (s : State) : Host.Outcome State Fault Refusal :=
  chanStep s c (fun c =>
    let fs := c.fieldTemps
    let p := c.fld F.TH_POWER_POWER
    if c.down then c
    else if fs.any (fun t => decide (1520 < t)) then
      { c.setFld F.TH_STATUS_TRIM 1 with power := { c.power with trim := some (95 * capBy p c.power.trim / 100) } }
    else if fs.all (fun t => decide (t ≤ 1488)) then
      match c.power.trim with
      | none => c
      | some t => { c with power := { c.power with trim := if 4000 ≤ 105 * t / 100 then none else some (105 * t / 100) } }
    else c)

/-- `FIELD_GATE` (R387, R390): the groves with tiles in the field pause for HEAT, one that replays once its replay ends. -/
def execFieldGate (c : Fin 8) (field : Fin 6) (s : State) : Host.Outcome State Fault Refusal :=
  let ch := s.chan c
  let f := field.val
  .next (
    if ch.down || decide (ch.fieldTemps.getD f 0 ≤ 1520) || bits (ch.fld F.TH_TJ_STOPPED) f 1 = 1 then s
    else
      (s.onChan c (fun c =>
        let c1 := (c.setFld F.TH_TJ_STOPPED (c.fld F.TH_TJ_STOPPED + 2 ^ f)).flag F.TH_STATUS_FIELD_STOP F.TH_COUNT_FIELD_STOP
        groveNums.foldl (fun (c : Chan) g =>
          if (c.tilesOf g).any (fun i => fieldOf i = f) && !(c.grove g).replay then c.pauseGrove g 2 else c) c1)).latch 4)

/-- `FLOW_LOSS` (R388, R447): FLOW_LOSS_N asserted for 100 µs. -/
def execFlowLoss (s : State) : Host.Outcome State Fault Refusal :=
  let s1 := s.onPort (fun p => { p with power := { p.power with flowLoss := true } })
  .next (if s1.pd.powered && s1.flowLost then s1.coolantStop else s1)

/-- `FLOW_LOSS_DEASSERT` (R388). -/
def execFlowLossDeassert (s : State) : Host.Outcome State Fault Refusal :=
  .next (s.onPort (fun p => { p with power := { p.power with flowLoss := false } })).coolantCheck

/-- `COOLANT_KEEP_EXPIRY` (R388, R389): COOLANT has not cleared within `KEEP_S`. -/
def execCoolantKeepExpiry (s : State) : Host.Outcome State Fault Refusal :=
  .next (if s.pd.power.coolant then s.shutdown .hwFault (unsigned 24 s.pd.power.hottest) else s)

end Sys2Proof.Machine
end

