-- ==== Sys2Proof/Machine/Security.lean ====
section
/-! DEFINITION. Keys, attestation, alarms, firmware updates, and the heartwood cell (R303, R395, R398-R400, R421-R440). -/

namespace Sys2Proof.Machine

/-! ## The defect map in flash (R398-R400) -/

/-- Bytes of the defect map region. -/
def dmapSize : Nat := 4 * 2 ^ 20

/-- The records as they lie in flash. -/
def PortDie.dmapBytes (p : PortDie) : Bytes := Config.factoryRecord ++ p.flash.dmap

/-- A byte of the region; unwritten space reads 0xFF. -/
def PortDie.dmapByte (p : PortDie) (a : Nat) : Byte := p.dmapBytes.getD a 0xFF

/-- Whether a record header at the front of a byte string is well formed, and the record's length (R398, R400; log entry 67). -/
def mapRecordLen (b : Bytes) (room : Nat) : Option Nat :=
  let n := 32 + 16 * leAt b 20 4 + 1280
  if leAt b 0 4 = 0x4D444B50 ∧ leAt b 4 2 = 1 ∧ leAt b 6 1 ≤ 2 ∧ leAt b 7 1 ≤ 1 ∧ 1 ≤ leAt b 20 4 ∧ leAt b 20 4 ≤ 4096 ∧ leAt b 25 7 = 0
      ∧ n ≤ room ∧ n ≤ b.length then some n else none

/-- Whether a record verifies: record 0 under the factory key, a later one under the device key, each for this module. -/
def mapRecordOk (first : Bool) (r : Bytes) : Bool :=
  let n := r.length - 1280
  Config.falconVerify (if first then Config.factoryRoot else Config.deviceKey) (slice r 0 n) (slice r n 1280)
    && leAt r 12 8 = Config.serial.toNat && (leAt r 6 1 = 0) = first && (leAt r 7 1 = 0) = first

/-- What reading the map finds: the accepted records, how many were skipped, and whether it ends at a malformed header
(R400). -/
structure MapRead where
  records : List Bytes
  skipped : Nat
  trunc   : Bool
deriving DecidableEq, Repr

/-- Read records in order; the first argument bounds their number. -/
def readMapRecords : Nat → Bool → Nat → Bytes → MapRead → MapRead
  | 0, _, _, _, m => m
  | k + 1, first, room, b, m =>
    if room < 4 || b.length < 4 || leAt b 0 4 = 0xFFFFFFFF then m
    else
      match mapRecordLen b room with
      | none => { m with trunc := true }
      | some n =>
        readMapRecords k false (room - n) (b.drop n)
          (if mapRecordOk first (slice b 0 n) then { m with records := m.records ++ [slice b 0 n] } else { m with skipped := m.skipped + 1 })

/-- The defect map as a channel reads it. -/
def PortDie.mapRead (p : PortDie) : MapRead := readMapRecords 3160 true dmapSize p.dmapBytes ⟨[], 0, false⟩

/-! ## Keys (R421-R424) -/

/-- Whether the signature of a key command verifies under a registered owner key. -/
def PortDie.ownerSigned (p : PortDie) (m sig : Bytes) : Bool := (p.keysOf 0).any (fun k => Config.falconVerify k.key m sig)

/-- Places of a key table (R421). -/
def keyPlaces (kind : Nat) : Nat := if kind = 0 then 2 else if kind = 1 then 32 else 16

/-- Where a key record is wrong in itself (R423, R424). -/
def badKeyRecord (r : Bytes) : List (Bool × Nat) :=
  let kind := leAt r 4 1
  let role := leAt r 5 1
  let tenant := decide (kind = 1 ∧ role = 2)
  [(decide (leAt r 0 4 ≠ 0x524B4B50), 0), (decide (2 < kind), 4), (decide (if kind = 1 then 2 < role else role ≠ 0), 5),
   (!tenant && decide (leAt r 6 1 ≠ 0xFF), 6), (decide (leAt r 7 1 ≠ 0), 7), (decide (leAt r 12 8 ≠ Config.serial.toNat), 12),
   (decide (leAt r 1813 3 ≠ 0), 1813)]

/-- One more accepted key command. -/
def PortDie.bumpCounter (p : PortDie) : PortDie :=
  p.setFld F.SEC_KEY_COUNTER_COUNTER (p.fld F.SEC_KEY_COUNTER_COUNTER + 1)

/-- `KEY_ADD` (R423, R424). -/
def execKeyAdd (q : Issue) (record : Bytes) (s : State) : Host.Outcome State Fault Refusal :=
  .next (s.modCmd q 0xB1 [opBytes 0 3112 record] false (fun d => badKeyRecord d.params) (fun d s =>
    let r := d.params
    let k : KeyRec := ⟨leAt r 4 1, leAt r 5 1, leAt r 6 1, slice r 20 1793⟩
    if leAt r 8 4 ≠ s.pd.fld F.SEC_KEY_COUNTER_COUNTER then s.replyM d .stateConflict [] []
    else if !s.pd.ownerSigned (slice r 0 1832) (slice r 1832 1280) then (s.replyM d .signatureFail [] []).sigFail
    else if (s.pd.keyFor (fprOf k.key)).isSome then s.replyM d .stateConflict [] []
    else if keyPlaces k.kind ≤ (s.pd.keysOf k.kind).length then s.replyM d .capacity [] []
    else (s.onPort (fun p => { p.bumpCounter with keys := p.keys ++ [k] })).replyM d .ok [] []))

/-- The 46 bytes that authorise a removal (R423). -/
def removalMessage (counter : Nat) (fpr : Bytes) : Bytes :=
  ascii "PLK4824-KEY-REMOVE" ++ leBytes 8 Config.serial.toNat ++ leBytes 4 counter ++ fpr

/-- `KEY_REMOVE` (R423, R424): a host or owner key's sessions end after the reply. -/
def execKeyRemove (q : Issue) (fpr sig : Bytes) (s : State) : Host.Outcome State Fault Refusal :=
  .next (s.modCmd q 0xB2 [opBytes 0 16 fpr, opBytes 16 1280 sig] false (fun _ => []) (fun d s =>
    let f := slice d.params 0 16
    if !s.pd.ownerSigned (removalMessage (s.pd.fld F.SEC_KEY_COUNTER_COUNTER) f) (slice d.params 16 1280) then
      (s.replyM d .signatureFail [] []).sigFail
    else
      match s.pd.keyFor f with
      | none => s.badParamM d 0
      | some k =>
        if k.kind = 0 ∧ (s.pd.keysOf 0).length = 1 then s.replyM d .stateConflict [] []
        else
          let s1 := (s.onPort (fun p => { p.bumpCounter with keys := p.keys.filter (fun x => fprOf x.key ≠ f) })).replyM d .ok [] []
          ((s1.pd.sessions.filter (fun x => x.fpr = f)).map (·.id)).foldl (fun s i => s.endSession i) s1))

/-- `KEY_LIST` (R303). -/
def execKeyList (q : Issue) (s : State) : Host.Outcome State Fault Refusal :=
  .next (s.modCmd q 0xB3 [] false (fun _ => []) (fun d s => s.replyM d .ok [] (leBytes 4 s.pd.keys.length
    ++ s.pd.keys.flatMap (fun k => fprOf k.key ++ leBytes 1 k.kind ++ leBytes 1 k.role ++ leBytes 1 k.mask ++ [0]))))

/-! ## Attestation (R427) -/

/-- Measurement of the running image: none runs in RECOVERY. -/
def PortDie.imageDigest (p : PortDie) : Bytes := digest p.fwHeader

/-- The attestation record but its signature, bytes 0-3,527 (R427). -/
def State.attestBody (s : State) (nonce : Bytes) : Bytes :=
  let p := s.pd
  let m := p.mapRead
  let flags := p.fld F.PD_FW_FALLBACK + 2 * (if m.trunc then 1 else 0) + 4 * p.fld F.MET_STATUS_UNBOUND
  let owners := (p.keysOf 0).flatMap (fun k => fprOf k.key)
  leBytes 4 0x54414B50 ++ leBytes 2 1 ++ leBytes 2 flags ++ leBytes 8 Config.serial.toNat ++ slice nonce 0 32 ++ p.imageDigest
    ++ leBytes 4 p.fwver ++ leBytes 2 (p.fld F.SEC_SVN_ACTIVE_SVN) ++ leBytes 2 (p.fld F.SEC_SVN_MIN_SVN)
    ++ digest (m.records.flatMap id) ++ leBytes 4 m.records.length ++ leBytes 4 (s.pdLive R.SEC_STATUS).toNat
    ++ (List.range 8).flatMap (fun c => slice (s.chan c).measured 0 32) ++ slice owners 0 32
    ++ leBytes 4 (p.fld F.SEC_KEY_COUNTER_COUNTER) ++ slice ((p.bound.map fprOf).getD []) 0 16 ++ leBytes 4 Config.cellFwSum.toNat
    ++ leBytes 2 p.modid ++ zeros 6 ++ slice Config.deviceKey 0 1793 ++ zeros 7 ++ slice Config.deviceCert 0 1280

/-- `ATTEST` (R427): while an anchor hosts attestation. -/
def execAttest (q : Issue) (nonce : Bytes) (s : State) : Host.Outcome State Fault Refusal :=
  .next (s.modCmd q 0xB0 [opBytes 0 32 nonce] (decide (s.pd.services.getD 0 0xFF = 0xFF)) (fun _ => []) (fun d s =>
    let body := s.attestBody (slice d.params 0 32)
    let (n, s1) := s.draw
    s1.replyM d .ok [] (body ++ slice (Config.falconSign Config.deviceSeed body n) 0 1280)))

/-! ## Alarms (R428-R430, R436) -/

/-- `ALARM_CFG` (R429): classes TAMPER, GLITCH, FW_AUTH and ATTEST. -/
def execAlarmCfg (q : Issue) (cls response : Nat) (s : State) : Host.Outcome State Fault Refusal :=
  .next (s.modCmd q 0xB4 [(0, 1, cls), (1, 1, response)] false
    (fun d => [(decide (4 ≤ pAt d 0 1), 0), (decide (3 ≤ pAt d 1 1), 1)]) (fun d s =>
    let s1 := (s.pdRmw R.SEC_ALARM_CFG (BitVec.ofNat 32 (3 * 4 ^ cls)) (BitVec.ofNat 32 (response * 4 ^ cls))).2
    let r := s1.strobeMg 4
    let (st, item, off) := r.1
    r.2.replyM d st (strobeDetail st item off) []))

/-- Whether the alarm monitors are armed (R394). -/
def PortDie.armed (p : PortDie) : Bool := p.powered && decide (1 ≤ p.boot) && !p.resetPin

/-- `MESH_ALARM` (R428): a lasting condition raises its alarm once. -/
def execMeshAlarm (s : State) : Host.Outcome State Fault Refusal :=
  .next (if !s.pd.armed || s.pd.meshOpen then s else (s.onPort (fun p => { p with meshOpen := true })).alarm 0)

/-- `GLITCH` (R428). -/
def execGlitch (s : State) : Host.Outcome State Fault Refusal := .next (if s.pd.armed then s.alarm 2 else s)

/-- The port die hears of a breach (R436). -/
def State.breachHeard (s : State) : State :=
  ((s.pdFlag F.MET_STATUS_BREACH F.MET_COUNT_BREACH).onPort (fun p => p.setFld F.MET_BREACHES_BREACHES (s.cell.breachN % 65536))).alarm 1

/-- `SEAL_BREACH` (R436): counted and logged by the cell, reported when the port die can hear it. -/
def execSealBreach (s : State) : Host.Outcome State Fault Refusal :=
  let c := s.cell
  let r : BreachRec := ⟨c.breachN + 1, c.counts, c.readouts⟩
  let s1 : State := { s with cell := { c with
    broken := true, breachN := c.breachN + 1, breaches := newest 64 (c.breaches ++ [r]) } }
  .next (if c.link && s.pd.armed then s1.breachHeard else s1)

/-! ## Firmware updates (R395, R425) -/

/-- Whether an image verifies (R425). -/
def imageOk (minSvn : Nat) (b : Bytes) : Bool :=
  let pd := leAt b 12 4
  let ch := leAt b 16 4
  leAt b 0 4 = 0x57464B50 && decide (128 + pd + ch + 1280 ≤ b.length) && decide (minSvn ≤ leAt b 6 2)
    && digest (slice b 128 pd) = slice b 20 32 && digest (slice b (128 + pd) ch) = slice b 52 32
    && Config.falconVerify Config.factoryRoot (slice b 0 128) (slice b (128 + pd + ch) 1280)

/-- `FW_UPDATE` (R303, R395). -/
def execFwUpdate (q : Issue) (ch line len : Nat) (s : State) : Host.Outcome State Fault Refusal :=
  .next (s.modCmd q 0xC4 [(0, 1, ch), (4, 4, line), (8, 4, len)] false (fun d => [(decide (8 ≤ pAt d 0 1), 0)]) (fun d s =>
    s.replyM d .accepted [] []))

/-- The ACCEPTED module command that a completion row names. -/
def State.acceptedM (s : State) (q : Issue) (op : Nat) : Option Datagram :=
  (s.pd.modQueue q.session).accepted.find? (fun d => d.seq = q.seq && d.opcode = op)

/-- `FW_UPDATE` ends (R303, R395, R425, R428): the inactive image is written and marked active, or the image fails. A line that
reads uncorrectable gives no image. -/
def execFwUpdateComplete (q : Issue) (s : State) : Host.Outcome State Fault Refusal :=
  .next (match s.acceptedM q 0xC4 with
    | none => s
    | some d =>
      let c := s.chan (pAt d 0 1)
      let line := pAt d 4 4
      let len := pAt d 8 4
      let b := c.hbmRead (64 * line) len
      if c.poison.any (fun l => decide (line ≤ l) && decide (64 * l < 64 * line + len)) || !imageOk (s.pd.fld F.SEC_SVN_MIN_SVN) b then
        (s.completeM d .signatureFail []).sigFail
      else
        let k := 1 - s.pd.flash.active % 2
        (s.onPort (fun p => { p with flash := { p.flash with images := p.flash.images.set k b, active := k } })).completeM d .ok [])

/-! ## The heartwood cell (R431-R440) -/

/-- `CELL_ENERGY_SAMPLE` (R432, R433): the counts grow by what was integrated; each Wh of the total is written. -/
def execCellEnergySample (mwh : List Nat) (s : State) : Host.Outcome State Fault Refusal :=
  let c := s.cell
  let counts := (List.range 9).map (fun i => (c.counts.getD i 0 + mwh.getD i 0) % 2 ^ 64)
  .next { s with cell := if c.nv.getD 0 0 + 1000 ≤ counts.getD 0 0 then { c with counts := counts, nv := counts, torn := false }
    else { c with counts := counts } }

/-- `CELL_POWER_LOSS` (R433): the write of all nine counts completes, or the previous set stands. -/
def execCellPowerLoss (complete : Bool) (s : State) : Host.Outcome State Fault Refusal :=
  let c := s.cell
  .next { s with cell := if complete then { c with nv := c.counts, torn := false } else { c with torn := true } }

/-- The port die takes the cell's figures (R440). -/
def State.takeCell (s : State) : State :=
  s.onPort (fun p =>
    let p1 := (List.range 9).foldl (fun (p : PortDie) i =>
      let v := s.cell.counts.getD i 0
      (p.putReg (R.MET_E_LO + 8 * i) (BitVec.ofNat 32 v)).putReg (R.MET_E_LO + 8 * i + 4) (BitVec.ofNat 32 (v / 2 ^ 32))) p
    (p1.setFld F.MET_BREACHES_BREACHES (s.cell.breachN % 65536)).setFld F.MET_READOUTS_READOUTS s.cell.readouts)

/-- `CELL_REPORT` (R436, R440): the cell answers; a breach that the port die has not heard of is reported. -/
def execCellReport (s : State) : Host.Outcome State Fault Refusal :=
  let s0 : State := { s with cell := { s.cell with link := true } }
  .next (if !s.pd.armed then s
    else
      let s1 := if s.pd.fld F.MET_BREACHES_BREACHES ≠ s.cell.breachN % 65536 then s0.breachHeard else s0
      s1.takeCell)

/-- `CELL_LINK_TIMEOUT` (R439). -/
def execCellLinkTimeout (s : State) : Host.Outcome State Fault Refusal :=
  .next (if !s.pd.armed || !s.cell.link then s
    else ({ s with cell := { s.cell with link := false } } : State).pdFlag F.MET_STATUS_LINK_ERR F.MET_COUNT_LINK_ERR)

/-- A signed readout (R435); its branch figures are 0 where the mask bit is clear. -/
def Cell.readout (c : Cell) (mask : Nat) (nonce : Bytes) (draw : Nat) : Bytes :=
  let body := leBytes 4 0x4D454B50 ++ leBytes 2 1 ++ leBytes 1 mask ++ leBytes 1 ((if c.broken then 0 else 1) + if c.gapSeen then 2 else 0)
    ++ leBytes 8 Config.cellSerial.toNat ++ leBytes 8 Config.serial.toNat ++ slice nonce 0 32 ++ leBytes 4 (c.readouts + 1)
    ++ leBytes 2 c.breachN ++ zeros 2 ++ leBytes 4 Config.cellFwSum.toNat ++ zeros 4 ++ leBytes 8 (c.counts.getD 0 0)
    ++ (List.range 8).flatMap (fun k => leBytes 8 (if bits mask k 1 = 1 then c.counts.getD (1 + k) 0 else 0))
  body ++ slice (Config.falconSign Config.cellSeed body draw) 0 1280

/-- The apportion block (R435). -/
def State.apportionBlock (s : State) (mask : Nat) : Bytes :=
  leBytes 1 mask ++ leBytes 1 1 ++ zeros 6 ++ ((List.range 8).filter (fun c => bits mask c 1 = 1)).flatMap (fun c =>
    let a := mapGet (fun _ => Apport.reset) s.pd.apport c
    leBytes 8 a.unassigned ++ groveNums.flatMap (fun g =>
      let v := (s.chan c).grove g
      leBytes 2 v.job ++ leBytes 1 g ++ leBytes 1 (if v.st = .empty then 0 else 1) ++ zeros 4 ++ leBytes 8 (mapGet (fun _ => 0) a.groves g)))

/-- `ENERGY_READ` (R435, R439): a tenant may name only channels it sees (R288). -/
def execEnergyRead (q : Issue) (chmask : Nat) (nonce : Bytes) (s : State) : Host.Outcome State Fault Refusal :=
  .next (s.modCmd q 0xB5 [(0, 1, chmask), opBytes 4 32 nonce] false (fun _ => []) (fun d s =>
    if (List.range 8).any (fun c => bits chmask c 1 = 1 && !s.maySee d c) then s.replyM d .authFail [] []
    else if !s.cell.link then s.replyM d .hwFault [] []
    else
      let (n, s1) := s.draw
      let data := s.cell.readout chmask (slice d.params 4 32) n
      let s2 : State := { s1 with cell := { s1.cell with readouts := s1.cell.readouts + 1, gapSeen := false } }
      s2.replyM d .ok [] (data ++ (if s.pd.fld F.MET_CFG_APPORTION = 1 then s.apportionBlock chmask else []))))

/-- `MET_INFO` (R439, R440). -/
def execMetInfo (q : Issue) (s : State) : Host.Outcome State Fault Refusal :=
  .next (s.modCmd q 0xB6 [] false (fun _ => []) (fun d s =>
    if !s.cell.link then s.replyM d .hwFault [] []
    else s.replyM d .ok [] (leBytes 8 Config.cellSerial.toNat ++ leBytes 4 Config.cellFwSum.toNat ++ slice Config.cellFwDigest 0 32
      ++ leBytes 1 (bits (s.pdLive R.MET_STATUS).toNat 8 3) ++ [0] ++ leBytes 2 s.cell.breachN ++ slice Config.cellKey 0 1793 ++ zeros 7
      ++ slice Config.cellCert 0 1280)))

/-! ## Apportionment (R438) -/

/-- One interval of a channel's accounts: the branch increment, H_c, the interval in ms, and the product cycles of each loaded
grove. -/
def Apport.interval (a : Apport) (e hold ms : Nat) (cyc : List (Nat × Nat)) : Apport :=
  let e1 := e + a.carry
  let n := cyc.length
  if n = 0 then { a with unassigned := a.unassigned + e1, carry := 0 }
  else
    let sum := cyc.foldl (fun t x => t + x.2) 0
    let hp := if sum = 0 then e1 else min e1 (hold * ms / 3600)
    let part (x : Nat × Nat) : Nat := hp / n + if sum = 0 then 0 else (e1 - hp) * x.2 / sum
    { a with
      groves := cyc.foldl (fun m x => mapSet (fun _ => 0) m x.1 (mapGet (fun _ => 0) m x.1 + part x)) a.groves
      carry := e1 - cyc.foldl (fun t x => t + part x) 0 }

/-- Groves whose load has completed, with their product cycles. -/
def Chan.cyclesOf (c : Chan) (cycles : List (Nat × Nat × Nat)) : List (Nat × Nat) :=
  (groveNums.filter (fun g => (c.grove g).st ≠ .empty)).map (fun g =>
    (g, ((cycles.find? (fun x => x.1 = c.idx && x.2.1 = g)).map (·.2.2)).getD 0))

/-- `APPORTION` (R438): every `APP_INT` ms, each channel out of OFF. -/
def execApportion (cycles : List (Nat × Nat × Nat)) (s : State) : Host.Outcome State Fault Refusal :=
  .next ((List.range 8).foldl (fun s c =>
    let ch := s.chan c
    if ch.down then s
    else s.onPort (fun p =>
      let a := mapGet (fun _ => Apport.reset) p.apport c
      let now := p.branch c
      let a1 : Apport := { a.interval (now - a.last) ch.holdW (p.fld F.MET_CFG_APP_INT) (ch.cyclesOf cycles) with last := now }
      { p with apport := mapPut p.apport c a1 })) s)

end Sys2Proof.Machine
end

