-- ==== Sys2Proof/Machine/DefectMap.lean ====
section
/-! DEFINITION. Field row maps, the composed defect map, what a BIST adds to it, and the records that keep it (R13, R17,
R398-R405). -/

namespace Sys2Proof.Machine

/-! ## Field row maps (R13, R17, R399) -/

/-- o_r of an offset vector. -/
def rowOffset (v r : Nat) : Nat := bits v (2 * r) 2

/-- Physical row of logical row `r`. -/
def physRow (v r : Nat) : Nat := r + rowOffset v r

/-- Logical row of a physical row; none where it is withheld or unused. -/
def logicalRow (v p : Nat) : Option Nat := (List.range 30).find? (fun r => physRow v r = p)

/-- The vector that withholds the rows of a list. -/
def vectorFor (w : List Nat) : Nat :=
  let kept := (List.range 32).filter (fun p => !w.contains p)
  (List.range 30).foldl (fun a r => a + (kept.getD r r - r) * 4 ^ r) 0

/-- Logical row of a channel row inside its field: Y counts from the bark in every channel. -/
def rowIn (idx y : Nat) : Nat := if idx < 4 then y % 30 else 29 - y % 30

/-- Channel row of logical row `r` of local field `f`. -/
def rowY (idx f r : Nat) : Nat := f / 2 * 30 + (if idx < 4 then r else 29 - r)

/-- Module field number of a local field. -/
def fieldNum (idx f : Nat) : Nat := (if idx < 4 then f / 2 else 5 - f / 2) * 8 + 2 * (idx % 4) + f % 2

/-- A tile site by X and by the physical row of its field, fields counted from the bark: 32 × field row + physical row
(log entry 67). -/
abbrev Site := Nat × Nat

def siteField (s : Site) : Nat := 2 * (s.2 / 32) + s.1 / 24

/-! ## The composed map (R399-R401) -/

/-- Entries of a record. -/
def recordEntries (r : Bytes) : List Bytes := (List.range (leAt r 20 4)).map (fun k => slice r (32 + 16 * k) 16)

/-- `ROWS` entries of the accepted records: field, vector, `SEQ`; in order. -/
def rowsEntries (recs : List Bytes) : List (Nat × Nat × Nat) :=
  recs.flatMap (fun r => ((recordEntries r).filter (fun e => leAt e 0 1 = 1)).map (fun e => (leAt e 1 1, leAt e 8 8, leAt r 8 4)))

/-- The vector in force for a field, and the `SEQ` of the record that gives it. -/
def rowsInForce (recs : List Bytes) (field : Nat) : Nat × Nat :=
  (((rowsEntries recs).reverse.find? (fun e => e.1 = field)).map (·.2)).getD (0, 0)

/-- The vector of a field that the record `seq` gives. -/
def rowsOf (recs : List Bytes) (field seq : Nat) : Nat :=
  (((rowsEntries recs).find? (fun e => e.1 = field && e.2.2 = seq)).map (·.2.1)).getD 0

/-- A knot recorded at (x, y) under vector `v`, under vector `now`; none when it falls in a withheld row. -/
def carryKnot (idx x y v now : Nat) : Option (Nat × Nat) :=
  (logicalRow now (physRow v (rowIn idx y))).map (fun r => (x, rowY idx (2 * (y / 30) + x / 24) r))

/-- Knots of a channel (R401): once each. -/
def composedKnots (recs : List Bytes) (idx : Nat) : List Knot :=
  (recs.flatMap recordEntries).foldl (fun ks e =>
    if leAt e 0 1 ≠ 2 || leAt e 1 1 ≠ idx then ks
    else
      let x := leAt e 2 1
      let y := leAt e 3 1
      let f := fieldNum idx (2 * (y / 30) + x / 24)
      match carryKnot idx x y (rowsOf recs f (leAt e 8 4)) (rowsInForce recs f).1 with
      | some (x, y) => if ks.any (fun k => k.x = x && k.y = y) then ks else ks ++ [⟨x, y, leAt e 4 1, true⟩]
      | none => ks) []

/-- A channel with the composed map (R401). -/
def Chan.compose (c : Chan) (recs : List Bytes) : Chan :=
  { c with rows := (List.range 6).map (fun f => (rowsInForce recs (fieldNum c.idx f)).1), knots := composedKnots recs c.idx }

/-! ## Refinement by a BIST (R402, R403, R405) -/

/-- Sites of a channel's knots. -/
def Chan.knotSites (c : Chan) : List (Site × Knot) :=
  c.knots.map (fun k =>
    let f := 2 * (k.y / 30) + k.x / 24
    ((k.x, 32 * (k.y / 30) + physRow (c.rows.getD f 0) (rowIn c.idx k.y)), k))

/-- Rows of a field from its bark edge outward. -/
def outward (idx : Nat) : List Nat := if idx < 4 then List.range 32 else (List.range 32).reverse

/-- The row with the most knots, at least 4, outside a list; ties go to the row nearer the top edge. -/
def worstRow (count : Nat → Nat) (out : List Nat) : Option Nat :=
  (List.range 32).foldl (fun best p =>
    if out.contains p || decide (count p < 4) then best
    else match best with
      | some b => if count b < count p then some p else some b
      | none => some p) none

/-- Rows a field withholds (R403): router failures first, then rows of 4 or more knots. -/
def withheldRows (routers : List Nat) (count : Nat → Nat) : List Nat :=
  let w := routers.take 2
  if 2 ≤ w.length then w
  else match worstRow count w with
    | none => w
    | some p => let w1 := w ++ [p]
      if 2 ≤ w1.length then w1 else match worstRow count w1 with | none => w1 | some q => w1 ++ [q]

/-- What a BIST leaves: row vectors, knots, the knots it added, and the bands without a router failure. -/
structure Refined where
  rows  : List Nat
  knots : List Knot
  fresh : Nat
  bands : Nat
  fits  : Bool               -- no field has router failures in more than two rows
deriving DecidableEq, Repr

/-- Recompute the withheld rows and the knots from the knots and a BIST's findings; a knot of cause 6 is a router failure (R399). -/
def Chan.refine (c : Chan) (badTiles badRouters : List Site) : Refined :=
  let old := c.knotSites
  let sites := old.map (·.1) ++ (badTiles.eraseDups.filter (fun s => !(old.map (·.1)).contains s))
  let per := (List.range 6).map (fun f =>
    let inF := (sites.filter (fun s => siteField s = f)).map (fun s => s.2 % 32)
    let routers := (outward c.idx).filter (fun p => badRouters.any (fun s => siteField s = f && s.2 % 32 = p)
      || old.any (fun o => o.2.cause = 6 && siteField o.1 = f && o.1.2 % 32 = p))
    (routers, withheldRows routers (fun p => (inF.filter (· = p)).length)))
  let rows := per.map (fun p => vectorFor p.2)
  let knots := sites.filterMap (fun s =>
    let f := siteField s
    (logicalRow (rows.getD f 0) (s.2 % 32)).map (fun r =>
      let k := ((old.find? (fun o => o.1 = s)).map (·.2)).getD ⟨0, 0, 2, false⟩
      ({ k with x := s.1, y := rowY c.idx f r } : Knot)))
  let bands := (List.range 6).foldl (fun m f =>
    let p := per.getD f ([], [])
    (p.1.filter (fun r => !p.2.contains r)).foldl (fun m r =>
      match logicalRow (rows.getD f 0) r with
      | some l => min m (rowY c.idx f l / 15)
      | none => m) m) 6
  ⟨rows, knots, (knots.filter (fun k => !old.any (fun o => o.2.x = k.x && o.2.y = k.y && o.2.cause = k.cause))).length, bands,
   per.all (fun p => decide (p.1.length ≤ 2))⟩

/-- The refined map in force; `newKnots` counts what was added. -/
def Chan.take (c : Chan) (r : Refined) : Chan :=
  { c with rows := r.rows, knots := r.knots, newKnots := c.newKnots + r.fresh }

/-! ## Records (R398, R399, R404) -/

/-- Append a record to flash (R398, R404); false when it is not written: no room sets `FULL`, and a truncated map takes none. -/
def State.appendRecord (s : State) (kind chmask : Nat) (entries : List Bytes) : Bool × State :=
  let m := s.pd.mapRead
  let n := m.records.length + m.skipped
  let es := entries.take 4096
  let body := leBytes 4 0x4D444B50 ++ leBytes 2 1 ++ leBytes 1 kind ++ leBytes 1 1 ++ leBytes 4 n ++ leBytes 8 Config.serial.toNat
    ++ leBytes 4 es.length ++ leBytes 1 chmask ++ zeros 7 ++ es.flatMap id
  if m.trunc then (false, s)
  else if dmapSize < s.pd.dmapBytes.length + body.length + 1280 then (false, s.onPort (fun p => p.setFld F.PD_DMAP_FULL 1))
  else
    let (k, s1) := s.draw
    (true, s1.onPort (fun p => { p.setFld F.PD_DMAP_RECORDS (m.records.length + 1) with
      flash := { p.flash with dmap := p.flash.dmap ++ body ++ slice (Config.falconSign Config.deviceSeed body k) 0 1280 } }))

def rowsEntry (field v : Nat) : Bytes := [1] ++ leBytes 1 field ++ zeros 6 ++ leBytes 8 v
def knotEntry (idx : Nat) (k : Knot) (seq : Nat) : Bytes :=
  [2] ++ leBytes 1 idx ++ leBytes 1 k.x ++ leBytes 1 k.y ++ leBytes 1 k.cause ++ zeros 3 ++ leBytes 4 seq ++ zeros 4

/-- Record what flash does not hold of a channel: changed row vectors and knots that no record holds (R404, R408, R418). -/
def State.recordMap (s : State) (c kind : Nat) : State :=
  let ch := s.chan c
  let recs := s.pd.mapRead.records
  let seq := recs.length + s.pd.mapRead.skipped
  let changed := (List.range 6).filter (fun f => (rowsInForce recs (fieldNum c f)).1 ≠ ch.rows.getD f 0)
  let ks := ch.knots.filter (fun k => !k.saved)
  let entries := changed.map (fun f => rowsEntry (fieldNum c f) (ch.rows.getD f 0)) ++ ks.map (fun k =>
    let f := 2 * (k.y / 30) + k.x / 24
    knotEntry c k (if changed.contains f then seq else (rowsInForce recs (fieldNum c f)).2))
  if entries = [] then s
  else
    let (ok, s1) := s.appendRecord kind (2 ^ c) entries
    if ok then s1.onChan c (fun ch => { ch with knots := ch.knots.map (fun k => { k with saved := true }) })
    else s1.onChan c (fun ch => ch.flagEvent F.CTL_FAULT_STATUS_KNOT_WRITE_FAIL F.CTL_FAULT_COUNT2_KNOT_WRITE_FAIL .hwFault 0 none)

/-- A channel has read the map: `PD_DMAP` shows what it found, and newly skipped records are logged (R400, R420). -/
def State.noteMap (s : State) (m : MapRead) : State :=
  let was := s.pd.fld F.PD_DMAP_SKIPPED
  let s1 := s.onPort (fun p => (((p.setFld F.PD_DMAP_RECORDS m.records.length).setFld F.PD_DMAP_SKIPPED (min 255 m.skipped)).setFld
    F.PD_DMAP_TRUNC (if m.trunc then 1 else 0)))
  (List.range (m.skipped - was)).foldl (fun s _ => s.flog .signatureFail 10 0 none argNone) s1

end Sys2Proof.Machine
end

