-- ==== Sys2Proof/Machine/BringUp.lean ====
section
/-! DEFINITION. Power-on, resets and loss of power; the bring-up of a channel; clock and controller-link faults; BIST, logs, the
defect map and loopback commands (R26, R37, R303, R371, R394-R405, R416, R417, R420, R449, R453, R454). -/

namespace Sys2Proof.Machine

/-! ## The port die starts (R394, R395, R425, R433, R437) -/

/-- Header of flash image `k` if the image verifies (R425): of an image that `FW_UPDATE` wrote, checked here; of the image that
flash held before, as the ROM reports it. -/
def PortDie.romImage (p : PortDie) (k : Nat) : Option Bytes :=
  let min_ := p.fld F.SEC_SVN_MIN_SVN
  match p.flash.images.getD k [] with
  | [] =>
    match p.found.getD k none with
    | some h => if leAt h 0 4 = 0x57464B50 ∧ min_ ≤ leAt h 6 2 then some (slice h 0 128) else none
    | none => none
  | b :: t => if imageOk min_ (b :: t) then some (slice (b :: t) 0 128) else none

/-- The port die runs an image (R395, R420, R440). -/
def PortDie.runImage (p : PortDie) (k : Nat) (h : Bytes) (fallback : Bool) : PortDie :=
  let p1 := ((p.setFld F.PD_FW_ACTIVE k).setFld F.PD_FW_FALLBACK (if fallback then 1 else 0)).setFld F.SEC_SVN_ACTIVE_SVN (leAt h 6 2)
  { p1 with fwHeader := h, flash := { p1.flash with active := k } }

/-- What the firmware reads from flash (R339, R394). -/
def PortDie.readFlash (p : PortDie) : PortDie :=
  let p1 := (p.putReg R.PD_CH_ENABLE (BitVec.ofNat 32 p.flash.enable)).putReg R.PD_CH_HOLD (BitVec.ofNat 32 p.flash.hold)
  p.flash.net.foldl (fun p x => p.putReg x.1 x.2) p1

/-- The cell is compared with the bound one and its firmware with its certificate (R428, R437). -/
def State.checkCell (s : State) : State :=
  let s1 := if s.boundOk then s else (s.pdFlag F.MET_STATUS_UNBOUND F.MET_COUNT_UNBOUND).alarm 4
  if Config.cellFwSum = Config.cellCertSum then s1 else s1.alarm 4

/-- From the reference on: the ROM verifies the images, the firmware starts and reads flash; with neither image good the
module is in RECOVERY (R394, R395). PWR_OK is released (R448). -/
def State.romBoot (s : State) : State :=
  let a := s.pd.flash.active % 2
  let up (s : State) : State := s.onPort (fun p => { p.readFlash with boot := 3 })
  if s.pd.locked then up s
  else
    let go (k : Nat) (h : Bytes) (fb : Bool) : State :=
      ((up (s.onPort (fun p => p.runImage k h fb))).onPort (fun p => { p with power := { p.power with pwrOk := true } })).checkCell
    match s.pd.romImage a, s.pd.romImage (1 - a) with
    | some h, _ => go a h false
    | none, some h => go (1 - a) h true
    | none, none => (up (s.onPort (fun p => p.setFld F.PD_FW_RECOVERY 1))).alarm 3

/-- The 4 ms row of R394: reset released, straps read, the reference checked; without it one REF_ABSENT is logged and the
port die waits. -/
def State.resetReleased (s : State) (imageA imageB : Option Bytes) (straps : BitVec 3) (ref : Bool) : State :=
  let s1 := (s.onPort (fun p => { p with straps := straps.toNat, boot := 1, found := [imageA, imageB] })).takeCell
  if ref then s1.romBoot else s1.flog .hwFault 10 1 none argNone

/-- The cell at power-on (R433): its counts are those of its last complete write. -/
def State.cellStarts (s : State) : State :=
  let c := s.cell
  { s with cell := { c with counts := c.nv, torn := false, gapSeen := c.gapSeen || c.torn, link := true } }

/-- `POWER_ON` (R394, R395, R433): the input rises through 46 V. -/
def execPowerOn (imageA imageB : Option Bytes) (straps : BitVec 3) (ref : Bool) (s : State) : Host.Outcome State Fault Refusal :=
  .next (if s.pd.powered then s
    else
      let torn := s.cell.torn
      let s1 := s.onPort (fun p =>
        let f := p.fresh
        let v := max f.power.vin 46000
        { f with
          powered := true, resetPin := false
          power := { f.power with vin := v, okSince := if v ≤ 58000 then some (f.power.okSince.getD f.clock) else none } })
      let s2 := s1.cellStarts
      let s3 := if torn then s2.pdFlag F.MET_STATUS_GAP F.MET_COUNT_GAP else s2
      (s3.resetReleased imageA imageB straps ref).recap)

/-- `REF_ARRIVAL` (R394): the port die that waits for the reference goes on. -/
def execRefArrival (s : State) : Host.Outcome State Fault Refusal :=
  .next (if s.pd.powered && s.pd.boot = 1 && !s.pd.resetPin then s.romBoot else s)

/-- `COMMAND_PORT_TRAINED` (R394). -/
def execCommandPortTrained (s : State) : Host.Outcome State Fault Refusal :=
  .next (if s.pd.boot = 3 && s.pd.running then s.onPort (fun p => { p with boot := 4 }) else s)

/-- `MODULE_RESET` (R449): channels OFF, the port die reset; admitted commands are lost without a reply. -/
def execModuleReset (s : State) : Host.Outcome State Fault Refusal :=
  .next (if !s.pd.powered then s
    else
      { s with
        chans := s.chans.map (fun c => (c.1, c.2.darken))
        pd := { s.pd.fresh with powered := true, resetPin := true } })

/-- `MOD_RESET_DEASSERT` (R449): the sequence resumes at its 4 ms row. -/
def execModResetDeassert (imageA imageB : Option Bytes) (straps : BitVec 3) (ref : Bool) (s : State) : Host.Outcome State Fault Refusal :=
  .next (if !s.pd.powered || !s.pd.resetPin then s
    else ((s.onPort (fun p => { p with resetPin := false })).resetReleased imageA imageB straps ref).recap)

/-- `OVERVOLTAGE` (R453). -/
def execOvervoltage (s : State) : Host.Outcome State Fault Refusal :=
  .next (if !s.pd.powered then s
    else
      let s1 := s.allOff.onPort (fun p => { (p.setFld F.TH_MOD_STATUS_SHUTDOWN 1) with
        power := { p.power with regOff := true, coolant := false, ovHold := true, okSince := none } })
      (s1.flog .hwFault 10 2 none argNone).recap)

/-- `INPUT_COLLAPSE` (R454): the regulators turn off (log entry 68). -/
def execInputCollapse (s : State) : Host.Outcome State Fault Refusal :=
  .next (if !s.pd.powered then s
    else (s.allOff.onPort (fun p => { p with power := { p.power with regOff := true, coolant := false, okSince := none } })).recap)

/-! ## Bring-up (R394-R405) -/

/-- `CHANNEL_RELEASE` (R307, R394): an enabled channel, with the input within 46-58 V. The row stands for the staggered
timer and the 10 ms (log entry 10). -/
def execChannelRelease (c : Fin 8) (s : State) : Host.Outcome State Fault Refusal :=
  let p := s.pd
  .next (if p.running && !p.locked && p.fld F.PD_FW_RECOVERY = 0 && bits (p.reg R.PD_CH_ENABLE).toNat c 1 = 1
      && (s.chan c).st = .off && p.power.okSince.isSome && !p.power.ovHold then s.startChan c else s)

/-- The step in progress is done: the next one (R396). -/
def Chan.nextStep (c : Chan) : Chan := c.setFld F.CTL_BRINGUP_STEP (c.fld F.CTL_BRINGUP_STEP + 1)

/-- READY (R24, R259, R307, R396): links enabled, freeze causes taken, `CHANNEL_START` completed. -/
def Chan.becomesReady (c : Chan) (causes : Nat) (modid : Option Nat) (fm : Nat) : Chan :=
  let c1 : Chan := { c with st := .ready, freeze := 0 }
  let c2 := match modid with | some m => c1.takeIds m fm | none => c1
  let c3 := c2.refreshLinks
  let c4 : Chan := if causes = 0 then c3 else { c3 with st := .frozen, freeze := causes }
  (List.range 8).foldl (fun (c : Chan) q =>
    ((c.queue q).accepted.filter (fun d => d.opcode = 0x09)).foldl (fun c d => c.complete d .ok none []) c) c4

/-- An anchor channel (R28). -/
def anchor (c : Nat) : Bool := c = 0 || c = 7

/-- Step 6 (R397, R400, R401). -/
def State.stepMap (s : State) (c : Nat) : State :=
  let m := s.pd.mapRead
  if !mapRecordOk true (slice s.pd.dmapBytes 0 ((mapRecordLen s.pd.dmapBytes dmapSize).getD 0)) then
    s.onChan c (fun c => c.bringupFails .signatureFail)
  else (s.noteMap m).onChan c (fun c => (c.compose m.records).nextStep)

/-- Step 7 (R402, R403, R405): the BIST's findings; an anchor admits the bands before the first that fails. -/
def Chan.stepBist (c : Chan) (badTiles badRouters : List Site) : Chan :=
  let r := c.refine badTiles badRouters
  if (if anchor c.idx then r.bands = 0 else !r.fits) then c.bringupFails .hwFault
  else ((c.take r).setFld F.CTL_BRINGUP_BANDS (if anchor c.idx then r.bands else 6)).nextStep

/-- A step of R396 that has ended well. -/
def State.stepEnds (s : State) (c step : Nat) (badTiles badRouters : List Site) (meas : Bytes) (hold : Nat) : State :=
  if step = 2 then
    s.onChan c (fun c => ((c.setFld F.CLK_STATUS_PLL_LOCK 1).setFld F.CLK_STATUS_REF_PRESENT 1).nextStep)
  else if step = 3 then s.onChan c (fun c => ({ c with linkLost := false } : Chan).nextStep)
  else if step = 4 then
    if slice meas 0 32 = slice s.pd.fwHeader 52 32 then s.onChan c (fun c => ({ c with measured := slice meas 0 32 } : Chan).nextStep)
    else (s.onChan c (fun c => c.bringupFails .hwFault)).alarm 4
  else if step = 5 then s.onChan c (fun c => (c.setFld F.HBM_STATUS_STACK_UP 7).nextStep)
  else if step = 6 then s.stepMap c
  else if step = 7 then s.onChan c (fun c => c.stepBist badTiles badRouters)
  else if step = 8 then (s.recordMap c 1).onChan c Chan.nextStep
  else if step = 9 then
    let held := bits (s.pd.reg R.PD_CH_HOLD).toNat c 1
    s.onChan c (fun c => ((c.setFld F.TH_DUTY_HOLD (min 65535 (hold * 103 / 100))).setFld F.CTL_BRINGUP_HELD held).nextStep)
  else if step = 10 then
    let causes := s.moduleCauses + if (s.chan c).linkLost then 16 else 0
    let p := s.pd.flash
    (s.onChan c (fun c => (c.becomesReady causes p.modid p.fm).nextStep)).settleServices
  else s.onChan c Chan.nextStep

/-- A controller link is lost: recorded in the module fault log (R26). -/
def State.noteLinkLost (s : State) (c : Nat) : State :=
  (s.pdFlag F.PD_STATUS_LINK_LOST F.PD_FLAG_COUNT_LINK_LOST).flog .hwFault 10 0 (some c) (argFld F.PD_STATUS_LINK_LOST)

/-- Bring-up fails in the step in progress (R26, R397); in step 3 it is the controller link that failed its training, and the port die
answers for the channel from then on. -/
def State.bringupEnds (s : State) (c : Nat) : State :=
  let s1 := s.onChan c (fun c => c.bringupFails .hwFault)
  if (s.chan c).fld F.CTL_BRINGUP_STEP = 3 then (s1.noteLinkLost c).onChan c (fun c => { c with linkLost := true }) else s1

/-- `BRINGUP_STEP_DONE` (R396, R397): `ok` says whether the step's own action succeeded. -/
def execBringupStepDone (c : Fin 8) (ok : Bool) (badTiles badRouters : List (Nat × Nat)) (meas : Bytes) (hold : Nat) (s : State) :
    Host.Outcome State Fault Refusal :=
  let ch := s.chan c
  .next (if ch.st ≠ .bringup || ch.fld F.CTL_BRINGUP_HELD = 1 then s
    else if !ok then (s.bringupEnds c).recap
    else (s.stepEnds c (ch.fld F.CTL_BRINGUP_STEP) badTiles badRouters meas hold).recap)

/-- `BRINGUP_STEP_TIMEOUT` (R397); a channel held in step 10 waits without limit. -/
def execBringupStepTimeout (c : Fin 8) (s : State) : Host.Outcome State Fault Refusal :=
  .next (if (s.chan c).st ≠ .bringup || (s.chan c).fld F.CTL_BRINGUP_HELD = 1 then s
    else (s.bringupEnds c).recap)

/-! ## Faults of a whole channel (R26, R37, R307, R312) -/

/-- A channel's clock is lost: recorded, and FAULTED (R37). A lost reference faults a channel whose PLL has not locked yet too. -/
def Chan.clockLost (c : Chan) (refLost : Bool) : Chan :=
  if c.down || (!c.clocked && !refLost) then c
  else
    let c0 := if refLost then c.setFld F.CLK_STATUS_REF_PRESENT 0 else c
    let c1 := if c.clocked then (c0.setFld F.CLK_STATUS_PLL_LOCK 0).setFld F.CLK_STATUS_PLL_UNLOCK_SEEN 1 else c0
    (c1.event .hwFault 1 0 none (argFld F.CLK_STATUS_PLL_UNLOCK_SEEN)).chanFault .hwFault

/-- `PLL_UNLOCK` (R37): a lost reference faults every channel. -/
def execPllUnlock (c : Fin 8) (refLost : Bool) (s : State) : Host.Outcome State Fault Refusal :=
  .next (if refLost then (List.range 8).foldl (fun s k => s.onChan k (fun c => c.clockLost true)) s
    else s.onChan c (fun c => c.clockLost false)).settleServices

/-- `UNCORRECTABLE_CONTROLLER_ERROR` (R307). -/
def execUncorrectableControllerError (c : Fin 8) (s : State) : Host.Outcome State Fault Refusal :=
  .next (s.onChan c (fun c =>
    if c.st = .bringup || c.st = .ready || c.st = .running || c.st = .frozen then
      (c.event .hwFault 0 0 none argNone).chanFault .hwFault
    else c)).settleServices

/-- `CONTROLLER_LINK_LOST` (R26): the port die answers HW_FAULT for what is admitted and pending, the channel freezes. -/
def execControllerLinkLost (c : Fin 8) (s : State) : Host.Outcome State Fault Refusal :=
  .next (if !(s.chan c).linkUp then s
    else
      ((s.noteLinkLost c).onChan c (fun c => (c.completeAll .hwFault).refuseAll .hwFault)).onChan c (fun c =>
        ({ c with linkLost := true } : Chan).freezeBy 4))

/-- `CONTROLLER_LINK_RETURN` (R26, R312). -/
def execControllerLinkReturn (c : Fin 8) (s : State) : Host.Outcome State Fault Refusal :=
  .next (if !(s.chan c).linkLost then s
    else (s.onChan c (fun c => ({ c with linkLost := false } : Chan).thawBy 4)).recap)

/-! ## Diagnostics (R303, R402, R416, R417, R420) -/

/-- `BIST_RUN` (R402): in step 10 of bring-up, held. -/
def execBistRun (q : Issue) (level : Nat) (s : State) : Host.Outcome State Fault Refusal :=
  .next (s.chanCmd q 0xC0 [(0, 1, level)] (fun c _ => c.fld F.CTL_BRINGUP_HELD ≠ 1) (fun d => [(decide (2 ≤ pAt d 0 1), 0)])
    (fun d c => c.accept d))

/-- The BIST ends (R402-R404): the findings are in force and recorded; the completion counts the new knots. A field that can
no longer be mapped, or a failure in band 0 of an anchor, fails bring-up (log entry 67). -/
def execBistRunComplete (q : Issue) (badTiles badRouters : List (Nat × Nat)) (s : State) : Host.Outcome State Fault Refusal :=
  let r := (s.chan q.channel).refine badTiles badRouters
  .next (if 8 ≤ q.channel then s
    else
      match (s.chan q.channel).acceptedCmd q 0xC0 with
      | none => s
      | some d =>
        if (s.chan q.channel).st ≠ .bringup then s
        else if (if anchor q.channel then r.bands = 0 else !r.fits) then
          s.onChan q.channel (fun c => (c.complete d .hwFault none []).bringupFails .hwFault)
        else
          ((s.onChan q.channel (fun c =>
            (c.take r).setFld F.CTL_BRINGUP_BANDS (if anchor q.channel then r.bands else 6))).recordMap q.channel 1).onChan q.channel
            (fun c => c.complete d .ok none (leBytes 4 r.fresh)))

/-- Entries of a log from a sequence on, at most `n` (R416). -/
def logFrom (l : List LogEntry) (first next n : Nat) : List LogEntry :=
  (l.filter (fun e => decide (first ≤ e.seq) && decide (e.seq < next))).take n

/-- What the module's `LOG_READ` draws from: the window, and while an anchor hosts the service the flash ring (R417). -/
def PortDie.logSource (p : PortDie) : List LogEntry :=
  if p.services.getD 1 0xFF = 0xFF then p.log
  else
    let oldest := ((p.log.head?).map (·.seq)).getD 0
    let older := p.ring.filter (fun e => decide (e.seq < oldest))
    older.drop (older.length - oldest) ++ p.log

/-- `LOG_READ` (R416, R417): to a channel or to the module. -/
def execLogRead (q : Issue) (first : Word) (count : Nat) (s : State) : Host.Outcome State Fault Refusal :=
  let fs := [(0, 4, first.toNat), (4, 2, count)]
  let bad (d : Datagram) : List (Bool × Nat) := [(decide (pAt d 4 2 = 0 ∨ 255 < pAt d 4 2), 4)]
  .next (if q.channel = 0xFF then
      s.modCmd q 0xC1 fs false bad (fun d s => s.replyM d .ok []
        ((logFrom s.pd.logSource first.toNat (s.pd.fld F.PD_FLOG_SEQ_NEXT) count).flatMap LogEntry.bytes))
    else
      s.chanCmd q 0xC1 fs noConf bad (fun d c => c.reply d .ok none []
        ((logFrom c.log first.toNat c.evtSeq count).flatMap LogEntry.bytes)))

/-- `DEFECT_MAP_READ` (R420). -/
def execDefectMapRead (q : Issue) (offset len : Nat) (s : State) : Host.Outcome State Fault Refusal :=
  let p := s.pd
  .next (s.chanCmd q 0xC2 [(0, 4, offset), (4, 2, len)] noConf (fun d =>
    [(decide (dmapSize ≤ pAt d 0 4), 0), (decide (pAt d 4 2 = 0 ∨ 8176 < pAt d 4 2 ∨ dmapSize < pAt d 0 4 + pAt d 4 2), 4)]) (fun d c =>
    c.reply d .ok none [] ((List.range len).map (fun k => p.dmapByte (offset + k)))))

/-- `LINK_LOOPBACK` (R303): mode 0 near-end, 1 far-end, on an interface the channel has. -/
def execLinkLoopback (q : Issue) (ifx mode frames : Nat) (s : State) : Host.Outcome State Fault Refusal :=
  .next (s.chanCmd q 0xC3 [(0, 1, ifx), (1, 1, mode), (4, 4, frames)] noConf
    (fun d => [(!hasIf q.channel (pAt d 0 1), 0), (decide (2 ≤ pAt d 1 1), 1)]) (fun d c => c.accept d))

/-- The loopback test ends (R303): what it counted. -/
def execLinkLoopbackComplete (q : Issue) (errors : Nat) (s : State) : Host.Outcome State Fault Refusal :=
  completeStep s q 0xC3 (fun d c => c.complete d .ok none (leBytes 4 errors))

end Sys2Proof.Machine
end

