-- ==== Sys2Proof/Machine/Movement.lean ====
section
/-! DEFINITION. The movement engine: copies, sends, the gradient tile buffer, accumulator images, HBM and the apertures
(R73, R74, R78, R83, R85, R86, R89, R90, R106, R110, R270). -/

namespace Sys2Proof.Machine

/-- What a movement descriptor does: it retires, faults under a code, stays at the head of its queue, or goes with the queues of
its frozen grove (R138). -/
inductive MoveRes where
  | retire (c : Chan)
  | fault (code : Nat) (c : Chan)
  | stay (c : Chan)
  | discard (c : Chan)

/-- Opcodes whose length is `NLINES` (R90). -/
def usesNlines (op : Nat) : Bool := op = 2 || op = 3 || op = 8 || op = 9

/-- Lines a descriptor moves (R90). -/
def moveLines (d : Bytes) : Nat :=
  let op := dfield d 0 0 8
  if usesNlines op then dfield d 3 0 16 else if op = 4 then (if dfield d 6 3 8 = fmtBf16 then 32 else 16) else 640

/-- Reserved fields of a movement descriptor (R89). -/
def moveRsv (d : Bytes) : Bool :=
  dfield d 0 19 13 ≠ 0 || dfield d 1 21 11 ≠ 0 || dfield d 2 21 11 ≠ 0 || dfield d 3 16 16 ≠ 0 || dfield d 4 29 3 ≠ 0 ||
    dfield d 5 31 1 ≠ 0 || leAt d 28 36 ≠ 0

/-- The SRAM extents an opcode uses are aligned and inside (R88 code 0x05, R90); an address field that the opcode does not use is
not checked (log entry 76). -/
def moveAddrOk (d : Bytes) : Bool :=
  let op := dfield d 0 0 8
  let n := moveLines d * 64
  let src := dfield d 1 0 21
  let dst := dfield d 2 0 21
  let srcUsed := op ≠ 5 && op ≠ 8
  let dstUsed := op = 2 || op = 3 || op = 5 || op = 8
  (!srcUsed || (src % 64 = 0 && sramOk src n)) && (!dstUsed || (dst % 64 = 0 && sramOk dst n)) &&
    (op ≠ 4 || dfield d 6 3 8 = fmtBf16 || (dfield d 6 11 21 % 32 = 0 && sramOk (dfield d 6 11 21) 32))

/-- The array an `ACC_` opcode names. -/
def accArr (d : Bytes) : ArrId := if dfield d 0 18 1 = 1 then .B else .A

/-- The first check of R88 and R90 that a movement descriptor fails, in the order of the table (log entry 18). -/
def moveCheck (d : Bytes) (x : Nat) (owner : Option Nat) : Option Nat :=
  let op := dfield d 0 0 8
  let n := dfield d 3 0 16
  if op < 2 || 9 < op then some 0x01
  else if op = 4 && !([0x01, 0x10, 0x11].contains (dfield d 6 3 8)) then some 0x02
  else if !moveAddrOk d then some 0x05
  else if (usesNlines op && (n = 0 || 24576 < n)) || (op = 4 && (dfield d 6 1 2 = 0 || dfield d 6 1 2 = 3)) then some 0x06
  else if moveRsv d then some 0x07
  else if (op = 6 && owner ≠ none) || ((op = 5 || op = 7) && owner ≠ some x) then some 0x08
  else none

/-- The movement engine has served a context's queue (R86). -/
def Chan.served (c : Chan) (i x : Nat) : Chan := c.setTile i { c.tile i with lastMove := x }

/-- Whether the movement engine takes a context's head now: ready heads of both contexts alternate (R86). -/
def Chan.movesNext (c : Chan) (i x : Nat) : Bool :=
  x ≠ (c.tile i).lastMove || (headReady (c.ctx i (1 - x)) ((c.ctx i (1 - x)).queueOf 2)).isNone

/-- Serve the head of a context's movement queue where its opcode is `op`; an unknown opcode is refused by whichever
command finds it (R86, R88, R90). A descriptor that has to wait for a free half or for its array stays at the head, its semaphore
not yet taken (log entry 77). -/
def Chan.moveStep (c : Chan) (i x op : Nat) (act : Chan → QDesc → MoveRes) : Chan :=
  if !c.mayStart i || !c.movesNext i x then c
  else
    match headReady (c.ctx i x) ((c.ctx i x).queueOf 2) with
    | none => c
    | some d =>
      let o := dfield d.words 0 0 8
      if 2 ≤ o && o ≤ 9 && o ≠ op then c
      else
        let c1 := (c.onCtx i x (fun v => v.takeHead 2 d)).served i x
        match moveCheck d.words x (c.arr i (accArr d.words)).owner with
        | some code => c1.tileFault i x 3 code d.addr
        | none =>
          match act c1 d with
          | .retire c2 => c2.post i x (dfield d.words 0 12 4) 3 d.addr
          | .fault code c2 => c2.tileFault i x 3 code d.addr
          | .stay c2 => c2.onCtx i x (fun _ => c.ctx i x)
          | .discard c2 => c2.onCtx i x (fun _ => { c.ctx i x with qA := [], qB := [], qM := [] })

/-- Read the source lines; an uncorrectable one faults under 0x0D (R277, R280). -/
def Chan.moveSource (c : Chan) (i a n : Nat) (errs : NMap LineErr) (k : Bytes → Chan → MoveRes) : MoveRes :=
  match c.sramRead i a n errs with
  | (some b, c1) => k b c1
  | (none, c1) => .fault 0x0D c1

/-! ## Copies and sends -/

/-- `COPY` (R90): the destination gets what the source held (log entry 34). -/
def Chan.moveCopy (c : Chan) (i : Nat) (d : QDesc) (errs : NMap LineErr) : MoveRes :=
  c.moveSource i (dfield d.words 1 0 21) (64 * moveLines d.words) errs (fun b c1 => .retire (c1.sramWrite i (dfield d.words 2 0 21) b))

/-- `COPY`. -/
def execCopy (t : TileRef) (x : WithErrs (Fin 2)) (s : State) : Host.Outcome State Fault Refusal :=
  chanStep s t.ch (fun c => c.moveStep (tileIdx t) x.it.val 2 (fun c d => c.moveCopy (tileIdx t) d x.errs))

/-- Interface of a remote region's `VIA` (R110). -/
def viaIf (v : Nat) : Nat := match v with | 0 => 2 | 1 => 3 | 2 => 4 | 3 => 0 | _ => 1

/-- Frames of tile data for a remote region: up to 128 lines each (R110; log entry 20). -/
def remoteFrames (src : Nat) (v : Grove) (g : Nat) (r : RegionEntry) (d : Bytes) (b : Bytes) : List Frame :=
  let ps := chunksOf 200 8192 b
  ps.zipIdx.map (fun p =>
    let last := p.2 + 1 = ps.length
    { Frame.blank 0x09 r.node (.raw p.1) with
      src := src, job := v.job, grove := g, step := v.step
      tensor := r.peer + dfield d 4 8 8 * 2 ^ 8 + dfield d 4 16 8 * 2 ^ 16
      shard := dfield d 2 0 21 + 8192 * p.2
      mb := if last && dfield d 0 16 1 = 1 then dfield d 4 24 4 + dfield d 4 28 1 * 2 ^ 4 else 0
      flags := if last then 4 else 0 })

/-- The flits of a `SEND` from tile `i` to tile `t`: one for each line, the last with the post (R85, R107). -/
def sendFlits (i t g : Nat) (w b : Bytes) : List Flit :=
  let ls := chunksOf (b.length / 64 + 1) 64 b
  ls.zipIdx.map (fun p =>
    { x := i % 48, y := i / 48, dx := t % 48, dy := t / 48, vc := 1, port := 5, data := lineNat p.1, bad := false, src := i,
      fin := .sram g (dfield w 2 0 21 + 64 * p.2)
        (if p.2 + 1 = ls.length && dfield w 0 16 1 = 1 && dfield w 4 24 4 ≠ 0
          then some (dfield w 4 28 1, dfield w 4 24 4) else none) : Flit })

/-- The flits of the frames of a `SEND` to a remote region, from tile `i` to the router of interface `o` (R20, R107, R110). -/
def remoteFlits (i o : Nat) (fs : List Frame) : List Flit :=
  fs.flatMap (fun f =>
    let ls := chunksOf 129 64 f.payload.bytes
    let (x, y) := ifRouter o 0
    ls.zipIdx.map (fun p =>
      { x := i % 48, y := i / 48, dx := x, dy := y, vc := 1, port := 5, data := lineNat p.1, bad := false, src := i,
        fin := .egress o f (decide (p.2 + 1 = ls.length)) : Flit }))

/-- `SEND` (R85, R90, R106, R107, R110). -/
def Chan.moveSend (c : Chan) (i : Nat) (d : QDesc) (errs : NMap LineErr) : MoveRes :=
  let w := d.words
  match (c.tile i).slot with
  | none => .fault 0x0F c
  | some s =>
    let g := s.grove
    let n := dfield w 4 0 8
    let lx := dfield w 4 8 8
    let ly := dfield w 4 16 8
    let r := regionAt c.reg g n
    if 64 ≤ n || !r.valid || r.lw ≤ lx || r.lh ≤ ly then .fault 0x0F c
    else
      c.moveSource i (dfield w 1 0 21) (64 * moveLines w) errs (fun b c1 =>
        let exc := (exceptionsAt c1.reg g).any (fun e => e.2.1 = n && e.2.2.1 = lx && e.2.2.2.1 = ly)
        if r.remote && !exc then
          .retire { c1 with flits := c1.flits ++ remoteFlits i (viaIf r.via) (remoteFrames c1.node (c1.grove g) g r w b) }
        else
          .retire { c1 with flits := c1.flits ++ sendFlits i (slotTile c1.reg g n lx ly) g w b })

/-- `SEND`. -/
def execSend (t : TileRef) (x : WithErrs (Fin 2)) (s : State) : Host.Outcome State Fault Refusal :=
  chanStep s t.ch (fun c => c.moveStep (tileIdx t) x.it.val 3 (fun c d => c.moveSend (tileIdx t) d x.errs))

/-! ## The gradient tile buffer -/

/-- `GTB_LOAD` (R72-R74): waits for a free half; unequal scale bytes fault under 0x09. -/
def Chan.moveGtb (c : Chan) (i : Nat) (d : QDesc) (errs : NMap LineErr) : MoveRes :=
  let w := d.words
  let half := dfield w 6 0 1
  let f := dfield w 6 3 8
  let h := if half = 0 then (c.tile i).g0 else (c.tile i).g1
  if h.readers ≠ 0 then .stay c
  else
    c.moveSource i (dfield w 1 0 21) (64 * moveLines w) errs (fun b c1 =>
      let codes := (List.range 1024).map (fun k => leAt b (k * (fmtBits f / 8)) (fmtBits f / 8))
      let put (sc : Nat) (c : Chan) : Chan :=
        let h1 : GtbHalf := ⟨dfield w 6 1 2, f, sc, codes, []⟩
        let t := c.tile i
        c.setTile i (if half = 0 then { t with g0 := h1 } else { t with g1 := h1 })
      if f = fmtBf16 then .retire (put 127 c1)
      else
        c1.moveSource i (dfield w 6 11 21) 32 errs (fun sb c2 =>
          if sb.any (fun v => v ≠ sb.headD 0) then .fault 0x09 c2 else .retire (put (sb.headD 0).toNat c2)))

/-- `GTB_LOAD`. -/
def execGtbLoad (t : TileRef) (x : WithErrs (Fin 2)) (s : State) : Host.Outcome State Fault Refusal :=
  chanStep s t.ch (fun c => c.moveStep (tileIdx t) x.it.val 4 (fun c d => c.moveGtb (tileIdx t) d x.errs))

/-! ## Accumulator images (R52, R78, R82, R83) -/

/-- The images of an accumulator: 1,024 of 40 bytes. -/
def accImages (acc : NMap AccCell) : Bytes := (List.range 1024).flatMap (fun n => (mapGet (fun _ => AccCell.zero) acc n).image)

/-- The image of cell `n` in a string of images. -/
def imageAt (b : Bytes) (n : Nat) : AccCell := AccCell.ofImage (slice b (40 * n) 40)

/-- An accumulator from its images. -/
def accOf (b : Bytes) : NMap AccCell :=
  (List.range 1024).filterMap (fun n => if imageAt b n = AccCell.zero then none else some (n, imageAt b n))

/-- Add images into an accumulator; none where a `WRAP` would leave its range (R83). -/
def accMerge (acc : NMap AccCell) (b : Bytes) : Option (NMap AccCell) :=
  (List.range 1024).foldr (fun n r =>
    match r, (mapGet (fun _ => AccCell.zero) acc n).add (imageAt b n).L.toInt (imageAt b n).wrap (imageAt b n).flags with
    | some m, some v => some (if v = AccCell.zero then m else (n, v) :: m)
    | _, _ => none) (some [])

/-- `ACC_SAVE`: waits for the descriptor in progress on the array; an uncorrectable accumulator SRAM faults under 0x0D (R93). -/
def Chan.moveAccSave (c : Chan) (i : Nat) (d : QDesc) (ue : Bool) : MoveRes :=
  let a := accArr d.words
  let arr := c.arr i a
  if arr.run ≠ none then .stay c
  else if ue then .fault 0x0D c
  else
    let c1 := c.sramWrite i (dfield d.words 2 0 21) (accImages arr.acc)
    .retire (if dfield d.words 0 17 1 = 1 then c1.setArr i a { arr with owner := none, acc := [], count := 0 } else c1)

/-- `ACC_SAVE`. -/
def execAccSave (t : TileRef) (x : WithUe (Fin 2)) (s : State) : Host.Outcome State Fault Refusal :=
  chanStep s t.ch (fun c => c.moveStep (tileIdx t) x.it.val 5 (fun c d => c.moveAccSave (tileIdx t) d x.ue))

/-- `ACC_LOAD`. -/
def Chan.moveAccLoad (c : Chan) (i x : Nat) (d : QDesc) (errs : NMap LineErr) : MoveRes :=
  let a := accArr d.words
  c.moveSource i (dfield d.words 1 0 21) 40960 errs (fun b c1 =>
    .retire (c1.setArr i a { c1.arr i a with owner := some x, acc := accOf b, count := 0 }))

/-- `ACC_LOAD`. -/
def execAccLoad (t : TileRef) (x : WithErrs (Fin 2)) (s : State) : Host.Outcome State Fault Refusal :=
  chanStep s t.ch (fun c => c.moveStep (tileIdx t) x.it.val 6 (fun c d => c.moveAccLoad (tileIdx t) x.it.val d x.errs))

/-- `ACC_MERGE` (R83): one addition under R51. -/
def Chan.moveAccMerge (c : Chan) (i : Nat) (d : QDesc) (errs : NMap LineErr) : MoveRes :=
  let a := accArr d.words
  let arr := c.arr i a
  if arr.run ≠ none then .stay c
  else
    c.moveSource i (dfield d.words 1 0 21) 40960 errs (fun b c1 =>
      if maxAdditions < arr.count + 1 then .fault 0x0A c1
      else match accMerge arr.acc b with
        | none => .fault 0x0B c1
        | some m => .retire (c1.setArr i a { arr with acc := m, count := arr.count + 1 }))

/-- `ACC_MERGE`. -/
def execAccMerge (t : TileRef) (x : WithErrs (Fin 2)) (s : State) : Host.Outcome State Fault Refusal :=
  chanStep s t.ch (fun c => c.moveStep (tileIdx t) x.it.val 7 (fun c d => c.moveAccMerge (tileIdx t) d x.errs))

/-! ## HBM and the apertures (R270, R272, R280) -/

/-- The range of R270 that a line lies in, and its first line. -/
def lineRange (l : Nat) : Nat × Nat :=
  if l < 0x60000000 then (0, 0) else if l < 0x68000000 then (1, 0x60000000) else if l < 0x70000000 then (2, 0x68000000)
  else (3, 0x70000000)

/-- Whether a line lies inside a grant of the grove (R272). -/
def Chan.lineGranted (c : Chan) (g line : Nat) (write : Bool) : Bool :=
  (List.range 8).any (fun n => match grantIn c.reg g n with
    | some (b, l, w) => decide (b ≤ line) && decide (line ≤ l) && (w || !write)
    | none => false)

/-- The chunk whose HBM-tier copy holds a line (R124, R138; log entry 31). -/
def Chan.hbmTierChunk (c : Chan) (g line : Nat) : Option Nat :=
  let v := c.grove g
  let w := v.wslot v.slotNow
  (List.range (leAt w.manifest 12 4)).find? (fun k => match w.chunk k with
    | some m => (match c.tensorOf g m.tensor with
        | some t => t.tier = 2 && decide (Config.hbmCopy v.image v.slotNow k ≤ line) &&
            decide (line < Config.hbmCopy v.image v.slotNow k + (m.len + 63) / 64)
        | none => false)
    | none => false)

/-- Freeze a grove to reload an HBM-tier chunk and replay (R138, R407). -/
def Chan.tierFreeze (c : Chan) (g chunk : Nat) : Chan :=
  let v := c.grove g
  let c1 := c.setGrove g { v with replay := true, ws := { v.ws with
    reload := if v.ws.reload.any (fun p => p.1 = chunk) then v.ws.reload else v.ws.reload ++ [(chunk, 0)] } }
  (c1.tilesOf g).foldl (fun c j =>
    let t := c.tile j
    let drop (x : Ctx) : Ctx := { x with qA := [], qB := [], qM := [] }
    c.setTile j { t with c0 := drop t.c0, c1 := drop t.c1 }) c1

/-- The answer of an aperture's controller, as a movement descriptor sees it. -/
def DevRes.move (r : DevRes) (k : Bytes → Chan → Chan) : MoveRes :=
  match r with
  | .done b c => .retire (k b c)
  | .refuse code c => .fault code c
  | .waits c => .stay c

/-- Whether a descriptor's lines lie in one range of R270. -/
def oneRange (line n : Nat) : Bool := (lineRange line).1 = (lineRange (line + n - 1)).1 && decide (line + n ≤ 0x80000000)

/-- `HBM_READ`. -/
def Chan.moveHbmRead (c : Chan) (i : Nat) (d : QDesc) (errs : NMap LineErr) : MoveRes :=
  let line := dfield d.words 5 0 31
  let n := moveLines d.words
  let put (b : Bytes) (c : Chan) : Chan := c.sramWrite i (dfield d.words 2 0 21) b
  let (rg, base) := lineRange line
  match (c.tile i).slot with
  | none => .fault 0x0F c
  | some r =>
    if !oneRange line n then .fault 0x0F c
    else if rg = 1 then (c.updRead r (line - base) n errs).move put
    else if rg = 2 then .fault 0x0F c
    else if rg = 3 then (c.stashApRead r (line - base) n line errs).move put
    else if !(List.range n).all (fun k => c.lineGranted r.grove (line + k) false) then .fault 0x0F c
    else
      match c.readLines line errs n with
      | (some b, c1) => .retire (put b c1)
      | (none, c1) =>
        match c1.hbmTierChunk r.grove (c1.fld F.HBM_UE_ADDR_LINE) with
        | some k => .discard (c1.tierFreeze r.grove k)
        | none => .fault 0x10 c1

/-- `HBM_READ`. A descriptor that meets an uncorrectable HBM-tier weight line is discarded with the queues of its frozen
grove (R138). -/
def execHbmRead (t : TileRef) (x : Fin 2) (errs : NMap LineErr) (s : State) : Host.Outcome State Fault Refusal :=
  chanStep s t.ch (fun c => c.moveStep (tileIdx t) x.val 8 (fun c d => c.moveHbmRead (tileIdx t) d errs))

/-- `HBM_WRITE` (R133, R270, R272). -/
def Chan.moveHbmWrite (c : Chan) (i : Nat) (d : QDesc) (errs : NMap LineErr) : MoveRes :=
  let line := dfield d.words 5 0 31
  let n := moveLines d.words
  let (rg, base) := lineRange line
  match (c.tile i).slot with
  | none => .fault 0x0F c
  | some r =>
    let g := r.grove
    let rel := c.fld (F.SP_WS_GRV_REL_LINE_LINE.sh (wsOff g))
    let streams := c.residencies (c.grove g) ≠ []
    let hits := streams && decide (line ≤ rel + 1) && decide (rel < line + n)
    if !oneRange line n then .fault 0x0F c
    else if rg = 0 && (!(List.range n).all (fun k => c.lineGranted g (line + k) true) || (hits && n ≠ 1)) then .fault 0x0F c
    else
      c.moveSource i (dfield d.words 1 0 21) (64 * n) errs (fun b c1 =>
        if rg = 1 then (c1.updWrite r (line - base) b).move (fun _ c => c)
        else if rg = 2 then (c1.egressWrite r (line - base) b).move (fun _ c => c)
        else if rg = 3 then (c1.stashApWrite r (line - base) b).move (fun _ c => c)
        else
          let c2 := c1.hbmWrite line b
          .retire (if hits then c2.releaseHit g (line - rel) else c2))

/-- `HBM_WRITE`. -/
def execHbmWrite (t : TileRef) (x : WithErrs (Fin 2)) (s : State) : Host.Outcome State Fault Refusal :=
  chanStep s t.ch (fun c => c.moveStep (tileIdx t) x.it.val 9 (fun c d => c.moveHbmWrite (tileIdx t) d x.errs))

end Sys2Proof.Machine
end

