-- ==== Sys2Proof/Machine/RegCmd.lean ====
section
/-! DEFINITION. The register commands of the command port, and the port die's own register events (R298, R315-R337, R420,
R425, R437). -/

namespace Sys2Proof.Machine

/-- First module address of a channel block (R314). -/
def chanBase (c : Nat) : Nat := 0x10000000 + c * 0x01000000

/-- An address inside a channel's own block. -/
def inChan (c a : Nat) : Bool := decide (chanBase c ≤ a) && decide (a < chanBase c + 0x01000000) && chanBlock (a - chanBase c)

/-- The addresses of `n` words from `a`. -/
def wordsAt (a n : Nat) : List Nat := (List.range n).map (fun i => a + 4 * i)

/-- Whether an address command's first word is misplaced: unaligned, or a word outside what it may address. -/
def badAddr (ok : Nat → Bool) (a n : Nat) : Bool × Nat := (decide (a % 4 ≠ 0) || !(wordsAt a n).all ok, 0)

/-- Whether `addr` names a module-global register (R313). -/
def isGlobal (a : Nat) : Bool := pdBlock a

/-! ## Reads -/

/-- Words of the port die from `a`: values, whether one fails parity, and the state after the checks (R324, R325, R463). -/
def State.readGlobal (s : State) (view : Nat) : List Nat → List Word × Bool × State
  | [] => ([], false, s)
  | a :: t =>
    let w := s.pdRead a view
    let (bad, s1) := s.pdReadCheck a view
    let (ws, b, s2) := s1.readGlobal view t
    (w :: ws, bad || b, s2)

/-- Words of a channel, likewise. -/
def Chan.readWords (c : Chan) (view : Nat) : List Nat → List Word × Bool × Chan
  | [] => ([], false, c)
  | o :: t =>
    let w := c.readWord o view
    let (bad, c1) := c.readCheck o view
    let (ws, b, c2) := c1.readWords view t
    (w :: ws, bad || b, c2)

def wordBytes (ws : List Word) : Bytes := ws.flatMap (fun w => leBytes 4 w.toNat)

/-- Parameters of `REG_READ` out of range. -/
def badRead (ok : Nat → Bool) (d : Datagram) : List (Bool × Nat) :=
  let n := pAt d 4 2
  [badAddr ok (pAt d 0 4) n, (decide (n = 0 ∨ 256 < n), 4), (decide (1 < pAt d 6 1), 6)]

/-- `REG_READ` (R298, R308): a channel command may also read module-global registers, the only ones an OFF channel
answers for. -/
def execRegRead (q : Issue) (addr : Word) (count view : Nat) (s : State) : Host.Outcome State Fault Refusal :=
  let fs := [(0, 4, addr.toNat), (4, 2, count), (6, 1, view)]
  let addrs := wordsAt addr.toNat count
  .next (
    if q.channel = 0xFF then
      s.modCmd q 0x10 fs false (badRead isGlobal) (fun d s =>
        let (ws, bad, s1) := s.readGlobal view addrs
        s1.replyM d (if bad then .cfgParity else .ok) [] (wordBytes ws))
    else
      s.chanCmdS q 0x10 fs (fun c _ => c.st = .off && !isGlobal addr.toNat) (badRead (fun a => inChan q.channel a || isGlobal a))
        (fun d s =>
          if isGlobal addr.toNat then
            let (ws, bad, s1) := s.readGlobal view addrs
            s1.onChan q.channel (fun c => c.reply d (if bad then .cfgParity else .ok) none [] (wordBytes ws))
          else
            s.onChan q.channel (fun c =>
              let (ws, bad, c1) := c.readWords view (addrs.map (fun a => a - chanBase q.channel))
              c1.reply d (if bad then .cfgParity else .ok) none [] (wordBytes ws))))

/-! ## Writes -/

/-- Whether a write of an offset meets a pending boundary strobe (R335). -/
def Chan.meetsPending (c : Chan) (off : Nat) : Bool :=
  let o := if 0x800000 ≤ off then (aliasOf off).1 else off
  ((findReg chanRegs o).map (·.isStaged)).getD false && (match c.groupOf o with | some g => (c.grove g).strobe.isSome | none => false)

/-- Words written in increasing address order (R316): whether one was refused with CAPACITY. -/
def Chan.writeWords (c : Chan) : List (Nat × Word) → Bool × Chan
  | [] => (false, c)
  | (o, v) :: t =>
    let (c1, st) := c.writeWord o v
    let (b, c2) := c1.writeWords t
    (st = .capacity || b, c2)

/-- Parameters of `REG_WRITE` out of range. -/
def badWrite (ok : Nat → Bool) (d : Datagram) : List (Bool × Nat) :=
  let n := pAt d 4 2
  [badAddr ok (pAt d 0 4) n, (decide (n = 0 ∨ 256 < n), 4)]

/-- Whether a session may write module-global offsets (R328, R339, R420, R440). -/
def State.mayWrite (s : State) (d : Datagram) (offs : List Nat) : Bool := (s.rights d.session 0xFF).1 = some .owner || !offs.any ownerOnly

/-- `REG_WRITE` (R298, R316, R335). -/
def execRegWrite (q : Issue) (addr : Word) (count : Nat) (values : List Word) (s : State) : Host.Outcome State Fault Refusal :=
  let fs := [(0, 4, addr.toNat), (4, 2, count), (8, 4 * count, leNat (slice (wordBytes values) 0 (4 * count)))]
  let ws := (wordsAt addr.toNat count).zip values
  .next (
    if q.channel = 0xFF then
      s.modCmd q 0x11 fs false (badWrite isGlobal) (fun d s =>
        if !s.mayWrite d (ws.map (·.1)) then s.replyM d .authFail [] []
        else (ws.foldl (fun s w => s.pdWrite w.1 w.2) s).replyM d .ok [] [])
    else
      s.chanCmd q 0x11 fs noConf (badWrite (inChan q.channel)) (fun d c =>
        let os := ws.map (fun w => (w.1 - chanBase q.channel, w.2))
        if os.any (fun w => c.meetsPending w.1) then c.conflict d none
        else
          let (cap, c1) := c.writeWords os
          c1.reply d (if cap then .capacity else .ok) none [] []))

/-- `REG_RMW` (R298, R320). -/
def execRegRmw (q : Issue) (addr mask value : Word) (s : State) : Host.Outcome State Fault Refusal :=
  let fs := [(0, 4, addr.toNat), (4, 4, mask.toNat), (8, 4, value.toNat)]
  .next (
    if q.channel = 0xFF then
      s.modCmd q 0x12 fs false (fun d => [badAddr isGlobal (pAt d 0 4) 1]) (fun d s =>
        if !s.mayWrite d [addr.toNat] then s.replyM d .authFail [] []
        else
          let (old, s1) := (s.pdReadCheck addr.toNat 0).2.pdRmw addr.toNat mask value
          s1.replyM d .ok [] (leBytes 4 old.toNat))
    else
      s.chanCmd q 0x12 fs noConf (fun d => [badAddr (inChan q.channel) (pAt d 0 4) 1]) (fun d c =>
        let o := addr.toNat - chanBase q.channel
        if c.meetsPending o then c.conflict d none
        else
          let (old, c1, st) := (c.readCheck o 0).2.rmwWord o mask value
          if st = .capacity then c1.reply d .capacity none [] [] else c1.reply d .ok none [] (leBytes 4 old.toNat)))

/-! ## Strobes -/

/-- Reply for a strobe that has ended. -/
def Chan.answerStrobe (c : Chan) (d : Datagram) (st : Status) (item off : Nat) : Chan :=
  if st = .stateConflict then c.conflict d none else c.reply d st none (strobeDetail st item (chanBase c.idx + off)) []

/-- `STROBE` (R330-R332). A second strobe of a channel waits for one that waits for the flit drain. -/
def execStrobe (q : Issue) (groups : BitVec 16) (s : State) : Host.Outcome State Fault Refusal :=
  let fs := [(0, 2, groups.toNat)]
  .next (
    if q.channel = 0xFF then
      s.modCmd q 0x13 fs false (fun _ => [(decide (16 ≤ groups.toNat), 0)]) (fun d s =>
        let r := s.strobeMg groups.toNat
        r.2.replyM d r.1.1 (strobeDetail r.1.1 r.1.2.1 r.1.2.2) [])
    else if (s.chan q.channel).applyWait.isSome then s
    else
      s.chanCmd q 0x13 fs noConf (fun _ => []) (fun d c =>
        match c.strobe groups.toNat (some d.queue) with
        | (.done st k o, c1) => c1.answerStrobe d st k o
        | (_, c1) => c1))

/-- `STROBE_AT_BOUNDARY` (R333-R335). -/
def execStrobeAtBoundary (q : Issue) (groups : BitVec 16) (s : State) : Host.Outcome State Fault Refusal :=
  .next (
    if (s.chan q.channel).applyWait.isSome then s
    else
      s.chanCmd q 0x14 [(0, 2, groups.toNat)] noConf (fun _ => []) (fun d c =>
        match c.strobeBoundary groups.toNat d.seq d.queue with
        | (.done .ok _ _, next, c1) => (c1.reply d .accepted none [] []).complete d .ok none (leBytes 4 next)
        | (.done st k o, _, c1) => c1.answerStrobe d st k o
        | (.pending, _, c1) => c1.reply d .accepted none [] []
        | (.waits, _, c1) => c1))

/-- `STAGE_DISCARD` (R327, R335). -/
def execStageDiscard (q : Issue) (groups : BitVec 16) (s : State) : Host.Outcome State Fault Refusal :=
  let fs := [(0, 2, groups.toNat)]
  .next (
    if q.channel = 0xFF then
      s.modCmd q 0x15 fs false (fun _ => [(decide (16 ≤ groups.toNat), 0)]) (fun d s => (s.discardMg groups.toNat).replyM d .ok [] [])
    else
      s.chanCmd q 0x15 fs noConf (fun _ => []) (fun d c =>
        let (st, c1) := c.discard groups.toNat
        c1.answerStrobe d st 0 0))

/-! ## Snapshots (R337) -/

/-- `SNAP` (R298, R337). -/
def execSnap (q : Issue) (addr : Word) (s : State) : Host.Outcome State Fault Refusal :=
  let fs := [(0, 4, addr.toNat)]
  .next (
    if q.channel = 0xFF then
      s.modCmd q 0x16 fs false (fun _ => [((pdBank addr.toNat).isNone, 0)]) (fun d s =>
        match pdBank addr.toNat with
        | some los => (s.onPort (fun p => { p with bank := p.bank.snap pdRegs los })).replyM d .ok [] []
        | none => s.badParamM d 0)
    else
      let o := addr.toNat - chanBase q.channel
      s.chanCmd q 0x16 fs noConf (fun _ => [(!inChan q.channel addr.toNat || (chanBank o).isNone, 0)]) (fun d c =>
        match c.snap o with
        | some c1 => c1.reply d .ok none [] []
        | none => c.badParam d none 0))

/-- `SNAP_RELEASE` (R337): a write of `RELEASE` to `CTL_SNAP` or `PD_SNAP`. -/
def execSnapRelease (c : Option (Fin 8)) (off : Nat) (s : State) : Host.Outcome State Fault Refusal :=
  let v : Word := BitVec.ofNat 32 (off % 2 ^ 24 + 2 ^ 31)
  match c with
  | some c => chanStep s c (fun c => if c.regsUp then (c.writePlain R.CTL_SNAP v).1 else c)
  | none => .next (if s.pd.running then s.pdWrite R.PD_SNAP v else s)

/-! ## Register events -/

/-- `REGISTER_WRITE` (R316-R318). -/
def execRegisterWrite (c : Option (Fin 8)) (off : Nat) (value : Word) (s : State) : Host.Outcome State Fault Refusal :=
  match c with
  | some c => chanStep s c (fun c => c.registerWrite off value)
  | none => .next (if s.pd.running && off % 4 = 0 then s.pdWrite off value else s)

/-- `PARITY_SWEEP` (R324, R463). -/
def execParitySweep (c : Option (Fin 8)) (s : State) : Host.Outcome State Fault Refusal :=
  match c with
  | some c => chanStep s c (fun c => if c.regsUp then c.paritySweep else c)
  | none => .next (if s.pd.running then
      s.pd.bank.badStaged.foldl (fun s o => s.pdCheckStaged o) (s.pd.bank.bad.foldl (fun s o => s.pdCheckApplied o) s)
    else s)

/-- `CH_HOLD_RELEASE` (R396, R420): `PD_CH_HOLD` is written with the bits of the mask cleared. -/
def execChHoldRelease (mask : Byte) (s : State) : Host.Outcome State Fault Refusal :=
  .next (if s.pd.running then s.pdWrite R.PD_CH_HOLD (s.pdRead R.PD_CH_HOLD 0 &&& ~~~ (mask.zeroExtend 32)) else s)

/-- `SVN_COMMIT` (R425). -/
def execSvnCommit (s : State) : Host.Outcome State Fault Refusal := .next (if s.pd.running then s.pdWrite R.SEC_CTL 1 else s)

/-- `BIND` (R437, R439). -/
def execBind (s : State) : Host.Outcome State Fault Refusal := .next (if s.pd.running then s.pdWrite R.MET_CTL 1 else s)

end Sys2Proof.Machine
end

