-- ==== Sys2Proof/Machine/WsetCmd.lean ====
section
/-! DEFINITION. Weight-set commands, base subscriptions and the coordinator's log (R121-R124, R138, R144-R149, R210, R211,
R302). -/

namespace Sys2Proof.Machine

/-! ## Checks of a manifest (R121-R123; log entry 56) -/

/-- Whole 64-byte units (R120; log entry 85). -/
def wholeLines (n : Nat) : Nat := (n + 63) / 64 * 64

/-- Stored size of an image in panel order (R42, R219). -/
def panelImage (f din dout : Nat) : Nat :=
  let blocks := (din + 31) / 32 * blockCols dout
  if fmtIsMx f then blocks * 64 * (blockBytes f + 1) else blocks * 256 * fmtBits f

/-- Stored sizes that a tensor's format and extents allow: its blocks run along one of its dimensions, or it is in panel order (R42, R121,
R219; log entry 85). -/
def imageSizes (t : MTensor) : List Nat :=
  let ds := t.dims.take t.rank
  let n := ds.foldl (· * ·) 1
  let sizes := if fmtIsMx t.fmt then ds.map (fun d => wholeLines (n / d * ((d + 31) / 32) * (blockBytes t.fmt + 1)))
    else [wholeLines (n * fmtBits t.fmt / 8)]
  sizes ++ [panelImage t.fmt (t.dims.getD 0 1) (t.dims.getD 1 1)]

/-- A tensor entry keeps R121. -/
def mTensorOk (m : Bytes) (ts : List MTensor) (t : MTensor) : Bool :=
  t.rsvOk && decide (t.id < 2 ^ 24) && fmtListed t.fmt && t.fmt ≠ fmtRg64 && t.fmt ≠ fmtSparse && decide (1 ≤ t.rank) &&
    decide (t.rank ≤ 4) && (t.dims.drop t.rank).all (fun d => d = 1) &&
    t.dims.all (fun d => decide (1 ≤ d)) && (imageSizes t).contains t.image && t.count = (t.image + 4194303) / 4194304 &&
    (if bits t.tflags 1 1 = 1 then leAt m 6 2 % 2 = 1 && t.fmt = fmtBin32 && ts.any (fun u => u.id = t.masterOf)
     else t.masterOf = 0xFFFFFFFF)

/-- The chunks of a tensor cover its image exactly, in order (R120, R123). -/
def mCovered (cs : List MChunk) (t : MTensor) : Bool :=
  (List.range t.count).all (fun j =>
    match cs[t.first + j]? with
    | some k => k.tensor = t.id && k.off = j * 4194304 && k.len = min 4194304 (t.image - j * 4194304) && decide (64 ≤ k.len) &&
        k.len % 64 = 0
    | none => false)

/-- Ids rise strictly. -/
def risingIds (l : List Nat) : Bool := (l.zip (l.drop 1)).all (fun p => decide (p.1 < p.2))

/-- A trained tensor's image, and that of its master, is in panel order (R219). -/
def panelOk (ts : List MTensor) (w : WTensor) : Bool :=
  !w.trained || ts.all (fun t =>
    !(t.id = w.id || (bits t.tflags 1 1 = 1 && t.masterOf = w.id)) || t.image = panelImage t.fmt w.din w.dout)

/-- What R123 asks of a manifest for a grove. -/
def Chan.manifestOk (c : Chan) (v : Grove) (m : Bytes) : Bool :=
  let ts := mTensors m
  let cs := mChunks m
  leAt m 0 4 = 0x574B4C50 && leAt m 4 2 = 1 && decide (leAt m 6 2 < 2) && decide (1 ≤ leAt m 8 4) && decide (leAt m 8 4 ≤ 65536) &&
    decide (1 ≤ leAt m 12 4) && decide (leAt m 12 4 ≤ 16777216) && m.length = manifestLen m && risingIds (ts.map (·.id)) &&
    ts.all (fun t => mTensorOk m ts t && mCovered cs t) && (ts.map (·.count)).foldl (· + ·) 0 = cs.length &&
    (c.tensors v).all (fun w => ts.any (fun t => t.id = w.id && t.fmt = w.fmt && t.dims = w.dims) && panelOk ts w)

/-- The publisher's key that a manifest names (R122). -/
def PortDie.publisher (p : PortDie) (m : Bytes) : Option Bytes :=
  ((p.keyFor (slice m 16 16)).bind (fun k => if k.kind = 2 then some k.key else none))

/-- R122: the publisher is registered and its signature verifies over every byte before it. -/
def signatureOk (key : Option Bytes) (m : Bytes) : Bool :=
  match key with
  | some k => decide (1344 ≤ m.length) && Config.falconVerify k (m.take (m.length - 1280)) (m.drop (m.length - 1280))
  | none => false

/-! ## Staging (R138, R144) -/

/-- A chunk as it comes from its first source, else from the alternate one: what verifies (R138). -/
def verified (m : MChunk) (k : Nat) (c1 c2 : NMap Bytes) : Option Bytes :=
  let good (x : Option Bytes) : Option Bytes := x.bind (fun b => if b.length = m.len && digest b = m.digest then some b else none)
  match good (mapFind c1 k) with
  | some b => some b
  | none => good (mapFind c2 k)

/-- Every chunk of the set that verifies, with its number. -/
def verifiedAll (m : Bytes) (c1 c2 : NMap Bytes) : NMap Bytes :=
  (mChunks m).zipIdx.filterMap (fun p => (verified p.1 p.2 c1 c2).map (fun b => (p.2, b)))

/-- Numbers of the chunks of a tier that the job map gives (R124). -/
def Chan.tierChunks (c : Chan) (v : Grove) (m : Bytes) (tier : Nat) : List Nat :=
  (c.tensors v).flatMap (fun w =>
    if w.tier ≠ tier then []
    else ((mTensors m).filter (fun t => t.id = w.id)).flatMap (fun t => (List.range t.count).map (fun j => t.first + j)))

/-- Load a RESIDENT chunk into its slot's copy, frame by frame (R124; log entry 31). -/
def Chan.loadResident (c : Chan) (g slot k : Nat) (b : Bytes) : Chan :=
  (chunksOf (b.length / 8192 + 1) 8192 b).zipIdx.foldl (fun c f =>
    (Config.residentCopy (c.grove g).image slot k f.2).foldl (fun c d =>
      let (n, lx, ly, line) := d
      let r := regionAt c.reg g n
      if !r.valid || r.remote || r.lw ≤ lx || r.lh ≤ ly || sramBytes < line * 64 + f.1.length then c
      else c.sramWrite (slotTile c.reg g n lx ly) (line * 64) f.1) c) c

/-- Load what the stage brings in: RESIDENT chunks into tiles, HBM-tier chunks into HBM (R138, R144). -/
def Chan.loadTiers (c : Chan) (g slot : Nat) (m : Bytes) (data : NMap Bytes) : Chan :=
  let v := c.grove g
  let c1 := (c.tierChunks v m 0).foldl (fun c k => c.loadResident g slot k ((mapFind data k).getD [])) c
  (c.tierChunks v m 2).foldl (fun c k => c.hbmWrite (Config.hbmCopy v.image slot k) ((mapFind data k).getD [])) c1

/-- Outcome of a stage, and the channel after it. -/
def Chan.stage (c : Chan) (g slot : Nat) (key : Option Bytes) (m : Bytes) (c1 c2 : NMap Bytes) : Status × Chan :=
  let v := c.grove g
  let data := verifiedAll m c1 c2
  if !signatureOk key m then (.signatureFail, c.setGrove g (v.setWslot slot WSlot.empty))
  else if !c.manifestOk v m then (.badParam, c.setGrove g (v.setWslot slot WSlot.empty))
  else if (c.tierChunks v m 0 ++ c.tierChunks v m 2).any (fun k => (mapFind data k).isNone) then
    (.digestFail, c.setGrove g (v.setWslot slot WSlot.empty))
  else
    let w : WSlot := { v.wslot slot with st := .staged, setId := digest m, manifest := m, digests := [], base := v.step, data := data }
    (.ok, (c.loadTiers g slot m data).onGrove g (fun v => v.setWslot slot w))

/-- The operands of a source where R302 lays it out. -/
def srcFields (off : Nat) (x : Source) : List (Nat × Nat × Nat) :=
  [(off, 1, x.kind), (off + 1, 1, x.target), (off + 4, 4, x.nsid), (off + 8, 8, x.lba), (off + 16, 2, x.node)]

/-- Source parameters out of range (R302). -/
def badSource (off : Nat) (d : Datagram) : List (Bool × Nat) :=
  [(decide (1 < pAt d off 1), off), (pAt d off 1 = 0 && decide (4 ≤ pAt d (off + 1) 1), off + 1),
   (pAt d off 1 = 0 && decide (pAt d (off + 16) 2 ≠ 0), off + 16)]

/-- The slot parameter out of range. -/
def badSlot (d : Datagram) : Bool × Nat := (decide (1 < pAt d 1 1), 1)

/-- Whether a slot may not be staged now (R147): an evaluation grove stages nothing that a replay runs on. -/
def Grove.stageBlocked (v : Grove) (slot : Nat) : Bool :=
  (v.wslot slot).st = .active || (v.wslot slot).st = .staging || (v.ws.switch.map (fun w => decide (w.slot = slot))).getD false ||
    (v.replay && v.kind = 0 && (v.wslot slot).st = .staged)

/-- `WSET_STAGE` (R144, R147). -/
def execWsetStage (q : Issue) (grove slot store1 store2 : Nat) (src1 src2 : Source) (s : State) : Host.Outcome State Fault Refusal :=
  .next (s.chanCmd q 0x70 ([(0, 1, grove), (1, 1, slot), (4, 2, store1), (6, 2, store2)] ++ srcFields 12 src1 ++ srcFields 36 src2)
    (fun c d => groveNot [.loaded, .running, .paused, .draining] c d || (c.grove grove).stageBlocked slot)
    (fun d => [badGrove d, badSlot d] ++ badSource 12 d ++ badSource 36 d) (fun d c =>
    (c.onGrove grove (fun v => v.setWslot slot
      { WSlot.empty with st := .staging, store1 := store1, store2 := store2, src1 := some src1, src2 := some src2 })).accept d))

/-- The stage ends (R144): on OK the slot is STAGED, else EMPTY. The sources gave a manifest and chunks. -/
def execWsetStageComplete (q : Issue) (manifest : Bytes) (chunks1 chunks2 : NMap Bytes) (s : State) : Host.Outcome State Fault Refusal :=
  let key := s.pd.publisher manifest
  completeStep s q 0x70 (fun d c =>
    let g := pAt d 0 1
    let k := pAt d 1 1
    if ((c.grove g).wslot k).st ≠ .staging then c.complete d .stateConflict (some g) []
    else
      let (st, c1) := c.stage g k key manifest chunks1 chunks2
      c1.complete d st (some g) (if st = .ok then digest manifest else []))

/-! ## Switching (R145-R148) -/

/-- No step or batch of a grove is open (R145, R341). -/
def Grove.atRest (v : Grove) : Bool :=
  v.st = .loaded || (v.st = .paused && !v.begun && v.update.step.isNone && v.update.queued.isEmpty)

/-- A slot that a switch may name. -/
def Grove.canSwitch (v : Grove) (slot : Nat) : Bool := (v.wslot slot).st = .staged && v.ws.switch.isNone

/-- The members of a joined grove in this module hold the slot STAGED with the same set (R146). -/
def State.membersAgree (s : State) (ch g slot : Nat) : Bool :=
  let c := s.chan ch
  let v := c.grove g
  ((c.memberNodes g).filter (fun n => n / 8 = c.node / 8 && n ≠ c.node)).all (fun n =>
    let m := s.chan (n % 8)
    match m.groveOfJob v.job with
    | some h => ((m.grove h).wslot slot).st = .staged && ((m.grove h).wslot slot).setId = (v.wslot slot).setId
    | none => false)

/-- A grove of this module subscribes to a job's base stream (R148). -/
def State.hasSubscriber (s : State) (job : Nat) : Bool :=
  (List.range 8).any (fun k => groveNums.any (fun g =>
    let c := s.chan k
    (c.grove g).st ≠ .empty && c.isSub g && c.streamJob g = job))

/-- `WSET_SWITCH` (R145-R148). Where the switch is immediate no `at` is given, and it is free (log entry 3). -/
def execWsetSwitch (q : Issue) (grove slot : Nat) (others : Bool) (s : State) : Host.Outcome State Fault Refusal :=
  let agree := others && s.membersAgree q.channel grove slot && !s.hasSubscriber ((s.chan q.channel).grove grove).job
  .next (s.chanCmd q 0x71 [(0, 1, grove), (1, 1, slot)]
    (fun c d => groveNot [.loaded, .running, .paused] c d || !(c.grove grove).canSwitch slot || !agree ||
      (decide (1 < (c.grove grove).members) && (c.grove grove).coord ≠ c.node))
    (fun d => [badGrove d, badSlot d]) (fun d c =>
    let v := c.grove grove
    let now := v.atRest
    let at_ := if now then v.step else v.switchPoint
    let c1 := if 1 < v.members then
        ((c.memberNodes grove).filter (· ≠ c.node)).foldl (fun c n => c.sendCtl n v.job (.switchAt v.job slot at_)) c
      else c
    if now then
      let (n, c2) := (c1.switchNow grove slot).draw
      c2.reply d .ok (some grove) [] ([0, 0, 0, 0] ++ leBytes 4 n)
    else
      (c1.onGrove grove (fun v => { v with ws := { v.ws with switch := some (v.switchAt slot at_) } })).reply d .ok (some grove) []
        ([if v.kind = 1 then 2 else 1, 0, 0, 0] ++ leBytes 4 at_)))

/-- `WSET_STATUS` (R302; log entry 55). -/
def execWsetStatus (q : Issue) (grove : Nat) (s : State) : Host.Outcome State Fault Refusal :=
  .next (s.chanCmd q 0x72 [(0, 1, grove)] (groveNot [.loaded, .running, .paused, .draining, .faulted]) (fun d => [badGrove d]) (fun d c =>
    let v := c.grove grove
    let (at_, c1) := match v.ws.switch with
      | some w => (w.at_, c)
      | none => c.draw
    c1.reply d .ok (some grove) [] (leBytes 1 v.ws.slot0.st.code ++ leBytes 1 v.ws.slot1.st.code ++
      [if v.ws.switch.isSome then 1 else 0, 0] ++ leBytes 4 at_ ++ slice v.ws.slot0.setId 0 32 ++ slice v.ws.slot1.setId 0 32)))

/-- `WSET_DISCARD` (R302). -/
def execWsetDiscard (q : Issue) (grove slot : Nat) (s : State) : Host.Outcome State Fault Refusal :=
  .next (s.chanCmd q 0x73 [(0, 1, grove), (1, 1, slot)]
    (fun c d => groveNot [.loaded, .running, .paused, .draining] c d || ((c.grove grove).wslot slot).st ≠ .staged ||
      (c.grove grove).stageBlocked slot) (fun d => [badGrove d, badSlot d]) (fun d c =>
    (c.onGrove grove (fun v => v.setWslot slot WSlot.empty)).reply d .ok (some grove) [] []))

/-- `BASE_DETACH` (R148, R302, R309). -/
def execBaseDetach (q : Issue) (grove : Nat) (s : State) : Host.Outcome State Fault Refusal :=
  .next (s.chanCmd q 0x74 [(0, 1, grove)] (groveNot [.loaded, .paused, .faulted]) (fun d => [badGrove d]) (fun d c =>
    (c.setFld (F.SP_WS_GRV_CFG_BASE_SUB.sh (wsOff grove)) 0).reply d .ok (some grove) [] []))

/-! ## The coordinator's log and suspect units (R210, R211) -/

/-- `VERDICT_LOG` (R211, R302): the coordinator only; oldest decision first (log entry 57). -/
def execVerdictLog (q : Issue) (grove : Nat) (s : State) : Host.Outcome State Fault Refusal :=
  .next (s.chanCmd q 0x80 [(0, 1, grove)]
    (fun c d => groveNot [.loaded, .running, .paused, .draining, .faulted] c d || (c.grove grove).kind ≠ 1 || (c.grove grove).coord ≠ c.node)
    (fun d => [badGrove d]) (fun d c =>
    let l := (c.grove grove).verdict.log
    c.reply d .ok (some grove) [] (leBytes 1 l.length ++ zeros 3 ++
      l.flatMap (fun r => leBytes 4 r.step ++ leBytes 1 r.attempt ++ leBytes 1 r.verdict ++ leBytes 2 r.reason))))

/-- `SUSPECT_CLEAR` (R210, R302). -/
def execSuspectClear (q : Issue) (units : Nat) (s : State) : Host.Outcome State Fault Refusal :=
  .next (s.chanCmd q 0x81 [(0, 1, units)] noConf (fun d => [(decide (64 ≤ pAt d 0 1), 0)]) (fun d c =>
    ((List.range 6).foldl (fun (c : Chan) u =>
      if bits units u 1 = 1 then c.setFld (F.RED_UNIT_STATUS_SUSPECT.sh (unitOff u)) 0 else c) c).reply d .ok none [] []))

end Sys2Proof.Machine
end

