-- ==== Sys2Proof/Machine/RingWrite.lean ====
section
/-! DEFINITION. Writing rings: what a capture holds, carry bitmaps, shards, manifests and the commit (R341-R360, R368). -/

namespace Sys2Proof.Machine

/-! ## The directory (R350, R351) -/

/-- A 4 KiB block at an offset of the directory; none where the file store does not give it. -/
def fsBlock (fs : NMap Bytes) (k : Nat) : Option Bytes := (mapFind fs k).map (fun b => slice b 0 4096)

/-- `n` blocks from offset `k`. -/
def fsRead (fs : NMap Bytes) (k : Nat) : Nat → Option Bytes
  | 0 => some []
  | n + 1 =>
    match fsRead fs k n, fsBlock fs (k + n) with
    | some a, some b => some (a ++ b)
    | _, _ => none

/-- Whole blocks that hold `n` bytes. -/
def blocksFor (n : Nat) : Nat := (n + 4095) / 4096

def padBlocks (b : Bytes) : Bytes := slice b 0 (4096 * blocksFor b.length)

/-- Offset of a member's state block. -/
def stateBlockAt (members k : Nat) : Nat := 17 + (members + 255) / 256 + k

/-- A member's area and state block. -/
structure MemberArea where
  start : Nat
  size  : Nat
  next  : Nat
  last  : Nat
deriving DecidableEq, Repr

def memberArea (fs : NMap Bytes) (members k : Nat) : Option MemberArea :=
  match fsBlock fs (17 + k / 256), fsBlock fs (stateBlockAt members k) with
  | some t, some b =>
    if leAt b 0 4 = 0x53544B50 then some ⟨leAt t (16 * (k % 256)) 4, leAt t (16 * (k % 256) + 4) 4, leAt b 4 4, leAt b 8 4⟩ else none
  | _, _ => none

/-- A member state block. -/
def stateBlock (next last : Nat) : Bytes := leBytes 4 0x53544B50 ++ leBytes 4 next ++ leBytes 4 last ++ zeros 4084

/-- Members of a grove. -/
def Grove.count (v : Grove) : Nat := max v.members 1

/-- Member index of this channel in a grove's job (R354; log entry 37). -/
def Chan.memberIdx (c : Chan) (g : Nat) : Nat := (firstIdx (fun n => n = c.node) (c.memberNodes g)).getD 0

/-- Why an operation on a directory cannot go on (R349, R350): unreadable, blocks of another size, or a header that is another job's. -/
def dirBad (fs : NMap Bytes) (v : Grove) : Option Status :=
  match mapFind fs 0 with
  | none => some .hwFault
  | some b =>
    if b.length = 4096 && leAt b 0 4 = 0x52444B50 && leAt b 4 2 = 1 && leAt b 6 2 = v.job && leAt b 8 2 = v.count then none else some .badParam

/-- An entry of the ring table (R352). -/
structure RingEntry where
  idx     : Nat
  kind    : Nat
  ring    : Nat
  attempt : Nat
  parent  : Nat
  parentAttempt : Nat
  mlba    : Nat
  mblocks : Nat
  mdigest : Bytes
deriving DecidableEq, Repr

/-- Entry `i` of the ring table as the directory holds it. -/
def entryAt (fs : NMap Bytes) (i : Nat) : Option RingEntry :=
  (fsBlock fs (1 + i / 64)).bind (fun b =>
    let e := slice b (64 * (i % 64)) 64
    if leAt e 0 1 = 1 then
      some ⟨i, leAt e 1 1, leAt e 4 4, leAt e 8 4, leAt e 12 4, leAt e 16 4, leAt e 20 4, leAt e 24 4, slice e 32 32⟩
    else none)

def ringEntries (fs : NMap Bytes) : List RingEntry := (List.range 1024).filterMap (entryAt fs)

def RingEntry.bytes (e : RingEntry) : Bytes :=
  [0x01] ++ leBytes 1 e.kind ++ zeros 2 ++ leBytes 4 e.ring ++ leBytes 4 e.attempt ++ leBytes 4 e.parent ++ leBytes 4 e.parentAttempt ++
    leBytes 4 e.mlba ++ leBytes 4 e.mblocks ++ zeros 4 ++ slice e.mdigest 0 32

/-! ## What a ring holds (R343, R344) -/

/-- A state range (R343). -/
structure RangeDef where
  id     : Nat
  sram   : Bool
  region : Nat
  base   : Nat
  len    : Nat
deriving DecidableEq, Repr

def Chan.ranges (c : Chan) (g : Nat) : List RangeDef :=
  let a := c.fld (F.CKP_GRV_RANGES_LINE.sh (g * 0x40)) * 64
  (List.range (min 64 (leNat (c.hbmRead a 1)))).map (fun k =>
    let b := c.hbmRead (a + 64 + 16 * k) 16
    ⟨leAt b 0 1, decide (leAt b 1 1 = 1), leAt b 2 1, leAt b 4 4, leAt b 8 4⟩)

/-- Where a piece of a shard's image lies: image offset, address in the space that the dirty generations cover (HBM bytes,
then 384 blocks a tile), bytes (R273). -/
structure Seg where
  off  : Nat
  addr : Nat
  len  : Nat
deriving DecidableEq, Repr

/-- Tile SRAM in that space. -/
def sramSpace (tile a : Nat) : Nat := (51499 * 512 + tile * 384) * 4096 + a

/-- One shard to capture: what R353 says of it, with where its image lies. -/
structure RingSrc where
  cap  : RingCap
  segs : List Seg
deriving DecidableEq, Repr

/-- OPT shards: the state records of each owned shard, in shard-table order. -/
def Chan.optSrcs (c : Chan) (g : Nat) : List RingSrc :=
  (c.owned g).map (fun s =>
    let kind := c.kindOf g s
    let n := 2 * s.nblock * stateLines kind * 64
    let a := c.stateLine g s 0 0 * 64
    let (d, f) := match c.tensorOf g s.tensor with
      | some t => ((t.din, t.dout), t.fmt)
      | none => ((0, 0), 0)
    ⟨⟨1, s.tensor, s.first, s.nblock, d, kind, f, c.hbmRead a n, []⟩, [⟨0, a, n⟩]⟩)

/-- The error-feedback value of an element of a tensor's gradient block, as bfloat16 (R191, R343). -/
def Chan.efCell (c : Chan) (g tensor block i : Nat) : Nat :=
  let es := c.egress g
  let hit := es.zipIdx.find? (fun p => p.1.valid && p.1.thinned && p.1.half = halfOf i &&
    (match c.shard g p.1.shard with
     | some s => s.tensor = tensor && s.first + p.1.block = block
     | none => false))
  match hit with
  | none => 0
  | some (e, k) =>
    let skip := match c.shard g e.shard with
      | some s => (c.skipped g s e.block).getD i false
      | none => true
    if skip then 0
    else
      let cur := c.fld (F.RED_GRV_VCODE_EF_CUR.sh (redOff g))
      formBf16 (leNat (c.hbmRead (c.efAddr g cur k + 4 * inHalf i) 4))

/-- Thinned tensors that this channel contributes to. -/
def Chan.efTensors (c : Chan) (g : Nat) : List Nat :=
  sortedIds ((c.egress g).filterMap (fun e => if e.valid && e.thinned then (c.shard g e.shard).map (·.tensor) else none))

/-- EF shards: the tensor's blocks from 0 on (log entry 59). -/
def Chan.efSrcs (c : Chan) (g : Nat) : List RingSrc :=
  (c.efTensors g).filterMap (fun t => (c.tensorOf g t).map (fun w =>
    let n := tensorBlocks w
    ⟨⟨2, t, 0, n, (w.din, w.dout), 0, w.fmt,
      (List.range n).flatMap (fun b => (List.range 2048).flatMap (fun i => leBytes 2 (c.efCell g t b i))), []⟩, []⟩))

/-- Tiles of a region's slots in increasing ly, then lx. -/
def Chan.regionTiles (c : Chan) (g n : Nat) : List Nat := ((slotsAt c.reg g).filter (fun p => p.2.region = n)).map (·.1)

/-- Range shards, by id. -/
def Chan.rangeSrcs (c : Chan) (g : Nat) : List RingSrc :=
  let rs := c.ranges g
  (sortedIds (rs.map (·.id))).flatMap (fun id => (rs.filter (fun r => r.id = id)).map (fun r =>
    if r.sram then
      let ts := c.regionTiles g r.region
      ⟨⟨4, id, 0, 0, (0, 0), 0, 0, ts.flatMap (fun t => (c.tile t).readBytes r.base r.len), []⟩,
        ts.zipIdx.map (fun p => ⟨p.2 * r.len, sramSpace p.1 r.base, r.len⟩)⟩
    else ⟨⟨3, id, 0, 0, (0, 0), 0, 0, c.hbmRead (r.base * 64) r.len, []⟩, [⟨0, r.base * 64, r.len⟩]⟩))

/-- Every shard of a member in writing order (R356). -/
def Chan.ringSrcs (c : Chan) (g : Nat) : List RingSrc := c.optSrcs g ++ c.efSrcs g ++ c.rangeSrcs g

/-! ## Carry bitmaps (R347, R348) -/

/-- The blocks of a grove's tracked image, in the order of its bitmaps (log entry 60). -/
def Chan.tracked (c : Chan) (g : Nat) : List Nat :=
  ((c.optSrcs g ++ c.rangeSrcs g).flatMap (fun s => s.segs.flatMap (fun x => if x.len = 0 then [] else blocksOf x.addr x.len))).eraseDups

def Chan.carryLines (c : Chan) (g : Nat) : Nat := ((c.tracked g).length + 511) / 512
def Chan.carryAt (c : Chan) (g : Nat) : Nat := c.fld (F.CKP_GRV_CARRY_LINE.sh (g * 0x40))

/-- Whether a bit of the frozen generation is set (R273, R274). -/
def Chan.frozenBit (c : Chan) (b : Nat) : Bool :=
  match c.region 3 with
  | some (lo, _, _) => (cellByte c.hbm ((lo + (1 - c.fld F.HBM_STATUS_GEN) * genLines) * 64 + b / 8)).getLsbD (b % 8)
  | none => false

/-- OR a list of flags into a bitmap at a line. -/
def Chan.orBitmap (c : Chan) (line : Nat) (l : List Bool) : Chan :=
  (List.range ((l.length + 511) / 512)).foldl (fun c k =>
    let new := slice (boolBits ((l.drop (512 * k)).take 512 ++ List.replicate (512 - ((l.drop (512 * k)).take 512).length) false)) 0 64
    c.hbmWriteLine (line + k) (((c.hbmLine (line + k)).zip new).map (fun p => p.1 ||| p.2))) c

/-- The frozen generation, restricted to a grove's blocks, goes into its P. -/
def Chan.foldDirty (c : Chan) (g : Nat) : Chan := c.orBitmap (c.carryAt g + c.carryLines g) ((c.tracked g).map c.frozenBit)

/-- Every block of an SRAM range slot that moved to another tile goes into P (R347). -/
def Chan.carryMoved (c : Chan) (g region tile : Nat) : Chan :=
  let rs := (c.ranges g).filter (fun r => r.sram && r.region = region)
  let bs := rs.flatMap (fun r => if r.len = 0 then [] else blocksOf (sramSpace tile r.base) r.len)
  c.orBitmap (c.carryAt g + c.carryLines g) ((c.tracked g).map (fun b => bs.contains b))

/-- Bits of a bitmap at a line. -/
def Chan.bitmap (c : Chan) (line n : Nat) : List Bool := (List.range n).map (fun k => (cellByte c.hbm (line * 64 + k / 8)).getLsbD (k % 8))

/-- Lines copied from one place to another, the source zeroed. -/
def Chan.moveLines_ (c : Chan) (src dst n : Nat) : Chan :=
  (List.range n).foldl (fun c k => (c.hbmWriteLine (dst + k) (c.hbmLine (src + k))).hbmWriteLine (src + k) (zeros 64)) c

/-- The fold at a capture point of grove `g` (R347): flip, every loaded grove's P, then C and P of `g`, then the clear. -/
def Chan.flipFold (c : Chan) (g : Nat) : Chan :=
  let c1 := c.flip
  let c2 := groveNums.foldl (fun (c : Chan) h => if (c.grove h).st = .empty then c else c.foldDirty h) c1
  (c2.moveLines_ (c.carryAt g + c.carryLines g) (c.carryAt g) (c.carryLines g)).clear

/-- Image blocks of a shard that a delta carries: those over a set bit of C; EF in full (R348). -/
def RingSrc.carried (s : RingSrc) (kind : Nat) (dirty : List Nat) : List Nat :=
  let all := List.range (blocksFor s.cap.image.length)
  if kind = 0 ∨ s.cap.kind = 2 then all
  else all.filter (fun i => s.segs.any (fun x =>
    let lo := max x.off (4096 * i)
    let hi := min (x.off + x.len) (4096 * i + 4096)
    decide (lo < hi) && (blocksOf (x.addr + lo - x.off) (hi - lo)).any (fun b => dirty.contains b)))

/-- A tracked block lies in an HBM region that is not tracked (R348). -/
def Chan.untracked (c : Chan) (g : Nat) : Bool :=
  (c.tracked g).any (fun b => decide (b < 51499 * 512) && (match (c.regionOf (b * 64)).bind c.region with
    | some (_, _, t) => !t
    | none => false))

/-- The capture would read a line or tile line that is uncorrectable (R280, R359). -/
def Chan.capturePoisoned (c : Chan) (g : Nat) : Bool :=
  let segs := (c.optSrcs g ++ c.rangeSrcs g).flatMap (·.segs)
  segs.any (fun x => if x.addr < sramSpace 0 0 then
      c.poison.any (fun l => decide (l * 64 < x.addr + x.len) && decide (x.addr < l * 64 + 64))
    else
      let a := x.addr - sramSpace 0 0
      (c.tile (a / (384 * 4096))).poisoned (a % (384 * 4096)) x.len)

/-! ## Shards and manifests (R353, R354) -/

/-- Data blocks of a shard. -/
def RingCap.data (x : RingCap) (delta : Bool) : Bytes :=
  if delta then
    padBlocks (x.carry.flatMap (leBytes 4)) ++ x.carry.flatMap (fun i => slice x.image (4096 * i) 4096)
  else padBlocks x.image

/-- Header bytes 0-63. -/
def RingCap.head (x : RingCap) (r : GroveRing) (job member : Nat) : Bytes :=
  leBytes 4 0x48534B50 ++ leBytes 2 1 ++ leBytes 1 x.kind ++ leBytes 1 r.kind ++ leBytes 2 job ++ leBytes 2 member ++ leBytes 4 r.ring ++
    leBytes 4 r.attempt ++ leBytes 4 r.parent ++ leBytes 4 x.tensor ++ leBytes 4 x.dims.1 ++ leBytes 4 x.dims.2 ++ leBytes 4 x.first ++
    leBytes 4 x.nblock ++ leBytes 1 x.opt ++ leBytes 1 x.fmt ++ zeros 2 ++ leBytes 8 x.image.length ++ leBytes 4 x.carry.length ++
    leBytes 4 ((x.data (r.kind = 1)).length / 4096)

/-- A shard's blocks at an offset, and its manifest entry. -/
def RingCap.shard (x : RingCap) (r : GroveRing) (job member at_ : Nat) : Bytes × RingShard :=
  let h := x.head r job member
  let d := x.data (r.kind = 1)
  let dg := digest (h ++ d)
  (slice (h ++ dg) 0 4096 ++ d, ⟨x.kind, r.kind, x.tensor, member, x.first, x.nblock, at_, 1 + d.length / 4096, r.ring, dg⟩)

/-- Shards one after the other from an offset. -/
def layShards (r : GroveRing) (job member : Nat) : Nat → List RingCap → Bytes × List RingShard
  | _, [] => ([], [])
  | at_, x :: t =>
    let (b, e) := x.shard r job member at_
    let (bs, es) := layShards r job member (at_ + b.length / 4096) t
    (b ++ bs, e :: es)

end Sys2Proof.Machine

namespace Sys2Proof

/-- A manifest shard entry (R354). -/
def RingShard.bytes (e : RingShard) : Bytes :=
  Machine.leBytes 1 e.kind ++ Machine.leBytes 1 e.flags ++ Machine.zeros 2 ++ Machine.leBytes 4 e.tensor ++ Machine.leBytes 2 e.member ++
    Machine.zeros 2 ++ Machine.leBytes 4 e.first ++ Machine.leBytes 4 e.nblock ++ Machine.leBytes 4 e.header ++ Machine.leBytes 4 e.blocks ++
    Machine.leBytes 4 e.ring ++ Machine.slice e.digest 0 32

end Sys2Proof

namespace Sys2Proof.Machine

/-- The tensor table of a manifest (R354): trained tensors in increasing id; a tensor without a proposal has the `G0` of its
shards. -/
def Chan.ringTable (c : Chan) (g n : Nat) : Bytes :=
  let v := c.grove g
  let ts := (c.tensors v).filter (·.trained)
  (sortedIds (ts.map (·.id))).flatMap (fun id =>
    match ts.find? (fun t => t.id = id) with
    | none => []
    | some t =>
      let o := c.optOf g id
      let m := if v.step = n + 1 then v.verdict.g else (mapFind v.update.gexp (n + 1)).getD v.verdict.g
      let gx := match mapFind m id with
        | some x => x
        | none => (((c.shards g).find? (fun s => s.tensor = id)).map (·.g0)).getD 0
      leBytes 4 id ++ leBytes 1 t.fmt ++ leBytes 1 ((o.map (·.kind)).getD 0) ++ leBytes 1 ((o.map (·.variant)).getD 0) ++
        leBytes 1 (unsigned 8 gx) ++ leBytes 4 t.din ++ leBytes 4 t.dout ++ leBytes 4 ((o.map (·.p1)).getD one32) ++
        leBytes 4 ((o.map (·.p2)).getD one32) ++ leBytes 4 ((o.map (·.t)).getD 0) ++ zeros 4)

/-- The manifest of a captured ring, signed with the device key (R354, R357). Origins of members elsewhere are free
(log entry 61). -/
def Chan.manifestOf (c : Chan) (g : Nat) : Bytes :=
  let v := c.grove g
  let r := v.ring
  let rows := (c.memberNodes g).flatMap (fun n =>
    leBytes 2 n ++ (if n = c.node then leBytes 1 v.px ++ leBytes 1 v.py
      else leBytes 2 (Config.freeNat (8 * (c.free + n) + c.idx))) ++ zeros 4)
  let es := (List.range v.count).flatMap (fun m => r.shards.filter (fun e => e.member = m))
  let body := leBytes 4 0x464D4B50 ++ leBytes 2 1 ++ leBytes 1 r.kind ++ [0] ++ leBytes 2 v.job ++ leBytes 2 v.count ++ leBytes 4 r.ring ++
    leBytes 4 r.attempt ++ leBytes 4 r.parent ++ leBytes 4 r.parentAttempt ++ leBytes 4 (r.table.length / 32) ++ leBytes 4 es.length ++
    leBytes 4 (if v.kind = 1 then r.ring + 1 else r.ring) ++ slice v.digest 0 32 ++ slice r.setId 0 32 ++ zeros 24 ++ r.table ++ rows ++
    es.flatMap (fun e => e.bytes) ++ leBytes 8 Config.serial.toNat ++ slice Config.deviceKey 0 1793 ++ slice Config.deviceCert 0 1280
  body ++ slice (Config.falconSign Config.deviceSeed body c.free) 0 1280

/-! ## The commands (R341, R342, R345-R348, R356-R359, R368) -/

/-- The ring a `RING_WRITE` asks for (R341, R342); all ones: the next capture point. -/
def Grove.ringFor (v : Grove) : Nat :=
  if v.members ≤ 1 then (if v.atRest then v.ring.point.getD 0 else 0xFFFFFFFF)
  else if v.kind = 0 then (if v.atRest then v.ring.point.getD 0 else v.step + 1)
  else if v.begun then v.step
  else ((v.verdict.log.getLast?).map (·.step)).getD v.step

/-- Whether the capture point of a ring has been passed already (R341). -/
def Grove.pastPoint (v : Grove) (n : Nat) : Bool := v.ring.point = some n && (v.kind = 0 || v.step = n + 1)

/-- `RING_WRITE` (R341, R342, R348, R368): the coordinator begins the ring in every member. The attempt id is its own last one
plus 1 (R356; log entry 62). -/
def execRingWrite (q : Issue) (grove kind idx nsid lba : Nat) (fs : NMap Bytes) (s : State) : Host.Outcome State Fault Refusal :=
  let ch := s.chan q.channel
  .next (s.chanCmd q 0x90 [(0, 1, grove), (1, 1, kind), (2, 1, idx), (4, 4, nsid), (8, 8, lba)]
    (fun c d =>
      let v := c.grove grove
      groveNot [.loaded, .running, .paused, .draining] c d || (decide (1 < v.members) && v.coord ≠ c.node) || v.ring.phase ≠ 0 ||
        v.ring.point.isNone || (kind = 1 && !v.ring.deltaOk))
    (fun d => [badGrove d, (decide (1 < pAt d 1 1) || (kind = 1 && ch.untracked grove), 1), (decide (4 ≤ pAt d 2 1), 2)]) (fun d c =>
    let v := c.grove grove
    let c1 := c.accept d
    match dirBad fs v, memberArea fs v.count (c.memberIdx grove) with
    | some st, _ => c1.complete d st (some grove) []
    | none, none => c1.complete d .hwFault (some grove) []
    | none, some m =>
      let n := v.ringFor
      let delta := decide (kind = 1)
      let r : GroveRing := { v.ring.idle with
        phase := 1, ring := n, kind := kind, attempt := m.last + 1, idx := idx, nsid := nsid, dir := lba, leads := true, from_ := c.pclk
        parent := if delta then c.fld (F.CKP_GRV_RING_RING.sh (grove * 0x40)) else 0xFFFFFFFF
        parentAttempt := if delta then c.fld (F.CKP_GRV_ATTEMPT_ATTEMPT.sh (grove * 0x40)) else 0
        due := if v.members ≤ 1 then v.atRest else v.pastPoint n }
      let c2 := c1.onGrove grove (fun v => { v with ring := r })
      if v.members ≤ 1 then c2
      else ((c.memberNodes grove).filter (· ≠ c.node)).foldl (fun c m =>
        c.sendCtl m v.job (.ringBegin v.job n kind r.attempt r.parent r.parentAttempt idx nsid lba)) c2))

/-- `RING_BEGIN` (R342, R356). -/
def execRingBegin (c : Fin 8) (job ring kind attempt parent parentAttempt idx nsid dir : Nat) (s : State) :
    Host.Outcome State Fault Refusal :=
  chanStep s c (fun c =>
    let took := c.takeCtl (.ringBegin job ring kind attempt parent parentAttempt idx nsid dir)
    match took.groveOfJob job with
    | none => took
    | some g =>
      took.onGrove g (fun v =>
        if v.st = .faulted || v.ring.phase ≠ 0 then v
        else { v with ring := { v.ring.idle with
          phase := 1, ring := ring, kind := kind, attempt := attempt, parent := parent, parentAttempt := parentAttempt, idx := idx
          nsid := nsid, dir := dir, due := v.pastPoint ring, from_ := c.pclk } }))

/-- `RING_CAPTURE` (R345, R347): at the capture point, once the other generation is clean, the hold begins and the capture
set is taken. -/
def execRingCapture (c : Fin 8) (g : Fin 16) (s : State) : Host.Outcome State Fault Refusal :=
  chanStep s c (fun c =>
    let g := g.val
    let v := c.grove g
    let r := v.ring
    if r.phase ≠ 1 || !r.due || c.fld F.HBM_STATUS_OTHER_CLEAN = 0 then c
    else
      let n := if r.ring = 0xFFFFFFFF then r.point.getD 0 else r.ring
      let lines := c.carryLines g
      let c1 := c.flipFold g
      if c1.capturePoisoned g then (c1.onGrove g (fun v => { v with ring := { v.ring with lines := lines } })).ringFails g .hwFault
      else
        let dirty := ((c1.tracked g).zip (c1.bitmap (c1.carryAt g) (c1.tracked g).length)).filterMap (fun p => if p.2 then some p.1 else none)
        let caps := (c1.ringSrcs g).map (fun x => { x.cap with carry := x.carried r.kind dirty })
        c1.onGrove g (fun v => { v with ring := { v.ring with
          phase := 2, ring := n, due := false, lines := lines, caps := caps.filter (fun x => x.carry ≠ [])
          table := c.ringTable g n, setId := (v.wslot v.slotNow).setId } }))

/-- Bytes of the capture set: every carried block. -/
def GroveRing.capBytes (r : GroveRing) : Bytes := r.caps.flatMap (fun x => x.carry.flatMap (fun i => slice x.image (4096 * i) 4096))

/-- `RING_CAPTURE_END` (R346): the copy to staging is complete, or the file store has the captured blocks; the hold ends. A set
that fits lies in the staging area in writing order (log entry 60). -/
def execRingCaptureEnd (c : Fin 8) (g : Fin 16) (s : State) : Host.Outcome State Fault Refusal :=
  chanStep s c (fun c =>
    let g := g.val
    let r := (c.grove g).ring
    if r.phase ≠ 2 then c
    else
      let b := r.capBytes
      let c1 := if blocksFor b.length ≤ c.fld (F.CKP_GRV_CFG_RING_STAGE_PAGES.sh (g * 0x40))
        then c.hbmWrite (c.fld (F.CKP_GRV_STAGE_LINE.sh (g * 0x40))) b else c
      (c1.setFld (F.CKP_GRV_HOLD_PCLK.sh (g * 0x40)) (min (c.pclk - r.from_) 0xFFFFFFFF)).onGrove g (fun v =>
        { v with ring := { v.ring with phase := 3 } }))

/-- Hand blocks to the channel's initiator; they count (R369). -/
def Chan.storeBlocks (c : Chan) (r : GroveRing) (off : Nat) (data : Bytes) : Chan :=
  { c with
    outbox := c.outbox ++ [.blocks r.idx r.nsid (r.dir + off) data]
    bank := c.bank.add64 chanRegs R.CKP_TX_LO data.length }

/-- Cut a list into pieces of `n`; the first argument bounds their number. -/
def cutList {α : Type} : Nat → Nat → List α → List (List α)
  | 0, _, l => [l]
  | k + 1, n, l => if l.length ≤ n then [l] else l.take n :: cutList k n (l.drop n)

/-- Frames of type 0x06 with a member's shard entries, up to 128 in each (R356). -/
def shardFrames (job dst ring member : Nat) (es : List RingShard) : List Frame :=
  let ps := cutList es.length 128 es
  ps.zipIdx.map (fun p =>
    { Frame.blank 0x06 dst (.raw (p.1.flatMap (fun e => e.bytes))) with
      job := job, step := ring, mb := member, shard := p.2, flags := if p.2 + 1 = ps.length then 4 else 0 })

/-- Every member's shard list is here: the coordinator commits (R357). -/
def Chan.ringGather (c : Chan) (g : Nat) : Chan :=
  c.onGrove g (fun v =>
    if v.ring.leads && v.ring.phase = 3 && (List.range v.count).all (fun m => v.ring.done.contains m) then
      { v with ring := { v.ring with phase := 4 } }
    else v)

/-- `RING_SHARDS_WRITTEN` (R351, R356). -/
def execRingShardsWritten (c : Fin 8) (g : Fin 16) (ok : Bool) (fs : NMap Bytes) (s : State) : Host.Outcome State Fault Refusal :=
  chanStep s c (fun c =>
    let g := g.val
    let v := c.grove g
    let r := v.ring
    let k := c.memberIdx g
    if r.phase ≠ 3 || r.done.contains k || r.written ≠ 0 then c
    else
      match ok, memberArea fs v.count k with
      | true, some m =>
        let (b, es) := layShards r v.job k m.next r.caps
        if m.start + m.size < m.next + b.length / 4096 then (c.setFld F.CKP_STATUS_AREA_FULL 1).ringFails g .capacity
        else
          let c1 := ((if b = [] then c else c.storeBlocks r m.next b).storeBlocks r (stateBlockAt v.count k)
            (stateBlock (m.next + b.length / 4096) r.attempt))
          let c2 := c1.onGrove g (fun v => { v with ring := { v.ring with
            written := es.length, caps := [], shards := if r.leads then v.ring.shards ++ es else v.ring.shards
            done := v.ring.done ++ [k] } })
          if r.leads then c2.ringGather g
          else (shardFrames v.job v.coord r.ring k es).foldl (fun c f => c.sendFrame f) c2
      | _, _ => c.ringFails g .hwFault)

/-- `RING_SHARD_LIST` (R356, R357, R359): a list whose last frame comes with a frame missing was lost. -/
def execRingShardList (c : Fin 8) (job ring member frameIdx : Nat) (last : Bool) (shards : List RingShard) (s : State) :
    Host.Outcome State Fault Refusal :=
  chanStep s c (fun c =>
    let took := c.takeFrame (fun f => f.typ = 0x06 && f.job = job && f.step = ring && f.mb = member && f.shard = frameIdx)
    match took.groveOfJob job with
    | none => took
    | some g =>
      let r := (took.grove g).ring
      if !r.leads || r.phase = 0 || 4 ≤ r.phase || r.done.contains member || r.ring ≠ ring || r.lists.contains (member, frameIdx) then took
      else
        let l := r.lists ++ [(member, frameIdx)]
        let c1 := took.onGrove g (fun v => { v with ring := { v.ring with
          lists := l, shards := v.ring.shards ++ shards, done := if last then v.ring.done ++ [member] else v.ring.done } })
        if last && (List.range frameIdx).any (fun i => !l.contains (member, i)) then c1.ringFails g .hwFault else c1.ringGather g)

/-- The ring is committed in a member (R347, R357, R369). -/
def Chan.ringDone (c : Chan) (g : Nat) : Chan :=
  let r := (c.grove g).ring
  let o := g * 0x40
  let c1 := ((c.setFld (F.CKP_GRV_RING_RING.sh o) r.ring).setFld (F.CKP_GRV_ATTEMPT_ATTEMPT.sh o) r.attempt).count (F.CKP_GRV_CNT_COMMITTED.sh o)
  c1.onGrove g (fun v => { v with ring := { v.ring.idle with deltaOk := true } })

/-- `RING_COMMIT` (R352, R357): manifest, own state block and the ring table block are durable, in that order. -/
def execRingCommit (c : Fin 8) (g : Fin 16) (durable : Bool) (fs : NMap Bytes) (s : State) : Host.Outcome State Fault Refusal :=
  chanStep s c (fun c =>
    let g := g.val
    let v := c.grove g
    let r := v.ring
    let k := c.memberIdx g
    if r.phase ≠ 4 || !r.leads then c
    else
      match durable, memberArea fs v.count k, (List.range 1024).find? (fun i => (entryAt fs i).isNone) with
      | true, some m, some i =>
        let man := c.manifestOf g
        let n := blocksFor man.length
        match fsBlock fs (1 + i / 64) with
        | none => c.ringFails g .hwFault
        | some tb =>
          if m.start + m.size < m.next + n then (c.setFld F.CKP_STATUS_AREA_FULL 1).ringFails g .capacity
          else
            let e : RingEntry := ⟨i, r.kind, r.ring, r.attempt, r.parent, r.parentAttempt, m.next, n, digest man⟩
            let blk := slice tb 0 (64 * (i % 64)) ++ e.bytes ++ tb.drop (64 * (i % 64) + 64)
            let c1 := (({ c with free := c.free + 1 } : Chan).storeBlocks r m.next (padBlocks man)).storeBlocks r (stateBlockAt v.count k)
              (stateBlock (m.next + n) r.attempt)
            let c2 := c1.storeBlocks r (1 + i / 64) blk
            let c3 := ((c2.memberNodes g).filter (· ≠ c.node)).foldl (fun c n => c.sendCtl n v.job (.ringDone v.job r.ring r.attempt)) c2
            let c4 := c3.ringDone g
            (c4.acceptedFor 0x90 g).foldl (fun c d => c.complete d .ok (some g) (ringData r.ring r.shards.length 0)) c4
      | true, some _, none => (c.setFld F.CKP_STATUS_AREA_FULL 1).ringFails g .capacity
      | _, _, _ => c.ringFails g .hwFault)

/-- `RING_TIMEOUT` (R359). -/
def execRingTimeout (c : Fin 8) (g : Fin 16) (s : State) : Host.Outcome State Fault Refusal :=
  chanStep s c (fun c =>
    let r := (c.grove g).ring
    if r.leads && r.phase = 3 && r.done.contains (c.memberIdx g) then c.ringFails g .hwFault else c)

/-- `RING_FAIL` (R359). -/
def execRingFail (c : Fin 8) (job attempt status written : Nat) (s : State) : Host.Outcome State Fault Refusal :=
  chanStep s c (fun c =>
    let took := c.takeCtl (.ringFail job attempt status written)
    match took.groveOfJob job with
    | none => took
    | some g =>
      let r := (took.grove g).ring
      if r.leads && r.phase ≠ 0 && r.phase ≠ 5 && r.attempt = attempt then
        took.ringFails g (if status = Status.capacity.code then .capacity else .hwFault) written
      else took)

/-- `RING_DONE` (R357). -/
def execRingDone (c : Fin 8) (job ring attempt : Nat) (s : State) : Host.Outcome State Fault Refusal :=
  chanStep s c (fun c =>
    let took := c.takeCtl (.ringDone job ring attempt)
    match took.groveOfJob job with
    | none => took
    | some g =>
      let r := (took.grove g).ring
      if r.phase = 3 && !r.leads && r.ring = ring && r.attempt = attempt then took.ringDone g else took)

end Sys2Proof.Machine
end

