-- ==== Sys2Proof/Machine/Replay.lean ====
section
/-! DEFINITION. Tile failures in service: detection, the freeze of the grove, the remap of its slots, the reload and the
restart (R101, R104, R173, R406-R413, R418). -/

namespace Sys2Proof.Machine

/-! ## Detection (R406) -/

/-- `WATCHDOG_EXPIRY` (R406): an agent of a mapped tile. -/
def execWatchdogExpiry (t : TileRef) (s : State) : Host.Outcome State Fault Refusal :=
  let i := tileIdx t
  chanStep s t.ch (fun c =>
    if c.clockRuns i && ((c.tile i).slot).isSome then c.tileFails i 4 else c)

/-- One heartbeat of a tile core: the fourth missed answer in a row fails the tile. -/
def Chan.beat (c : Chan) (silent : Bool) (i : Nat) : Chan :=
  let t := c.tile i
  if !silent then (if t.missed = 0 then c else c.setTile i { t with missed := 0 })
  else if c.isKnot i then c
  else if 3 ≤ t.missed then (c.setTile i { t with missed := 0 }).tileFails i 5
  else c.setTile i { t with missed := t.missed + 1 }

/-- `HEARTBEAT` (R406): a silent router faults the channel. -/
def execHeartbeat (c : Fin 8) (silentCores silentRouters : List (Nat × Nat)) (s : State) : Host.Outcome State Fault Refusal :=
  let ch := s.chan c
  .next (
    if ch.st ≠ .ready && ch.st ≠ .running && ch.st ≠ .frozen then s
    else if silentRouters.any (fun p => decide (p.1 < 48) && decide (p.2 < ch.admittedRows)) then
      (s.onChan c (fun c => (c.flagEvent F.CTL_FAULT_STATUS_ROUTER_FAIL F.CTL_FAULT_COUNT2_ROUTER_FAIL .hwFault 0 none).chanFault .hwFault)).settleServices
    else
      (s.onChan c (fun c => (List.range (48 * c.admittedRows)).foldl (fun (c : Chan) i =>
        c.beat (silentCores.contains (i % 48, i / 48)) i) c)).recordMap c 2)

/-! ## Remap (R104, R408, R412, R413) -/

/-- `ARG` of a tile failure's event (R414): the failed tile, the new one, grove and region. -/
def argTile (i : Nat) (j : Option Nat) (g region : Nat) : BitVec 64 :=
  BitVec.ofNat 64 (leNat [BitVec.ofNat 8 (i % 48), BitVec.ofNat 8 (i / 48), BitVec.ofNat 8 ((j.map (· % 48)).getD 0xFF),
    BitVec.ofNat 8 ((j.map (· / 48)).getD 0xFF), BitVec.ofNat 8 g, BitVec.ofNat 8 region])

/-- Write the exception entry that maps a slot to tile `j`: the slot's own entry, or the first that is not valid. -/
def Chan.writeException (c : Chan) (g : Nat) (r : SlotRef) (j : Nat) : Chan :=
  let exc := exceptionsAt c.reg g
  let e := match exc.find? (fun e => e.2.1 = r.region && e.2.2.1 = r.lx && e.2.2.2.1 = r.ly) with
    | some e => e.1
    | none => ((List.range 64).find? (fun k => !exc.any (fun e => e.1 = k))).getD 0
  let a := grvSlot g + 8 * e
  (c.putReg (R.CTL_GRV_EXC_W0 + a) (BitVec.ofNat 32 (1 + r.region * 2 + r.lx * 2 ^ 7 + r.ly * 2 ^ 15))).putReg (R.CTL_GRV_EXC_W1 + a)
    (BitVec.ofNat 32 (j % 48 + j / 48 * 2 ^ 6))

/-- Applied configuration fields of a tile's register window, copied to another tile (R408). -/
def Chan.copyTileRegs (c : Chan) (i j : Nat) : Chan :=
  (List.range 256).foldl (fun (c : Chan) k =>
    let o := 0x200000 + 4 * k
    match findReg chanRegs (o + tileSlot i) with
    | some d =>
      let m := d.bitsOf .rw ||| d.bitsOf .rws
      if m = 0 || o = R.TILE_CTL then c
      else c.putReg (o + tileSlot j) ((c.reg (o + tileSlot j) &&& ~~~ m) ||| (c.reg (o + tileSlot i) &&& m))
    | none => c) c

/-- Set up the new tile of a slot: as `CLR_FAULT` does, with the slot's window fields and load-list bytes, and its replay
range zero (R408, R409). -/
def Chan.setUpTile (c : Chan) (g : Nat) (r : SlotRef) (i j : Nat) : Chan :=
  let v := c.grove g
  let c1 := (c.clrFault j).copyTileRegs i j
  let c2 := ((c1.tileLoads v).filter (fun e => e.region = r.region && e.lx = r.lx && e.ly = r.ly)).foldl (fun (c : Chan) e =>
    c.sramWrite j e.addr (c.hbmRead (v.image * 64 + e.src) e.len)) c1
  c2.sramWrite j 0x17FE00 (zeros 512)

/-! ## Reload (R408) -/

/-- Whether a chunk copy has a frame for a slot. -/
def copyTouches (image slot chunk : Nat) (r : SlotRef) : Bool :=
  (List.range 512).any (fun f => (Config.residentCopy image slot chunk f).any (fun d => d.1 = r.region && d.2.1 = r.lx && d.2.2.1 = r.ly))

/-- Chunks of the RESIDENT tensors that a grove trains, or that it does not. -/
def Chan.residentChunks (c : Chan) (g : Nat) (trained : Bool) : List Nat :=
  let v := c.grove g
  match v.ws.active with
  | none => []
  | some k =>
    ((c.tensors v).filter (fun t => t.tier = 0 && t.trained = trained)).flatMap (fun t =>
      ((mTensors (v.wslot k).manifest).filter (fun m => m.id = t.id)).flatMap (fun m => (List.range m.count).map (fun j => m.first + j)))

/-- The untrained RESIDENT chunks of a slot are fetched again (R138, R408). -/
def Chan.reloadResident (c : Chan) (g : Nat) (r : SlotRef) : Chan :=
  let v := c.grove g
  let chunks := (c.residentChunks g false).filter (fun ch => copyTouches v.image (v.ws.active.getD 0) ch r)
  c.setGrove g { v with ws := { v.ws with
    reload := v.ws.reload ++ (chunks.filter (fun ch => !v.ws.reload.any (fun p => p.1 = ch))).map (fun ch => (ch, 0))
    reloadTo := v.ws.reloadTo ++ chunks.map (fun ch => (ch, r.region, r.lx, r.ly)) } }

/-- STORE chunks of the open residencies that have a scatter entry for a slot: residency index, residency, chunk. -/
def Chan.openChunks (c : Chan) (g : Nat) (r : SlotRef) : List (Nat × Residency × Nat) :=
  [0, 1].flatMap (fun k => if c.fld (gateFld g k) = 1 then
      match c.openOn g k with
      | some (j, x) => ((List.range x.nchunk).filter (fun q => (List.range 512).any (fun f =>
          (c.scatterOf x q f).any (fun d => d.1 = r.region && d.2.1 = r.lx && d.2.2.1 = r.ly)))).map (fun q => (j, x, x.first + q))
      | none => []
    else [])

/-- Request the STORE chunks that a slot needs, each once for all slots that need it, by unicast from the primary store. -/
def Chan.reloadStore (c : Chan) (g : Nat) (r : SlotRef) : Chan :=
  (c.openChunks g r).foldl (fun (c : Chan) x =>
    let (j, res, chunk) := x
    let v := c.grove g
    let slot := (r.region, r.lx, r.ly)
    match v.slotReloadOf chunk with
    | some y => c.setGrove g (v.setSlotReload { y with slots := if y.slots.contains slot then y.slots else y.slots ++ [slot] })
    | none =>
      let k := (c.streamSlot g).getD 0
      let w := v.wslot k
      (c.setGrove g (v.setSlotReload ⟨chunk, j, [slot], [], none, 0⟩)).sendCtl w.store1 (c.streamJob g)
        (.readChunk (w.setId.take 16) chunk c.node false (res.route (chunk - res.first)).2 k)) c

/-! ## The remap of one failed tile -/

/-- Remap the slot of tile `i` and start its reload; a ninth remap in a step, an exhausted understory or a trained RESIDENT
chunk in the slot faults the grove (R104, R408, R412, R413). -/
def Chan.remapTile (c : Chan) (g i cause : Nat) : Chan :=
  match (c.tile i).slot with
  | none => c
  | some r =>
    if r.grove ≠ g || (c.grove g).st = .faulted then c
    else if 8 ≤ (c.grove g).remaps then
      ((((c.addKnot i cause).setTile i { c.tile i with slot := none }).freeTile i).flagEvent F.CTL_FAULT_STATUS_REPLAY_FAIL F.CTL_FAULT_COUNT2_REPLAY_FAIL .hwFault 0 (some g)).groveFault g .hwFault
    else
      let c1 := c.addKnot i cause
      let exc := exceptionsAt c.reg g
      match (if 64 ≤ exc.length then none else c1.pickTile i) with
      | none =>
        let c2 := c1.flagEvent F.CTL_FAULT_STATUS_EXHAUSTED F.CTL_FAULT_COUNT2_EXHAUSTED .capacity 0 (some g)
        let c3 := (c2.setTile i { c2.tile i with slot := none }).freeTile i
        (c3.event .capacity 13 cause (some g) (argTile i none g r.region)).groveFault g .capacity
      | some j =>
        let before := c1.freeIn (fieldOf j)
        let c2 := (c1.writeException g r j).takeTables g
        let c3 := (c2.setUpTile g r i j).carryMoved g r.region j
        let c4 := (c3.flag F.CTL_FAULT_STATUS_REMAP F.CTL_FAULT_COUNT_REMAP).putReg R.CTL_LAST_REMAP
          (BitVec.ofNat 32 (j % 48 + j / 48 * 2 ^ 6 + r.region * 2 ^ 13))
        let c5 := (c4.noteLow before (fieldOf j) g).event .hwFault 13 cause (some g) (argTile i (some j) g r.region)
        let c6 := c5.onGrove g (fun v => { v with remaps := v.remaps + 1, lastSlot := (r.region, r.lx, r.ly) })
        if (c6.residentChunks g true).any (fun ch => copyTouches (c6.grove g).image ((c6.grove g).ws.active.getD 0) ch r) then
          c6.groveFault g .hwFault
        else (c6.reloadResident g r).reloadStore g r

/-- OPEN slabs of the micro-batches under replay are discarded (R173). -/
def Chan.dropOpenSlabs (c : Chan) (g : Nat) : Chan :=
  let v := (c.grove g).stash
  c.setStash g { v with slabs := v.slabs.filter (fun s => s.st ≠ .opened) }

/-- Whether the arrays of a grove's tiles have nothing in progress: the frozen grove is quiescent (R407). -/
def Chan.arraysIdle (c : Chan) (g : Nat) : Bool := (c.tilesOf g).all (fun i => (c.tile i).a.run.isNone && (c.tile i).b.run.isNone)

/-- `QUIESCE_TIMEOUT` (R407): not quiescent within 100 µs. -/
def execQuiesceTimeout (c : Fin 8) (g : Fin 16) (s : State) : Host.Outcome State Fault Refusal :=
  chanStep s c (fun c =>
    let v := c.grove g
    if !(v.replay || v.failing ≠ []) || c.arraysIdle g then c
    else (c.flagEvent F.CTL_FAULT_STATUS_REPLAY_FAIL F.CTL_FAULT_COUNT2_REPLAY_FAIL .hwFault 0 (some g)).groveFault g .hwFault)

/-- `GROVE_QUIESCED` (R109, R173, R408, R418): once no flit of the grove is on the mesh, every failed slot is remapped and reloaded, and
the knots are recorded. -/
def execGroveQuiesced (c : Fin 8) (g : Fin 16) (s : State) : Host.Outcome State Fault Refusal :=
  let ch := s.chan c
  let v := ch.grove g
  .next (if v.failing = [] || !ch.arraysIdle g || !ch.drained [g.val] || v.st = .faulted || v.st = .empty || ch.down || ch.st = .faulted then s
    else
      (s.onChan c (fun c =>
        let c1 := v.failing.foldl (fun (c : Chan) p => c.remapTile g p.1 p.2) (c.dropOpenSlabs g)
        c1.onGrove g (fun v => { v with failing := [] }))).recordMap c 2)

/-! ## Restart (R409, R410) -/

/-- The micro-batch or batch in flight in a context: the lowest `KEY_MB` where it is not idle (R409). -/
def Chan.inFlight (c : Chan) (g x : Nat) : Nat :=
  minOr 0xFFFF (((c.tilesOf g).filter (fun i => (c.ctx i x).st ≠ .idle)).map (fun i => (c.ctx i x).keyMb.toNat))

/-- Bitmap of the entries whose slab of a micro-batch survives (R409). -/
def Chan.slabMap (c : Chan) (g mb : Nat) : Bytes :=
  let live := ((c.grove g).stash.slabs.filter (fun s => s.mb = mb && s.st ≠ .opened)).map (·.entry)
  leBytes 128 ((List.range 1024).foldl (fun a e => if live.contains e then a + 2 ^ e else a) 0)

/-- The replay record (R409). -/
def Chan.replayRecord (c : Chan) (g mb0 mb1 : Nat) : Bytes :=
  let v := c.grove g
  let (n, lx, ly) := v.lastSlot
  slice (leBytes 4 0x52504B50 ++ leBytes 4 v.replayed ++ leBytes 4 v.step ++ leBytes 1 v.verdict.attempt ++ zeros 3 ++ leBytes 2 mb0
    ++ leBytes 2 mb1 ++ leBytes 1 n ++ leBytes 1 lx ++ leBytes 1 ly) 0 64 ++ c.slabMap g mb0 ++ c.slabMap g mb1 ++ zeros 192

/-- Post `STASH_SEM` once for each admitted point of a micro-batch in flight (R410). -/
def Chan.repostStash (c : Chan) (g : Nat) (mbs : List Nat) : Chan :=
  let sem := c.fld (F.HBM_STASH_GRV_CFG_STASH_SEM.sh (stashOff g))
  (List.range (min (c.grove g).stash.point (c.planPoints g))).foldl (fun (c : Chan) k =>
    let mb := (c.planPoint g k).1
    if sem ≠ 0 && mbs.contains mb then (c.tilesOf g).foldl (fun c i => c.post i (mb % 2) sem 3 0) c else c) c

/-- Post `UPD_SEM` in the update region if an update was running (R410). -/
def Chan.repostUpdate (c : Chan) (g : Nat) : Chan :=
  if (c.grove g).update.step.isNone then c
  else
    let region := c.fld (F.CKP_UPD_GRV_CFG_UPD_REGION.sh (redOff g))
    let sem := c.fld (F.CKP_UPD_GRV_CFG_UPD_SEM.sh (redOff g))
    ((c.tilesOf g).filter (fun i => ((c.tile i).slot.map (·.region)) = some region)).foldl (fun c i => c.post i 0 sem 3 0) c

/-- Restart a grove whose reload is complete: replay records, cleared contexts, due posts, contexts at their entries; what
waited for the replay follows (R309, R312, R390, R409, R410). -/
def Chan.restartGrove (c : Chan) (g : Nat) : Chan :=
  let mb0 := c.inFlight g 0
  let mb1 := c.inFlight g 1
  let c1 := (c.dropOpenSlabs g).onGrove g (fun v => { v with replays := v.replays + 1, replayed := v.replayed + 1, egress := { v.egress with replayed := true } })
  let ts := c1.tilesOf g
  let rec_ := c1.replayRecord g mb0 mb1
  let c2 := ts.foldl (fun (c : Chan) i =>
    let c := (c.sramWrite i 0x17FE00 rec_).clrFault i
    c.setTile i { c.tile i with c0 := Ctx.reset, c1 := Ctx.reset }) c1
  let c3 := [0, 1].foldl (fun (c : Chan) k => if c.fld (gateFld g k) = 1 then
      match c.openOn g k with
      | some (_, r) => c.postGate g r
      | none => c
    else c) c2
  let c4 := (c3.repostStash g ([mb0, mb1].filter (· ≠ 0xFFFF))).repostUpdate g
  let c5 := c4.onGrove g (fun v => { v with replay := false })
  let c6 := ts.foldl (fun (c : Chan) i => (c.ctxStart i 0).ctxStart i 1) c5
  let c7 := if c6.heatStops g then c6.pauseGrove g 2 else c6
  if (c7.grove g).pauseAt = some pauseNow then
    let c8 := (c7.onGrove g (fun v => { v with pauseAt := none })).pauseGrove g 0
    if c8.quiet g then c8.answerPause g pauseNow else c8
  else c7.stream g

/-- `REPLAY_RESTART` (R408, R410, R418): once the reload is complete; a PAUSED grove's restart comes when it next runs. -/
def execReplayRestart (c : Fin 8) (g : Fin 16) (reloadOk : Bool) (s : State) : Host.Outcome State Fault Refusal :=
  chanStep s c (fun c =>
    let v := c.grove g
    if !v.replay || v.failing ≠ [] then c
    else if !reloadOk then
      (c.flagEvent F.CTL_FAULT_STATUS_REPLAY_FAIL F.CTL_FAULT_COUNT2_REPLAY_FAIL .digestFail 0 (some g)).groveFault g .digestFail
    else if v.ws.reload ≠ [] || v.ws.slotReload ≠ [] || !v.st.active || !c.arraysIdle g then c
    else c.restartGrove g)

end Sys2Proof.Machine
end

