-- ==== Sys2Proof/Machine/RingRestore.lean ====
section
/-! DEFINITION. Restoring rings: chains and their checks, composed images and re-slicing, what a restore installs, queries and
orphans (R355, R360-R366). -/

namespace Sys2Proof.Machine

/-! ## Manifests and chains (R354, R355, R363) -/

/-- Length of a manifest, from its head. -/
def ringManifestLen (b : Bytes) : Nat := 128 + 32 * leAt b 28 4 + 8 * leAt b 10 2 + 64 * leAt b 32 4 + 8 + 1793 + 1280 + 1280

def parseRingShard (b : Bytes) : RingShard :=
  ⟨leAt b 0 1, leAt b 1 1, leAt b 4 4, leAt b 8 2, leAt b 12 4, leAt b 16 4, leAt b 20 4, leAt b 24 4, leAt b 28 4, slice b 32 32⟩

/-- Shards a manifest lists. -/
def manifestShards (m : Bytes) : List RingShard :=
  let a := 128 + 32 * leAt m 28 4 + 8 * leAt m 10 2
  (List.range (leAt m 32 4)).map (fun k => parseRingShard (slice m (a + 64 * k) 64))

/-- R355. -/
def manifestVerifies (keys : List KeyRec) (digest_ : Bytes) (m : Bytes) : Bool :=
  let n := m.length
  let key := slice m (n - 1280 - 1280 - 1793) 1793
  let serial := slice m (n - 1280 - 1280 - 1793 - 8) 8
  decide (4361 ≤ n) && digest m = digest_ && leAt m 0 4 = 0x464D4B50 && leAt m 4 2 = 1 &&
    Config.falconVerify key (m.take (n - 1280)) (m.drop (n - 1280)) &&
    (if leAt m 7 1 = 0 then Config.falconVerify Config.factoryRoot (key ++ serial) (slice m (n - 2560) 1280)
     else keys.any (fun k => k.kind = 2 && fprOf k.key = fprOf key))

/-- The manifest of a ring table entry, if it verifies. -/
def readManifest (keys : List KeyRec) (fs : NMap Bytes) (e : RingEntry) : Option Bytes :=
  match fsRead fs e.mlba e.mblocks with
  | none => none
  | some b =>
    let m := slice b 0 (ringManifestLen b)
    if decide (ringManifestLen b ≤ b.length) && manifestVerifies keys e.mdigest m then some m else none

/-- The valid entry of a ring: the highest index of several (R363). -/
def entryFor (fs : NMap Bytes) (ring : Nat) : Option RingEntry := ((ringEntries fs).filter (fun e => e.ring = ring)).getLast?

/-- The chain that ends in an entry, base first; the first argument bounds its length (R363). -/
def chainFrom (keys : List KeyRec) (fs : NMap Bytes) : Nat → Option RingEntry → List (RingEntry × Bytes) → Status × List (RingEntry × Bytes)
  | _, none, _ => (.digestFail, [])
  | 0, some _, _ => (.digestFail, [])
  | n + 1, some e, acc =>
    match readManifest keys fs e with
    | none => (.signatureFail, [])
    | some m =>
      if leAt m 6 1 = 0 then (.ok, (e, m) :: acc)
      else
        chainFrom keys fs n (((ringEntries fs).filter (fun x => x.ring = leAt m 20 4 && x.attempt = leAt m 24 4)).getLast?) ((e, m) :: acc)

def chainOf (keys : List KeyRec) (fs : NMap Bytes) (ring : Nat) : Status × List (RingEntry × Bytes) :=
  chainFrom keys fs 1024 (entryFor fs ring) []

/-- A tensor table entry as far as R361 and R365 use it. -/
structure RingTensor where
  id   : Nat
  fmt  : Nat
  kind : Nat
  g    : Int
  din  : Nat
  dout : Nat
  p1   : Nat
  p2   : Nat
  t    : Nat
deriving DecidableEq, Repr

def ringTensors (m : Bytes) : List RingTensor :=
  (List.range (leAt m 28 4)).map (fun k =>
    let b := slice m (128 + 32 * k) 32
    ⟨leAt b 0 4, leAt b 4 1, leAt b 5 1, signed 8 (leAt b 7 1), leAt b 8 4, leAt b 12 4, leAt b 16 4, leAt b 20 4, leAt b 24 4⟩)

/-- R361 against the manifest of the ring. -/
def Chan.ringFits (c : Chan) (g : Nat) (m : Bytes) : Bool :=
  let v := c.grove g
  let ts := (c.tensors v).filter (·.trained)
  let rs := ringTensors m
  (match v.ws.active with
   | some k => (v.wslot k).setId = slice m 72 32
   | none => false) &&
    decide (rs.length = ts.length) && ts.all (fun t => rs.any (fun r =>
      r.id = t.id && r.fmt = t.fmt && r.din = t.din && r.dout = t.dout && r.kind = ((c.optOf g t.id).map (·.kind)).getD 0))

/-! ## Shards (R353, R362, R363) -/

/-- What reading a shard gives. -/
inductive ShardRead where
  | ok (image : Nat) (carry : List Nat) (data : Bytes)   -- image bytes, carried blocks, their bytes
  | bad (inconsistent : Bool)
deriving DecidableEq, Repr

/-- Read and check one shard of a manifest (R363). -/
def readShard (fs : NMap Bytes) (m : Bytes) (e : RingShard) : ShardRead :=
  match fsBlock fs e.header, fsRead fs (e.header + 1) (e.blocks - 1) with
  | some h, some d =>
    if leAt h 0 4 ≠ 0x48534B50 then .bad false
    else if leAt h 12 4 ≠ e.ring || leAt h 16 4 ≠ leAt m 16 4 || leAt h 8 2 ≠ leAt m 8 2 then .bad true
    else if slice h 64 32 ≠ e.digest || digest (slice h 0 64 ++ d) ≠ e.digest then .bad false
    else
      let n := leAt h 56 4
      if leAt h 7 1 % 2 = 1 then .ok (leAt h 48 8) ((List.range n).map (fun k => leAt d (4 * k) 4)) (d.drop (4096 * blocksFor (4 * n)))
      else .ok (leAt h 48 8) (List.range n) d
  | _, _ => .bad false

/-- A shard's image as it is composed along a chain (R348, R363). -/
structure Composed where
  kind   : Nat
  tensor : Nat
  member : Nat
  first  : Nat
  nblock : Nat
  image  : Bytes
deriving DecidableEq, Repr

/-- Put carried blocks over an image. -/
def overlay (image : Bytes) (n : Nat) (carry : List Nat) (data : Bytes) : Bytes :=
  slice (carry.zipIdx.foldl (fun (b : Bytes) p =>
    slice b 0 (4096 * p.1) ++ slice data (4096 * p.2) 4096 ++ b.drop (4096 * p.1 + 4096)) (slice image 0 n)) 0 n

def Composed.is (x : Composed) (e : RingShard) : Bool := x.kind = e.kind && x.tensor = e.tensor && x.member = e.member && x.first = e.first

/-- Apply a shard to what is composed so far. -/
def compose (l : List Composed) (e : RingShard) (n : Nat) (carry : List Nat) (data : Bytes) : List Composed :=
  match l.find? (fun x => x.is e) with
  | some x => l.map (fun y => if y = x then { x with image := overlay x.image n carry data } else y)
  | none => l ++ [⟨e.kind, e.tensor, e.member, e.first, e.nblock, overlay [] n carry data⟩]

/-- What a run over a chain gives: bad shards by header offset, whether one was inconsistent, the composed images. -/
structure ChainRead where
  bad  : List Nat
  inc  : Bool
  imgs : List Composed
deriving DecidableEq, Repr

/-- Read every shard of a chain that `mine` picks, base first (R363). -/
def readChain (fs : NMap Bytes) (mine : RingShard → Bool) (chain : List (RingEntry × Bytes)) : ChainRead :=
  chain.foldl (fun r em =>
    ((manifestShards em.2).filter mine).foldl (fun (r : ChainRead) e =>
      match readShard fs em.2 e with
      | .ok n carry data => { r with imgs := compose r.imgs e n carry data }
      | .bad inc => { r with bad := r.bad ++ [e.header], inc := r.inc || inc }) r) ⟨[], false, []⟩

/-- Owner of a tensor's gradient block in the present layout. -/
def Chan.blockOwner (c : Chan) (g tensor block : Nat) : Option Nat :=
  ((c.shards g).find? (fun s => s.tensor = tensor && decide (s.first ≤ block) && decide (block < s.first + s.nblock))).map (·.owner)

/-- Node that reads a shard (R362). -/
def Chan.readerNode (c : Chan) (g : Nat) (e : RingShard) : Nat :=
  let v := c.grove g
  let ns := c.memberNodes g
  let who : Option Nat :=
    if e.kind = 1 then c.blockOwner g e.tensor e.first
    else if e.kind = 2 then ((Config.efSources v.job e.tensor).head?).bind (fun k => ns[k]?)
    else ns[e.member]?
  who.getD (if v.members ≤ 1 then c.node else v.coord)

/-! ## Images on the present layout (R362, R364) -/

/-- A part of an image for a member: kind, tensor or range, offset in the tensor's or range's image, bytes. For OPT the
image is the tensor's records in block order, for EF its blocks of 2,048 bfloat16 values (log entry 58). -/
structure ImgPart where
  kind   : Nat
  tensor : Nat
  off    : Nat
  data   : Bytes
deriving DecidableEq, Repr

/-- Bytes of a tensor's OPT image per gradient block. -/
def optBlockBytes (kind : Nat) : Nat := 2 * stateLines kind * 64

/-- OPT parts of a composed shard with the node each goes to, block by block. -/
def Chan.optParts (c : Chan) (g : Nat) (x : Composed) : List (Nat × ImgPart) :=
  let n := optBlockBytes (((c.optOf g x.tensor).map (·.kind)).getD 0)
  (List.range x.nblock).filterMap (fun b => (c.blockOwner g x.tensor (x.first + b)).map (fun o =>
    (o, ⟨1, x.tensor, n * (x.first + b), slice x.image (n * b) n⟩)))

/-- The EF value of an element as one member saved it, in binary32. -/
def Composed.efVal (x : Composed) (k : Nat) : Nat :=
  if k / 2048 < x.first ∨ x.first + x.nblock ≤ k / 2048 then 0 else leAt x.image (2 * (k - 2048 * x.first)) 2 * 65536

/-- EF parts of a tensor (R364), as binary32: on the same layout each source its own, else the sum for the lowest source and
zeros for the others. -/
def Chan.efParts (c : Chan) (g tensor : Nat) (same : Bool) (xs : List Composed) : List (Nat × ImgPart) :=
  let v := c.grove g
  let ns := c.memberNodes g
  let srcs := Config.efSources v.job tensor
  let n := ((c.tensorOf g tensor).map tensorBlocks).getD 0 * 2048
  let sorted := (sortedIds (xs.map (·.member))).filterMap (fun m => xs.find? (fun x => x.member = m))
  srcs.zipIdx.filterMap (fun p => (ns[p.1]?).map (fun node =>
    let vals := (List.range n).map (fun k =>
      if same then ((xs.find? (fun x => x.member = p.1)).map (fun x => x.efVal k)).getD 0
      else if p.2 = 0 then
        sorted.foldl (fun a x => (binary32.add (binary32.decode a) (binary32.decode (x.efVal k))).1) 0
      else 0)
    (node, ⟨2, tensor, 0, bytes32 vals⟩)))

/-- Parts that a reader has for the members (R362). -/
def Chan.partsOf (c : Chan) (g : Nat) (same : Bool) (imgs : List Composed) : List (Nat × ImgPart) :=
  let opt := (imgs.filter (fun x => x.kind = 1)).flatMap (fun x => c.optParts g x)
  let efT := sortedIds ((imgs.filter (fun x => x.kind = 2)).map (·.tensor))
  let ef := efT.flatMap (fun t => c.efParts g t same (imgs.filter (fun x => x.kind = 2 && x.tensor = t)))
  let rng := (imgs.filter (fun x => (x.kind = 3 || x.kind = 4) && x.member = c.memberIdx g)).map (fun x => (c.node, ⟨x.kind, x.tensor, 0, x.image⟩))
  opt ++ ef ++ rng

/-- Keep a part. -/
def Grove.addPart (v : Grove) (p : ImgPart) : Grove :=
  let k := v.ring.parts.length
  { v with ring := { v.ring with parts := v.ring.parts ++ [(p.kind, p.tensor, p.off)], image := mapPut v.ring.image k p.data } }

/-- Frames that carry a part to its member: pieces of 8,176 bytes behind the 16-byte prefix (R362). -/
def partFrames (job dst : Nat) (p : ImgPart) : List Frame :=
  (chunksOf (p.data.length / 8176 + 1) 8176 p.data).zipIdx.map (fun x =>
    { Frame.blank 0x06 dst (.raw (leBytes 8 (p.off + 8176 * x.2) ++ leBytes 4 x.1.length ++ leBytes 1 p.kind ++ zeros 3 ++ x.1)) with
      job := job, tensor := p.tensor })

/-- `n` bytes of an image from `off`, once the parts here cover them. -/
def Grove.partBytes (v : Grove) (kind tensor off n : Nat) : Option Bytes :=
  let ps := v.ring.parts.zipIdx.filter (fun p => p.1.1 = kind && p.1.2.1 = tensor)
  let at_ (a : Nat) : Option Byte := ps.findSome? (fun p =>
    let b := (mapFind v.ring.image p.2).getD []
    if p.1.2.2 ≤ a then b[a - p.1.2.2]? else none)
  let l := (List.range n).map (fun k => at_ (off + k))
  if l.all (·.isSome) then some (l.map (·.getD 0)) else none

/-! ## Installing (R365) -/

/-- Whether everything this member restores is here: its OPT records and its EF buffers. -/
def Chan.partsHere (c : Chan) (g : Nat) : Bool :=
  let v := c.grove g
  (c.owned g).all (fun s =>
    let n := optBlockBytes (c.kindOf g s)
    (v.partBytes 1 s.tensor (n * s.first) (n * s.nblock)).isSome) &&
    (c.efTensors g).all (fun t => (v.partBytes 2 t 0 (((c.tensorOf g t).map tensorBlocks).getD 0 * 8192)).isSome)

/-- Install OPT records. -/
def Chan.installOpt (c : Chan) (g : Nat) : Chan :=
  let v := c.grove g
  (c.owned g).foldl (fun c s =>
    let n := optBlockBytes (c.kindOf g s)
    match v.partBytes 1 s.tensor (n * s.first) (n * s.nblock) with
    | some b => c.hbmWrite (c.stateLine g s 0 0) b
    | none => c) c

/-- Install error feedback into the current buffer. -/
def Chan.installEf (c : Chan) (g : Nat) : Chan :=
  let v := c.grove g
  let cur := c.fld (F.RED_GRV_VCODE_EF_CUR.sh (redOff g))
  (c.egress g).zipIdx.foldl (fun c p =>
    if !p.1.valid || !p.1.thinned then c
    else
      match c.shard g p.1.shard with
      | none => c
      | some s =>
        match v.partBytes 2 s.tensor ((s.first + p.1.block) * 8192) 8192 with
        | none => c
        | some b => c.hbmWrite (c.efAddr g cur p.2 / 64) ((List.range 1024).flatMap (fun k =>
            slice b (4 * (k / 32 * 64 + p.1.half * 32 + k % 32)) 4))) c

/-- Install state ranges. -/
def Chan.installRanges (c : Chan) (g : Nat) : Chan :=
  let v := c.grove g
  (c.ranges g).foldl (fun c r =>
    if r.sram then
      let ts := c.regionTiles g r.region
      match v.partBytes 4 r.id 0 (ts.length * r.len) with
      | some b => ts.zipIdx.foldl (fun c p => c.sramWrite p.1 r.base (slice b (p.2 * r.len) r.len)) c
      | none => c
    else
      match v.partBytes 3 r.id 0 r.len with
      | some b => c.hbmWrite r.base b
      | none => c) c

/-- Install the optimizer values of a manifest. -/
def Chan.installTable (c : Chan) (g : Nat) (m : Bytes) : Chan :=
  (c.optEntries g).foldl (fun c e =>
    match (ringTensors m).find? (fun r => r.id = e.tensor) with
    | some r =>
      let a := e.line / 64
      c.hbmWriteLine a (slice (c.hbmLine a) 0 48 ++ leBytes 4 r.p1 ++ leBytes 4 r.p2 ++ leBytes 4 r.t ++ slice (c.hbmLine a) 60 4)
    | none => c) c

/-- Every owned panel's image from its restored master (R226, R365 step 4). -/
def Chan.formAll (c : Chan) (g : Nat) : NMap Bytes :=
  (List.range (c.panels g)).foldl (fun m p =>
    match c.panel g p with
    | none => m
    | some (s, block, half) =>
      let fmt := ((c.tensorOf g s.tensor).map (·.fmt)).getD 0
      let square := ((c.mTensor g s.tensor).map (fun t => decide (t.tflags % 2 = 1))).getD false
      mapPut m p (formPanel fmt square (c.stateOf g s block half).master)) []

/-- The state of a fresh load (R221, R363). -/
def Chan.freshState (c : Chan) (g : Nat) : Chan :=
  match (c.grove g).ws.active with
  | some k => if (c.grove g).kind = 1 then (c.initState g k).clearEf g else c
  | none => c

/-- Install a restored ring (R365). -/
def Chan.install (c : Chan) (g : Nat) : Chan :=
  let m := (c.grove g).ring.manifest
  let n := leAt m 36 4
  let c1 := ((((c.installOpt g).installEf g).installRanges g).installTable g m).onGrove g (fun v =>
    { v with
      step := n, mb := 0, begun := false
      verdict := { v.verdict with attempt := 0, g := (ringTensors m).foldl (fun x r => mapPut x r.id r.g) v.verdict.g }
      ring := { v.ring with installed := true } })
  if (c.grove g).kind = 1 then
    let imgs := c1.formAll g
    let c2 := c1.onGrove g (fun v => { v with update := { v.update with
      step := some (n - 1), written := List.range (c1.panels g), images := imgs, formed := [], chunks := [] } })
    Chan.formChunks g (n - 1) 65536 c2
  else c1

/-- Every owned chunk is formed and confirmed (R232, R365). -/
def Chan.writtenBack (c : Chan) (g : Nat) : Bool :=
  let u := (c.grove g).update
  u.chunks = [] && (c.ownedChunks g).all (fun k => u.formed.contains k.2.2.2.1)

/-- The restore ends well (R347, R365, R369). -/
def Chan.restoreDone (c : Chan) (g : Nat) : Chan :=
  let v := c.grove g
  let r := v.ring
  let o := g * 0x40
  let att := leAt r.manifest 16 4
  let same := slice r.manifest 40 32 = slice v.digest 0 32
  let lines := c.carryLines g
  let c1 := c.flipFold g
  let c2 := (List.range (2 * lines)).foldl (fun c k => c.hbmWriteLine (c.carryAt g + k) (zeros 64)) c1
  let c3 := ((c2.setFld (F.CKP_GRV_RING_RING.sh o) r.ring).setFld (F.CKP_GRV_ATTEMPT_ATTEMPT.sh o) att).count (F.CKP_GRV_CNT_RESTORES.sh o)
  let c4 := c3.onGrove g (fun v => { v with
    update := GroveUpdate.reset
    ring := { v.ring.idle with point := some r.ring, deltaOk := same } })
  if r.leads then
    (c4.acceptedFor 0x91 g).foldl (fun c d => c.complete d .ok (some g) (leBytes 4 r.ring ++ leBytes 4 0)) c4
  else c4

/-! ## The restore (R361-R363) -/

/-- The worse of two member results: inconsistency first, then what came first (R363). -/
def worse (a b : Status) : Status :=
  if a = .restoreInconsistent || b = .restoreInconsistent then .restoreInconsistent else if a = .ok then b else a

/-- The coordinator's view of the members' results: whether all are in, the result, the bad shards. -/
def Chan.gathered (c : Chan) (g : Nat) : Bool × Status × List Nat :=
  let v := c.grove g
  let rs := v.ring.reports
  ((List.range v.count).all (fun k => rs.any (fun r => r.1 = k)), rs.foldl (fun a r => worse a (statusOf r.2.1)) .ok, rs.flatMap (fun r => r.2.2))

/-- A restore that ends with a bad shard or a failed check leaves a fresh load; the members hear of it by `RING_ABORT`
(log entry 58). -/
def Chan.restoreEnds (c : Chan) (g : Nat) : Chan :=
  let v := c.grove g
  let (all, st, bad) := c.gathered g
  if !all || st = .ok then c
  else
    let c1 := ((c.memberNodes g).filter (· ≠ c.node)).foldl (fun c n => c.sendCtl n v.job (.ringAbort v.job v.ring.attempt)) c
    (c1.freshState g).restoreFails g st bad

/-- Bytes read from the file store count; how often a directory block is read again is free (R369; log entry 58). -/
def Chan.countReads (c : Chan) : Chan :=
  let (n, c0) := c.draw
  { c0 with bank := c0.bank.add64 chanRegs R.CKP_RX_LO n }

/-- This member's own run: its result goes to the coordinator, its parts to their members. -/
def Chan.restoreRead (c : Chan) (g : Nat) (keys : List KeyRec) (fs : NMap Bytes) : Chan :=
  let v := c.grove g
  let ring := v.ring.ring
  let (st, chain) := chainOf keys fs ring
  let m := ((chain.getLast?).map (·.2)).getD []
  let bad0 : Status := match dirBad fs v with
    | some x => x
    | none => if st ≠ .ok then st else if !c.ringFits g m then .badParam else .ok
  let rd := if bad0 = .ok then readChain fs (fun e => c.readerNode g e = c.node) chain else ⟨[], false, []⟩
  let res : Status := if bad0 ≠ .ok then bad0 else if rd.bad = [] then .ok else if rd.inc then .restoreInconsistent else .digestFail
  let same := slice m 40 32 = slice v.digest 0 32
  let parts := if res = .ok then c.partsOf g same rd.imgs else []
  let drop := decide (res = .ok) && rd.imgs.any (fun x => (x.kind = 3 || x.kind = 4) && decide (v.count ≤ x.member))
  let c1 := c.countReads
  let c2 := if drop then (c1.setFld F.CKP_STATUS_RANGE_DROP 1).event .ok 6 0 (some g) (argFld F.CKP_STATUS_RANGE_DROP) else c1
  let c3 := c2.onGrove g (fun v => { v with ring := { v.ring with manifest := m, reading := false } })
  let c4 := parts.foldl (fun c p =>
    if p.1 = c.node then c.onGrove g (fun v => v.addPart p.2)
    else (partFrames v.job p.1 p.2).foldl (fun c f => c.sendFrame f) c) c3
  if v.ring.leads then
    (c4.onGrove g (fun v => { v with ring := { v.ring with reports := v.ring.reports ++ [(c.memberIdx g, res.code, rd.bad)] } })).restoreEnds g
  else c4.sendCtl v.coord v.job (.restoreReport v.job res.code rd.bad)

/-- The ring that `RESTORE_QUERY` returns (R366): the newest whose whole chain passes. -/
def Chan.queryRing (c : Chan) (g : Nat) (keys : List KeyRec) (fs : NMap Bytes) : Nat :=
  let rings := (sortedIds ((ringEntries fs).map (·.ring))).reverse
  (rings.find? (fun r =>
    let (st, chain) := chainOf keys fs r
    st = .ok && c.ringFits g (((chain.getLast?).map (·.2)).getD []) && (readChain fs (fun _ => true) chain).bad = [])).getD 0xFFFFFFFF

/-- Fields of the commands that name a ring directory (R303). -/
def ringFields (grove idx nsid lba : Nat) : List (Nat × Nat × Nat) := [(0, 1, grove), (2, 1, idx), (4, 4, nsid), (8, 8, lba)]

def badRing (d : Datagram) : List (Bool × Nat) := [badGrove d, (decide (4 ≤ pAt d 2 1), 2)]

/-- `RING_RESTORE` (R309, R361, R368): the coordinator begins the restore in every member and reads its own shards. -/
def execRingRestore (q : Issue) (grove idx nsid lba ring : Nat) (fs : NMap Bytes) (s : State) : Host.Outcome State Fault Refusal :=
  let keys := s.pd.keys
  .next (s.chanCmd q 0x91 (ringFields grove idx nsid lba ++ [(16, 4, ring)])
    (fun c d =>
      let v := c.grove grove
      groveNot [.loaded] c d || (decide (1 < v.members) && v.coord ≠ c.node) || v.ring.phase ≠ 0) badRing (fun d c =>
    let v := c.grove grove
    let n := if ring = 0xFFFFFFFF then c.queryRing grove keys fs else ring
    let att := ((entryFor fs n).map (·.attempt)).getD 0
    let c1 := (c.accept d).onGrove grove (fun v => { v with ring := { v.ring.idle with
      phase := 5, ring := n, attempt := att, idx := idx, nsid := nsid, dir := lba, leads := true } })
    let c2 := if v.members ≤ 1 then c1
      else ((c.memberNodes grove).filter (· ≠ c.node)).foldl (fun c m => c.sendCtl m v.job (.restoreBegin v.job n att idx nsid lba)) c1
    c2.restoreRead grove keys fs))

/-- `RESTORE_BEGIN` (R361, R362). -/
def execRestoreBegin (c : Fin 8) (job ring attempt idx nsid dir : Nat) (fs : NMap Bytes) (s : State) : Host.Outcome State Fault Refusal :=
  let keys := s.pd.keys
  chanStep s c (fun c =>
    let took := c.takeCtl (.restoreBegin job ring attempt idx nsid dir)
    match took.groveOfJob job with
    | none => took
    | some g =>
      let v := took.grove g
      if v.st ≠ .loaded || v.ring.phase ≠ 0 then took.sendCtl v.coord job (.restoreReport job Status.stateConflict.code [])
      else
        (took.onGrove g (fun v => { v with ring := { v.ring.idle with
          phase := 5, ring := ring, attempt := attempt, idx := idx, nsid := nsid, dir := dir } })).restoreRead g keys fs)

/-- `RESTORE_IMAGE_FRAME` (R362). -/
def execRestoreImageFrame (c : Fin 8) (job kind tensor offset : Nat) (image : Bytes) (s : State) : Host.Outcome State Fault Refusal :=
  chanStep s c (fun c =>
    let body := leBytes 8 offset ++ leBytes 4 image.length ++ leBytes 1 kind ++ zeros 3 ++ image
    let took := c.takeFrame (fun f => f.typ = 0x06 && f.job = job && f.tensor = tensor && f.payload = .raw body)
    match took.groveOfJob job with
    | none => took
    | some g =>
      if (took.grove g).ring.phase = 5 && !(took.grove g).ring.installed then took.onGrove g (fun v => v.addPart ⟨kind, tensor, offset, image⟩)
      else took)

/-- `RESTORE_REPORT` (R363). -/
def execRestoreReport (c : Fin 8) (job member status : Nat) (bad : List Nat) (s : State) : Host.Outcome State Fault Refusal :=
  chanStep s c (fun c =>
    let took := match c.groveOfJob job with
      | some g => c.takeFrame (fun f => f.src = ((c.memberNodes g)[member]?).getD 0xFFFF && f.payload = .ctl (.restoreReport job status bad))
      | none => c.takeCtl (.restoreReport job status bad)
    match took.groveOfJob job with
    | none => took
    | some g =>
      let r := (took.grove g).ring
      if r.phase ≠ 5 || !r.leads || r.reports.any (fun x => x.1 = member) then took
      else (took.onGrove g (fun v => { v with ring := { v.ring with reports := v.ring.reports ++ [(member, status, bad)] } })).restoreEnds g)

/-- `RESTORE_COMPLETE` (R365): once every part is here the ring is installed; once the write-back is complete and a flip is
accepted the restore ends. -/
def execRestoreComplete (c : Fin 8) (g : Fin 16) (s : State) : Host.Outcome State Fault Refusal :=
  chanStep s c (fun c =>
    let g := g.val
    let r := (c.grove g).ring
    if r.phase ≠ 5 then c
    else if !r.installed then
      if c.partsHere g && (!r.leads || (c.gathered g).1) then c.install g else c
    else if c.writtenBack g && c.fld F.HBM_STATUS_OTHER_CLEAN = 1 then c.restoreDone g
    else c)

/-- `RING_ABORT` (R359): a member stops writing; one that restores is as freshly loaded (log entry 58). -/
def execRingAbort (c : Fin 8) (job attempt : Nat) (s : State) : Host.Outcome State Fault Refusal :=
  chanStep s c (fun c =>
    let took := c.takeCtl (.ringAbort job attempt)
    match took.groveOfJob job with
    | none => took
    | some g =>
      let r := (took.grove g).ring
      if r.leads || r.phase = 0 || r.attempt ≠ attempt then took
      else if r.phase = 5 then
        ((took.freshState g).setFld F.CKP_STATUS_RESTORE_FAIL 1).onGrove g (fun v => { v with ring := v.ring.idle, update := GroveUpdate.reset })
      else took.ringFails g .hwFault 0 true)

/-! ## Queries (R360, R366) -/

/-- The grove states in which a directory may be examined. -/
def ringLooks : List GroveState := [.loaded, .running, .paused, .draining, .faulted]

/-- `RESTORE_QUERY` (R366). -/
def execRestoreQuery (q : Issue) (grove idx nsid lba : Nat) (s : State) : Host.Outcome State Fault Refusal :=
  .next (s.chanCmd q 0x92 (ringFields grove idx nsid lba) (groveNot ringLooks) badRing (fun d c => c.accept d))

/-- The chain checks end. -/
def execRestoreQueryComplete (q : Issue) (fs : NMap Bytes) (s : State) : Host.Outcome State Fault Refusal :=
  let keys := s.pd.keys
  completeStep s q 0x92 (fun d c0 =>
    let c := c0.countReads
    let g := pAt d 0 1
    match dirBad fs (c.grove g) with
    | some st => c.complete d st (some g) []
    | none => c.complete d .ok (some g) (leBytes 4 (c.queryRing g keys fs)))

/-- `RING_ORPHANS` (R360). -/
def execRingOrphans (q : Issue) (grove idx nsid lba : Nat) (s : State) : Host.Outcome State Fault Refusal :=
  .next (s.chanCmd q 0x93 (ringFields grove idx nsid lba) (groveNot ringLooks) badRing (fun d c => c.accept d))

/-- Walk a member area from `k` to `stop`: offsets of shard headers and manifests that match no valid entry; the first
argument bounds the walk. -/
def walkArea (fs : NMap Bytes) (es : List RingEntry) (stop : Nat) : Nat → Nat → List Nat
  | 0, _ => []
  | n + 1, k =>
    if stop ≤ k then []
    else
      match fsBlock fs k with
      | none => []
      | some b =>
        let known (ring att : Nat) : Bool := es.any (fun e => e.ring = ring && e.attempt = att)
        let here (ring att : Nat) : List Nat := if known ring att then [] else [k]
        if leAt b 0 4 = 0x48534B50 then here (leAt b 12 4) (leAt b 16 4) ++ walkArea fs es stop n (k + 1 + leAt b 60 4)
        else if leAt b 0 4 = 0x464D4B50 then here (leAt b 12 4) (leAt b 16 4) ++ walkArea fs es stop n (k + blocksFor (ringManifestLen b))
        else []

/-- Orphans of every member area. -/
def orphans (fs : NMap Bytes) (members : Nat) : List Nat :=
  let es := ringEntries fs
  (List.range members).flatMap (fun k => match memberArea fs members k with
    | some m => walkArea fs es m.next (m.next - m.start) m.start
    | none => [])

/-- The walk ends. -/
def execRingOrphansComplete (q : Issue) (fs : NMap Bytes) (s : State) : Host.Outcome State Fault Refusal :=
  completeStep s q 0x93 (fun d c0 =>
    let c := c0.countReads
    let g := pAt d 0 1
    let v := c.grove g
    match dirBad fs v with
    | some st => c.complete d st (some g) []
    | none =>
      let l := orphans fs v.count
      c.complete d .ok (some g) (leBytes 4 l.length ++ l.flatMap (leBytes 4)))

end Sys2Proof.Machine
end

