-- ==== Sys2Proof/Machine/Dispatch.lean ====
section
/-! DEFINITION. One arm per command: its meaning, a function of the command's operands and the state. -/

namespace Sys2Proof.Machine

/-- The effect of a command on everything but the queue. -/
def exec (i : Instr) (s : State) : Host.Outcome State Fault Refusal :=
  match i with
  | .scalarInstruction t x op => Sys2Proof.Machine.execScalarInstruction t x op s
  | .vadd t x f => Sys2Proof.Machine.execVadd t x f s
  | .vsub t x f => Sys2Proof.Machine.execVsub t x f s
  | .vmul t x f => Sys2Proof.Machine.execVmul t x f s
  | .vfma t x f => Sys2Proof.Machine.execVfma t x f s
  | .vmin t x f => Sys2Proof.Machine.execVmin t x f s
  | .vmax t x f => Sys2Proof.Machine.execVmax t x f s
  | .vdiv t x f => Sys2Proof.Machine.execVdiv t x f s
  | .vsqrt t x f => Sys2Proof.Machine.execVsqrt t x f s
  | .vsfu t x f => Sys2Proof.Machine.execVsfu t x f s
  | .vcmp t x f => Sys2Proof.Machine.execVcmp t x f s
  | .vcvt t x f => Sys2Proof.Machine.execVcvt t x f s
  | .vred t x f => Sys2Proof.Machine.execVred t x f s
  | .vld t x vd va off errs => Sys2Proof.Machine.execVld t x vd va off errs s
  | .vst t x vd va off => Sys2Proof.Machine.execVst t x vd va off s
  | .vbcast t x f => Sys2Proof.Machine.execVbcast t x f s
  | .issueDesc t x va sub => Sys2Proof.Machine.execIssueDesc t x va sub s
  | .semwait t x sem => Sys2Proof.Machine.execSemwait t x sem s
  | .sempost t x sem other => Sys2Proof.Machine.execSempost t x sem other s
  | .setkey t x va vb vc => Sys2Proof.Machine.execSetkey t x va vb vc s
  | .halt t x => Sys2Proof.Machine.execHalt t x s
  | .illegalInstruction t x word => Sys2Proof.Machine.execIllegalInstruction t x word s
  | .arrayDescriptorStart t a => Sys2Proof.Machine.execArrayDescriptorStart t a s
  | .arrayBlock t a => Sys2Proof.Machine.execArrayBlock t a s
  | .accumulatorReadout t a => Sys2Proof.Machine.execAccumulatorReadout t a s
  | .copy t x => Sys2Proof.Machine.execCopy t x s
  | .send t x => Sys2Proof.Machine.execSend t x s
  | .gtbLoad t x => Sys2Proof.Machine.execGtbLoad t x s
  | .accSave t x => Sys2Proof.Machine.execAccSave t x s
  | .accLoad t x => Sys2Proof.Machine.execAccLoad t x s
  | .accMerge t x => Sys2Proof.Machine.execAccMerge t x s
  | .hbmRead t x errs => Sys2Proof.Machine.execHbmRead t x errs s
  | .hbmWrite t x => Sys2Proof.Machine.execHbmWrite t x s
  | .remotePost t x sem => Sys2Proof.Machine.execRemotePost t x sem s
  | .ctxStart t x => Sys2Proof.Machine.execCtxStart t x s
  | .ctxStop t x => Sys2Proof.Machine.execCtxStop t x s
  | .clrFault t => Sys2Proof.Machine.execClrFault t s
  | .routerFlit c idx err => Sys2Proof.Machine.execRouterFlit c idx err s
  | .flitEject c idx err => Sys2Proof.Machine.execFlitEject c idx err s
  | .sramScrub t err => Sys2Proof.Machine.execSramScrub t err s
  | .hbmScrub c stack err => Sys2Proof.Machine.execHbmScrub c stack err s
  | .crownCoreAccess c a => Sys2Proof.Machine.execCrownCoreAccess c a s
  | .undCfgWrite c value => Sys2Proof.Machine.execUndCfgWrite c value s
  | .groveTableApply c g => Sys2Proof.Machine.execGroveTableApply c g s
  | .tableDrainTimeout c g => Sys2Proof.Machine.execTableDrainTimeout c g s
  | .tileDataFrame c ifc f => Sys2Proof.Machine.execTileDataFrame c ifc f s
  | .weightFrame c ifc f => Sys2Proof.Machine.execWeightFrame c ifc f s
  | .chunkDigestCompare c ifc job chunk => Sys2Proof.Machine.execChunkDigestCompare c ifc job chunk s
  | .chunkComplete c g chunk => Sys2Proof.Machine.execChunkComplete c g chunk s
  | .bufFree c src job resOrd => Sys2Proof.Machine.execBufFree c src job resOrd s
  | .chunkDone c job chunk modid => Sys2Proof.Machine.execChunkDone c job chunk modid s
  | .chunkBad c job chunk attempt store => Sys2Proof.Machine.execChunkBad c job chunk attempt store s
  | .chunkTimeout c g chunk altReachable => Sys2Proof.Machine.execChunkTimeout c g chunk altReachable s
  | .wsetFail c job chunk store1 store2 => Sys2Proof.Machine.execWsetFail c job chunk store1 store2 s
  | .digestUpdate c job step chunk digest => Sys2Proof.Machine.execDigestUpdate c job step chunk digest s
  | .switchAt c job slot point => Sys2Proof.Machine.execSwitchAt c job slot point s
  | .wsetSwitchApply c g => Sys2Proof.Machine.execWsetSwitchApply c g s
  | .baseReattach c g => Sys2Proof.Machine.execBaseReattach c g s
  | .hbmTierReload c g chunk data => Sys2Proof.Machine.execHbmTierReload c g chunk data s
  | .stashAdmit c g => Sys2Proof.Machine.execStashAdmit c g s
  | .stashOverMarkAdmit c g => Sys2Proof.Machine.execStashOverMarkAdmit c g s
  | .egressSend c g => Sys2Proof.Machine.execEgressSend c g s
  | .egressStageTimeout c g => Sys2Proof.Machine.execEgressStageTimeout c g s
  | .gradientFrame c ifc f => Sys2Proof.Machine.execGradientFrame c ifc f s
  | .combineBlock c g shard second => Sys2Proof.Machine.execCombineBlock c g shard second s
  | .slotTimeout c g shard second src => Sys2Proof.Machine.execSlotTimeout c g shard second src s
  | .graceExpiry c g shard src => Sys2Proof.Machine.execGraceExpiry c g shard src s
  | .stepReport c src attempt job step bits frameIdx proposals last => Sys2Proof.Machine.execStepReport c src attempt job step bits frameIdx proposals last s
  | .stepFault c src attempt job step status shard => Sys2Proof.Machine.execStepFault c src attempt job step status shard s
  | .verdictTimeout c g step attempt => Sys2Proof.Machine.execVerdictTimeout c g step attempt s
  | .verdict c job attempt verdict step reason gtable => Sys2Proof.Machine.execVerdict c job attempt verdict step reason gtable s
  | .verdictQuery c src job step attempt => Sys2Proof.Machine.execVerdictQuery c src job step attempt s
  | .verdictWaitExpiry c g => Sys2Proof.Machine.execVerdictWaitExpiry c g s
  | .suspectMark c attempt job step shard tree tree2 => Sys2Proof.Machine.execSuspectMark c attempt job step shard tree tree2 s
  | .updateStart c g => Sys2Proof.Machine.execUpdateStart c g s
  | .chunkStored c job chunk step count => Sys2Proof.Machine.execChunkStored c job chunk step count s
  | .writebackTimeout c g chunk => Sys2Proof.Machine.execWritebackTimeout c g chunk s
  | .frameReceive c ifc f crc w => Sys2Proof.Machine.execFrameReceive c ifc f crc w s
  | .frameTransmit c ifc => Sys2Proof.Machine.execFrameTransmit c ifc s
  | .creditAck c ifc a => Sys2Proof.Machine.execCreditAck c ifc a s
  | .creditAckTimer c ifc => Sys2Proof.Machine.execCreditAckTimer c ifc s
  | .replayTimeout c ifc => Sys2Proof.Machine.execReplayTimeout c ifc s
  | .linkTrained c ifc laneRev polInv => Sys2Proof.Machine.execLinkTrained c ifc laneRev polInv s
  | .hello c ifc h => Sys2Proof.Machine.execHello c ifc h s
  | .helloTimer c ifc => Sys2Proof.Machine.execHelloTimer c ifc s
  | .retrainEnd c ifc ok => Sys2Proof.Machine.execRetrainEnd c ifc ok s
  | .laneLoss c ifc lanes => Sys2Proof.Machine.execLaneLoss c ifc lanes s
  | .seamSlip c e sep => Sys2Proof.Machine.execSeamSlip c e sep s
  | .linkHoldExpiry c ifc => Sys2Proof.Machine.execLinkHoldExpiry c ifc s
  | .rxCellUe c ifc cell => Sys2Proof.Machine.execRxCellUe c ifc cell s
  | .linkStateUe c ifc => Sys2Proof.Machine.execLinkStateUe c ifc s
  | .auditSend c ifc => Sys2Proof.Machine.execAuditSend c ifc s
  | .audit c ifc charged => Sys2Proof.Machine.execAudit c ifc charged s
  | .auditReply c ifc corrected charged returned held => Sys2Proof.Machine.execAuditReply c ifc corrected charged returned held s
  | .reconcile c ifc => Sys2Proof.Machine.execReconcile c ifc s
  | .reconcileTimeout c ifc => Sys2Proof.Machine.execReconcileTimeout c ifc s
  | .topoReport c src entries => Sys2Proof.Machine.execTopoReport c src entries s
  | .routeSwap c => Sys2Proof.Machine.execRouteSwap c s
  | .routeSwapComplete c ueLine => Sys2Proof.Machine.execRouteSwapComplete c ueLine s
  | .regionApply c => Sys2Proof.Machine.execRegionApply c s
  | .flip c => Sys2Proof.Machine.execFlip c s
  | .clear c => Sys2Proof.Machine.execClear c s
  | .clearDone c => Sys2Proof.Machine.execClearDone c s
  | .commandDatagram d => Sys2Proof.Machine.execCommandDatagram d s
  | .networkProtocolPacket p => Sys2Proof.Machine.execNetworkProtocolPacket p s
  | .nvmeTcpSegment dport body => Sys2Proof.Machine.execNvmeTcpSegment dport body s
  | .sessionIdleTimeout session => Sys2Proof.Machine.execSessionIdleTimeout session s
  | .sessionOpenExpiry session => Sys2Proof.Machine.execSessionOpenExpiry session s
  | .nop q => Sys2Proof.Machine.execNop q s
  | .sessionOpen q fpr nonce idle => Sys2Proof.Machine.execSessionOpen q fpr nonce idle s
  | .sessionKey q session ct sig => Sys2Proof.Machine.execSessionKey q session ct sig s
  | .sessionClose q => Sys2Proof.Machine.execSessionClose q s
  | .queueClaim q ch qn seq => Sys2Proof.Machine.execQueueClaim q ch qn seq s
  | .queueRelease q ch qn => Sys2Proof.Machine.execQueueRelease q ch qn s
  | .moduleInfo q => Sys2Proof.Machine.execModuleInfo q s
  | .moduleIdSet q modid fm => Sys2Proof.Machine.execModuleIdSet q modid fm s
  | .eventSubscribe q addr port chmask => Sys2Proof.Machine.execEventSubscribe q addr port chmask s
  | .channelStart q => Sys2Proof.Machine.execChannelStart q s
  | .channelStop q => Sys2Proof.Machine.execChannelStop q s
  | .channelFreeze q => Sys2Proof.Machine.execChannelFreeze q s
  | .channelThaw q => Sys2Proof.Machine.execChannelThaw q s
  | .serviceMove q services anchor => Sys2Proof.Machine.execServiceMove q services anchor s
  | .netSet q ip6 len6 ip4 len4 => Sys2Proof.Machine.execNetSet q ip6 len6 ip4 len4 s
  | .regRead q addr count view => Sys2Proof.Machine.execRegRead q addr count view s
  | .regWrite q addr count values => Sys2Proof.Machine.execRegWrite q addr count values s
  | .regRmw q addr mask value => Sys2Proof.Machine.execRegRmw q addr mask value s
  | .strobe q groups => Sys2Proof.Machine.execStrobe q groups s
  | .strobeAtBoundary q groups => Sys2Proof.Machine.execStrobeAtBoundary q groups s
  | .stageDiscard q groups => Sys2Proof.Machine.execStageDiscard q groups s
  | .snap q addr => Sys2Proof.Machine.execSnap q addr s
  | .snapRelease c off => Sys2Proof.Machine.execSnapRelease c off s
  | .memRead q line n errs => Sys2Proof.Machine.execMemRead q line n errs s
  | .memWrite q line n data => Sys2Proof.Machine.execMemWrite q line n data s
  | .tileRead q x y addr n errs => Sys2Proof.Machine.execTileRead q x y addr n errs s
  | .tileWrite q x y addr n data => Sys2Proof.Machine.execTileWrite q x y addr n data s
  | .nvmeTargetSet q idx port addr nqn => Sys2Proof.Machine.execNvmeTargetSet q idx port addr nqn s
  | .dmaFetch q idx nsid lba blocks line => Sys2Proof.Machine.execDmaFetch q idx nsid lba blocks line s
  | .dmaFetchComplete q data => Sys2Proof.Machine.execDmaFetchComplete q data s
  | .dmaStore q idx nsid lba blocks line => Sys2Proof.Machine.execDmaStore q idx nsid lba blocks line s
  | .dmaStoreComplete q ok => Sys2Proof.Machine.execDmaStoreComplete q ok s
  | .progLoad q grove core line len => Sys2Proof.Machine.execProgLoad q grove core line len s
  | .progLoadComplete q pid => Sys2Proof.Machine.execProgLoadComplete q pid s
  | .progStop q grove => Sys2Proof.Machine.execProgStop q grove s
  | .groveLoad q line len digest => Sys2Proof.Machine.execGroveLoad q line len digest s
  | .groveLoadComplete q => Sys2Proof.Machine.execGroveLoadComplete q s
  | .groveUnload q grove => Sys2Proof.Machine.execGroveUnload q grove s
  | .groveStart q grove stop => Sys2Proof.Machine.execGroveStart q grove stop s
  | .grovePause q grove at_ => Sys2Proof.Machine.execGrovePause q grove at_ s
  | .groveQuiescent c g => Sys2Proof.Machine.execGroveQuiescent c g s
  | .groveResume q grove => Sys2Proof.Machine.execGroveResume q grove s
  | .groveDrain q grove => Sys2Proof.Machine.execGroveDrain q grove s
  | .groveStatus q grove => Sys2Proof.Machine.execGroveStatus q grove s
  | .wsetStage q grove slot store1 store2 src1 src2 => Sys2Proof.Machine.execWsetStage q grove slot store1 store2 src1 src2 s
  | .wsetStageComplete q manifest chunks1 chunks2 => Sys2Proof.Machine.execWsetStageComplete q manifest chunks1 chunks2 s
  | .wsetSwitch q grove slot others => Sys2Proof.Machine.execWsetSwitch q grove slot others s
  | .wsetStatus q grove => Sys2Proof.Machine.execWsetStatus q grove s
  | .wsetDiscard q grove slot => Sys2Proof.Machine.execWsetDiscard q grove slot s
  | .baseDetach q grove => Sys2Proof.Machine.execBaseDetach q grove s
  | .verdictLog q grove => Sys2Proof.Machine.execVerdictLog q grove s
  | .suspectClear q units => Sys2Proof.Machine.execSuspectClear q units s
  | .ringWrite q grove kind idx nsid lba fs => Sys2Proof.Machine.execRingWrite q grove kind idx nsid lba fs s
  | .ringRestore q grove idx nsid lba ring fs => Sys2Proof.Machine.execRingRestore q grove idx nsid lba ring fs s
  | .restoreQuery q grove idx nsid lba => Sys2Proof.Machine.execRestoreQuery q grove idx nsid lba s
  | .ringOrphans q grove idx nsid lba => Sys2Proof.Machine.execRingOrphans q grove idx nsid lba s
  | .capSet q watts => Sys2Proof.Machine.execCapSet q watts s
  | .orphanCapSet q watts => Sys2Proof.Machine.execOrphanCapSet q watts s
  | .powerStatus q => Sys2Proof.Machine.execPowerStatus q s
  | .thermalStatus q => Sys2Proof.Machine.execThermalStatus q s
  | .attest q nonce => Sys2Proof.Machine.execAttest q nonce s
  | .keyAdd q record => Sys2Proof.Machine.execKeyAdd q record s
  | .keyRemove q fpr sig => Sys2Proof.Machine.execKeyRemove q fpr sig s
  | .keyList q => Sys2Proof.Machine.execKeyList q s
  | .alarmCfg q cls response => Sys2Proof.Machine.execAlarmCfg q cls response s
  | .energyRead q chmask nonce => Sys2Proof.Machine.execEnergyRead q chmask nonce s
  | .metInfo q => Sys2Proof.Machine.execMetInfo q s
  | .bistRun q level => Sys2Proof.Machine.execBistRun q level s
  | .bistRunComplete q badTiles badRouters => Sys2Proof.Machine.execBistRunComplete q badTiles badRouters s
  | .logRead q first count => Sys2Proof.Machine.execLogRead q first count s
  | .defectMapRead q offset len => Sys2Proof.Machine.execDefectMapRead q offset len s
  | .linkLoopback q ifx mode frames => Sys2Proof.Machine.execLinkLoopback q ifx mode frames s
  | .linkLoopbackComplete q errors => Sys2Proof.Machine.execLinkLoopbackComplete q errors s
  | .fwUpdate q ch line len => Sys2Proof.Machine.execFwUpdate q ch line len s
  | .fwUpdateComplete q => Sys2Proof.Machine.execFwUpdateComplete q s
  | .registerWrite c off value => Sys2Proof.Machine.execRegisterWrite c off value s
  | .bitAliasWrite c off value => Sys2Proof.Machine.execBitAliasWrite c off value s
  | .paritySweep c => Sys2Proof.Machine.execParitySweep c s
  | .parityInject c => Sys2Proof.Machine.execParityInject c s
  | .chHoldRelease mask => Sys2Proof.Machine.execChHoldRelease mask s
  | .svnCommit => Sys2Proof.Machine.execSvnCommit s
  | .bind => Sys2Proof.Machine.execBind s
  | .ringCapture c g => Sys2Proof.Machine.execRingCapture c g s
  | .ringCaptureEnd c g => Sys2Proof.Machine.execRingCaptureEnd c g s
  | .ringBegin c job ring kind attempt parent parentAttempt idx nsid dir => Sys2Proof.Machine.execRingBegin c job ring kind attempt parent parentAttempt idx nsid dir s
  | .ringShardsWritten c g ok fs => Sys2Proof.Machine.execRingShardsWritten c g ok fs s
  | .ringShardList c job ring member frameIdx last shards => Sys2Proof.Machine.execRingShardList c job ring member frameIdx last shards s
  | .ringCommit c g durable fs => Sys2Proof.Machine.execRingCommit c g durable fs s
  | .ringTimeout c g => Sys2Proof.Machine.execRingTimeout c g s
  | .ringFail c job attempt status written => Sys2Proof.Machine.execRingFail c job attempt status written s
  | .ringAbort c job attempt => Sys2Proof.Machine.execRingAbort c job attempt s
  | .ringDone c job ring attempt => Sys2Proof.Machine.execRingDone c job ring attempt s
  | .restoreBegin c job ring attempt idx nsid dir fs => Sys2Proof.Machine.execRestoreBegin c job ring attempt idx nsid dir fs s
  | .restoreImageFrame c job kind tensor offset image => Sys2Proof.Machine.execRestoreImageFrame c job kind tensor offset image s
  | .restoreReport c job member status bad => Sys2Proof.Machine.execRestoreReport c job member status bad s
  | .restoreComplete c g => Sys2Proof.Machine.execRestoreComplete c g s
  | .limiterTrim c watts => Sys2Proof.Machine.execLimiterTrim c watts s
  | .shareCompute => Sys2Proof.Machine.execShareCompute s
  | .supplySample mv => Sys2Proof.Machine.execSupplySample mv s
  | .supplyFreeze => Sys2Proof.Machine.execSupplyFreeze s
  | .supplyRecover => Sys2Proof.Machine.execSupplyRecover s
  | .capStepAssert => Sys2Proof.Machine.execCapStepAssert s
  | .capStepDeassert => Sys2Proof.Machine.execCapStepDeassert s
  | .orphanExpiry => Sys2Proof.Machine.execOrphanExpiry s
  | .clearFaults pecOk => Sys2Proof.Machine.execClearFaults pecOk s
  | .statusWord pecOk => Sys2Proof.Machine.execStatusWord pecOk s
  | .readVin pecOk => Sys2Proof.Machine.execReadVin pecOk s
  | .readIin pecOk => Sys2Proof.Machine.execReadIin pecOk s
  | .readTemperature1 pecOk => Sys2Proof.Machine.execReadTemperature1 pecOk s
  | .readTemperature2 pecOk => Sys2Proof.Machine.execReadTemperature2 pecOk s
  | .readPin pecOk => Sys2Proof.Machine.execReadPin pecOk s
  | .mfrPlkCapWrite pecOk word => Sys2Proof.Machine.execMfrPlkCapWrite pecOk word s
  | .mfrPlkCapRead pecOk => Sys2Proof.Machine.execMfrPlkCapRead pecOk s
  | .mfrPlkDemand pecOk => Sys2Proof.Machine.execMfrPlkDemand pecOk s
  | .mfrPlkFloor pecOk => Sys2Proof.Machine.execMfrPlkFloor pecOk s
  | .mfrPlkState pecOk => Sys2Proof.Machine.execMfrPlkState pecOk s
  | .pmbusUnknownCommand code => Sys2Proof.Machine.execPmbusUnknownCommand code s
  | .smbusAlertResponse => Sys2Proof.Machine.execSmbusAlertResponse s
  | .tempSample c temps => Sys2Proof.Machine.execTempSample c temps s
  | .sensorDisagree c field hot => Sys2Proof.Machine.execSensorDisagree c field hot s
  | .sensorSuspect c field hot predicted => Sys2Proof.Machine.execSensorSuspect c field hot predicted s
  | .inletSample t0 t1 => Sys2Proof.Machine.execInletSample t0 t1 s
  | .thetaUpdate c => Sys2Proof.Machine.execThetaUpdate c s
  | .heatTrim c => Sys2Proof.Machine.execHeatTrim c s
  | .fieldGate c field => Sys2Proof.Machine.execFieldGate c field s
  | .flowLoss => Sys2Proof.Machine.execFlowLoss s
  | .coolantKeepExpiry => Sys2Proof.Machine.execCoolantKeepExpiry s
  | .powerOn imageA imageB straps ref => Sys2Proof.Machine.execPowerOn imageA imageB straps ref s
  | .refArrival => Sys2Proof.Machine.execRefArrival s
  | .channelRelease c => Sys2Proof.Machine.execChannelRelease c s
  | .bringupStepDone c ok badTiles badRouters meas hold => Sys2Proof.Machine.execBringupStepDone c ok badTiles badRouters meas hold s
  | .bringupStepTimeout c => Sys2Proof.Machine.execBringupStepTimeout c s
  | .pllUnlock c refLost => Sys2Proof.Machine.execPllUnlock c refLost s
  | .controllerLinkLost c => Sys2Proof.Machine.execControllerLinkLost c s
  | .controllerLinkReturn c => Sys2Proof.Machine.execControllerLinkReturn c s
  | .watchdogExpiry t => Sys2Proof.Machine.execWatchdogExpiry t s
  | .heartbeat c silentCores silentRouters => Sys2Proof.Machine.execHeartbeat c silentCores silentRouters s
  | .quiesceTimeout c g => Sys2Proof.Machine.execQuiesceTimeout c g s
  | .groveQuiesced c g => Sys2Proof.Machine.execGroveQuiesced c g s
  | .replayRestart c g reloadOk => Sys2Proof.Machine.execReplayRestart c g reloadOk s
  | .meshAlarm => Sys2Proof.Machine.execMeshAlarm s
  | .sealBreach => Sys2Proof.Machine.execSealBreach s
  | .glitch => Sys2Proof.Machine.execGlitch s
  | .cellEnergySample mwh => Sys2Proof.Machine.execCellEnergySample mwh s
  | .cellPowerLoss complete => Sys2Proof.Machine.execCellPowerLoss complete s
  | .cellReport => Sys2Proof.Machine.execCellReport s
  | .cellLinkTimeout => Sys2Proof.Machine.execCellLinkTimeout s
  | .apportion cycles => Sys2Proof.Machine.execApportion cycles s
  | .moduleReset => Sys2Proof.Machine.execModuleReset s
  | .overvoltage => Sys2Proof.Machine.execOvervoltage s
  | .inputCollapse => Sys2Proof.Machine.execInputCollapse s
  | .restoreQueryComplete q fs => Sys2Proof.Machine.execRestoreQueryComplete q fs s
  | .ringOrphansComplete q fs => Sys2Proof.Machine.execRingOrphansComplete q fs s
  | .partnerReturn c ifc => Sys2Proof.Machine.execPartnerReturn c ifc s
  | .flowLossDeassert => Sys2Proof.Machine.execFlowLossDeassert s
  | .modResetDeassert imageA imageB straps ref => Sys2Proof.Machine.execModResetDeassert imageA imageB straps ref s
  | .commandPortTrained => Sys2Proof.Machine.execCommandPortTrained s
  | .uncorrectableControllerError c => Sys2Proof.Machine.execUncorrectableControllerError c s

end Sys2Proof.Machine
end

