-- ==== Sys2Proof/Machine/Tick.lean ====
section
/-! DEFINITION. What one PCLK tick does when no command waits (log entry 10): the counts of clock cycles that the spec
gives, and the weight stream, which asks for chunks and opens gates by itself (R39, R132, R134, R150, R182, R393). -/

namespace Sys2Proof.Machine

/-- A grove has released residency n - 1 and waits at the closed gate of residency n (R150); the first residency of an evaluation pass
follows the last one of the pass before. -/
def Chan.waitsAtGate (c : Chan) (g : Nat) : Bool :=
  let v := c.grove g
  let rs := c.schedule g
  let wrapped := v.kind = 0 && v.ws.next = 0 && decide (0 < v.ws.gatePass)
  match rs[if wrapped then rs.length - 1 else v.ws.next - 1]?, rs[v.ws.next]? with
  | some p, some r => v.st.active && (decide (0 < v.ws.next) || wrapped) && c.fld (gateFld g (p.ord % 2)) = 0 && c.fld (gateFld g (r.ord % 2)) = 0
  | _, _ => false

/-- The next admission point of a grove is held (R168); one that was held when the grove went to PAUSED stays held (R174). -/
def Chan.pointHeld (c : Chan) (g : Nat) : Bool :=
  if (c.grove g).st = .paused then (c.grove g).stash.held
  else c.stashCanAdmit g && decide (c.fld (F.HBM_STASH_GRV_MARK_MARK.sh (stashOff g)) ≤ c.occ g)

/-- Count one PCLK cycle in a 64-bit counter (R393). -/
def Chan.cycle (c : Chan) (off : Nat) : Chan := { c with bank := c.bank.add64 chanRegs off 1 }

/-- Count a cycle in which a grove's next point is held, and keep whether it is (R174, R182). -/
def Chan.holdCycle (c : Chan) (g : Nat) : Chan :=
  let h := c.pointHeld g
  let c1 := if h then c.cycle (R.HBM_STASH_GRV_HOLD_LO + stashOff g) else c
  if (c.grove g).stash.held = h then c1 else c1.onGrove g (fun v => { v with stash := { v.stash with held := h } })

/-- One PCLK cycle of a channel whose clock runs. -/
def Chan.tick (c : Chan) : Chan :=
  if c.st = .off || c.st = .locked || !c.clocked then c
  else
    let c1 := c.cycle R.CLK_PCLK_COUNT_LO
    let c2 := if c1.fld F.TH_STATUS_LIMITING = 1 then c1.cycle R.TH_LIMIT_LO else c1
    let c3 := if groveNums.any c2.waitsAtGate then c2.cycle R.SP_WS_GATE_WAIT_LO else c2
    let c4 := groveNums.foldl Chan.holdCycle c3
    groveNums.foldl (fun (c : Chan) g => if (c.grove g).st.active then c.stream g else c) c4

/-- One PCLK tick of the module; without power no clock runs. -/
def State.tick (s : State) : State :=
  if !s.pd.powered then s
  else (List.range 8).foldl (fun s c => s.onChan c Chan.tick) (s.onPort (fun p => { p with clock := p.clock + 1 }))

end Sys2Proof.Machine
end

