-- ==== Sys2Proof/Machine/Kernels.lean ====
section
/-! DEFINITION. The built-in optimizer kernels, from what the update aperture gives for a panel to what the update program writes
back (R223, R224, R228). -/

namespace Sys2Proof.Machine

/-! ## Binary32 vector operations (R63) -/

def add32 (a b : Nat) : Nat := (vAdd binary32 a b 0).1
def fma32 (a b c : Nat) : Nat := (vFma binary32 a b c).1
def sqrt32 (a : Nat) : Nat := (vSqrt binary32 a 0 0).1
def max32 (a b : Nat) : Nat := (vMax binary32 a b 0).1

/-- Sum of a set of 2^n values, in rising row-major index (R65, R228). -/
def sum32 (n : Nat) (l : List Nat) : Nat := (treeReduce (fun a b => vAdd binary32 a b 0) n l).1.headD 0

/-- The binary32 patterns of 2^-5 and 2^-10. -/
def twoTo5 : Nat := 0x3D000000
def twoTo10 : Nat := 0x3A800000

/-- The constants of the read header that the kernels use, as binary32 patterns (R224). -/
structure KernelConsts where
  kind    : Nat
  variant : Bool
  lr : Nat
  r1 : Nat
  r2 : Nat
  b1 : Nat
  c1 : Nat
  b2 : Nat
  c2 : Nat
  eps  : Nat
  wd   : Nat
  clip : Nat
deriving DecidableEq, Repr

/-- They stand in the header line (R224). -/
def kernelConsts (h : Bytes) : KernelConsts :=
  ⟨leAt h 9 1, leAt h 10 1 % 2 = 1, leAt h 20 4, leAt h 24 4, leAt h 28 4, leAt h 32 4, leAt h 36 4, leAt h 40 4, leAt h 44 4, leAt h 48 4,
    leAt h 52 4, leAt h 56 4⟩

/-- The last line of every kernel: the master moves against the update. -/
def KernelConsts.stepW (k : KernelConsts) (w u : Nat) : Nat := fma32 u (sub32 0 k.lr) w

/-! ## Per element (R228) -/

/-- `sgd_momentum`: the new master and moment of an element. -/
def KernelConsts.sgd (k : KernelConsts) (g w m : Nat) : Nat × Nat :=
  let g1 := fma32 w k.wd g
  let m1 := fma32 m k.b1 g1
  let u := if k.variant then fma32 m1 k.b1 g1 else m1
  (k.stepW w u, m1)

/-- `adam`: the new master and both moments of an element. -/
def KernelConsts.adam (k : KernelConsts) (g w m v : Nat) : Nat × Nat × Nat :=
  let g1 := if k.variant then g else fma32 w k.wd g
  let m1 := fma32 m k.b1 (mul32 g1 k.c1)
  let v1 := fma32 v k.b2 (mul32 (mul32 g1 g1) k.c2)
  let u := div32 (mul32 m1 k.r1) (add32 (sqrt32 (mul32 v1 k.r2)) k.eps)
  let u1 := if k.variant then fma32 w k.wd u else u
  (k.stepW w u1, m1, v1)

/-! ## The factored kernel (R228) -/

/-- Element `i` of a list of 1,024 or 64. -/
def at32 (l : List Nat) (i : Nat) : Nat := l.getD i 0

/-- A value that a masked element counts as 0 in a sum. -/
def unmasked (skip : List Bool) (l : List Nat) : List Nat := l.zipIdx.map (fun p => if skip.getD p.2 false then 0 else p.1)

/-- Row `i` and column `j` of a panel. -/
def panelRow (l : List Nat) (i : Nat) : List Nat := (List.range 32).map (fun j => at32 l (32 * i + j))
def panelCol (l : List Nat) (j : Nat) : List Nat := (List.range 32).map (fun i => at32 l (32 * i + j))

/-- The new 32 row and 32 column factors. -/
def KernelConsts.factors (k : KernelConsts) (skip : List Bool) (g f : List Nat) : List Nat :=
  let q := unmasked skip (g.map (fun x => fma32 x x k.eps))
  let new (old : Nat) (set : List Nat) : Nat := fma32 old k.b2 (mul32 (mul32 (sum32 5 set) twoTo5) k.c2)
  (List.range 32).map (fun i => new (at32 f i) (panelRow q i)) ++ (List.range 32).map (fun j => new (at32 f (32 + j)) (panelCol q j))

/-- `adafactor`: a panel's new master, moment and factors. -/
def KernelConsts.adafactor (k : KernelConsts) (skip : List Bool) (g : List Nat) (s : PanelState) : PanelState :=
  let f := k.factors skip g s.m2
  let rbar := mul32 (sum32 5 (f.take 32)) twoTo5
  let u := (List.range 1024).map (fun i =>
    div32 (at32 g i) (sqrt32 (div32 (mul32 (at32 f (i / 32)) (at32 f (32 + i % 32))) rbar)))
  let norm := sqrt32 (mul32 (sum32 10 (unmasked skip (u.map (fun x => mul32 x x)))) twoTo10)
  let sc := max32 one32 (div32 norm k.clip)
  let u1 := u.map (fun x => div32 x sc)
  let m := if k.variant then (List.range 1024).map (fun i => fma32 (at32 s.m1 i) k.b1 (mul32 (at32 u1 i) k.c1)) else s.m1
  let u2 := if k.variant then m else u1
  ⟨(List.range 1024).map (fun i => k.stepW (at32 s.master i) (fma32 (at32 s.master i) k.wd (at32 u2 i))), m, f⟩

/-! ## A panel -/

/-- What a built-in kernel makes of a panel: the new state (R228). -/
def KernelConsts.run (k : KernelConsts) (skip : List Bool) (g : List Nat) (s : PanelState) : PanelState :=
  if k.kind = 0 then
    let r := (List.range 1024).map (fun i => k.sgd (at32 g i) (at32 s.master i) (at32 s.m1 i))
    ⟨r.map (·.1), r.map (·.2), []⟩
  else if k.kind = 1 then
    let r := (List.range 1024).map (fun i => k.adam (at32 g i) (at32 s.master i) (at32 s.m1 i) (at32 s.m2 i))
    ⟨r.map (·.1), r.map (·.2.1), r.map (·.2.2)⟩
  else k.adafactor skip g s

/-- The 193 lines that a built-in kernel writes for the 259 lines it read of a panel: header echoed, master, moments (R223, R228). -/
def builtinKernel (b : Bytes) : Bytes :=
  let k := kernelConsts b
  let skip := (List.range 1024).map (fun i => (b.getD (64 + i / 8) 0).getLsbD (i % 8))
  let s : PanelState := ⟨words32 (b.drop 4288) 1024, words32 (b.drop 8384) 1024,
    if k.kind = 0 then [] else words32 (b.drop 12480) (if k.kind = 2 then 64 else 1024)⟩
  let t := k.run skip (words32 (b.drop 192) 1024) s
  slice b 0 64 ++ bytes32 t.master ++ bytes32 t.m1 ++ slice (bytes32 t.m2) 0 4096

end Sys2Proof.Machine
end

