-- ==== Sys2Proof/Safety.lean ====
section
/-! DEFINITION. The terms that claims use: what a command may leave changed beside its own effect, what a sent reply is, when a
queued command executes normally, and what a run must keep. -/

namespace Sys2Proof.Machine

/-! ## What may change -/

/-- A channel without its command queues and what it has handed over. -/
def Chan.body (c : Chan) : Chan := { c with queues := [], outbox := [], undelivered := [] }

/-- The port die without what sending and sweeping may change: which anchor hosts a service, the flash ring's copy of the
module log, and the ended sessions (R28, R290, R417). -/
def PortDie.core (p : PortDie) : PortDie := { p with services := [], ring := [], unringed := [], ended := [] }

/-- From `s` to `t` channel `c` has become `d` but for its queues; every other channel stays but for what `c` takes along there: a
seam end facing one that went down, and a reader's record of who takes its stream. What had been sent stays sent. -/
structure ActsOn (s t : State) (c : Nat) (d : Chan) : Prop where
  here    : (t.chan c).body = d.body
  there   : ∀ k, k < 8 → k ≠ c → t.chan k = (s.chan k).facing c k (s.chan c) d
  port    : t.pd.core = s.pd.core
  cell    : t.cell = s.cell
  pending : t.pending = s.pending
  out     : ∃ o, t.out = s.out ++ o

/-- A command completes, and only channel `c` has changed: it is now `d` but for its queues. -/
def Acts (i : Instr) (s : State) (c : Nat) (d : Chan) : Prop := ∃ t, exec i s = .next t ∧ ActsOn s t c d

/-! ## Replies -/

/-- The packet of a reply to command `d`: a 16-byte reply block that opens with the status code, then the data (R286, R287,
R294). -/
def replyPacket (key : Option Bytes) (d : Datagram) (session : Nat) (blk data : Bytes) : Out :=
  .packet d.origin (packet key "PLK4824-CMD"
    (header d.channel d.queue d.opcode 1 d.seq.toNat (blk ++ data).length session) (blk ++ data))

/-- Between `s` and `t` the module has answered command `d` with a status and reply data. -/
def Answered (s t : State) (d : Datagram) (st : Status) (data : Bytes) : Prop :=
  ∃ blk : Bytes, blk.length = 16 ∧ blk.head? = some (BitVec.ofNat 8 st.code) ∧
    replyPacket ((s.pd.session d.session).map (·.kMh)) d d.session blk data ∈ t.out

/-! ## When a queued command executes normally (R292, R296, R308) -/

/-- The channel when command `d` has begun. -/
def Chan.begun (c : Chan) (d : Datagram) : Chan := c.setQueue d.queue ((c.queue d.queue).begin d)

/-- The state when module command `d` has begun. -/
def State.begunM (s : State) (d : Datagram) : State :=
  s.onPort (fun p => p.onSession d.session (fun x => { x with queue := x.queue.begin d }))

/-- Command `d` is next in the channel queue that `q` names and carries the row's operands; its session is open, the channel's
controller link is up, and once begun no check of R292 refuses it: role, channel state (`conf` beyond R308) and parameters
(`bad`). -/
structure ReadyC (s : State) (q : Issue) (op : Nat) (fs : List (Nat × Nat × Nat)) (conf : Chan → Datagram → Bool)
    (bad : Datagram → List (Bool × Nat)) (d : Datagram) : Prop where
  chan  : q.channel < 8
  named : d.channel = q.channel
  place : (s.chan q.channel).idx = q.channel
  queue : d.queue = q.queue
  owned : q.queue < 8
  head  : (s.chan q.channel).headFor q op fs = some d
  link  : (s.chan q.channel).linkLost = false
  sess  : (s.pd.session d.session).isSome
  passes : ((s.chan q.channel).setQueue q.queue (((s.chan q.channel).queue q.queue).begin d)).refused (s.rights d.session q.channel).1
    (s.rights d.session q.channel).2 d (groveNamed d) conf (bad d) = none

/-- A queued channel command completes: only its channel changes, which is now `k` but for its queues, and it is answered. -/
def Executes (i : Instr) (s : State) (d : Datagram) (k : Chan) (st : Status) (data : Bytes) : Prop :=
  ∃ t, exec i s = .next t ∧ ActsOn s t d.channel k ∧ Answered s t d st data

/-- A queued module command completes and is answered; it changes no channel and not the heartwood cell. -/
def ExecutesM (i : Instr) (s : State) (d : Datagram) (st : Status) (data : Bytes) : Prop :=
  ∃ t, exec i s = .next t ∧ t.chans = s.chans ∧ t.cell = s.cell ∧ Answered s t d st data

/-- The same for a command of session 0, which no queue holds (R292 step 2). -/
structure Ready0 (s : State) (q : Issue) (op : Nat) (fs : List (Nat × Nat × Nat)) (bad : Datagram → List (Bool × Nat)) (d : Datagram) :
    Prop where
  sess  : d.session = 0
  named : d.channel = 0xFF
  queue : d.queue = 0
  head  : s.modHead q op fs = some d
  row   : q.session = 0
  spec  : ∃ o, opFind d.opcode = some o ∧ badOffset o d.params (bad d) = none

/-- Module command `d` is next in its session's queue and carries the row's operands; its session is open, and role, state
(`conf`) and parameters (`bad`) let it execute. -/
structure ReadyM (s : State) (q : Issue) (op : Nat) (fs : List (Nat × Nat × Nat)) (conf : Bool) (bad : Datagram → List (Bool × Nat))
    (d : Datagram) : Prop where
  sess  : q.session ≠ 0
  same  : d.session = q.session
  named : d.channel = 0xFF
  queue : d.queue = 0
  head  : s.modHead q op fs = some d
  open_ : (s.pd.session d.session).isSome
  spec  : ∃ o, opFind d.opcode = some o ∧ roleOk (s.rights d.session 0xFF).1 o.role = true ∧ badOffset o d.params (bad d) = none
  conf  : conf = false

/-! ## The tile core and the movement engine -/

/-- A context of a tile of channel `c`. -/
def Chan.at_ (c : Chan) (t : TileRef) (x : Fin 2) : Ctx := c.ctx (tileIdx t) x

/-- The vector instructions that give every lane a result of its operands' lanes, with that result (R63, R64, R92). -/
def laneOps (t : TileRef) (x : Fin 2) (f : VFields) : List (Instr × (FloatFmt → Nat → Nat → Nat → Nat × FFlags)) :=
  [(.vadd t x f, vAdd), (.vsub t x f, vSub), (.vmul t x f, vMul), (.vfma t x f, vFma), (.vmin t x f, vMin), (.vmax t x f, vMax),
    (.vdiv t x f, vDiv), (.vsqrt t x f, vSqrt)] ++
    (if f.vc.toNat ≤ 5 then [(.vsfu t x f, fun fm a _ _ => fm.sfu f.vc.toNat a)] else [])

/-- A tile-core command completes: only its channel changes, and there only the named context, which becomes `w`. -/
def Issues (i : Instr) (s : State) (t : TileRef) (x : Fin 2) (w : Ctx) : Prop :=
  Acts i s t.ch ((s.chan t.ch).setTile (tileIdx t) (((s.chan t.ch).tile (tileIdx t)).setCtx x w))


/-- A context's movement engine serves descriptor `d`, of opcode `op`: the tile may start descriptors, `d` is at the head and its wait
succeeds, it is the context's turn, and it passes the checks of R88 and R90. -/
structure Moves (c : Chan) (i x op : Nat) (d : QDesc) : Prop where
  start : c.mayStart i = true
  turn  : c.movesNext i x = true
  head  : headReady (c.ctx i x) ((c.ctx i x).queueOf 2) = some d
  named : dfield d.words 0 0 8 = op
  valid : moveCheck d.words x (c.arr i (accArr d.words)).owner = none

/-- The channel when the movement engine has taken descriptor `d` off its queue, and its wait's count has gone down (R85, R86). -/
def Chan.taken (c : Chan) (i x : Nat) (d : QDesc) : Chan := (c.onCtx i x (fun v => v.takeHead 2 d)).served i x

/-- A movement descriptor has retired with its effect `c`: its post is made (R85). -/
def Chan.moved (c : Chan) (i x : Nat) (d : QDesc) : Chan := c.post i x (dfield d.words 0 12 4) 3 d.addr

/-- The movement engine's commands, each with the opcode it serves and what that does (R90). -/
def moveOps (t : TileRef) (x : Fin 2) (errs : NMap LineErr) (ue : Bool) : List (Instr × Nat × (Chan → QDesc → MoveRes)) :=
  let i := tileIdx t
  [(.copy t ⟨x, errs⟩, 2, fun c d => c.moveCopy i d errs), (.send t ⟨x, errs⟩, 3, fun c d => c.moveSend i d errs),
    (.gtbLoad t ⟨x, errs⟩, 4, fun c d => c.moveGtb i d errs), (.accSave t ⟨x, ue⟩, 5, fun c d => c.moveAccSave i d ue),
    (.accLoad t ⟨x, errs⟩, 6, fun c d => c.moveAccLoad i x d errs), (.accMerge t ⟨x, errs⟩, 7, fun c d => c.moveAccMerge i d errs),
    (.hbmRead t x errs, 8, fun c d => c.moveHbmRead i d errs), (.hbmWrite t ⟨x, errs⟩, 9, fun c d => c.moveHbmWrite i d errs)]

/-- What becomes of the channel, `c` before the descriptor was taken, by what serving it answers (R85, R88, R138): it retires with its
post, faults the tile, stays at the head, or goes with the queues of its frozen grove. -/
def MoveRes.after (r : MoveRes) (c : Chan) (i x : Nat) (d : QDesc) : Chan :=
  match r with
  | .retire c2 => c2.moved i x d
  | .fault code c2 => c2.tileFault i x 3 code d.addr
  | .stay c2 => c2.onCtx i x (fun _ => c.ctx i x)
  | .discard c2 => c2.onCtx i x (fun _ => { c.ctx i x with qA := [], qB := [], qM := [] })

/-! ## What a run keeps -/

/-- The heartwood cell's figures (R432, R433, R436): nine counts of 64 bits, of which ferroelectric memory lacks less than 1 Wh of
the total; a breach log of at most 64 entries, none numbered above the breach count. -/
structure Cell.Sound (c : Cell) : Prop where
  counts   : c.counts.length = 9
  nv       : c.nv.length = 9
  wide     : (∀ v ∈ c.counts, v < 2 ^ 64) ∧ ∀ v ∈ c.nv, v < 2 ^ 64
  kept     : c.counts.getD 0 0 < c.nv.getD 0 0 + 1000
  breaches : c.breaches.length ≤ 64
  numbered : ∀ r ∈ c.breaches, r.num ≤ c.breachN

/-- Sessions within their limits (R289): at most 16 open, and at most 4 opens that wait. -/
def PortDie.SessionsBound (p : PortDie) : Prop := p.sessions.length ≤ 16 ∧ p.pending.length ≤ 4

end Sys2Proof.Machine

namespace Sys2Proof

/-! ## Commands of one channel -/

/-- The channel that is the only one a command can change, but for what it takes along in the others (`Chan.facing`), for the commands
that act within one channel: those of its tiles, mesh, weight stream, gradients, links, HBM and rings. -/
def Instr.within : Instr → Option (Fin 8)
  | .scalarInstruction t _ _ | .vadd t _ _ | .vsub t _ _ | .vmul t _ _ | .vfma t _ _ | .vmin t _ _ | .vmax t _ _ | .vdiv t _ _
  | .vsqrt t _ _ | .vsfu t _ _ | .vcmp t _ _ | .vcvt t _ _ | .vred t _ _ | .vbcast t _ _ | .setkey t _ _ _ _ | .issueDesc t _ _ _
  | .semwait t _ _ | .sempost t _ _ _ | .halt t _ | .illegalInstruction t _ _ | .vld t _ _ _ _ _ | .vst t _ _ _ _
  | .arrayDescriptorStart t _ | .arrayBlock t _ | .accumulatorReadout t _ | .copy t _ | .send t _ | .gtbLoad t _ | .accSave t _
  | .accLoad t _ | .accMerge t _ | .hbmRead t _ _ | .hbmWrite t _ | .remotePost t _ _ | .ctxStart t _ | .ctxStop t _ | .clrFault t
  | .sramScrub t _ | .watchdogExpiry t => some t.ch
  | .routerFlit c _ _ | .flitEject c _ _ | .hbmScrub c _ _ | .undCfgWrite c _ | .groveTableApply c _ | .tableDrainTimeout c _
  | .tileDataFrame c _ _ | .weightFrame c _ _ | .chunkDigestCompare c _ _ _ | .chunkComplete c _ _ | .bufFree c _ _ _
  | .chunkDone c _ _ _ | .chunkBad c _ _ _ _ | .chunkTimeout c _ _ _ | .wsetFail c _ _ _ _ | .digestUpdate c _ _ _ _
  | .switchAt c _ _ _ | .wsetSwitchApply c _ | .baseReattach c _ | .hbmTierReload c _ _ _ | .stashAdmit c _
  | .stashOverMarkAdmit c _ | .egressSend c _ | .egressStageTimeout c _ | .gradientFrame c _ _ | .combineBlock c _ _ _
  | .slotTimeout c _ _ _ _ | .graceExpiry c _ _ _ | .stepReport c _ _ _ _ _ _ _ _ | .stepFault c _ _ _ _ _ _
  | .verdictTimeout c _ _ _ | .verdict c _ _ _ _ _ _ | .verdictQuery c _ _ _ _ | .verdictWaitExpiry c _ | .suspectMark c _ _ _ _ _ _
  | .updateStart c _ | .chunkStored c _ _ _ _ | .writebackTimeout c _ _ | .frameReceive c _ _ _ _ | .frameTransmit c _
  | .creditAck c _ _ | .creditAckTimer c _ | .replayTimeout c _ | .linkTrained c _ _ _ | .hello c _ _ | .helloTimer c _
  | .retrainEnd c _ _ | .laneLoss c _ _ | .seamSlip c _ _ | .linkHoldExpiry c _ | .rxCellUe c _ _ | .linkStateUe c _ | .auditSend c _
  | .audit c _ _ | .auditReply c _ _ _ _ _ | .reconcile c _ | .reconcileTimeout c _ | .topoReport c _ _ | .routeSwap c
  | .routeSwapComplete c _ | .regionApply c | .flip c | .clear c | .clearDone c | .groveQuiescent c _ | .bitAliasWrite c _ _
  | .parityInject c | .ringCapture c _ | .ringCaptureEnd c _ | .ringBegin c _ _ _ _ _ _ _ _ _ | .ringShardsWritten c _ _ _
  | .ringShardList c _ _ _ _ _ _ | .ringCommit c _ _ _ | .ringTimeout c _ | .ringFail c _ _ _ _ | .ringAbort c _ _
  | .ringDone c _ _ _ | .restoreBegin c _ _ _ _ _ _ _ | .restoreImageFrame c _ _ _ _ _ | .restoreReport c _ _ _ _
  | .restoreComplete c _ | .sensorDisagree c _ _ | .sensorSuspect c _ _ _ | .thetaUpdate c | .heatTrim c | .quiesceTimeout c _
  | .replayRestart c _ _ | .partnerReturn c _ => some c
  | _ => none

end Sys2Proof
end

