-- ==== Sys2Proof/Certificates/Slice0/Obligations.lean ====
section
/-! DEFINITION. What is claimed of the model, for the provers: general statements first, then the commands family by family. Each docstring names the rules
of spec/ a statement rests on; where a clause is the model's own choice it names the log entry. -/

open Sys2Proof Sys2Proof.Machine

/-! ## General -/

/-- A step with a command at the front of the queue is `exec` of that command on the state with the queue's rest. (The step is the model's own form of
the block; log entry 10.) -/
def Obligations.StepRunsTheFrontCommand : Prop :=
  ∀ (c : Instr) (rest : List Instr) (s : State), s.pending = c :: rest → step s = exec c { s with pending := rest }

/-- On an empty queue one PCLK tick passes: without power nothing changes; with power the port die's clock counts, and the heartwood cell stays as it
is. While no grove is active and none subscribes to a base, a channel without a running clock stays as it is, and `CLK_PCLK_COUNT` (R39) of one with a
running clock counts. The idle tick is the model's choice (log entry 10). -/
def Obligations.IdleStepsTick : Prop :=
  ∀ (s : State), s.pending = [] →
    (s.pd.powered = false → step s = .next s) ∧
    (s.pd.powered = true → ∃ t, step s = .next t ∧ t.pd.clock = s.pd.clock + 1 ∧ t.cell = s.cell ∧ t.pending = [] ∧
      ((∀ j < 8, (s.chan j).hasBases = false ∧ ∀ g, ((s.chan j).grove g).st.active = false) → ∀ k < 8,
        ((s.chan k).st = .off ∨ (s.chan k).st = .locked ∨ (s.chan k).clocked = false → (t.chan k).body = (s.chan k).body) ∧
        ((s.chan k).st ≠ .off → (s.chan k).st ≠ .locked → (s.chan k).clocked = true →
          (s.chan k).bank.get64 chanRegs R.CLK_PCLK_COUNT_LO < 2 ^ 64 - 1 →
          (t.chan k).bank.get64 chanRegs R.CLK_PCLK_COUNT_LO = (s.chan k).bank.get64 chanRegs R.CLK_PCLK_COUNT_LO + 1)))

/-- Every command of the table completes in every state: the spec gives each of them an effect, and none stops the block (a command whose precondition
does not hold changes nothing). No command puts a command into the queue or takes one off: a step leaves the queue's rest. -/
def Obligations.EveryCommandCompletesAndLeavesTheQueue : Prop :=
  ((∀ (i : Instr) (s : State), ∃ t, exec i s = .next t) ∧
   (∀ (s t : State), step s = .next t → t.pending = s.pending.tail))

/-- R24, R307, R309, R394, R449: right after reset the module is unpowered, every channel is OFF with no grove, no session is open, and every register
reads its reset value. The values that the spec leaves open are the model's (log entries 1, 2). The state right after reset meets what the next
statements say a run keeps. -/
def Obligations.ResetStandsAndMeetsTheInvariants : Prop :=
  ((let s := State.reset
  s.pd.powered = false ∧ s.pd.locked = false ∧ s.pd.sessions = [] ∧ s.pending = [] ∧ s.out = [] ∧
    (∀ c < 8, (s.chan c).idx = c ∧ (s.chan c).st = .off ∧ (∀ g, (s.chan c).grove g = Grove.empty) ∧ (∀ q, (s.chan c).queue q = Queue.fresh) ∧
      (∀ a, cellByte (s.chan c).hbm a = 0) ∧ (∀ i a, cellByte ((s.chan c).tile i).sram a = 0) ∧
      (∀ off, off ≠ 0 → (s.chan c).reg off = regReset chanRegs off)) ∧
    ∀ off, s.pd.reg off = regReset pdRegs off) ∧
   (State.reset.cell.Sound ∧ State.reset.pd.SessionsBound))

/-- R432, R433, R436: every step keeps the heartwood cell's figures: nine counts of 64 bits, less than 1 Wh of the total unwritten, at most 64 breach
entries, none numbered beyond the breach count. -/
def Obligations.EveryStepKeepsTheCellSound : Prop :=
∀ (s t : State), step s = .next t → s.cell.Sound → t.cell.Sound

/-- R289: every step keeps at most 16 sessions open and at most 4 opens waiting. -/
def Obligations.EveryStepKeepsTheSessionBounds : Prop :=
∀ (s t : State), step s = .next t → s.pd.SessionsBound → t.pd.SessionsBound

/-- R430: no step brings a LOCKED module back: it stays locked. -/
def Obligations.LockedStaysLocked : Prop :=
∀ (s t : State), step s = .next t → s.pd.locked = true → t.pd.locked = true

/-- R21, R24, R25, R149: a command of one channel's tiles, mesh, weight stream, gradients, links, memory or rings changes no other channel but for
what it takes along there: a seam end that faces one of this channel's that went down, and a reader's record of which channels take its stream; so
where no seam end goes down and the channel subscribes to no base, every other channel stays as it is. The cell, the commands that wait, and the port
die beyond its services, the ring's copy of its log and the ended sessions stay; what has been sent stays sent. -/
def Obligations.ChannelCommandsStayInTheirChannel : Prop :=
  ∀ (i : Instr) (c : Fin 8) (s t : State), i.within = some c → exec i s = .next t →
    (∀ k < 8, k ≠ c.val → t.chan k = (s.chan k).facing c k (s.chan c) (t.chan c)) ∧
    ((s.chan c).hasBases = false → (t.chan c).hasBases = false → (∀ e ∈ [2, 3, 4], seamFalls (s.chan c) (t.chan c) e = false) →
      ∀ k < 8, k ≠ c.val → t.chan k = s.chan k) ∧
    t.cell = s.cell ∧ t.pending = s.pending ∧ t.pd.core = s.pd.core ∧ ∃ o, t.out = s.out ++ o

/-! ## Tile core -/

/-- R91, R92: where the context runs, `VADD`, `VSUB`, `VMUL`, `VFMA`, `VMIN`, `VMAX`, `VDIV`, `VSQRT` and `VSFU` (functions 0-5) complete; each lane
of VD that the predicate opens gets the operation's result in the lane type, a gated lane keeps its value; the context's flags gain those the open
lanes raise; every other register, the semaphores, the queues and the key stay; the context moves to the next word. Every other context, tile memory
and channel stays (but for what the channel takes along in others). A `VSFU` of another function faults the tile under code 0x0E, and a context that
cannot issue stays as it is (log entries 12, 69). -/
def Obligations.VectorOpsWriteEveryOpenLane : Prop :=
  ∀ (t : TileRef) (x : Fin 2) (f : VFields) (s : State),
    ((s.chan t.ch).canIssue (tileIdx t) x = true →
      (∀ p ∈ laneOps t x f, ∃ u, exec p.1 s = .next u ∧
        (let v := (s.chan t.ch).at_ t x
         let w := (u.chan t.ch).at_ t x
         let r (l : Nat) := p.2 (fmtOfT f.ty) (laneAt f.ty (v.vr f.va) l) (laneAt f.ty (v.vr f.vb) l) (laneAt f.ty (v.vr f.vc) l)
         (∀ l < laneCount f.ty, laneAt f.ty (w.vr f.vd) l =
            if (v.pr f.pred).getLsbD l then (r l).1 % 2 ^ laneBits f.ty else laneAt f.ty (v.vr f.vd) l) ∧
         (∀ k ≠ f.vd, w.vr k = v.vr k) ∧ w.x = v.x ∧ w.p = v.p ∧ w.sems = v.sems ∧ w.qA = v.qA ∧ w.qB = v.qB ∧ w.qM = v.qM ∧
         w.keyStep = v.keyStep ∧ w.keyMb = v.keyMb ∧ w.keyTensor = v.keyTensor ∧ w.pc = v.pc + 4 ∧ w.st = .running ∧
         w.flags = v.flags.or (((List.range (laneCount f.ty)).map (fun l => if (v.pr f.pred).getLsbD l then (r l).2 else FFlags.none)).foldl
           FFlags.or FFlags.none)) ∧
        ActsOn s u t.ch ((s.chan t.ch).setTile (tileIdx t) (((s.chan t.ch).tile (tileIdx t)).setCtx x ((u.chan t.ch).at_ t x)))) ∧
      (5 < f.vc.toNat → Acts (.vsfu t x f) s t.ch ((s.chan t.ch).instrFault (tileIdx t) x 0x0E))) ∧
    ((s.chan t.ch).canIssue (tileIdx t) x = false → Acts (.vsfu t x f) s t.ch (s.chan t.ch) ∧ ∀ p ∈ laneOps t x f, Acts p.1 s t.ch (s.chan t.ch))

/-- R58, R65, R92: where the context runs, `VCMP` writes predicate VD[2:0], `VCVT` (functions 0-4) VD, `VBCAST` VD, and a `VRED` (functions sum, max,
min) whose predicate opens every lane writes the tree's result, zero-extended, into scalar VD (x0 stays 0): each with its flags, in its own context
only, which moves to the next word. A `VRED` with a gated lane, whose combination the manual leaves open, still completes and writes only scalar VD
(log entry 12). A `VCVT` or `VRED` of another function faults the tile under code 0x0E, and a context that cannot issue stays as it is (log entries
12, 69). R84: where the context runs, a scalar operation writes rd (x0 stays 0) and moves to the next word; a branch that is taken goes to its target,
another to the next word; a 64-bit load inside the tile's SRAM writes what its lines read, a store there stores 8 bytes and nothing else in the tile's
SRAM; outside it they fault the tile under 0x05, and under 0x0D where a line they read is uncorrectable. The operations themselves, and whether an
unaligned address faults, are the SDK reference's (log entry 4). A context that cannot issue stays as it is (log entry 69). -/
def Obligations.ComparesReductionsAndScalarsComplete : Prop :=
  ((∀ (t : TileRef) (x : Fin 2) (f : VFields) (s : State),
    (let c := s.chan t.ch
     let v := c.at_ t x
     (c.canIssue (tileIdx t) x = true →
       Issues (.vcmp t x f) s t x (v.cmp f).advance ∧
       (f.vc.toNat ≤ 4 → Issues (.vcvt t x f) s t x (v.cvt (c.tileSeed (tileIdx t)) f).advance) ∧
       (4 < f.vc.toNat → Acts (.vcvt t x f) s t.ch (c.instrFault (tileIdx t) x 0x0E)) ∧
       Issues (.vbcast t x f) s t x (v.bcast f).advance ∧
       (f.sub ≠ 3 → Issues (.vred t x f) s t x (v.red f).advance ∧
         (∀ k, k ≠ f.vd → (v.red f).xr k = v.xr k) ∧ (v.red f).v = v.v ∧ (v.red f).p = v.p ∧
         ((∀ l < laneCount f.ty, (v.pr f.pred).getLsbD l = true) →
           (v.red f).xr f.vd = if f.vd = 0 then 0 else BitVec.ofNat 64 ((treeReduce (fun a b =>
             if f.sub = 0 then (fmtOfT f.ty).add ((fmtOfT f.ty).decode a) ((fmtOfT f.ty).decode b)
             else (fmtOfT f.ty).minMax (decide (f.sub = 1)) a b) 7
             ((List.range (laneCount f.ty)).map (laneAt f.ty (v.vr f.va)))).1.headD 0))) ∧
       (f.sub = 3 → Acts (.vred t x f) s t.ch (c.instrFault (tileIdx t) x 0x0E))) ∧
     (c.canIssue (tileIdx t) x = false → ∀ i ∈ [Instr.vcmp t x f, .vcvt t x f, .vbcast t x f, .vred t x f], Acts i s t.ch c))) ∧
   (∀ (t : TileRef) (x : Fin 2) (o : Nat) (rd ra rb : BitVec 5) (tgt : BitVec 21) (off : BitVec 64) (errs : NMap LineErr) (s : State),
    (let c := s.chan t.ch
     let i := tileIdx t
     let v := c.at_ t x
     let a := effAddr (v.xr ra) off
     let bytes := leBytes 8 (v.xr rd).toNat
     let bad := sramOk a 8 = false ∨ (a % 8 ≠ 0 ∧ Config.scalarUnalignedFaults = true)
     (c.canIssue i x = true →
       Issues (.scalarInstruction t x ⟨.alu o rd ra rb, errs⟩) s t x (v.setX rd (Config.scalarAlu o (v.xr ra) (v.xr rb))).advance ∧
       Issues (.scalarInstruction t x ⟨.branch o ra rb tgt, errs⟩) s t x
         (if Config.scalarBranch o (v.xr ra) (v.xr rb) then { v with pc := tgt } else v.advance) ∧
       (bad → Acts (.scalarInstruction t x ⟨.load rd ra off, errs⟩) s t.ch (c.instrFault i x 0x05) ∧
         Acts (.scalarInstruction t x ⟨.store rd ra off, errs⟩) s t.ch (c.instrFault i x 0x05)) ∧
       (¬ bad →
         (∀ b d, c.sramRead i a 8 errs = (some b, d) → Acts (.scalarInstruction t x ⟨.load rd ra off, errs⟩) s t.ch
           (d.issue i x (fun v => v.setX rd (BitVec.ofNat 64 (leNat b))))) ∧
         (∀ d, c.sramRead i a 8 errs = (none, d) → Acts (.scalarInstruction t x ⟨.load rd ra off, errs⟩) s t.ch (d.instrFault i x 0x0D)) ∧
         (∀ d, c.readParts i a 8 errs = (true, d) → Acts (.scalarInstruction t x ⟨.store rd ra off, errs⟩) s t.ch
           ((d.sramWrite i a bytes).onCtx i x Ctx.advance)) ∧
         (∀ d, c.readParts i a 8 errs = (false, d) → Acts (.scalarInstruction t x ⟨.store rd ra off, errs⟩) s t.ch (d.instrFault i x 0x0D))) ∧
       (a % 8 = 0 → a + 8 ≤ sramBytes → (c.tile i).poison = [] →
         Issues (.scalarInstruction t x ⟨.load rd ra off, []⟩) s t x
           (v.setX rd (BitVec.ofNat 64 (leNat (cellRead (c.tile i).sram a 8)))).advance ∧
         ∃ u, exec (.scalarInstruction t x ⟨.store rd ra off, []⟩) s = .next u ∧ (u.chan t.ch).at_ t x = v.advance ∧
           ((u.chan t.ch).tile i).sram = cellWrite (c.tile i).sram a bytes ∧ (∀ j, j ≠ i → (u.chan t.ch).tile j = c.tile j))) ∧
     (c.canIssue i x = false → ∀ op, Acts (.scalarInstruction t x op) s t.ch c))))

/-- R75, R92: where the context runs and the 256 bytes lie inside the tile's SRAM, `VLD` loads VD with what its lines read, at any alignment (log
entry 76), and `VST` stores VD there: lines outside the extent keep every byte. Outside the SRAM they fault the tile under 0x05, and under 0x0D where
a line they read is uncorrectable. A context that cannot issue stays as it is (log entry 69). R86, R92, R93: where the context runs or waits,
`ISSUE_DESC` of an aligned line inside SRAM puts its 64 bytes at the end of the named queue while the queue holds fewer than 8, and stalls the context
when it holds 8; a misaligned address or one outside SRAM faults the tile under 0x05, an uncorrectable line under 0x0D, queue 3 under 0x0E (log entry
12). Where it runs, `SETKEY` writes the three key registers and, on a mapped tile, tells its grove's step; where the grove may not begin the step it
waits, drains, pauses or captures instead (log entries 17, 54). A word whose major opcode R92 does not list faults the tile under 0x0E. A context that
cannot issue stays as it is (log entry 69). -/
def Obligations.LoadsStoresDescriptorsAndKeys : Prop :=
  ((∀ (t : TileRef) (x : Fin 2) (vd va : BitVec 5) (off : BitVec 16) (errs : NMap LineErr) (s : State),
    (let c := s.chan t.ch
     let i := tileIdx t
     let v := c.at_ t x
     let a := vecAddr v va off
     (c.canIssue i x = true →
       (sramBytes < a + 256 → Acts (.vld t x vd va off errs) s t.ch (c.instrFault i x 0x05) ∧
         Acts (.vst t x vd va ⟨off, errs⟩) s t.ch (c.instrFault i x 0x05)) ∧
       (a + 256 ≤ sramBytes →
         (∀ b d, c.sramRead i a 256 errs = (some b, d) → Acts (.vld t x vd va off errs) s t.ch
           (d.issue i x (fun v => v.setV vd (BitVec.ofNat 2048 (leNat b))))) ∧
         (∀ d, c.sramRead i a 256 errs = (none, d) → Acts (.vld t x vd va off errs) s t.ch (d.instrFault i x 0x0D)) ∧
         (∀ d, c.readParts i a 256 errs = (true, d) → Acts (.vst t x vd va ⟨off, errs⟩) s t.ch
           ((d.sramWrite i a (leBytes 256 (v.vr vd).toNat)).onCtx i x Ctx.advance)) ∧
         (∀ d, c.readParts i a 256 errs = (false, d) → Acts (.vst t x vd va ⟨off, errs⟩) s t.ch (d.instrFault i x 0x0D)) ∧
         ((c.tile i).poison = [] →
           Issues (.vld t x vd va off []) s t x (v.setV vd (BitVec.ofNat 2048 (leNat (cellRead (c.tile i).sram a 256)))).advance ∧
           ∃ u, exec (.vst t x vd va ⟨off, []⟩) s = .next u ∧ (u.chan t.ch).at_ t x = v.advance ∧
             cellRead ((u.chan t.ch).tile i).sram a 256 = leBytes 256 (v.vr vd).toNat ∧
             (∀ b, (b < a ∨ a + 256 ≤ b) → cellByte ((u.chan t.ch).tile i).sram b = cellByte (c.tile i).sram b) ∧
             (∀ j, j ≠ i → (u.chan t.ch).tile j = c.tile j)))) ∧
     (c.canIssue i x = false → Acts (.vld t x vd va off errs) s t.ch c ∧ Acts (.vst t x vd va ⟨off, errs⟩) s t.ch c))) ∧
   (∀ (t : TileRef) (x : Fin 2) (va vb vc : BitVec 5) (sub : BitVec 2) (errs : NMap LineErr) (word : Word) (s : State),
    (let c := s.chan t.ch
     let i := tileIdx t
     let v := c.at_ t x
     let a := (v.xr va).toNat
     let step := ((v.xr va).setWidth 32 : BitVec 32)
     let mb := ((v.xr vb).setWidth 16 : BitVec 16)
     let set := { v with keyStep := step, keyMb := mb, keyTensor := (v.xr vc).setWidth 24, st := .running, pc := v.pc + 4 }
     (c.canRetry i x = true →
       (sub = 3 → Acts (.issueDesc t x va ⟨sub, errs⟩) s t.ch (c.instrFault i x 0x0E)) ∧
       (sub ≠ 3 → a % 64 ≠ 0 ∨ sramBytes < a + 64 → Acts (.issueDesc t x va ⟨sub, errs⟩) s t.ch (c.instrFault i x 0x05)) ∧
       (sub ≠ 3 → a % 64 = 0 → a + 64 ≤ sramBytes →
         (8 ≤ (v.queueOf sub.toNat).length → Issues (.issueDesc t x va ⟨sub, errs⟩) s t x { v with st := .waiting }) ∧
         ((v.queueOf sub.toNat).length < 8 →
           (∀ b d, c.sramRead i a 64 errs = (some b, d) → Acts (.issueDesc t x va ⟨sub, errs⟩) s t.ch
             (d.onCtx i x (fun v => (v.setQueue sub.toNat (v.queueOf sub.toNat ++ [⟨a, b⟩])).advance))) ∧
           (∀ d, c.sramRead i a 64 errs = (none, d) → Acts (.issueDesc t x va ⟨sub, errs⟩) s t.ch (d.instrFault i x 0x0D)) ∧
           ((c.tile i).poison = [] → Issues (.issueDesc t x va ⟨sub, []⟩) s t x
             (v.setQueue sub.toNat (v.queueOf sub.toNat ++ [⟨a, cellRead (c.tile i).sram a 64⟩])).advance)))) ∧
     (c.canIssue i x = true →
       ((c.tile i).slot = none → Issues (.setkey t x va vb vc) s t x set) ∧
       (∀ r, (c.tile i).slot = some r →
         (let g := r.grove
          let gate := (c.grove g).keyGate step.toNat
          (gate = .go → Acts (.setkey t x va vb vc) s t.ch ((c.setTile i ((c.tile i).setCtx x set)).noteKey g step.toNat mb.toNat)) ∧
          (gate = .wait → Acts (.setkey t x va vb vc) s t.ch c) ∧
          (gate = .drain → Acts (.setkey t x va vb vc) s t.ch
            (c.onGrove g (fun v => { v with st := .draining, ws := { v.ws with attached := false } }))) ∧
          (gate = .pause → Acts (.setkey t x va vb vc) s t.ch ((c.pauseGrove g 0).answerPause g (((c.grove g).pauseAt).getD 0))) ∧
          (gate = .capture → Acts (.setkey t x va vb vc) s t.ch
            (c.onGrove g (fun v => ({ v with ring := { v.ring with ring := step.toNat } }).pass step.toNat c.pclk))))) ∧
       (majListed (bits word.toNat 26 6) = false → Acts (.illegalInstruction t x word) s t.ch (c.instrFault i x 0x0E))) ∧
     (c.canRetry i x = false → Acts (.issueDesc t x va ⟨sub, errs⟩) s t.ch c) ∧
     (c.canIssue i x = false → Acts (.setkey t x va vb vc) s t.ch c ∧ Acts (.illegalInstruction t x word) s t.ch c))))

/-- R85, R92: where the context runs or waits, `SEMWAIT` of a semaphore above 0 decrements it and goes on, of one at 0 leaves the context waiting at
the same word, of semaphore 0 goes on. Where it runs, `SEMPOST` to a count below 255 increments it, in this context or the other, to semaphore 0
changes no count, and to a count of 255 faults the tile under 0x0C; `HALT` leaves the context idle. A context that cannot issue stays as it is (log
entry 69). R85: a post to a count of 255 faults the tile under code 0x0C, and the count stays 255. -/
def Obligations.SemaphoresCountWaitAndFault : Prop :=
  ((∀ (t : TileRef) (x : Fin 2) (sem : BitVec 4) (other : Bool) (s : State),
    (let c := s.chan t.ch
     let i := tileIdx t
     let v := c.at_ t x
     let y : Fin 2 := if other then 1 - x else x
     (c.canRetry i x = true →
       (sem = 0 → Issues (.semwait t x sem) s t x v.advance) ∧
       (sem ≠ 0 → 0 < v.sem sem.toNat → Issues (.semwait t x sem) s t x (v.setSem sem.toNat (v.sem sem.toNat - 1)).advance) ∧
       (sem ≠ 0 → v.sem sem.toNat = 0 → Issues (.semwait t x sem) s t x { v with st := .waiting })) ∧
     (c.canIssue i x = true →
       (sem = 0 → Issues (.sempost t x sem other) s t x v.advance) ∧
       (sem ≠ 0 → (c.at_ t y).sem sem.toNat < 255 → Acts (.sempost t x sem other) s t.ch
         ((c.onCtx i x Ctx.advance).onCtx i y (fun w => w.setSem sem.toNat (w.sem sem.toNat + 1)))) ∧
       (sem ≠ 0 → 255 ≤ (c.at_ t y).sem sem.toNat → Acts (.sempost t x sem other) s t.ch
         ((c.onCtx i x Ctx.advance).tileFault i x 0 0x0C v.pc.toNat)) ∧
       Issues (.halt t x) s t x { v with st := .idle, pc := v.pc + 4 }) ∧
     (c.canRetry i x = false → Acts (.semwait t x sem) s t.ch c) ∧
     (c.canIssue i x = false → Acts (.sempost t x sem other) s t.ch c ∧ Acts (.halt t x) s t.ch c))) ∧
   (∀ (t : TileRef) (x : Fin 2) (sem : BitVec 4) (s : State), (s.chan t.ch).canIssue (tileIdx t) x = true → sem ≠ 0 →
    ((s.chan t.ch).at_ t x).sem sem.toNat = 255 → ((s.chan t.ch).tile (tileIdx t)).slot = none →
    ∃ u, exec (.sempost t x sem false) s = .next u ∧ ((u.chan t.ch).at_ t x).sem sem.toNat = 255 ∧
      bits ((u.chan t.ch).reg (R.TILE_FAULT + tileSlot (tileIdx t))).toNat 0 8 = 0x0C ∧
      ((u.chan t.ch).at_ t x).st = .faulted))

/-! ## Tile arrays and movement -/

/-- R78, R86-R88: where a tile may start descriptors and the array has none in progress, a context's ready head is taken off its queue; one that
passes every check starts, owns the array for its context, and with `CLR` empties the accumulator; one that fails a check faults the tile under that
check's code. Where none can start the channel stays as it is (log entry 69). R46-R53, R70-R74, R81, R85, R93, R380: where the tile runs and its duty
is not 0, a block of the descriptor in progress whose two operands present data, and whose additions neither pass 262,144 nor leave `WRAP`'s range,
adds its products into every cell and reads its GTB half once; the last block of a descriptor without `CLOSE` retires it. An operand's fault, a memory
error, an addition too many and a wrapped sum fault the tile, and a block whose GTB half is not there waits. A descriptor with `CLOSE` whose blocks
are done writes its rows, flags and scales at the addresses it names, empties and frees the array, and retires. With nothing to do the channel stays
as it is (log entry 69). -/
def Obligations.ArrayDescriptorsBlocksAndReadouts : Prop :=
  ((∀ (t : TileRef) (a : ArrId) (s : State),
    (let c := s.chan t.ch
     let i := tileIdx t
     let arr := c.arr i a
     (c.mayStart i = true → arr.run = none → ∀ x d, c.pickArr i a = some (x, d) →
       (let c1 := c.onCtx i x (fun v => v.takeHead (arrQueue a) d)
        (arrCheck a d.words x arr = none → Acts (.arrayDescriptorStart t a) s t.ch (c1.setArr i a
          { arr with last := x, run := some ⟨x, d, 0⟩, owner := some x, taken := arr.taken + 1
                     acc := if dfield d.words 0 17 1 = 1 then [] else arr.acc, count := if dfield d.words 0 17 1 = 1 then 0 else arr.count })) ∧
        (∀ code, arrCheck a d.words x arr = some code → Acts (.arrayDescriptorStart t a) s t.ch
          ((c1.setArr i a { arr with last := x }).tileFault i x (arrAgent a) code d.addr)))) ∧
     (c.mayStart i = false ∨ arr.run ≠ none ∨ c.pickArr i a = none → Acts (.arrayDescriptorStart t a) s t.ch c))) ∧
   (∀ (t : TileRef) (a : ArrId) (errs : NMap LineErr) (ue : Bool) (s : State),
    (let c := s.chan t.ch
     let i := tileIdx t
     let arr := c.arr i a
     let blk := Instr.arrayBlock t ⟨⟨a, ue⟩, errs⟩
     let out := Instr.accumulatorReadout t ⟨a, ue⟩
     (arr.run = none ∨ c.clockRuns i = false → Acts blk s t.ch c ∧ Acts out s t.ch c) ∧
     (∀ r, arr.run = some r → c.clockRuns i = true →
       (let d := r.desc.words
        let n := dfield d 8 0 16
        let fa := dfield d 1 0 8
        let fb := dfield d 1 8 8
        let half := (dfield d 0 24 1 + r.block) % 2
        let ga := decide (dfield d 0 22 1 = 1)
        let gb := decide (dfield d 0 23 1 = 1)
        let drop (c : Chan) (code : Nat) : Chan :=
          (c.setArr i a { c.arr i a with run := none }).tileFault i r.ctx (arrAgent a) code r.desc.addr
        (n ≤ r.block ∨ c.fld F.TH_DUTY_DUTY = 0 → Acts blk s t.ch c) ∧
        (r.block < n → c.fld F.TH_DUTY_DUTY ≠ 0 → ∀ oa ba c1 ob bb c2,
          c.operand i ga (a, arr.taken) d 2 fa r.block half false (dfield d 0 20 1 = 1) arr.bufA errs = (oa, ba, c1) →
          c1.operand i gb (a, arr.taken) d 5 fb r.block half true (dfield d 0 21 1 = 1) arr.bufB errs = (ob, bb, c2) →
          (∀ k, oa = .fault k → Acts blk s t.ch (drop c1 k)) ∧
          (∀ k, (∀ j, oa ≠ .fault j) → ob = .fault k → Acts blk s t.ch (drop c2 k)) ∧
          ((∀ j, oa ≠ .fault j) → (∀ j, ob ≠ .fault j) → oa = .wait ∨ ob = .wait → Acts blk s t.ch c) ∧
          (∀ pa pb, oa = .data pa → ob = .data pb →
            (ue = true → Acts blk s t.ch (drop c2 0x0D)) ∧
            (ue = false → maxAdditions < arr.count + blockAdds fa fb → Acts blk s t.ch (drop c2 0x0A)) ∧
            (ue = false → arr.count + blockAdds fa fb ≤ maxAdditions →
              (addBlock arr.acc fa fb (signed 9 (dfield d 8 16 9)) pa pb = none → Acts blk s t.ch (drop c2 0x0B)) ∧
              (∀ m, addBlock arr.acc fa fb (signed 9 (dfield d 8 16 9)) pa pb = some m →
                (let c3 := if ga || gb then c2.setTile i ((c2.tile i).gtbDone (a, arr.taken) half) else c2
                 let now := { arr with acc := m, count := arr.count + blockAdds fa fb, bufA := ba, bufB := bb }
                 let r1 := { r with block := r.block + 1 }
                 ((r.block + 1 ≠ n ∨ dfield d 0 18 1 ≠ 0) → Acts blk s t.ch (c3.setArr i a { now with run := some r1 })) ∧
                 (r.block + 1 = n → dfield d 0 18 1 = 0 → Acts blk s t.ch ((c3.setArr i a { now with run := none }).retireArr i a r1))))))) ∧
        (r.block < n ∨ dfield d 0 18 1 = 0 → Acts out s t.ch c) ∧
        (n ≤ r.block → dfield d 0 18 1 ≠ 0 →
          (ue = true → Acts out s t.ch ((c.setArr i a { arr with run := none }).tileFault i r.ctx (arrAgent a) 0x0D r.desc.addr)) ∧
          (ue = false →
            (let ro := readoutOf d ⟨c.tileSeed i, dfield d 12 0 24, 0, (c.ctx i r.ctx).keyStep.toNat, (c.ctx i r.ctx).keyMb.toNat⟩ arr.acc
             let put (c : Chan) (w : Nat) (b : Bytes) : Chan := if b = [] then c else c.sramWrite i (dfield d w 0 21) b
             Acts out s t.ch (((put (put (c.sramWrite i (dfield d 9 0 21) ro.rows) 10 ro.flags) 11 ro.scales).setArr i a
               { arr with owner := none, acc := [], count := 0, run := none }).retireArr i a r)))))))))

/-- R85, R90: a `COPY` from sound lines writes at the destination what the source held; a `SEND` to a slot of a local region puts its lines on the
mesh to the tile of that slot (the exception entry's where there is one), the last with the post, and one to a remote region puts the lines of its
frames on the mesh to the interface it names; each retires. R72-R74, R82, R83, R90, R93: a `GTB_LOAD` of `BF16` into a free half fills it with the
codes, scale 127 and the readers the descriptor names, one of an MX format with the block scale where all 32 are equal and faults under 0x09
otherwise; one whose half is occupied stays at the head; `ACC_SAVE` on an array with no descriptor in progress writes the 1,024 images and with `CLR`
empties the array, and faults under 0x0D where its memory is uncorrectable; `ACC_LOAD` fills a free array from images and gives it to the context;
`ACC_MERGE` adds them as one addition, or faults under 0x0A or 0x0B. R86, R88, R90: the movement engine serves a context's head when the tile may
start descriptors, the head's wait succeeds and it is the context's turn, under the command of its opcode: a descriptor that fails a check faults the
tile under that check's code, one that passes retires with its post, faults, stays at the head, or is discarded, as its opcode's effect answers.
Otherwise the channel stays as it is (log entry 69). -/
def Obligations.SourceMovesAndAccumulatorMoves : Prop :=
  ((∀ (t : TileRef) (x : Fin 2) (d : QDesc) (s : State),
    (let c := s.chan t.ch
     let i := tileIdx t
     let w := d.words
     let src := cellRead (c.tile i).sram (dfield w 1 0 21) (64 * moveLines w)
     (c.tile i).poison = [] →
       (Moves c i x 2 d → Acts (.copy t ⟨x, []⟩) s t.ch (((c.taken i x d).sramWrite i (dfield w 2 0 21) src).moved i x d)) ∧
       (∀ r : SlotRef, Moves c i x 3 d → (c.tile i).slot = some r → dfield w 4 0 8 < 64 →
         (let g := r.grove
          let e := regionAt c.reg g (dfield w 4 0 8)
          let exc := (exceptionsAt c.reg g).any (fun q => q.2.1 = dfield w 4 0 8 && q.2.2.1 = dfield w 4 8 8 && q.2.2.2.1 = dfield w 4 16 8)
          e.valid = true → dfield w 4 8 8 < e.lw → dfield w 4 16 8 < e.lh →
          (e.remote = false ∨ exc = true → Acts (.send t ⟨x, []⟩) s t.ch (({ c.taken i x d with
            flits := c.flits ++ sendFlits i (slotTile c.reg g (dfield w 4 0 8) (dfield w 4 8 8) (dfield w 4 16 8)) g w src } : Chan).moved i x d)) ∧
          (e.remote = true → exc = false → Acts (.send t ⟨x, []⟩) s t.ch (({ c.taken i x d with
            flits := c.flits ++ remoteFlits i (viaIf e.via) (remoteFrames c.node (c.grove g) g e w src) } : Chan).moved i x d)))))) ∧
   (∀ (t : TileRef) (x : Fin 2) (d : QDesc) (s : State),
    (let c := s.chan t.ch
     let i := tileIdx t
     let w := d.words
     let a := accArr w
     let arr := c.arr i a
     let c1 := c.taken i x d
     let src (n : Nat) := cellRead (c.tile i).sram (dfield w 1 0 21) n
     let codes := (List.range 1024).map (fun k => leAt (src (64 * moveLines w)) (k * (fmtBits (dfield w 6 3 8) / 8)) (fmtBits (dfield w 6 3 8) / 8))
     let sb := cellRead (c.tile i).sram (dfield w 6 11 21) 32
     let fill (scale : Nat) : Chan :=
       let h : GtbHalf := ⟨dfield w 6 1 2, dfield w 6 3 8, scale, codes, []⟩
       c1.setTile i (if dfield w 6 0 1 = 0 then { c1.tile i with g0 := h } else { c1.tile i with g1 := h })
     let half := if dfield w 6 0 1 = 0 then (c.tile i).g0 else (c.tile i).g1
     (c.tile i).poison = [] →
       (Moves c i x 4 d →
         (half.readers ≠ 0 → Acts (.gtbLoad t ⟨x, []⟩) s t.ch (c1.onCtx i x (fun _ => c.ctx i x))) ∧
         (half.readers = 0 → dfield w 6 3 8 = fmtBf16 → Acts (.gtbLoad t ⟨x, []⟩) s t.ch ((fill 127).moved i x d)) ∧
         (half.readers = 0 → dfield w 6 3 8 ≠ fmtBf16 →
           (sb.all (fun v => v = sb.headD 0) = true → Acts (.gtbLoad t ⟨x, []⟩) s t.ch ((fill (sb.headD 0).toNat).moved i x d)) ∧
           (sb.all (fun v => v = sb.headD 0) = false → Acts (.gtbLoad t ⟨x, []⟩) s t.ch (c1.tileFault i x 3 0x09 d.addr)))) ∧
       (Moves c i x 5 d →
         (arr.run ≠ none → ∀ ue, Acts (.accSave t ⟨x, ue⟩) s t.ch (c1.onCtx i x (fun _ => c.ctx i x))) ∧
         (arr.run = none → Acts (.accSave t ⟨x, true⟩) s t.ch (c1.tileFault i x 3 0x0D d.addr)) ∧
         (arr.run = none → dfield w 0 17 1 ≠ 1 →
           Acts (.accSave t ⟨x, false⟩) s t.ch ((c1.sramWrite i (dfield w 2 0 21) (accImages arr.acc)).moved i x d)) ∧
         (arr.run = none → dfield w 0 17 1 = 1 →
           Acts (.accSave t ⟨x, false⟩) s t.ch (((c1.sramWrite i (dfield w 2 0 21) (accImages arr.acc)).setArr i a
             { arr with owner := none, acc := [], count := 0 }).moved i x d))) ∧
       (Moves c i x 6 d → Acts (.accLoad t ⟨x, []⟩) s t.ch ((c1.setArr i a
         { c1.arr i a with owner := some x.val, acc := accOf (src 40960), count := 0 }).moved i x d)) ∧
       (Moves c i x 7 d →
         (arr.run ≠ none → Acts (.accMerge t ⟨x, []⟩) s t.ch (c1.onCtx i x (fun _ => c.ctx i x))) ∧
         (arr.run = none → maxAdditions < arr.count + 1 → Acts (.accMerge t ⟨x, []⟩) s t.ch (c1.tileFault i x 3 0x0A d.addr)) ∧
         (arr.run = none → arr.count + 1 ≤ maxAdditions → accMerge arr.acc (src 40960) = none →
           Acts (.accMerge t ⟨x, []⟩) s t.ch (c1.tileFault i x 3 0x0B d.addr)) ∧
         (∀ m, arr.run = none → arr.count + 1 ≤ maxAdditions → accMerge arr.acc (src 40960) = some m →
           Acts (.accMerge t ⟨x, []⟩) s t.ch ((c1.setArr i a { arr with acc := m, count := arr.count + 1 }).moved i x d))))) ∧
   (∀ (t : TileRef) (x : Fin 2) (errs : NMap LineErr) (ue : Bool) (s : State),
    (let c := s.chan t.ch
     let i := tileIdx t
     ∀ p ∈ moveOps t x errs ue,
       (c.mayStart i = false ∨ c.movesNext i x = false ∨ headReady (c.ctx i x) ((c.ctx i x).queueOf 2) = none → Acts p.1 s t.ch c) ∧
       (∀ d, c.mayStart i = true → c.movesNext i x = true → headReady (c.ctx i x) ((c.ctx i x).queueOf 2) = some d →
         (2 ≤ dfield d.words 0 0 8 → dfield d.words 0 0 8 ≤ 9 → dfield d.words 0 0 8 ≠ p.2.1 → Acts p.1 s t.ch c) ∧
         (∀ code, dfield d.words 0 0 8 < 2 ∨ 9 < dfield d.words 0 0 8 ∨ dfield d.words 0 0 8 = p.2.1 →
           moveCheck d.words x (c.arr i (accArr d.words)).owner = some code →
           Acts p.1 s t.ch ((c.taken i x d).tileFault i x 3 code d.addr))) ∧
       (∀ d, Moves c i x p.2.1 d → Acts p.1 s t.ch ((p.2.2 (c.taken i x d) d).after c i x d)))))

/-- R270, R272, R280: an `HBM_READ` inside a grant of the tile's grove whose lines read writes them to SRAM, and one whose lines do not, off the HBM
tier, faults the tile under 0x10; an `HBM_WRITE` inside a writable grant, off the grove's release line, writes the source lines to HBM; outside every
grant, on a free tile, and across ranges each faults the tile under 0x0F. -/
def Obligations.HbmMovesStayInsideGrants : Prop :=
  ∀ (t : TileRef) (x : Fin 2) (d : QDesc) (errs : NMap LineErr) (s : State),
    (let c := s.chan t.ch
     let i := tileIdx t
     let w := d.words
     let line := dfield w 5 0 31
     let n := moveLines w
     let c1 := c.taken i x d
     ((c.tile i).slot = none ∨ oneRange line n = false →
       (Moves c i x 8 d → Acts (.hbmRead t x errs) s t.ch (c1.tileFault i x 3 0x0F d.addr)) ∧
       (Moves c i x 9 d → Acts (.hbmWrite t ⟨x, errs⟩) s t.ch (c1.tileFault i x 3 0x0F d.addr))) ∧
     (∀ r, (c.tile i).slot = some r → line + n ≤ 0x60000000 → 0 < n →
       (Moves c i x 8 d → (∀ k < n, c.lineGranted r.grove (line + k) false = true) →
         (∀ b c2, c1.readLines line errs n = (some b, c2) → Acts (.hbmRead t x errs) s t.ch ((c2.sramWrite i (dfield w 2 0 21) b).moved i x d)) ∧
         (∀ c2, c1.readLines line errs n = (none, c2) → c2.hbmTierChunk r.grove (c2.fld F.HBM_UE_ADDR_LINE) = none →
           Acts (.hbmRead t x errs) s t.ch (c2.tileFault i x 3 0x10 d.addr))) ∧
       (Moves c i x 8 d → (∃ k < n, c.lineGranted r.grove (line + k) false = false) →
         Acts (.hbmRead t x errs) s t.ch (c1.tileFault i x 3 0x0F d.addr)) ∧
       (Moves c i x 9 d → (∀ k < n, c.lineGranted r.grove (line + k) true = true) → (c.tile i).poison = [] →
         (c.residencies (c.grove r.grove) = [] ∨ c.fld (F.SP_WS_GRV_REL_LINE_LINE.sh (wsOff r.grove)) + 1 < line ∨
           line + n ≤ c.fld (F.SP_WS_GRV_REL_LINE_LINE.sh (wsOff r.grove))) →
         Acts (.hbmWrite t ⟨x, []⟩) s t.ch ((c1.hbmWrite line (cellRead (c.tile i).sram (dfield w 1 0 21) (64 * n))).moved i x d)) ∧
       (Moves c i x 9 d → (∃ k < n, c.lineGranted r.grove (line + k) true = false) →
         Acts (.hbmWrite t ⟨x, errs⟩) s t.ch (c1.tileFault i x 3 0x0F d.addr))))

/-- R66, R85, R94, R107, R108, R110: a flit with no earlier one of its path ahead moves one hop, X first, where the next input buffer has a free
place, its check word corrected or marked at that router; at its destination, while ACLK runs there and its grove maps the tile, its line is written
and its post falls due, at an interface its line joins its frame, and a flit for a tile that its grove does not map faults the grove. A flit that
cannot move stays. R85, R110, R111: a due post increments its semaphore, or faults the tile as agent 3, while ACLK runs in the tile; a tile data frame
of a loaded grove that is neither paused, faulted nor frozen, to a slot of a valid local region, goes onto the mesh; a frame for a paused or frozen
grove is held; a frame of no loaded job, or for a faulted member, is counted, discarded and reported to the job's coordinator; one for no slot here is
discarded with an event. -/
def Obligations.FlitsPostsAndTileData : Prop :=
  ((∀ (ch : Fin 8) (idx : Nat) (err : BitVec 544) (s : State),
    (let c := s.chan ch
     (c.flits[idx]? = none → Acts (.routerFlit ch idx err) s ch c ∧ Acts (.flitEject ch idx err) s ch c) ∧
     (∀ f, c.flits[idx]? = some f →
       (let there := f.x = f.dx ∧ f.y = f.dy ∧ f.port ≠ 5
        let i := f.dy * 48 + f.dx
        (there ∨ blockedFlit c.flits idx f = true ∨ 8 ≤ c.inBuffer f.hop → Acts (.routerFlit ch idx err) s ch c) ∧
        (¬ there → blockedFlit c.flits idx f = false → c.inBuffer f.hop < 8 →
          (∀ g c1, c.checkFlit (f.hop.y * 48 + f.hop.x) f.hop err = (g, c1) →
            Acts (.routerFlit ch idx err) s ch { c1 with flits := setAt c1.flits idx g }) ∧
          Acts (.routerFlit ch idx 0) s ch { c with flits := setAt c.flits idx f.hop }) ∧
        (¬ there ∨ blockedFlit c.flits idx f = true → Acts (.flitEject ch idx err) s ch c) ∧
        (there → blockedFlit c.flits idx f = false → ∀ f1 c1, c.checkFlit i f err = (f1, c1) →
          (let c2 := { c1 with flits := removeAt c1.flits idx }
           (∀ o fr last, f1.fin = .egress o fr last → Acts (.flitEject ch idx err) s ch (c2.lineOut f1.src o fr last f1.data f1.bad)) ∧
           (∀ g addr post, f1.fin = .sram g addr post →
             (c.aclkOn i = false → Acts (.flitEject ch idx err) s ch c) ∧
             (c.aclkOn i = true → ((c2.tile i).slot.map (·.grove)) ≠ some g → Acts (.flitEject ch idx err) s ch
               (((c2.count F.CTL_UND_FREE_MISROUTE).event .hwFault 0 0x0004 (some g) argNone).groveFault g .hwFault)) ∧
             (c.aclkOn i = true → ((c2.tile i).slot.map (·.grove)) = some g → f1.bad = false →
               (let c3 := c2.sramWrite i addr (leBytes 64 f1.data.toNat)
                (post = none → Acts (.flitEject ch idx err) s ch c3) ∧
                (∀ q, post = some q → Acts (.flitEject ch idx err) s ch { c3 with due := c3.due ++ [⟨i, q.1, q.2⟩] })))))))))) ∧
   (∀ (t : TileRef) (x : Fin 2) (sem : BitVec 4) (i : Fin 5) (f : Frame) (s : State),
    (let c := s.chan t.ch
     let due : DuePost := ⟨tileIdx t, x.val, sem.toNat⟩
     let n := bits f.tensor 0 8
     let frame := Instr.tileDataFrame t.ch i f
     (c.aclkOn (tileIdx t) = true → c.due.contains due = true →
       Acts (.remotePost t x sem) s t.ch (({ c with due := c.due.erase due } : Chan).post (tileIdx t) x sem.toNat 3 0)) ∧
     (c.aclkOn (tileIdx t) = false ∨ c.due.contains due = false → Acts (.remotePost t x sem) s t.ch c) ∧
     (c.groveOfJob f.job = none → Acts frame s t.ch (c.dropMember f none)) ∧
     (∀ g, c.groveOfJob f.job = some g →
       (let e := regionAt c.reg g n
        let bad := 64 ≤ n ∨ e.valid = false ∨ e.remote = true ∨ e.lw ≤ bits f.tensor 8 8 ∨ e.lh ≤ bits f.tensor 16 8
        let took := c.takeFrame (fun y => y = f)
        ((c.grove g).st = .faulted → Acts frame s t.ch (c.dropMember f (some g))) ∧
        ((c.grove g).st ≠ .faulted → (c.grove g).st = .paused ∨ (c.grove g).replay = true → Acts frame s t.ch c) ∧
        ((c.grove g).st ≠ .paused → (c.grove g).st ≠ .faulted → (c.grove g).replay = false →
          (bad → Acts frame s t.ch (took.event .hwFault 4 0 (some g) argNone)) ∧
          (¬ bad → Acts frame s t.ch { took with
            flits := took.flits ++ frameFlits i (slotTile c.reg g n (bits f.tensor 8 8) (bits f.tensor 16 8)) g f })))))))

/-- R95, R103: where the channel's registers answer, a 0-to-1 write of `CTXn_EN` starts the context at its entry, except on a free tile or while a
fault code stands; a 1-to-0 write stops it; a write of the value it has changes nothing; `CLR_FAULT` clears the fault register, both contexts'
semaphores and queues, and both arrays. Where they do not answer nothing changes. R273, R274, R278, R279: where SRAM scrubbing is on and ACLK runs, a
scrub of a sound line with no line waiting moves to the next line, wrapping after 24,576, and the memory reads as before; where HBM scrubbing is on, a
scrub of an unlisted line with none waiting moves the stack's position; a `FLIP` swaps the generations only while the other is clean, and otherwise
sets `DIRTY_ERR`; `CLEAR` starts, and `CLEAR_DONE` ends, the clearing of the generation frozen at the `CLEAR`. Where scrubbing is off, and with the
channel off, nothing changes. -/
def Obligations.ContextsScrubsAndGenerations : Prop :=
  ((∀ (t : TileRef) (x : Fin 2) (s : State),
    (let c := s.chan t.ch
     let i := tileIdx t
     (c.regsUp = false → Acts (.ctxStart t x) s t.ch c ∧ Acts (.ctxStop t x) s t.ch c ∧ Acts (.clrFault t) s t.ch c) ∧
     (c.regsUp = true →
       (c.fld (enFld i x) ≠ 1 → c.fld (F.TILE_FAULT_CODE.sh (tileSlot i)) = 0 → (c.tile i).slot.isSome →
         Acts (.ctxStart t x) s t.ch ((c.setFld (enFld i x) 1).onCtx i x
           (fun v => { v with st := .running, pc := BitVec.ofNat 21 (c.reg (entryReg x + tileSlot i)).toNat }))) ∧
       ((c.tile i).slot = none ∨ c.fld (enFld i x) = 1 ∨ c.fld (F.TILE_FAULT_CODE.sh (tileSlot i)) ≠ 0 → Acts (.ctxStart t x) s t.ch c) ∧
       (c.fld (enFld i x) ≠ 0 → Acts (.ctxStop t x) s t.ch ((c.setFld (enFld i x) 0).onCtx i x
         (fun v => { v with st := if v.st = .faulted then .faulted else .idle }))) ∧
       (c.fld (enFld i x) = 0 → Acts (.ctxStop t x) s t.ch c) ∧
       Acts (.clrFault t) s t.ch (c.clrFault i) ∧
       (c.clrFault i).reg (R.TILE_FAULT + tileSlot i) = 0 ∧
       (∀ y < 2, ((c.clrFault i).ctx i y).sems = [] ∧ ((c.clrFault i).ctx i y).qA = [] ∧ ((c.clrFault i).ctx i y).qB = [] ∧
         ((c.clrFault i).ctx i y).qM = [] ∧ ((c.clrFault i).ctx i y).st = .idle ∧ ((c.clrFault i).ctx i y).x = (c.ctx i y).x) ∧
       (c.clrFault i).arr i .A = Arr.reset ∧ (c.clrFault i).arr i .B = Arr.reset ∧ ((c.clrFault i).tile i).sram = (c.tile i).sram))) ∧
   (∀ (t : TileRef) (stack : Fin 3) (err : LineErr) (s : State),
    (let c := s.chan t.ch
     let i := tileIdx t
     let tl := c.tile i
     (c.aclkOn i = false ∨ c.fld F.HBM_SCRUB_CFG_SRAM_EN = 0 → Acts (.sramScrub t err) s t.ch c) ∧
     (c.aclkOn i = true → c.fld F.HBM_SCRUB_CFG_SRAM_EN ≠ 0 → tl.poison = [] → tl.scrubQ = [] → ∃ u, exec (.sramScrub t 0) s = .next u ∧
       ((u.chan t.ch).tile i).scrub = (tl.scrub + 1) % 24576 ∧ (∀ a, cellByte ((u.chan t.ch).tile i).sram a = cellByte tl.sram a)) ∧
     (c.fld F.HBM_SCRUB_CFG_HBM_EN = 0 ∨ bits (c.fld F.HBM_STATUS_STACK_UP) stack.val 1 = 0 → Acts (.hbmScrub t.ch stack err) s t.ch c) ∧
     (c.fld F.HBM_SCRUB_CFG_HBM_EN ≠ 0 → bits (c.fld F.HBM_STATUS_STACK_UP) stack.val 1 = 1 → c.scrubPos.length = 3 →
       c.poison = [] → c.scrubQ = [] → ∃ u, exec (.hbmScrub t.ch stack 0) s = .next u ∧
         (u.chan t.ch).scrubPos.getD stack.val 0 = (c.scrubPos.getD stack.val 0 + 1) % 562500000 ∧
         (∀ a, cellByte (u.chan t.ch).hbm a = cellByte c.hbm a)) ∧
     (c.st = .off ∨ c.st = .locked → Acts (.flip t.ch) s t.ch c ∧ Acts (.clear t.ch) s t.ch c) ∧
     (c.st ≠ .off → c.st ≠ .locked →
       (c.fld F.HBM_STATUS_OTHER_CLEAN = 1 → Acts (.flip t.ch) s t.ch
         ((c.setFld F.HBM_STATUS_GEN (1 - c.fld F.HBM_STATUS_GEN)).setFld F.HBM_STATUS_OTHER_CLEAN 0)) ∧
       (c.fld F.HBM_STATUS_OTHER_CLEAN ≠ 1 → Acts (.flip t.ch) s t.ch (c.setFld F.HBM_STATUS_DIRTY_ERR 1)) ∧
       Acts (.clear t.ch) s t.ch (({ c with clearing := 1 - c.fld F.HBM_STATUS_GEN } : Chan).setFld F.HBM_STATUS_CLEAR_BUSY 1)) ∧
     (c.fld F.HBM_STATUS_CLEAR_BUSY = 0 → Acts (.clearDone t.ch) s t.ch c) ∧
     (c.fld F.HBM_STATUS_CLEAR_BUSY ≠ 0 → ∃ u, exec (.clearDone t.ch) s = .next u ∧ (u.chan t.ch).fld F.HBM_STATUS_CLEAR_BUSY = 0 ∧
       (c.clearing ≠ c.fld F.HBM_STATUS_GEN → (u.chan t.ch).fld F.HBM_STATUS_OTHER_CLEAN = 1 ∧
         (∀ b l tr, c.region 3 = some (b, l, tr) → ∀ k < genLines * 64,
           cellByte (u.chan t.ch).hbm ((b + c.clearing * genLines) * 64 + k) = 0))))))

/-! ## Weight streaming, stash and gradients -/

/-- R111, R131, R132, R142, R149: a chunk frame that no grove here takes and no other channel's subscriber needs is discarded as a stray; one of a
chunk being reloaded goes to the reload; one for a paused or frozen grove, or for a stopped tile, waits; one of a chunk complete in every taker is
discarded and counted. Else the final frame at an entry port is held, and any other frame's lines are written in each grove that has not the chunk,
passed on where it came by unicast, and taken. A frame of another type is not touched (log entry 69). R131, R136, R137, R408: a held chunk of a reload
goes to its comparison. Where a held chunk's tiles all run and its digest is the recorded one, it is taken by each grove, goes on to its seams (its
group where it came by unicast), is counted, and `CHUNK_DONE` goes to its reader. A mismatch is flagged and counted, its cell dropped and `CHUNK_BAD`
sent; the first one at the primary store asks the alternate by unicast, any other fails the set at the reader and the coordinator. With nothing held,
or a tile stopped, nothing changes (log entry 69). -/
def Obligations.WeightFramesAndDigestsReachTheReader : Prop :=
  ((∀ (ch : Fin 8) (i : Fin 5) (f : Frame) (s : State),
    (let c := s.chan ch
     let entry := decide (i.val < 2)
     let final := f.flags.getLsbD 2
     let gs := c.weightTakers f
     let cs := if i.val < 2 then c.carriers f.job else []
     let stops (g : Nat) := (c.grove g).st = .paused || (c.grove g).replay || !c.destsRun g (c.resFor g f.shard) f
     let fresh := (gs ++ cs).filter (fun g => !(c.grove g).hasChunk f)
     let took (d : Chan) := d.takeFrame (fun x => x = f)
     let prog (d : Chan) (g : Nat) := (d.grove g).prog f.shard f.step (d.resFor g f.shard)
     let hold (d : Chan) (g : Nat) := d.setGrove g ((d.grove g).setProg { prog d g with held := some f })
     let write (d : Chan) (g : Nat) :=
       let d1 := d.setGrove g ((d.grove g).setProg { prog d g with
         data := if !entry then [] else if f.mb = 0 then f.payload.bytes else (prog d g).data ++ f.payload.bytes, written := final })
       if gs.contains g then d1.deliverWeight g (d.resFor g f.shard) f else d1.count F.SP_WS_ERR_COUNT_DUP
     let pass (d : Chan) := match fresh with
       | g :: _ => if entry && !f.flags.getLsbD 5 then d.forwardUnicast i (c.chunkGroup g f.shard f.tensor) f else d
       | [] => d
     let reload := gs.findSome? (fun g => ((c.grove g).slotReloadOf f.shard).map (fun r => (g, r)))
     (f.typ ≠ 0x01 → Acts (.weightFrame ch i f) s ch c) ∧
     (f.typ = 0x01 →
       (gs ++ cs = [] → Acts (.weightFrame ch i f) s ch (c.strayChunk i (entry && final) f)) ∧
       (∀ g r, gs ++ cs ≠ [] → reload = some (g, r) → Acts (.weightFrame ch i f) s ch (c.reloadFrame g r f)) ∧
       (gs ++ cs ≠ [] → reload = none →
         (gs.any stops = true → Acts (.weightFrame ch i f) s ch c) ∧
         (gs.any stops = false →
           ((gs ++ cs).all (fun g => (c.grove g).hasChunk f) = true → Acts (.weightFrame ch i f) s ch
             ((took (if entry && final then c.dropCellOf i f else c)).count F.SP_WS_ERR_COUNT_DUP)) ∧
           ((gs ++ cs).all (fun g => (c.grove g).hasChunk f) = false →
             ((entry && final) = true → Acts (.weightFrame ch i f) s ch (fresh.foldl hold c)) ∧
             ((entry && final) = false → Acts (.weightFrame ch i f) s ch (took (pass (fresh.foldl write c)))))))))) ∧
   (∀ (ch : Fin 8) (i : Fin 5) (job chunk : Nat) (s : State),
    (let c := s.chan ch
     let cmd := Instr.chunkDigestCompare ch i job chunk
     let gs := (c.streamGroves job ++ c.carriers job).filter (fun g => ((c.grove g).heldProg chunk).isSome)
     let reload := (c.streamGroves job).findSome? (fun g => ((c.grove g).slotReloadOf chunk).bind (fun r => r.held.map (fun f => (g, r, f))))
     let first := gs.head?.bind (fun g => ((c.grove g).heldProg chunk).bind (fun p => p.held.map (fun f => (g, p, f))))
     (∀ g r f, reload = some (g, r, f) → Acts cmd s ch (c.reloadCompare g r f (c.chunkDigest g f))) ∧
     (reload = none → first = none → Acts cmd s ch c) ∧
     (∀ g p f, reload = none → first = some (g, p, f) →
       (let data := if f.mb = 0 then f.payload.bytes else p.data ++ f.payload.bytes
        let reader := (c.readerOf g chunk).getD f.src
        let stops := gs.any (fun g => (c.streamGroves job).contains g && !c.destsRun g ((((c.grove g).heldProg chunk).map (·.res)).getD 0) f)
        (stops = true → Acts cmd s ch c) ∧
        (stops = false → c.chunkDigest g f = some (digest data) →
          (let c1 := gs.foldl (fun c g => c.takeChunk g chunk f) c
           let c3 := if f.flags.getLsbD 5 then c1.releaseFinal i f
             else (c1.forwardUnicast i (c.chunkGroup g chunk f.tensor) f).takeFrame (fun x => x = f)
           Acts cmd s ch
            (({ c3 with bank := c3.bank.add64 chanRegs R.SP_WS_VERIFIED_LO 1 } : Chan).sendCtl reader job (.chunkDone job chunk (c.node / 8))))) ∧
        (stops = false → c.chunkDigest g f ≠ some (digest data) →
          (let w := (c.grove g).wslot (f.rseq % 2)
           let n := if f.src = w.store2 && w.store1 ≠ w.store2 then 2 else p.attempts + 1
           let c1 := ((c.setFld F.SP_WS_STATUS_MISMATCH 1).count F.SP_WS_ERR_COUNT_MISMATCH).dropCellOf i f
           let c2 := gs.foldl (fun c g =>
             match (c.grove g).heldProg chunk with
             | some p => c.setGrove g ((c.grove g).setProg { p with held := none, data := [], attempts := n })
             | none => c) c1
           let c3 := c2.sendCtl reader job (.chunkBad job chunk (min n 2) f.src)
           let fail := CtlMsg.wsetFail job chunk w.store1 w.store2
           (n = 1 → Acts cmd s ch
             (c3.sendCtl w.store2 job (.readChunk (w.setId.take 16) chunk c.node false (2 * c.idx + i.val) (f.rseq % 2)))) ∧
           (n ≠ 1 → Acts cmd s ch
             (((c3.setFld F.SP_WS_STATUS_SET_FAIL 1).sendCtl reader job fail).sendCtl (c.grove g).coord job fail)))))))))

/-- R132, R134, R136, R137, R232: a written chunk becomes complete and its residency's gate may open. A `BUF_FREE` of a loaded job is noted at the
reader, whose requests go on. A `CHUNK_DONE` is noted for its request, which retires once each subscribing module has sent one, or for a written
RESIDENT chunk, which is confirmed once each of its members has. A `CHUNK_BAD` is noted, and fails the set where the reader had timed out on the
chunk. A notice of no loaded job, or for nothing outstanding, is taken and changes nothing else. R136, R137: a timeout of an outstanding request is
flagged and counted; the first failure asks the alternate store, addressed to the group; a second one, or no reachable alternate, fails the set.
Nothing outstanding changes nothing (log entry 69). A `WSET_FAIL` is noted by every member of the job's stream, and the reader spreads the first one.
-/
def Obligations.ChunkNoticesAndTimeouts : Prop :=
  ((∀ (ch : Fin 8) (g : Fin 16) (src job chunk ord modid attempt store : Nat) (s : State),
    (let c := s.chan ch
     let add (l : List Nat) : List Nat := if l.contains modid then l else l ++ [modid]
     ((c.grove g).ws.chunks.find? (fun p => p.chunk = chunk && p.written && !p.complete) = none → Acts (.chunkComplete ch g chunk) s ch c) ∧
     (∀ p, (c.grove g).ws.chunks.find? (fun p => p.chunk = chunk && p.written && !p.complete) = some p →
       Acts (.chunkComplete ch g chunk) s ch ((c.setGrove g ((c.grove g).setProg { p with complete := true })).tryGate g)) ∧
     (let took := c.takeFrame (fun f => f.src = src && f.payload = .ctl (.bufFree job ord))
      (took.groveOfJob job = none → Acts (.bufFree ch src job ord) s ch took) ∧
      (∀ h, took.groveOfJob job = some h → Acts (.bufFree ch src job ord) s ch ((took.onGrove h (fun v => { v with ws := { v.ws with
        freed := if v.ws.freed.contains (src, ord) then v.ws.freed else v.ws.freed ++ [(src, ord)] } })).pump h))) ∧
     (let took := c.takeCtl (.chunkDone job chunk modid)
      let cmd := Instr.chunkDone ch job chunk modid
      (took.groveOfJob job = none → Acts cmd s ch took) ∧
      (∀ h, took.groveOfJob job = some h →
        (let v := took.grove h
         let written := v.update.chunks.find? (fun k => k.chunk = chunk)
         let asked := v.ws.reqs.find? (fun q => q.chunk = chunk)
         (written = none → asked = none → Acts cmd s ch took) ∧
         (∀ q, asked = some q →
           (let ms := add q.modules
            let rest := v.ws.reqs.filter (fun x => x ≠ q)
            let reqs := if (subModules job q.resOrd).all (fun m => ms.contains m) then rest else rest ++ [{ q with modules := ms }]
            Acts cmd s ch ((took.setGrove h { v with ws := { v.ws with reqs := reqs } }).pump h))) ∧
         (∀ k, asked = none → written = some k → took.confirmers h chunk = none → Acts cmd s ch took) ∧
         (∀ k ms, asked = none → written = some k → took.confirmers h chunk = some ms →
           (let c1 := took.setGrove h { v with update := { v.update with
              chunks := v.update.chunks.map (fun x => if x.chunk = chunk then { x with seen := add k.seen } else x) } }
            (ms.all (fun m => (add k.seen).contains m) = false → Acts cmd s ch c1) ∧
            (ms.all (fun m => (add k.seen).contains m) = true → Acts cmd s ch (c1.chunkConfirmed h chunk))))))) ∧
     (let took := c.takeCtl (.chunkBad job chunk attempt store)
      let cmd := Instr.chunkBad ch job chunk attempt store
      (took.groveOfJob job = none → Acts cmd s ch took) ∧
      (∀ h, took.groveOfJob job = some h →
        (let v := took.grove h
         let w := v.wslot v.slotNow
         let c1 := took.setGrove h { v with ws := { v.ws with
           reqs := v.ws.reqs.map (fun q => if q.chunk = chunk then { q with bad := max q.bad attempt } else q) } }
         let second := v.ws.reqs.any (fun q => q.chunk = chunk && decide (0 < q.tries)) && v.ws.failed.isNone
         (second = false → Acts cmd s ch c1) ∧
         (second = true → Acts cmd s ch
           (((c1.spreadFail h job chunk w.store1 w.store2).sendCtl v.coord job (.wsetFail job chunk w.store1 w.store2)).noteFail h chunk
             w.store1 w.store2))))))) ∧
   (∀ (ch : Fin 8) (g : Fin 16) (chunk job s1 s2 : Nat) (alt : Bool) (s : State),
    (let c := s.chan ch
     let v := c.grove g
     let cmd := Instr.chunkTimeout ch g chunk alt
     let c1 := (c.setFld F.SP_WS_STATUS_TIMEOUT 1).count F.SP_WS_ERR_COUNT_TIMEOUTS
     (v.ws.reqs.find? (fun x => x.chunk = chunk) = none ∨ v.ws.active = none → Acts cmd s ch c) ∧
     (∀ q slot, v.ws.reqs.find? (fun x => x.chunk = chunk) = some q → v.ws.active = some slot →
       (let w := v.wslot slot
        let again := decide (q.tries = 0) && decide (q.bad = 0) && alt
        let res := (c.residencies v).find? (fun x => x.ord = q.resOrd)
        (again = true → res = none → Acts cmd s ch c1) ∧
        (∀ r, again = true → res = some r → Acts cmd s ch ((c1.onGrove g (fun v => { v with ws := { v.ws with
           reqs := v.ws.reqs.map (fun x => if x = q then { x with tries := 1 } else x) } })).sendCtl w.store2 v.job
             (.readChunk (w.setId.take 16) chunk (r.route (chunk - r.first)).1 true (r.route (chunk - r.first)).2 slot))) ∧
        (again = false → Acts cmd s ch
           ((((c1.onGrove g (fun v => { v with ws := { v.ws with reqs := v.ws.reqs.filter (fun x => x ≠ q) } })).spreadFail g v.job chunk
             w.store1 w.store2).sendCtl v.coord v.job (.wsetFail v.job chunk w.store1 w.store2)).noteFail g chunk w.store1 w.store2)))) ∧
     (let took := c.takeCtl (.wsetFail job chunk s1 s2)
      Acts (.wsetFail ch job chunk s1 s2) s ch ((took.streamGroves job).foldl (fun c h =>
        (if (c.grove h).ws.failed.isNone && !c.isSub h && c.readerOf h chunk = some c.node then c.spreadFail h job chunk s1 s2 else c).noteFail h chunk s1 s2) took)))))

/-- R139, R145-R147, R149: a `DIGEST_UPDATE` not yet recorded is recorded for its step, in place of those two steps back, and the reader sends it on
to the chunk's group; one of no loaded job, of a faulted grove, or known, is taken. `SWITCH_AT` for a staged slot arms the switch, and otherwise is
taken. An armed switch takes effect in a training grove between steps at its step, in another grove from its point on, quiet where the point is the
next; a faulted, paused, empty or replaying grove waits. A subscriber that is RUNNING attaches again at a pass boundary. R138, R408: a reloaded chunk
of the right length and digest is written to its HBM copy, a RESIDENT one to the slots that wait for it; a first bad attempt is counted; a second
faults the grove under DIGEST_FAIL. No reload in progress changes nothing (log entry 69). -/
def Obligations.SwitchesAndReloads : Prop :=
  ((∀ (ch : Fin 8) (job step chunk slot point : Nat) (g : Fin 16) (d : Bytes) (s : State),
    (let c := s.chan ch
     (let took := c.takeCtl (.digestUpdate job step chunk d)
      let cmd := Instr.digestUpdate ch job step chunk d
      (took.groveOfJob job = none → Acts cmd s ch took) ∧
      (∀ h, took.groveOfJob job = some h →
        (let v := took.grove h
         let w := v.wslot v.slotNow
         let c1 := took.setGrove h (v.setWslot v.slotNow { w with
           digests := w.digests.filter (fun x => !(x.chunk = chunk && (x.step = step || x.step + 1 < step))) ++ [⟨chunk, step, d⟩] })
         let c2 := match (c1.residencies v).find? (fun r => r.covers chunk) with
           | some r => if r.reader = c1.node then c1.sendFrame { Frame.blank 0x07 (r.route (chunk - r.first)).1 (.ctl (.digestUpdate job step chunk d)) with
               job := job, flags := 32 } else c1
           | none => c1
         (v.st = .faulted ∨ w.digests.contains ⟨chunk, step, d⟩ = true → Acts cmd s ch took) ∧
         (v.st ≠ .faulted → w.digests.contains ⟨chunk, step, d⟩ = false → Acts cmd s ch ((c2.pump h).tryGate h))))) ∧
     (let took := c.takeCtl (.switchAt job slot point)
      let cmd := Instr.switchAt ch job slot point
      (took.groveOfJob job = none → Acts cmd s ch took) ∧
      (∀ h, took.groveOfJob job = some h →
        (let v := took.grove h
         let no := v.st = .faulted ∨ 1 < slot ∨ (v.wslot slot).st ≠ .staged ∨ v.ws.switch ≠ none
         (no → Acts cmd s ch took) ∧
         (¬ no → Acts cmd s ch (took.setGrove h { v with ws := { v.ws with switch := some (v.switchAt slot point) } }))))) ∧
     (let v := c.grove g
      let cmd := Instr.wsetSwitchApply ch g
      (v.ws.switch = none ∨ v.st = .empty ∨ v.st = .faulted ∨ v.st = .paused ∨ v.replay = true → Acts cmd s ch c) ∧
      (∀ w, v.ws.switch = some w → v.st ≠ .empty → v.st ≠ .faulted → v.st ≠ .paused → v.replay = false →
        (let now := if v.kind = 1 then v.step = w.at_ ∧ v.between = true else w.at_ ≤ v.step ∨ (w.at_ = v.step + 1 ∧ c.quiet g = true)
         (now → Acts cmd s ch (c.switchNow g w.slot)) ∧ (¬ now → Acts cmd s ch c))) ∧
      (c.isSub g = true → v.st = .running → v.ws.attached = false →
        Acts (.baseReattach ch g) s ch (c.setGrove g { v with ws := { v.ws with attached := true } })) ∧
      (c.isSub g = false ∨ v.st ≠ .running ∨ v.ws.attached = true → Acts (.baseReattach ch g) s ch c)))) ∧
   (∀ (ch : Fin 8) (g : Fin 16) (chunk : Nat) (data : Option Bytes) (s : State),
    (let c := s.chan ch
     let v := c.grove g
     let cmd := Instr.hbmTierReload ch g chunk data
     (v.ws.reload.find? (fun p => p.1 = chunk) = none → Acts cmd s ch c) ∧
     (∀ n fails, v.ws.reload.find? (fun p => p.1 = chunk) = some (n, fails) →
       (let rest := v.ws.reload.filter (fun p => p.1 ≠ chunk)
        let good := ∃ b m, data = some b ∧ (v.wslot v.slotNow).chunk chunk = some m ∧ b.length = m.len ∧ digest b = m.digest
        let resident := ∃ m t, (v.wslot v.slotNow).chunk chunk = some m ∧ c.tensorOf g m.tensor = some t ∧ t.tier = 0
        let c1 := c.setGrove g { v with ws := { v.ws with reload := rest } }
        (good → resident → Acts cmd s ch (c1.refill g v.slotNow chunk (data.getD []))) ∧
        (good → ¬ resident → Acts cmd s ch (c1.hbmWrite (Config.hbmCopy v.image v.slotNow chunk) (data.getD []))) ∧
        (¬ good → fails = 0 → Acts cmd s ch (c.setGrove g { v with ws := { v.ws with reload := rest ++ [(chunk, 1)] } })) ∧
        (¬ good → fails ≠ 0 → Acts cmd s ch ((c.event .digestFail 8 0 (some g.val) argNone).groveFault g .digestFail)))))))

/-- R168, R192: an admission point below the mark posts `STASH_SEM` in every slot; at or over the mark, with no slab reading or refilling, it also
sets `OVER_MARK` and counts; staging room that does not come faults the grove under CAPACITY; else the channel stays as it is (log entry 69).
R189-R193, R198, R201, R204, R209, R280: where a training grove works and its next unsent shard has a ready run for which its own combiner has room,
egress writes the run's error feedback, sends its live blocks on the shard's tree (and on the second tree in a sampled step), notes the elements it
cleared, marks the run sent and frees its pages; when nothing is left the member waits for the verdict. An uncorrectable error in the staging or in
the error feedback sets every poison bit of the run and `UE`. Else the channel stays as it is (log entry 69). -/
def Obligations.StashAndEgress : Prop :=
  ((∀ (ch : Fin 8) (g : Fin 16) (s : State),
    (let c := s.chan ch
     let mark := c.fld (F.HBM_STASH_GRV_MARK_MARK.sh (stashOff g))
     (c.stashCanAdmit g = true → c.occ g < mark → Acts (.stashAdmit ch g) s ch (c.stashAdmitPoint g)) ∧
     (c.stashCanAdmit g = false ∨ mark ≤ c.occ g → Acts (.stashAdmit ch g) s ch c) ∧
     (c.stashCanAdmit g = true → mark ≤ c.occ g → (c.grove g).stash.draining = false →
       Acts (.stashOverMarkAdmit ch g) s ch
         (((c.setFld F.HBM_STASH_STATUS_OVER_MARK 1).count (F.HBM_STASH_GRV_EVT_OVER_MARK.sh (stashOff g))).stashAdmitPoint g)) ∧
     (c.stashCanAdmit g = false ∨ c.occ g < mark ∨ (c.grove g).stash.draining = true → Acts (.stashOverMarkAdmit ch g) s ch c) ∧
     ((c.grove g).egress.waiting ≠ [] → Acts (.egressStageTimeout ch g) s ch (c.groveFault g .capacity)) ∧
     ((c.grove g).egress.waiting = [] → Acts (.egressStageTimeout ch g) s ch c))) ∧
   (∀ (ch : Fin 8) (g : Fin 16) (ue : Bool) (s : State),
    (let c := s.chan ch
     let v := c.grove g
     let cmd := Instr.egressSend ch ⟨g, ue⟩
     (v.st.active = false ∨ v.kind ≠ 1 ∨ c.unsent g = [] → Acts cmd s ch c) ∧
     (∀ n b l, v.st.active = true → v.kind = 1 → c.unsent g = (n, b) :: l →
       (c.shard g n = none → Acts cmd s ch c) ∧
       (∀ sh, c.shard g n = some sh →
         (let run := c.nextRun g sh
          let bad := ue || c.efPoisoned g sh run
          let bs := run.map (fun b => (if sh.kshift = 0 then c.denseBlock g sh b else c.thinBlock g sh b).poisoned bad)
          let out := bs.filter (fun b => (c.liveBlocks g sh).contains b.head.block)
          let c1 := bs.foldl (fun c b => b.ef.foldl (fun c p => c.hbmWrite (p.1 / 64) p.2) c) (if bad then c.setFld F.RED_STATUS_UE 1 else c)
          let c2 := c1.sendRun g sh out false
          let c3 := if c.sampled g sh v.step then c2.sendRun g sh out true else c2
          let c4 := c3.noteZeroed g sh out (run.any (fun b => some b = (c.listedBlocks g n).getLast?))
          (run = [] ∨ c.ownFull g sh = true → Acts cmd s ch c) ∧
          (run ≠ [] → c.ownFull g sh = false → Acts cmd s ch ((c4.onGrove g (fun v => { v with egress := { v.egress with
            sent := v.egress.sent ++ run.map (fun b => (n, b)), staged := v.egress.staged.filter (fun r => match (c.egress g)[r.index]? with
              | some e => !(e.shard = n && run.contains e.block)
              | none => true) } })).egressDone_ g))))))))

/-- R196, R199, R215, R265: a gradient frame of no loaded job, or of a grove that neither works nor is paused, is discarded; one for a paused grove
waits; one whose shard the table does not name, whose tree entry does not combine, or whose root is not the owner, is discarded as a protocol error;
any other goes to its combiner's input. A frame of another type is not touched (log entry 69). R197, R200-R202, R207: where a shard's combiner is this
channel's and its grove works, the blocks its open inputs present combine; an awaited input of the named source is closed, flagged and counted, and
the owner's report is looked at; an expired grace window takes the complete backup of an undecided slot, and counts it. Where there is no such shard,
combiner or input the channel stays as it is (log entry 69). -/
def Obligations.GradientFramesAreCombined : Prop :=
  ((∀ (ch : Fin 8) (i : Fin 5) (f : Frame) (s : State),
    (let c := s.chan ch
     let cmd := Instr.gradientFrame ch i f
     (f.typ < 2 ∨ 4 < f.typ → Acts cmd s ch c) ∧
     (2 ≤ f.typ → f.typ ≤ 4 →
       (c.groveOfJob f.job = none → Acts cmd s ch (c.takeFrame (fun x => x = f))) ∧
       (∀ g, c.groveOfJob f.job = some g →
         (let v := c.grove g
          (v.st = .paused → Acts cmd s ch c) ∧
          (v.st ≠ .paused → v.st.active = false → Acts cmd s ch (c.takeFrame (fun x => x = f))) ∧
          (v.st.active = true → c.shard g f.shard = none → Acts cmd s ch (c.protoDiscard 5 f)) ∧
          (∀ sh, v.st.active = true → c.shard g f.shard = some sh →
            (let e := c.treeEntry (sh.treeOf (f.flags.getLsbD 4))
             let combines := e.valid = true ∧ (e.root = true ∨ e.combine = true)
             (¬ combines → Acts cmd s ch (c.protoDiscard (if e.combine && !e.root then e.parentIf else 5) f)) ∧
             (combines → e.root = true → sh.owner ≠ c.node → Acts cmd s ch (c.protoDiscard 5 f)) ∧
             (combines → e.root = false ∨ sh.owner = c.node → Acts cmd s ch (c.combFrame i g sh (f.flags.getLsbD 4) f))))))))) ∧
   (∀ (ch : Fin 8) (g : Fin 16) (shard src : Nat) (second ue : Bool) (s : State),
    (let c := s.chan ch
     let v := c.grove g
     let block := Instr.combineBlock ch g shard ⟨second, ue⟩
     let timeout := Instr.slotTimeout ch g shard second src
     let grace := Instr.graceExpiry ch g shard src
     (c.shard g shard = none → Acts block s ch c ∧ Acts timeout s ch c ∧ Acts grace s ch c) ∧
     (∀ sh, c.shard g shard = some sh →
       (let e := c.treeEntry (sh.treeOf second)
        let x := c.comb g sh second
        let y := c.comb g sh false
        let combines := v.st.active = true ∧ e.valid = true ∧ (e.root = true ∨ e.combine = true)
        let early := e.root = true ∧ v.update.before v.step = true
        let wait := (x.awaited (c.fld (F.RED_GRV_CFG_POLICY.sh (redOff g)) = 1)).find? (fun k =>
           ((x.inputs[k]?).map (fun i => decide (i.src = src))).getD false)
        let open_ := y.slots.find? (fun k => match y.inputs[k]?, y.backup k with
          | some p, some (_, b) => p.choice = 0 && b.usable && b.last && (p.src = src || b.src = src)
          | _, _ => false)
        (¬ combines ∨ early → Acts block s ch c) ∧
        (combines → ¬ early → Acts block s ch (c.combine g sh second ue)) ∧
        (¬ combines ∨ wait = none → Acts timeout s ch c) ∧
        (∀ k, combines → wait = some k → Acts timeout s ch
          (((((c.closeInput x k).1.setFld F.RED_STATUS_SLOT_CLOSED 1).count (F.RED_UNIT_ERR_CLOSED.sh (unitOff x.unit))).putComb
            (c.closeInput x k).2).ownerCheck g)) ∧
        (open_ = none → Acts grace s ch c) ∧
        (∀ k p, open_ = some k → y.inputs[k]? = some p → Acts grace s ch
          ((c.count (F.RED_GRV_CNT_BACKUPS.sh (redOff g))).putComb (y.setInput k { p with choice := 2 }))))))))

/-! ## Verdicts, updates and links -/

/-- R208-R211, R214, R215: at the coordinator a step report or step fault of a job it coordinates enters the decision of its step and attempt, which
is taken once every owner has reported, while the grove is loaded or works; a fault under CONSISTENCY_FAIL of a known shard first logs the shard's
trees and marks them suspect at every member and the fabric manager. While the grove is PAUSED the frame waits; in any other state, or for no such
job, it is only taken. A verdict timeout decides with what is there. R206, R211: a decision's reason is the OR of the owners' bits, 256 for an owner
without a report and 512 for a fault; a mismatch at attempt 0 without a fault is RETRY, a reason of 0 or of the second-tree bit alone COMMIT, any
other SKIP. A decided step only counts a late report; an open one takes it, and is decided once every owner has reported; the decision is logged,
leaves with its exponents to the verdict group, and RETRY carries none. -/
def Obligations.ReportsAreDecided : Prop :=
  ((∀ (ch : Fin 8) (src attempt job step b idx status shard : Nat) (gg : Fin 16) (props : List (Nat × Int)) (last : Bool) (s : State),
    (let c := s.chan ch
     let report := Instr.stepReport ch src attempt job step b idx props last
     let fault := Instr.stepFault ch src attempt job step status shard
     let rep := c.takeFrame (fun f => f.src = src && f.payload = .ctl (.stepReport attempt job step b idx props last))
     let flt := c.takeFrame (fun f => f.src = src && f.payload = .ctl (.stepFault attempt job step status shard))
     let suspect (g : Nat) (sh : Shard) : Chan :=
       let m := CtlMsg.suspectMark attempt job step shard sh.tree sh.tree2
       ((flt.logTrees g sh).sendFrame { Frame.blank 0x07 (flt.fld (F.RED_GRV_CFG_VGROUP.sh (redOff g))) (.ctl m) with
         job := job, flags := 32 }).sendCtl flt.fm job m
     let add (d : Decision) : Decision := { d with faults := d.faults ++ [(src, status)] }
     (c.coordOf job = none → Acts report s ch rep ∧ Acts fault s ch flt) ∧
     (∀ g, c.coordOf job = some g →
       (let st := (c.grove g).st
        (st = .paused → Acts report s ch c ∧ Acts fault s ch c) ∧
        (st ≠ .paused → st.coordinates = false → Acts report s ch rep ∧ Acts fault s ch flt) ∧
        (st.coordinates = true → Acts report s ch (rep.noteDecision g step attempt (fun d => d.addReport src b idx props last)) ∧
          (flt.shard g shard = none ∨ status ≠ Status.consistencyFail.code → Acts fault s ch (flt.noteDecision g step attempt add)) ∧
          (∀ sh, flt.shard g shard = some sh → status = Status.consistencyFail.code →
            Acts fault s ch ((suspect g sh).noteDecision g step attempt add))))) ∧
     (let v := c.grove gg
      let open_ := v.verdict.open_.find? (fun d => d.step = step && d.attempt = attempt)
      (∀ d, open_ = some d → v.st.coordinates = true → v.coord = c.node → Acts (.verdictTimeout ch gg step attempt) s ch (c.decideStep gg d)) ∧
      (open_ = none ∨ v.st.coordinates = false ∨ v.coord ≠ c.node → Acts (.verdictTimeout ch gg step attempt) s ch c)))) ∧
   (∀ (d : Decision) (owners : List Nat) (c : Chan) (g step attempt : Nat) (f : Decision → Decision),
    (owners.all (fun o => (d.report o).isSome) = true → d.faults = [] → (∀ o ∈ owners, ∀ r, d.report o = some r → r.bits = 0) →
      d.reason owners = 0 ∧ verdictFor (d.reason owners) d.attempt = 1) ∧
    ((∃ o ∈ owners, d.report o = none) → bits (d.reason owners) 8 1 = 1 ∧ verdictFor (d.reason owners) d.attempt ≠ 1) ∧
    (d.faults ≠ [] → bits (d.reason owners) 9 1 = 1 ∧ verdictFor (d.reason owners) d.attempt = 2) ∧
    (∀ n, bits n 4 1 = 1 → bits n 9 1 = 0 → verdictFor n 0 = 3 ∧ verdictFor n 1 = 2) ∧
    ((c.grove g).decided step attempt = true → c.noteDecision g step attempt f = c.count (F.RED_GRV_CNT_LATE_REPORT.sh (redOff g))) ∧
    ((c.grove g).decided step attempt = false → (c.grove g).verdict.open_.find? (fun d => d.step = step && d.attempt = attempt) = none →
      c.noteDecision g step attempt f = (c.onGrove g (fun v => { v with verdict := { v.verdict with
        open_ := (v.verdict.open_ ++ [(⟨step, attempt, [], []⟩ : Decision)]).map (fun d => if d.step = step && d.attempt = attempt then f d else d) } })).tryDecide g step attempt)))

/-- R212-R214: a member that works at the verdict's step and attempt acts on it; one whose step or attempt differs only takes the frames; a PAUSED
member leaves them. The coordinator's log answers a query by unicast; a query for what is not decided is only taken. R213: a RETRY verdict leaves the
step, starts attempt 1 and counts a retry. COMMIT and SKIP reset the attempt and advance the step by one. -/
def Obligations.VerdictsAreActedOnOnce : Prop :=
  ((∀ (ch : Fin 8) (job attempt verdict step reason src : Nat) (gt : List (Nat × Int)) (s : State),
    (let c := s.chan ch
     let cmd := Instr.verdict ch job attempt verdict step reason gt
     let query := Instr.verdictQuery ch src job step attempt
     let took := c.takeVerdict job step (gt.length / 2044 + 1)
     let asked := c.takeFrame (fun f => f.src = src && f.payload = .ctl (.verdictQuery job step attempt))
     (c.groveOfJob job = none → Acts cmd s ch c) ∧
     (∀ g, c.groveOfJob job = some g →
       (let v := c.grove g
        let own := v.st.active = true ∧ v.kind = 1 ∧ step = v.step ∧ attempt = v.verdict.attempt ∧ 1 ≤ verdict ∧ verdict ≤ 3
        (v.st = .paused → Acts cmd s ch c) ∧
        (v.st ≠ .paused → ¬ own → Acts cmd s ch took) ∧
        (own → Acts cmd s ch (took.actVerdict g attempt verdict step reason gt)))) ∧
     (c.coordOf job = none → Acts query s ch asked) ∧
     (∀ g, c.coordOf job = some g →
       (let v := c.grove g
        let known := v.verdict.log.find? (fun r => r.step = step && r.attempt = attempt)
        (v.st = .paused → Acts query s ch c) ∧
        (v.st ≠ .paused → known = none ∨ v.st.coordinates = false → Acts query s ch asked) ∧
        (∀ r, v.st.coordinates = true → known = some r → Acts query s ch (asked.sendVerdict g r (some src))))))) ∧
   (∀ (v : Grove) (gt : List (Nat × Int)),
    (v.freshAttempt 1).step = v.step ∧ (v.freshAttempt 1).verdict.attempt = 1 ∧ (v.freshAttempt 1).begun = false ∧
    (v.freshAttempt 1).egress = GroveEgress.reset ∧ (v.freshAttempt 1).stash.slabs = v.stash.slabs ∧
    (v.nextStep gt).step = v.step + 1 ∧ (v.nextStep gt).verdict.attempt = 0 ∧ (v.nextStep gt).replays = 0 ∧
    (∀ e ∈ gt, (∀ f ∈ gt, f.1 = e.1 → f.2 = e.2) → mapFind (v.nextStep gt).verdict.g e.1 = some e.2) ∧
    (v.nextStep gt).job = v.job ∧ (v.nextStep gt).ws = v.ws ∧ (v.nextStep gt).update = v.update))

/-- R214: a working member that waits asks the coordinator again and counts the query, with `VERDICT_LOST` from the second on; after four it faults;
one that does not wait stays as it is (log entry 69). R210: a suspect mark of valid entries' trees sets `SUSPECT` on each unit they name, and
`SUSPECT_SET`. R222, R230, R345: a working grove outside a replay or a capture hold with a committed step queued begins its update and posts `UPD_SEM`
in every slot of the update region; a stored chunk of the update's step is confirmed, its digest sent to the chunk's reader; a first write-back
timeout is flagged, counted and sent again to the alternate store, a second faults the grove. A confirmation of anything else is only taken; with
nothing due the channel stays as it is (log entry 69). What the built-in kernels make of a panel of 1,024 elements, element by element, each line of
the form a × b + c one VFMA (R63, R65, R228): sgd_momentum and adam element-wise; adafactor through its 32 row and 32 column factors, the root mean
square and the clip, masked elements counting as 0 in every sum; and the 193 lines written begin with the header line read (R223). -/
def Obligations.VerdictWaitsAndUpdates : Prop :=
  ((∀ (ch : Fin 8) (g : Fin 16) (attempt job step shard tree tree2 : Nat) (s : State),
    (let c := s.chan ch
     let v := c.grove g
     let cmd := Instr.verdictWaitExpiry ch g
     let lost := c.setFld F.RED_STATUS_VERDICT_LOST 1
     let ask (c : Chan) : Chan := (c.sendCtl v.coord v.job (.verdictQuery v.job v.step v.verdict.attempt)).onGrove g (fun v =>
       { v with verdict := { v.verdict with queries := v.verdict.queries + 1 } })
     (v.st.active = false ∨ c.waitsVerdict g = false → Acts cmd s ch c) ∧
     (v.st.active = true → c.waitsVerdict g = true →
       (v.verdict.queries = 0 → Acts cmd s ch (ask c)) ∧
       (0 < v.verdict.queries → v.verdict.queries < 4 → Acts cmd s ch (ask lost)) ∧
       (4 ≤ v.verdict.queries → Acts cmd s ch ((lost.event .hwFault 5 0 (some g.val) (argFld F.RED_STATUS_VERDICT_LOST)).groveFault g .hwFault))) ∧
     (let took := c.takeCtl (.suspectMark attempt job step shard tree tree2)
      let us := [tree, tree2].flatMap (fun t => let e := took.treeEntry t; if e.valid then e.units else [])
      Acts (.suspectMark ch attempt job step shard tree tree2) s ch
        (us.foldl (fun c u => (c.setFld (F.RED_UNIT_STATUS_SUSPECT.sh (unitOff u)) 1).setFld F.RED_STATUS_SUSPECT_SET 1) took)))) ∧
   (∀ (ch : Fin 8) (g : Fin 16) (job chunk step count : Nat) (s : State),
    (let c := s.chan ch
     let v := c.grove g
     let start := Instr.updateStart ch g
     let stored := Instr.chunkStored ch job chunk step count
     let timeout := Instr.writebackTimeout ch g chunk
     (v.update.step ≠ none ∨ v.update.queued = [] ∨ v.st.active = false ∨ v.replay = true ∨ v.holding = true → Acts start s ch c) ∧
     (∀ n rest, v.update.step = none → v.update.queued = n :: rest → v.st.active = true → v.replay = false → v.holding = false →
       (let c1 := c.setGrove g { v with update := { v.update with step := some n, queued := rest, consts := c.updConsts g } }
        let region := c.fld (F.CKP_UPD_GRV_CFG_UPD_REGION.sh (redOff g))
        let sem := c.fld (F.CKP_UPD_GRV_CFG_UPD_SEM.sh (redOff g))
        Acts start s ch ((((c1.tilesOf g).filter (fun i => ((c1.tile i).slot.map (·.region)) = some region)).foldl
          (fun c i => c.post i 0 sem 3 0) c1).updForm g))) ∧
     (let took := c.takeCtl (.chunkStored job chunk step count)
      (took.groveOfJob job = none → Acts stored s ch took) ∧
      (∀ h, took.groveOfJob job = some h →
        (let w := took.grove h
         let kept := w.update.chunks.find? (fun k => k.chunk = chunk)
         (kept = none ∨ w.update.step.map (· + 1) ≠ some step ∨ w.st = .faulted → Acts stored s ch took) ∧
         (∀ k, kept = some k → w.update.step.map (· + 1) = some step → w.st ≠ .faulted →
           (took.readerOf h chunk = none → Acts stored s ch (took.chunkConfirmed h chunk)) ∧
           (∀ rd, took.readerOf h chunk = some rd → Acts stored s ch
             ((took.sendCtl rd job (.digestUpdate job step chunk (digest k.data))).chunkConfirmed h chunk)))))) ∧
     (let kept := v.update.chunks.find? (fun k => k.chunk = chunk)
      let entry := (v.wslot v.slotNow).chunk chunk
      (v.update.step = none ∨ kept = none ∨ entry = none ∨ v.st = .faulted → Acts timeout s ch c) ∧
      (∀ n k m, v.update.step = some n → kept = some k → entry = some m → v.st ≠ .faulted →
        (let t := c.tensorOf g m.tensor
         ((t.map (·.tier)).getD 1 = 0 → Acts timeout s ch c) ∧
         ((t.map (·.tier)).getD 1 ≠ 0 → k.tries = 0 →
           (let c1 := (c.setFld F.CKP_UPD_STATUS_STORE_RETRY 1).count (F.CKP_UPD_GRV_CNT_RETRIES.sh (redOff g))
            let c2 := c1.onGrove g (fun v => { v with update := { v.update with
              chunks := v.update.chunks.map (fun x => if x.chunk = chunk then { x with tries := 1 } else x) } })
            Acts timeout s ch (c2.sendChunk g n chunk ((firstIdx (· = chunk) v.update.formed).getD 0) m ((t.map (·.fmt)).getD 0)
              (v.wslot v.slotNow).store2 0xFFFF k.data))) ∧
         ((t.map (·.tier)).getD 1 ≠ 0 → k.tries ≠ 0 → Acts timeout s ch
           (((c.setFld F.CKP_UPD_STATUS_STORE_FAIL 1).event .hwFault 6 0 (some g.val) (argFld F.CKP_UPD_STATUS_STORE_FAIL)).groveFault g .hwFault))))))) ∧
   ((∀ (k : KernelConsts) (skip : List Bool) (g : List Nat) (s : PanelState), g.length = 1024 →
    let w := at32 s.master
    let r := k.run skip g s
    (k.kind = 0 → ∀ i < 1024,
      let g1 := fma32 (w i) k.wd (at32 g i)
      let m := fma32 (at32 s.m1 i) k.b1 g1
      let u := if k.variant then fma32 m k.b1 g1 else m
      at32 r.m1 i = m ∧ at32 r.master i = fma32 u (sub32 0 k.lr) (w i)) ∧
    (k.kind = 1 → ∀ i < 1024,
      let g1 := if k.variant then at32 g i else fma32 (w i) k.wd (at32 g i)
      let m := fma32 (at32 s.m1 i) k.b1 (mul32 g1 k.c1)
      let v := fma32 (at32 s.m2 i) k.b2 (mul32 (mul32 g1 g1) k.c2)
      let u := div32 (mul32 m k.r1) (add32 (sqrt32 (mul32 v k.r2)) k.eps)
      let u1 := if k.variant then fma32 (w i) k.wd u else u
      at32 r.m1 i = m ∧ at32 r.m2 i = v ∧ at32 r.master i = fma32 u1 (sub32 0 k.lr) (w i)) ∧
    (k.kind = 2 →
      let q (n : Nat) := if skip.getD n false then 0 else fma32 (at32 g n) (at32 g n) k.eps
      let factor (old : Nat) (set : List Nat) := fma32 old k.b2 (mul32 (mul32 (sum32 5 set) twoTo5) k.c2)
      let row (i : Nat) := factor (at32 s.m2 i) ((List.range 32).map (fun j => q (32 * i + j)))
      let col (j : Nat) := factor (at32 s.m2 (32 + j)) ((List.range 32).map (fun i => q (32 * i + j)))
      let rbar := mul32 (sum32 5 ((List.range 32).map row)) twoTo5
      let u (n : Nat) := div32 (at32 g n) (sqrt32 (div32 (mul32 (row (n / 32)) (col (n % 32))) rbar))
      let sq (n : Nat) := if skip.getD n false then 0 else mul32 (u n) (u n)
      let sc := max32 one32 (div32 (sqrt32 (mul32 (sum32 10 ((List.range 1024).map sq)) twoTo10)) k.clip)
      (∀ i < 32, at32 r.m2 i = row i ∧ at32 r.m2 (32 + i) = col i) ∧
      ∀ n < 1024,
        let u1 := div32 (u n) sc
        let m := fma32 (at32 s.m1 n) k.b1 (mul32 u1 k.c1)
        let u2 := if k.variant then m else u1
        at32 r.m1 n = (if k.variant then m else at32 s.m1 n) ∧
        at32 r.master n = fma32 (fma32 (w n) k.wd u2) (sub32 0 k.lr) (w n))) ∧
  (∀ b : Bytes, b.length = 259 * 64 → (kernelConsts b).kind < 3 →
    (builtinKernel b).length = 193 * 64 ∧ (builtinKernel b).take 64 = b.take 64)))

/-- R236-R238, R242, R245, R247, R249: with the physical layer trained, FEC corrections and losses are counted; a frame that the physical layer
reports, or whose CRC differs, is flagged and counted, and on an UP interface asked for again; a bad unsequenced frame is discarded; `HELLO` is taken,
and a credit frame on an UP interface. There a frame in sequence is accepted with those the window holds; a later one is asked for again at a port and
waits in a seam's window within 16, the sixteenth asking again; an earlier one, one in the window, and one on an interface not UP are dropped. Without
physical training nothing is received. -/
def Obligations.ReceivedFramesAreCheckedAndSequenced : Prop :=
  ∀ (ch : Fin 8) (i : Fin 5) (f : Frame) (crc : Word) (w : Wire) (a : CreditAck) (s : State),
    (let c0 := s.chan ch
     let l := c0.link i
     let c := c0.countFec i w
     let cmd := Instr.frameReceive ch i f crc w
     let broken := wireFails w c.free i f || crc ≠ frameCrc f
     let bad := (c.setLinkFld F.SP_LINK_STATUS_CRC_ERR i 1).countLink F.SP_ERR_COUNT_CRC i
     let d := (f.lseq + 65536 - l.rxNext) % 65536
     (l.phys = false → Acts cmd s ch c0) ∧
     (l.phys = true →
       (broken = true → (l.st = .up → Acts cmd s ch (bad.sendNak i)) ∧ (l.st ≠ .up → Acts cmd s ch bad)) ∧
       (broken = false → (f.unsequenced && badFrame f) = true → Acts cmd s ch (c.discardBad i f)) ∧
       (broken = false → (f.unsequenced && badFrame f) = false →
         (∀ h, f.payload = .ctl (.hello h) → Acts cmd s ch (c.takeHello i h)) ∧
         (∀ a, f.payload = .credit a → (l.st = .up → Acts cmd s ch (c.takeCredit i a)) ∧ (l.st ≠ .up → Acts cmd s ch c)) ∧
         ((∀ h, f.payload ≠ .ctl (.hello h)) → (∀ a, f.payload ≠ .credit a) →
           (l.st ≠ .up → Acts cmd s ch c) ∧
           (l.st = .up →
             (d = 0 → Acts cmd s ch (Chan.drainWindow i 16 (c.acceptFrame i f))) ∧
             (d ≠ 0 → i.val < 2 → (d < 32768 → Acts cmd s ch (c.sendNak i)) ∧ (32768 ≤ d → Acts cmd s ch c)) ∧
             (d ≠ 0 → 2 ≤ i.val →
               (d < 16 → l.window.any (fun x => x.lseq = f.lseq) = true → Acts cmd s ch c) ∧
               (d < 16 → l.window.any (fun x => x.lseq = f.lseq) = false → Acts cmd s ch (c.setLink i { l with window := l.window ++ [f] })) ∧
               (16 ≤ d → d < 32768 → d % 16 = 0 → Acts cmd s ch (c.sendNak i)) ∧
               (16 ≤ d → 32768 ≤ d ∨ d % 16 ≠ 0 → Acts cmd s ch c)))))) ∧
     (l.st = .up → Acts (.creditAck ch i a) s ch (c0.takeCredit i a)) ∧
     (l.st ≠ .up → Acts (.creditAck ch i a) s ch c0))

/-- R246-R249: an UP interface sends a waiting credit frame first; then a frame due again; then a link-local frame for which replay has room, under
the next sequence and kept; then the frame the lanes pick, under the next sequence, kept for replay and charged to its lane, its receive cell's copy
done. A due credit timer queues a credit frame, a replay timeout sends every kept frame again. With nothing to send, and on an interface not UP, the
channel stays as it is (log entry 69). R24, R236, R246, R250, R258, R268: a `TRAINING` interface whose training ends, its other seam end enabled, is
up physically, has a port's lanes locked with their order and polarity, checks its allotments and sends its `HELLO`; a `HELLO` is taken; the timer
sends another until one is heard; a retrain that succeeds sends one, the third failure in a row holds the link. Else the channel stays as it is (log
entry 69). R250, R251, R255, R258: what a `HELLO` does on a physically trained interface. In training the partner's held units become the outstanding
count and the interface is UP. On an UP interface, and in a retrain that cannot be resumed, one from another partner flushes it and trains anew; in a
retrain one from the same partner whose next sequence is known resumes with the frames it has not seen. On a seam end one that does not come from the
end across is dropped. -/
def Obligations.FramesTrainAndLeaveUnderCredit : Prop :=
  ((∀ (ch : Fin 8) (i : Fin 5) (s : State),
    (let c := s.chan ch
     let l := c.link i
     let cmd := Instr.frameTransmit ch i
     let credit := l.control.find? (fun f => f.typ = 0x08)
     let ctl := l.control.find? (fun f => f.typ ≠ 0x08 && l.room i f)
     (l.st ≠ .up → Acts cmd s ch c ∧ Acts (.creditAckTimer ch i) s ch c ∧ Acts (.replayTimeout ch i) s ch c) ∧
     (l.st = .up →
       (∀ f, credit = some f → Acts cmd s ch ((c.setLink i { l with control := l.control.erase f }).emitFrame i f)) ∧
       (credit = none →
         (∀ f rest, l.resend = f :: rest → Acts cmd s ch ((c.setLink i { l with resend := rest }).emitFrame i f)) ∧
         (∀ f, l.resend = [] → ctl = some f → Acts cmd s ch ((c.setLink i { l with
           control := l.control.erase f, txNext := (l.txNext + 1) % 65536
           replay := l.replay ++ [⟨{ f with lseq := l.txNext }, none, 0, 0⟩] }).emitFrame i { f with lseq := l.txNext })) ∧
         (l.resend = [] → ctl = none → l.pick i = none → Acts cmd s ch c) ∧
         (∀ e, l.resend = [] → ctl = none → l.pick i = some e →
           (let v := (typeLane e.frame.typ).getD 0
            Acts cmd s ch (((c.setLink i { l with
              egress := l.egress.erase e, txNext := (l.txNext + 1) % 65536
              replay := l.replay ++ [⟨{ e.frame with lseq := l.txNext }, some v, e.frame.charge, 0⟩]
              charged := (l.charged.zipIdx).map (fun q => if q.2 = v then q.1 + e.frame.charge else q.1)
              rr := if v = 0 then l.rr else 1 + v % 3, creditedSent := l.creditedSent + 1 }).emitFrame i { e.frame with lseq := l.txNext }).egressDone i e)))) ∧
       (l.timer = true → Acts (.creditAckTimer ch i) s ch (c.setLink i (l.queueCredit c.node false))) ∧
       (l.timer = false → Acts (.creditAckTimer ch i) s ch c) ∧
       (l.replay = [] → Acts (.replayTimeout ch i) s ch c) ∧
       (l.replay ≠ [] → (∃ x ∈ l.replay, 4 ≤ x.tries) → Acts (.replayTimeout ch i) s ch (c.linkReset i)) ∧
       (l.replay ≠ [] → (∀ x ∈ l.replay, x.tries < 4) → Acts (.replayTimeout ch i) s ch ((c.setLink i { l with
         replay := l.replay.map (fun x => { x with tries := x.tries + 1 }), resend := l.replay.map (·.frame) }).countLink F.SP_LINK_COUNT_REPLAYS i))))) ∧
   (∀ (ch : Fin 8) (i : Fin 5) (rev : Bool) (pol : Byte) (h : Hello) (s : State),
    (let c := s.chan ch
     let l := c.link i
     let trained := Instr.linkTrained ch i rev pol
     let hello (c : Chan) : Chan := c.emitFrame i (helloFrame (c.helloOf s.serial i))
     let c1 := (c.setLink i { l with phys := true, heard := false, rxCharged := l.held, returned := [0, 0, 0, 0] }).checkAllot i
     let c2 := (c.setLink i { l with phys := true, heard := false }).checkAllot i
     (l.st ≠ .training ∨ l.phys = true ∨ s.seamEnabled ch i = false → Acts trained s ch c) ∧
     (l.st = .training → l.phys = false → s.seamEnabled ch i = true →
       (2 ≤ i.val → Acts trained s ch (hello c1)) ∧
       (i.val < 2 → Acts trained s ch (hello (((c1.setLinkFld F.SP_LINK_STATUS_LANE_LOCK i 0xFF).setLinkFld F.SP_LINK_STATUS_LANE_REV i
         (if rev then 1 else 0)).setLinkFld F.SP_LINK_STATUS_POL_INV i pol.toNat)))) ∧
     Acts (.hello ch i h) s ch (c.takeHello i h) ∧
     (l.phys = true → l.heard = false → Acts (.helloTimer ch i) s ch (hello c)) ∧
     (l.phys = false ∨ l.heard = true → Acts (.helloTimer ch i) s ch c) ∧
     (l.st ≠ .retrain ∨ l.phys = true → ∀ ok, Acts (.retrainEnd ch i ok) s ch c) ∧
     (s.seamEnabled ch i = false → Acts (.retrainEnd ch i true) s ch c) ∧
     (l.st = .retrain → l.phys = false →
       (s.seamEnabled ch i = true →
         (2 ≤ i.val → Acts (.retrainEnd ch i true) s ch (hello c2)) ∧
         (i.val < 2 → Acts (.retrainEnd ch i true) s ch (hello (c2.setLinkFld F.SP_LINK_STATUS_LANE_LOCK i 0xFF)))) ∧
       (l.fails + 1 < 3 → Acts (.retrainEnd ch i false) s ch (c.setLink i { l with fails := l.fails + 1 })) ∧
       (3 ≤ l.fails + 1 → Acts (.retrainEnd ch i false) s ch ((c.setLink i { l with fails := 3 }).setLinkState i .hold))))) ∧
   (∀ (c : Chan) (i : Nat) (h : Hello),
    (let l := c.link i
     let same := (l.partner.map (fun p => (p.node, p.serial, p.ifx))) = some (h.node, h.serial, h.ifx)
     let known := h.rxNext = l.txNext ∨ ∃ x ∈ l.replay, x.frame.lseq = h.rxNext
     (l.phys = false ∨ helloFits c.idx i h = false ∨ (l.st ≠ .training ∧ l.st ≠ .up ∧ l.st ≠ .retrain) → c.takeHello i h = c) ∧
     (l.phys = true → helloFits c.idx i h = true →
       (l.st = .training → c.takeHello i h = (c.setLink i { l with
         partner := some h, heard := true, fails := 0, charged := (List.range 4).map (fun v => h.held.getD v 0), retSeen := [0, 0, 0, 0] }).setLinkState i .up) ∧
       (l.st = .up → same → c.takeHello i h = c) ∧
       (l.st = .up → ¬ same → c.takeHello i h = (c.flush i).setLinkState i .training) ∧
       (l.st = .retrain → ¬ (same ∧ known) → c.takeHello i h = (c.flush i).setLinkState i .training) ∧
       (l.st = .retrain → same → known →
         (let keep := if h.rxNext = l.txNext then [] else (l.ackTo ((h.rxNext + 65535) % 65536)).replay
          let out (v : Nat) : Nat := h.held.getD v 0 + (keep.filter (fun x => x.lane = some v)).foldl (fun a x => a + x.charge) 0
          c.takeHello i h = (c.setLink i { l with
            partner := some h, heard := true, fails := 0, replay := keep.map (fun x => { x with tries := 0 })
            resend := keep.map (·.frame), retSeen := (l.charged.zipIdx).map (fun q => q.1 - out q.2), unacked := 0 }).setLinkState i .up))))))

/-- R36, R250-R252: on an UP port the loss of lanes drops their lock and resets the link; a seam whose separation leaves 2-6 is flagged and reset,
inside it only the phase is recorded; a HOLD that expires goes DOWN, flushes and trains; a partner's return retrains; an uncorrectable receive cell
goes with its copies, counted, and its credits return; uncorrectable link state flushes and trains. In any other state the channel stays as it is (log
entry 69). R253, R254: an UP interface audits once 2^20 credited frames have gone; an audit is answered with the receiver's totals as it was accepted,
and a mismatch noted; a reply that agrees ends the audit and counts it, one that differs begins reconciliation; a corrected reply puts the totals
right, and one that holds more than an allotment resets the link; a reconciliation request stops the side that audits and is answered by the other
with corrected totals; one that times out is counted and resets the link. A message that is not there, or that nothing awaits, changes nothing more
(log entry 69). -/
def Obligations.LinkLossAuditsAndHolds : Prop :=
  ((∀ (ch : Fin 8) (i : Fin 5) (e : Fin 3) (lanes : Byte) (sep cell : Nat) (s : State),
    (let c := s.chan ch
     let l := c.link i
     (l.st = .up → i.val < 2 → lanes ≠ 0 → Acts (.laneLoss ch i lanes) s ch
       ((c.setLinkFld F.SP_LINK_STATUS_LANE_LOCK i (BitVec.ofNat 8 (c.linkFld F.SP_LINK_STATUS_LANE_LOCK i) &&& ~~~ lanes).toNat).linkReset i)) ∧
     (l.st ≠ .up ∨ 2 ≤ i.val ∨ lanes = 0 → Acts (.laneLoss ch i lanes) s ch c) ∧
     ((c.link (e.val + 2)).st = .up → sep ≤ 8 →
       (let c1 := c.setFld ⟨R.CLK_SEAM_PHASE, 4 * e.val, 4⟩ sep
        (2 ≤ sep → sep ≤ 6 → Acts (.seamSlip ch e sep) s ch c1) ∧
        ((sep < 2 ∨ 6 < sep) → Acts (.seamSlip ch e sep) s ch ((c1.setFld ⟨R.CLK_STATUS, 8 + e.val, 1⟩ 1).linkReset (e.val + 2))))) ∧
     ((c.link (e.val + 2)).st ≠ .up ∨ 8 < sep → Acts (.seamSlip ch e sep) s ch c) ∧
     (l.st = .hold →
       Acts (.linkHoldExpiry ch i) s ch ((((c.setLinkState i .down).dropEgress i).flush i).setLinkState i .training) ∧
       Acts (.partnerReturn ch i) s ch ((c.setLink i { l with phys := false, heard := false, fails := 0 }).setLinkState i .retrain)) ∧
     (l.st ≠ .hold → Acts (.linkHoldExpiry ch i) s ch c ∧ Acts (.partnerReturn ch i) s ch c) ∧
     (l.cells.find? (fun x => x.id = cell) = none → Acts (.rxCellUe ch i cell) s ch c) ∧
     (∀ x, l.cells.find? (fun x => x.id = cell) = some x →
       (let c1 := (List.range 5).foldl (fun (c : Chan) o => c.setLink o { c.link o with
          egress := (c.link o).egress.filter (fun e => !(e.src = i.val && e.cell = cell)) }) c
        let l1 : Link := { c1.link i with cells := (c1.link i).cells.filter (fun y => y.id ≠ cell) }
        Acts (.rxCellUe ch i cell) s ch ((c1.setLink i (if x.units = 0 then l1 else l1.giveBack x.lane x.units)).countLink F.SP_DISCARD_COUNT_FLUSHED_FRAMES i))) ∧
     (l.st ≠ .disabled → l.st ≠ .down → Acts (.linkStateUe ch i) s ch ((c.flush i).setLinkState i .training)) ∧
     (l.st = .disabled ∨ l.st = .down → Acts (.linkStateUe ch i) s ch c))) ∧
   (∀ (ch : Fin 8) (i : Fin 5) (charged returned held : List Nat) (s : State),
    (let c := s.chan ch
     let l := c.link i
     let reply (ok : Bool) := Instr.auditReply ch i ok charged returned held
     (l.st = .up → 2 ^ 20 ≤ l.creditedSent → l.audit = none → l.recon = 0 → Acts (.auditSend ch i) s ch
       (c.setLink i (({ l with audit := some l.charged, creditedSent := 0 } : Link).queueCtl c.node (.audit l.charged)))) ∧
     (l.st ≠ .up ∨ l.creditedSent < 2 ^ 20 ∨ l.audit ≠ none ∨ l.recon ≠ 0 → Acts (.auditSend ch i) s ch c) ∧
     (c.takeLocal i (.audit charged) = none → Acts (.audit ch i charged) s ch c) ∧
     (∀ c1, c.takeLocal i (.audit charged) = some c1 →
       (let k := c1.link i
        let c2 := c1.setLink i (k.queueCtl c1.node (.auditReply false k.auditAt k.returned k.held))
        (charged = k.auditAt → Acts (.audit ch i charged) s ch c2) ∧ (charged ≠ k.auditAt → Acts (.audit ch i charged) s ch (c2.mismatch i)))) ∧
     (∀ ok, c.takeLocal i (.auditReply ok charged returned held) = none → Acts (reply ok) s ch c) ∧
     (∀ c1, c.takeLocal i (.auditReply false charged returned held) = some c1 →
       (let k := c1.link i
        (k.audit = none → Acts (reply false) s ch c1) ∧
        (∀ sent, k.audit = some sent →
          (let agrees := sent = charged ∧ ∀ q ∈ k.retSeen.zipIdx, q.1 ≤ returned.getD q.2 0
           (agrees → Acts (reply false) s ch ((c1.setLink i { k with audit := none }).countLink F.SP_AUDIT_COUNT_AUDITS i)) ∧
           (¬ agrees → Acts (reply false) s ch (((c1.setLink i { k with recon := 1 }).mismatch i).reconNext i)))))) ∧
     (∀ c1, c.takeLocal i (.auditReply true charged returned held) = some c1 →
       (let k := c1.link i
        let excess := ∃ q ∈ held.zipIdx, (k.partner.map (fun h => h.allot.getD q.2 0)).getD 0 < q.1
        (k.recon ≠ 2 → Acts (reply true) s ch c1) ∧
        (k.recon = 2 → excess → Acts (reply true) s ch ((c1.countLink F.SP_AUDIT_COUNT_AUDIT_RESETS i).linkReset i)) ∧
        (k.recon = 2 → ¬ excess → Acts (reply true) s ch (((c1.setLink i { k with
          charged := charged, retSeen := returned, recon := 0, audit := none }).setLinkFld F.SP_LINK_STATUS_RECONCILED i 1).countLink F.SP_AUDIT_COUNT_RECONCILES i)))) ∧
     (c.takeLocal i .reconcile = none → Acts (.reconcile ch i) s ch c) ∧
     (∀ c1, c.takeLocal i .reconcile = some c1 →
       (let k := c1.link i
        let k1 : Link := { k with returned := (k.rxCharged.zipIdx).map (fun q => q.1 - k.held.getD q.2 0) }
        (k.audit ≠ none → k.recon = 0 → Acts (.reconcile ch i) s ch ((c1.setLink i { k with recon := 1 }).reconNext i)) ∧
        (k.audit = none ∨ k.recon ≠ 0 → Acts (.reconcile ch i) s ch
          (c1.setLink i (k1.queueCtl c1.node (.auditReply true k1.rxCharged k1.returned k1.held)))))) ∧
     (l.st = .up → l.recon = 2 → Acts (.reconcileTimeout ch i) s ch ((c.countLink F.SP_AUDIT_COUNT_AUDIT_RESETS i).linkReset i)) ∧
     (l.st ≠ .up ∨ l.recon ≠ 2 → Acts (.reconcileTimeout ch i) s ch c))))

/-- R259, R262, R268, R280: a topology report is taken; in any state but OFF and LOCKED a route swap starts the check, unless one runs; a check that
finds a fault sets `SWAP_ERR` with the table and entry and keeps the tables, an uncorrectable line of the images counting as one; one that finds none
installs them and swaps the image. With no check running its end changes nothing (log entry 69). -/
def Obligations.RouteTablesSwapWhole : Prop :=
  ∀ (ch : Fin 8) (src : Nat) (es : List (Nat × Nat × Nat × Nat × Nat)) (ue : Option Nat) (s : State),
    (let c := s.chan ch
     let done := Instr.routeSwapComplete ch ue
     let c0 := c.setFld F.SP_RT_CTL_BUSY 0
     Acts (.topoReport ch src es) s ch (c.takeFrame (fun f => f.src = src && f.payload = .ctl (.topoReport es))) ∧
     (c.st = .off ∨ c.st = .locked ∨ c.fld F.SP_RT_CTL_BUSY = 1 → Acts (.routeSwap ch) s ch c) ∧
     (c.st ≠ .off → c.st ≠ .locked → c.fld F.SP_RT_CTL_BUSY ≠ 1 → Acts (.routeSwap ch) s ch (c.setFld F.SP_RT_CTL_BUSY 1)) ∧
     (c.fld F.SP_RT_CTL_BUSY = 0 → Acts done s ch c) ∧
     (c.fld F.SP_RT_CTL_BUSY ≠ 0 →
       (let found := c.swapCheck c.tableImages (fun l => ue = some l || c.poison.contains l)
        (∀ tb e, found = some (tb, e) → Acts done s ch
           ((((match ue with | some l => c0.hbmUe l | none => c0).setFld F.SP_RT_CTL_SWAP_ERR 1).setFld F.SP_RT_CTL_ERR_TABLE tb).setFld F.SP_RT_CTL_ERR_ENTRY e)) ∧
        (found = none → Acts done s ch (({ c0 with tables := some c.tableImages } : Chan).setFld F.SP_RT_CTL_IMAGE (1 - c0.fld F.SP_RT_CTL_IMAGE))))))

/-! ## Registers, tables and tile failures -/

/-- R317, R318, R323, R327: a full-word write of a mapped register sets its RW bits to the word's, clears the W1C bits that the word has 1, sets the
staged copy's RWS bits to the word's and leaves the applied copy's, and leaves every other bit, and every other register; a word that would change an
RSV bit says so. -/
def Obligations.RegisterWritesFollowTheirAccessTypes : Prop :=
  ∀ (b : Bank) (d : RegDef) (off : Nat) (v live : Word),
    (let r := b.write chanRegs d off v live
     (∀ k < 32, (r.bank.get chanRegs off).getLsbD k =
       if (d.bitsOf .rw).getLsbD k then v.getLsbD k
       else ((b.get chanRegs off).getLsbD k && !((d.bitsOf .w1c).getLsbD k && v.getLsbD k))) ∧
     (d.isStaged = true → ∀ k < 32, (d.bitsOf .rws).getLsbD k = true → (r.bank.getStaged chanRegs off).getLsbD k = v.getLsbD k) ∧
     (∀ o, o ≠ off → r.bank.get chanRegs o = b.get chanRegs o) ∧
     (r.rsv = true ↔ ∃ k < 32, (d.bitsOf .rsv).getLsbD k = true ∧ v.getLsbD k ≠ live.getLsbD k))

/-- R316-R318, R335, R369: where a channel's registers answer, an aligned write of a register outside the alias window takes the word under its access
types, sets `RSV_WRITE` where an RSV bit would change, and acts as its register says. A write of an offset that no register has, or that the channel
lacks, of a copy staged for a pending strobe, or of units the understory cannot keep, changes nothing; one of a ring's configuration while the grove's
ring is under way sets `CFG_BUSY`. A write that is not aligned, not in the block, or of a channel whose registers do not answer leaves the channel
(log entry 69); so does one of a port die that does not run, where any other takes the word. -/
def Obligations.RegisterWriteTakesTheWord : Prop :=
  ∀ (ch : Fin 8) (off : Nat) (v : Word) (s : State),
    (let c := s.chan ch
     let cmd := Instr.registerWrite (some ch) off v
     let pending (d : RegDef) := d.isStaged = true ∧ ∃ g, c.groupOf off = some g ∧ (c.grove g).strobe.isSome = true
     let busy (d : RegDef) := d.base ∈ [R.CKP_GRV_CFG, R.CKP_GRV_STAGE, R.CKP_GRV_RANGES, R.CKP_GRV_CARRY] ∧ (c.grove (d.copyOf off)).ring.phase ≠ 0
     let full := off = R.CTL_UND_CFG ∧ c.unitsOk (F.CTL_UND_CFG_UNITS.of v) = false
     ((c.regsUp = false ∨ off % 4 ≠ 0 ∨ 0x800000 ≤ off) → Acts cmd s ch c) ∧
     (c.regsUp = true → off % 4 = 0 → off < 0x800000 →
       (findReg chanRegs off = none → Acts cmd s ch c) ∧
       (∀ d, findReg chanRegs off = some d →
         (c.lacks off = true → Acts cmd s ch c) ∧
         (c.lacks off = false →
           (pending d → Acts cmd s ch c) ∧
           (¬ pending d → busy d → Acts cmd s ch (c.setFld F.CKP_STATUS_CFG_BUSY 1)) ∧
           (¬ pending d → ¬ busy d → full → Acts cmd s ch c) ∧
           (¬ pending d → ¬ busy d → ¬ full →
             (let r := c.bank.write chanRegs d off v (c.liveWord d off)
              let c1 : Chan := { c with bank := r.bank }
              Acts cmd s ch ((if r.rsv then c1.flagRsv else c1).writeActs off v (c.reg off))))))) ∧
     ((s.pd.running = false ∨ off % 4 ≠ 0) → exec (.registerWrite none off v) s = .next s) ∧
     (s.pd.running = true → off % 4 = 0 → exec (.registerWrite none off v) s = .next (s.pdWrite off v)))

/-- R321: bit b of the aliased word at offset a, below 0x40000, has its alias word at 0x800000 + (a / 4) x 128 + b x 4. A read of it returns the bit
in bit 0 and 0 above. A write of 0 or 1 writes that one bit, as a read-modify-write of the word by R320's rules for the bits beside it; a write with a
higher bit set only sets `ALIAS_ERR`. A write of a channel whose registers do not answer, or outside the aligned window, leaves it (log entry 69). -/
def Obligations.AliasWordsReadAndWriteOneBit : Prop :=
  ∀ (ch : Fin 8) (a b : Nat) (v : Word) (s : State), a < 0x40000 → a % 4 = 0 → b < 32 →
    (let c := s.chan ch
     let o := 0x800000 + a / 4 * 128 + b * 4
     (∀ view, (c.readWord o view).toNat = if (c.readWord a 0).getLsbD b then 1 else 0) ∧
     (c.regsUp = false → Acts (.bitAliasWrite ch o v) s ch c) ∧
     (∀ x, x % 4 ≠ 0 ∨ x < 0x800000 ∨ 0x1000000 ≤ x → Acts (.bitAliasWrite ch x v) s ch c) ∧
     (c.regsUp = true → 2 ≤ v.toNat → Acts (.bitAliasWrite ch o v) s ch c.flagAlias ∧ c.flagAlias.fld F.CTL_STATUS_ALIAS_ERR = 1) ∧
     (c.regsUp = true → v.toNat ≤ 1 → findReg chanRegs a = none → Acts (.bitAliasWrite ch o v) s ch c) ∧
     (∀ d, c.regsUp = true → v.toNat ≤ 1 → findReg chanRegs a = some d →
       (((d.bitsOf .w1c).getLsbD b || (d.bitsOf .wo).getLsbD b) = true → v = 0 → Acts (.bitAliasWrite ch o v) s ch c) ∧
       (((d.bitsOf .w1c).getLsbD b || (d.bitsOf .wo).getLsbD b) = false ∨ v = 1 → ∃ w : Word,
         (∀ k < 32, w.getLsbD k =
           if k = b then v.getLsbD 0
           else if ((d.bitsOf .w1c).getLsbD k || (d.bitsOf .wo).getLsbD k) = true then false
           else if (d.bitsOf .rws).getLsbD k = true then (c.staged a).getLsbD k
           else (c.liveWord d a).getLsbD k) ∧
         Acts (.bitAliasWrite ch o v) s ch (c.writePlain a w).1)))

/-- R102: a write of `CTL_UND_CFG` sets `UNITS` where the understory can keep them; another changes nothing. R340: `PARITY_INJECT` arms the next write
and changes no register but by an RSV bit. R337: `SNAP_RELEASE` ends the held state of the bank it names and of no other; an offset that starts no
bank sets `SNAP_ERR`. Where the registers do not answer, each leaves the channel (log entry 69). R324, R463: a sweep checks every applied and staged
copy, of a channel or of the port die. R30-R32, R277, R280: a crown-core access that the region filter lets through returns its data to the core where
it is a load, and changes the memory or register where it is a store; an uncorrectable line is a bus error. An access that the filter refuses is
flagged, logged and answered with a bus error. R345: in a capture hold a grove's user program waits; the channel or port die then stays as it is, as
one that does not answer does (log entry 69). -/
def Obligations.UnderstorySweepsAndCrownAccess : Prop :=
  ((∀ (ch : Fin 8) (v : Word) (off : Nat) (s : State),
    (let c := s.chan ch
     let units := (c.writePlain R.CTL_UND_CFG v).1
     let armed := (c.writePlain R.CTL_DIAG 1).1
     let release : Word := BitVec.ofNat 32 (off % 2 ^ 24 + 2 ^ 31)
     let freed := (c.writePlain R.CTL_SNAP release).1
     let same (d : Chan) (o : Nat) := o ≠ R.CTL_STATUS → o ≠ R.CTL_FLAG_COUNT → o ≠ R.CTL_AUX_COUNT → d.reg o = c.reg o
     (c.regsUp = false → Acts (.undCfgWrite ch v) s ch c ∧ Acts (.parityInject ch) s ch c ∧ Acts (.snapRelease (some ch) off) s ch c) ∧
     (c.regsUp = true →
       (c.unitsOk (F.CTL_UND_CFG_UNITS.of v) = true → Acts (.undCfgWrite ch v) s ch units ∧
         units.fld F.CTL_UND_CFG_UNITS = F.CTL_UND_CFG_UNITS.of v ∧ ∀ o, o ≠ R.CTL_UND_CFG → same units o) ∧
       (c.unitsOk (F.CTL_UND_CFG_UNITS.of v) = false → Acts (.undCfgWrite ch v) s ch c) ∧
       (Acts (.parityInject ch) s ch armed ∧ armed.bank.inject = true ∧ ∀ o, same armed o) ∧
       (Acts (.snapRelease (some ch) off) s ch freed ∧ (∀ o, same freed o) ∧
         (∀ los, chanBank (off % 2 ^ 24) = some los → ∀ o,
           mapFind freed.bank.held o = if los.any (fun l => o = l || o = l + 4) then none else mapFind c.bank.held o) ∧
         (chanBank (off % 2 ^ 24) = none → freed.fld F.CTL_STATUS_SNAP_ERR = 1 ∧ freed.bank.held = c.bank.held))) ∧
     (s.pd.running = false → exec (.snapRelease none off) s = .next s) ∧
     (s.pd.running = true → exec (.snapRelease none off) s = .next (s.pdWrite R.PD_SNAP release)))) ∧
   (∀ (ch : Fin 8) (a : CrownAccess) (s : State),
    (let c := s.chan ch
     let cmd := Instr.crownCoreAccess ch a
     let core := a.core.val
     let addr := a.addr.toNat
     let place := crownPlace addr
     let waits := c.regsUp = false ∨ a.firmware = false ∧ (c.grove a.grove.val).holding = true
     (c.regsUp = false → Acts (.paritySweep (some ch)) s ch c) ∧
     (c.regsUp = true → Acts (.paritySweep (some ch)) s ch
       (c.bank.badStaged.foldl (fun c o => c.checkStaged o) (c.bank.bad.foldl (fun c o => c.checkApplied o) c))) ∧
     (s.pd.running = false → exec (.paritySweep none) s = .next s) ∧
     (s.pd.running = true → exec (.paritySweep none) s = .next
       (s.pd.bank.badStaged.foldl (fun s o => s.pdCheckStaged o) (s.pd.bank.bad.foldl (fun s o => s.pdCheckApplied o) s))) ∧
     (waits → exec cmd s = .next s) ∧
     (¬ waits →
       (c.crownMay a place = false → Acts cmd s ch (c.busRefused core addr)) ∧
       (c.crownMay a place = true →
         (place = .rom → Acts cmd s ch (c.toCrown core (some ((List.range a.size).map (fun k => Config.romByte (addr + k)))))) ∧
         (∀ off, place = .regs off →
           (a.write = none → Acts cmd s ch ((c.readCheck off 0).2.toCrown core (some (leBytes 4 (c.readWord off 0).toNat)))) ∧
           (∀ b, a.write = some b → Acts cmd s ch (c.writeWord off (BitVec.ofNat 32 (leAt b 0 4))).1)) ∧
         (∀ off, place = .global off → exec cmd s = .next
           ((s.pdReadCheck off 0).2.onChan ch (fun c => c.toCrown core (some (leBytes 4 (s.pdRead off 0).toNat))))) ∧
         (∀ i t, place = .tile i t →
           (∀ d, a.write = none → c.sramLines i (t / 64) a.errs (linesIn t a.size) = (none, d) → Acts cmd s ch (d.crownSramBad core i)) ∧
           (∀ b d, a.write = none → c.sramLines i (t / 64) a.errs (linesIn t a.size) = (some b, d) →
             Acts cmd s ch (d.toCrown core (some (slice b (t % 64) a.size)))) ∧
           (∀ b d, a.write = some b → c.sramPoke i t (slice b 0 a.size) a.errs = (true, d) → Acts cmd s ch (d.crownSramBad core i)) ∧
           (∀ b d, a.write = some b → c.sramPoke i t (slice b 0 a.size) a.errs = (false, d) → Acts cmd s ch d)) ∧
         (∀ h, place = .hbm h →
           (∀ d, a.write = none → c.readLines (h / 64) a.errs (linesIn h a.size) = (none, d) → Acts cmd s ch (d.toCrown core none)) ∧
           (∀ b d, a.write = none → c.readLines (h / 64) a.errs (linesIn h a.size) = (some b, d) →
             Acts cmd s ch (d.toCrown core (some (slice b (h % 64) a.size)))) ∧
           (∀ b d, a.write = some b → c.hbmPoke h (slice b 0 a.size) a.errs = (true, d) → Acts cmd s ch (d.toCrown core none)) ∧
           (∀ b d, a.write = some b → c.hbmPoke h (slice b 0 a.size) a.errs = (false, d) → Acts cmd s ch d)))))))

/-- R271, R283: a `REGION_APPLY` in BRINGUP, or in READY with no grove loaded, whose staged copies hold parity and whose staged regions break none of
items 1-4 zeroes region 3 and puts every staged region in force; any other only sets `REGION_ERR`, after the parity of the staged copies is checked. A
channel that is OFF or LOCKED stays as it is (log entry 69). R109, R332: a strobe that waits for the flit drain applies once no flit of its groups
remains, and is answered; a drain that times out while a flit of the named grove remains faults that grove, and the strobe ends HW_FAULT. While a flit
remains the strobe goes on waiting; where none waits for the grove, or the drain has ended, the channel stays as it is (log entry 69). -/
def Obligations.RegionsAndTablesApply : Prop :=
  ((∀ (ch : Fin 8) (s : State),
    (let c := s.chan ch
     let checked := regionOffs.foldl (fun c o => c.checkStaged o) c
     let may := c.st = .bringup ∨ c.st = .ready ∧ ∀ g ∈ groveNums, (c.grove g).st = .empty
     let good := regionOffs.any (fun o => c.bank.badStaged.contains o) = false ∧ regionItem c.staged (sumCap c.reg) = none
     (c.st = .off ∨ c.st = .locked → Acts (.regionApply ch) s ch c) ∧
     (c.st ≠ .off → c.st ≠ .locked →
       (may → good → ∃ u, exec (.regionApply ch) s = .next u ∧ (∀ n < 8, (u.chan ch).region n = regionIn c.staged n) ∧
         (∀ b l tr, regionIn c.staged 3 = some (b, l, tr) →
           (∀ k, b * 64 ≤ k → k < (l + 1) * 64 → cellByte (u.chan ch).hbm k = 0) ∧
           (∀ k, k < b * 64 ∨ (l + 1) * 64 ≤ k → cellByte (u.chan ch).hbm k = cellByte c.hbm k))) ∧
       (¬ (may ∧ good) → Acts (.regionApply ch) s ch (checked.setFld F.HBM_STATUS_REGION_ERR 1) ∧
         ∀ n < 8, (checked.setFld F.HBM_STATUS_REGION_ERR 1).region n = c.region n)))) ∧
   (∀ (ch : Fin 8) (g : Fin 16) (s : State),
    (let c := s.chan ch
     let apply := Instr.groveTableApply ch g
     let timeout := Instr.tableDrainTimeout ch g
     (c.applyWait = none → Acts apply s ch c ∧ Acts timeout s ch c) ∧
     (∀ mask q, c.applyWait = some (mask, q) →
       (let gs := groupsOf mask
        (gs.contains g.val = false → Acts apply s ch c ∧ Acts timeout s ch c) ∧
        (gs.contains g.val = true →
          (c.drained gs = true → Acts apply s ch
            (((c.applyAll gs).strobeResult .ok 0 0).endWait q .ok (some (minOr 0xFFFFFFFF (gs.map (fun g => (c.grove g).step)))))) ∧
          (c.drained gs = false → Acts apply s ch c) ∧
          (c.drained [g.val] = false → Acts timeout s ch (((c.groveFault g .hwFault).strobeResult .hwFault 0 0).endWait q .hwFault none)) ∧
          (c.drained [g.val] = true → Acts timeout s ch c)))))))

/-- R396, R420, R425, R437, R439: where the port die firmware runs, `CH_HOLD_RELEASE` clears the named hold bits and lets every waiting channel
without its bit go on; `SVN_COMMIT` raises `MIN_SVN` to the active SVN; `BIND` binds the heartwood cell whose link is up, and otherwise sets
`LINK_ERR`. Where it does not run, nothing changes (log entry 69). -/
def Obligations.PortDieWritesHoldSvnAndBind : Prop :=
  ∀ (mask : Byte) (s : State),
   (s.pd.running = false → exec (.chHoldRelease mask) s = .next s ∧ exec .svnCommit s = .next s ∧ exec .bind s = .next s) ∧
   (s.pd.running = true →
    (let m := (s.pdRead R.PD_CH_HOLD 0).toNat % 256
     ∃ u, exec (.chHoldRelease mask) s = .next u ∧ (∀ k < 8, bits u.pd.flash.hold k 1 = if mask.getLsbD k then 0 else bits m k 1) ∧
       (∀ k < 8, mask.getLsbD k = true → (s.chan k).st = .bringup → (u.chan k).fld F.CTL_BRINGUP_HELD = 0)) ∧
    (∃ u, exec .svnCommit s = .next u ∧
      u.pd.fld F.SEC_SVN_MIN_SVN = max (s.pd.fld F.SEC_SVN_MIN_SVN) (s.pd.fld F.SEC_SVN_ACTIVE_SVN) ∧
      u.chans = s.chans ∧ u.cell = s.cell) ∧
    (s.cell.link = true → ∃ u, exec .bind s = .next u ∧ u.pd.bound = some Config.cellKey ∧ u.cell = s.cell) ∧
    (s.cell.link = false → ∃ u, exec .bind s = .next u ∧ u.pd.bound = s.pd.bound ∧ u.pd.fld F.MET_STATUS_LINK_ERR = 1 ∧ u.cell = s.cell))

/-- R406, R407: an expired watchdog of a mapped tile that has its ACLK fails the tile under cause 4; a quiesce that times out, or a reload that fails,
sets `REPLAY_FAIL` and faults the grove. R410, R418: a restart whose reloads are complete, in an active grove whose arrays are idle, restarts the
grove. R309: a quiet paused grove answers its pause, and an evaluation grove that drains ends. Where the named condition does not hold, the channel
stays as it is (log entry 69). R406-R408, R418: a silent router among the admitted rows of a channel in use faults the channel under ROUTER_FAIL;
otherwise every silent core's count goes on; a failing grove whose arrays are idle, with no flit of it on the mesh, has its failed slots remapped, the
failures cleared, and the knots recorded in the defect map. Where the named condition does not hold, nothing changes (log entry 69). -/
def Obligations.TilesFailQuiesceAndRemap : Prop :=
  ((∀ (t : TileRef) (g : Fin 16) (s : State),
    (let c := s.chan t.ch
     let v := c.grove g
     let i := tileIdx t
     let late := (v.replay = true ∨ v.failing ≠ []) ∧ c.arraysIdle g = false
     let fails (st : Status) := (c.flagEvent F.CTL_FAULT_STATUS_REPLAY_FAIL F.CTL_FAULT_COUNT2_REPLAY_FAIL st 0 (some g)).groveFault g st
     let reloaded := v.ws.reload = [] ∧ v.ws.slotReload = [] ∧ v.st.active = true ∧ c.arraysIdle g = true
     (c.clockRuns i = true → (c.tile i).slot.isSome → Acts (.watchdogExpiry t) s t.ch (c.tileFails i 4)) ∧
     (c.clockRuns i = false ∨ (c.tile i).slot = none → Acts (.watchdogExpiry t) s t.ch c) ∧
     (late → Acts (.quiesceTimeout t.ch g) s t.ch (fails .hwFault)) ∧
     (¬ late → Acts (.quiesceTimeout t.ch g) s t.ch c) ∧
     (∀ ok, v.replay = false ∨ v.failing ≠ [] → Acts (.replayRestart t.ch g ok) s t.ch c) ∧
     (v.replay = true → v.failing = [] →
       Acts (.replayRestart t.ch g false) s t.ch (fails .digestFail) ∧
       (reloaded → Acts (.replayRestart t.ch g true) s t.ch (c.restartGrove g)) ∧
       (¬ reloaded → Acts (.replayRestart t.ch g true) s t.ch c)) ∧
     (c.quiet g = false → Acts (.groveQuiescent t.ch g) s t.ch c) ∧
     (c.quiet g = true →
       (v.st = .paused → Acts (.groveQuiescent t.ch g) s t.ch ((c.answerPause g 0xFFFFFFFF).answerFreeze)) ∧
       (v.st = .draining → v.kind = 0 → Acts (.groveQuiescent t.ch g) s t.ch
         (c.drainEnd g (if v.begun then v.step else v.step - 1) (!v.begun && v.step = 0))) ∧
       (v.st ≠ .paused → (v.st ≠ .draining ∨ v.kind ≠ 0) → Acts (.groveQuiescent t.ch g) s t.ch c)))) ∧
   (∀ (ch : Fin 8) (g : Fin 16) (cores routers : List (Nat × Nat)) (s : State),
    (let c := s.chan ch
     let v := c.grove g
     let beat := Instr.heartbeat ch cores routers
     let inUse := c.st = .ready ∨ c.st = .running ∨ c.st = .frozen
     let silent := routers.any (fun p => decide (p.1 < 48) && decide (p.2 < c.admittedRows))
     let due := v.failing ≠ [] ∧ c.arraysIdle g = true ∧ c.drained [g.val] = true ∧ v.st ≠ .faulted ∧ v.st ≠ .empty ∧ c.down = false ∧ c.st ≠ .faulted
     (¬ inUse → exec beat s = .next s) ∧
     (inUse →
       (silent = true → exec beat s = .next (s.onChan ch (fun c =>
         (c.flagEvent F.CTL_FAULT_STATUS_ROUTER_FAIL F.CTL_FAULT_COUNT2_ROUTER_FAIL .hwFault 0 none).chanFault .hwFault)).settleServices) ∧
       (silent = false → exec beat s = .next ((s.onChan ch (fun c => (List.range (48 * c.admittedRows)).foldl (fun (c : Chan) i =>
           c.beat (cores.contains (i % 48, i / 48)) i) c)).recordMap ch 2))) ∧
     (due → exec (.groveQuiesced ch g) s = .next ((s.onChan ch (fun c =>
         (v.failing.foldl (fun (c : Chan) p => c.remapTile g p.1 p.2) (c.dropOpenSlabs g)).onGrove g (fun v => { v with failing := [] }))).recordMap ch 2)) ∧
     (¬ due → exec (.groveQuiesced ch g) s = .next s))))

/-! ## Command port and channels -/

/-- R292, R293: a datagram of wrong form is flagged, counted and answered with nothing; so is one whose session is not open or whose tag does not
verify. One of session 0 to the module port with one of its four opcodes waits there if its format holds, and another is refused; in RECOVERY (R395)
only `NOP` and `MODULE_INFO` of session 0 go on. One to a queue that is not its session's is refused AUTH_FAIL; a sequence already replied is sent its
reply again, an older one is dropped and counted; one too far ahead or without a token is refused NO_TOKEN; one that already waits is dropped (log
entry 35); else it takes a token, is counted and waits in its queue. Before the command port is up nothing happens (log entry 69). R284: a request the
port die's addresses name is answered, another packet is not. A TCP segment to the ports of a channel whose controller link is down is dropped (the
model's choice, log entry 42). Before the command port is up nothing happens (log entry 69). -/
def Obligations.DatagramsAndNetworkPackets : Prop :=
  ((∀ (d : Datagram) (s : State),
    (let cmd := Instr.commandDatagram d
     let flagged := fun (f n : Fld) => ∃ u, exec cmd s = .next u ∧ u.pd.fld f = 1 ∧
       u.pd.fld n = min (s.pd.fld n + 1) (2 ^ n.width - 1) ∧ u.out = s.out ∧ u.chans = s.chans
     let refused := fun st => ∃ u, exec cmd s = .next u ∧ Answered s u d st [] ∧ u.chans = s.chans ∧ u.pd.sessions = s.pd.sessions
     let recovery := s.pd.fld F.PD_FW_RECOVERY = 1
     let bare := d.opcode = 0x00 ∨ d.opcode = 0x06
     let open0 := d.channel = 0xFF ∧ d.queue = 0 ∧ (bare ∨ d.opcode = 0x01 ∨ d.opcode = 0x02)
     let counted := s.onPort (fun p => { p with bank := p.bank.add64 pdRegs R.PD_CMD_LO 1 })
     let q := s.namedQueue d
     let ahead := (d.seq - q.expect).toNat
     (s.pd.serving = false → exec cmd s = .next s) ∧
     (s.pd.serving = true →
       (formOk d = false → flagged F.PD_STATUS_DROP F.PD_DROP_COUNT_FORMAT) ∧
       (formOk d = true → d.session = 0 →
         (recovery → ¬ (open0 ∧ bare) → exec cmd s = .next s) ∧
         (¬ recovery → ¬ open0 → exec cmd s = .next (s.replyPort d (if s.pd.locked then .locked else .badOpcode))) ∧
         (open0 → (recovery → bare) →
           (∀ st, formatCheck false d.opcode d.params = some st → exec cmd s = .next (s.replyPort d st)) ∧
           (formatCheck false d.opcode d.params = none → exec cmd s = .next (s.onPort (fun p => { p with session0 := p.session0 ++ [d] }))))) ∧
       (formOk d = true → d.session ≠ 0 → recovery → exec cmd s = .next s) ∧
       (formOk d = true → d.session ≠ 0 → ¬ recovery →
         (s.pd.session d.session = none → flagged F.PD_STATUS_TAG_FAIL F.PD_DROP_COUNT_TAG) ∧
         (∀ x, s.pd.session d.session = some x →
           (tagOk x d = false → flagged F.PD_STATUS_TAG_FAIL F.PD_DROP_COUNT_TAG) ∧
           (tagOk x d = true →
             (s.queueOwned d = false → refused .authFail) ∧
             (s.queueOwned d = true →
               (2 ^ 31 ≤ ahead → (∀ r ∈ q.cache, r.seq ≠ d.seq) → exec cmd s = .next (s.onPort (fun p => { p with late := p.late + 1 }))) ∧
               (2 ^ 31 ≤ ahead → ∀ r, q.cache.reverse.find? (fun r => r.seq = d.seq) = some r → exec cmd s = .next { s with
                 out := s.out ++ [.packet d.origin (packet (some x.kMh) "PLK4824-CMD"
                   (header d.channel d.queue r.opcode 1 r.seq.toNat r.data.length d.session) r.data)] }) ∧
               (ahead < 2 ^ 31 → 64 ≤ ahead ∨ q.tokens = 0 → refused .noToken) ∧
               (ahead < 64 → q.tokens ≠ 0 → (∃ y ∈ q.waiting, y.seq = d.seq) → exec cmd s = .next s) ∧
               (ahead < 64 → q.tokens ≠ 0 → (∀ y ∈ q.waiting, y.seq ≠ d.seq) →
                 (d.channel < 8 → exec cmd s = .next (counted.onChan d.channel (fun c => c.setQueue d.queue ((c.queue d.queue).push d)))) ∧
                 (8 ≤ d.channel → exec cmd s = .next (State.flushM d.session 65
                   (counted.onPort (fun p => p.onSession d.session (fun x => { x with queue := x.queue.push d }))))) ∧
                 (d.channel < 8 → formatCheck true d.opcode d.params = none → (s.chan d.channel).linkLost = false →
                   (∀ r, ((s.chan d.channel).queue r).head = none) → ∃ u, exec cmd s = .next u ∧
                     ∀ r, (u.chan d.channel).queue r = if r = d.queue then q.push d else (s.chan d.channel).queue r))))))))) ∧
   (∀ (p : NetPacket) (port : Nat) (body : Bytes) (s : State),
   (s.pd.serving = false → exec (.networkProtocolPacket p) s = .next s ∧ exec (.nvmeTcpSegment port body) s = .next s) ∧
   (s.pd.serving = true →
    (∀ b, netAnswer s.pd p = some b → exec (.networkProtocolPacket p) s = .next { s with out := s.out ++ [.net b] }) ∧
    (netAnswer s.pd p = none → exec (.networkProtocolPacket p) s = .next s) ∧
    (netAnswer s.pd .fragment = none ∧ netAnswer s.pd .other = none) ∧
    (∀ c k, c < 8 → k < 1024 → port = 49152 + 1024 * c + k → (s.chan c).linkUp = false → exec (.nvmeTcpSegment port body) s = .next s))))

/-- R285: where the port die serves its network, a segment whose destination port lies in the 1,024 ports from 49,152 + 1,024 x c goes unchanged to
channel c's initiator over its controller link; every other segment is dropped and answered with nothing. -/
def Obligations.SegmentsGoToTheirChannelsInitiator : Prop :=
  ∀ (port : Nat) (body : Bytes) (s : State), s.pd.serving = true →
    (∀ c k, c < 8 → k < 1024 → port = 49152 + 1024 * c + k → (s.chan c).linkUp = true →
      exec (.nvmeTcpSegment port body) s = .next { s with out := s.out ++ [.nvme c body] }) ∧
    (port < 49152 ∨ 57344 ≤ port → exec (.nvmeTcpSegment port body) s = .next s)

/-- R289, R290: an open that a host key permits waits for its second exchange under a fresh id; that exchange, when both checks hold, opens the
session with the two keys of its derivation and the role of its key; a close, and an idle timeout, end it; an open that waits too long is forgotten.
An open is refused LOCKED in a LOCKED module, AUTH_FAIL without a host key, BAD_PARAM for its idle time, and CAPACITY with 16 sessions or 4 opens; a
second exchange LOCKED, STATE_CONFLICT for an id that does not wait, and CAPACITY with 16 sessions. R291, R293, R297: a free queue that the session
may name becomes its own, with 64 tokens and the sequence given; another's is refused STATE_CONFLICT; the owner claims its own queue again, and
releases a queue that owes no reply; another session may not (AUTH_FAIL, log entry 35). No other channel changes, but that a reader's record of who
takes its stream is brought up to date (R149). -/
def Obligations.SessionsAndQueues : Prop :=
  ((∀ (q : Issue) (fpr nonce ct sig : Bytes) (idle id : Nat) (d : Datagram) (s : State), s.pd.anySession 0 = none →
    (let opens := Instr.sessionOpen q fpr nonce idle
     Ready0 s q 0x01 [opBytes 0 16 fpr, opBytes 16 32 nonce, (48, 2, idle)] (fun _ => []) d →
      (s.pd.locked = true → ExecutesM opens s d .locked []) ∧
      (s.pd.locked = false →
        (s.pd.hostKey (slice fpr 0 16) = none → ExecutesM opens s d .authFail []) ∧
        ((s.pd.hostKey (slice fpr 0 16)).isSome →
          (idle ≠ 0 → idle < 10 ∨ 3600 < idle → ExecutesM opens s d .badParam []) ∧
          (idle = 0 ∨ (10 ≤ idle ∧ idle ≤ 3600) →
            (16 ≤ s.pd.sessions.length ∨ 4 ≤ s.pd.pending.length → ExecutesM opens s d .capacity []) ∧
            (s.pd.sessions.length < 16 → s.pd.pending.length < 4 → s.pd.ended.length < 1000 →
              ∃ u o, exec opens s = .next u ∧ u.pd.pending = s.pd.pending ++ [o] ∧ o.fpr = slice fpr 0 16 ∧
              o.idle = (if idle = 0 then 600 else idle) ∧ 1 ≤ o.id ∧ o.id ≤ 0xFFFE ∧ (∀ x ∈ s.pd.sessions, x.id ≠ o.id) ∧ (∀ x ∈ s.pd.pending, x.id ≠ o.id) ∧
              Answered s u d .ok o.reply ∧ u.pd.sessions = s.pd.sessions))))) ∧
    (let keys := Instr.sessionKey q id ct sig
     Ready0 s q 0x02 [(0, 2, id), opBytes 4 1568 ct, opBytes 1572 1280 sig] (fun _ => []) d →
      (s.pd.locked = true → ExecutesM keys s d .locked []) ∧
      (s.pd.locked = false → s.pd.pending.find? (fun x => x.id = id) = none → ExecutesM keys s d .stateConflict []) ∧
      (∀ o, s.pd.locked = false → s.pd.pending.find? (fun x => x.id = id) = some o → 16 ≤ s.pd.sessions.length → ExecutesM keys s d .capacity []) ∧
      (∀ o k, s.pd.locked = false → s.pd.pending.find? (fun x => x.id = id) = some o → s.pd.sessions.length < 16 → s.pd.session id = none → id ≠ 0 →
        s.pd.hostKey o.fpr = some k →
        (let t := digest (o.openPar ++ o.reply ++ slice d.params 0 1572)
         ∃ u, exec keys s = .next u ∧ (∀ x ∈ u.pd.pending, x.id ≠ id) ∧
         u.pd.session id = match Config.kemDecap o.dk (slice ct 0 1568) with
           | none => none
           | some ss =>
             if Config.falconVerify k.key t (slice sig 0 1280) then
               some ⟨id, o.fpr, k.roleOf, k.mask, slice (kmac256 ss t 512 "PLK4824-SESSION") 0 32, slice (kmac256 ss t 512 "PLK4824-SESSION") 32 32, o.idle, none,
                 { Queue.fresh with owner := some id }⟩
             else none))) ∧
    (ReadyM s q 0x03 [] false (fun _ => []) d → ∃ u, exec (.sessionClose q) s = .next u ∧ Answered s u d .ok [] ∧ u.pd.session d.session = none) ∧
    ((s.pd.session id).isSome → ∃ u, exec (.sessionIdleTimeout id) s = .next u ∧ (∀ k, u.pd.session k = if k = id then none else s.pd.session k) ∧
      ∀ c r, ((s.chan c).queue r).owner = some id → ((s.chan c).queue r).tokens = 64 → ((u.chan c).queue r).owner = none) ∧
    exec (.sessionOpenExpiry id) s = .next { s with pd := { s.pd with pending := s.pd.pending.filter (fun x => x.id ≠ id) } }) ∧
   (∀ (q : Issue) (ch qn : Nat) (seq : Word) (d : Datagram) (s : State),
    (let v := (s.chan ch).queue qn
     let others (u : State) := (u.chan ch).body = (s.chan ch).body ∧ ∀ k, k < 8 → k ≠ ch → u.chan k = (s.chan k).facing ch k (s.chan ch) (s.chan ch)
     (ReadyM s q 0x04 [(0, 1, ch), (1, 1, qn), (4, 4, seq.toNat)] false badQueue d →
       (s.maySee d ch = true → v.owner = none → ∃ u, exec (.queueClaim q ch qn seq) s = .next u ∧ Answered s u d .ok [] ∧
         (u.chan ch).queue qn = ⟨some d.session, false, seq, 64, [], none, v.accepted, []⟩ ∧ others u) ∧
       (s.maySee d ch = true → v.owner = some d.session → ∃ u, exec (.queueClaim q ch qn seq) s = .next u ∧ Answered s u d .ok [] ∧
         ((u.chan ch).queue qn).owner = some d.session ∧ others u) ∧
       (s.maySee d ch = true → v.owner ≠ none → v.owner ≠ some d.session → ExecutesM (.queueClaim q ch qn seq) s d .stateConflict []) ∧
       (s.maySee d ch = false → ExecutesM (.queueClaim q ch qn seq) s d .authFail [])) ∧
     (ReadyM s q 0x05 [(0, 1, ch), (1, 1, qn)] false badQueue d →
       (v.owner = some d.session → v.tokens = 64 → ∃ u, exec (.queueRelease q ch qn) s = .next u ∧ Answered s u d .ok [] ∧
         (u.chan ch).queue qn = { Queue.fresh with accepted := v.accepted } ∧ others u) ∧
       (v.owner ≠ some d.session → ExecutesM (.queueRelease q ch qn) s d .authFail []) ∧
       (v.owner = some d.session → v.tokens < 64 → ExecutesM (.queueRelease q ch qn) s d .stateConflict [])))))

/-- R28, R259, R297, R331: the module administration commands: `NOP` changes nothing, `MODULE_INFO` gives serial, ids, versions and channel states,
`EVENT_SUBSCRIBE` sets its session's subscription, `MODULE_ID_SET` installs ids, `SERVICE_MOVE` moves the services it names, `NET_SET` stages its
addresses. -/
def Obligations.ModuleAdministrationAnswers : Prop :=
  ∀ (q : Issue) (addr : Bytes) (port chmask modid fm services anchor len6 len4 : Nat) (ip6 ip4 : Bytes) (d : Datagram) (s : State),
    (ReadyM s q 0x00 [] false (fun _ => []) d → ExecutesM (.nop q) s d .ok []) ∧
    (Ready0 s q 0x00 [] (fun _ => []) d → s.pd.anySession 0 = none → ExecutesM (.nop q) s d .ok []) ∧
    (ReadyM s q 0x06 [] false (fun _ => []) d → ExecutesM (.moduleInfo q) s d .ok (leBytes 8 Config.serial.toNat ++ leBytes 2 s.pd.modid ++
      leBytes 2 s.pd.flash.fm ++ leBytes 4 s.pd.fwver ++ leBytes 4 Config.romVersion.toNat ++ (List.range 8).flatMap (fun c => leBytes 1 (s.chan c).st.code) ++
      [if s.pd.locked then 1 else 0] ++ zeros 3 ++ deviceFpr)) ∧
    (ReadyM s q 0x08 [opBytes 0 16 addr, (16, 2, port), (18, 1, chmask)] false (fun _ => []) d → ∃ u, exec (.eventSubscribe q addr port chmask) s = .next u ∧
      Answered s u d .ok [] ∧ u.chans = s.chans ∧
      (u.pd.session d.session).map (·.sub) = some (if port = 0 then none else some ⟨slice addr 0 16, port, chmask⟩)) ∧
    (ReadyM s q 0x07 [(0, 2, modid), (2, 2, fm)] s.idsHeld (fun _ => [(decide (4095 < modid), 0)]) d → ∃ u, exec (.moduleIdSet q modid fm) s = .next u ∧
      Answered s u d .ok [] ∧ u.pd.flash.modid = some modid ∧ u.pd.flash.fm = fm ∧
      ∀ k < 8, (u.chan k).st = (s.chan k).st ∧ ((s.chan k).st = .ready ∨ (s.chan k).st = .faulted →
        (u.chan k).node = modid * 8 + (s.chan k).idx ∧ (u.chan k).fm = fm)) ∧
    (ReadyM s q 0x0D [(0, 1, services), (1, 1, anchor)] (decide (anchor = 0 ∨ anchor = 7) && !(s.chan anchor).st.hosts)
        (fun _ => [(decide (8 ≤ services), 0), (decide (anchor ≠ 0 ∧ anchor ≠ 7), 1)]) d → s.pd.services.length = 3 →
      ∃ u, exec (.serviceMove q services anchor) s = .next u ∧ Answered s u d .ok [] ∧ u.chans = s.chans ∧
        ∀ k < 3, bits services k 1 = 1 → u.pd.services.getD k 0xFF = anchor) ∧
    (ReadyM s q 0x0E [opBytes 0 16 ip6, (16, 1, len6), opBytes 20 4 ip4, (24, 1, len4)] false (fun _ => [(decide (64 ≤ len4), 24)]) d →
      ∃ u, exec (.netSet q ip6 len6 ip4 len4) s = .next u ∧ Answered s u d .ok [] ∧ u.chans = s.chans ∧
        u.pd.staged R.PD_NET_IP4 = BitVec.ofNat 32 (leAt ip4 0 4) ∧ ∀ k < 4, u.pd.staged (R.PD_NET_IP6 + 4 * k) = BitVec.ofNat 32 (leAt ip6 (4 * k) 4))

/-- R307, R389, R453: `CHANNEL_START` takes an OFF or FAULTED channel into step 1 of BRINGUP unless the module is too hot, or after an input
overvoltage the input has not yet stayed within its limits; `CHANNEL_STOP` takes a channel OFF; `CHANNEL_FREEZE` sets cause HOST and freezes a READY
or RUNNING channel; `CHANNEL_THAW` clears it, and with no cause left the channel leaves FROZEN. -/
def Obligations.ChannelsStartStopFreezeAndThaw : Prop :=
  ∀ (q : Issue) (d : Datagram) (s : State),
    (let c := s.chan q.channel
     (ReadyC s q 0x09 [] noConf (fun _ => []) d →
       (s.tooHot = false → s.pd.power.ovHold = false ∨ s.pd.inputOk 800000000 = true → ∃ u, exec (.channelStart q) s = .next u ∧ Answered s u d .accepted [] ∧
         (u.chan q.channel).st = .bringup ∧ (u.chan q.channel).fld F.CTL_BRINGUP_STEP = 1) ∧
       (s.tooHot = false → s.pd.power.ovHold = true → s.pd.inputOk 800000000 = false → Executes (.channelStart q) s d c .stateConflict []) ∧
       (s.tooHot = true → Executes (.channelStart q) s d c .thermalHold [])) ∧
     (ReadyC s q 0x0A [] noConf (fun _ => []) d → ∃ u, exec (.channelStop q) s = .next u ∧ Answered s u d .ok [] ∧ (u.chan q.channel).st = .off ∧
       ∀ g < 16, ((u.chan q.channel).grove g).st = .empty) ∧
     (ReadyC s q 0x0B [] noConf (fun _ => []) d → ∃ u, exec (.channelFreeze q) s = .next u ∧ (u.chan q.channel).st = .frozen ∧
       bits (u.chan q.channel).freeze 0 1 = 1 ∧ ActsOn s u q.channel (u.chan q.channel) ∧
       ((∀ g, (c.grove g).st.active = false ∧ ((c.grove g).st = .paused → c.quiet g = true)) → Answered s u d .ok [])) ∧
     (ReadyC s q 0x0C [] noConf (fun _ => []) d → Executes (.channelThaw q) s d ((c.begun d).thawBy 0) .ok (leBytes 1 ((c.begun d).thawBy 0).freeze ++ zeros 7)) ∧
     (c.st = .frozen → c.freeze = 1 → (c.thawBy 0).freeze = 0 ∧ (c.thawBy 0).st ≠ .frozen))

/-! ## Register, memory and file-store commands -/

/-- R298, R308, R324: `REG_READ` answers with the words its view shows, in address order, and with CFG_PARITY where one fails parity; a channel
command may read module-global registers too. R337: `SNAP` holds every counter of the bank that starts at its address at its present value, and the
held words are what reads return. -/
def Obligations.RegReadAndSnapReturnTheWords : Prop :=
  ((∀ (q : Issue) (addr : Word) (n view : Nat) (d : Datagram) (s : State),
    (let fs := [(0, 4, addr.toNat), (4, 2, n), (6, 1, view)]
     let words := wordsAt addr.toNat n
     (q.channel < 8 → ReadyC s q 0x10 fs (fun c _ => c.st = .off && !isGlobal addr.toNat) (badRead (fun a => inChan q.channel a || isGlobal a)) d →
       isGlobal addr.toNat = false →
       (let r := ((s.chan q.channel).begun d).readWords view (words.map (fun a => a - chanBase q.channel))
        Executes (.regRead q addr n view) s d r.2.2 (if r.2.1 then .cfgParity else .ok) (wordBytes r.1)) ∧
       ((s.chan q.channel).bank.bad = [] → (s.chan q.channel).bank.badStaged = [] → Executes (.regRead q addr n view) s d (s.chan q.channel) .ok
         (wordBytes (words.map (fun a => (s.chan q.channel).readWord (a - chanBase q.channel) view))))) ∧
     (q.channel < 8 → ReadyC s q 0x10 fs (fun c _ => c.st = .off && !isGlobal addr.toNat) (badRead (fun a => inChan q.channel a || isGlobal a)) d →
       isGlobal addr.toNat = true → s.pd.bank.bad = [] → s.pd.bank.badStaged = [] →
       Executes (.regRead q addr n view) s d (s.chan q.channel) .ok (wordBytes (words.map (fun a => s.pdRead a view)))) ∧
     (q.channel = 0xFF → ReadyM s q 0x10 fs false (badRead isGlobal) d →
       (let r := (s.begunM d).readGlobal view words
        ∃ u, exec (.regRead q addr n view) s = .next u ∧ Answered s u d (if r.2.1 then .cfgParity else .ok) (wordBytes r.1)) ∧
       (s.pd.bank.bad = [] → s.pd.bank.badStaged = [] →
         ExecutesM (.regRead q addr n view) s d .ok (wordBytes (words.map (fun a => s.pdRead a view))))))) ∧
   (∀ (q : Issue) (addr : Word) (los : List Nat) (d : Datagram) (s : State),
    (q.channel < 8 → ReadyC s q 0x16 [(0, 4, addr.toNat)] noConf
        (fun _ => [(!inChan q.channel addr.toNat || (chanBank (addr.toNat - chanBase q.channel)).isNone, 0)]) d →
      chanBank (addr.toNat - chanBase q.channel) = some los →
      (let c := s.chan q.channel
       Executes (.snap q addr) s d { c with bank := c.bank.snap chanRegs los } .ok []) ∧
      ∃ u, exec (.snap q addr) s = .next u ∧ ∀ o ∈ los, (mapFind (u.chan q.channel).bank.held o).isSome ∧ (mapFind (u.chan q.channel).bank.held (o + 4)).isSome) ∧
    (q.channel = 0xFF → ReadyM s q 0x16 [(0, 4, addr.toNat)] false (fun _ => [((pdBank addr.toNat).isNone, 0)]) d → pdBank addr.toNat = some los →
      ∃ u, exec (.snap q addr) s = .next u ∧ Answered s u d .ok [] ∧ u.chans = s.chans ∧ u.pd.bank = s.pd.bank.snap pdRegs los)))

/-- R316, R320, R328, R335: `REG_WRITE` writes its words in address order and `REG_RMW` changes the masked bits and returns the word before; a staged
register that a pending boundary strobe covers refuses both with STATE_CONFLICT and changes nothing; module-global registers an OWNER alone may write
refuse another role with AUTH_FAIL. -/
def Obligations.RegWriteAndRegRmwWriteTheWords : Prop :=
  ∀ (q : Issue) (addr mask value : Word) (n : Nat) (vs : List Word) (d : Datagram) (s : State),
    (let c := (s.chan q.channel).begun d
     let ws := (wordsAt addr.toNat n).zip vs
     let os := ws.map (fun w => (w.1 - chanBase q.channel, w.2))
     let o := addr.toNat - chanBase q.channel
     let wf := [(0, 4, addr.toNat), (4, 2, n), (8, 4 * n, leNat (slice (wordBytes vs) 0 (4 * n)))]
     let mf := [(0, 4, addr.toNat), (4, 4, mask.toNat), (8, 4, value.toNat)]
     (q.channel < 8 → ReadyC s q 0x11 wf noConf (badWrite (inChan q.channel)) d →
       (os.any (fun w => c.meetsPending w.1) = false → ∃ u, exec (.regWrite q addr n vs) s = .next u ∧ ActsOn s u q.channel (c.writeWords os).2) ∧
       (os.any (fun w => c.meetsPending w.1) = true → Executes (.regWrite q addr n vs) s d c .stateConflict [])) ∧
     (q.channel < 8 → ReadyC s q 0x12 mf noConf (fun d => [badAddr (inChan q.channel) (pAt d 0 4) 1]) d →
       (c.meetsPending o = false → ∃ u, exec (.regRmw q addr mask value) s = .next u ∧
         ActsOn s u q.channel ((c.readCheck o 0).2.rmwWord o mask value).2.1) ∧
       (c.meetsPending o = true → Executes (.regRmw q addr mask value) s d c .stateConflict [])) ∧
     (q.channel = 0xFF → ReadyM s q 0x11 wf false (badWrite isGlobal) d →
       (s.mayWrite d (ws.map (·.1)) = false → ExecutesM (.regWrite q addr n vs) s d .authFail []) ∧
       (s.mayWrite d (ws.map (·.1)) = true → ∃ u, exec (.regWrite q addr n vs) s = .next u ∧ Answered s u d .ok [] ∧ u.cell = s.cell ∧
         ∀ r v, n = 1 → vs = [v] → findReg pdRegs addr.toNat = some r → r.isStaged = true →
           ∀ k < 32, (r.bitsOf .rws).getLsbD k = true → (u.pd.bank.getStaged pdRegs addr.toNat).getLsbD k = v.getLsbD k)) ∧
     (q.channel = 0xFF → ReadyM s q 0x12 mf false (fun d => [badAddr isGlobal (pAt d 0 4) 1]) d →
       (s.mayWrite d [addr.toNat] = false → ExecutesM (.regRmw q addr mask value) s d .authFail []) ∧
       (∀ r, s.mayWrite d [addr.toNat] = true → s.pd.bank.bad = [] → findReg pdRegs addr.toNat = some r → ∃ u, exec (.regRmw q addr mask value) s = .next u ∧
         Answered s u d .ok (leBytes 4 ((s.pdRead addr.toNat 0 &&& ~~~ r.bitsOf .rws) ||| (s.pd.staged addr.toNat &&& r.bitsOf .rws)).toNat))))

/-- R327, R330, R332-R335: a strobe of a channel ends with its checks' status, or waits for the flit drain; one at the boundary applies, waits, or is
refused; a discard drops staged copies; each is answered as it ends, and a strobe waits behind one that waits for the drain (log entry 21). For the
module's groups the same, and a strobe that ends OK leaves nothing changed in them. -/
def Obligations.StrobesAndDiscardsEndWithTheirStatus : Prop :=
  ∀ (q : Issue) (groups : BitVec 16) (d : Datagram) (s : State),
    (let c := (s.chan q.channel).begun d
     let fs := [(0, 2, groups.toNat)]
     let bad := fun (_ : Datagram) => [(decide (16 ≤ groups.toNat), 0)]
     (q.channel < 8 → (s.chan q.channel).applyWait.isSome → exec (.strobe q groups) s = .next s ∧ exec (.strobeAtBoundary q groups) s = .next s) ∧
     (q.channel < 8 → (s.chan q.channel).applyWait = none → ReadyC s q 0x13 fs noConf (fun _ => []) d →
       (∀ st k o e, c.strobe groups.toNat (some d.queue) = (.done st k o, e) → Executes (.strobe q groups) s d e st []) ∧
       (∀ e, c.strobe groups.toNat (some d.queue) = (.waits, e) → ∃ u, exec (.strobe q groups) s = .next u ∧ ActsOn s u q.channel e)) ∧
     (q.channel < 8 → (s.chan q.channel).applyWait = none → ReadyC s q 0x14 fs noConf (fun _ => []) d →
       (∀ k o n e, c.strobeBoundary groups.toNat d.seq d.queue = (.done .ok k o, n, e) → ∃ u, exec (.strobeAtBoundary q groups) s = .next u ∧
         Answered s u d .accepted [] ∧ ActsOn s u q.channel (e.complete d .ok none (leBytes 4 n))) ∧
       (∀ st k o n e, st ≠ .ok → c.strobeBoundary groups.toNat d.seq d.queue = (.done st k o, n, e) → Executes (.strobeAtBoundary q groups) s d e st []) ∧
       (∀ n e, c.strobeBoundary groups.toNat d.seq d.queue = (.pending, n, e) → Executes (.strobeAtBoundary q groups) s d e .accepted []) ∧
       (∀ n e, c.strobeBoundary groups.toNat d.seq d.queue = (.waits, n, e) → ∃ u, exec (.strobeAtBoundary q groups) s = .next u ∧ ActsOn s u q.channel e)) ∧
     (q.channel < 8 → ReadyC s q 0x15 fs noConf (fun _ => []) d →
       Executes (.stageDiscard q groups) s d (c.discard groups.toNat).2 (c.discard groups.toNat).1 []) ∧
     (q.channel = 0xFF → ReadyM s q 0x13 fs false bad d →
       (let r := (s.begunM d).strobeMg groups.toNat
        ∃ u, exec (.strobe q groups) s = .next u ∧ Answered s u d r.1.1 [] ∧ u.pd.bank = r.2.pd.bank ∧
          (r.1.1 = .ok → ∀ n ∈ mgOf groups.toNat, u.pd.changed n = []))) ∧
     (q.channel = 0xFF → ReadyM s q 0x15 fs false bad d → ExecutesM (.stageDiscard q groups) s d .ok [] ∧
       ∃ u, exec (.stageDiscard q groups) s = .next u ∧ ∀ n ∈ mgOf groups.toNat, u.pd.changed n = []))

/-- R227, R271, R272, R299: a host reads and writes populated HBM lines and unmapped tiles' memory; region 0 takes an OWNER's writes alone, a tenant's
commands stay inside its groves' grants, and lines that only their own writer may write, or tables in use, are no host's to write. A line that reads
uncorrectable gives HW_FAULT and no data. -/
def Obligations.MemoryCommandsReadAndWriteLines : Prop :=
  ∀ (q : Issue) (x y line addr n : Nat) (data : Bytes) (errs : NMap LineErr) (d : Datagram) (s : State),
    (let c := (s.chan q.channel).begun d
     let role := (s.rights q.session q.channel).1
     let tf := [(0, 1, x), (1, 1, y), (4, 4, addr), (8, 2, n)]
     (ReadyC s q 0x30 [(0, 4, line), (4, 2, n)] noConf (fun d => [(!populated line n, 0), badLines 4 d]) d →
       (role = some .tenant ∧ c.tenantMay line n false = false → Executes (.memRead q line n errs) s d c .authFail []) ∧
       (role ≠ some .tenant ∨ c.tenantMay line n false = true →
         (∀ b e, c.readLines line errs n = (some b, e) → Executes (.memRead q line n errs) s d e .ok b) ∧
         (∀ e, c.readLines line errs n = (none, e) → Executes (.memRead q line n errs) s d e .hwFault []) ∧
         (errs = [] → c.poison = [] → Executes (.memRead q line n errs) s d c .ok ((List.range n).flatMap (fun k => c.hbmLine (line + k)))))) ∧
     (ReadyC s q 0x31 [(0, 4, line), (4, 2, n), (8, 64 * n, leNat (slice data 0 (64 * n)))] (fun c _ => c.tableInUse line n)
         (fun d => [(!populated line n || (s.chan q.channel).closed line n, 0), badLines 4 d]) d →
       ((role = some .tenant ∧ c.tenantMay line n true = false) ∨ (role ≠ some .owner ∧ c.touches 0 line n = true) →
         Executes (.memWrite q line n data) s d c .authFail []) ∧
       (role ≠ some .tenant ∨ c.tenantMay line n true = true → role = some .owner ∨ c.touches 0 line n = false →
         Executes (.memWrite q line n data) s d (c.hbmWrite line (slice data 0 (64 * n))) .ok [])) ∧
     (ReadyC s q 0x32 tf noConf badTile d →
       (∀ b e, c.sramLines (y * 48 + x) (addr / 64) errs n = (some b, e) → Executes (.tileRead q x y addr n errs) s d e .ok b) ∧
       (∀ e, c.sramLines (y * 48 + x) (addr / 64) errs n = (none, e) → Executes (.tileRead q x y addr n errs) s d e .hwFault []) ∧
       (errs = [] → (c.tile (y * 48 + x)).poison = [] →
         Executes (.tileRead q x y addr n errs) s d c .ok (cellRead (c.tile (y * 48 + x)).sram addr (64 * n)))) ∧
     (ReadyC s q 0x33 (tf ++ [(12, 64 * n, leNat (slice data 0 (64 * n)))]) (fun c _ => match (c.tile (y * 48 + x)).slot with
         | some r => decide (x < 48) && decide (y < 90) && (c.grove r.grove).st.active
         | none => false) badTile d →
       Executes (.tileWrite q x y addr n data) s d (c.sramWrite (y * 48 + x) addr (slice data 0 (64 * n))) .ok []))

/-- R227, R271, R299: a target is set; fetches, stores and program loads are ACCEPTED, and end as their completion says: blocks in HBM, blocks handed
to the target, a program with an id of its own, or a failure that changes nothing but the log. A fetch into a table that has come into use ends
STATE_CONFLICT, a store that meets an uncorrectable line HW_FAULT; a program ends STATE_CONFLICT where its grove is gone and CAPACITY as the
seventeenth. A completion that no accepted command waits for, or of a program id in use, leaves the channel (log entry 69). -/
def Obligations.FileStoreAndProgramsRun : Prop :=
  ∀ (q : Issue) (idx port nsid lba blocks line grove core len pid : Nat) (addr nqn : Bytes) (data : Option Bytes) (ok : Bool) (errs : NMap LineErr)
    (d : Datagram) (s : State),
    (let c := (s.chan q.channel).begun d
     let c0 := s.chan q.channel
     let fetched := Instr.dmaFetchComplete q data
     let stored := Instr.dmaStoreComplete q ⟨ok, errs⟩
     let loaded := Instr.progLoadComplete q pid
     let g := pAt d 0 1
     (ReadyC s q 0x34 [(0, 1, idx), (2, 2, port), opBytes 4 16 addr, (20, 1, nqn.length), opBytes 24 nqn.length nqn] noConf
         (fun d => [(decide (4 ≤ pAt d 0 1), 0), (decide (pAt d 20 1 = 0 ∨ 223 < pAt d 20 1), 20)]) d →
       Executes (.nvmeTargetSet q idx port addr nqn) s d { c with targets := mapPut c.targets idx ⟨port, slice addr 0 16, nqn⟩ } .ok []) ∧
     (ReadyC s q 0x35 (dmaFields idx nsid lba blocks line) (fun c _ => c.tableInUse line (64 * blocks))
         (fun d => (c0.touches 0 line (64 * blocks) || c0.closed line (64 * blocks), 20) :: badDma d) d →
       Executes (.dmaFetch q idx nsid lba blocks line) s d c .accepted []) ∧
     (ReadyC s q 0x36 (dmaFields idx nsid lba blocks line) noConf badDma d → Executes (.dmaStore q idx nsid lba blocks line) s d c .accepted []) ∧
     (ReadyC s q 0x37 [(0, 1, grove), (1, 1, core), (4, 4, line), (8, 4, len)] (groveNot [.loaded, .running, .paused, .draining, .faulted])
         (fun d => [badGrove d, (decide (core = 0 ∨ 3 < core), 1), (!populated line ((len + 63) / 64), 4)]) d →
       Executes (.progLoad q grove core line len) s d c (if 16 ≤ c.progs.length then .capacity else .accepted) []) ∧
     (ReadyC s q 0x38 [(0, 1, grove)] (fun c _ => (c.grove grove).loading) (fun d => [badGrove d]) d →
       Executes (.progStop q grove) s d { c with progs := c.progs.filter (fun p => p.1 ≠ grove) } .ok []) ∧
     (8 ≤ q.channel → exec fetched s = .next s ∧ exec stored s = .next s ∧ exec loaded s = .next s) ∧
     (q.channel < 8 → (c0.acceptedCmd q 0x35 = none → Acts fetched s q.channel c0) ∧ (c0.acceptedCmd q 0x36 = none → Acts stored s q.channel c0) ∧
       (c0.acceptedCmd q 0x37 = none → Acts loaded s q.channel c0)) ∧
     (q.channel < 8 → c0.acceptedCmd q 0x35 = some d →
       (∀ b, data = some b →
         (c0.tableInUse (pAt d 20 4) (64 * pAt d 16 4) = true → Acts fetched s q.channel (c0.complete d .stateConflict none [])) ∧
         (c0.tableInUse (pAt d 20 4) (64 * pAt d 16 4) = false → Acts fetched s q.channel
           ((c0.hbmWrite (pAt d 20 4) (slice b 0 (pAt d 16 4 * 4096))).complete d .ok none (leBytes 8 (pAt d 16 4 * 4096))))) ∧
       (data = none → Acts fetched s q.channel (c0.complete d .hwFault none []))) ∧
     (q.channel < 8 → c0.acceptedCmd q 0x36 = some d →
       (ok = false → Acts stored s q.channel (c0.complete d .hwFault none [])) ∧
       (∀ e, ok = true → c0.readLines (pAt d 20 4) errs (64 * pAt d 16 4) = (none, e) → Acts stored s q.channel (e.complete d .hwFault none [])) ∧
       (∀ b e, ok = true → c0.readLines (pAt d 20 4) errs (64 * pAt d 16 4) = (some b, e) →
         Acts stored s q.channel (e.complete d .ok none (leBytes 8 (pAt d 16 4 * 4096))) ∧
         (c0.linkLost = false → ∃ u, exec stored s = .next u ∧ .blocks q.channel (pAt d 0 1) (pAt d 4 4) (pAt d 8 8) b ∈ u.out))) ∧
     (q.channel < 8 → c0.acceptedCmd q 0x37 = some d →
       (c0.progs.any (fun p => p.2.2 = pid % 2 ^ 16) = true → Acts loaded s q.channel c0) ∧
       (c0.progs.any (fun p => p.2.2 = pid % 2 ^ 16) = false →
         ((c0.grove g).st = .empty → Acts loaded s q.channel (c0.complete d .stateConflict (some g) [])) ∧
         ((c0.grove g).st ≠ .empty →
           (16 ≤ c0.progs.length → Acts loaded s q.channel (c0.complete d .capacity (some g) [])) ∧
           (c0.progs.length < 16 → Acts loaded s q.channel
             (({ c0 with progs := c0.progs ++ [(g, pAt d 1 1, pid % 2 ^ 16)] } : Chan).complete d .ok (some g) (leBytes 2 pid ++ zeros 2)))))))

/-! ## Grove, weight-set and ring commands -/

/-- R300, R301, R309: a load takes the lowest free grove and ends with its checks' status; an unload empties its grove; start, pause, resume and drain
move the grove between its states as its tables say; a field stopped for heat refuses a start and a resume. R300: `GROVE_STATUS` answers with the
grove's kind, class, causes, fault, job, step, microbatch, tiles and exceptions; its slot is the ACTIVE one, and a free value where none is (log entry
3). R301: a load that ends completes its command, and the grove is LOADED or free again; a load whose grove is gone completes HW_FAULT. A completion
that no accepted command waits for changes nothing but that readers are brought up to date (log entry 69). -/
def Obligations.GroveCommandsAndLoads : Prop :=
  ((∀ (q : Issue) (line len grove : Nat) (dig : Bytes) (stop at_ : Word) (d : Datagram) (s : State),
    (let c := (s.chan q.channel).begun d
     let v := c.grove grove
     let one := [(0, 1, grove)]
     let badG := fun d => [badGrove d]
     (ReadyC s q 0x50 [(0, 4, line), (4, 4, len), opBytes 8 32 dig] noConf (fun _ => [(!populated line ((len + 63) / 64), 0)]) d →
       (groveNums.find? (fun g => !c.held g) = none → Executes (.groveLoad q line len dig) s d c .capacity []) ∧
       (∀ g, groveNums.find? (fun g => !c.held g) = some g → Executes (.groveLoad q line len dig) s d
         (c.setGrove g { Grove.empty with loading := true, loader := (d.queue, d.seq) }) .accepted [])) ∧
     (ReadyC s q 0x51 one (groveNot [.loaded, .paused, .faulted]) badG d → ∃ u, exec (.groveUnload q grove) s = .next u ∧
       ActsOn s u q.channel (c.unloadGrove grove) ∧ (u.chan q.channel).grove grove = Grove.empty ∧ ∀ p ∈ (u.chan q.channel).progs, p.1 ≠ grove) ∧
     (ReadyC s q 0x52 [(0, 1, grove), (4, 4, stop.toNat)] (fun c d => groveNot [.loaded] c d || (c.grove grove).ring.phase = 5) badG d →
       (c.heatStops grove = true → Executes (.groveStart q grove stop) s d c .thermalHold []) ∧
       (c.heatStops grove = false → ∃ u, exec (.groveStart q grove stop) s = .next u ∧ ActsOn s u q.channel
         ((((c.onGrove grove (fun v => { v with st := .running, stop := stop.toNat, pauseAt := none, draining := false })).settle.stream grove).reply d .ok
           (some grove) [] []).stepReached grove))) ∧
     (ReadyC s q 0x53 [(0, 1, grove), (4, 4, at_.toNat)] (fun c d => groveNot [.running, .paused, .draining] c d ||
         (let v := c.grove grove
          at_.toNat ≠ pauseNow && (decide (at_.toNat < v.step) || (at_.toNat = v.step && v.begun)))) badG d →
       (at_.toNat ≠ pauseNow → ∃ u, exec (.grovePause q grove at_) s = .next u ∧ ActsOn s u q.channel (c.pauseBefore grove at_.toNat)) ∧
       (at_.toNat = pauseNow → v.replay = true → ∃ u, exec (.grovePause q grove at_) s = .next u ∧ ActsOn s u q.channel
         (c.onGrove grove (fun v => { v with pauseAt := some pauseNow }))) ∧
       (at_.toNat = pauseNow → v.replay = false → ∃ u, exec (.grovePause q grove at_) s = .next u ∧ ActsOn s u q.channel (c.pauseGrove grove 0) ∧
         ((u.chan q.channel).grove grove).st = .paused)) ∧
     (ReadyC s q 0x54 one (fun c d => groveNot [.paused] c d || bits (c.grove grove).causes 1 1 = 1) badG d →
       (c.heatStops grove = true → Executes (.groveResume q grove) s d c .thermalHold []) ∧
       (c.heatStops grove = false → ∃ u, exec (.groveResume q grove) s = .next u ∧ ActsOn s u q.channel ((c.unpause grove 0).stream grove))) ∧
     (ReadyC s q 0x55 one (groveNot [.running, .paused, .draining]) badG d →
       (v.st = .draining → Executes (.groveDrain q grove) s d c .ok []) ∧
       (v.st = .paused → Executes (.groveDrain q grove) s d (c.onGrove grove (fun v => { v with draining := true })) .accepted []) ∧
       (v.st = .running → ∃ u, exec (.groveDrain q grove) s = .next u ∧
         ActsOn s u q.channel (((c.onGrove grove (fun v => { v with st := .draining, ws := { v.ws with attached := false } })).reply d .accepted (some grove) [] []).stepReached grove))))) ∧
   (∀ (q : Issue) (grove : Nat) (d : Datagram) (s : State),
    (let c := (s.chan q.channel).begun d
     let c0 := s.chan q.channel
     let v := c.grove grove
     let mine := fun g => (c0.grove g).loading && (c0.grove g).loader = (d.queue, d.seq)
     let cmd := Instr.groveLoadComplete q
     let becomes (e : Chan) := ∃ u, exec cmd s = .next u ∧ (u.chan q.channel).body = e.body ∧ u.cell = s.cell ∧
       ∀ k, k < 8 → k ≠ q.channel → u.chan k = (s.chan k).facing q.channel k c0 (u.chan q.channel)
     let report (k : Nat) := leBytes 1 v.kind ++ leBytes 1 v.cls ++ leBytes 1 v.causes ++ leBytes 1 v.fault ++ leBytes 2 v.job ++
         leBytes 1 k ++ [0] ++ leBytes 4 v.step ++ leBytes 2 v.mb ++ leBytes 2 (c.tilesOf grove).length ++
         leBytes 1 (exceptionsAt c.reg grove).length ++ zeros 3
     (ReadyC s q 0x56 [(0, 1, grove)] (fun c _ => (c.grove grove).loading) (fun d => [badGrove d]) d →
       (∀ k, v.ws.active = some k → Executes (.groveStatus q grove) s d c .ok (report k)) ∧
       (v.ws.active = none → Executes (.groveStatus q grove) s d c.draw.2 .ok (report c.draw.1))) ∧
     (8 ≤ q.channel → exec cmd s = .next s) ∧
     (q.channel < 8 → c0.acceptedCmd q 0x50 = none → becomes c0) ∧
     (q.channel < 8 → c0.acceptedCmd q 0x50 = some d →
       (groveNums.find? mine = none → becomes (c0.complete d .hwFault none [])) ∧
       (∀ g, groveNums.find? mine = some g →
         (c0.st = .faulted → becomes ((c0.setGrove g Grove.empty).complete d .hwFault (some g) [])) ∧
         (∀ st data e, c0.st ≠ .faulted → c0.loadGrove (s.others q.channel) g (pAt d 0 4) (pAt d 4 4) (slice d.params 8 32) = ((st, data), e) →
           (st = .ok → becomes (e.complete d .ok (some g) data)) ∧
           (st ≠ .ok → becomes ((e.setGrove g Grove.empty).complete d st none data) ∧ ((e.setGrove g Grove.empty).grove g) = Grove.empty)))))))

/-- R144, R147, R302: a stage is ACCEPTED and its slot is STAGING; it ends STAGED with the manifest's digest as the set's id, or EMPTY with the check
that failed; a discard empties a STAGED slot; `WSET_STATUS` gives both slots and the point of a pending switch, a free value where none pends (log
entry 55). A completion that no accepted command waits for leaves the channel (log entry 69). R145-R148: the members of a joined grove are told of a
switch; a switch of a grove at rest is immediate, of another pending until its step or batch, and is refused STATE_CONFLICT where the slot, another
member or a base subscriber does not agree. R148, R210, R211: a detach clears `BASE_SUB`; the coordinator's log lists its decisions; suspect marks are
cleared. -/
def Obligations.WeightSetCommands : Prop :=
  ((∀ (q : Issue) (grove slot store1 store2 : Nat) (src1 src2 : Source) (m : Bytes) (h1 h2 : NMap Bytes) (d : Datagram) (s : State),
    (let c := (s.chan q.channel).begun d
     let c0 := s.chan q.channel
     let v := c.grove grove
     let g := pAt d 0 1
     let k := pAt d 1 1
     (ReadyC s q 0x70 ([(0, 1, grove), (1, 1, slot), (4, 2, store1), (6, 2, store2)] ++ srcFields 12 src1 ++ srcFields 36 src2)
         (fun c d => groveNot [.loaded, .running, .paused, .draining] c d || (c.grove grove).stageBlocked slot)
         (fun d => [badGrove d, badSlot d] ++ badSource 12 d ++ badSource 36 d) d →
       Executes (.wsetStage q grove slot store1 store2 src1 src2) s d (c.onGrove grove (fun v => v.setWslot slot
         { WSlot.empty with st := .staging, store1 := store1, store2 := store2, src1 := some src1, src2 := some src2 })) .accepted []) ∧
     (8 ≤ q.channel → exec (.wsetStageComplete q m h1 h2) s = .next s) ∧
     (q.channel < 8 → c0.acceptedCmd q 0x70 = none → Acts (.wsetStageComplete q m h1 h2) s q.channel c0) ∧
     (q.channel < 8 → c0.acceptedCmd q 0x70 = some d →
       (((c0.grove g).wslot k).st ≠ .staging → Acts (.wsetStageComplete q m h1 h2) s q.channel (c0.complete d .stateConflict (some g) [])) ∧
       (((c0.grove g).wslot k).st = .staging →
         (signatureOk (s.pd.publisher m) m = false → Acts (.wsetStageComplete q m h1 h2) s q.channel
           ((c0.setGrove g ((c0.grove g).setWslot k WSlot.empty)).complete d .signatureFail (some g) [])) ∧
         (let r := c0.stage g k (s.pd.publisher m) m h1 h2
          if r.1 = .ok then Acts (.wsetStageComplete q m h1 h2) s q.channel (r.2.complete d .ok (some g) (digest m)) ∧
            ∃ u, exec (.wsetStageComplete q m h1 h2) s = .next u ∧ (((u.chan q.channel).grove g).wslot k).st = .staged ∧
              (((u.chan q.channel).grove g).wslot k).setId = digest m
          else Acts (.wsetStageComplete q m h1 h2) s q.channel (r.2.complete d r.1 (some g) [])))) ∧
     (ReadyC s q 0x73 [(0, 1, grove), (1, 1, slot)] (fun c d => groveNot [.loaded, .running, .paused, .draining] c d ||
         ((c.grove grove).wslot slot).st ≠ .staged || (c.grove grove).stageBlocked slot) (fun d => [badGrove d, badSlot d]) d →
       Executes (.wsetDiscard q grove slot) s d (c.onGrove grove (fun v => v.setWslot slot WSlot.empty)) .ok []) ∧
     (ReadyC s q 0x72 [(0, 1, grove)] (groveNot [.loaded, .running, .paused, .draining, .faulted]) (fun d => [badGrove d]) d →
       (let report (pends : Byte) (at_ : Nat) := leBytes 1 v.ws.slot0.st.code ++ leBytes 1 v.ws.slot1.st.code ++ [pends, 0] ++ leBytes 4 at_ ++
          slice v.ws.slot0.setId 0 32 ++ slice v.ws.slot1.setId 0 32
        (∀ w, v.ws.switch = some w → Executes (.wsetStatus q grove) s d c .ok (report 1 w.at_)) ∧
        (v.ws.switch = none → Executes (.wsetStatus q grove) s d c.draw.2 .ok (report 0 c.draw.1)))))) ∧
   (∀ (q : Issue) (grove slot units : Nat) (others : Bool) (d : Datagram) (s : State),
    (let c := (s.chan q.channel).begun d
     let v := c.grove grove
     let agree := others && s.membersAgree q.channel grove slot && !s.hasSubscriber ((s.chan q.channel).grove grove).job
     (ReadyC s q 0x71 [(0, 1, grove), (1, 1, slot)] (fun c d => groveNot [.loaded, .running, .paused] c d || !(c.grove grove).canSwitch slot || !agree ||
         (decide (1 < (c.grove grove).members) && (c.grove grove).coord ≠ c.node)) (fun d => [badGrove d, badSlot d]) d →
       (let told := if 1 < v.members then ((c.memberNodes grove).filter (· ≠ c.node)).foldl (fun c n =>
            c.sendCtl n v.job (.switchAt v.job slot (if v.atRest then v.step else v.switchPoint))) c else c
        (v.atRest = true → ∃ u, exec (.wsetSwitch q grove slot others) s = .next u ∧ ActsOn s u q.channel ((told.switchNow grove slot).draw).2) ∧
        (v.atRest = false → (∃ u, exec (.wsetSwitch q grove slot others) s = .next u ∧ ActsOn s u q.channel
            (told.onGrove grove (fun v => { v with ws := { v.ws with switch := some (v.switchAt slot v.switchPoint) } }))) ∧
          (v.members ≤ 1 → Executes (.wsetSwitch q grove slot others) s d
            (c.onGrove grove (fun v => { v with ws := { v.ws with switch := some (v.switchAt slot v.switchPoint) } })) .ok
            ([if v.kind = 1 then 2 else 1, 0, 0, 0] ++ leBytes 4 v.switchPoint))))) ∧
     (ReadyC s q 0x74 [(0, 1, grove)] (groveNot [.loaded, .paused, .faulted]) (fun d => [badGrove d]) d →
       Executes (.baseDetach q grove) s d (c.setFld (F.SP_WS_GRV_CFG_BASE_SUB.sh (wsOff grove)) 0) .ok []) ∧
     (ReadyC s q 0x80 [(0, 1, grove)] (fun c d => groveNot [.loaded, .running, .paused, .draining, .faulted] c d || (c.grove grove).kind ≠ 1 ||
         (c.grove grove).coord ≠ c.node) (fun d => [badGrove d]) d →
       Executes (.verdictLog q grove) s d c .ok (leBytes 1 v.verdict.log.length ++ zeros 3 ++
         v.verdict.log.flatMap (fun r => leBytes 4 r.step ++ leBytes 1 r.attempt ++ leBytes 1 r.verdict ++ leBytes 2 r.reason))) ∧
     (ReadyC s q 0x81 [(0, 1, units)] noConf (fun d => [(decide (64 ≤ pAt d 0 1), 0)]) d → ∃ u, exec (.suspectClear q units) s = .next u ∧
       Answered s u d .ok [] ∧ ∀ k < 6, bits units k 1 = 1 → (u.chan q.channel).fld (F.RED_UNIT_STATUS_SUSPECT.sh (unitOff k)) = 0))))

/-- R341, R342, R345-R347, R356: `RING_WRITE` begins a ring with the next attempt id and tells the members, or ends with what is wrong with its
directory; a member begins the ring its coordinator names. At the capture point, once the other generation is clean, the hold begins on the folded
generations, or the ring fails on a line that cannot be read; the hold ends with the copy, which lies in the staging area where it fits (log entry
60), and its length is counted. A begin of no loaded job, or of a grove that is FAULTED or has a ring, is taken and changes nothing else; a capture
not due leaves the channel (log entry 69). R351, R352, R356, R357, R359: a member writes its shards and its state block and hands its list to the
coordinator; the coordinator gathers the lists, commits manifest, state block and table entry in that order, and tells the members; a lost list, a
full area or table, a block that cannot be read or written, a member's failure or a timeout fails the ring. A notice that meets no such ring is taken
and changes nothing else; a command out of its phase leaves the channel (log entry 69). -/
def Obligations.RingsAreWritten : Prop :=
  ((∀ (q : Issue) (kind idx nsid lba ring attempt parent pa dir : Nat) (job : Nat) (ch : Fin 8) (g : Fin 16) (grove : Nat) (fs : NMap Bytes)
    (d : Datagram) (s : State),
    (let c := (s.chan q.channel).begun d
     let v := c.grove grove
     let cmd := Instr.ringWrite q grove kind idx nsid lba fs
     let begins (e : Chan) := ∃ u, exec cmd s = .next u ∧ Answered s u d .accepted [] ∧ ActsOn s u q.channel e
     ReadyC s q 0x90 [(0, 1, grove), (1, 1, kind), (2, 1, idx), (4, 4, nsid), (8, 8, lba)]
         (fun c d =>
           let v := c.grove grove
           groveNot [.loaded, .running, .paused, .draining] c d || (decide (1 < v.members) && v.coord ≠ c.node) || v.ring.phase ≠ 0 ||
             v.ring.point.isNone || (kind = 1 && !v.ring.deltaOk))
         (fun d => [badGrove d, (decide (1 < pAt d 1 1) || (kind = 1 && (s.chan q.channel).untracked grove), 1), (decide (4 ≤ pAt d 2 1), 2)]) d →
       (∀ st, dirBad fs v = some st → begins ((c.accept d).complete d st (some grove) [])) ∧
       (dirBad fs v = none → memberArea fs v.count (c.memberIdx grove) = none → begins ((c.accept d).complete d .hwFault (some grove) [])) ∧
       (∀ m, dirBad fs v = none → memberArea fs v.count (c.memberIdx grove) = some m →
         (let n := v.ringFor
          let c1 := (c.accept d).onGrove grove (fun v => { v with ring := { v.ring.idle with
            phase := 1, ring := n, kind := kind, attempt := m.last + 1, idx := idx, nsid := nsid, dir := lba, leads := true, from_ := c.pclk
            parent := if kind = 1 then c.fld (F.CKP_GRV_RING_RING.sh (grove * 0x40)) else 0xFFFFFFFF
            parentAttempt := if kind = 1 then c.fld (F.CKP_GRV_ATTEMPT_ATTEMPT.sh (grove * 0x40)) else 0
            due := if v.members ≤ 1 then v.atRest else v.pastPoint n } })
          let r := (c1.grove grove).ring
          (v.members ≤ 1 → begins c1) ∧
          (1 < v.members → begins (((c.memberNodes grove).filter (· ≠ c.node)).foldl (fun c m =>
            c.sendCtl m v.job (.ringBegin v.job n kind r.attempt r.parent r.parentAttempt idx nsid lba)) c1))))) ∧
    (let c := s.chan ch
     let v := c.grove g
     let r := v.ring
     let cmd := Instr.ringBegin ch job ring kind attempt parent pa idx nsid dir
     let took := c.takeCtl (.ringBegin job ring kind attempt parent pa idx nsid dir)
     let folded := c.flipFold g
     let ends := Instr.ringCaptureEnd ch g
     (took.groveOfJob job = none → Acts cmd s ch took) ∧
     (∀ h, took.groveOfJob job = some h →
       ((took.grove h).st = .faulted ∨ (took.grove h).ring.phase ≠ 0 → Acts cmd s ch (took.onGrove h id)) ∧
       ((took.grove h).st ≠ .faulted → (took.grove h).ring.phase = 0 → Acts cmd s ch (took.onGrove h (fun v => { v with ring := { v.ring.idle with
         phase := 1, ring := ring, kind := kind, attempt := attempt, parent := parent, parentAttempt := pa, idx := idx, nsid := nsid, dir := dir
         due := v.pastPoint ring, from_ := c.pclk } })))) ∧
     (r.phase = 1 → r.due = true → c.fld F.HBM_STATUS_OTHER_CLEAN ≠ 0 →
       (folded.capturePoisoned g = true → Acts (.ringCapture ch g) s ch
         ((folded.onGrove g (fun v => { v with ring := { v.ring with lines := c.carryLines g } })).ringFails g .hwFault)) ∧
       (folded.capturePoisoned g = false →
         (let dirty := ((folded.tracked g).zip (folded.bitmap (folded.carryAt g) (folded.tracked g).length)).filterMap (fun p => if p.2 then some p.1 else none)
          let caps := (folded.ringSrcs g).map (fun x => { x.cap with carry := x.carried r.kind dirty })
          Acts (.ringCapture ch g) s ch (folded.onGrove g (fun v => { v with ring := { v.ring with
            phase := 2, ring := (if r.ring = 0xFFFFFFFF then r.point.getD 0 else r.ring), due := false, lines := c.carryLines g
            caps := caps.filter (fun x => x.carry ≠ []), table := c.ringTable g (if r.ring = 0xFFFFFFFF then r.point.getD 0 else r.ring)
            setId := (v.wslot v.slotNow).setId } }))))) ∧
     (r.phase ≠ 1 ∨ r.due = false ∨ c.fld F.HBM_STATUS_OTHER_CLEAN = 0 → Acts (.ringCapture ch g) s ch c) ∧
     (r.phase ≠ 2 → Acts ends s ch c) ∧
     (r.phase = 2 →
       (let staged := if blocksFor r.capBytes.length ≤ c.fld (F.CKP_GRV_CFG_RING_STAGE_PAGES.sh (g * 0x40))
          then c.hbmWrite (c.fld (F.CKP_GRV_STAGE_LINE.sh (g * 0x40))) r.capBytes else c
        Acts ends s ch ((staged.setFld (F.CKP_GRV_HOLD_PCLK.sh (g * 0x40)) (min (c.pclk - r.from_) 0xFFFFFFFF)).onGrove g (fun v =>
          { v with ring := { v.ring with phase := 3 } })))))) ∧
   (∀ (ch : Fin 8) (g : Fin 16) (job ring member fi attempt status written : Nat) (last : Bool) (shards : List RingShard) (fs : NMap Bytes) (s : State),
    (let c := s.chan ch
     let v := c.grove g
     let r := v.ring
     let k := c.memberIdx g
     let area := memberArea fs v.count k
     let hands (cmd : Instr) (e : Chan) (blocks : List (Nat × Bytes)) := ∃ u, exec cmd s = .next u ∧ ActsOn s u ch e ∧
       (c.linkLost = false → ∀ b ∈ blocks, .blocks ch r.idx r.nsid (r.dir + b.1) b.2 ∈ u.out)
     let full := (c.setFld F.CKP_STATUS_AREA_FULL 1).ringFails g .capacity
     let wrote (ok : Bool) := Instr.ringShardsWritten ch g ok fs
     let commit (ok : Bool) := Instr.ringCommit ch g ok fs
     (∀ ok, r.phase ≠ 3 ∨ r.done.contains k = true ∨ r.written ≠ 0 → Acts (wrote ok) s ch c) ∧
     (r.phase = 3 → r.done.contains k = false → r.written = 0 →
       Acts (wrote false) s ch (c.ringFails g .hwFault) ∧
       (area = none → Acts (wrote true) s ch (c.ringFails g .hwFault)) ∧
       (∀ m, area = some m →
         (let w := layShards r v.job k m.next r.caps
          (m.start + m.size < m.next + w.1.length / 4096 → Acts (wrote true) s ch full) ∧
          (m.next + w.1.length / 4096 ≤ m.start + m.size →
            (let data := if w.1 = [] then [] else [(m.next, w.1)]
             let state := [(stateBlockAt v.count k, stateBlock (m.next + w.1.length / 4096) r.attempt)]
             let c2 := ((data ++ state).foldl (fun c b => c.storeBlocks r b.1 b.2) c).onGrove g (fun v => { v with ring := { v.ring with
               written := w.2.length, caps := [], shards := if r.leads then v.ring.shards ++ w.2 else v.ring.shards, done := v.ring.done ++ [k] } })
             hands (wrote true) (if r.leads then c2.ringGather g else (shardFrames v.job v.coord r.ring k w.2).foldl (fun c f => c.sendFrame f) c2)
               (data ++ state)))))) ∧
     (∀ ok, r.phase ≠ 4 ∨ r.leads = false → Acts (commit ok) s ch c) ∧
     (r.phase = 4 → r.leads = true →
       Acts (commit false) s ch (c.ringFails g .hwFault) ∧
       (area = none → Acts (commit true) s ch (c.ringFails g .hwFault)) ∧
       (∀ m, area = some m →
         (let n := blocksFor (c.manifestOf g).length
          ((∀ i < 1024, (entryAt fs i).isSome) → Acts (commit true) s ch full) ∧
          (∀ i, (List.range 1024).find? (fun i => (entryAt fs i).isNone) = some i →
            (fsBlock fs (1 + i / 64) = none → Acts (commit true) s ch (c.ringFails g .hwFault)) ∧
            (∀ tb, fsBlock fs (1 + i / 64) = some tb →
              (m.start + m.size < m.next + n → Acts (commit true) s ch full) ∧
              (m.next + n ≤ m.start + m.size →
                (let e : RingEntry := ⟨i, r.kind, r.ring, r.attempt, r.parent, r.parentAttempt, m.next, n, digest (c.manifestOf g)⟩
                 let blocks := [(m.next, padBlocks (c.manifestOf g)), (stateBlockAt v.count k, stateBlock (m.next + n) r.attempt),
                   (1 + i / 64, slice tb 0 (64 * (i % 64)) ++ e.bytes ++ tb.drop (64 * (i % 64) + 64))]
                 let c2 := blocks.foldl (fun c b => c.storeBlocks r b.1 b.2) ({ c with free := c.free + 1 } : Chan)
                 let c4 := (((c2.memberNodes g).filter (· ≠ c.node)).foldl (fun c n => c.sendCtl n v.job (.ringDone v.job r.ring r.attempt)) c2).ringDone g
                 hands (commit true) ((c4.acceptedFor 0x90 g).foldl (fun c d => c.complete d .ok (some g) (ringData r.ring r.shards.length 0)) c4)
                   blocks))))))) ∧
     (r.leads = true → r.phase = 3 → r.done.contains k = true → Acts (.ringTimeout ch g) s ch (c.ringFails g .hwFault)) ∧
     (r.leads = false ∨ r.phase ≠ 3 ∨ r.done.contains k = false → Acts (.ringTimeout ch g) s ch c) ∧
     (let took := c.takeFrame (fun f => f.typ = 0x06 && f.job = job && f.step = ring && f.mb = member && f.shard = fi)
      let cmd := Instr.ringShardList ch job ring member fi last shards
      (took.groveOfJob job = none → Acts cmd s ch took) ∧
      (∀ h, took.groveOfJob job = some h →
        (let r := (took.grove h).ring
         let takes := r.leads = true ∧ 1 ≤ r.phase ∧ r.phase < 4 ∧ r.done.contains member = false ∧ r.ring = ring ∧ r.lists.contains (member, fi) = false
         let lost := last = true ∧ ∃ i < fi, r.lists.contains (member, i) = false
         let c1 := took.onGrove h (fun v => { v with ring := { v.ring with
            lists := r.lists ++ [(member, fi)], shards := v.ring.shards ++ shards, done := if last then v.ring.done ++ [member] else v.ring.done } })
         (¬ takes → Acts cmd s ch took) ∧
         (takes → ¬ lost → Acts cmd s ch (c1.ringGather h)) ∧
         (takes → lost → Acts cmd s ch (c1.ringFails h .hwFault))))) ∧
     (let took := c.takeCtl (.ringFail job attempt status written)
      let cmd := Instr.ringFail ch job attempt status written
      (took.groveOfJob job = none → Acts cmd s ch took) ∧
      (∀ h, took.groveOfJob job = some h →
        (let r := (took.grove h).ring
         let meets := r.leads = true ∧ r.phase ≠ 0 ∧ r.phase ≠ 5 ∧ r.attempt = attempt
         (meets → Acts cmd s ch (took.ringFails h (if status = Status.capacity.code then .capacity else .hwFault) written)) ∧
         (¬ meets → Acts cmd s ch took)))) ∧
     (let took := c.takeCtl (.ringAbort job attempt)
      let cmd := Instr.ringAbort ch job attempt
      (took.groveOfJob job = none → Acts cmd s ch took) ∧
      (∀ h, took.groveOfJob job = some h →
        (let r := (took.grove h).ring
         let meets := r.leads = false ∧ r.phase ≠ 0 ∧ r.attempt = attempt
         (meets → r.phase ≠ 5 → Acts cmd s ch (took.ringFails h .hwFault 0 true)) ∧
         (meets → r.phase = 5 → Acts cmd s ch (((took.freshState h).setFld F.CKP_STATUS_RESTORE_FAIL 1).onGrove h (fun v =>
           { v with ring := v.ring.idle, update := GroveUpdate.reset }))) ∧
         (¬ meets → Acts cmd s ch took)))) ∧
     (let took := c.takeCtl (.ringDone job ring attempt)
      let cmd := Instr.ringDone ch job ring attempt
      (took.groveOfJob job = none → Acts cmd s ch took) ∧
      (∀ h, took.groveOfJob job = some h →
        (let r := (took.grove h).ring
         let meets := r.leads = false ∧ r.phase = 3 ∧ r.ring = ring ∧ r.attempt = attempt
         (meets → Acts cmd s ch (took.ringDone h)) ∧
         (¬ meets → Acts cmd s ch took)))))))

/-- R360-R366, R369: `RING_RESTORE` and a member's begin put the grove into a restore and read their shards; images are kept; the coordinator gathers
the reports; once every part is here the ring is installed, and once the write-back is complete and a flip is accepted the restore ends.
`RESTORE_QUERY` and `RING_ORPHANS` are ACCEPTED and end with what the directory shows; what is read counts (log entry 58). A notice that meets no such
restore is taken and changes nothing else; an end not due leaves the channel (log entry 69). -/
def Obligations.RestoresReadInstallAndQuery : Prop :=
  ∀ (q : Issue) (grove idx nsid lba ring : Nat) (ch : Fin 8) (g : Fin 16) (job attempt dir kind tensor offset member status : Nat) (image : Bytes)
    (bad : List Nat) (fs : NMap Bytes) (d : Datagram) (s : State),
    (let c := (s.chan q.channel).begun d
     let c0 := s.chan q.channel
     let keys := s.pd.keys
     let asked := Instr.restoreQueryComplete q fs
     let walked := Instr.ringOrphansComplete q fs
     (ReadyC s q 0x91 (ringFields grove idx nsid lba ++ [(16, 4, ring)])
         (fun c d =>
           let v := c.grove grove
           groveNot [.loaded] c d || (decide (1 < v.members) && v.coord ≠ c.node) || v.ring.phase ≠ 0) badRing d →
       (let v := c.grove grove
        let n := if ring = 0xFFFFFFFF then c.queryRing grove keys fs else ring
        let att := ((entryFor fs n).map (·.attempt)).getD 0
        let c1 := (c.accept d).onGrove grove (fun v => { v with ring := { v.ring.idle with
            phase := 5, ring := n, attempt := att, idx := idx, nsid := nsid, dir := lba, leads := true } })
        let told := if v.members ≤ 1 then c1
          else ((c.memberNodes grove).filter (· ≠ c.node)).foldl (fun c m => c.sendCtl m v.job (.restoreBegin v.job n att idx nsid lba)) c1
        ∃ u, exec (.ringRestore q grove idx nsid lba ring fs) s = .next u ∧ ActsOn s u q.channel (told.restoreRead grove keys fs))) ∧
     (ReadyC s q 0x92 (ringFields grove idx nsid lba) (groveNot ringLooks) badRing d → Executes (.restoreQuery q grove idx nsid lba) s d c .accepted []) ∧
     (ReadyC s q 0x93 (ringFields grove idx nsid lba) (groveNot ringLooks) badRing d → Executes (.ringOrphans q grove idx nsid lba) s d c .accepted []) ∧
     (8 ≤ q.channel → exec asked s = .next s ∧ exec walked s = .next s) ∧
     (q.channel < 8 → (c0.acceptedCmd q 0x92 = none → Acts asked s q.channel c0) ∧ (c0.acceptedCmd q 0x93 = none → Acts walked s q.channel c0)) ∧
     (let h := pAt d 0 1
      let c1 := c0.countReads
      let l := orphans fs (c1.grove h).count
      (q.channel < 8 → c0.acceptedCmd q 0x92 = some d →
        (∀ st, dirBad fs (c1.grove h) = some st → Acts asked s q.channel (c1.complete d st (some h) [])) ∧
        (dirBad fs (c1.grove h) = none → Acts asked s q.channel (c1.complete d .ok (some h) (leBytes 4 (c1.queryRing h keys fs))))) ∧
      (q.channel < 8 → c0.acceptedCmd q 0x93 = some d →
        (∀ st, dirBad fs (c1.grove h) = some st → Acts walked s q.channel (c1.complete d st (some h) [])) ∧
        (dirBad fs (c1.grove h) = none → Acts walked s q.channel (c1.complete d .ok (some h) (leBytes 4 l.length ++ l.flatMap (leBytes 4)))))) ∧
     (let c := s.chan ch
      let took := c.takeCtl (.restoreBegin job ring attempt idx nsid dir)
      let cmd := Instr.restoreBegin ch job ring attempt idx nsid dir fs
      (took.groveOfJob job = none → Acts cmd s ch took) ∧
      (∀ h, took.groveOfJob job = some h →
        ((took.grove h).st ≠ .loaded ∨ (took.grove h).ring.phase ≠ 0 → Acts cmd s ch
          (took.sendCtl (took.grove h).coord job (.restoreReport job Status.stateConflict.code []))) ∧
        ((took.grove h).st = .loaded → (took.grove h).ring.phase = 0 → Acts cmd s ch
          ((took.onGrove h (fun v => { v with ring := { v.ring.idle with
            phase := 5, ring := ring, attempt := attempt, idx := idx, nsid := nsid, dir := dir } })).restoreRead h keys fs)))) ∧
     (let c := s.chan ch
      let body := leBytes 8 offset ++ leBytes 4 image.length ++ leBytes 1 kind ++ zeros 3 ++ image
      let took := c.takeFrame (fun f => f.typ = 0x06 && f.job = job && f.tensor = tensor && f.payload = .raw body)
      let cmd := Instr.restoreImageFrame ch job kind tensor offset image
      (took.groveOfJob job = none → Acts cmd s ch took) ∧
      (∀ h, took.groveOfJob job = some h →
        ((took.grove h).ring.phase = 5 → (took.grove h).ring.installed = false →
          Acts cmd s ch (took.onGrove h (fun v => v.addPart ⟨kind, tensor, offset, image⟩))) ∧
        ((took.grove h).ring.phase ≠ 5 ∨ (took.grove h).ring.installed = true → Acts cmd s ch took))) ∧
     (let c := s.chan ch
      let cmd := Instr.restoreReport ch job member status bad
      let took := match c.groveOfJob job with
        | some h => c.takeFrame (fun f => f.src = ((c.memberNodes h)[member]?).getD 0xFFFF && f.payload = .ctl (.restoreReport job status bad))
        | none => c.takeCtl (.restoreReport job status bad)
      (took.groveOfJob job = none → Acts cmd s ch took) ∧
      (∀ h, took.groveOfJob job = some h →
        (let r := (took.grove h).ring
         let meets := r.phase = 5 ∧ r.leads = true ∧ r.reports.any (fun x => x.1 = member) = false
         (meets → Acts cmd s ch
           ((took.onGrove h (fun v => { v with ring := { v.ring with reports := v.ring.reports ++ [(member, status, bad)] } })).restoreEnds h)) ∧
         (¬ meets → Acts cmd s ch took)))) ∧
     (let c := s.chan ch
      let r := (c.grove g).ring
      let here := c.partsHere g = true ∧ (r.leads = false ∨ (c.gathered g).1 = true)
      let back := c.writtenBack g = true ∧ c.fld F.HBM_STATUS_OTHER_CLEAN = 1
      let cmd := Instr.restoreComplete ch g
      (r.phase ≠ 5 → Acts cmd s ch c) ∧
      (r.phase = 5 →
        (r.installed = false → here → Acts cmd s ch (c.install g)) ∧
        (r.installed = false → ¬ here → Acts cmd s ch c) ∧
        (r.installed = true → back → Acts cmd s ch (c.restoreDone g)) ∧
        (r.installed = true → ¬ back → Acts cmd s ch c))))

/-! ## Power, key and diagnostic commands -/

/-- R303, R377, R383, R393, R416, R420: the status and log commands answer with what the registers, logs and flash hold, and change nothing else;
`CAP_SET` puts its cap in force and says so where it lies below the floor; `ORPHAN_CAP_SET` stages and applies its figure. -/
def Obligations.PowerAndLogCommandsAnswer : Prop :=
  ∀ (q : Issue) (watts n offset len : Nat) (first : Word) (d : Datagram) (s : State),
    (let c := s.chan q.channel
     (q.channel = 0xFF → ReadyM s q 0xA2 [] false (fun _ => []) d → ExecutesM (.powerStatus q) s d .ok (leBytes 4 s.capOf.2 ++
       leBytes 4 (s.pd.fld F.TH_MOD_POWER_DEMAND) ++ leBytes 4 (s.pd.fld F.TH_MOD_POWER_POWER) ++ zeros 4)) ∧
     (q.channel < 8 → ReadyC s q 0xA2 [] noConf (fun _ => []) d → Executes (.powerStatus q) s d c .ok (leBytes 4 (c.fld F.TH_TARGET_TARGET) ++
       leBytes 4 (c.fld F.TH_POWER_DEMAND) ++ leBytes 4 (c.fld F.TH_POWER_POWER) ++ zeros 4)) ∧
     (ReadyC s q 0xA3 [] noConf (fun _ => []) d → Executes (.thermalStatus q) s d c .ok (leBytes 2 (c.fld F.TH_TJ_TJ_MAX) ++
       leBytes 1 (c.fld F.TH_TJ_STOPPED) ++ [0] ++ leBytes 4 (c.reg R.TH_THETA).toNat)) ∧
     (q.channel < 8 → ReadyC s q 0xC1 [(0, 4, first.toNat), (4, 2, n)] noConf (fun d => [(decide (pAt d 4 2 = 0 ∨ 255 < pAt d 4 2), 4)]) d →
       Executes (.logRead q first n) s d c .ok ((logFrom c.log first.toNat c.evtSeq n).flatMap LogEntry.bytes)) ∧
     (q.channel = 0xFF → ReadyM s q 0xC1 [(0, 4, first.toNat), (4, 2, n)] false (fun d => [(decide (pAt d 4 2 = 0 ∨ 255 < pAt d 4 2), 4)]) d →
       ExecutesM (.logRead q first n) s d .ok ((logFrom s.pd.logSource first.toNat (s.pd.fld F.PD_FLOG_SEQ_NEXT) n).flatMap LogEntry.bytes)) ∧
     (ReadyC s q 0xC2 [(0, 4, offset), (4, 2, len)] noConf (fun d =>
         [(decide (dmapSize ≤ pAt d 0 4), 0), (decide (pAt d 4 2 = 0 ∨ 8176 < pAt d 4 2 ∨ dmapSize < pAt d 0 4 + pAt d 4 2), 4)]) d →
       Executes (.defectMapRead q offset len) s d c .ok ((List.range len).map (fun k => s.pd.dmapByte (offset + k)))) ∧
     (ReadyM s q 0xA0 [(0, 4, watts)] false (fun d => [(decide (24000 < pAt d 0 4), 0)]) d →
       (let a := ((s.begunM d).pdRmw R.TH_MOD_HOST_CAP 0xFFFF (BitVec.ofNat 32 watts)).2.strobeMg 2
        (a.1.1 = .ok → ∃ u, exec (.capSet q watts) s = .next u ∧
          Answered s u d (if a.2.capOf.2 < a.2.floorW then .capBelowFloor else .ok) (leBytes 4 a.2.capOf.2) ∧ u.chans = a.2.chans ∧ u.pd.bank = a.2.pd.bank) ∧
        (a.1.1 ≠ .ok → ∃ u, exec (.capSet q watts) s = .next u ∧ Answered s u d a.1.1 []))) ∧
     (ReadyM s q 0xA1 [(0, 4, watts)] false (fun d => [(decide (pAt d 0 4 < s.floorW ∨ 24000 < pAt d 0 4), 0)]) d →
       (let a := ((s.begunM d).pdRmw R.TH_MOD_ORPHAN 0xFFFF (BitVec.ofNat 32 watts)).2.strobeMg 2
        ∃ u, exec (.orphanCapSet q watts) s = .next u ∧ Answered s u d a.1.1 [] ∧ u.pd.bank = a.2.pd.bank)))

/-- R303, R421-R424, R427, R429: keys are added and removed under an owner key's signature and the present counter, which then counts; a removed key's
sessions end; `KEY_LIST` lists them; `ATTEST` answers with the signed record; `ALARM_CFG` applies its response. R435, R439: an `ENERGY_READ` that its
session may make answers with the cell's signed readout, and the apportion block where it is on, and counts in the cell; `MET_INFO` gives the cell's
identity; without the cell's link both are refused HW_FAULT. -/
def Obligations.KeysAttestationAndMetering : Prop :=
  ((∀ (q : Issue) (rec fpr sig nonce : Bytes) (cls resp : Nat) (k : KeyRec) (d : Datagram) (s : State),
    (let n := s.pd.fld F.SEC_KEY_COUNTER_COUNTER
     let r := d.params
     (ReadyM s q 0xB1 [opBytes 0 3112 rec] false (fun d => badKeyRecord d.params) d → k = ⟨leAt r 4 1, leAt r 5 1, leAt r 6 1, slice r 20 1793⟩ →
       (leAt r 8 4 ≠ n → ExecutesM (.keyAdd q rec) s d .stateConflict []) ∧
       (leAt r 8 4 = n →
         if s.pd.ownerSigned (slice r 0 1832) (slice r 1832 1280) then
           if (s.pd.keyFor (fprOf k.key)).isSome then ExecutesM (.keyAdd q rec) s d .stateConflict []
           else if keyPlaces k.kind ≤ (s.pd.keysOf k.kind).length then ExecutesM (.keyAdd q rec) s d .capacity []
           else ∃ u, exec (.keyAdd q rec) s = .next u ∧ Answered s u d .ok [] ∧ u.chans = s.chans ∧
             u.pd.keys = s.pd.keys ++ [k] ∧ u.pd.fld F.SEC_KEY_COUNTER_COUNTER = (n + 1) % 2 ^ F.SEC_KEY_COUNTER_COUNTER.width
         else ∃ u, exec (.keyAdd q rec) s = .next u ∧ Answered s u d .signatureFail [])) ∧
     (ReadyM s q 0xB2 [opBytes 0 16 fpr, opBytes 16 1280 sig] false (fun _ => []) d →
       if s.pd.ownerSigned (removalMessage n (slice r 0 16)) (slice r 16 1280) then
         (s.pd.keyFor (slice r 0 16) = none → ExecutesM (.keyRemove q fpr sig) s d .badParam []) ∧
         (s.pd.keyFor (slice r 0 16) = some k →
         if k.kind = 0 ∧ (s.pd.keysOf 0).length = 1 then ExecutesM (.keyRemove q fpr sig) s d .stateConflict []
         else ∃ u, exec (.keyRemove q fpr sig) s = .next u ∧ Answered s u d .ok [] ∧
           u.pd.keys = s.pd.keys.filter (fun x => fprOf x.key ≠ slice r 0 16) ∧ (∀ x ∈ u.pd.sessions, x.fpr ≠ slice r 0 16) ∧
           u.pd.fld F.SEC_KEY_COUNTER_COUNTER = (n + 1) % 2 ^ F.SEC_KEY_COUNTER_COUNTER.width)
       else ∃ u, exec (.keyRemove q fpr sig) s = .next u ∧ Answered s u d .signatureFail []) ∧
     (ReadyM s q 0xB3 [] false (fun _ => []) d → ExecutesM (.keyList q) s d .ok (leBytes 4 s.pd.keys.length ++
       s.pd.keys.flatMap (fun k => fprOf k.key ++ leBytes 1 k.kind ++ leBytes 1 k.role ++ leBytes 1 k.mask ++ [0]))) ∧
     (ReadyM s q 0xB0 [opBytes 0 32 nonce] (decide (s.pd.services.getD 0 0xFF = 0xFF)) (fun _ => []) d →
       ExecutesM (.attest q nonce) s d .ok (s.attestBody (slice r 0 32) ++ slice (Config.falconSign Config.deviceSeed (s.attestBody (slice r 0 32)) s.draw.1) 0 1280)) ∧
     (ReadyM s q 0xB4 [(0, 1, cls), (1, 1, resp)] false (fun d => [(decide (4 ≤ pAt d 0 1), 0), (decide (3 ≤ pAt d 1 1), 1)]) d →
       (let a := ((s.begunM d).pdRmw R.SEC_ALARM_CFG (BitVec.ofNat 32 (3 * 4 ^ cls)) (BitVec.ofNat 32 (resp * 4 ^ cls))).2.strobeMg 4
        ∃ u, exec (.alarmCfg q cls resp) s = .next u ∧ Answered s u d a.1.1 [] ∧ u.pd.bank = a.2.pd.bank)))) ∧
   (∀ (q : Issue) (chmask : Nat) (nonce : Bytes) (d : Datagram) (s : State),
    (ReadyM s q 0xB5 [(0, 1, chmask), opBytes 4 32 nonce] false (fun _ => []) d →
      ((∃ c < 8, bits chmask c 1 = 1 ∧ s.maySee d c = false) → ExecutesM (.energyRead q chmask nonce) s d .authFail []) ∧
      ((∀ c < 8, bits chmask c 1 = 1 → s.maySee d c = true) → s.cell.link = false → ExecutesM (.energyRead q chmask nonce) s d .hwFault []) ∧
      ((∀ c < 8, bits chmask c 1 = 1 → s.maySee d c = true) → s.cell.link = true → ∃ u, exec (.energyRead q chmask nonce) s = .next u ∧ u.chans = s.chans ∧
        Answered s u d .ok (s.cell.readout chmask (slice d.params 4 32) s.draw.1 ++ (if s.pd.fld F.MET_CFG_APPORTION = 1 then s.apportionBlock chmask else [])) ∧
        u.cell = { s.cell with readouts := s.cell.readouts + 1, gapSeen := false })) ∧
    (ReadyM s q 0xB6 [] false (fun _ => []) d →
      (s.cell.link = false → ExecutesM (.metInfo q) s d .hwFault []) ∧
      (s.cell.link = true → ExecutesM (.metInfo q) s d .ok (leBytes 8 Config.cellSerial.toNat ++ leBytes 4 Config.cellFwSum.toNat ++
        slice Config.cellFwDigest 0 32 ++ leBytes 1 (bits (s.pdLive R.MET_STATUS).toNat 8 3) ++ [0] ++ leBytes 2 s.cell.breachN ++
        slice Config.cellKey 0 1793 ++ zeros 7 ++ slice Config.cellCert 0 1280)))))

/-- R303, R395, R402, R425: a BIST, a loopback test and a firmware update are ACCEPTED, and end as their completion says: a BIST's findings are in
force, a loopback counts its errors, an update writes the other image and makes it active, or fails its signature, as it does where a line reads
uncorrectable. A completion that no accepted command waits for changes nothing (log entry 69). -/
def Obligations.TestsAndUpdatesAreAcceptedAndEnd : Prop :=
  ∀ (q : Issue) (level ifx mode frames errors ch line len : Nat) (badTiles badRouters : List (Nat × Nat)) (d : Datagram) (s : State),
    (let c := s.chan q.channel
     (ReadyC s q 0xC0 [(0, 1, level)] (fun c _ => c.fld F.CTL_BRINGUP_HELD ≠ 1) (fun d => [(decide (2 ≤ pAt d 0 1), 0)]) d →
       Executes (.bistRun q level) s d c .accepted []) ∧
     (ReadyC s q 0xC3 [(0, 1, ifx), (1, 1, mode), (4, 4, frames)] noConf
         (fun d => [(!hasIf q.channel (pAt d 0 1), 0), (decide (2 ≤ pAt d 1 1), 1)]) d → Executes (.linkLoopback q ifx mode frames) s d c .accepted []) ∧
     (ReadyM s q 0xC4 [(0, 1, ch), (4, 4, line), (8, 4, len)] false (fun d => [(decide (8 ≤ pAt d 0 1), 0)]) d →
       ExecutesM (.fwUpdate q ch line len) s d .accepted []) ∧
     (8 ≤ q.channel → exec (.bistRunComplete q badTiles badRouters) s = .next s ∧ exec (.linkLoopbackComplete q errors) s = .next s) ∧
     (q.channel < 8 → c.acceptedCmd q 0xC0 = none ∨ c.st ≠ .bringup → exec (.bistRunComplete q badTiles badRouters) s = .next s) ∧
     (q.channel < 8 → c.acceptedCmd q 0xC3 = none → Acts (.linkLoopbackComplete q errors) s q.channel c) ∧
     (s.acceptedM q 0xC4 = none → exec (.fwUpdateComplete q) s = .next s) ∧
     (q.channel < 8 → c.acceptedCmd q 0xC0 = some d → c.st = .bringup →
       (let r := c.refine badTiles badRouters
        ((if anchor q.channel then r.bands = 0 else r.fits = false) → ∃ u, exec (.bistRunComplete q badTiles badRouters) s = .next u ∧
          (u.chan q.channel).body = ((c.complete d .hwFault none []).bringupFails .hwFault).body) ∧
        ((if anchor q.channel then r.bands ≠ 0 else r.fits = true) → ∃ u, exec (.bistRunComplete q badTiles badRouters) s = .next u ∧
          (u.chan q.channel).rows = r.rows ∧ (u.chan q.channel).knots.map (fun k => (k.x, k.y, k.cause)) = r.knots.map (fun k => (k.x, k.y, k.cause))))) ∧
     (q.channel < 8 → c.acceptedCmd q 0xC3 = some d → Acts (.linkLoopbackComplete q errors) s q.channel (c.complete d .ok none (leBytes 4 errors))) ∧
     (s.acceptedM q 0xC4 = some d →
       (let f := s.chan (pAt d 0 1)
        let b := f.hbmRead (64 * pAt d 4 4) (pAt d 8 4)
        let lost := ∃ l ∈ f.poison, pAt d 4 4 ≤ l ∧ 64 * l < 64 * pAt d 4 4 + pAt d 8 4
        (imageOk (s.pd.fld F.SEC_SVN_MIN_SVN) b = true → ¬ lost → ∃ u, exec (.fwUpdateComplete q) s = .next u ∧ u.chans = s.chans ∧
          u.pd.flash.active = 1 - s.pd.flash.active % 2 ∧ u.pd.flash.images = s.pd.flash.images.set (1 - s.pd.flash.active % 2) b) ∧
        (imageOk (s.pd.fld F.SEC_SVN_MIN_SVN) b = false ∨ lost → ∃ u, exec (.fwUpdateComplete q) s = .next u ∧
          u.pd.flash.active = s.pd.flash.active ∧ u.pd.flash.images = s.pd.flash.images))))

/-- R373, R448: while the port die answers PMBus, a transaction with a good packet error code reads its figure, or sets the cap, or clears the
latches; a bad code and an unknown command are not acknowledged, counted, and latched; while it does not answer, nothing is. The alert response
address answers while SMB_ALERT_N is asserted (log entry 63); a code that R373 lists is no unknown one (log entry 69). -/
def Obligations.PmbusReadsCapsAndRefuses : Prop :=
  ∀ (w : BitVec 16) (code : Byte) (s : State),
    (let reads := ([(.statusWord, 0x79, leBytes 2 s.statusWordOf), (.readVin, 0x88, pmBytes (Config.linear11 s.pd.power.vin 1000)),
       (.readIin, 0x89, pmBytes (Config.linear11 (s.pd.fld F.TH_MOD_POWER_POWER * 1000 : Nat) s.pd.power.vin)),
       (.readTemperature1, 0x8D, pmBytes (Config.linear11 s.pd.power.tin 16)), (.readTemperature2, 0x8E, pmBytes (Config.linear11 s.pd.power.hottest 16)),
       (.readPin, 0x97, pmBytes (Config.linear11 (s.pd.fld F.TH_MOD_POWER_POWER) 1)),
       (.mfrPlkCapRead, 0xD0, pmBytes (Config.linear11 (s.pd.power.pmbusCap.getD (24000 * 65536)) 65536)),
       (.mfrPlkDemand, 0xD1, pmBytes (Config.linear11 (s.pd.fld F.TH_MOD_POWER_DEMAND) 1)), (.mfrPlkFloor, 0xD2, pmBytes (Config.linear11 s.floorW 1)),
       (.mfrPlkState, 0xD3, leBytes 1 (s.capOf.1 + (if s.capOf.2 < s.floorW then 8 else 0) + (if s.pd.power.orphan then 16 else 0) +
         (if s.pd.power.coolant then 32 else 0)))] : List ((Bool → Instr) × Nat × Bytes))
     let rows := reads.map (·.1) ++ [.clearFaults, (.mfrPlkCapWrite · w)]
     let a := 0x40 + s.pd.straps
     let refused := fun (i : Instr) => ∃ u, exec i s = .next u ∧ u.out = s.out ++ [.pmbus none] ∧ u.chans = s.chans ∧ u.cell = s.cell ∧
       u.pd.fld F.TH_MOD_STATUS_PMBUS_ERR = 1 ∧ u.pd.power.latches = (s.pd.power.latches ||| 2)
     (s.pmLive = true →
       (∀ r ∈ reads, exec (r.1 true) s = .next { s with out := s.out ++ [.pmbus (some (r.2.2 ++
         [pecOf ([BitVec.ofNat 8 (2 * a), BitVec.ofNat 8 r.2.1, BitVec.ofNat 8 (2 * a + 1)] ++ r.2.2)]))] }) ∧
       (∀ r ∈ rows, refused (r false)) ∧
       (pmCodes.contains code.toNat = false → refused (.pmbusUnknownCommand code)) ∧
       (∃ u, exec (.clearFaults true) s = .next u ∧ u.pd.power.latches = 0 ∧ u.out = s.out ++ [.pmbus (some [])] ∧ u.chans = s.chans) ∧
       (ofLinear11 w = none → refused (.mfrPlkCapWrite true w)) ∧
       (∀ v, ofLinear11 w = some v → ∃ u, exec (.mfrPlkCapWrite true w) s = .next u ∧ u.pd.power.pmbusCap = some (min v (24000 * 65536)) ∧
         u.pd.power.orphan = false ∧ .pmbus (some []) ∈ u.out) ∧
       (pmCodes.contains code.toNat = true → exec (.pmbusUnknownCommand code) s = .next s) ∧
       (s.statusWordOf = 0 → exec .smbusAlertResponse s = .next { s with out := s.out ++ [.pmbus none] }) ∧
       (s.statusWordOf ≠ 0 → exec .smbusAlertResponse s = .next { s with out := s.out ++ [.pmbus (some [BitVec.ofNat 8 s.pd.pmAddr])] })) ∧
     (s.pmLive = false → (∀ r ∈ rows, ∀ ok, exec (r ok) s = .next { s with out := s.out ++ [.pmbus none] }) ∧
       (pmCodes.contains code.toNat = false → exec (.pmbusUnknownCommand code) s = .next { s with out := s.out ++ [.pmbus none] }) ∧
       exec .smbusAlertResponse s = .next { s with out := s.out ++ [.pmbus none] }))

/-! ## Power, heat, bring-up and security events -/

/-- R370, R378-R382: a microsecond of the limiter measures, forecasts and slews the target up by at most the slew rate; in BRINGUP and FROZEN the duty
is 0; a channel without power only measures. A share computation gives each channel its share, but one whose controller link is lost. The caps are
then computed anew, which where neither freeze cause CAP stands nor falls due leaves the channels. R372, R375, R376, R391, R454: a supply sample keeps
the voltage and flags a low or a high input; below 20 V a powered module loses all power. Below 44 V channels in BRINGUP fail and the others freeze
under SUPPLY, which recovers at 45 V; the orphan expiry brings its cap in once a PMBus cap has been written. Where the named condition does not hold,
nothing changes (log entry 69). -/
def Obligations.LimiterSharesAndSupply : Prop :=
  ((∀ (ch : Fin 8) (watts : Nat) (s : State),
    (let c := s.chan ch
     let e := c.limiterStep watts
     exec (.limiterTrim ch watts) s = .next (s.onChan ch (fun c => c.limiterStep watts)).recap ∧
     ActsOn s (s.onChan ch (fun c => c.limiterStep watts)) ch e ∧ e.fld F.TH_POWER_POWER = min watts 65535 ∧
     (c.down = true → e = c.setFld F.TH_POWER_POWER (min watts 65535)) ∧
     (c.down = false →
       e.fld F.TH_TARGET_TARGET ≤ c.fld F.TH_TARGET_TARGET + max 8 (c.fld F.TH_CH_CFG_SLEW) ∧ e.fld F.TH_TARGET_TARGET ≤ c.fld F.TH_TARGET_SHARE ∧
       (c.st = .frozen ∨ c.st = .bringup → e.fld F.TH_DUTY_DUTY = 0))) ∧
    (let up := fun (c : Chan) => !c.down && !c.linkLost
     let avail := s.capOf.2 - s.sharedW - s.offW - s.keptW
     let sumW := s.sumOver up (fun c => if c.unmeasured then c.fld F.TH_POWER_POWER else c.wantW)
     ∃ t : State, exec .shareCompute s = .next t.recap ∧ t.cell = s.cell ∧ ∀ k < 8, (t.chan k).st = (s.chan k).st ∧ (t.chan k).fld F.TH_TARGET_SHARE =
        if up (s.chan k) then min ((s.chan k).shareW avail s.upHoldW sumW) 65535 else (s.chan k).fld F.TH_TARGET_SHARE) ∧
    (∀ t : State, t.causeSet 1 = false → t.capCause = false → t.recap.chans = t.chans ∧ t.recap.cell = t.cell)) ∧
   (∀ (mv : Nat) (s : State),
    (let s1 := s.onPort (fun p => { p with power := { p.power with
       vin := mv, okSince := if 46000 ≤ mv ∧ mv ≤ 58000 then some (p.power.okSince.getD p.clock) else none } })
     (s.pd.powered = false → exec (.supplySample mv) s = .next s1) ∧
     (s.pd.powered = true → mv < 20000 → exec (.supplySample mv) s = .next s1.powerLost ∧ s1.powerLost.pd.powered = false ∧
       ∀ k < 8, (s1.powerLost.chan k).st = .off ∨ (s1.powerLost.chan k).st = .locked)) ∧
    (s.pd.powered = true → 20000 ≤ mv → ∃ u, exec (.supplySample mv) s = .next u ∧ u.cell = s.cell ∧ u.pd.power.vin = mv ∧
      (mv < 46000 → u.pd.fld F.TH_MOD_STATUS_SUPPLY_LOW = 1 ∧ u.pd.power.okSince = none) ∧
      (58000 < mv → s.pd.power.vin ≤ 58000 → u.pd.fld F.TH_MOD_STATUS_SUPPLY_HIGH = 1)) ∧
    (44000 ≤ s.pd.power.vin ∨ s.pd.powered = false → exec .supplyFreeze s = .next s) ∧
    (s.pd.power.vin < 44000 → s.pd.powered = true → ∃ u, exec .supplyFreeze s = .next u ∧
      ∀ k < 8, ((s.chan k).st = .bringup → (u.chan k).st = .faulted) ∧ ((s.chan k).st = .ready ∨ (s.chan k).st = .running → (u.chan k).st = .frozen ∧
        bits (u.chan k).freeze 3 1 = 1)) ∧
    (s.pd.power.vin < 45000 → exec .supplyRecover s = .next s) ∧
    (45000 ≤ s.pd.power.vin → exec .supplyRecover s = .next (s.thawAll 3) ∧ (s.thawAll 3).cell = s.cell ∧
      ((∀ k < 8, takesNone (s.chan k) ((s.chan k).thawBy 3) = true) → ∀ k < 8, ((s.thawAll 3).chan k).body = ((s.chan k).thawBy 3).body)) ∧
    (s.pd.power.pmbusCap.isSome → s.pd.power.orphan = false → ∃ u, exec .orphanExpiry s = .next u ∧ u.pd.power.orphan = true ∧
      u.pd.fld F.TH_MOD_STATUS_ORPHAN = 1) ∧
    (s.pd.power.pmbusCap = none ∨ s.pd.power.orphan = true → exec .orphanExpiry s = .next s)))

/-- R374: an assertion of CAP_STEP puts the cap step source, code 4, in force at its register's figure; deassertion removes it. -/
def Obligations.CapStepPutsItsSourceInForce : Prop :=
  ∀ (s : State),
    (∃ u, exec .capStepAssert s = .next u ∧ (4, u.pd.fld F.TH_MOD_STEP_CAP_CAP) ∈ u.limits ∧ u.cell = s.cell) ∧
    (∃ u, exec .capStepDeassert s = .next u ∧ (∀ w, (4, w) ∉ u.limits) ∧ u.cell = s.cell)

/-- R383-R389: sensors are sampled; a field at 100 °C shuts the module down, a sudden rise or a loss of flow stops the coolant, and otherwise a
coolant stop may end. A pair that disagrees is ruled by its higher reading and then by the better sensor, between equals by a free choice (log entry
65); the inlet rules by its higher good sensor, at 45 °C without one; theta, the heat trim and a field's gate follow the temperatures. Where the named
condition does not hold, nothing changes (log entry 69). R388, R389: a flow loss in use stops the coolant: every live channel freezes under COOLANT;
the cause that has not cleared within its time shuts the module down; a return of flow alone is kept. A flow loss that is not in use, or of a module
without power, is only noted. -/
def Obligations.SensorsHeatAndCoolant : Prop :=
  ((∀ (ch : Fin 8) (temps : List Int) (field hot : Nat) (pred t0 t1 : Int) (f : Fin 6) (s : State),
    (let c := s.chan ch
     let h := 4 * field + hot
     (let c1 := c.sampleTemps temps
      let c2 := ({ c1 with power := { c1.power with window := ((c1.fieldTemps, c1.fld F.TH_POWER_POWER) :: c1.power.window).take 11 } } : Chan).fieldsReturn
      let trips := c2.fieldTemps.any (fun t => decide (1600 ≤ t)) = true
      ∃ t, ActsOn s t ch c2 ∧
        (let s1 := t.noteHottest
         let stops := (c2.down = false ∧ suddenRise c2.power.window (s1.pd.fld F.TH_MOD_CFG_DTDT) = true) ∨
           (s1.flowLost = true ∧ ∃ k < 8, (s1.chan k).down = false)
         (trips → s1.pd.power.regOff = false → exec (.tempSample ch temps) s = .next s1.thermalTrip ∧ s1.thermalTrip.pd.power.regOff = true ∧
           s1.thermalTrip.pd.fld F.TH_MOD_STATUS_SHUTDOWN = 1 ∧ ∀ k < 8, (s1.thermalTrip.chan k).st = .off ∨ (s1.thermalTrip.chan k).st = .locked) ∧
         (trips → s1.pd.power.regOff = true → exec (.tempSample ch temps) s = .next s1) ∧
         (¬ trips → stops → exec (.tempSample ch temps) s = .next s1.coolantStop) ∧
         (¬ trips → ¬ stops → exec (.tempSample ch temps) s = .next s1.coolantCheck))) ∧
     (let disagrees := field < 6 ∧ hot < 4 ∧ c.suspect (2 * h) = false ∧ c.suspect (2 * h + 1) = false ∧ 64 < pairGap c.power.temps h ∧ c.power.hot.contains h = false
      (disagrees → Acts (.sensorDisagree ch field hot) s ch (({ c with power := { c.power with hot := c.power.hot ++ [h] } }).flagEvent F.TH_STATUS_PAIR_DISAGREE
        F.TH_COUNT_PAIR_DISAGREE .hwFault 2 none).readTemps) ∧
      (¬ disagrees → Acts (.sensorDisagree ch field hot) s ch c)) ∧
     (6 ≤ field ∨ 4 ≤ hot ∨ c.power.hot.contains h = false → Acts (.sensorSuspect ch field hot pred) s ch c) ∧
     (field < 6 → hot < 4 → c.power.hot.contains h = true →
       (let r := c.reference6 field hot pred
        let da := (6 * (pairAt c.power.temps h).1 - r).natAbs
        let db := (6 * (pairAt c.power.temps h).2 - r).natAbs
        let ruled (e : Chan) (i : Nat) := (({ e with power := { e.power with hot := e.power.hot.filter (· ≠ h) } } : Chan).markSuspect (2 * h + i)).readTemps
        (db < da → Acts (.sensorSuspect ch field hot pred) s ch (ruled c 0)) ∧
        (da < db → Acts (.sensorSuspect ch field hot pred) s ch (ruled c 1)) ∧
        (da = db → Acts (.sensorSuspect ch field hot pred) s ch (ruled c.draw.2 (c.draw.1 % 2))))) ∧
     (let good := fun (t : Int) => 0 ≤ t ∧ t ≤ 1280
      let inlet := fun (t : Int) => exec (.inletSample t0 t1) s = .next { s with pd := { s.pd with power := { s.pd.power with tin := t } } }
      (good t0 → good t1 → inlet (max t0 t1)) ∧ (good t0 → ¬ good t1 → inlet t0) ∧ (¬ good t0 → good t1 → inlet t1) ∧
      (¬ good t0 → ¬ good t1 → ∃ u, exec (.inletSample t0 t1) s = .next u ∧ u.pd.power.tin = 720 ∧ u.pd.fld F.TH_MOD_STATUS_INLET_FAIL = 1 ∧
        u.chans = s.chans ∧ u.cell = s.cell)) ∧
     (c.down = true → Acts (.thetaUpdate ch) s ch c ∧ Acts (.heatTrim ch) s ch c) ∧
     (c.down = false →
       (let w := c.fld F.TH_POWER_POWER
        let nom := c.reg R.TH_THETA_NOM
        let top := (maxTemp c.fieldTemps).getD 0
        let follows := fun (th : Word) => ∀ e : Chan, e = { c.putReg R.TH_THETA th with power := { c.power with
            theta := some th, thetaCap := some (thetaCapOf th nom s.pd.power.tin) } } →
          (thetaHigh th nom = false → Acts (.thetaUpdate ch) s ch e) ∧
          (thetaHigh th nom = true →
            (∀ o, c.power.theta = some o → thetaHigh o nom = true → Acts (.thetaUpdate ch) s ch (e.setFld F.TH_STATUS_THETA_ALERT 1)) ∧
            ((∀ o, c.power.theta = some o → thetaHigh o nom = false) → Acts (.thetaUpdate ch) s ch
              (e.flagEvent F.TH_STATUS_THETA_ALERT F.TH_COUNT_THETA_ALERT .hwFault 2 none)))
        (1000 ≤ w → follows (Config.thetaAverage c.power.theta (top - s.pd.power.tin) w)) ∧
        (∀ th, w < 1000 → c.power.theta = some th → follows th) ∧
        (w < 1000 → c.power.theta = none → Acts (.thetaUpdate ch) s ch c)) ∧
       ((∃ t ∈ c.fieldTemps, 1520 < t) → Acts (.heatTrim ch) s ch
         { c.setFld F.TH_STATUS_TRIM 1 with power := { c.power with trim := some (95 * capBy (c.fld F.TH_POWER_POWER) c.power.trim / 100) } }) ∧
       ((∀ t ∈ c.fieldTemps, t ≤ 1520) → ((∃ t ∈ c.fieldTemps, 1488 < t) ∨ c.power.trim = none) → Acts (.heatTrim ch) s ch c) ∧
       (∀ t, (∀ x ∈ c.fieldTemps, x ≤ 1488) → c.power.trim = some t → Acts (.heatTrim ch) s ch
         { c with power := { c.power with trim := if 4000 ≤ 105 * t / 100 then none else some (105 * t / 100) } })) ∧
     (c.down = true ∨ c.fieldTemps.getD f 0 ≤ 1520 ∨ bits (c.fld F.TH_TJ_STOPPED) f 1 = 1 → exec (.fieldGate ch f) s = .next s) ∧
     (c.down = false → 1520 < c.fieldTemps.getD f 0 → bits (c.fld F.TH_TJ_STOPPED) f 1 = 0 → ∃ u, exec (.fieldGate ch f) s = .next u ∧ u.cell = s.cell ∧
         bits ((u.chan ch).fld F.TH_TJ_STOPPED) f 1 = 1 ∧ (u.chan ch).fld F.TH_STATUS_FIELD_STOP = 1 ∧
         ∀ g < 16, (c.tilesOf g).any (fun i => fieldOf i = f) = true → (c.grove g).replay = false → (c.grove g).st = .running →
           ((u.chan ch).grove g).st = .paused))) ∧
   (∀ (s : State),
    (s.pd.powered = true → s.pd.fld F.TH_MOD_CFG_FLOW_EN = 1 → s.pd.power.coolant = false → ∃ u, exec .flowLoss s = .next u ∧ u.cell = s.cell ∧
      u.pd.power.flowLoss = true ∧ u.pd.power.coolant = true ∧ u.pd.fld F.TH_MOD_STATUS_COOLANT_STOP = 1 ∧
      ∀ k < 8, (s.chan k).st = .ready ∨ (s.chan k).st = .running → (u.chan k).st = .frozen ∧ bits (u.chan k).freeze 2 1 = 1) ∧
    (s.pd.powered = false ∨ s.pd.fld F.TH_MOD_CFG_FLOW_EN ≠ 1 ∨ s.pd.power.coolant = true →
      exec .flowLoss s = .next { s with pd := { s.pd with power := { s.pd.power with flowLoss := true } } }) ∧
    (∃ u, exec .flowLossDeassert s = .next u ∧ u.pd.power.flowLoss = false ∧ u.cell = s.cell) ∧
    (s.pd.power.coolant = true → ∃ u, exec .coolantKeepExpiry s = .next u ∧ u.pd.power.regOff = true ∧ u.pd.fld F.TH_MOD_STATUS_SHUTDOWN = 1 ∧
      ∀ k < 8, (u.chan k).st = .off ∨ (u.chan k).st = .locked) ∧
    (s.pd.power.coolant = false → exec .coolantKeepExpiry s = .next s)))

/-- R394, R395, R433, R449, R453, R454: power-on with the reference boots the port die and starts the cell from its last complete write; without it
the port die waits for `REF_ARRIVAL`; training opens the command port; a reset holds the port die and takes every channel OFF until it is released, an
overvoltage shuts the module down, an input collapse takes the channels OFF. Where the named condition does not hold, nothing changes (log entry 69).
-/
def Obligations.PowerOnResetsAndCollapse : Prop :=
  ∀ (a b : Option Bytes) (straps : BitVec 3) (ref : Bool) (s : State),
    (s.pd.powered = false →
      (∃ u, exec (.powerOn a b straps false) s = .next u ∧ u.pd.powered = true ∧ u.pd.boot = 1 ∧ u.pd.straps = straps.toNat ∧ u.cell.counts = s.cell.nv ∧
        u.cell.link = true) ∧
      (∃ u, exec (.powerOn a b straps true) s = .next u ∧ u.pd.powered = true ∧ u.pd.boot = 3 ∧ u.cell.counts = s.cell.nv) ∧
      exec .moduleReset s = .next s ∧ exec .overvoltage s = .next s ∧ exec .inputCollapse s = .next s) ∧
    (s.pd.powered = true → exec (.powerOn a b straps ref) s = .next s) ∧
    (s.pd.powered = true → s.pd.boot = 1 → s.pd.resetPin = false → ∃ u, exec .refArrival s = .next u ∧ u.pd.boot = 3) ∧
    (s.pd.powered = false ∨ s.pd.boot ≠ 1 ∨ s.pd.resetPin = true → exec .refArrival s = .next s) ∧
    (s.pd.running = true → s.pd.boot = 3 → exec .commandPortTrained s = .next { s with pd := { s.pd with boot := 4 } }) ∧
    (s.pd.running = false ∨ s.pd.boot ≠ 3 → exec .commandPortTrained s = .next s) ∧
    (s.pd.powered = false ∨ s.pd.resetPin = false → exec (.modResetDeassert a b straps ref) s = .next s) ∧
    (s.pd.powered = true →
      (∃ u, exec .moduleReset s = .next u ∧ u.pd.resetPin = true ∧ u.pd.sessions = [] ∧ u.cell = s.cell ∧
        ∀ k, (u.chan k).st = .off ∨ (u.chan k).st = .locked) ∧
      (∃ u, exec .overvoltage s = .next u ∧ u.pd.power.regOff = true ∧ u.pd.power.ovHold = true ∧ u.cell = s.cell ∧
        ∀ k < 8, (u.chan k).st = .off ∨ (u.chan k).st = .locked) ∧
      (∃ u, exec .inputCollapse s = .next u ∧ u.pd.power.regOff = true ∧ u.cell = s.cell ∧ ∀ k < 8, (u.chan k).st = .off ∨ (u.chan k).st = .locked) ∧
      (s.pd.resetPin = true →
        (∃ u, exec (.modResetDeassert a b straps true) s = .next u ∧ u.pd.resetPin = false ∧ u.pd.boot = 3) ∧
        (∃ u, exec (.modResetDeassert a b straps false) s = .next u ∧ u.pd.resetPin = false ∧ u.pd.boot = 1)))

/-- R26, R37, R307, R394, R396, R397: an enabled OFF channel is released into step 1. A step that ends well has its effect and goes on, at step 10 to
READY or FROZEN; one that fails or times out ends in FAULTED under its step, and in step 3 with the controller link lost. A lost clock and an
uncorrectable controller error fault the channel, a lost reference every channel; a lost controller link freezes it, its return thaws it. The caps are
then computed anew. Where the named condition does not hold, nothing changes (log entry 69). -/
def Obligations.BringUpAndChannelFaults : Prop :=
  ∀ (ch : Fin 8) (ok : Bool) (bt br : List (Nat × Nat)) (meas : Bytes) (hold : Nat) (s : State),
    (let c := s.chan ch
     let step := c.fld F.CTL_BRINGUP_STEP
     let done := Instr.bringupStepDone ch ok bt br meas hold
     let well := Instr.bringupStepDone ch true bt br meas hold
     let inStep := c.st = .bringup ∧ c.fld F.CTL_BRINGUP_HELD ≠ 1
     let released := s.pd.running = true ∧ s.pd.locked = false ∧ s.pd.fld F.PD_FW_RECOVERY = 0 ∧ bits (s.pd.reg R.PD_CH_ENABLE).toNat ch 1 = 1 ∧ c.st = .off ∧
       s.pd.power.okSince.isSome ∧ s.pd.power.ovHold = false
     let failed := (((c.setFld F.CTL_BRINGUP_FAIL_STEP step).setFld F.CTL_BRINGUP_HELD 0).event .hwFault 12 step none argNone).chanFault .hwFault
     let ends (d : Chan) := ∃ t, exec well s = .next t.recap ∧ ActsOn s t ch d
     (released → ∃ u, exec (.channelRelease ch) s = .next u ∧ (u.chan ch).st = .bringup ∧ (u.chan ch).fld F.CTL_BRINGUP_STEP = 1 ∧ u.cell = s.cell) ∧
     (¬ released → exec (.channelRelease ch) s = .next s) ∧
     (¬ inStep → exec done s = .next s ∧ exec (.bringupStepTimeout ch) s = .next s) ∧
     (inStep →
       (∀ i ∈ [Instr.bringupStepDone ch false bt br meas hold, .bringupStepTimeout ch],
         (step ≠ 3 → ∃ t, exec i s = .next t.recap ∧ ActsOn s t ch failed ∧ (t.recap.chan ch).st = .faulted) ∧
         (step = 3 → ∃ u, exec i s = .next u ∧ (u.chan ch).st = .faulted ∧ (u.chan ch).linkLost = true ∧ u.pd.fld F.PD_STATUS_LINK_LOST = 1 ∧ u.cell = s.cell)) ∧
       (step = 2 → ends (((c.setFld F.CLK_STATUS_PLL_LOCK 1).setFld F.CLK_STATUS_REF_PRESENT 1).nextStep)) ∧
       (step = 3 → ends ({ c with linkLost := false } : Chan).nextStep) ∧
       (step = 4 → slice meas 0 32 = slice s.pd.fwHeader 52 32 → ends ({ c with measured := slice meas 0 32 } : Chan).nextStep) ∧
       (step = 4 → slice meas 0 32 ≠ slice s.pd.fwHeader 52 32 → s.response 4 = 0 → s.pd.locked = false → ∃ u, exec well s = .next u ∧
         (u.chan ch).st = .faulted ∧ u.pd.fld (alarmFlag 4) = 1) ∧
       (step = 5 → ends ((c.setFld F.HBM_STATUS_STACK_UP 7).nextStep)) ∧
       (step = 6 →
         (let rec0 := slice s.pd.dmapBytes 0 ((mapRecordLen s.pd.dmapBytes dmapSize).getD 0)
          (mapRecordOk true rec0 = false → ∃ u, exec well s = .next u ∧ (u.chan ch).st = .faulted) ∧
          (mapRecordOk true rec0 = true → exec well s = .next
            ((s.noteMap s.pd.mapRead).onChan ch (fun c => (c.compose s.pd.mapRead.records).nextStep)).recap))) ∧
       (step = 7 → ends (c.stepBist bt br)) ∧
       (step = 8 → exec well s = .next ((s.recordMap ch 1).onChan ch Chan.nextStep).recap) ∧
       (step = 9 → ends (((c.setFld F.TH_DUTY_HOLD (min 65535 (hold * 103 / 100))).setFld F.CTL_BRINGUP_HELD
         (bits (s.pd.reg R.PD_CH_HOLD).toNat ch 1)).nextStep)) ∧
       (step = 10 → ends ((c.becomesReady (s.moduleCauses + if c.linkLost then 16 else 0) s.pd.flash.modid s.pd.flash.fm).nextStep) ∧
         (s.causeSet 1 = false → s.capCause = false → ∃ u, exec well s = .next u ∧ ((u.chan ch).st = .ready ∨ (u.chan ch).st = .frozen) ∧
           ∀ m, s.pd.flash.modid = some m → (u.chan ch).node = m * 8 + c.idx)) ∧
       (step < 2 ∨ 10 < step → ends c.nextStep)) ∧
     (c.down = true ∨ c.clocked = false → Acts (.pllUnlock ch false) s ch c) ∧
     (c.down = false → c.clocked = true → Acts (.pllUnlock ch false) s ch ((((c.setFld F.CLK_STATUS_PLL_LOCK 0).setFld
         F.CLK_STATUS_PLL_UNLOCK_SEEN 1).event .hwFault 1 0 none (argFld F.CLK_STATUS_PLL_UNLOCK_SEEN)).chanFault .hwFault) ∧
       ∃ u, exec (.pllUnlock ch false) s = .next u ∧ (u.chan ch).st = .faulted) ∧
     (∃ u, exec (.pllUnlock ch true) s = .next u ∧ u.cell = s.cell ∧ ∀ k < 8, (s.chan k).down = false → (u.chan k).st = .faulted ∧
       (u.chan k).fld F.CLK_STATUS_REF_PRESENT = 0) ∧
     (c.st = .bringup ∨ c.st = .ready ∨ c.st = .running ∨ c.st = .frozen → Acts (.uncorrectableControllerError ch) s ch
         ((c.event .hwFault 0 0 none argNone).chanFault .hwFault) ∧
       ∃ u, exec (.uncorrectableControllerError ch) s = .next u ∧ (u.chan ch).st = .faulted) ∧
     (c.st = .off ∨ c.st = .locked ∨ c.st = .faulted → Acts (.uncorrectableControllerError ch) s ch c) ∧
     (c.linkUp = true → ∃ u, exec (.controllerLinkLost ch) s = .next u ∧ (u.chan ch).linkLost = true ∧ u.pd.fld F.PD_STATUS_LINK_LOST = 1 ∧
       (c.st = .ready ∨ c.st = .running → (u.chan ch).st = .frozen ∧ bits (u.chan ch).freeze 4 1 = 1)) ∧
     (c.linkUp = false → exec (.controllerLinkLost ch) s = .next s) ∧
     (c.linkLost = false → exec (.controllerLinkReturn ch) s = .next s) ∧
     (c.linkLost = true → ∃ t, exec (.controllerLinkReturn ch) s = .next t.recap ∧ ActsOn s t ch (({ c with linkLost := false } : Chan).thawBy 4)))

/-- R428-R430, R436: an armed mesh, glitch or seal condition raises its flag, once while a mesh condition lasts; under ERASE_KEYS the module locks: no
session, key or powered channel is left. Without power to the monitors, a mesh or glitch condition changes nothing, and a seal breach is only counted
and logged by the cell. R432, R433, R436, R438-R440: the cell counts energy and writes each Wh; a power loss keeps a complete write; a report brings
the cell's figures to the registers, and a breach not heard of is reported first; a silent cell's link is down; each interval a channel's account
takes its energy, none of it lost. Where no monitor is powered, a report and a silent link change nothing (log entry 69). -/
def Obligations.AlarmsAndTheCell : Prop :=
  ((∀ (s : State),
    (s.pd.armed = false ∨ s.pd.meshOpen = true → exec .meshAlarm s = .next s) ∧
    (s.pd.armed = false → exec .glitch s = .next s) ∧
    (s.pd.armed = true → s.pd.locked = false →
      (s.pd.meshOpen = false → s.response 0 ≤ 1 → ∃ u, exec .meshAlarm s = .next u ∧ u.pd.fld (alarmFlag 0) = 1 ∧ u.pd.meshOpen = true ∧ u.pd.locked = false ∧
        u.cell = s.cell) ∧
      (s.pd.meshOpen = false → 2 ≤ s.response 0 → ∃ u, exec .meshAlarm s = .next u ∧ u.pd.locked = true ∧ u.pd.sessions = [] ∧ u.pd.keys = [] ∧
        (∀ p ∈ u.chans, p.2.st = .locked) ∧ u.cell = s.cell) ∧
      (s.response 2 = 0 → ∃ u, exec .glitch s = .next u ∧ u.pd.fld (alarmFlag 2) = 1 ∧ u.chans = s.chans) ∧
      (s.response 2 = 1 → ∃ u, exec .glitch s = .next u ∧ u.pd.fld (alarmFlag 2) = 1 ∧
        ∀ k < 8, (s.chan k).st = .ready ∨ (s.chan k).st = .running → (u.chan k).st = .frozen ∧ bits (u.chan k).freeze 5 1 = 1) ∧
      (2 ≤ s.response 2 → ∃ u, exec .glitch s = .next u ∧ u.pd.locked = true ∧ u.pd.keys = [] ∧ ∀ p ∈ u.chans, p.2.st = .locked)) ∧
    (∃ u, exec .sealBreach s = .next u ∧ u.cell.broken = true ∧ u.cell.breachN = s.cell.breachN + 1 ∧ u.cell.breaches.length ≤ 64 ∧
      u.cell.counts = s.cell.counts ∧
      (s.cell.link = false ∨ s.pd.armed = false → u.pd = s.pd ∧ u.chans = s.chans) ∧
      (s.cell.link = true → s.pd.armed = true → s.pd.locked = false → s.response 1 ≤ 1 → u.pd.fld F.MET_STATUS_BREACH = 1))) ∧
   (∀ (mwh : List Nat) (cycles : List (Nat × Nat × Nat)) (s : State),
    (let counts := (List.range 9).map (fun i => (s.cell.counts.getD i 0 + mwh.getD i 0) % 2 ^ 64)
     (s.cell.nv.getD 0 0 + 1000 ≤ counts.getD 0 0 → exec (.cellEnergySample mwh) s = .next { s with cell := { s.cell with counts := counts, nv := counts, torn := false } }) ∧
     (counts.getD 0 0 < s.cell.nv.getD 0 0 + 1000 → exec (.cellEnergySample mwh) s = .next { s with cell := { s.cell with counts := counts } }) ∧
     exec (.cellPowerLoss true) s = .next { s with cell := { s.cell with nv := s.cell.counts, torn := false } } ∧
     exec (.cellPowerLoss false) s = .next { s with cell := { s.cell with torn := true } } ∧
     (s.pd.armed = false → exec .cellReport s = .next s) ∧
     (s.pd.armed = true → s.pd.fld F.MET_BREACHES_BREACHES = s.cell.breachN % 65536 → ∃ u, exec .cellReport s = .next u ∧ u.cell = { s.cell with link := true } ∧
       u.chans = s.chans ∧ ∀ k < 9, u.pd.bank.get64 pdRegs (R.MET_E_LO + 8 * k) = s.cell.counts.getD k 0 % 2 ^ 64) ∧
     (s.pd.armed = true → s.pd.fld F.MET_BREACHES_BREACHES ≠ s.cell.breachN % 65536 →
       exec .cellReport s = .next ({ s with cell := { s.cell with link := true } } : State).breachHeard.takeCell) ∧
     (s.pd.armed = true → s.cell.link = true → ∃ u, exec .cellLinkTimeout s = .next u ∧ u.cell = { s.cell with link := false } ∧
       u.pd.fld F.MET_STATUS_LINK_ERR = 1 ∧ u.chans = s.chans) ∧
     (s.pd.armed = false ∨ s.cell.link = false → exec .cellLinkTimeout s = .next s) ∧
     (∃ u, exec (.apportion cycles) s = .next u ∧ u.chans = s.chans ∧ u.cell = s.cell ∧ ∀ c < 8, (s.chan c).down = false →
       (let a := mapGet (fun _ => Apport.reset) s.pd.apport c
        let b := mapGet (fun _ => Apport.reset) u.pd.apport c
        let sum := fun (x : Apport) => x.unassigned + x.carry + (groveNums.map (fun g => mapGet (fun _ => 0) x.groves g)).sum
        b.last = s.pd.branch c ∧ sum b = sum a + (s.pd.branch c - a.last))))))
end

