-- ==== Sys2Proof/Laws/Maps.lean ====
section
/-! SUPPORT. Sparse maps and byte memories: a read after a write, and the canonical form that every write keeps. -/

namespace Sys2Proof.Machine

/-! ## Reads after writes -/

theorem mapGet_mapPut_same {α : Type} (d : Nat → α) (m : NMap α) (k : Nat) (v : α) : mapGet d (mapPut m k v) k = v := by
  induction m with
  | nil => simp [mapPut, mapGet]
  | cons p t ih =>
    obtain ⟨j, w⟩ := p
    by_cases h1 : k < j
    · simp [mapPut, mapGet, h1]
    · by_cases h2 : k = j
      · subst h2; simp [mapPut, mapGet]
      · simp [mapPut, mapGet, h1, h2, ih, Ne.symm h2]

theorem mapGet_mapPut_ne {α : Type} (d : Nat → α) (m : NMap α) (k j : Nat) (v : α) (h : j ≠ k) :
    mapGet d (mapPut m k v) j = mapGet d m j := by
  induction m with
  | nil => simp [mapPut, mapGet, Ne.symm h]
  | cons p t ih =>
    obtain ⟨i, w⟩ := p
    by_cases h1 : k < i
    · simp [mapPut, mapGet, h1, Ne.symm h]
    · by_cases h2 : k = i
      · subst h2; simp [mapPut, mapGet, Ne.symm h]
      · simp only [mapPut, h1, h2, if_false, mapGet, ih]

@[simp] theorem mapGet_mapPut {α : Type} (d : Nat → α) (m : NMap α) (k j : Nat) (v : α) :
    mapGet d (mapPut m k v) j = if j = k then v else mapGet d m j := by
  split
  · next h => subst h; exact mapGet_mapPut_same d m j v
  · next h => exact mapGet_mapPut_ne d m k j v h

/-- The later of two writes at one key stands. -/
@[simp] theorem mapPut_mapPut {α : Type} (m : NMap α) (k : Nat) (a b : α) : mapPut (mapPut m k a) k b = mapPut m k b := by
  induction m with
  | nil => simp [mapPut]
  | cons p t ih =>
    obtain ⟨j, w⟩ := p
    by_cases h1 : k < j
    · simp [mapPut, h1]
    · by_cases h2 : k = j
      · subst h2; simp [mapPut]
      · simp [mapPut, h1, h2, ih]

theorem mapGet_mapDel {α : Type} (d : Nat → α) (m : NMap α) (k j : Nat) :
    mapGet d (mapDel m k) j = if j = k then d j else mapGet d m j := by
  induction m with
  | nil => simp [mapDel, mapGet]
  | cons p t ih =>
    obtain ⟨i, w⟩ := p
    have hd : mapDel ((i, w) :: t) k = if i ≠ k then (i, w) :: mapDel t k else mapDel t k := by
      by_cases h : i = k <;> simp [mapDel, h]
    rw [hd]
    by_cases h : i = k
    · subst h
      simp only [ne_eq, not_true_eq_false, if_false, ih, mapGet]
      by_cases h2 : j = i
      · simp [h2]
      · simp [h2, Ne.symm h2]
    · simp only [ne_eq, h, not_false_eq_true, if_true, mapGet, ih]
      by_cases h2 : i = j
      · subst h2; simp [h]
      · simp [h2]

@[simp] theorem mapGet_mapSet {α : Type} [DecidableEq α] (d : Nat → α) (m : NMap α) (k j : Nat) (v : α) :
    mapGet d (mapSet d m k v) j = if j = k then v else mapGet d m j := by
  unfold mapSet
  split
  · next h =>
    rw [mapGet_mapDel]
    by_cases h2 : j = k
    · subst h2; simp [h]
    · simp [h2]
  · simp

/-! ## The canonical form -/

/-- Every key is above `k`. -/
def keysAbove {α : Type} (k : Nat) (m : NMap α) : Prop := ∀ p ∈ m, k < p.1

theorem mapSorted_cons {α : Type} (j : Nat) (w : α) (t : NMap α) :
    mapSorted ((j, w) :: t) = true ↔ keysAbove j t ∧ mapSorted t = true := by
  induction t generalizing j w with
  | nil => simp [mapSorted, keysAbove]
  | cons p t ih =>
    obtain ⟨k, v⟩ := p
    simp only [mapSorted, Bool.and_eq_true, decide_eq_true_eq]
    constructor
    · rintro ⟨h, hs⟩
      refine ⟨?_, hs⟩
      intro q hq
      rcases List.mem_cons.1 hq with rfl | hq
      · exact h
      · exact lt_trans h (((ih k v).1 hs).1 q hq)
    · rintro ⟨ha, hs⟩
      exact ⟨ha (k, v) (List.mem_cons_self ..), hs⟩

theorem keysAbove_mapPut {α : Type} (b k : Nat) (v : α) (m : NMap α) (h : keysAbove b m) (hk : b < k) : keysAbove b (mapPut m k v) := by
  induction m with
  | nil => intro p hp; simp [mapPut] at hp; subst hp; exact hk
  | cons q t ih =>
    obtain ⟨j, w⟩ := q
    have ht : keysAbove b t := fun p hp => h p (List.mem_cons_of_mem _ hp)
    have hj : b < j := h (j, w) (List.mem_cons_self ..)
    intro p hp
    simp only [mapPut] at hp
    split at hp
    · rcases List.mem_cons.1 hp with rfl | hp
      · exact hk
      · exact h p hp
    · split at hp
      · rcases List.mem_cons.1 hp with rfl | hp
        · exact hk
        · exact ht p hp
      · rcases List.mem_cons.1 hp with rfl | hp
        · exact hj
        · exact ih ht p hp

theorem mapSorted_mapPut {α : Type} (m : NMap α) (k : Nat) (v : α) (h : mapSorted m = true) : mapSorted (mapPut m k v) = true := by
  induction m with
  | nil => simp [mapPut, mapSorted]
  | cons q t ih =>
    obtain ⟨j, w⟩ := q
    obtain ⟨ha, hs⟩ := (mapSorted_cons j w t).1 h
    simp only [mapPut]
    split
    · next h1 =>
      refine (mapSorted_cons k v _).2 ⟨?_, h⟩
      intro p hp
      rcases List.mem_cons.1 hp with rfl | hp
      · exact h1
      · exact lt_trans h1 (ha p hp)
    · split
      · next h1 h2 => subst h2; exact (mapSorted_cons k v t).2 ⟨ha, hs⟩
      · next h1 h2 =>
        exact (mapSorted_cons j w _).2 ⟨keysAbove_mapPut j k v t ha (by omega), ih hs⟩

theorem mapSorted_filter {α : Type} (m : NMap α) (p : Nat × α → Bool) (h : mapSorted m = true) : mapSorted (m.filter p) = true := by
  induction m with
  | nil => simp [mapSorted]
  | cons q t ih =>
    obtain ⟨j, w⟩ := q
    obtain ⟨ha, hs⟩ := (mapSorted_cons j w t).1 h
    rw [List.filter_cons]
    split
    · exact (mapSorted_cons j w _).2 ⟨fun x hx => ha x (List.mem_of_mem_filter hx), ih hs⟩
    · exact ih hs

theorem mem_mapPut {α : Type} (m : NMap α) (k : Nat) (v : α) (p : Nat × α) (h : p ∈ mapPut m k v) : p = (k, v) ∨ p ∈ m := by
  induction m with
  | nil => simp [mapPut] at h; exact .inl h
  | cons q t ih =>
    obtain ⟨j, w⟩ := q
    simp only [mapPut] at h
    split at h
    · rcases List.mem_cons.1 h with h | h
      · exact .inl h
      · exact .inr h
    · split at h
      · rcases List.mem_cons.1 h with h | h
        · exact .inl h
        · exact .inr (List.mem_cons_of_mem _ h)
      · rcases List.mem_cons.1 h with h | h
        · exact .inr (h ▸ List.mem_cons_self ..)
        · rcases ih h with h | h
          · exact .inl h
          · exact .inr (List.mem_cons_of_mem _ h)

/-- A write keeps the canonical form: rising keys, and no entry that equals what an unlisted key reads as. -/
theorem mapSet_wf {α : Type} [DecidableEq α] (d : Nat → α) (m : NMap α) (k : Nat) (v : α) (h : mapWf d m = true) :
    mapWf d (mapSet d m k v) = true := by
  simp only [mapWf, Bool.and_eq_true, List.all_eq_true, decide_eq_true_eq] at h ⊢
  unfold mapSet
  split
  · exact ⟨mapSorted_filter m _ h.1, fun p hp => h.2 p (List.mem_of_mem_filter hp)⟩
  · next hv =>
    refine ⟨mapSorted_mapPut m k v h.1, fun p hp => ?_⟩
    rcases mem_mapPut m k v p hp with rfl | hp
    · exact hv
    · exact h.2 p hp

/-! ## Byte memories -/

theorem cellByte_cellPut (m : List Host.Cell) (a x : Nat) (b : Byte) : cellByte (cellPut m a b) x = if x = a then b else cellByte m x := by
  simp [cellByte, cellPut]

theorem cellPut_wf (m : List Host.Cell) (a : Nat) (b : Byte) (h : cellsWf m = true) : cellsWf (cellPut m a b) = true :=
  mapSet_wf _ m a b h

/-- Storing a byte string keeps the canonical form. -/
theorem cellWrite_wf (m : List Host.Cell) (a : Nat) (bs : Bytes) (h : cellsWf m = true) : cellsWf (cellWrite m a bs) = true := by
  induction bs generalizing m a with
  | nil => exact h
  | cons b t ih => exact ih _ _ (cellPut_wf m a b h)

theorem cellSetBit_wf (m : List Host.Cell) (a bit : Nat) (h : cellsWf m = true) : cellsWf (cellSetBit m a bit) = true :=
  cellPut_wf m _ _ h

/-- A byte after a store: the stored byte inside the extent, what it was outside. -/
theorem cellByte_cellWrite (m : List Host.Cell) (a : Nat) (bs : Bytes) (x : Nat) :
    cellByte (cellWrite m a bs) x = if a ≤ x ∧ x < a + bs.length then bs.getD (x - a) 0 else cellByte m x := by
  induction bs generalizing m a with
  | nil =>
    have h : ¬(a ≤ x ∧ x < a + ([] : Bytes).length) := by simp only [List.length_nil]; omega
    rw [if_neg h]; rfl
  | cons b t ih =>
    simp only [cellWrite, ih, cellByte_cellPut, List.length_cons]
    by_cases h1 : x = a
    · subst h1
      have h2 : ¬(x + 1 ≤ x ∧ x < x + 1 + t.length) := by omega
      have h3 : x ≤ x ∧ x < x + (t.length + 1) := by omega
      rw [if_neg h2, if_pos h3, if_pos rfl]; simp
    · by_cases h2 : a + 1 ≤ x ∧ x < a + 1 + t.length
      · have h3 : a ≤ x ∧ x < a + (t.length + 1) := by omega
        rw [if_pos h2, if_pos h3]
        obtain ⟨n, hn⟩ : ∃ n, x - a = n + 1 := ⟨x - a - 1, by omega⟩
        have hn2 : x - (a + 1) = n := by omega
        rw [hn, hn2]; simp
      · have h3 : ¬(a ≤ x ∧ x < a + (t.length + 1)) := by omega
        rw [if_neg h2, if_neg h3, if_neg h1]

theorem cellByte_cellWrite_out (m : List Host.Cell) (a : Nat) (bs : Bytes) (x : Nat) (h : x < a ∨ a + bs.length ≤ x) :
    cellByte (cellWrite m a bs) x = cellByte m x := by
  rw [cellByte_cellWrite, if_neg (by omega)]

@[simp] theorem cellRead_length (m : List Host.Cell) (a n : Nat) : (cellRead m a n).length = n := by simp [cellRead]

/-- Reading back what was stored. -/
theorem cellRead_cellWrite (m : List Host.Cell) (a : Nat) (bs : Bytes) : cellRead (cellWrite m a bs) a bs.length = bs := by
  apply List.ext_getElem
  · simp
  · intro i h1 h2
    simp only [cellRead, List.getElem_map, List.getElem_range, cellByte_cellWrite]
    rw [if_pos (by omega)]
    simp [h2]

/-- A read of an extent that a store does not meet. -/
theorem cellRead_cellWrite_out (m : List Host.Cell) (a : Nat) (bs : Bytes) (b n : Nat) (h : b + n ≤ a ∨ a + bs.length ≤ b) :
    cellRead (cellWrite m a bs) b n = cellRead m b n := by
  unfold cellRead
  apply List.map_congr_left
  intro i hi
  have := List.mem_range.1 hi
  exact cellByte_cellWrite_out m a bs (b + i) (by omega)

end Sys2Proof.Machine
end

