-- ==== Sys2Proof/Laws/State.lean ====
section
/-! SUPPORT. What each update of a part of the state leaves of the other parts: one lemma per field per update, so that no
proof unfolds a record update. -/

namespace Sys2Proof.Machine


/-! ## Parts of a channel -/

@[simp] theorem Chan.setTile_idx (c : Chan) (i : Nat) (t : Tile) : (c.setTile i t).idx = c.idx := rfl
@[simp] theorem Chan.setTile_st (c : Chan) (i : Nat) (t : Tile) : (c.setTile i t).st = c.st := rfl
@[simp] theorem Chan.setTile_freeze (c : Chan) (i : Nat) (t : Tile) : (c.setTile i t).freeze = c.freeze := rfl
@[simp] theorem Chan.setTile_node (c : Chan) (i : Nat) (t : Tile) : (c.setTile i t).node = c.node := rfl
@[simp] theorem Chan.setTile_fm (c : Chan) (i : Nat) (t : Tile) : (c.setTile i t).fm = c.fm := rfl
@[simp] theorem Chan.setTile_bank (c : Chan) (i : Nat) (t : Tile) : (c.setTile i t).bank = c.bank := rfl
@[simp] theorem Chan.setTile_log (c : Chan) (i : Nat) (t : Tile) : (c.setTile i t).log = c.log := rfl
@[simp] theorem Chan.setTile_evtSeq (c : Chan) (i : Nat) (t : Tile) : (c.setTile i t).evtSeq = c.evtSeq := rfl
@[simp] theorem Chan.setTile_queues (c : Chan) (i : Nat) (t : Tile) : (c.setTile i t).queues = c.queues := rfl
@[simp] theorem Chan.setTile_outbox (c : Chan) (i : Nat) (t : Tile) : (c.setTile i t).outbox = c.outbox := rfl
@[simp] theorem Chan.setTile_undelivered (c : Chan) (i : Nat) (t : Tile) : (c.setTile i t).undelivered = c.undelivered := rfl
@[simp] theorem Chan.setTile_flits (c : Chan) (i : Nat) (t : Tile) : (c.setTile i t).flits = c.flits := rfl
@[simp] theorem Chan.setTile_due (c : Chan) (i : Nat) (t : Tile) : (c.setTile i t).due = c.due := rfl
@[simp] theorem Chan.setTile_hbm (c : Chan) (i : Nat) (t : Tile) : (c.setTile i t).hbm = c.hbm := rfl
@[simp] theorem Chan.setTile_poison (c : Chan) (i : Nat) (t : Tile) : (c.setTile i t).poison = c.poison := rfl
@[simp] theorem Chan.setTile_groves (c : Chan) (i : Nat) (t : Tile) : (c.setTile i t).groves = c.groves := rfl
@[simp] theorem Chan.setTile_links (c : Chan) (i : Nat) (t : Tile) : (c.setTile i t).links = c.links := rfl
@[simp] theorem Chan.setTile_inbox (c : Chan) (i : Nat) (t : Tile) : (c.setTile i t).inbox = c.inbox := rfl
@[simp] theorem Chan.setTile_tables (c : Chan) (i : Nat) (t : Tile) : (c.setTile i t).tables = c.tables := rfl
@[simp] theorem Chan.setTile_targets (c : Chan) (i : Nat) (t : Tile) : (c.setTile i t).targets = c.targets := rfl
@[simp] theorem Chan.setTile_combs (c : Chan) (i : Nat) (t : Tile) : (c.setTile i t).combs = c.combs := rfl
@[simp] theorem Chan.setTile_redTx (c : Chan) (i : Nat) (t : Tile) : (c.setTile i t).redTx = c.redTx := rfl
@[simp] theorem Chan.setTile_redRx (c : Chan) (i : Nat) (t : Tile) : (c.setTile i t).redRx = c.redRx := rfl
@[simp] theorem Chan.setTile_progs (c : Chan) (i : Nat) (t : Tile) : (c.setTile i t).progs = c.progs := rfl
@[simp] theorem Chan.setTile_linkLost (c : Chan) (i : Nat) (t : Tile) : (c.setTile i t).linkLost = c.linkLost := rfl
@[simp] theorem Chan.setTile_rows (c : Chan) (i : Nat) (t : Tile) : (c.setTile i t).rows = c.rows := rfl
@[simp] theorem Chan.setTile_knots (c : Chan) (i : Nat) (t : Tile) : (c.setTile i t).knots = c.knots := rfl
@[simp] theorem Chan.setTile_newKnots (c : Chan) (i : Nat) (t : Tile) : (c.setTile i t).newKnots = c.newKnots := rfl
@[simp] theorem Chan.setTile_bistBad (c : Chan) (i : Nat) (t : Tile) : (c.setTile i t).bistBad = c.bistBad := rfl
@[simp] theorem Chan.setTile_bistRtr (c : Chan) (i : Nat) (t : Tile) : (c.setTile i t).bistRtr = c.bistRtr := rfl
@[simp] theorem Chan.setTile_measured (c : Chan) (i : Nat) (t : Tile) : (c.setTile i t).measured = c.measured := rfl
@[simp] theorem Chan.setTile_power (c : Chan) (i : Nat) (t : Tile) : (c.setTile i t).power = c.power := rfl
@[simp] theorem Chan.setTile_scrubPos (c : Chan) (i : Nat) (t : Tile) : (c.setTile i t).scrubPos = c.scrubPos := rfl
@[simp] theorem Chan.setTile_scrubEnd (c : Chan) (i : Nat) (t : Tile) : (c.setTile i t).scrubEnd = c.scrubEnd := rfl
@[simp] theorem Chan.setTile_scrubQ (c : Chan) (i : Nat) (t : Tile) : (c.setTile i t).scrubQ = c.scrubQ := rfl
@[simp] theorem Chan.setTile_clearing (c : Chan) (i : Nat) (t : Tile) : (c.setTile i t).clearing = c.clearing := rfl
@[simp] theorem Chan.setTile_dropped (c : Chan) (i : Nat) (t : Tile) : (c.setTile i t).dropped = c.dropped := rfl
@[simp] theorem Chan.setTile_building (c : Chan) (i : Nat) (t : Tile) : (c.setTile i t).building = c.building := rfl
@[simp] theorem Chan.setTile_applyWait (c : Chan) (i : Nat) (t : Tile) : (c.setTile i t).applyWait = c.applyWait := rfl
@[simp] theorem Chan.setTile_free (c : Chan) (i : Nat) (t : Tile) : (c.setTile i t).free = c.free := rfl
@[simp] theorem Chan.setGrove_idx (c : Chan) (g : Nat) (v : Grove) : (c.setGrove g v).idx = c.idx := rfl
@[simp] theorem Chan.setGrove_st (c : Chan) (g : Nat) (v : Grove) : (c.setGrove g v).st = c.st := rfl
@[simp] theorem Chan.setGrove_freeze (c : Chan) (g : Nat) (v : Grove) : (c.setGrove g v).freeze = c.freeze := rfl
@[simp] theorem Chan.setGrove_node (c : Chan) (g : Nat) (v : Grove) : (c.setGrove g v).node = c.node := rfl
@[simp] theorem Chan.setGrove_fm (c : Chan) (g : Nat) (v : Grove) : (c.setGrove g v).fm = c.fm := rfl
@[simp] theorem Chan.setGrove_bank (c : Chan) (g : Nat) (v : Grove) : (c.setGrove g v).bank = c.bank := rfl
@[simp] theorem Chan.setGrove_log (c : Chan) (g : Nat) (v : Grove) : (c.setGrove g v).log = c.log := rfl
@[simp] theorem Chan.setGrove_evtSeq (c : Chan) (g : Nat) (v : Grove) : (c.setGrove g v).evtSeq = c.evtSeq := rfl
@[simp] theorem Chan.setGrove_queues (c : Chan) (g : Nat) (v : Grove) : (c.setGrove g v).queues = c.queues := rfl
@[simp] theorem Chan.setGrove_outbox (c : Chan) (g : Nat) (v : Grove) : (c.setGrove g v).outbox = c.outbox := rfl
@[simp] theorem Chan.setGrove_undelivered (c : Chan) (g : Nat) (v : Grove) : (c.setGrove g v).undelivered = c.undelivered := rfl
@[simp] theorem Chan.setGrove_tiles (c : Chan) (g : Nat) (v : Grove) : (c.setGrove g v).tiles = c.tiles := rfl
@[simp] theorem Chan.setGrove_flits (c : Chan) (g : Nat) (v : Grove) : (c.setGrove g v).flits = c.flits := rfl
@[simp] theorem Chan.setGrove_due (c : Chan) (g : Nat) (v : Grove) : (c.setGrove g v).due = c.due := rfl
@[simp] theorem Chan.setGrove_hbm (c : Chan) (g : Nat) (v : Grove) : (c.setGrove g v).hbm = c.hbm := rfl
@[simp] theorem Chan.setGrove_poison (c : Chan) (g : Nat) (v : Grove) : (c.setGrove g v).poison = c.poison := rfl
@[simp] theorem Chan.setGrove_links (c : Chan) (g : Nat) (v : Grove) : (c.setGrove g v).links = c.links := rfl
@[simp] theorem Chan.setGrove_inbox (c : Chan) (g : Nat) (v : Grove) : (c.setGrove g v).inbox = c.inbox := rfl
@[simp] theorem Chan.setGrove_tables (c : Chan) (g : Nat) (v : Grove) : (c.setGrove g v).tables = c.tables := rfl
@[simp] theorem Chan.setGrove_targets (c : Chan) (g : Nat) (v : Grove) : (c.setGrove g v).targets = c.targets := rfl
@[simp] theorem Chan.setGrove_combs (c : Chan) (g : Nat) (v : Grove) : (c.setGrove g v).combs = c.combs := rfl
@[simp] theorem Chan.setGrove_redTx (c : Chan) (g : Nat) (v : Grove) : (c.setGrove g v).redTx = c.redTx := rfl
@[simp] theorem Chan.setGrove_redRx (c : Chan) (g : Nat) (v : Grove) : (c.setGrove g v).redRx = c.redRx := rfl
@[simp] theorem Chan.setGrove_progs (c : Chan) (g : Nat) (v : Grove) : (c.setGrove g v).progs = c.progs := rfl
@[simp] theorem Chan.setGrove_linkLost (c : Chan) (g : Nat) (v : Grove) : (c.setGrove g v).linkLost = c.linkLost := rfl
@[simp] theorem Chan.setGrove_rows (c : Chan) (g : Nat) (v : Grove) : (c.setGrove g v).rows = c.rows := rfl
@[simp] theorem Chan.setGrove_knots (c : Chan) (g : Nat) (v : Grove) : (c.setGrove g v).knots = c.knots := rfl
@[simp] theorem Chan.setGrove_newKnots (c : Chan) (g : Nat) (v : Grove) : (c.setGrove g v).newKnots = c.newKnots := rfl
@[simp] theorem Chan.setGrove_bistBad (c : Chan) (g : Nat) (v : Grove) : (c.setGrove g v).bistBad = c.bistBad := rfl
@[simp] theorem Chan.setGrove_bistRtr (c : Chan) (g : Nat) (v : Grove) : (c.setGrove g v).bistRtr = c.bistRtr := rfl
@[simp] theorem Chan.setGrove_measured (c : Chan) (g : Nat) (v : Grove) : (c.setGrove g v).measured = c.measured := rfl
@[simp] theorem Chan.setGrove_power (c : Chan) (g : Nat) (v : Grove) : (c.setGrove g v).power = c.power := rfl
@[simp] theorem Chan.setGrove_scrubPos (c : Chan) (g : Nat) (v : Grove) : (c.setGrove g v).scrubPos = c.scrubPos := rfl
@[simp] theorem Chan.setGrove_scrubEnd (c : Chan) (g : Nat) (v : Grove) : (c.setGrove g v).scrubEnd = c.scrubEnd := rfl
@[simp] theorem Chan.setGrove_scrubQ (c : Chan) (g : Nat) (v : Grove) : (c.setGrove g v).scrubQ = c.scrubQ := rfl
@[simp] theorem Chan.setGrove_clearing (c : Chan) (g : Nat) (v : Grove) : (c.setGrove g v).clearing = c.clearing := rfl
@[simp] theorem Chan.setGrove_dropped (c : Chan) (g : Nat) (v : Grove) : (c.setGrove g v).dropped = c.dropped := rfl
@[simp] theorem Chan.setGrove_building (c : Chan) (g : Nat) (v : Grove) : (c.setGrove g v).building = c.building := rfl
@[simp] theorem Chan.setGrove_applyWait (c : Chan) (g : Nat) (v : Grove) : (c.setGrove g v).applyWait = c.applyWait := rfl
@[simp] theorem Chan.setGrove_free (c : Chan) (g : Nat) (v : Grove) : (c.setGrove g v).free = c.free := rfl
@[simp] theorem Chan.onGrove_idx (c : Chan) (g : Nat) (f : Grove → Grove) : (c.onGrove g f).idx = c.idx := rfl
@[simp] theorem Chan.onGrove_st (c : Chan) (g : Nat) (f : Grove → Grove) : (c.onGrove g f).st = c.st := rfl
@[simp] theorem Chan.onGrove_freeze (c : Chan) (g : Nat) (f : Grove → Grove) : (c.onGrove g f).freeze = c.freeze := rfl
@[simp] theorem Chan.onGrove_node (c : Chan) (g : Nat) (f : Grove → Grove) : (c.onGrove g f).node = c.node := rfl
@[simp] theorem Chan.onGrove_fm (c : Chan) (g : Nat) (f : Grove → Grove) : (c.onGrove g f).fm = c.fm := rfl
@[simp] theorem Chan.onGrove_bank (c : Chan) (g : Nat) (f : Grove → Grove) : (c.onGrove g f).bank = c.bank := rfl
@[simp] theorem Chan.onGrove_log (c : Chan) (g : Nat) (f : Grove → Grove) : (c.onGrove g f).log = c.log := rfl
@[simp] theorem Chan.onGrove_evtSeq (c : Chan) (g : Nat) (f : Grove → Grove) : (c.onGrove g f).evtSeq = c.evtSeq := rfl
@[simp] theorem Chan.onGrove_queues (c : Chan) (g : Nat) (f : Grove → Grove) : (c.onGrove g f).queues = c.queues := rfl
@[simp] theorem Chan.onGrove_outbox (c : Chan) (g : Nat) (f : Grove → Grove) : (c.onGrove g f).outbox = c.outbox := rfl
@[simp] theorem Chan.onGrove_undelivered (c : Chan) (g : Nat) (f : Grove → Grove) : (c.onGrove g f).undelivered = c.undelivered := rfl
@[simp] theorem Chan.onGrove_tiles (c : Chan) (g : Nat) (f : Grove → Grove) : (c.onGrove g f).tiles = c.tiles := rfl
@[simp] theorem Chan.onGrove_flits (c : Chan) (g : Nat) (f : Grove → Grove) : (c.onGrove g f).flits = c.flits := rfl
@[simp] theorem Chan.onGrove_due (c : Chan) (g : Nat) (f : Grove → Grove) : (c.onGrove g f).due = c.due := rfl
@[simp] theorem Chan.onGrove_hbm (c : Chan) (g : Nat) (f : Grove → Grove) : (c.onGrove g f).hbm = c.hbm := rfl
@[simp] theorem Chan.onGrove_poison (c : Chan) (g : Nat) (f : Grove → Grove) : (c.onGrove g f).poison = c.poison := rfl
@[simp] theorem Chan.onGrove_links (c : Chan) (g : Nat) (f : Grove → Grove) : (c.onGrove g f).links = c.links := rfl
@[simp] theorem Chan.onGrove_inbox (c : Chan) (g : Nat) (f : Grove → Grove) : (c.onGrove g f).inbox = c.inbox := rfl
@[simp] theorem Chan.onGrove_tables (c : Chan) (g : Nat) (f : Grove → Grove) : (c.onGrove g f).tables = c.tables := rfl
@[simp] theorem Chan.onGrove_targets (c : Chan) (g : Nat) (f : Grove → Grove) : (c.onGrove g f).targets = c.targets := rfl
@[simp] theorem Chan.onGrove_combs (c : Chan) (g : Nat) (f : Grove → Grove) : (c.onGrove g f).combs = c.combs := rfl
@[simp] theorem Chan.onGrove_redTx (c : Chan) (g : Nat) (f : Grove → Grove) : (c.onGrove g f).redTx = c.redTx := rfl
@[simp] theorem Chan.onGrove_redRx (c : Chan) (g : Nat) (f : Grove → Grove) : (c.onGrove g f).redRx = c.redRx := rfl
@[simp] theorem Chan.onGrove_progs (c : Chan) (g : Nat) (f : Grove → Grove) : (c.onGrove g f).progs = c.progs := rfl
@[simp] theorem Chan.onGrove_linkLost (c : Chan) (g : Nat) (f : Grove → Grove) : (c.onGrove g f).linkLost = c.linkLost := rfl
@[simp] theorem Chan.onGrove_rows (c : Chan) (g : Nat) (f : Grove → Grove) : (c.onGrove g f).rows = c.rows := rfl
@[simp] theorem Chan.onGrove_knots (c : Chan) (g : Nat) (f : Grove → Grove) : (c.onGrove g f).knots = c.knots := rfl
@[simp] theorem Chan.onGrove_newKnots (c : Chan) (g : Nat) (f : Grove → Grove) : (c.onGrove g f).newKnots = c.newKnots := rfl
@[simp] theorem Chan.onGrove_bistBad (c : Chan) (g : Nat) (f : Grove → Grove) : (c.onGrove g f).bistBad = c.bistBad := rfl
@[simp] theorem Chan.onGrove_bistRtr (c : Chan) (g : Nat) (f : Grove → Grove) : (c.onGrove g f).bistRtr = c.bistRtr := rfl
@[simp] theorem Chan.onGrove_measured (c : Chan) (g : Nat) (f : Grove → Grove) : (c.onGrove g f).measured = c.measured := rfl
@[simp] theorem Chan.onGrove_power (c : Chan) (g : Nat) (f : Grove → Grove) : (c.onGrove g f).power = c.power := rfl
@[simp] theorem Chan.onGrove_scrubPos (c : Chan) (g : Nat) (f : Grove → Grove) : (c.onGrove g f).scrubPos = c.scrubPos := rfl
@[simp] theorem Chan.onGrove_scrubEnd (c : Chan) (g : Nat) (f : Grove → Grove) : (c.onGrove g f).scrubEnd = c.scrubEnd := rfl
@[simp] theorem Chan.onGrove_scrubQ (c : Chan) (g : Nat) (f : Grove → Grove) : (c.onGrove g f).scrubQ = c.scrubQ := rfl
@[simp] theorem Chan.onGrove_clearing (c : Chan) (g : Nat) (f : Grove → Grove) : (c.onGrove g f).clearing = c.clearing := rfl
@[simp] theorem Chan.onGrove_dropped (c : Chan) (g : Nat) (f : Grove → Grove) : (c.onGrove g f).dropped = c.dropped := rfl
@[simp] theorem Chan.onGrove_building (c : Chan) (g : Nat) (f : Grove → Grove) : (c.onGrove g f).building = c.building := rfl
@[simp] theorem Chan.onGrove_applyWait (c : Chan) (g : Nat) (f : Grove → Grove) : (c.onGrove g f).applyWait = c.applyWait := rfl
@[simp] theorem Chan.onGrove_free (c : Chan) (g : Nat) (f : Grove → Grove) : (c.onGrove g f).free = c.free := rfl
@[simp] theorem Chan.setLink_idx (c : Chan) (i : Nat) (l : Link) : (c.setLink i l).idx = c.idx := rfl
@[simp] theorem Chan.setLink_st (c : Chan) (i : Nat) (l : Link) : (c.setLink i l).st = c.st := rfl
@[simp] theorem Chan.setLink_freeze (c : Chan) (i : Nat) (l : Link) : (c.setLink i l).freeze = c.freeze := rfl
@[simp] theorem Chan.setLink_node (c : Chan) (i : Nat) (l : Link) : (c.setLink i l).node = c.node := rfl
@[simp] theorem Chan.setLink_fm (c : Chan) (i : Nat) (l : Link) : (c.setLink i l).fm = c.fm := rfl
@[simp] theorem Chan.setLink_bank (c : Chan) (i : Nat) (l : Link) : (c.setLink i l).bank = c.bank := rfl
@[simp] theorem Chan.setLink_log (c : Chan) (i : Nat) (l : Link) : (c.setLink i l).log = c.log := rfl
@[simp] theorem Chan.setLink_evtSeq (c : Chan) (i : Nat) (l : Link) : (c.setLink i l).evtSeq = c.evtSeq := rfl
@[simp] theorem Chan.setLink_queues (c : Chan) (i : Nat) (l : Link) : (c.setLink i l).queues = c.queues := rfl
@[simp] theorem Chan.setLink_outbox (c : Chan) (i : Nat) (l : Link) : (c.setLink i l).outbox = c.outbox := rfl
@[simp] theorem Chan.setLink_undelivered (c : Chan) (i : Nat) (l : Link) : (c.setLink i l).undelivered = c.undelivered := rfl
@[simp] theorem Chan.setLink_tiles (c : Chan) (i : Nat) (l : Link) : (c.setLink i l).tiles = c.tiles := rfl
@[simp] theorem Chan.setLink_flits (c : Chan) (i : Nat) (l : Link) : (c.setLink i l).flits = c.flits := rfl
@[simp] theorem Chan.setLink_due (c : Chan) (i : Nat) (l : Link) : (c.setLink i l).due = c.due := rfl
@[simp] theorem Chan.setLink_hbm (c : Chan) (i : Nat) (l : Link) : (c.setLink i l).hbm = c.hbm := rfl
@[simp] theorem Chan.setLink_poison (c : Chan) (i : Nat) (l : Link) : (c.setLink i l).poison = c.poison := rfl
@[simp] theorem Chan.setLink_groves (c : Chan) (i : Nat) (l : Link) : (c.setLink i l).groves = c.groves := rfl
@[simp] theorem Chan.setLink_inbox (c : Chan) (i : Nat) (l : Link) : (c.setLink i l).inbox = c.inbox := rfl
@[simp] theorem Chan.setLink_tables (c : Chan) (i : Nat) (l : Link) : (c.setLink i l).tables = c.tables := rfl
@[simp] theorem Chan.setLink_targets (c : Chan) (i : Nat) (l : Link) : (c.setLink i l).targets = c.targets := rfl
@[simp] theorem Chan.setLink_combs (c : Chan) (i : Nat) (l : Link) : (c.setLink i l).combs = c.combs := rfl
@[simp] theorem Chan.setLink_redTx (c : Chan) (i : Nat) (l : Link) : (c.setLink i l).redTx = c.redTx := rfl
@[simp] theorem Chan.setLink_redRx (c : Chan) (i : Nat) (l : Link) : (c.setLink i l).redRx = c.redRx := rfl
@[simp] theorem Chan.setLink_progs (c : Chan) (i : Nat) (l : Link) : (c.setLink i l).progs = c.progs := rfl
@[simp] theorem Chan.setLink_linkLost (c : Chan) (i : Nat) (l : Link) : (c.setLink i l).linkLost = c.linkLost := rfl
@[simp] theorem Chan.setLink_rows (c : Chan) (i : Nat) (l : Link) : (c.setLink i l).rows = c.rows := rfl
@[simp] theorem Chan.setLink_knots (c : Chan) (i : Nat) (l : Link) : (c.setLink i l).knots = c.knots := rfl
@[simp] theorem Chan.setLink_newKnots (c : Chan) (i : Nat) (l : Link) : (c.setLink i l).newKnots = c.newKnots := rfl
@[simp] theorem Chan.setLink_bistBad (c : Chan) (i : Nat) (l : Link) : (c.setLink i l).bistBad = c.bistBad := rfl
@[simp] theorem Chan.setLink_bistRtr (c : Chan) (i : Nat) (l : Link) : (c.setLink i l).bistRtr = c.bistRtr := rfl
@[simp] theorem Chan.setLink_measured (c : Chan) (i : Nat) (l : Link) : (c.setLink i l).measured = c.measured := rfl
@[simp] theorem Chan.setLink_power (c : Chan) (i : Nat) (l : Link) : (c.setLink i l).power = c.power := rfl
@[simp] theorem Chan.setLink_scrubPos (c : Chan) (i : Nat) (l : Link) : (c.setLink i l).scrubPos = c.scrubPos := rfl
@[simp] theorem Chan.setLink_scrubEnd (c : Chan) (i : Nat) (l : Link) : (c.setLink i l).scrubEnd = c.scrubEnd := rfl
@[simp] theorem Chan.setLink_scrubQ (c : Chan) (i : Nat) (l : Link) : (c.setLink i l).scrubQ = c.scrubQ := rfl
@[simp] theorem Chan.setLink_clearing (c : Chan) (i : Nat) (l : Link) : (c.setLink i l).clearing = c.clearing := rfl
@[simp] theorem Chan.setLink_dropped (c : Chan) (i : Nat) (l : Link) : (c.setLink i l).dropped = c.dropped := rfl
@[simp] theorem Chan.setLink_building (c : Chan) (i : Nat) (l : Link) : (c.setLink i l).building = c.building := rfl
@[simp] theorem Chan.setLink_applyWait (c : Chan) (i : Nat) (l : Link) : (c.setLink i l).applyWait = c.applyWait := rfl
@[simp] theorem Chan.setLink_free (c : Chan) (i : Nat) (l : Link) : (c.setLink i l).free = c.free := rfl
@[simp] theorem Chan.setQueue_idx (c : Chan) (q : Nat) (v : Queue) : (c.setQueue q v).idx = c.idx := rfl
@[simp] theorem Chan.setQueue_st (c : Chan) (q : Nat) (v : Queue) : (c.setQueue q v).st = c.st := rfl
@[simp] theorem Chan.setQueue_freeze (c : Chan) (q : Nat) (v : Queue) : (c.setQueue q v).freeze = c.freeze := rfl
@[simp] theorem Chan.setQueue_node (c : Chan) (q : Nat) (v : Queue) : (c.setQueue q v).node = c.node := rfl
@[simp] theorem Chan.setQueue_fm (c : Chan) (q : Nat) (v : Queue) : (c.setQueue q v).fm = c.fm := rfl
@[simp] theorem Chan.setQueue_bank (c : Chan) (q : Nat) (v : Queue) : (c.setQueue q v).bank = c.bank := rfl
@[simp] theorem Chan.setQueue_log (c : Chan) (q : Nat) (v : Queue) : (c.setQueue q v).log = c.log := rfl
@[simp] theorem Chan.setQueue_evtSeq (c : Chan) (q : Nat) (v : Queue) : (c.setQueue q v).evtSeq = c.evtSeq := rfl
@[simp] theorem Chan.setQueue_outbox (c : Chan) (q : Nat) (v : Queue) : (c.setQueue q v).outbox = c.outbox := rfl
@[simp] theorem Chan.setQueue_undelivered (c : Chan) (q : Nat) (v : Queue) : (c.setQueue q v).undelivered = c.undelivered := rfl
@[simp] theorem Chan.setQueue_tiles (c : Chan) (q : Nat) (v : Queue) : (c.setQueue q v).tiles = c.tiles := rfl
@[simp] theorem Chan.setQueue_flits (c : Chan) (q : Nat) (v : Queue) : (c.setQueue q v).flits = c.flits := rfl
@[simp] theorem Chan.setQueue_due (c : Chan) (q : Nat) (v : Queue) : (c.setQueue q v).due = c.due := rfl
@[simp] theorem Chan.setQueue_hbm (c : Chan) (q : Nat) (v : Queue) : (c.setQueue q v).hbm = c.hbm := rfl
@[simp] theorem Chan.setQueue_poison (c : Chan) (q : Nat) (v : Queue) : (c.setQueue q v).poison = c.poison := rfl
@[simp] theorem Chan.setQueue_groves (c : Chan) (q : Nat) (v : Queue) : (c.setQueue q v).groves = c.groves := rfl
@[simp] theorem Chan.setQueue_links (c : Chan) (q : Nat) (v : Queue) : (c.setQueue q v).links = c.links := rfl
@[simp] theorem Chan.setQueue_inbox (c : Chan) (q : Nat) (v : Queue) : (c.setQueue q v).inbox = c.inbox := rfl
@[simp] theorem Chan.setQueue_tables (c : Chan) (q : Nat) (v : Queue) : (c.setQueue q v).tables = c.tables := rfl
@[simp] theorem Chan.setQueue_targets (c : Chan) (q : Nat) (v : Queue) : (c.setQueue q v).targets = c.targets := rfl
@[simp] theorem Chan.setQueue_combs (c : Chan) (q : Nat) (v : Queue) : (c.setQueue q v).combs = c.combs := rfl
@[simp] theorem Chan.setQueue_redTx (c : Chan) (q : Nat) (v : Queue) : (c.setQueue q v).redTx = c.redTx := rfl
@[simp] theorem Chan.setQueue_redRx (c : Chan) (q : Nat) (v : Queue) : (c.setQueue q v).redRx = c.redRx := rfl
@[simp] theorem Chan.setQueue_progs (c : Chan) (q : Nat) (v : Queue) : (c.setQueue q v).progs = c.progs := rfl
@[simp] theorem Chan.setQueue_linkLost (c : Chan) (q : Nat) (v : Queue) : (c.setQueue q v).linkLost = c.linkLost := rfl
@[simp] theorem Chan.setQueue_rows (c : Chan) (q : Nat) (v : Queue) : (c.setQueue q v).rows = c.rows := rfl
@[simp] theorem Chan.setQueue_knots (c : Chan) (q : Nat) (v : Queue) : (c.setQueue q v).knots = c.knots := rfl
@[simp] theorem Chan.setQueue_newKnots (c : Chan) (q : Nat) (v : Queue) : (c.setQueue q v).newKnots = c.newKnots := rfl
@[simp] theorem Chan.setQueue_bistBad (c : Chan) (q : Nat) (v : Queue) : (c.setQueue q v).bistBad = c.bistBad := rfl
@[simp] theorem Chan.setQueue_bistRtr (c : Chan) (q : Nat) (v : Queue) : (c.setQueue q v).bistRtr = c.bistRtr := rfl
@[simp] theorem Chan.setQueue_measured (c : Chan) (q : Nat) (v : Queue) : (c.setQueue q v).measured = c.measured := rfl
@[simp] theorem Chan.setQueue_power (c : Chan) (q : Nat) (v : Queue) : (c.setQueue q v).power = c.power := rfl
@[simp] theorem Chan.setQueue_scrubPos (c : Chan) (q : Nat) (v : Queue) : (c.setQueue q v).scrubPos = c.scrubPos := rfl
@[simp] theorem Chan.setQueue_scrubEnd (c : Chan) (q : Nat) (v : Queue) : (c.setQueue q v).scrubEnd = c.scrubEnd := rfl
@[simp] theorem Chan.setQueue_scrubQ (c : Chan) (q : Nat) (v : Queue) : (c.setQueue q v).scrubQ = c.scrubQ := rfl
@[simp] theorem Chan.setQueue_clearing (c : Chan) (q : Nat) (v : Queue) : (c.setQueue q v).clearing = c.clearing := rfl
@[simp] theorem Chan.setQueue_dropped (c : Chan) (q : Nat) (v : Queue) : (c.setQueue q v).dropped = c.dropped := rfl
@[simp] theorem Chan.setQueue_building (c : Chan) (q : Nat) (v : Queue) : (c.setQueue q v).building = c.building := rfl
@[simp] theorem Chan.setQueue_applyWait (c : Chan) (q : Nat) (v : Queue) : (c.setQueue q v).applyWait = c.applyWait := rfl
@[simp] theorem Chan.setQueue_free (c : Chan) (q : Nat) (v : Queue) : (c.setQueue q v).free = c.free := rfl
@[simp] theorem Chan.onCtx_idx (c : Chan) (i x : Nat) (f : Ctx → Ctx) : (c.onCtx i x f).idx = c.idx := rfl
@[simp] theorem Chan.onCtx_st (c : Chan) (i x : Nat) (f : Ctx → Ctx) : (c.onCtx i x f).st = c.st := rfl
@[simp] theorem Chan.onCtx_freeze (c : Chan) (i x : Nat) (f : Ctx → Ctx) : (c.onCtx i x f).freeze = c.freeze := rfl
@[simp] theorem Chan.onCtx_node (c : Chan) (i x : Nat) (f : Ctx → Ctx) : (c.onCtx i x f).node = c.node := rfl
@[simp] theorem Chan.onCtx_fm (c : Chan) (i x : Nat) (f : Ctx → Ctx) : (c.onCtx i x f).fm = c.fm := rfl
@[simp] theorem Chan.onCtx_bank (c : Chan) (i x : Nat) (f : Ctx → Ctx) : (c.onCtx i x f).bank = c.bank := rfl
@[simp] theorem Chan.onCtx_log (c : Chan) (i x : Nat) (f : Ctx → Ctx) : (c.onCtx i x f).log = c.log := rfl
@[simp] theorem Chan.onCtx_evtSeq (c : Chan) (i x : Nat) (f : Ctx → Ctx) : (c.onCtx i x f).evtSeq = c.evtSeq := rfl
@[simp] theorem Chan.onCtx_queues (c : Chan) (i x : Nat) (f : Ctx → Ctx) : (c.onCtx i x f).queues = c.queues := rfl
@[simp] theorem Chan.onCtx_outbox (c : Chan) (i x : Nat) (f : Ctx → Ctx) : (c.onCtx i x f).outbox = c.outbox := rfl
@[simp] theorem Chan.onCtx_undelivered (c : Chan) (i x : Nat) (f : Ctx → Ctx) : (c.onCtx i x f).undelivered = c.undelivered := rfl
@[simp] theorem Chan.onCtx_flits (c : Chan) (i x : Nat) (f : Ctx → Ctx) : (c.onCtx i x f).flits = c.flits := rfl
@[simp] theorem Chan.onCtx_due (c : Chan) (i x : Nat) (f : Ctx → Ctx) : (c.onCtx i x f).due = c.due := rfl
@[simp] theorem Chan.onCtx_hbm (c : Chan) (i x : Nat) (f : Ctx → Ctx) : (c.onCtx i x f).hbm = c.hbm := rfl
@[simp] theorem Chan.onCtx_poison (c : Chan) (i x : Nat) (f : Ctx → Ctx) : (c.onCtx i x f).poison = c.poison := rfl
@[simp] theorem Chan.onCtx_groves (c : Chan) (i x : Nat) (f : Ctx → Ctx) : (c.onCtx i x f).groves = c.groves := rfl
@[simp] theorem Chan.onCtx_links (c : Chan) (i x : Nat) (f : Ctx → Ctx) : (c.onCtx i x f).links = c.links := rfl
@[simp] theorem Chan.onCtx_inbox (c : Chan) (i x : Nat) (f : Ctx → Ctx) : (c.onCtx i x f).inbox = c.inbox := rfl
@[simp] theorem Chan.onCtx_tables (c : Chan) (i x : Nat) (f : Ctx → Ctx) : (c.onCtx i x f).tables = c.tables := rfl
@[simp] theorem Chan.onCtx_targets (c : Chan) (i x : Nat) (f : Ctx → Ctx) : (c.onCtx i x f).targets = c.targets := rfl
@[simp] theorem Chan.onCtx_combs (c : Chan) (i x : Nat) (f : Ctx → Ctx) : (c.onCtx i x f).combs = c.combs := rfl
@[simp] theorem Chan.onCtx_redTx (c : Chan) (i x : Nat) (f : Ctx → Ctx) : (c.onCtx i x f).redTx = c.redTx := rfl
@[simp] theorem Chan.onCtx_redRx (c : Chan) (i x : Nat) (f : Ctx → Ctx) : (c.onCtx i x f).redRx = c.redRx := rfl
@[simp] theorem Chan.onCtx_progs (c : Chan) (i x : Nat) (f : Ctx → Ctx) : (c.onCtx i x f).progs = c.progs := rfl
@[simp] theorem Chan.onCtx_linkLost (c : Chan) (i x : Nat) (f : Ctx → Ctx) : (c.onCtx i x f).linkLost = c.linkLost := rfl
@[simp] theorem Chan.onCtx_rows (c : Chan) (i x : Nat) (f : Ctx → Ctx) : (c.onCtx i x f).rows = c.rows := rfl
@[simp] theorem Chan.onCtx_knots (c : Chan) (i x : Nat) (f : Ctx → Ctx) : (c.onCtx i x f).knots = c.knots := rfl
@[simp] theorem Chan.onCtx_newKnots (c : Chan) (i x : Nat) (f : Ctx → Ctx) : (c.onCtx i x f).newKnots = c.newKnots := rfl
@[simp] theorem Chan.onCtx_bistBad (c : Chan) (i x : Nat) (f : Ctx → Ctx) : (c.onCtx i x f).bistBad = c.bistBad := rfl
@[simp] theorem Chan.onCtx_bistRtr (c : Chan) (i x : Nat) (f : Ctx → Ctx) : (c.onCtx i x f).bistRtr = c.bistRtr := rfl
@[simp] theorem Chan.onCtx_measured (c : Chan) (i x : Nat) (f : Ctx → Ctx) : (c.onCtx i x f).measured = c.measured := rfl
@[simp] theorem Chan.onCtx_power (c : Chan) (i x : Nat) (f : Ctx → Ctx) : (c.onCtx i x f).power = c.power := rfl
@[simp] theorem Chan.onCtx_scrubPos (c : Chan) (i x : Nat) (f : Ctx → Ctx) : (c.onCtx i x f).scrubPos = c.scrubPos := rfl
@[simp] theorem Chan.onCtx_scrubEnd (c : Chan) (i x : Nat) (f : Ctx → Ctx) : (c.onCtx i x f).scrubEnd = c.scrubEnd := rfl
@[simp] theorem Chan.onCtx_scrubQ (c : Chan) (i x : Nat) (f : Ctx → Ctx) : (c.onCtx i x f).scrubQ = c.scrubQ := rfl
@[simp] theorem Chan.onCtx_clearing (c : Chan) (i x : Nat) (f : Ctx → Ctx) : (c.onCtx i x f).clearing = c.clearing := rfl
@[simp] theorem Chan.onCtx_dropped (c : Chan) (i x : Nat) (f : Ctx → Ctx) : (c.onCtx i x f).dropped = c.dropped := rfl
@[simp] theorem Chan.onCtx_building (c : Chan) (i x : Nat) (f : Ctx → Ctx) : (c.onCtx i x f).building = c.building := rfl
@[simp] theorem Chan.onCtx_applyWait (c : Chan) (i x : Nat) (f : Ctx → Ctx) : (c.onCtx i x f).applyWait = c.applyWait := rfl
@[simp] theorem Chan.onCtx_free (c : Chan) (i x : Nat) (f : Ctx → Ctx) : (c.onCtx i x f).free = c.free := rfl

/-! ## Registers of a channel -/

@[simp] theorem Chan.putReg_idx (c : Chan) (off : Nat) (v : Word) : (c.putReg off v).idx = c.idx := rfl
@[simp] theorem Chan.putReg_st (c : Chan) (off : Nat) (v : Word) : (c.putReg off v).st = c.st := rfl
@[simp] theorem Chan.putReg_freeze (c : Chan) (off : Nat) (v : Word) : (c.putReg off v).freeze = c.freeze := rfl
@[simp] theorem Chan.putReg_node (c : Chan) (off : Nat) (v : Word) : (c.putReg off v).node = c.node := rfl
@[simp] theorem Chan.putReg_fm (c : Chan) (off : Nat) (v : Word) : (c.putReg off v).fm = c.fm := rfl
@[simp] theorem Chan.putReg_log (c : Chan) (off : Nat) (v : Word) : (c.putReg off v).log = c.log := rfl
@[simp] theorem Chan.putReg_evtSeq (c : Chan) (off : Nat) (v : Word) : (c.putReg off v).evtSeq = c.evtSeq := rfl
@[simp] theorem Chan.putReg_queues (c : Chan) (off : Nat) (v : Word) : (c.putReg off v).queues = c.queues := rfl
@[simp] theorem Chan.putReg_outbox (c : Chan) (off : Nat) (v : Word) : (c.putReg off v).outbox = c.outbox := rfl
@[simp] theorem Chan.putReg_undelivered (c : Chan) (off : Nat) (v : Word) : (c.putReg off v).undelivered = c.undelivered := rfl
@[simp] theorem Chan.putReg_tiles (c : Chan) (off : Nat) (v : Word) : (c.putReg off v).tiles = c.tiles := rfl
@[simp] theorem Chan.putReg_flits (c : Chan) (off : Nat) (v : Word) : (c.putReg off v).flits = c.flits := rfl
@[simp] theorem Chan.putReg_due (c : Chan) (off : Nat) (v : Word) : (c.putReg off v).due = c.due := rfl
@[simp] theorem Chan.putReg_hbm (c : Chan) (off : Nat) (v : Word) : (c.putReg off v).hbm = c.hbm := rfl
@[simp] theorem Chan.putReg_poison (c : Chan) (off : Nat) (v : Word) : (c.putReg off v).poison = c.poison := rfl
@[simp] theorem Chan.putReg_groves (c : Chan) (off : Nat) (v : Word) : (c.putReg off v).groves = c.groves := rfl
@[simp] theorem Chan.putReg_links (c : Chan) (off : Nat) (v : Word) : (c.putReg off v).links = c.links := rfl
@[simp] theorem Chan.putReg_inbox (c : Chan) (off : Nat) (v : Word) : (c.putReg off v).inbox = c.inbox := rfl
@[simp] theorem Chan.putReg_tables (c : Chan) (off : Nat) (v : Word) : (c.putReg off v).tables = c.tables := rfl
@[simp] theorem Chan.putReg_targets (c : Chan) (off : Nat) (v : Word) : (c.putReg off v).targets = c.targets := rfl
@[simp] theorem Chan.putReg_combs (c : Chan) (off : Nat) (v : Word) : (c.putReg off v).combs = c.combs := rfl
@[simp] theorem Chan.putReg_redTx (c : Chan) (off : Nat) (v : Word) : (c.putReg off v).redTx = c.redTx := rfl
@[simp] theorem Chan.putReg_redRx (c : Chan) (off : Nat) (v : Word) : (c.putReg off v).redRx = c.redRx := rfl
@[simp] theorem Chan.putReg_progs (c : Chan) (off : Nat) (v : Word) : (c.putReg off v).progs = c.progs := rfl
@[simp] theorem Chan.putReg_linkLost (c : Chan) (off : Nat) (v : Word) : (c.putReg off v).linkLost = c.linkLost := rfl
@[simp] theorem Chan.putReg_rows (c : Chan) (off : Nat) (v : Word) : (c.putReg off v).rows = c.rows := rfl
@[simp] theorem Chan.putReg_knots (c : Chan) (off : Nat) (v : Word) : (c.putReg off v).knots = c.knots := rfl
@[simp] theorem Chan.putReg_newKnots (c : Chan) (off : Nat) (v : Word) : (c.putReg off v).newKnots = c.newKnots := rfl
@[simp] theorem Chan.putReg_bistBad (c : Chan) (off : Nat) (v : Word) : (c.putReg off v).bistBad = c.bistBad := rfl
@[simp] theorem Chan.putReg_bistRtr (c : Chan) (off : Nat) (v : Word) : (c.putReg off v).bistRtr = c.bistRtr := rfl
@[simp] theorem Chan.putReg_measured (c : Chan) (off : Nat) (v : Word) : (c.putReg off v).measured = c.measured := rfl
@[simp] theorem Chan.putReg_power (c : Chan) (off : Nat) (v : Word) : (c.putReg off v).power = c.power := rfl
@[simp] theorem Chan.putReg_scrubPos (c : Chan) (off : Nat) (v : Word) : (c.putReg off v).scrubPos = c.scrubPos := rfl
@[simp] theorem Chan.putReg_scrubEnd (c : Chan) (off : Nat) (v : Word) : (c.putReg off v).scrubEnd = c.scrubEnd := rfl
@[simp] theorem Chan.putReg_scrubQ (c : Chan) (off : Nat) (v : Word) : (c.putReg off v).scrubQ = c.scrubQ := rfl
@[simp] theorem Chan.putReg_clearing (c : Chan) (off : Nat) (v : Word) : (c.putReg off v).clearing = c.clearing := rfl
@[simp] theorem Chan.putReg_dropped (c : Chan) (off : Nat) (v : Word) : (c.putReg off v).dropped = c.dropped := rfl
@[simp] theorem Chan.putReg_building (c : Chan) (off : Nat) (v : Word) : (c.putReg off v).building = c.building := rfl
@[simp] theorem Chan.putReg_applyWait (c : Chan) (off : Nat) (v : Word) : (c.putReg off v).applyWait = c.applyWait := rfl
@[simp] theorem Chan.putReg_free (c : Chan) (off : Nat) (v : Word) : (c.putReg off v).free = c.free := rfl
@[simp] theorem Chan.setFld_idx (c : Chan) (f : Fld) (v : Nat) : (c.setFld f v).idx = c.idx := rfl
@[simp] theorem Chan.setFld_st (c : Chan) (f : Fld) (v : Nat) : (c.setFld f v).st = c.st := rfl
@[simp] theorem Chan.setFld_freeze (c : Chan) (f : Fld) (v : Nat) : (c.setFld f v).freeze = c.freeze := rfl
@[simp] theorem Chan.setFld_node (c : Chan) (f : Fld) (v : Nat) : (c.setFld f v).node = c.node := rfl
@[simp] theorem Chan.setFld_fm (c : Chan) (f : Fld) (v : Nat) : (c.setFld f v).fm = c.fm := rfl
@[simp] theorem Chan.setFld_log (c : Chan) (f : Fld) (v : Nat) : (c.setFld f v).log = c.log := rfl
@[simp] theorem Chan.setFld_evtSeq (c : Chan) (f : Fld) (v : Nat) : (c.setFld f v).evtSeq = c.evtSeq := rfl
@[simp] theorem Chan.setFld_queues (c : Chan) (f : Fld) (v : Nat) : (c.setFld f v).queues = c.queues := rfl
@[simp] theorem Chan.setFld_outbox (c : Chan) (f : Fld) (v : Nat) : (c.setFld f v).outbox = c.outbox := rfl
@[simp] theorem Chan.setFld_undelivered (c : Chan) (f : Fld) (v : Nat) : (c.setFld f v).undelivered = c.undelivered := rfl
@[simp] theorem Chan.setFld_tiles (c : Chan) (f : Fld) (v : Nat) : (c.setFld f v).tiles = c.tiles := rfl
@[simp] theorem Chan.setFld_flits (c : Chan) (f : Fld) (v : Nat) : (c.setFld f v).flits = c.flits := rfl
@[simp] theorem Chan.setFld_due (c : Chan) (f : Fld) (v : Nat) : (c.setFld f v).due = c.due := rfl
@[simp] theorem Chan.setFld_hbm (c : Chan) (f : Fld) (v : Nat) : (c.setFld f v).hbm = c.hbm := rfl
@[simp] theorem Chan.setFld_poison (c : Chan) (f : Fld) (v : Nat) : (c.setFld f v).poison = c.poison := rfl
@[simp] theorem Chan.setFld_groves (c : Chan) (f : Fld) (v : Nat) : (c.setFld f v).groves = c.groves := rfl
@[simp] theorem Chan.setFld_links (c : Chan) (f : Fld) (v : Nat) : (c.setFld f v).links = c.links := rfl
@[simp] theorem Chan.setFld_inbox (c : Chan) (f : Fld) (v : Nat) : (c.setFld f v).inbox = c.inbox := rfl
@[simp] theorem Chan.setFld_tables (c : Chan) (f : Fld) (v : Nat) : (c.setFld f v).tables = c.tables := rfl
@[simp] theorem Chan.setFld_targets (c : Chan) (f : Fld) (v : Nat) : (c.setFld f v).targets = c.targets := rfl
@[simp] theorem Chan.setFld_combs (c : Chan) (f : Fld) (v : Nat) : (c.setFld f v).combs = c.combs := rfl
@[simp] theorem Chan.setFld_redTx (c : Chan) (f : Fld) (v : Nat) : (c.setFld f v).redTx = c.redTx := rfl
@[simp] theorem Chan.setFld_redRx (c : Chan) (f : Fld) (v : Nat) : (c.setFld f v).redRx = c.redRx := rfl
@[simp] theorem Chan.setFld_progs (c : Chan) (f : Fld) (v : Nat) : (c.setFld f v).progs = c.progs := rfl
@[simp] theorem Chan.setFld_linkLost (c : Chan) (f : Fld) (v : Nat) : (c.setFld f v).linkLost = c.linkLost := rfl
@[simp] theorem Chan.setFld_rows (c : Chan) (f : Fld) (v : Nat) : (c.setFld f v).rows = c.rows := rfl
@[simp] theorem Chan.setFld_knots (c : Chan) (f : Fld) (v : Nat) : (c.setFld f v).knots = c.knots := rfl
@[simp] theorem Chan.setFld_newKnots (c : Chan) (f : Fld) (v : Nat) : (c.setFld f v).newKnots = c.newKnots := rfl
@[simp] theorem Chan.setFld_bistBad (c : Chan) (f : Fld) (v : Nat) : (c.setFld f v).bistBad = c.bistBad := rfl
@[simp] theorem Chan.setFld_bistRtr (c : Chan) (f : Fld) (v : Nat) : (c.setFld f v).bistRtr = c.bistRtr := rfl
@[simp] theorem Chan.setFld_measured (c : Chan) (f : Fld) (v : Nat) : (c.setFld f v).measured = c.measured := rfl
@[simp] theorem Chan.setFld_power (c : Chan) (f : Fld) (v : Nat) : (c.setFld f v).power = c.power := rfl
@[simp] theorem Chan.setFld_scrubPos (c : Chan) (f : Fld) (v : Nat) : (c.setFld f v).scrubPos = c.scrubPos := rfl
@[simp] theorem Chan.setFld_scrubEnd (c : Chan) (f : Fld) (v : Nat) : (c.setFld f v).scrubEnd = c.scrubEnd := rfl
@[simp] theorem Chan.setFld_scrubQ (c : Chan) (f : Fld) (v : Nat) : (c.setFld f v).scrubQ = c.scrubQ := rfl
@[simp] theorem Chan.setFld_clearing (c : Chan) (f : Fld) (v : Nat) : (c.setFld f v).clearing = c.clearing := rfl
@[simp] theorem Chan.setFld_dropped (c : Chan) (f : Fld) (v : Nat) : (c.setFld f v).dropped = c.dropped := rfl
@[simp] theorem Chan.setFld_building (c : Chan) (f : Fld) (v : Nat) : (c.setFld f v).building = c.building := rfl
@[simp] theorem Chan.setFld_applyWait (c : Chan) (f : Fld) (v : Nat) : (c.setFld f v).applyWait = c.applyWait := rfl
@[simp] theorem Chan.setFld_free (c : Chan) (f : Fld) (v : Nat) : (c.setFld f v).free = c.free := rfl
@[simp] theorem Chan.count_idx (c : Chan) (f : Fld) : (c.count f).idx = c.idx := rfl
@[simp] theorem Chan.count_st (c : Chan) (f : Fld) : (c.count f).st = c.st := rfl
@[simp] theorem Chan.count_freeze (c : Chan) (f : Fld) : (c.count f).freeze = c.freeze := rfl
@[simp] theorem Chan.count_node (c : Chan) (f : Fld) : (c.count f).node = c.node := rfl
@[simp] theorem Chan.count_fm (c : Chan) (f : Fld) : (c.count f).fm = c.fm := rfl
@[simp] theorem Chan.count_log (c : Chan) (f : Fld) : (c.count f).log = c.log := rfl
@[simp] theorem Chan.count_evtSeq (c : Chan) (f : Fld) : (c.count f).evtSeq = c.evtSeq := rfl
@[simp] theorem Chan.count_queues (c : Chan) (f : Fld) : (c.count f).queues = c.queues := rfl
@[simp] theorem Chan.count_outbox (c : Chan) (f : Fld) : (c.count f).outbox = c.outbox := rfl
@[simp] theorem Chan.count_undelivered (c : Chan) (f : Fld) : (c.count f).undelivered = c.undelivered := rfl
@[simp] theorem Chan.count_tiles (c : Chan) (f : Fld) : (c.count f).tiles = c.tiles := rfl
@[simp] theorem Chan.count_flits (c : Chan) (f : Fld) : (c.count f).flits = c.flits := rfl
@[simp] theorem Chan.count_due (c : Chan) (f : Fld) : (c.count f).due = c.due := rfl
@[simp] theorem Chan.count_hbm (c : Chan) (f : Fld) : (c.count f).hbm = c.hbm := rfl
@[simp] theorem Chan.count_poison (c : Chan) (f : Fld) : (c.count f).poison = c.poison := rfl
@[simp] theorem Chan.count_groves (c : Chan) (f : Fld) : (c.count f).groves = c.groves := rfl
@[simp] theorem Chan.count_links (c : Chan) (f : Fld) : (c.count f).links = c.links := rfl
@[simp] theorem Chan.count_inbox (c : Chan) (f : Fld) : (c.count f).inbox = c.inbox := rfl
@[simp] theorem Chan.count_tables (c : Chan) (f : Fld) : (c.count f).tables = c.tables := rfl
@[simp] theorem Chan.count_targets (c : Chan) (f : Fld) : (c.count f).targets = c.targets := rfl
@[simp] theorem Chan.count_combs (c : Chan) (f : Fld) : (c.count f).combs = c.combs := rfl
@[simp] theorem Chan.count_redTx (c : Chan) (f : Fld) : (c.count f).redTx = c.redTx := rfl
@[simp] theorem Chan.count_redRx (c : Chan) (f : Fld) : (c.count f).redRx = c.redRx := rfl
@[simp] theorem Chan.count_progs (c : Chan) (f : Fld) : (c.count f).progs = c.progs := rfl
@[simp] theorem Chan.count_linkLost (c : Chan) (f : Fld) : (c.count f).linkLost = c.linkLost := rfl
@[simp] theorem Chan.count_rows (c : Chan) (f : Fld) : (c.count f).rows = c.rows := rfl
@[simp] theorem Chan.count_knots (c : Chan) (f : Fld) : (c.count f).knots = c.knots := rfl
@[simp] theorem Chan.count_newKnots (c : Chan) (f : Fld) : (c.count f).newKnots = c.newKnots := rfl
@[simp] theorem Chan.count_bistBad (c : Chan) (f : Fld) : (c.count f).bistBad = c.bistBad := rfl
@[simp] theorem Chan.count_bistRtr (c : Chan) (f : Fld) : (c.count f).bistRtr = c.bistRtr := rfl
@[simp] theorem Chan.count_measured (c : Chan) (f : Fld) : (c.count f).measured = c.measured := rfl
@[simp] theorem Chan.count_power (c : Chan) (f : Fld) : (c.count f).power = c.power := rfl
@[simp] theorem Chan.count_scrubPos (c : Chan) (f : Fld) : (c.count f).scrubPos = c.scrubPos := rfl
@[simp] theorem Chan.count_scrubEnd (c : Chan) (f : Fld) : (c.count f).scrubEnd = c.scrubEnd := rfl
@[simp] theorem Chan.count_scrubQ (c : Chan) (f : Fld) : (c.count f).scrubQ = c.scrubQ := rfl
@[simp] theorem Chan.count_clearing (c : Chan) (f : Fld) : (c.count f).clearing = c.clearing := rfl
@[simp] theorem Chan.count_dropped (c : Chan) (f : Fld) : (c.count f).dropped = c.dropped := rfl
@[simp] theorem Chan.count_building (c : Chan) (f : Fld) : (c.count f).building = c.building := rfl
@[simp] theorem Chan.count_applyWait (c : Chan) (f : Fld) : (c.count f).applyWait = c.applyWait := rfl
@[simp] theorem Chan.count_free (c : Chan) (f : Fld) : (c.count f).free = c.free := rfl
@[simp] theorem Chan.flag_idx (c : Chan) (f n : Fld) : (c.flag f n).idx = c.idx := rfl
@[simp] theorem Chan.flag_st (c : Chan) (f n : Fld) : (c.flag f n).st = c.st := rfl
@[simp] theorem Chan.flag_freeze (c : Chan) (f n : Fld) : (c.flag f n).freeze = c.freeze := rfl
@[simp] theorem Chan.flag_node (c : Chan) (f n : Fld) : (c.flag f n).node = c.node := rfl
@[simp] theorem Chan.flag_fm (c : Chan) (f n : Fld) : (c.flag f n).fm = c.fm := rfl
@[simp] theorem Chan.flag_log (c : Chan) (f n : Fld) : (c.flag f n).log = c.log := rfl
@[simp] theorem Chan.flag_evtSeq (c : Chan) (f n : Fld) : (c.flag f n).evtSeq = c.evtSeq := rfl
@[simp] theorem Chan.flag_queues (c : Chan) (f n : Fld) : (c.flag f n).queues = c.queues := rfl
@[simp] theorem Chan.flag_outbox (c : Chan) (f n : Fld) : (c.flag f n).outbox = c.outbox := rfl
@[simp] theorem Chan.flag_undelivered (c : Chan) (f n : Fld) : (c.flag f n).undelivered = c.undelivered := rfl
@[simp] theorem Chan.flag_tiles (c : Chan) (f n : Fld) : (c.flag f n).tiles = c.tiles := rfl
@[simp] theorem Chan.flag_flits (c : Chan) (f n : Fld) : (c.flag f n).flits = c.flits := rfl
@[simp] theorem Chan.flag_due (c : Chan) (f n : Fld) : (c.flag f n).due = c.due := rfl
@[simp] theorem Chan.flag_hbm (c : Chan) (f n : Fld) : (c.flag f n).hbm = c.hbm := rfl
@[simp] theorem Chan.flag_poison (c : Chan) (f n : Fld) : (c.flag f n).poison = c.poison := rfl
@[simp] theorem Chan.flag_groves (c : Chan) (f n : Fld) : (c.flag f n).groves = c.groves := rfl
@[simp] theorem Chan.flag_links (c : Chan) (f n : Fld) : (c.flag f n).links = c.links := rfl
@[simp] theorem Chan.flag_inbox (c : Chan) (f n : Fld) : (c.flag f n).inbox = c.inbox := rfl
@[simp] theorem Chan.flag_tables (c : Chan) (f n : Fld) : (c.flag f n).tables = c.tables := rfl
@[simp] theorem Chan.flag_targets (c : Chan) (f n : Fld) : (c.flag f n).targets = c.targets := rfl
@[simp] theorem Chan.flag_combs (c : Chan) (f n : Fld) : (c.flag f n).combs = c.combs := rfl
@[simp] theorem Chan.flag_redTx (c : Chan) (f n : Fld) : (c.flag f n).redTx = c.redTx := rfl
@[simp] theorem Chan.flag_redRx (c : Chan) (f n : Fld) : (c.flag f n).redRx = c.redRx := rfl
@[simp] theorem Chan.flag_progs (c : Chan) (f n : Fld) : (c.flag f n).progs = c.progs := rfl
@[simp] theorem Chan.flag_linkLost (c : Chan) (f n : Fld) : (c.flag f n).linkLost = c.linkLost := rfl
@[simp] theorem Chan.flag_rows (c : Chan) (f n : Fld) : (c.flag f n).rows = c.rows := rfl
@[simp] theorem Chan.flag_knots (c : Chan) (f n : Fld) : (c.flag f n).knots = c.knots := rfl
@[simp] theorem Chan.flag_newKnots (c : Chan) (f n : Fld) : (c.flag f n).newKnots = c.newKnots := rfl
@[simp] theorem Chan.flag_bistBad (c : Chan) (f n : Fld) : (c.flag f n).bistBad = c.bistBad := rfl
@[simp] theorem Chan.flag_bistRtr (c : Chan) (f n : Fld) : (c.flag f n).bistRtr = c.bistRtr := rfl
@[simp] theorem Chan.flag_measured (c : Chan) (f n : Fld) : (c.flag f n).measured = c.measured := rfl
@[simp] theorem Chan.flag_power (c : Chan) (f n : Fld) : (c.flag f n).power = c.power := rfl
@[simp] theorem Chan.flag_scrubPos (c : Chan) (f n : Fld) : (c.flag f n).scrubPos = c.scrubPos := rfl
@[simp] theorem Chan.flag_scrubEnd (c : Chan) (f n : Fld) : (c.flag f n).scrubEnd = c.scrubEnd := rfl
@[simp] theorem Chan.flag_scrubQ (c : Chan) (f n : Fld) : (c.flag f n).scrubQ = c.scrubQ := rfl
@[simp] theorem Chan.flag_clearing (c : Chan) (f n : Fld) : (c.flag f n).clearing = c.clearing := rfl
@[simp] theorem Chan.flag_dropped (c : Chan) (f n : Fld) : (c.flag f n).dropped = c.dropped := rfl
@[simp] theorem Chan.flag_building (c : Chan) (f n : Fld) : (c.flag f n).building = c.building := rfl
@[simp] theorem Chan.flag_applyWait (c : Chan) (f n : Fld) : (c.flag f n).applyWait = c.applyWait := rfl
@[simp] theorem Chan.flag_free (c : Chan) (f n : Fld) : (c.flag f n).free = c.free := rfl

/-! ## Log, replies and completions of a channel -/

@[simp] theorem Chan.append_idx (c : Chan) (e : LogEntry) : (c.append e).idx = c.idx := rfl
@[simp] theorem Chan.append_st (c : Chan) (e : LogEntry) : (c.append e).st = c.st := rfl
@[simp] theorem Chan.append_freeze (c : Chan) (e : LogEntry) : (c.append e).freeze = c.freeze := rfl
@[simp] theorem Chan.append_node (c : Chan) (e : LogEntry) : (c.append e).node = c.node := rfl
@[simp] theorem Chan.append_fm (c : Chan) (e : LogEntry) : (c.append e).fm = c.fm := rfl
@[simp] theorem Chan.append_bank (c : Chan) (e : LogEntry) : (c.append e).bank = c.bank := rfl
@[simp] theorem Chan.append_queues (c : Chan) (e : LogEntry) : (c.append e).queues = c.queues := rfl
@[simp] theorem Chan.append_outbox (c : Chan) (e : LogEntry) : (c.append e).outbox = c.outbox := rfl
@[simp] theorem Chan.append_undelivered (c : Chan) (e : LogEntry) : (c.append e).undelivered = c.undelivered := rfl
@[simp] theorem Chan.append_tiles (c : Chan) (e : LogEntry) : (c.append e).tiles = c.tiles := rfl
@[simp] theorem Chan.append_flits (c : Chan) (e : LogEntry) : (c.append e).flits = c.flits := rfl
@[simp] theorem Chan.append_due (c : Chan) (e : LogEntry) : (c.append e).due = c.due := rfl
@[simp] theorem Chan.append_hbm (c : Chan) (e : LogEntry) : (c.append e).hbm = c.hbm := rfl
@[simp] theorem Chan.append_poison (c : Chan) (e : LogEntry) : (c.append e).poison = c.poison := rfl
@[simp] theorem Chan.append_groves (c : Chan) (e : LogEntry) : (c.append e).groves = c.groves := rfl
@[simp] theorem Chan.append_links (c : Chan) (e : LogEntry) : (c.append e).links = c.links := rfl
@[simp] theorem Chan.append_inbox (c : Chan) (e : LogEntry) : (c.append e).inbox = c.inbox := rfl
@[simp] theorem Chan.append_tables (c : Chan) (e : LogEntry) : (c.append e).tables = c.tables := rfl
@[simp] theorem Chan.append_targets (c : Chan) (e : LogEntry) : (c.append e).targets = c.targets := rfl
@[simp] theorem Chan.append_combs (c : Chan) (e : LogEntry) : (c.append e).combs = c.combs := rfl
@[simp] theorem Chan.append_redTx (c : Chan) (e : LogEntry) : (c.append e).redTx = c.redTx := rfl
@[simp] theorem Chan.append_redRx (c : Chan) (e : LogEntry) : (c.append e).redRx = c.redRx := rfl
@[simp] theorem Chan.append_progs (c : Chan) (e : LogEntry) : (c.append e).progs = c.progs := rfl
@[simp] theorem Chan.append_linkLost (c : Chan) (e : LogEntry) : (c.append e).linkLost = c.linkLost := rfl
@[simp] theorem Chan.append_rows (c : Chan) (e : LogEntry) : (c.append e).rows = c.rows := rfl
@[simp] theorem Chan.append_knots (c : Chan) (e : LogEntry) : (c.append e).knots = c.knots := rfl
@[simp] theorem Chan.append_newKnots (c : Chan) (e : LogEntry) : (c.append e).newKnots = c.newKnots := rfl
@[simp] theorem Chan.append_bistBad (c : Chan) (e : LogEntry) : (c.append e).bistBad = c.bistBad := rfl
@[simp] theorem Chan.append_bistRtr (c : Chan) (e : LogEntry) : (c.append e).bistRtr = c.bistRtr := rfl
@[simp] theorem Chan.append_measured (c : Chan) (e : LogEntry) : (c.append e).measured = c.measured := rfl
@[simp] theorem Chan.append_power (c : Chan) (e : LogEntry) : (c.append e).power = c.power := rfl
@[simp] theorem Chan.append_scrubPos (c : Chan) (e : LogEntry) : (c.append e).scrubPos = c.scrubPos := rfl
@[simp] theorem Chan.append_scrubEnd (c : Chan) (e : LogEntry) : (c.append e).scrubEnd = c.scrubEnd := rfl
@[simp] theorem Chan.append_scrubQ (c : Chan) (e : LogEntry) : (c.append e).scrubQ = c.scrubQ := rfl
@[simp] theorem Chan.append_clearing (c : Chan) (e : LogEntry) : (c.append e).clearing = c.clearing := rfl
@[simp] theorem Chan.append_dropped (c : Chan) (e : LogEntry) : (c.append e).dropped = c.dropped := rfl
@[simp] theorem Chan.append_building (c : Chan) (e : LogEntry) : (c.append e).building = c.building := rfl
@[simp] theorem Chan.append_applyWait (c : Chan) (e : LogEntry) : (c.append e).applyWait = c.applyWait := rfl
@[simp] theorem Chan.append_free (c : Chan) (e : LogEntry) : (c.append e).free = c.free := rfl
@[simp] theorem Chan.event_idx (c : Chan) (st : Status) (src code : Nat) (g : Option Nat) (a : BitVec 64) : (c.event st src code g a).idx = c.idx := rfl
@[simp] theorem Chan.event_st (c : Chan) (st : Status) (src code : Nat) (g : Option Nat) (a : BitVec 64) : (c.event st src code g a).st = c.st := rfl
@[simp] theorem Chan.event_freeze (c : Chan) (st : Status) (src code : Nat) (g : Option Nat) (a : BitVec 64) : (c.event st src code g a).freeze = c.freeze := rfl
@[simp] theorem Chan.event_node (c : Chan) (st : Status) (src code : Nat) (g : Option Nat) (a : BitVec 64) : (c.event st src code g a).node = c.node := rfl
@[simp] theorem Chan.event_fm (c : Chan) (st : Status) (src code : Nat) (g : Option Nat) (a : BitVec 64) : (c.event st src code g a).fm = c.fm := rfl
@[simp] theorem Chan.event_bank (c : Chan) (st : Status) (src code : Nat) (g : Option Nat) (a : BitVec 64) : (c.event st src code g a).bank = c.bank := rfl
@[simp] theorem Chan.event_queues (c : Chan) (st : Status) (src code : Nat) (g : Option Nat) (a : BitVec 64) : (c.event st src code g a).queues = c.queues := rfl
@[simp] theorem Chan.event_undelivered (c : Chan) (st : Status) (src code : Nat) (g : Option Nat) (a : BitVec 64) : (c.event st src code g a).undelivered = c.undelivered := rfl
@[simp] theorem Chan.event_tiles (c : Chan) (st : Status) (src code : Nat) (g : Option Nat) (a : BitVec 64) : (c.event st src code g a).tiles = c.tiles := rfl
@[simp] theorem Chan.event_flits (c : Chan) (st : Status) (src code : Nat) (g : Option Nat) (a : BitVec 64) : (c.event st src code g a).flits = c.flits := rfl
@[simp] theorem Chan.event_due (c : Chan) (st : Status) (src code : Nat) (g : Option Nat) (a : BitVec 64) : (c.event st src code g a).due = c.due := rfl
@[simp] theorem Chan.event_hbm (c : Chan) (st : Status) (src code : Nat) (g : Option Nat) (a : BitVec 64) : (c.event st src code g a).hbm = c.hbm := rfl
@[simp] theorem Chan.event_poison (c : Chan) (st : Status) (src code : Nat) (g : Option Nat) (a : BitVec 64) : (c.event st src code g a).poison = c.poison := rfl
@[simp] theorem Chan.event_groves (c : Chan) (st : Status) (src code : Nat) (g : Option Nat) (a : BitVec 64) : (c.event st src code g a).groves = c.groves := rfl
@[simp] theorem Chan.event_links (c : Chan) (st : Status) (src code : Nat) (g : Option Nat) (a : BitVec 64) : (c.event st src code g a).links = c.links := rfl
@[simp] theorem Chan.event_inbox (c : Chan) (st : Status) (src code : Nat) (g : Option Nat) (a : BitVec 64) : (c.event st src code g a).inbox = c.inbox := rfl
@[simp] theorem Chan.event_tables (c : Chan) (st : Status) (src code : Nat) (g : Option Nat) (a : BitVec 64) : (c.event st src code g a).tables = c.tables := rfl
@[simp] theorem Chan.event_targets (c : Chan) (st : Status) (src code : Nat) (g : Option Nat) (a : BitVec 64) : (c.event st src code g a).targets = c.targets := rfl
@[simp] theorem Chan.event_combs (c : Chan) (st : Status) (src code : Nat) (g : Option Nat) (a : BitVec 64) : (c.event st src code g a).combs = c.combs := rfl
@[simp] theorem Chan.event_redTx (c : Chan) (st : Status) (src code : Nat) (g : Option Nat) (a : BitVec 64) : (c.event st src code g a).redTx = c.redTx := rfl
@[simp] theorem Chan.event_redRx (c : Chan) (st : Status) (src code : Nat) (g : Option Nat) (a : BitVec 64) : (c.event st src code g a).redRx = c.redRx := rfl
@[simp] theorem Chan.event_progs (c : Chan) (st : Status) (src code : Nat) (g : Option Nat) (a : BitVec 64) : (c.event st src code g a).progs = c.progs := rfl
@[simp] theorem Chan.event_linkLost (c : Chan) (st : Status) (src code : Nat) (g : Option Nat) (a : BitVec 64) : (c.event st src code g a).linkLost = c.linkLost := rfl
@[simp] theorem Chan.event_rows (c : Chan) (st : Status) (src code : Nat) (g : Option Nat) (a : BitVec 64) : (c.event st src code g a).rows = c.rows := rfl
@[simp] theorem Chan.event_knots (c : Chan) (st : Status) (src code : Nat) (g : Option Nat) (a : BitVec 64) : (c.event st src code g a).knots = c.knots := rfl
@[simp] theorem Chan.event_newKnots (c : Chan) (st : Status) (src code : Nat) (g : Option Nat) (a : BitVec 64) : (c.event st src code g a).newKnots = c.newKnots := rfl
@[simp] theorem Chan.event_bistBad (c : Chan) (st : Status) (src code : Nat) (g : Option Nat) (a : BitVec 64) : (c.event st src code g a).bistBad = c.bistBad := rfl
@[simp] theorem Chan.event_bistRtr (c : Chan) (st : Status) (src code : Nat) (g : Option Nat) (a : BitVec 64) : (c.event st src code g a).bistRtr = c.bistRtr := rfl
@[simp] theorem Chan.event_measured (c : Chan) (st : Status) (src code : Nat) (g : Option Nat) (a : BitVec 64) : (c.event st src code g a).measured = c.measured := rfl
@[simp] theorem Chan.event_power (c : Chan) (st : Status) (src code : Nat) (g : Option Nat) (a : BitVec 64) : (c.event st src code g a).power = c.power := rfl
@[simp] theorem Chan.event_scrubPos (c : Chan) (st : Status) (src code : Nat) (g : Option Nat) (a : BitVec 64) : (c.event st src code g a).scrubPos = c.scrubPos := rfl
@[simp] theorem Chan.event_scrubEnd (c : Chan) (st : Status) (src code : Nat) (g : Option Nat) (a : BitVec 64) : (c.event st src code g a).scrubEnd = c.scrubEnd := rfl
@[simp] theorem Chan.event_scrubQ (c : Chan) (st : Status) (src code : Nat) (g : Option Nat) (a : BitVec 64) : (c.event st src code g a).scrubQ = c.scrubQ := rfl
@[simp] theorem Chan.event_clearing (c : Chan) (st : Status) (src code : Nat) (g : Option Nat) (a : BitVec 64) : (c.event st src code g a).clearing = c.clearing := rfl
@[simp] theorem Chan.event_dropped (c : Chan) (st : Status) (src code : Nat) (g : Option Nat) (a : BitVec 64) : (c.event st src code g a).dropped = c.dropped := rfl
@[simp] theorem Chan.event_building (c : Chan) (st : Status) (src code : Nat) (g : Option Nat) (a : BitVec 64) : (c.event st src code g a).building = c.building := rfl
@[simp] theorem Chan.event_applyWait (c : Chan) (st : Status) (src code : Nat) (g : Option Nat) (a : BitVec 64) : (c.event st src code g a).applyWait = c.applyWait := rfl
@[simp] theorem Chan.event_free (c : Chan) (st : Status) (src code : Nat) (g : Option Nat) (a : BitVec 64) : (c.event st src code g a).free = c.free := rfl
@[simp] theorem Chan.complete_idx (c : Chan) (d : Datagram) (st : Status) (g : Option Nat) (b : Bytes) : (c.complete d st g b).idx = c.idx := rfl
@[simp] theorem Chan.complete_st (c : Chan) (d : Datagram) (st : Status) (g : Option Nat) (b : Bytes) : (c.complete d st g b).st = c.st := rfl
@[simp] theorem Chan.complete_freeze (c : Chan) (d : Datagram) (st : Status) (g : Option Nat) (b : Bytes) : (c.complete d st g b).freeze = c.freeze := rfl
@[simp] theorem Chan.complete_node (c : Chan) (d : Datagram) (st : Status) (g : Option Nat) (b : Bytes) : (c.complete d st g b).node = c.node := rfl
@[simp] theorem Chan.complete_fm (c : Chan) (d : Datagram) (st : Status) (g : Option Nat) (b : Bytes) : (c.complete d st g b).fm = c.fm := rfl
@[simp] theorem Chan.complete_bank (c : Chan) (d : Datagram) (st : Status) (g : Option Nat) (b : Bytes) : (c.complete d st g b).bank = c.bank := rfl
@[simp] theorem Chan.complete_undelivered (c : Chan) (d : Datagram) (st : Status) (g : Option Nat) (b : Bytes) : (c.complete d st g b).undelivered = c.undelivered := rfl
@[simp] theorem Chan.complete_tiles (c : Chan) (d : Datagram) (st : Status) (g : Option Nat) (b : Bytes) : (c.complete d st g b).tiles = c.tiles := rfl
@[simp] theorem Chan.complete_flits (c : Chan) (d : Datagram) (st : Status) (g : Option Nat) (b : Bytes) : (c.complete d st g b).flits = c.flits := rfl
@[simp] theorem Chan.complete_due (c : Chan) (d : Datagram) (st : Status) (g : Option Nat) (b : Bytes) : (c.complete d st g b).due = c.due := rfl
@[simp] theorem Chan.complete_hbm (c : Chan) (d : Datagram) (st : Status) (g : Option Nat) (b : Bytes) : (c.complete d st g b).hbm = c.hbm := rfl
@[simp] theorem Chan.complete_poison (c : Chan) (d : Datagram) (st : Status) (g : Option Nat) (b : Bytes) : (c.complete d st g b).poison = c.poison := rfl
@[simp] theorem Chan.complete_groves (c : Chan) (d : Datagram) (st : Status) (g : Option Nat) (b : Bytes) : (c.complete d st g b).groves = c.groves := rfl
@[simp] theorem Chan.complete_links (c : Chan) (d : Datagram) (st : Status) (g : Option Nat) (b : Bytes) : (c.complete d st g b).links = c.links := rfl
@[simp] theorem Chan.complete_inbox (c : Chan) (d : Datagram) (st : Status) (g : Option Nat) (b : Bytes) : (c.complete d st g b).inbox = c.inbox := rfl
@[simp] theorem Chan.complete_tables (c : Chan) (d : Datagram) (st : Status) (g : Option Nat) (b : Bytes) : (c.complete d st g b).tables = c.tables := rfl
@[simp] theorem Chan.complete_targets (c : Chan) (d : Datagram) (st : Status) (g : Option Nat) (b : Bytes) : (c.complete d st g b).targets = c.targets := rfl
@[simp] theorem Chan.complete_combs (c : Chan) (d : Datagram) (st : Status) (g : Option Nat) (b : Bytes) : (c.complete d st g b).combs = c.combs := rfl
@[simp] theorem Chan.complete_redTx (c : Chan) (d : Datagram) (st : Status) (g : Option Nat) (b : Bytes) : (c.complete d st g b).redTx = c.redTx := rfl
@[simp] theorem Chan.complete_redRx (c : Chan) (d : Datagram) (st : Status) (g : Option Nat) (b : Bytes) : (c.complete d st g b).redRx = c.redRx := rfl
@[simp] theorem Chan.complete_progs (c : Chan) (d : Datagram) (st : Status) (g : Option Nat) (b : Bytes) : (c.complete d st g b).progs = c.progs := rfl
@[simp] theorem Chan.complete_linkLost (c : Chan) (d : Datagram) (st : Status) (g : Option Nat) (b : Bytes) : (c.complete d st g b).linkLost = c.linkLost := rfl
@[simp] theorem Chan.complete_rows (c : Chan) (d : Datagram) (st : Status) (g : Option Nat) (b : Bytes) : (c.complete d st g b).rows = c.rows := rfl
@[simp] theorem Chan.complete_knots (c : Chan) (d : Datagram) (st : Status) (g : Option Nat) (b : Bytes) : (c.complete d st g b).knots = c.knots := rfl
@[simp] theorem Chan.complete_newKnots (c : Chan) (d : Datagram) (st : Status) (g : Option Nat) (b : Bytes) : (c.complete d st g b).newKnots = c.newKnots := rfl
@[simp] theorem Chan.complete_bistBad (c : Chan) (d : Datagram) (st : Status) (g : Option Nat) (b : Bytes) : (c.complete d st g b).bistBad = c.bistBad := rfl
@[simp] theorem Chan.complete_bistRtr (c : Chan) (d : Datagram) (st : Status) (g : Option Nat) (b : Bytes) : (c.complete d st g b).bistRtr = c.bistRtr := rfl
@[simp] theorem Chan.complete_measured (c : Chan) (d : Datagram) (st : Status) (g : Option Nat) (b : Bytes) : (c.complete d st g b).measured = c.measured := rfl
@[simp] theorem Chan.complete_power (c : Chan) (d : Datagram) (st : Status) (g : Option Nat) (b : Bytes) : (c.complete d st g b).power = c.power := rfl
@[simp] theorem Chan.complete_scrubPos (c : Chan) (d : Datagram) (st : Status) (g : Option Nat) (b : Bytes) : (c.complete d st g b).scrubPos = c.scrubPos := rfl
@[simp] theorem Chan.complete_scrubEnd (c : Chan) (d : Datagram) (st : Status) (g : Option Nat) (b : Bytes) : (c.complete d st g b).scrubEnd = c.scrubEnd := rfl
@[simp] theorem Chan.complete_scrubQ (c : Chan) (d : Datagram) (st : Status) (g : Option Nat) (b : Bytes) : (c.complete d st g b).scrubQ = c.scrubQ := rfl
@[simp] theorem Chan.complete_clearing (c : Chan) (d : Datagram) (st : Status) (g : Option Nat) (b : Bytes) : (c.complete d st g b).clearing = c.clearing := rfl
@[simp] theorem Chan.complete_dropped (c : Chan) (d : Datagram) (st : Status) (g : Option Nat) (b : Bytes) : (c.complete d st g b).dropped = c.dropped := rfl
@[simp] theorem Chan.complete_building (c : Chan) (d : Datagram) (st : Status) (g : Option Nat) (b : Bytes) : (c.complete d st g b).building = c.building := rfl
@[simp] theorem Chan.complete_applyWait (c : Chan) (d : Datagram) (st : Status) (g : Option Nat) (b : Bytes) : (c.complete d st g b).applyWait = c.applyWait := rfl
@[simp] theorem Chan.complete_free (c : Chan) (d : Datagram) (st : Status) (g : Option Nat) (b : Bytes) : (c.complete d st g b).free = c.free := rfl
@[simp] theorem Chan.reply_idx (c : Chan) (d : Datagram) (st : Status) (g : Option Nat) (b e : Bytes) : (c.reply d st g b e).idx = c.idx := rfl
@[simp] theorem Chan.reply_st (c : Chan) (d : Datagram) (st : Status) (g : Option Nat) (b e : Bytes) : (c.reply d st g b e).st = c.st := rfl
@[simp] theorem Chan.reply_freeze (c : Chan) (d : Datagram) (st : Status) (g : Option Nat) (b e : Bytes) : (c.reply d st g b e).freeze = c.freeze := rfl
@[simp] theorem Chan.reply_node (c : Chan) (d : Datagram) (st : Status) (g : Option Nat) (b e : Bytes) : (c.reply d st g b e).node = c.node := rfl
@[simp] theorem Chan.reply_fm (c : Chan) (d : Datagram) (st : Status) (g : Option Nat) (b e : Bytes) : (c.reply d st g b e).fm = c.fm := rfl
@[simp] theorem Chan.reply_bank (c : Chan) (d : Datagram) (st : Status) (g : Option Nat) (b e : Bytes) : (c.reply d st g b e).bank = c.bank := rfl
@[simp] theorem Chan.reply_log (c : Chan) (d : Datagram) (st : Status) (g : Option Nat) (b e : Bytes) : (c.reply d st g b e).log = c.log := rfl
@[simp] theorem Chan.reply_evtSeq (c : Chan) (d : Datagram) (st : Status) (g : Option Nat) (b e : Bytes) : (c.reply d st g b e).evtSeq = c.evtSeq := rfl
@[simp] theorem Chan.reply_tiles (c : Chan) (d : Datagram) (st : Status) (g : Option Nat) (b e : Bytes) : (c.reply d st g b e).tiles = c.tiles := rfl
@[simp] theorem Chan.reply_flits (c : Chan) (d : Datagram) (st : Status) (g : Option Nat) (b e : Bytes) : (c.reply d st g b e).flits = c.flits := rfl
@[simp] theorem Chan.reply_due (c : Chan) (d : Datagram) (st : Status) (g : Option Nat) (b e : Bytes) : (c.reply d st g b e).due = c.due := rfl
@[simp] theorem Chan.reply_hbm (c : Chan) (d : Datagram) (st : Status) (g : Option Nat) (b e : Bytes) : (c.reply d st g b e).hbm = c.hbm := rfl
@[simp] theorem Chan.reply_poison (c : Chan) (d : Datagram) (st : Status) (g : Option Nat) (b e : Bytes) : (c.reply d st g b e).poison = c.poison := rfl
@[simp] theorem Chan.reply_groves (c : Chan) (d : Datagram) (st : Status) (g : Option Nat) (b e : Bytes) : (c.reply d st g b e).groves = c.groves := rfl
@[simp] theorem Chan.reply_links (c : Chan) (d : Datagram) (st : Status) (g : Option Nat) (b e : Bytes) : (c.reply d st g b e).links = c.links := rfl
@[simp] theorem Chan.reply_inbox (c : Chan) (d : Datagram) (st : Status) (g : Option Nat) (b e : Bytes) : (c.reply d st g b e).inbox = c.inbox := rfl
@[simp] theorem Chan.reply_tables (c : Chan) (d : Datagram) (st : Status) (g : Option Nat) (b e : Bytes) : (c.reply d st g b e).tables = c.tables := rfl
@[simp] theorem Chan.reply_targets (c : Chan) (d : Datagram) (st : Status) (g : Option Nat) (b e : Bytes) : (c.reply d st g b e).targets = c.targets := rfl
@[simp] theorem Chan.reply_combs (c : Chan) (d : Datagram) (st : Status) (g : Option Nat) (b e : Bytes) : (c.reply d st g b e).combs = c.combs := rfl
@[simp] theorem Chan.reply_redTx (c : Chan) (d : Datagram) (st : Status) (g : Option Nat) (b e : Bytes) : (c.reply d st g b e).redTx = c.redTx := rfl
@[simp] theorem Chan.reply_redRx (c : Chan) (d : Datagram) (st : Status) (g : Option Nat) (b e : Bytes) : (c.reply d st g b e).redRx = c.redRx := rfl
@[simp] theorem Chan.reply_progs (c : Chan) (d : Datagram) (st : Status) (g : Option Nat) (b e : Bytes) : (c.reply d st g b e).progs = c.progs := rfl
@[simp] theorem Chan.reply_linkLost (c : Chan) (d : Datagram) (st : Status) (g : Option Nat) (b e : Bytes) : (c.reply d st g b e).linkLost = c.linkLost := rfl
@[simp] theorem Chan.reply_rows (c : Chan) (d : Datagram) (st : Status) (g : Option Nat) (b e : Bytes) : (c.reply d st g b e).rows = c.rows := rfl
@[simp] theorem Chan.reply_knots (c : Chan) (d : Datagram) (st : Status) (g : Option Nat) (b e : Bytes) : (c.reply d st g b e).knots = c.knots := rfl
@[simp] theorem Chan.reply_newKnots (c : Chan) (d : Datagram) (st : Status) (g : Option Nat) (b e : Bytes) : (c.reply d st g b e).newKnots = c.newKnots := rfl
@[simp] theorem Chan.reply_bistBad (c : Chan) (d : Datagram) (st : Status) (g : Option Nat) (b e : Bytes) : (c.reply d st g b e).bistBad = c.bistBad := rfl
@[simp] theorem Chan.reply_bistRtr (c : Chan) (d : Datagram) (st : Status) (g : Option Nat) (b e : Bytes) : (c.reply d st g b e).bistRtr = c.bistRtr := rfl
@[simp] theorem Chan.reply_measured (c : Chan) (d : Datagram) (st : Status) (g : Option Nat) (b e : Bytes) : (c.reply d st g b e).measured = c.measured := rfl
@[simp] theorem Chan.reply_power (c : Chan) (d : Datagram) (st : Status) (g : Option Nat) (b e : Bytes) : (c.reply d st g b e).power = c.power := rfl
@[simp] theorem Chan.reply_scrubPos (c : Chan) (d : Datagram) (st : Status) (g : Option Nat) (b e : Bytes) : (c.reply d st g b e).scrubPos = c.scrubPos := rfl
@[simp] theorem Chan.reply_scrubEnd (c : Chan) (d : Datagram) (st : Status) (g : Option Nat) (b e : Bytes) : (c.reply d st g b e).scrubEnd = c.scrubEnd := rfl
@[simp] theorem Chan.reply_scrubQ (c : Chan) (d : Datagram) (st : Status) (g : Option Nat) (b e : Bytes) : (c.reply d st g b e).scrubQ = c.scrubQ := rfl
@[simp] theorem Chan.reply_clearing (c : Chan) (d : Datagram) (st : Status) (g : Option Nat) (b e : Bytes) : (c.reply d st g b e).clearing = c.clearing := rfl
@[simp] theorem Chan.reply_dropped (c : Chan) (d : Datagram) (st : Status) (g : Option Nat) (b e : Bytes) : (c.reply d st g b e).dropped = c.dropped := rfl
@[simp] theorem Chan.reply_building (c : Chan) (d : Datagram) (st : Status) (g : Option Nat) (b e : Bytes) : (c.reply d st g b e).building = c.building := rfl
@[simp] theorem Chan.reply_applyWait (c : Chan) (d : Datagram) (st : Status) (g : Option Nat) (b e : Bytes) : (c.reply d st g b e).applyWait = c.applyWait := rfl
@[simp] theorem Chan.reply_free (c : Chan) (d : Datagram) (st : Status) (g : Option Nat) (b e : Bytes) : (c.reply d st g b e).free = c.free := rfl

/-! ## The module -/

@[simp] theorem State.setChan_pd (s : State) (k : Nat) (v : Chan) : (s.setChan k v).pd = s.pd := rfl
@[simp] theorem State.setChan_cell (s : State) (k : Nat) (v : Chan) : (s.setChan k v).cell = s.cell := rfl
@[simp] theorem State.setChan_out (s : State) (k : Nat) (v : Chan) : (s.setChan k v).out = s.out := rfl
@[simp] theorem State.setChan_pending (s : State) (k : Nat) (v : Chan) : (s.setChan k v).pending = s.pending := rfl
@[simp] theorem State.onPort_chans (s : State) (f : PortDie → PortDie) : (s.onPort f).chans = s.chans := rfl
@[simp] theorem State.onPort_cell (s : State) (f : PortDie → PortDie) : (s.onPort f).cell = s.cell := rfl
@[simp] theorem State.onPort_out (s : State) (f : PortDie → PortDie) : (s.onPort f).out = s.out := rfl
@[simp] theorem State.onPort_pending (s : State) (f : PortDie → PortDie) : (s.onPort f).pending = s.pending := rfl
@[simp] theorem State.onPort_pd (s : State) (f : PortDie → PortDie) : (s.onPort f).pd = f s.pd := rfl
@[simp] theorem State.pdFlag_chans (s : State) (f n : Fld) : (s.pdFlag f n).chans = s.chans := rfl
@[simp] theorem State.pdFlag_cell (s : State) (f n : Fld) : (s.pdFlag f n).cell = s.cell := rfl
@[simp] theorem State.pdFlag_out (s : State) (f n : Fld) : (s.pdFlag f n).out = s.out := rfl
@[simp] theorem State.pdFlag_pending (s : State) (f n : Fld) : (s.pdFlag f n).pending = s.pending := rfl
@[simp] theorem State.settleServices_chans (s : State) : (s.settleServices).chans = s.chans := rfl
@[simp] theorem State.settleServices_cell (s : State) : (s.settleServices).cell = s.cell := rfl
@[simp] theorem State.settleServices_out (s : State) : (s.settleServices).out = s.out := rfl
@[simp] theorem State.settleServices_pending (s : State) : (s.settleServices).pending = s.pending := rfl
@[simp] theorem State.fanOut_chans (s : State) (ch seq : Nat) (b : Bytes) : (s.fanOut ch seq b).chans = s.chans := rfl
@[simp] theorem State.fanOut_pd (s : State) (ch seq : Nat) (b : Bytes) : (s.fanOut ch seq b).pd = s.pd := rfl
@[simp] theorem State.fanOut_cell (s : State) (ch seq : Nat) (b : Bytes) : (s.fanOut ch seq b).cell = s.cell := rfl
@[simp] theorem State.fanOut_pending (s : State) (ch seq : Nat) (b : Bytes) : (s.fanOut ch seq b).pending = s.pending := rfl

/-! ## The port die -/

@[simp] theorem PortDie.putReg_log (p : PortDie) (off : Nat) (v : Word) : (p.putReg off v).log = p.log := rfl
@[simp] theorem PortDie.putReg_ring (p : PortDie) (off : Nat) (v : Word) : (p.putReg off v).ring = p.ring := rfl
@[simp] theorem PortDie.putReg_unringed (p : PortDie) (off : Nat) (v : Word) : (p.putReg off v).unringed = p.unringed := rfl
@[simp] theorem PortDie.putReg_sessions (p : PortDie) (off : Nat) (v : Word) : (p.putReg off v).sessions = p.sessions := rfl
@[simp] theorem PortDie.putReg_ended (p : PortDie) (off : Nat) (v : Word) : (p.putReg off v).ended = p.ended := rfl
@[simp] theorem PortDie.putReg_pending (p : PortDie) (off : Nat) (v : Word) : (p.putReg off v).pending = p.pending := rfl
@[simp] theorem PortDie.putReg_session0 (p : PortDie) (off : Nat) (v : Word) : (p.putReg off v).session0 = p.session0 := rfl
@[simp] theorem PortDie.putReg_locked (p : PortDie) (off : Nat) (v : Word) : (p.putReg off v).locked = p.locked := rfl
@[simp] theorem PortDie.putReg_services (p : PortDie) (off : Nat) (v : Word) : (p.putReg off v).services = p.services := rfl
@[simp] theorem PortDie.putReg_outbox (p : PortDie) (off : Nat) (v : Word) : (p.putReg off v).outbox = p.outbox := rfl
@[simp] theorem PortDie.putReg_undelivered (p : PortDie) (off : Nat) (v : Word) : (p.putReg off v).undelivered = p.undelivered := rfl
@[simp] theorem PortDie.putReg_late (p : PortDie) (off : Nat) (v : Word) : (p.putReg off v).late = p.late := rfl
@[simp] theorem PortDie.putReg_keys (p : PortDie) (off : Nat) (v : Word) : (p.putReg off v).keys = p.keys := rfl
@[simp] theorem PortDie.putReg_flash (p : PortDie) (off : Nat) (v : Word) : (p.putReg off v).flash = p.flash := rfl
@[simp] theorem PortDie.putReg_fwHeader (p : PortDie) (off : Nat) (v : Word) : (p.putReg off v).fwHeader = p.fwHeader := rfl
@[simp] theorem PortDie.putReg_found (p : PortDie) (off : Nat) (v : Word) : (p.putReg off v).found = p.found := rfl
@[simp] theorem PortDie.putReg_sigFails (p : PortDie) (off : Nat) (v : Word) : (p.putReg off v).sigFails = p.sigFails := rfl
@[simp] theorem PortDie.putReg_apport (p : PortDie) (off : Nat) (v : Word) : (p.putReg off v).apport = p.apport := rfl
@[simp] theorem PortDie.putReg_straps (p : PortDie) (off : Nat) (v : Word) : (p.putReg off v).straps = p.straps := rfl
@[simp] theorem PortDie.putReg_powered (p : PortDie) (off : Nat) (v : Word) : (p.putReg off v).powered = p.powered := rfl
@[simp] theorem PortDie.putReg_boot (p : PortDie) (off : Nat) (v : Word) : (p.putReg off v).boot = p.boot := rfl
@[simp] theorem PortDie.putReg_resetPin (p : PortDie) (off : Nat) (v : Word) : (p.putReg off v).resetPin = p.resetPin := rfl
@[simp] theorem PortDie.putReg_meshOpen (p : PortDie) (off : Nat) (v : Word) : (p.putReg off v).meshOpen = p.meshOpen := rfl
@[simp] theorem PortDie.putReg_power (p : PortDie) (off : Nat) (v : Word) : (p.putReg off v).power = p.power := rfl
@[simp] theorem PortDie.putReg_bound (p : PortDie) (off : Nat) (v : Word) : (p.putReg off v).bound = p.bound := rfl
@[simp] theorem PortDie.putReg_clock (p : PortDie) (off : Nat) (v : Word) : (p.putReg off v).clock = p.clock := rfl
@[simp] theorem PortDie.putReg_free (p : PortDie) (off : Nat) (v : Word) : (p.putReg off v).free = p.free := rfl
@[simp] theorem PortDie.setFld_log (p : PortDie) (f : Fld) (v : Nat) : (p.setFld f v).log = p.log := rfl
@[simp] theorem PortDie.setFld_ring (p : PortDie) (f : Fld) (v : Nat) : (p.setFld f v).ring = p.ring := rfl
@[simp] theorem PortDie.setFld_unringed (p : PortDie) (f : Fld) (v : Nat) : (p.setFld f v).unringed = p.unringed := rfl
@[simp] theorem PortDie.setFld_sessions (p : PortDie) (f : Fld) (v : Nat) : (p.setFld f v).sessions = p.sessions := rfl
@[simp] theorem PortDie.setFld_ended (p : PortDie) (f : Fld) (v : Nat) : (p.setFld f v).ended = p.ended := rfl
@[simp] theorem PortDie.setFld_pending (p : PortDie) (f : Fld) (v : Nat) : (p.setFld f v).pending = p.pending := rfl
@[simp] theorem PortDie.setFld_session0 (p : PortDie) (f : Fld) (v : Nat) : (p.setFld f v).session0 = p.session0 := rfl
@[simp] theorem PortDie.setFld_locked (p : PortDie) (f : Fld) (v : Nat) : (p.setFld f v).locked = p.locked := rfl
@[simp] theorem PortDie.setFld_services (p : PortDie) (f : Fld) (v : Nat) : (p.setFld f v).services = p.services := rfl
@[simp] theorem PortDie.setFld_outbox (p : PortDie) (f : Fld) (v : Nat) : (p.setFld f v).outbox = p.outbox := rfl
@[simp] theorem PortDie.setFld_undelivered (p : PortDie) (f : Fld) (v : Nat) : (p.setFld f v).undelivered = p.undelivered := rfl
@[simp] theorem PortDie.setFld_late (p : PortDie) (f : Fld) (v : Nat) : (p.setFld f v).late = p.late := rfl
@[simp] theorem PortDie.setFld_keys (p : PortDie) (f : Fld) (v : Nat) : (p.setFld f v).keys = p.keys := rfl
@[simp] theorem PortDie.setFld_flash (p : PortDie) (f : Fld) (v : Nat) : (p.setFld f v).flash = p.flash := rfl
@[simp] theorem PortDie.setFld_fwHeader (p : PortDie) (f : Fld) (v : Nat) : (p.setFld f v).fwHeader = p.fwHeader := rfl
@[simp] theorem PortDie.setFld_found (p : PortDie) (f : Fld) (v : Nat) : (p.setFld f v).found = p.found := rfl
@[simp] theorem PortDie.setFld_sigFails (p : PortDie) (f : Fld) (v : Nat) : (p.setFld f v).sigFails = p.sigFails := rfl
@[simp] theorem PortDie.setFld_apport (p : PortDie) (f : Fld) (v : Nat) : (p.setFld f v).apport = p.apport := rfl
@[simp] theorem PortDie.setFld_straps (p : PortDie) (f : Fld) (v : Nat) : (p.setFld f v).straps = p.straps := rfl
@[simp] theorem PortDie.setFld_powered (p : PortDie) (f : Fld) (v : Nat) : (p.setFld f v).powered = p.powered := rfl
@[simp] theorem PortDie.setFld_boot (p : PortDie) (f : Fld) (v : Nat) : (p.setFld f v).boot = p.boot := rfl
@[simp] theorem PortDie.setFld_resetPin (p : PortDie) (f : Fld) (v : Nat) : (p.setFld f v).resetPin = p.resetPin := rfl
@[simp] theorem PortDie.setFld_meshOpen (p : PortDie) (f : Fld) (v : Nat) : (p.setFld f v).meshOpen = p.meshOpen := rfl
@[simp] theorem PortDie.setFld_power (p : PortDie) (f : Fld) (v : Nat) : (p.setFld f v).power = p.power := rfl
@[simp] theorem PortDie.setFld_bound (p : PortDie) (f : Fld) (v : Nat) : (p.setFld f v).bound = p.bound := rfl
@[simp] theorem PortDie.setFld_clock (p : PortDie) (f : Fld) (v : Nat) : (p.setFld f v).clock = p.clock := rfl
@[simp] theorem PortDie.setFld_free (p : PortDie) (f : Fld) (v : Nat) : (p.setFld f v).free = p.free := rfl
@[simp] theorem PortDie.count_log (p : PortDie) (f : Fld) : (p.count f).log = p.log := rfl
@[simp] theorem PortDie.count_ring (p : PortDie) (f : Fld) : (p.count f).ring = p.ring := rfl
@[simp] theorem PortDie.count_unringed (p : PortDie) (f : Fld) : (p.count f).unringed = p.unringed := rfl
@[simp] theorem PortDie.count_sessions (p : PortDie) (f : Fld) : (p.count f).sessions = p.sessions := rfl
@[simp] theorem PortDie.count_ended (p : PortDie) (f : Fld) : (p.count f).ended = p.ended := rfl
@[simp] theorem PortDie.count_pending (p : PortDie) (f : Fld) : (p.count f).pending = p.pending := rfl
@[simp] theorem PortDie.count_session0 (p : PortDie) (f : Fld) : (p.count f).session0 = p.session0 := rfl
@[simp] theorem PortDie.count_locked (p : PortDie) (f : Fld) : (p.count f).locked = p.locked := rfl
@[simp] theorem PortDie.count_services (p : PortDie) (f : Fld) : (p.count f).services = p.services := rfl
@[simp] theorem PortDie.count_outbox (p : PortDie) (f : Fld) : (p.count f).outbox = p.outbox := rfl
@[simp] theorem PortDie.count_undelivered (p : PortDie) (f : Fld) : (p.count f).undelivered = p.undelivered := rfl
@[simp] theorem PortDie.count_late (p : PortDie) (f : Fld) : (p.count f).late = p.late := rfl
@[simp] theorem PortDie.count_keys (p : PortDie) (f : Fld) : (p.count f).keys = p.keys := rfl
@[simp] theorem PortDie.count_flash (p : PortDie) (f : Fld) : (p.count f).flash = p.flash := rfl
@[simp] theorem PortDie.count_fwHeader (p : PortDie) (f : Fld) : (p.count f).fwHeader = p.fwHeader := rfl
@[simp] theorem PortDie.count_found (p : PortDie) (f : Fld) : (p.count f).found = p.found := rfl
@[simp] theorem PortDie.count_sigFails (p : PortDie) (f : Fld) : (p.count f).sigFails = p.sigFails := rfl
@[simp] theorem PortDie.count_apport (p : PortDie) (f : Fld) : (p.count f).apport = p.apport := rfl
@[simp] theorem PortDie.count_straps (p : PortDie) (f : Fld) : (p.count f).straps = p.straps := rfl
@[simp] theorem PortDie.count_powered (p : PortDie) (f : Fld) : (p.count f).powered = p.powered := rfl
@[simp] theorem PortDie.count_boot (p : PortDie) (f : Fld) : (p.count f).boot = p.boot := rfl
@[simp] theorem PortDie.count_resetPin (p : PortDie) (f : Fld) : (p.count f).resetPin = p.resetPin := rfl
@[simp] theorem PortDie.count_meshOpen (p : PortDie) (f : Fld) : (p.count f).meshOpen = p.meshOpen := rfl
@[simp] theorem PortDie.count_power (p : PortDie) (f : Fld) : (p.count f).power = p.power := rfl
@[simp] theorem PortDie.count_bound (p : PortDie) (f : Fld) : (p.count f).bound = p.bound := rfl
@[simp] theorem PortDie.count_clock (p : PortDie) (f : Fld) : (p.count f).clock = p.clock := rfl
@[simp] theorem PortDie.count_free (p : PortDie) (f : Fld) : (p.count f).free = p.free := rfl
@[simp] theorem PortDie.flag_log (p : PortDie) (f n : Fld) : (p.flag f n).log = p.log := rfl
@[simp] theorem PortDie.flag_ring (p : PortDie) (f n : Fld) : (p.flag f n).ring = p.ring := rfl
@[simp] theorem PortDie.flag_unringed (p : PortDie) (f n : Fld) : (p.flag f n).unringed = p.unringed := rfl
@[simp] theorem PortDie.flag_sessions (p : PortDie) (f n : Fld) : (p.flag f n).sessions = p.sessions := rfl
@[simp] theorem PortDie.flag_ended (p : PortDie) (f n : Fld) : (p.flag f n).ended = p.ended := rfl
@[simp] theorem PortDie.flag_pending (p : PortDie) (f n : Fld) : (p.flag f n).pending = p.pending := rfl
@[simp] theorem PortDie.flag_session0 (p : PortDie) (f n : Fld) : (p.flag f n).session0 = p.session0 := rfl
@[simp] theorem PortDie.flag_locked (p : PortDie) (f n : Fld) : (p.flag f n).locked = p.locked := rfl
@[simp] theorem PortDie.flag_services (p : PortDie) (f n : Fld) : (p.flag f n).services = p.services := rfl
@[simp] theorem PortDie.flag_outbox (p : PortDie) (f n : Fld) : (p.flag f n).outbox = p.outbox := rfl
@[simp] theorem PortDie.flag_undelivered (p : PortDie) (f n : Fld) : (p.flag f n).undelivered = p.undelivered := rfl
@[simp] theorem PortDie.flag_late (p : PortDie) (f n : Fld) : (p.flag f n).late = p.late := rfl
@[simp] theorem PortDie.flag_keys (p : PortDie) (f n : Fld) : (p.flag f n).keys = p.keys := rfl
@[simp] theorem PortDie.flag_flash (p : PortDie) (f n : Fld) : (p.flag f n).flash = p.flash := rfl
@[simp] theorem PortDie.flag_fwHeader (p : PortDie) (f n : Fld) : (p.flag f n).fwHeader = p.fwHeader := rfl
@[simp] theorem PortDie.flag_found (p : PortDie) (f n : Fld) : (p.flag f n).found = p.found := rfl
@[simp] theorem PortDie.flag_sigFails (p : PortDie) (f n : Fld) : (p.flag f n).sigFails = p.sigFails := rfl
@[simp] theorem PortDie.flag_apport (p : PortDie) (f n : Fld) : (p.flag f n).apport = p.apport := rfl
@[simp] theorem PortDie.flag_straps (p : PortDie) (f n : Fld) : (p.flag f n).straps = p.straps := rfl
@[simp] theorem PortDie.flag_powered (p : PortDie) (f n : Fld) : (p.flag f n).powered = p.powered := rfl
@[simp] theorem PortDie.flag_boot (p : PortDie) (f n : Fld) : (p.flag f n).boot = p.boot := rfl
@[simp] theorem PortDie.flag_resetPin (p : PortDie) (f n : Fld) : (p.flag f n).resetPin = p.resetPin := rfl
@[simp] theorem PortDie.flag_meshOpen (p : PortDie) (f n : Fld) : (p.flag f n).meshOpen = p.meshOpen := rfl
@[simp] theorem PortDie.flag_power (p : PortDie) (f n : Fld) : (p.flag f n).power = p.power := rfl
@[simp] theorem PortDie.flag_bound (p : PortDie) (f n : Fld) : (p.flag f n).bound = p.bound := rfl
@[simp] theorem PortDie.flag_clock (p : PortDie) (f n : Fld) : (p.flag f n).clock = p.clock := rfl
@[simp] theorem PortDie.flag_free (p : PortDie) (f n : Fld) : (p.flag f n).free = p.free := rfl
@[simp] theorem PortDie.onSession_bank (p : PortDie) (id : Nat) (f : Session → Session) : (p.onSession id f).bank = p.bank := rfl
@[simp] theorem PortDie.onSession_log (p : PortDie) (id : Nat) (f : Session → Session) : (p.onSession id f).log = p.log := rfl
@[simp] theorem PortDie.onSession_ring (p : PortDie) (id : Nat) (f : Session → Session) : (p.onSession id f).ring = p.ring := rfl
@[simp] theorem PortDie.onSession_unringed (p : PortDie) (id : Nat) (f : Session → Session) : (p.onSession id f).unringed = p.unringed := rfl
@[simp] theorem PortDie.onSession_pending (p : PortDie) (id : Nat) (f : Session → Session) : (p.onSession id f).pending = p.pending := rfl
@[simp] theorem PortDie.onSession_session0 (p : PortDie) (id : Nat) (f : Session → Session) : (p.onSession id f).session0 = p.session0 := rfl
@[simp] theorem PortDie.onSession_locked (p : PortDie) (id : Nat) (f : Session → Session) : (p.onSession id f).locked = p.locked := rfl
@[simp] theorem PortDie.onSession_services (p : PortDie) (id : Nat) (f : Session → Session) : (p.onSession id f).services = p.services := rfl
@[simp] theorem PortDie.onSession_outbox (p : PortDie) (id : Nat) (f : Session → Session) : (p.onSession id f).outbox = p.outbox := rfl
@[simp] theorem PortDie.onSession_undelivered (p : PortDie) (id : Nat) (f : Session → Session) : (p.onSession id f).undelivered = p.undelivered := rfl
@[simp] theorem PortDie.onSession_late (p : PortDie) (id : Nat) (f : Session → Session) : (p.onSession id f).late = p.late := rfl
@[simp] theorem PortDie.onSession_keys (p : PortDie) (id : Nat) (f : Session → Session) : (p.onSession id f).keys = p.keys := rfl
@[simp] theorem PortDie.onSession_flash (p : PortDie) (id : Nat) (f : Session → Session) : (p.onSession id f).flash = p.flash := rfl
@[simp] theorem PortDie.onSession_fwHeader (p : PortDie) (id : Nat) (f : Session → Session) : (p.onSession id f).fwHeader = p.fwHeader := rfl
@[simp] theorem PortDie.onSession_found (p : PortDie) (id : Nat) (f : Session → Session) : (p.onSession id f).found = p.found := rfl
@[simp] theorem PortDie.onSession_sigFails (p : PortDie) (id : Nat) (f : Session → Session) : (p.onSession id f).sigFails = p.sigFails := rfl
@[simp] theorem PortDie.onSession_apport (p : PortDie) (id : Nat) (f : Session → Session) : (p.onSession id f).apport = p.apport := rfl
@[simp] theorem PortDie.onSession_straps (p : PortDie) (id : Nat) (f : Session → Session) : (p.onSession id f).straps = p.straps := rfl
@[simp] theorem PortDie.onSession_powered (p : PortDie) (id : Nat) (f : Session → Session) : (p.onSession id f).powered = p.powered := rfl
@[simp] theorem PortDie.onSession_boot (p : PortDie) (id : Nat) (f : Session → Session) : (p.onSession id f).boot = p.boot := rfl
@[simp] theorem PortDie.onSession_resetPin (p : PortDie) (id : Nat) (f : Session → Session) : (p.onSession id f).resetPin = p.resetPin := rfl
@[simp] theorem PortDie.onSession_meshOpen (p : PortDie) (id : Nat) (f : Session → Session) : (p.onSession id f).meshOpen = p.meshOpen := rfl
@[simp] theorem PortDie.onSession_power (p : PortDie) (id : Nat) (f : Session → Session) : (p.onSession id f).power = p.power := rfl
@[simp] theorem PortDie.onSession_bound (p : PortDie) (id : Nat) (f : Session → Session) : (p.onSession id f).bound = p.bound := rfl
@[simp] theorem PortDie.onSession_clock (p : PortDie) (id : Nat) (f : Session → Session) : (p.onSession id f).clock = p.clock := rfl
@[simp] theorem PortDie.onSession_free (p : PortDie) (id : Nat) (f : Session → Session) : (p.onSession id f).free = p.free := rfl
@[simp] theorem PortDie.keepReply_bank (p : PortDie) (id : Nat) (r : ReplyRec) : (p.keepReply id r).bank = p.bank := by unfold PortDie.keepReply; split <;> rfl
@[simp] theorem PortDie.keepReply_log (p : PortDie) (id : Nat) (r : ReplyRec) : (p.keepReply id r).log = p.log := by unfold PortDie.keepReply; split <;> rfl
@[simp] theorem PortDie.keepReply_ring (p : PortDie) (id : Nat) (r : ReplyRec) : (p.keepReply id r).ring = p.ring := by unfold PortDie.keepReply; split <;> rfl
@[simp] theorem PortDie.keepReply_unringed (p : PortDie) (id : Nat) (r : ReplyRec) : (p.keepReply id r).unringed = p.unringed := by unfold PortDie.keepReply; split <;> rfl
@[simp] theorem PortDie.keepReply_sessions (p : PortDie) (id : Nat) (r : ReplyRec) : (p.keepReply id r).sessions = p.sessions := by unfold PortDie.keepReply; split <;> rfl
@[simp] theorem PortDie.keepReply_ended (p : PortDie) (id : Nat) (r : ReplyRec) : (p.keepReply id r).ended = p.ended := by unfold PortDie.keepReply; split <;> rfl
@[simp] theorem PortDie.keepReply_pending (p : PortDie) (id : Nat) (r : ReplyRec) : (p.keepReply id r).pending = p.pending := by unfold PortDie.keepReply; split <;> rfl
@[simp] theorem PortDie.keepReply_session0 (p : PortDie) (id : Nat) (r : ReplyRec) : (p.keepReply id r).session0 = p.session0 := by unfold PortDie.keepReply; split <;> rfl
@[simp] theorem PortDie.keepReply_locked (p : PortDie) (id : Nat) (r : ReplyRec) : (p.keepReply id r).locked = p.locked := by unfold PortDie.keepReply; split <;> rfl
@[simp] theorem PortDie.keepReply_services (p : PortDie) (id : Nat) (r : ReplyRec) : (p.keepReply id r).services = p.services := by unfold PortDie.keepReply; split <;> rfl
@[simp] theorem PortDie.keepReply_outbox (p : PortDie) (id : Nat) (r : ReplyRec) : (p.keepReply id r).outbox = p.outbox := by unfold PortDie.keepReply; split <;> rfl
@[simp] theorem PortDie.keepReply_late (p : PortDie) (id : Nat) (r : ReplyRec) : (p.keepReply id r).late = p.late := by unfold PortDie.keepReply; split <;> rfl
@[simp] theorem PortDie.keepReply_keys (p : PortDie) (id : Nat) (r : ReplyRec) : (p.keepReply id r).keys = p.keys := by unfold PortDie.keepReply; split <;> rfl
@[simp] theorem PortDie.keepReply_flash (p : PortDie) (id : Nat) (r : ReplyRec) : (p.keepReply id r).flash = p.flash := by unfold PortDie.keepReply; split <;> rfl
@[simp] theorem PortDie.keepReply_fwHeader (p : PortDie) (id : Nat) (r : ReplyRec) : (p.keepReply id r).fwHeader = p.fwHeader := by unfold PortDie.keepReply; split <;> rfl
@[simp] theorem PortDie.keepReply_found (p : PortDie) (id : Nat) (r : ReplyRec) : (p.keepReply id r).found = p.found := by unfold PortDie.keepReply; split <;> rfl
@[simp] theorem PortDie.keepReply_sigFails (p : PortDie) (id : Nat) (r : ReplyRec) : (p.keepReply id r).sigFails = p.sigFails := by unfold PortDie.keepReply; split <;> rfl
@[simp] theorem PortDie.keepReply_apport (p : PortDie) (id : Nat) (r : ReplyRec) : (p.keepReply id r).apport = p.apport := by unfold PortDie.keepReply; split <;> rfl
@[simp] theorem PortDie.keepReply_straps (p : PortDie) (id : Nat) (r : ReplyRec) : (p.keepReply id r).straps = p.straps := by unfold PortDie.keepReply; split <;> rfl
@[simp] theorem PortDie.keepReply_powered (p : PortDie) (id : Nat) (r : ReplyRec) : (p.keepReply id r).powered = p.powered := by unfold PortDie.keepReply; split <;> rfl
@[simp] theorem PortDie.keepReply_boot (p : PortDie) (id : Nat) (r : ReplyRec) : (p.keepReply id r).boot = p.boot := by unfold PortDie.keepReply; split <;> rfl
@[simp] theorem PortDie.keepReply_resetPin (p : PortDie) (id : Nat) (r : ReplyRec) : (p.keepReply id r).resetPin = p.resetPin := by unfold PortDie.keepReply; split <;> rfl
@[simp] theorem PortDie.keepReply_meshOpen (p : PortDie) (id : Nat) (r : ReplyRec) : (p.keepReply id r).meshOpen = p.meshOpen := by unfold PortDie.keepReply; split <;> rfl
@[simp] theorem PortDie.keepReply_power (p : PortDie) (id : Nat) (r : ReplyRec) : (p.keepReply id r).power = p.power := by unfold PortDie.keepReply; split <;> rfl
@[simp] theorem PortDie.keepReply_bound (p : PortDie) (id : Nat) (r : ReplyRec) : (p.keepReply id r).bound = p.bound := by unfold PortDie.keepReply; split <;> rfl
@[simp] theorem PortDie.keepReply_clock (p : PortDie) (id : Nat) (r : ReplyRec) : (p.keepReply id r).clock = p.clock := by unfold PortDie.keepReply; split <;> rfl
@[simp] theorem PortDie.keepReply_free (p : PortDie) (id : Nat) (r : ReplyRec) : (p.keepReply id r).free = p.free := by unfold PortDie.keepReply; split <;> rfl
@[simp] theorem PortDie.keepReply_session (p : PortDie) (id k : Nat) (r : ReplyRec) : (p.keepReply id r).session k = p.session k := by
  simp [PortDie.session]

/-! ## Reads after updates -/

@[simp] theorem Chan.tile_setTile (c : Chan) (i j : Nat) (t : Tile) : (c.setTile i t).tile j = if j = i then t else c.tile j := by
  simp [Chan.tile, Chan.setTile]

@[simp] theorem Chan.grove_setGrove (c : Chan) (g h : Nat) (v : Grove) : (c.setGrove g v).grove h = if h = g then v else c.grove h := by
  simp [Chan.grove, Chan.setGrove]

@[simp] theorem Chan.grove_onGrove (c : Chan) (g h : Nat) (f : Grove → Grove) :
    (c.onGrove g f).grove h = if h = g then f (c.grove g) else c.grove h := by
  simp [Chan.onGrove]

@[simp] theorem Chan.link_setLink (c : Chan) (i j : Nat) (l : Link) : (c.setLink i l).link j = if j = i then l else c.link j := by
  simp [Chan.link, Chan.setLink]

@[simp] theorem Chan.queue_setQueue (c : Chan) (q r : Nat) (v : Queue) : (c.setQueue q v).queue r = if r = q then v else c.queue r := by
  simp [Chan.queue, Chan.setQueue]

@[simp] theorem State.chan_setChan (s : State) (k j : Nat) (v : Chan) : (s.setChan k v).chan j = if j = k then v else s.chan j := by
  simp [State.chan, State.setChan]

@[simp] theorem State.chan_onPort (s : State) (f : PortDie → PortDie) (k : Nat) : (s.onPort f).chan k = s.chan k := rfl

@[simp] theorem State.chan_pdFlag (s : State) (f n : Fld) (k : Nat) : (s.pdFlag f n).chan k = s.chan k := rfl

@[simp] theorem State.chan_settleServices (s : State) (k : Nat) : (s.settleServices).chan k = s.chan k := rfl

@[simp] theorem State.chan_fanOut (s : State) (ch seq : Nat) (b : Bytes) (k : Nat) : (s.fanOut ch seq b).chan k = s.chan k := rfl

@[simp] theorem Tile.ctx_setCtx (t : Tile) (x y : Nat) (v : Ctx) (hx : x < 2) (hy : y < 2) :
    (t.setCtx x v).ctx y = if y = x then v else t.ctx y := by
  interval_cases x <;> interval_cases y <;> simp [Tile.setCtx, Tile.ctx]

theorem Chan.ctx_onCtx (c : Chan) (i x j y : Nat) (f : Ctx → Ctx) (hx : x < 2) (hy : y < 2) :
    (c.onCtx i x f).ctx j y = if j = i ∧ y = x then f (c.ctx i x) else c.ctx j y := by
  unfold Chan.onCtx Chan.ctx
  rw [Chan.tile_setTile]
  by_cases hj : j = i
  · subst hj; simp [hx, hy]
  · simp [hj]

theorem Chan.tile_onCtx_ne (c : Chan) (i x j : Nat) (f : Ctx → Ctx) (h : j ≠ i) : (c.onCtx i x f).tile j = c.tile j := by
  simp [Chan.onCtx, h]

theorem Chan.onCtx_sram (c : Chan) (i x j : Nat) (f : Ctx → Ctx) : ((c.onCtx i x f).tile j).sram = (c.tile j).sram := by
  unfold Chan.onCtx
  rw [Chan.tile_setTile]
  split
  · next h => subst h; unfold Tile.setCtx; split <;> rfl
  · rfl

end Sys2Proof.Machine
end

