-- ==== Sys2Proof/Laws/Send.lean ====
section
/-! SUPPORT. What sending changes, and what an operation on one channel leaves of the rest of the module. -/

namespace Sys2Proof.Machine

/-! ## Sending -/

/-- Sending changes nothing but what has been sent. -/
theorem State.deliver_eq (s : State) (ch : Nat) (e : Emit) : ∃ l, s.deliver ch e = { s with out := s.out ++ l } := by
  cases e with
  | reply chn q sess r => unfold State.deliver; dsimp only; split <;> [exact ⟨[], by simp⟩; exact ⟨_, rfl⟩]
  | event e => exact ⟨_, rfl⟩
  | completion e d st data =>
    unfold State.deliver; dsimp only; split
    · exact ⟨_, by simp only [State.fanOut, List.append_assoc]; rfl⟩
    · exact ⟨_, rfl⟩
  | keyReply id r => exact ⟨_, rfl⟩
  | frame i f => exact ⟨_, rfl⟩
  | nvme b => exact ⟨_, rfl⟩
  | blocks t n l b => exact ⟨_, rfl⟩
  | crown k b => exact ⟨_, rfl⟩

@[simp] theorem State.deliver_chans (s : State) (ch : Nat) (e : Emit) : (s.deliver ch e).chans = s.chans := by
  obtain ⟨l, h⟩ := s.deliver_eq ch e; rw [h]
@[simp] theorem State.deliver_pd (s : State) (ch : Nat) (e : Emit) : (s.deliver ch e).pd = s.pd := by
  obtain ⟨l, h⟩ := s.deliver_eq ch e; rw [h]
@[simp] theorem State.deliver_cell (s : State) (ch : Nat) (e : Emit) : (s.deliver ch e).cell = s.cell := by
  obtain ⟨l, h⟩ := s.deliver_eq ch e; rw [h]
@[simp] theorem State.deliver_pending (s : State) (ch : Nat) (e : Emit) : (s.deliver ch e).pending = s.pending := by
  obtain ⟨l, h⟩ := s.deliver_eq ch e; rw [h]
@[simp] theorem State.chan_deliver (s : State) (ch : Nat) (e : Emit) (k : Nat) : (s.deliver ch e).chan k = s.chan k := by
  simp [State.chan]

/-- Sending several things changes nothing but what has been sent. -/
theorem State.deliverAll_eq (l : List Emit) (ch : Nat) (s : State) :
    ∃ o, l.foldl (fun s e => s.deliver ch e) s = { s with out := s.out ++ o } := by
  induction l generalizing s with
  | nil => exact ⟨[], by simp⟩
  | cons e t ih =>
    obtain ⟨a, ha⟩ := s.deliver_eq ch e
    obtain ⟨b, hb⟩ := ih (s.deliver ch e)
    refine ⟨a ++ b, ?_⟩
    rw [List.foldl_cons, hb, ha]; simp

/-- What is sent stays sent, and each thing handed over is sent as `deliver` says. -/
theorem State.deliverAll_out (l : List Emit) (ch : Nat) (s : State) (e : Emit) (o : Out) (he : e ∈ l)
    (ho : ∀ s' : State, s'.pd = s.pd → o ∈ (s'.deliver ch e).out) : o ∈ (l.foldl (fun s e => s.deliver ch e) s).out := by
  induction l generalizing s with
  | nil => cases he
  | cons a t ih =>
    rw [List.foldl_cons]
    rcases List.mem_cons.1 he with rfl | he
    · obtain ⟨b, hb⟩ := State.deliverAll_eq t ch (s.deliver ch e)
      rw [hb]; exact List.mem_append_left _ (ho s rfl)
    · exact ih (s.deliver ch a) he (fun s' h => ho s' (by rw [h]; simp))

@[simp] theorem State.sweepEnded_chans (s : State) : s.sweepEnded.chans = s.chans := by unfold State.sweepEnded; split <;> rfl
@[simp] theorem State.sweepEnded_cell (s : State) : s.sweepEnded.cell = s.cell := by unfold State.sweepEnded; split <;> rfl
@[simp] theorem State.sweepEnded_out (s : State) : s.sweepEnded.out = s.out := by unfold State.sweepEnded; split <;> rfl
@[simp] theorem State.sweepEnded_pending (s : State) : s.sweepEnded.pending = s.pending := by unfold State.sweepEnded; split <;> rfl
@[simp] theorem State.chan_sweepEnded (s : State) (k : Nat) : s.sweepEnded.chan k = s.chan k := by simp [State.chan]

@[simp] theorem State.settleServices_core (s : State) : s.settleServices.pd.core = s.pd.core := rfl
@[simp] theorem State.sweepEnded_core (s : State) : s.sweepEnded.pd.core = s.pd.core := by unfold State.sweepEnded; split <;> rfl

/-! ## Command queues at rest -/

@[simp] theorem Chan.body_reply (c : Chan) (d : Datagram) (st : Status) (g : Option Nat) (b e : Bytes) :
    (c.reply d st g b e).body = c.body := rfl
@[simp] theorem Chan.body_setQueue (c : Chan) (q : Nat) (v : Queue) : (c.setQueue q v).body = c.body := rfl
@[simp] theorem Chan.body_outbox (c : Chan) (o : List Emit) : ({ c with outbox := o } : Chan).body = c.body := rfl
@[simp] theorem Chan.body_body (c : Chan) : c.body.body = c.body := rfl

theorem Chan.body_flushQueue (q n : Nat) (c : Chan) : (Chan.flushQueue q n c).body = c.body := by
  induction n generalizing c with
  | zero => rfl
  | succ n ih =>
    unfold Chan.flushQueue
    split
    · rfl
    · dsimp only
      split
      · rfl
      · rw [ih]; simp

@[simp] theorem Chan.body_flushQueues (c : Chan) : c.flushQueues.body = c.body := by
  unfold Chan.flushQueues
  generalize c.queues.map (·.1) = l
  induction l generalizing c with
  | nil => rfl
  | cons q t ih => rw [List.foldl_cons, ih, Chan.body_flushQueue]

/-- A queue that holds no command due to begin answers none. -/
theorem Chan.flushQueue_idle (q n : Nat) (c : Chan) (h : (c.queue q).head = none) : Chan.flushQueue q n c = c := by
  cases n with
  | zero => rfl
  | succ n => unfold Chan.flushQueue; rw [h]

/-! ## What an acting channel takes along -/

/-- What a channel takes along in another depends on its queues in nothing. -/
theorem Chan.facing_body (x : Chan) (c k : Nat) (a b : Chan) : x.facing c k a b = x.facing c k a.body b.body := rfl

theorem Chan.facing_congr (x : Chan) (c k : Nat) {a b a' b' : Chan} (ha : a.body = a'.body) (hb : b.body = b'.body) :
    x.facing c k a b = x.facing c k a' b' := by rw [Chan.facing_body, ha, hb, ← Chan.facing_body]

/-- A channel that takes nothing along leaves every other as it was. -/
theorem Chan.facing_none (x : Chan) (c k : Nat) {a b : Chan} (h : takesNone a b = true) : x.facing c k a b = x := by
  simp only [takesNone, Bool.and_eq_true, List.all_cons, List.all_nil, Bool.not_eq_true'] at h
  obtain ⟨⟨ha, hb⟩, h2, h3, h4, -⟩ := h
  simp only [Chan.facing, Chan.seamsFaced, Chan.baseFollows, ha, hb, List.foldl_cons, List.foldl_nil, h2, h3, h4, Bool.and_false]
  rcases seamPeer c 2 <;> rcases seamPeer c 3 <;> rcases seamPeer c 4 <;> simp

/-- Following changes channels alone. -/
theorem State.follow_eq (s : State) (c : Nat) (a b : Chan) : ∃ m, s.follow c a b = { s with chans := m } := by
  unfold State.follow
  split
  · exact ⟨s.chans, rfl⟩
  · generalize List.range 8 = l
    induction l generalizing s with
    | nil => exact ⟨s.chans, rfl⟩
    | cons k t ih =>
      rw [List.foldl_cons]
      split
      · exact ih s
      · obtain ⟨m, hm⟩ := ih (s.setChan k ((s.chan k).facing c k a b))
        exact ⟨m, by rw [hm]; rfl⟩

theorem State.follow_pd (s : State) (c : Nat) (a b : Chan) : (s.follow c a b).pd = s.pd := by
  obtain ⟨m, h⟩ := s.follow_eq c a b; rw [h]
theorem State.follow_cell (s : State) (c : Nat) (a b : Chan) : (s.follow c a b).cell = s.cell := by
  obtain ⟨m, h⟩ := s.follow_eq c a b; rw [h]
theorem State.follow_out (s : State) (c : Nat) (a b : Chan) : (s.follow c a b).out = s.out := by
  obtain ⟨m, h⟩ := s.follow_eq c a b; rw [h]
theorem State.follow_pending (s : State) (c : Nat) (a b : Chan) : (s.follow c a b).pending = s.pending := by
  obtain ⟨m, h⟩ := s.follow_eq c a b; rw [h]

theorem State.followAll_chan (l : List Nat) (hl : l.Nodup) (s : State) (c : Nat) (a b : Chan) (k : Nat) :
    (l.foldl (fun s k => if k = c then s else s.setChan k ((s.chan k).facing c k a b)) s).chan k =
      if k ∈ l ∧ k ≠ c then (s.chan k).facing c k a b else s.chan k := by
  induction l generalizing s with
  | nil => simp
  | cons i t ih =>
    obtain ⟨hi, ht⟩ := List.nodup_cons.1 hl
    rw [List.foldl_cons, ih ht]
    by_cases hc : i = c
    · subst hc
      rw [if_pos rfl]
      by_cases hk : k = i
      · subst hk; simp
      · simp [hk]
    · rw [if_neg hc, State.chan_setChan]
      by_cases hk : k = i
      · subst hk; simp [hi, hc]
      · simp [hk]

/-- The acting channel is not one that follows it. -/
theorem State.follow_here (s : State) (c : Nat) (a b : Chan) : (s.follow c a b).chan c = s.chan c := by
  unfold State.follow
  split
  · rfl
  · rw [State.followAll_chan _ List.nodup_range]; simp

/-- Every other channel follows as `facing` says. -/
theorem State.follow_there (s : State) (c : Nat) (a b : Chan) (k : Nat) (hk : k < 8) (hc : k ≠ c) :
    (s.follow c a b).chan k = (s.chan k).facing c k a b := by
  unfold State.follow
  split
  · next h => exact (Chan.facing_none _ c k h).symm
  · rw [State.followAll_chan _ List.nodup_range, if_pos ⟨List.mem_range.2 hk, hc⟩]

/-! ## One channel acts -/

theorem State.onChan_eq (s : State) (c : Nat) (f : Chan → Chan) :
    ∃ (o : List Out) (ch1 : Chan), ch1.body = (f (s.chan c)).body ∧ s.onChan c f =
      (({ s.setChan c { ch1 with outbox := [] } with out := s.out ++ o } : State).follow c (s.chan c)
        (f (s.chan c))).settleServices.sweepEnded := by
  unfold State.onChan
  dsimp only
  obtain ⟨o, ho⟩ := State.deliverAll_eq
    ((if (f (s.chan c)).linkLost then (f (s.chan c)).outbox.filter (fun e => !e.viaPort) else (f (s.chan c)).outbox) ++
      ({ f (s.chan c) with outbox := [] } : Chan).flushQueues.outbox) c
    (s.setChan c { ({ f (s.chan c) with outbox := [] } : Chan).flushQueues with outbox := [] })
  rw [ho]
  exact ⟨o, _, (Chan.body_flushQueues _).trans (Chan.body_outbox _ _), rfl⟩

/-- The channel after it acted, but for its queues and what it handed over. -/
@[simp] theorem State.onChan_body (s : State) (c : Nat) (f : Chan → Chan) : ((s.onChan c f).chan c).body = (f (s.chan c)).body := by
  obtain ⟨o, ch1, hb, h⟩ := s.onChan_eq c f
  rw [h]
  simp only [State.chan_sweepEnded, State.chan_settleServices, State.follow_here]
  show ((s.setChan c { ch1 with outbox := [] }).chan c).body = _
  simp [hb]

/-- Every other channel takes from the acting one what `facing` says. -/
theorem State.onChan_there (s : State) (c k : Nat) (f : Chan → Chan) (h8 : k < 8) (hk : k ≠ c) :
    (s.onChan c f).chan k = (s.chan k).facing c k (s.chan c) (f (s.chan c)) := by
  obtain ⟨o, ch1, _, h⟩ := s.onChan_eq c f
  rw [h]
  simp only [State.chan_sweepEnded, State.chan_settleServices]
  rw [State.follow_there _ _ _ _ _ h8 hk]
  show ((s.setChan c { ch1 with outbox := [] }).chan k).facing c k _ _ = _
  simp [hk]

@[simp] theorem State.onChan_cell (s : State) (c : Nat) (f : Chan → Chan) : (s.onChan c f).cell = s.cell := by
  obtain ⟨o, ch1, _, h⟩ := s.onChan_eq c f; rw [h]; simp [State.follow_cell]

@[simp] theorem State.onChan_pending (s : State) (c : Nat) (f : Chan → Chan) : (s.onChan c f).pending = s.pending := by
  obtain ⟨o, ch1, _, h⟩ := s.onChan_eq c f; rw [h]; simp [State.follow_pending]

@[simp] theorem State.onChan_core (s : State) (c : Nat) (f : Chan → Chan) : (s.onChan c f).pd.core = s.pd.core := by
  obtain ⟨o, ch1, _, h⟩ := s.onChan_eq c f; rw [h]; simp [State.follow_pd]

/-- What has been sent stays sent. -/
theorem State.onChan_out (s : State) (c : Nat) (f : Chan → Chan) : ∃ o, (s.onChan c f).out = s.out ++ o := by
  obtain ⟨o, ch1, _, h⟩ := s.onChan_eq c f; rw [h]; exact ⟨o, by simp [State.follow_out]⟩

/-- What an acting channel hands over is sent, while its controller link is up. -/
theorem State.onChan_sent (s : State) (c : Nat) (f : Chan → Chan) (e : Emit) (o : Out) (hl : (f (s.chan c)).linkLost = false)
    (he : e ∈ (f (s.chan c)).outbox) (ho : ∀ s' : State, s'.pd = s.pd → o ∈ (s'.deliver c e).out) : o ∈ (s.onChan c f).out := by
  unfold State.onChan
  dsimp only
  rw [State.sweepEnded_out, State.settleServices_out, State.follow_out]
  refine State.deliverAll_out _ c _ e o ?_ (fun s' h => ho s' (by rw [h]; rfl))
  rw [hl]
  exact List.mem_append_left _ he

end Sys2Proof.Machine
end

