-- ==== Sys2Proof/Laws/Cmd.lean ====
section
/-! SUPPORT. What an admitted command does: the shared procedure begins it, runs its effect, and its reply is sent. -/

namespace Sys2Proof.Machine

/-! ## Commands that act on one channel -/

theorem State.onChan_actsOn (s : State) (c : Nat) (f : Chan → Chan) : ActsOn s (s.onChan c f) c (f (s.chan c)) :=
  ⟨s.onChan_body c f, fun k h8 hk => s.onChan_there c k f h8 hk, s.onChan_core c f, s.onChan_cell c f, s.onChan_pending c f,
    s.onChan_out c f⟩

/-- A command whose meaning is `chanStep` of `f` makes its channel `f` of what it was. -/
theorem Acts.of_chanStep {i : Instr} {s : State} {c : Nat} {f : Chan → Chan} {d : Chan} (h : exec i s = chanStep s c f)
    (hd : f (s.chan c) = d) : Acts i s c d := ⟨_, h, hd ▸ s.onChan_actsOn c f⟩

/-- A fact about the channel that does not look at its queues and outbox passes to the next state. -/
theorem ActsOn.body_eq {s t : State} {c : Nat} {d : Chan} (h : ActsOn s t c d) : (t.chan c).body = d.body := h.here

/-- Equal bodies have equal parts. -/
theorem Chan.body_ext {a b : Chan} (h : a.body = b.body) :
    a.idx = b.idx ∧ a.st = b.st ∧ a.freeze = b.freeze ∧ a.node = b.node ∧ a.fm = b.fm ∧ a.bank = b.bank ∧ a.log = b.log ∧
      a.evtSeq = b.evtSeq ∧ a.tiles = b.tiles ∧ a.flits = b.flits ∧ a.due = b.due ∧ a.hbm = b.hbm ∧ a.poison = b.poison ∧
      a.groves = b.groves ∧ a.links = b.links ∧ a.inbox = b.inbox ∧ a.tables = b.tables ∧ a.targets = b.targets ∧ a.combs = b.combs ∧
      a.progs = b.progs ∧ a.linkLost = b.linkLost ∧ a.knots = b.knots ∧ a.power = b.power ∧ a.applyWait = b.applyWait ∧
      a.free = b.free := by
  cases a; cases b
  simp only [Chan.body, Chan.mk.injEq] at h ⊢
  tauto

theorem Chan.body_idx {a b : Chan} (h : a.body = b.body) : a.idx = b.idx := (Chan.body_ext h).1
theorem Chan.body_st {a b : Chan} (h : a.body = b.body) : a.st = b.st := by have := Chan.body_ext h; tauto
theorem Chan.body_freeze {a b : Chan} (h : a.body = b.body) : a.freeze = b.freeze := by have := Chan.body_ext h; tauto
theorem Chan.body_bank {a b : Chan} (h : a.body = b.body) : a.bank = b.bank := by have := Chan.body_ext h; tauto
theorem Chan.body_log {a b : Chan} (h : a.body = b.body) : a.log = b.log := by have := Chan.body_ext h; tauto
theorem Chan.body_tiles {a b : Chan} (h : a.body = b.body) : a.tiles = b.tiles := by have := Chan.body_ext h; tauto
theorem Chan.body_hbm {a b : Chan} (h : a.body = b.body) : a.hbm = b.hbm := by have := Chan.body_ext h; tauto
theorem Chan.body_groves {a b : Chan} (h : a.body = b.body) : a.groves = b.groves := by have := Chan.body_ext h; tauto
theorem Chan.body_links {a b : Chan} (h : a.body = b.body) : a.links = b.links := by have := Chan.body_ext h; tauto
theorem Chan.body_targets {a b : Chan} (h : a.body = b.body) : a.targets = b.targets := by have := Chan.body_ext h; tauto
theorem Chan.body_progs {a b : Chan} (h : a.body = b.body) : a.progs = b.progs := by have := Chan.body_ext h; tauto
theorem Chan.body_linkLost {a b : Chan} (h : a.body = b.body) : a.linkLost = b.linkLost := by have := Chan.body_ext h; tauto
theorem Chan.body_power {a b : Chan} (h : a.body = b.body) : a.power = b.power := by have := Chan.body_ext h; tauto
theorem Chan.body_flits {a b : Chan} (h : a.body = b.body) : a.flits = b.flits := by have := Chan.body_ext h; tauto
theorem Chan.body_combs {a b : Chan} (h : a.body = b.body) : a.combs = b.combs := by have := Chan.body_ext h; tauto
theorem Chan.body_grove {a b : Chan} (h : a.body = b.body) (g : Nat) : a.grove g = b.grove g := by
  simp [Chan.grove, Chan.body_groves h]
theorem Chan.body_tile {a b : Chan} (h : a.body = b.body) (i : Nat) : a.tile i = b.tile i := by simp [Chan.tile, Chan.body_tiles h]
theorem Chan.body_ctx {a b : Chan} (h : a.body = b.body) (i x : Nat) : a.ctx i x = b.ctx i x := by
  simp [Chan.ctx, Chan.body_tile h]
theorem Chan.body_link {a b : Chan} (h : a.body = b.body) (i : Nat) : a.link i = b.link i := by simp [Chan.link, Chan.body_links h]
theorem Chan.body_fld {a b : Chan} (h : a.body = b.body) (f : Fld) : a.fld f = b.fld f := by simp [Chan.fld, Chan.body_bank h]
theorem Chan.body_reg {a b : Chan} (h : a.body = b.body) (o : Nat) : a.reg o = b.reg o := by simp [Chan.reg, Chan.body_bank h]

theorem State.onChan_idx (s : State) (c : Nat) (f : Chan → Chan) : ((s.onChan c f).chan c).idx = (f (s.chan c)).idx :=
  Chan.body_idx (s.onChan_body c f)
theorem State.onChan_st (s : State) (c : Nat) (f : Chan → Chan) : ((s.onChan c f).chan c).st = (f (s.chan c)).st :=
  Chan.body_st (s.onChan_body c f)
theorem State.onChan_freeze (s : State) (c : Nat) (f : Chan → Chan) : ((s.onChan c f).chan c).freeze = (f (s.chan c)).freeze :=
  Chan.body_freeze (s.onChan_body c f)
theorem State.onChan_grove (s : State) (c : Nat) (f : Chan → Chan) (g : Nat) : ((s.onChan c f).chan c).grove g = (f (s.chan c)).grove g :=
  Chan.body_grove (s.onChan_body c f) g
theorem State.onChan_tile (s : State) (c : Nat) (f : Chan → Chan) (i : Nat) : ((s.onChan c f).chan c).tile i = (f (s.chan c)).tile i :=
  Chan.body_tile (s.onChan_body c f) i
theorem State.onChan_link (s : State) (c : Nat) (f : Chan → Chan) (i : Nat) : ((s.onChan c f).chan c).link i = (f (s.chan c)).link i :=
  Chan.body_link (s.onChan_body c f) i
theorem State.onChan_fld (s : State) (c : Nat) (f : Chan → Chan) (x : Fld) : ((s.onChan c f).chan c).fld x = (f (s.chan c)).fld x :=
  Chan.body_fld (s.onChan_body c f) x
theorem State.onChan_hbm (s : State) (c : Nat) (f : Chan → Chan) : ((s.onChan c f).chan c).hbm = (f (s.chan c)).hbm :=
  Chan.body_hbm (s.onChan_body c f)
theorem State.onChan_log (s : State) (c : Nat) (f : Chan → Chan) : ((s.onChan c f).chan c).log = (f (s.chan c)).log :=
  Chan.body_log (s.onChan_body c f)

/-- Equal port dies but for services, ring and ended sessions agree on the open sessions. -/
theorem PortDie.core_sessions {a b : PortDie} (h : a.core = b.core) : a.sessions = b.sessions := by
  cases a; cases b; simp only [PortDie.core, PortDie.mk.injEq] at h ⊢; tauto

theorem PortDie.core_session {a b : PortDie} (h : a.core = b.core) (id : Nat) : a.session id = b.session id := by
  simp [PortDie.session, PortDie.core_sessions h]

theorem State.onChan_session (s : State) (c : Nat) (f : Chan → Chan) (id : Nat) : (s.onChan c f).pd.session id = s.pd.session id :=
  PortDie.core_session (s.onChan_core c f) id

/-! ## Queue flushing leaves resting queues alone -/

theorem Chan.flushQueues_idle (c : Chan) (h : ∀ q, (c.queue q).head = none) : c.flushQueues = c := by
  unfold Chan.flushQueues
  generalize c.queues.map (·.1) = l
  induction l with
  | nil => rfl
  | cons q t ih => rw [List.foldl_cons, Chan.flushQueue_idle q 65 c (h q), ih]

theorem Queue.begin_head (q : Queue) (d : Datagram) : (q.begin d).head = none := by simp [Queue.begin, Queue.head]

/-! ## Channel commands -/

@[simp] theorem Chan.begun_body (c : Chan) (d : Datagram) : (c.begun d).body = c.body := rfl

/-- A ready channel command begins and has its row's effect. -/
theorem ReadyC.chanCmdS {s : State} {q : Issue} {op : Nat} {fs : List (Nat × Nat × Nat)} {conf : Chan → Datagram → Bool}
    {bad : Datagram → List (Bool × Nat)} {d : Datagram} (h : ReadyC s q op fs conf bad d) (f : Datagram → State → State) :
    s.chanCmdS q op fs conf bad f = f d (s.setChan q.channel ((s.chan q.channel).begun d)) := by
  unfold State.chanCmdS
  have hc : ¬ 8 ≤ q.channel := by have := h.chan; omega
  rw [if_neg hc, h.head]
  dsimp only
  have hb : (let c := s.chan q.channel; c.setQueue d.queue ((c.queue d.queue).begin d)) = (s.chan q.channel).begun d := rfl
  have ha := h.passes
  rw [← h.queue] at ha
  have ha2 : ((s.chan q.channel).begun d).refused (s.rights d.session q.channel).1 (s.rights d.session q.channel).2 d (groveNamed d)
      conf (bad d) = none := ha
  simp [hb, h.link, ha2]

theorem ReadyC.chanCmd {s : State} {q : Issue} {op : Nat} {fs : List (Nat × Nat × Nat)} {conf : Chan → Datagram → Bool}
    {bad : Datagram → List (Bool × Nat)} {d : Datagram} (h : ReadyC s q op fs conf bad d) (f : Datagram → Chan → Chan) :
    s.chanCmd q op fs conf bad f = (s.setChan q.channel ((s.chan q.channel).begun d)).onChan q.channel (f d) := h.chanCmdS _

/-- The body of the channel after a ready channel command. -/
theorem ReadyC.body {s : State} {q : Issue} {op : Nat} {fs : List (Nat × Nat × Nat)} {conf : Chan → Datagram → Bool}
    {bad : Datagram → List (Bool × Nat)} {d : Datagram} (h : ReadyC s q op fs conf bad d) (f : Datagram → Chan → Chan) :
    ((s.chanCmd q op fs conf bad f).chan q.channel).body = (f d ((s.chan q.channel).begun d)).body := by
  rw [h.chanCmd, State.onChan_body]; simp

/-- What a ready channel command leaves of the rest of the module. -/
theorem ReadyC.actsOn {s : State} {q : Issue} {op : Nat} {fs : List (Nat × Nat × Nat)} {conf : Chan → Datagram → Bool}
    {bad : Datagram → List (Bool × Nat)} {d : Datagram} (h : ReadyC s q op fs conf bad d) (f : Datagram → Chan → Chan) :
    ActsOn s (s.chanCmd q op fs conf bad f) q.channel (f d ((s.chan q.channel).begun d)) := by
  refine ⟨h.body f, ?_, ?_, ?_, ?_, ?_⟩
  all_goals rw [h.chanCmd]
  · intro k h8 hk
    rw [State.onChan_there _ _ _ _ h8 hk]
    simp only [State.chan_setChan, hk, if_false, if_true]
    exact Chan.facing_congr _ _ _ rfl rfl
  · rw [State.onChan_core]; rfl
  · rw [State.onChan_cell]; rfl
  · rw [State.onChan_pending]; rfl
  · exact (s.setChan q.channel ((s.chan q.channel).begun d)).onChan_out q.channel (f d)

/-! ## Replies -/

@[simp] theorem leBytes_length (n v : Nat) : (leBytes n v).length = n := by
  induction n generalizing v with
  | zero => rfl
  | succ n ih => simp [leBytes, ih]

@[simp] theorem zeros_length (n : Nat) : (zeros n).length = n := by simp [zeros]

@[simp] theorem slice_length (b : Bytes) (off n : Nat) : (slice b off n).length = n := by
  simp [slice]

@[simp] theorem replyBlock_length (st : Status) (a b c n : Nat) (d : Bytes) : (replyBlock st a b c n d).length = 16 := by
  simp [replyBlock]

@[simp] theorem replyBlock_head (st : Status) (a b c n : Nat) (d : Bytes) :
    (replyBlock st a b c n d).head? = some (BitVec.ofNat 8 st.code) := by
  simp [replyBlock, leBytes]

/-- A reply that a channel hands over reaches its command's source. -/
theorem answered_of_reply {s s1 : State} {ch : Nat} {f : Chan → Chan} {d : Datagram} {r : ReplyRec} {st : Status} {blk data : Bytes}
    (hs : s1.pd.session d.session = s.pd.session d.session) (ho : (s.pd.session d.session).isSome)
    (hl : (f (s1.chan ch)).linkLost = false) (hm : Emit.reply d.channel d.queue d.session r ∈ (f (s1.chan ch)).outbox)
    (hr : r = ⟨d.seq, d.opcode, d.origin, blk ++ data⟩) (hn : blk.length = 16) (hh : blk.head? = some (BitVec.ofNat 8 st.code)) :
    Answered s (s1.onChan ch f) d st data := by
  obtain ⟨x, hx⟩ := Option.isSome_iff_exists.1 ho
  refine ⟨blk, hn, hh, ?_⟩
  refine s1.onChan_sent ch f _ _ hl hm ?_
  intro s' hpd
  subst hr
  unfold State.deliver
  dsimp only
  have hsess : s'.pd.session d.session = some x := by rw [hpd, hs, hx]
  rw [hsess, hx]
  simp [replyPacket]

/-- A ready channel command whose effect ends in a reply is answered. -/
theorem ReadyC.answered {s : State} {q : Issue} {op : Nat} {fs : List (Nat × Nat × Nat)} {conf : Chan → Datagram → Bool}
    {bad : Datagram → List (Bool × Nat)} {d : Datagram} (h : ReadyC s q op fs conf bad d) {f : Datagram → Chan → Chan} {c : Chan}
    {st : Status} {g : Option Nat} {detail data : Bytes} (hf : f d ((s.chan q.channel).begun d) = c.reply d st g detail data)
    (hi : c.idx = (s.chan q.channel).idx) (hl : c.linkLost = (s.chan q.channel).linkLost) :
    Answered s (s.chanCmd q op fs conf bad f) d st data := by
  rw [h.chanCmd]
  have hb : (s.setChan q.channel ((s.chan q.channel).begun d)).chan q.channel = (s.chan q.channel).begun d := by simp
  refine answered_of_reply (blk := c.block st g (min ((c.queue d.queue).tokens + 1) 64) detail)
    (r := ⟨d.seq, d.opcode, d.origin, c.block st g (min ((c.queue d.queue).tokens + 1) 64) detail ++ data⟩)
    rfl h.sess ?_ ?_ rfl ?_ ?_
  · rw [hb, hf]; simp [hl, h.link]
  · rw [hb, hf]
    have hc : c.idx = d.channel := by rw [hi, h.place, h.named]
    unfold Chan.reply
    dsimp only
    rw [hc]
    exact List.mem_append_right _ (List.mem_singleton.2 rfl)
  · unfold Chan.block; exact replyBlock_length _ _ _ _ _ _
  · unfold Chan.block; exact replyBlock_head _ _ _ _ _ _

/-! ## The port die -/

/-- Only the port die and what has been sent have changed. -/
structure PortOnly (s t : State) : Prop where
  chans   : t.chans = s.chans
  cell    : t.cell = s.cell
  pending : t.pending = s.pending
  out     : ∃ o, t.out = s.out ++ o

theorem PortOnly.refl (s : State) : PortOnly s s := ⟨rfl, rfl, rfl, [], by simp⟩

theorem PortOnly.trans {a b c : State} (h : PortOnly a b) (k : PortOnly b c) : PortOnly a c := by
  obtain ⟨x, hx⟩ := h.out
  obtain ⟨y, hy⟩ := k.out
  exact ⟨k.chans.trans h.chans, k.cell.trans h.cell, k.pending.trans h.pending, x ++ y, by rw [hy, hx, List.append_assoc]⟩

theorem PortOnly.mem_out {s t : State} (h : PortOnly s t) {o : Out} (ho : o ∈ s.out) : o ∈ t.out := by
  obtain ⟨x, hx⟩ := h.out; rw [hx]; exact List.mem_append_left _ ho

theorem PortOnly.chan {s t : State} (h : PortOnly s t) (k : Nat) : t.chan k = s.chan k := by simp [State.chan, h.chans]

theorem State.onPort_only (s : State) (f : PortDie → PortDie) : PortOnly s (s.onPort f) := ⟨rfl, rfl, rfl, [], by simp [State.onPort]⟩

theorem State.draw_only (s : State) : PortOnly s s.draw.2 := State.onPort_only s (fun p => { p with free := p.free + 1 })

theorem State.deliver_only (s : State) (ch : Nat) (e : Emit) : PortOnly s (s.deliver ch e) := by
  obtain ⟨l, h⟩ := s.deliver_eq ch e
  exact ⟨by rw [h], by rw [h], by rw [h], l, by rw [h]⟩

theorem State.settleServices_only (s : State) : PortOnly s s.settleServices := ⟨rfl, rfl, rfl, [], by simp [State.settleServices]⟩

theorem State.sweepEnded_only (s : State) : PortOnly s s.sweepEnded := ⟨by simp, by simp, by simp, [], by simp⟩

theorem State.replyM_only (s : State) (d : Datagram) (st : Status) (detail data : Bytes) : PortOnly s (s.replyM d st detail data) := by
  unfold State.replyM
  split
  · exact ((State.draw_only s).trans (State.onPort_only _ _)).trans (State.deliver_only _ _ _)
  · exact (State.onPort_only _ _).trans (State.deliver_only _ _ _)

theorem State.logClock_only (s : State) (ch : Option Nat) : PortOnly s (s.logClock ch).2 := by
  unfold State.logClock
  split
  · exact PortOnly.refl s
  · split
    · exact State.draw_only s
    · exact PortOnly.refl s

theorem State.flog_only (s : State) (st : Status) (src code : Nat) (ch : Option Nat) (arg : BitVec 64) :
    PortOnly s (s.flog st src code ch arg) := by
  unfold State.flog
  exact (((State.logClock_only s ch).trans (State.onPort_only _ _)).trans (State.deliver_only _ _ _)).trans (State.settleServices_only _)

theorem State.completeM_only (s : State) (d : Datagram) (st : Status) (data : Bytes) : PortOnly s (s.completeM d st data) := by
  unfold State.completeM
  exact (((State.logClock_only s none).trans (State.onPort_only _ _)).trans (State.deliver_only _ _ _)).trans (State.settleServices_only _)

theorem State.flushM_only (id n : Nat) (s : State) : PortOnly s (State.flushM id n s) := by
  induction n generalizing s with
  | zero => exact PortOnly.refl s
  | succ n ih =>
    unfold State.flushM
    split
    · exact PortOnly.refl s
    · split
      · exact PortOnly.refl s
      · exact ((State.onPort_only _ _).trans (State.replyM_only _ _ _ _ _)).trans (ih _)

theorem State.begunM_only (s : State) (d : Datagram) : PortOnly s (s.begunM d) := State.onPort_only _ _

/-- A ready module command begins and has its row's effect. -/
theorem ReadyM.modCmd {s : State} {q : Issue} {op : Nat} {fs : List (Nat × Nat × Nat)} {conf : Bool}
    {bad : Datagram → List (Bool × Nat)} {d : Datagram} (h : ReadyM s q op fs conf bad d) (f : Datagram → State → State) :
    s.modCmd q op fs conf bad f = (State.flushM d.session 65 (f d (s.begunM d))).sweepEnded := by
  obtain ⟨o, ho, hr, hb⟩ := h.spec
  have hs : d.session ≠ 0 := by rw [h.same]; exact h.sess
  have hc : conf = false := h.conf
  unfold State.modCmd
  rw [h.head]
  dsimp only
  rw [if_neg hs, ho]
  dsimp only
  rw [if_neg hs, hc, hb]
  simp [State.begunM, hr]

/-- A ready module command of session 0 has its row's effect. -/
theorem Ready0.modCmd {s : State} {q : Issue} {op : Nat} {fs : List (Nat × Nat × Nat)}
    {bad : Datagram → List (Bool × Nat)} {d : Datagram} (h : Ready0 s q op fs bad d) (f : Datagram → State → State) :
    s.modCmd q op fs false bad f = (State.flushM d.session 65 (f d s)).sweepEnded := by
  obtain ⟨o, ho, hb⟩ := h.spec
  unfold State.modCmd
  rw [h.head]
  dsimp only
  rw [if_pos h.sess, ho]
  dsimp only
  rw [if_pos h.sess, hb]
  simp

/-- A module command that only replies leaves everything but the port die. -/
theorem ReadyM.only {s : State} {q : Issue} {op : Nat} {fs : List (Nat × Nat × Nat)} {conf : Bool}
    {bad : Datagram → List (Bool × Nat)} {d : Datagram} (h : ReadyM s q op fs conf bad d) {f : Datagram → State → State}
    (hf : PortOnly (s.begunM d) (f d (s.begunM d))) : PortOnly s (s.modCmd q op fs conf bad f) := by
  rw [h.modCmd]
  exact (((State.begunM_only s d).trans hf).trans (State.flushM_only _ _ _)).trans (State.sweepEnded_only _)

theorem PortDie.onSession_find (p : PortDie) (id : Nat) (f : Session → Session) (hf : ∀ x, (f x).id = x.id) (k : Nat) :
    (p.onSession id f).session k = (p.session k).map (fun x => if x.id = id then f x else x) := by
  unfold PortDie.session PortDie.onSession
  dsimp only
  induction p.sessions with
  | nil => rfl
  | cons a t ih =>
    rw [List.map_cons, List.find?_cons, List.find?_cons]
    have hid : (if a.id = id then f a else a).id = a.id := by split <;> simp [hf]
    rw [hid]
    split
    · rfl
    · exact ih

/-- The reply to a module command of an open session is sent under the session's key. -/
theorem State.replyM_answered (s : State) (d : Datagram) (st : Status) (detail data : Bytes) (x : Session) (hd : d.session ≠ 0)
    (hx : s.pd.session d.session = some x) (hc : d.channel = 0xFF) (hq : d.queue = 0) :
    ∃ blk : Bytes, blk.length = 16 ∧ blk.head? = some (BitVec.ofNat 8 st.code) ∧
      replyPacket (some x.kMh) d d.session blk data ∈ (s.replyM d st detail data).out := by
  refine ⟨replyBlock st 0xFF 0xFF 0xFF (min ((s.pd.modQueue d.session).tokens + 1) 64) detail, by simp, by simp, ?_⟩
  unfold State.replyM
  rw [if_neg hd]
  dsimp only
  unfold State.deliver
  dsimp only
  have hfind (v : Queue) (r : ReplyRec) : ((s.onPort (fun p => (p.onSession d.session (fun y => { y with queue := v })).keepReply d.session r)).pd.session
      d.session).map (·.kMh) = some x.kMh := by
    rw [State.onPort_pd, PortDie.keepReply_session, PortDie.onSession_find s.pd d.session (fun y => { y with queue := v }) (fun _ => rfl), hx]
    simp only [Option.map_some]
    split <;> rfl
  rw [hfind]
  simp [replyPacket, hc, hq]

/-- A ready module command whose effect is a reply is answered. -/
theorem ReadyM.answered {s : State} {q : Issue} {op : Nat} {fs : List (Nat × Nat × Nat)} {conf : Bool}
    {bad : Datagram → List (Bool × Nat)} {d : Datagram} (h : ReadyM s q op fs conf bad d) {f : Datagram → State → State} {s1 s2 : State}
    {st : Status} {detail data : Bytes} (hf : f d (s.begunM d) = s2) (h2 : PortOnly (s1.replyM d st detail data) s2)
    (hs : (s1.pd.session d.session).map (·.kMh) = (s.pd.session d.session).map (·.kMh)) :
    Answered s (s.modCmd q op fs conf bad f) d st data := by
  have hd : d.session ≠ 0 := by rw [h.same]; exact h.sess
  obtain ⟨x, hx⟩ := Option.isSome_iff_exists.1 h.open_
  rw [hx] at hs
  obtain ⟨y, hy⟩ : ∃ y, s1.pd.session d.session = some y := by
    cases hy : s1.pd.session d.session with
    | none => rw [hy] at hs; cases hs
    | some y => exact ⟨y, rfl⟩
  obtain ⟨blk, h1, h3, h4⟩ := s1.replyM_answered d st detail data y hd hy h.named h.queue
  refine ⟨blk, h1, h3, ?_⟩
  have hk : y.kMh = x.kMh := by rw [hy] at hs; simpa using hs
  rw [hx, Option.map_some, ← hk, h.modCmd, hf]
  exact ((State.flushM_only _ _ _).trans (State.sweepEnded_only _)).mem_out (h2.mem_out h4)

/-- Beginning a module command keeps every session's keys. -/
theorem State.begunM_key (s : State) (d : Datagram) (id : Nat) :
    ((s.begunM d).pd.session id).map (·.kMh) = (s.pd.session id).map (·.kMh) := by
  unfold State.begunM
  rw [State.onPort_pd, PortDie.onSession_find s.pd d.session (fun x => { x with queue := x.queue.begin d }) (fun _ => rfl)]
  cases s.pd.session id with
  | none => rfl
  | some x => simp only [Option.map_some]; split <;> rfl

/-- A ready channel command changes its channel alone, as its effect says. -/
theorem ReadyC.acts {i : Instr} {s : State} {q : Issue} {op : Nat} {fs : List (Nat × Nat × Nat)} {conf : Chan → Datagram → Bool}
    {bad : Datagram → List (Bool × Nat)} {d : Datagram} (h : ReadyC s q op fs conf bad d) {f : Datagram → Chan → Chan} {k : Chan}
    (he : exec i s = .next (s.chanCmd q op fs conf bad f)) (hk : (f d ((s.chan q.channel).begun d)).body = k.body) :
    ∃ t, exec i s = .next t ∧ ActsOn s t q.channel k := by
  have ha := h.actsOn f
  exact ⟨_, he, by rw [ha.here, hk], fun i h8 hi => (ha.there i h8 hi).trans (Chan.facing_congr _ _ _ rfl hk), ha.port, ha.cell,
    ha.pending, ha.out⟩

/-- A ready channel command whose effect ends in a reply executes. -/
theorem Executes.of {i : Instr} {s : State} {q : Issue} {op : Nat} {fs : List (Nat × Nat × Nat)} {conf : Chan → Datagram → Bool}
    {bad : Datagram → List (Bool × Nat)} {d : Datagram} (h : ReadyC s q op fs conf bad d) {f : Datagram → Chan → Chan} {c k : Chan}
    {st : Status} {g : Option Nat} {detail data : Bytes} (he : exec i s = .next (s.chanCmd q op fs conf bad f))
    (hf : f d ((s.chan q.channel).begun d) = c.reply d st g detail data)
    (hi : c.idx = (s.chan q.channel).idx) (hl : c.linkLost = (s.chan q.channel).linkLost) (hk : c.body = k.body) :
    Executes i s d k st data := by
  refine ⟨_, he, ?_, h.answered hf hi hl⟩
  have ha := h.actsOn f
  rw [h.named]
  have hb : (f d ((s.chan q.channel).begun d)).body = k.body := by rw [hf, Chan.body_reply, hk]
  exact ⟨by rw [ha.here, hb], fun i h8 hi => (ha.there i h8 hi).trans (Chan.facing_congr _ _ _ rfl hb), ha.port, ha.cell, ha.pending,
    ha.out⟩

/-- A ready module command whose effect ends in a reply executes. -/
theorem ExecutesM.of {i : Instr} {s : State} {q : Issue} {op : Nat} {fs : List (Nat × Nat × Nat)} {conf : Bool}
    {bad : Datagram → List (Bool × Nat)} {d : Datagram} (h : ReadyM s q op fs conf bad d) {f : Datagram → State → State} {s1 : State}
    {st : Status} {detail data : Bytes} (he : exec i s = .next (s.modCmd q op fs conf bad f))
    (hf : f d (s.begunM d) = s1.replyM d st detail data) (h1 : PortOnly (s.begunM d) s1)
    (hs : (s1.pd.session d.session).map (·.kMh) = (s.pd.session d.session).map (·.kMh)) : ExecutesM i s d st data := by
  have ho := h.only (f := f) (by rw [hf]; exact h1.trans (State.replyM_only _ _ _ _ _))
  exact ⟨_, he, ho.chans, ho.cell, h.answered hf (PortOnly.refl _) hs⟩

end Sys2Proof.Machine
end

