-- ==== Sys2Proof/Laws/Lanes.lean ====
section
/-! SUPPORT. The lanes of a vector register, the registers of a context after a write, and what an issued instruction leaves. -/

namespace Sys2Proof.Machine

/-! ## Lanes -/

/-- A register of lanes as a number. -/
def lanesNat (w : Nat) (ls : List Nat) : Nat := ls.foldr (fun x acc => x % 2 ^ w + acc * 2 ^ w) 0

theorem lanesNat_lt (w : Nat) (ls : List Nat) : lanesNat w ls < 2 ^ (w * ls.length) := by
  induction ls with
  | nil => simp [lanesNat]
  | cons x t ih =>
    have hx : x % 2 ^ w + 1 ≤ 2 ^ w := Nat.mod_lt _ (by positivity)
    have hs : lanesNat w (x :: t) = x % 2 ^ w + lanesNat w t * 2 ^ w := rfl
    have hp : (2 : Nat) ^ (w * (x :: t).length) = 2 ^ (w * t.length) * 2 ^ w := by
      rw [← pow_add, List.length_cons, Nat.mul_succ]
    rw [hs, hp]
    have h1 : (lanesNat w t + 1) * 2 ^ w ≤ 2 ^ (w * t.length) * 2 ^ w := Nat.mul_le_mul_right _ ih
    have h2 : (lanesNat w t + 1) * 2 ^ w = lanesNat w t * 2 ^ w + 2 ^ w := by ring
    omega

theorem lanesNat_bits (w : Nat) (ls : List Nat) (l : Nat) (h : l < ls.length) : bits (lanesNat w ls) (l * w) w = ls.getD l 0 % 2 ^ w := by
  induction ls generalizing l with
  | nil => simp at h
  | cons x t ih =>
    have hs : lanesNat w (x :: t) = x % 2 ^ w + lanesNat w t * 2 ^ w := rfl
    cases l with
    | zero => rw [hs]; unfold bits; simp
    | succ l =>
      have hl : l < t.length := by simpa using h
      have := ih l hl
      rw [hs]
      unfold bits at this ⊢
      rw [Nat.succ_mul, Nat.add_comm (l * w) w, pow_add, ← Nat.div_div_eq_div_mul, Nat.add_mul_div_right _ _ (by positivity),
        Nat.div_eq_of_lt (Nat.mod_lt _ (by positivity)), Nat.zero_add, this]
      simp

theorem packLanes_toNat (w : Nat) (ls : List Nat) (h : w * ls.length ≤ 2048) : (packLanes w ls).toNat = lanesNat w ls := by
  unfold packLanes
  rw [BitVec.toNat_ofNat]
  exact Nat.mod_eq_of_lt (lt_of_lt_of_le (lanesNat_lt w ls) (Nat.pow_le_pow_right (Nat.zero_lt_succ 1) h))

/-- A lane of a register put together of lanes. -/
theorem laneAt_packLanes (t : Bool) (ls : List Nat) (l : Nat) (hn : ls.length = laneCount t) (hl : l < laneCount t) :
    laneAt t (packLanes (laneBits t) ls) l = ls.getD l 0 % 2 ^ laneBits t := by
  unfold laneAt
  rw [packLanes_toNat _ _ (by rw [hn]; cases t <;> decide)]
  exact lanesNat_bits _ _ _ (by omega)

theorem laneAt_lt (t : Bool) (v : BitVec 2048) (l : Nat) : laneAt t v l < 2 ^ laneBits t := Nat.mod_lt _ (by positivity)

/-- A lane after a lane-wise operation: its result where the predicate opens it, its old value where it is gated. -/
theorem laneAt_vecApply (t : Bool) (p : BitVec 128) (old : BitVec 2048) (f : Nat → Nat × FFlags) (l : Nat) (hl : l < laneCount t) :
    laneAt t (vecApply t p old f).1 l = if p.getLsbD l then (f l).1 % 2 ^ laneBits t else laneAt t old l := by
  unfold vecApply
  dsimp only
  rw [laneAt_packLanes t _ l (by simp) hl]
  simp only [List.map_map, List.getD_eq_getElem?_getD, List.getElem?_map, List.getElem?_range hl, Option.map_some, Option.getD_some,
    Function.comp]
  split
  · rfl
  · exact Nat.mod_eq_of_lt (laneAt_lt _ _ _)

/-! ## Registers of a context -/

@[simp] theorem Ctx.vr_setV (v : Ctx) (i j : BitVec 5) (x : BitVec 2048) : (v.setV i x).vr j = if j = i then x else v.vr j := by
  unfold Ctx.vr Ctx.setV
  simp only [mapGet_mapSet, BitVec.toNat_inj]

@[simp] theorem Ctx.xr_setX (v : Ctx) (i j : BitVec 5) (x : BitVec 64) :
    (v.setX i x).xr j = if j = i ∧ i ≠ 0 then x else v.xr j := by
  unfold Ctx.setX
  by_cases hi : i = 0
  · simp [hi]
  · rw [if_neg hi]
    unfold Ctx.xr
    by_cases hj : j = 0
    · subst hj
      have : ¬((0 : BitVec 5) = i ∧ i ≠ 0) := fun h => hi h.1.symm
      rw [if_neg this]; simp
    · simp only [hj, if_false, mapGet_mapSet, BitVec.toNat_inj, hi, ne_eq, not_false_eq_true, and_true]

@[simp] theorem Ctx.sem_setSem (v : Ctx) (i j n : Nat) : (v.setSem i n).sem j = if j = i then n else v.sem j := by
  unfold Ctx.sem Ctx.setSem
  simp only [mapGet_mapSet]

/-! ## Issuing -/

/-- An instruction that issues changes its own context and moves it to the next word. -/
theorem Chan.issue_eq {c : Chan} {i x : Nat} (f : Ctx → Ctx) (h : c.canIssue i x = true) :
    c.issue i x f = c.onCtx i x (fun v => (f v).advance) := by
  unfold Chan.issue; rw [if_pos h]

/-- A context that can issue is running on a tile that runs. -/
theorem Chan.canIssue_iff (c : Chan) (i x : Nat) : c.canIssue i x = true ↔ c.tileRuns i = true ∧ (c.ctx i x).st = .running := by
  simp [Chan.canIssue]

theorem Chan.canRetry_of_canIssue {c : Chan} {i x : Nat} (h : c.canIssue i x = true) : c.canRetry i x = true := by
  have := (c.canIssue_iff i x).1 h
  simp [Chan.canRetry, this.1, this.2]

/-- Two changes of one context are one. -/
theorem Chan.onCtx_onCtx (c : Chan) (i x : Nat) (f g : Ctx → Ctx) (hx : x < 2) :
    (c.onCtx i x f).onCtx i x g = c.onCtx i x (fun v => g (f v)) := by
  have h := Chan.ctx_onCtx c i x i x f hx hx
  rw [if_pos ⟨rfl, rfl⟩] at h
  conv_lhs => unfold Chan.onCtx
  rw [show (c.setTile i ((c.tile i).setCtx x (f (c.ctx i x)))).ctx i x = f (c.ctx i x) from h]
  unfold Chan.onCtx Chan.setTile
  rw [show ({ c with tiles := mapPut c.tiles i ((c.tile i).setCtx x (f (c.ctx i x))) } : Chan).tile i = (c.tile i).setCtx x (f (c.ctx i x)) from by
    unfold Chan.tile; simp]
  simp only [mapPut_mapPut]
  congr 2
  interval_cases x <;> rfl

end Sys2Proof.Machine
end

