-- ==== Sys2Proof/Laws/Regs.lean ====
section
/-! SUPPORT. Register fields: reading a field after a write of it, of another field, or of another register. -/

namespace Sys2Proof.Machine

/-! ## Bit fields of numbers -/

/-- The three parts of a number around a field. -/
theorem bits_split (v lo w : Nat) : v = v / 2 ^ (lo + w) * 2 ^ (lo + w) + bits v lo w * 2 ^ lo + v % 2 ^ lo := by
  unfold bits
  have h1 := Nat.div_add_mod v (2 ^ lo)
  have h2 := Nat.div_add_mod (v / 2 ^ lo) (2 ^ w)
  have h3 : v / 2 ^ lo / 2 ^ w = v / 2 ^ (lo + w) := by rw [Nat.div_div_eq_div_mul, ← pow_add]
  rw [h3] at h2
  have h4 : v / 2 ^ (lo + w) * 2 ^ (lo + w) = 2 ^ lo * (2 ^ w * (v / 2 ^ (lo + w))) := by rw [pow_add]; ring
  rw [h4]
  calc v = 2 ^ lo * (v / 2 ^ lo) + v % 2 ^ lo := h1.symm
    _ = 2 ^ lo * (2 ^ w * (v / 2 ^ (lo + w)) + v / 2 ^ lo % 2 ^ w) + v % 2 ^ lo := by rw [h2]
    _ = _ := by ring

theorem setBits_eq (v lo w x : Nat) : setBits v lo w x = v / 2 ^ (lo + w) * 2 ^ (lo + w) + x % 2 ^ w * 2 ^ lo + v % 2 ^ lo := by
  have h := bits_split v lo w
  unfold setBits
  omega

/-- A field of a number put together around it. -/
theorem bits_parts (a m b lo w : Nat) (hm : m < 2 ^ w) (hb : b < 2 ^ lo) : bits (a * 2 ^ (lo + w) + m * 2 ^ lo + b) lo w = m := by
  unfold bits
  have h1 : a * 2 ^ (lo + w) + m * 2 ^ lo + b = b + 2 ^ lo * (m + 2 ^ w * a) := by rw [pow_add]; ring
  rw [h1, Nat.add_mul_div_left _ _ (by positivity), Nat.div_eq_of_lt hb, Nat.zero_add, Nat.add_mul_mod_self_left, Nat.mod_eq_of_lt hm]

theorem bits_setBits_same (v lo w x : Nat) : bits (setBits v lo w x) lo w = x % 2 ^ w := by
  rw [setBits_eq]
  exact bits_parts _ _ _ lo w (Nat.mod_lt _ (by positivity)) (Nat.mod_lt _ (by positivity))

/-- A field below the one written. -/
theorem bits_setBits_below (v lo w x l n : Nat) (h : l + n ≤ lo) : bits (setBits v lo w x) l n = bits v l n := by
  have key : ∀ u : Nat, bits u l n = u % 2 ^ (l + n) / 2 ^ l := by
    intro u; unfold bits; rw [pow_add, Nat.mod_mul_right_div_self]
  have hm : setBits v lo w x % 2 ^ lo = v % 2 ^ lo := by
    rw [setBits_eq]
    have : v / 2 ^ (lo + w) * 2 ^ (lo + w) + x % 2 ^ w * 2 ^ lo + v % 2 ^ lo = v % 2 ^ lo + 2 ^ lo * (v / 2 ^ (lo + w) * 2 ^ w + x % 2 ^ w) := by
      rw [pow_add]; ring
    rw [this, Nat.add_mul_mod_self_left, Nat.mod_mod]
  have hd : 2 ^ (l + n) ∣ 2 ^ lo := pow_dvd_pow 2 h
  rw [key, key, ← Nat.mod_mod_of_dvd _ hd, hm, Nat.mod_mod_of_dvd _ hd]

/-- A field above the one written. -/
theorem bits_setBits_above (v lo w x l n : Nat) (h : lo + w ≤ l) : bits (setBits v lo w x) l n = bits v l n := by
  have hd : setBits v lo w x / 2 ^ (lo + w) = v / 2 ^ (lo + w) := by
    rw [setBits_eq]
    have h1 : x % 2 ^ w * 2 ^ lo + v % 2 ^ lo < 2 ^ (lo + w) := by
      have hx : x % 2 ^ w + 1 ≤ 2 ^ w := Nat.mod_lt _ (by positivity)
      have hv : v % 2 ^ lo < 2 ^ lo := Nat.mod_lt _ (by positivity)
      calc x % 2 ^ w * 2 ^ lo + v % 2 ^ lo < x % 2 ^ w * 2 ^ lo + 2 ^ lo := by omega
        _ = (x % 2 ^ w + 1) * 2 ^ lo := by ring
        _ ≤ 2 ^ w * 2 ^ lo := Nat.mul_le_mul_right _ hx
        _ = 2 ^ (lo + w) := by rw [pow_add]; ring
    rw [add_assoc, Nat.add_comm, Nat.add_mul_div_right _ _ (by positivity), Nat.div_eq_of_lt h1, Nat.zero_add]
  have key : ∀ u : Nat, bits u l n = u / 2 ^ (lo + w) / 2 ^ (l - (lo + w)) % 2 ^ n := by
    intro u; unfold bits; rw [Nat.div_div_eq_div_mul, ← pow_add]; congr 3; omega
  rw [key, key, hd]

theorem setBits_lt (v lo w x : Nat) (hv : v < 2 ^ 32) (h : lo + w ≤ 32) : setBits v lo w x < 2 ^ 32 := by
  have hx : x % 2 ^ w * 2 ^ lo + v % 2 ^ lo < 2 ^ (lo + w) := by
    have hx : x % 2 ^ w + 1 ≤ 2 ^ w := Nat.mod_lt _ (by positivity)
    have hv : v % 2 ^ lo < 2 ^ lo := Nat.mod_lt _ (by positivity)
    calc x % 2 ^ w * 2 ^ lo + v % 2 ^ lo < x % 2 ^ w * 2 ^ lo + 2 ^ lo := by omega
      _ = (x % 2 ^ w + 1) * 2 ^ lo := by ring
      _ ≤ 2 ^ w * 2 ^ lo := Nat.mul_le_mul_right _ hx
      _ = 2 ^ (lo + w) := by rw [pow_add]; ring
  have ha : (v / 2 ^ (lo + w) + 1) * 2 ^ (lo + w) ≤ 2 ^ 32 := by
    have h1 : 2 ^ 32 = 2 ^ (32 - (lo + w)) * 2 ^ (lo + w) := by rw [← pow_add]; congr 1; omega
    rw [h1]
    apply Nat.mul_le_mul_right
    have : v / 2 ^ (lo + w) < 2 ^ (32 - (lo + w)) := Nat.div_lt_of_lt_mul (by rw [Nat.mul_comm, ← h1]; exact hv)
    omega
  rw [setBits_eq, add_assoc]
  have hexp : (v / 2 ^ (lo + w) + 1) * 2 ^ (lo + w) = v / 2 ^ (lo + w) * 2 ^ (lo + w) + 2 ^ (lo + w) := by ring
  omega

/-! ## Fields of a bank -/

theorem Fld.into_toNat (f : Fld) (w : Word) (v : Nat) (h : f.lo + f.width ≤ 32) : (f.into w v).toNat = setBits w.toNat f.lo f.width v := by
  unfold Fld.into
  rw [BitVec.toNat_ofNat, Nat.mod_eq_of_lt (setBits_lt _ _ _ _ w.isLt h)]

@[simp] theorem Bank.get_put (t : List RegDef) (b : Bank) (o k : Nat) (v : Word) : (b.put t o v).get t k = if k = o then v else b.get t k := by
  simp [Bank.get, Bank.put]

/-- A field after it is written. -/
theorem Bank.fld_setFld_same (t : List RegDef) (b : Bank) (f : Fld) (v : Nat) (h : f.lo + f.width ≤ 32) :
    (b.setFld t f v).fld t f = v % 2 ^ f.width := by
  unfold Bank.setFld Bank.fld Fld.of
  rw [Bank.get_put, if_pos rfl, Fld.into_toNat f _ _ h, bits_setBits_same]

/-- A field of another register. -/
theorem Bank.fld_setFld_off (t : List RegDef) (b : Bank) (f g : Fld) (v : Nat) (h : g.off ≠ f.off) :
    (b.setFld t f v).fld t g = b.fld t g := by
  unfold Bank.setFld Bank.fld
  rw [Bank.get_put, if_neg h]

/-- Another field of the same register. -/
theorem Bank.fld_setFld_apart (t : List RegDef) (b : Bank) (f g : Fld) (v : Nat) (ho : g.off = f.off) (h : f.lo + f.width ≤ 32)
    (hd : g.lo + g.width ≤ f.lo ∨ f.lo + f.width ≤ g.lo) : (b.setFld t f v).fld t g = b.fld t g := by
  unfold Bank.setFld Bank.fld Fld.of
  rw [Bank.get_put, if_pos ho, Fld.into_toNat f _ _ h, ho]
  rcases hd with hd | hd
  · exact bits_setBits_below _ _ _ _ _ _ hd
  · exact bits_setBits_above _ _ _ _ _ _ hd

/-- Fields that share no bit: of different registers, or apart in one. -/
def Fld.Apart (f g : Fld) : Prop := g.off ≠ f.off ∨ g.lo + g.width ≤ f.lo ∨ f.lo + f.width ≤ g.lo

theorem Bank.fld_setFld_ne (t : List RegDef) (b : Bank) (f g : Fld) (v : Nat) (h : f.lo + f.width ≤ 32) (hd : f.Apart g) :
    (b.setFld t f v).fld t g = b.fld t g := by
  by_cases ho : g.off = f.off
  · rcases hd with hd | hd
    · exact absurd ho hd
    · exact Bank.fld_setFld_apart t b f g v ho h hd
  · exact Bank.fld_setFld_off t b f g v ho

/-- A field never exceeds its width. -/
theorem Bank.fld_lt (t : List RegDef) (b : Bank) (f : Fld) : b.fld t f < 2 ^ f.width := Nat.mod_lt _ (by positivity)

/-- A counter goes up by 1, up to its all-ones value. -/
theorem Bank.fld_count_same (t : List RegDef) (b : Bank) (f : Fld) (h : f.lo + f.width ≤ 32) :
    (b.count t f).fld t f = min (b.fld t f + 1) (2 ^ f.width - 1) := by
  unfold Bank.count
  rw [Bank.fld_setFld_same t b f _ h]
  unfold satAdd
  apply Nat.mod_eq_of_lt
  have : 0 < 2 ^ f.width := by positivity
  omega

theorem Bank.fld_count_ne (t : List RegDef) (b : Bank) (f g : Fld) (h : f.lo + f.width ≤ 32) (hd : f.Apart g) :
    (b.count t f).fld t g = b.fld t g := Bank.fld_setFld_ne t b f g _ h hd

/-! ## Fields of a channel and of the port die -/

theorem Chan.fld_setFld_same (c : Chan) (f : Fld) (v : Nat) (h : f.lo + f.width ≤ 32) : (c.setFld f v).fld f = v % 2 ^ f.width :=
  Bank.fld_setFld_same _ _ f v h
theorem Chan.fld_setFld_ne (c : Chan) (f g : Fld) (v : Nat) (h : f.lo + f.width ≤ 32) (hd : f.Apart g) :
    (c.setFld f v).fld g = c.fld g := Bank.fld_setFld_ne _ _ f g v h hd
theorem Chan.fld_count_same (c : Chan) (f : Fld) (h : f.lo + f.width ≤ 32) :
    (c.count f).fld f = min (c.fld f + 1) (2 ^ f.width - 1) := Bank.fld_count_same _ _ f h
theorem Chan.fld_count_ne (c : Chan) (f g : Fld) (h : f.lo + f.width ≤ 32) (hd : f.Apart g) : (c.count f).fld g = c.fld g :=
  Bank.fld_count_ne _ _ f g h hd
/-- Setting a flag and counting it: the flag is set. -/
theorem Chan.fld_flag_same (c : Chan) (f n : Fld) (h : f.lo + f.width ≤ 32) (hn : n.lo + n.width ≤ 32) (hw : 1 < 2 ^ f.width)
    (hd : n.Apart f) : (c.flag f n).fld f = 1 := by
  unfold Chan.flag
  rw [Chan.fld_count_ne _ _ _ hn hd, Chan.fld_setFld_same _ _ _ h, Nat.mod_eq_of_lt hw]
/-- Setting a flag and counting it: its companion counts. -/
theorem Chan.fld_flag_count (c : Chan) (f n : Fld) (h : f.lo + f.width ≤ 32) (hn : n.lo + n.width ≤ 32) (hd : f.Apart n) :
    (c.flag f n).fld n = min (c.fld n + 1) (2 ^ n.width - 1) := by
  unfold Chan.flag
  rw [Chan.fld_count_same _ _ hn, Chan.fld_setFld_ne _ _ _ _ h hd]

theorem PortDie.fld_setFld_same (p : PortDie) (f : Fld) (v : Nat) (h : f.lo + f.width ≤ 32) : (p.setFld f v).fld f = v % 2 ^ f.width :=
  Bank.fld_setFld_same _ _ f v h
theorem PortDie.fld_setFld_ne (p : PortDie) (f g : Fld) (v : Nat) (h : f.lo + f.width ≤ 32) (hd : f.Apart g) :
    (p.setFld f v).fld g = p.fld g := Bank.fld_setFld_ne _ _ f g v h hd
theorem PortDie.fld_count_ne (p : PortDie) (f g : Fld) (h : f.lo + f.width ≤ 32) (hd : f.Apart g) : (p.count f).fld g = p.fld g :=
  Bank.fld_count_ne _ _ f g h hd
theorem PortDie.fld_flag_same (p : PortDie) (f n : Fld) (h : f.lo + f.width ≤ 32) (hn : n.lo + n.width ≤ 32) (hw : 1 < 2 ^ f.width)
    (hd : n.Apart f) : (p.flag f n).fld f = 1 := by
  unfold PortDie.flag
  rw [PortDie.fld_count_ne _ _ _ hn hd, PortDie.fld_setFld_same _ _ _ h, Nat.mod_eq_of_lt hw]

theorem Chan.reg_putReg (c : Chan) (o k : Nat) (v : Word) : (c.putReg o v).reg k = if k = o then v else c.reg k := by
  simp [Chan.reg, Chan.putReg]

@[simp] theorem Chan.fld_setTile (c : Chan) (i : Nat) (t : Tile) (f : Fld) : (c.setTile i t).fld f = c.fld f := rfl
@[simp] theorem Chan.fld_setGrove (c : Chan) (g : Nat) (v : Grove) (f : Fld) : (c.setGrove g v).fld f = c.fld f := rfl
@[simp] theorem Chan.fld_setLink (c : Chan) (i : Nat) (l : Link) (f : Fld) : (c.setLink i l).fld f = c.fld f := rfl
@[simp] theorem Chan.fld_event (c : Chan) (st : Status) (src code : Nat) (g : Option Nat) (a : BitVec 64) (f : Fld) :
    (c.event st src code g a).fld f = c.fld f := rfl
@[simp] theorem Chan.tile_setFld (c : Chan) (f : Fld) (v i : Nat) : (c.setFld f v).tile i = c.tile i := rfl
@[simp] theorem Chan.tile_count (c : Chan) (f : Fld) (i : Nat) : (c.count f).tile i = c.tile i := rfl
@[simp] theorem Chan.tile_putReg (c : Chan) (o : Nat) (v : Word) (i : Nat) : (c.putReg o v).tile i = c.tile i := rfl
@[simp] theorem Chan.tile_event (c : Chan) (st : Status) (src code : Nat) (g : Option Nat) (a : BitVec 64) (i : Nat) :
    (c.event st src code g a).tile i = c.tile i := rfl
@[simp] theorem Chan.grove_setFld (c : Chan) (f : Fld) (v g : Nat) : (c.setFld f v).grove g = c.grove g := rfl
@[simp] theorem Chan.grove_count (c : Chan) (f : Fld) (g : Nat) : (c.count f).grove g = c.grove g := rfl
@[simp] theorem Chan.grove_setTile (c : Chan) (i : Nat) (t : Tile) (g : Nat) : (c.setTile i t).grove g = c.grove g := rfl
@[simp] theorem Chan.grove_event (c : Chan) (st : Status) (src code : Nat) (h : Option Nat) (a : BitVec 64) (g : Nat) :
    (c.event st src code h a).grove g = c.grove g := rfl
@[simp] theorem Chan.link_setFld (c : Chan) (f : Fld) (v i : Nat) : (c.setFld f v).link i = c.link i := rfl
@[simp] theorem Chan.link_count (c : Chan) (f : Fld) (i : Nat) : (c.count f).link i = c.link i := rfl
@[simp] theorem Chan.grove_reply (c : Chan) (d : Datagram) (st : Status) (h : Option Nat) (b e : Bytes) (g : Nat) :
    (c.reply d st h b e).grove g = c.grove g := rfl
@[simp] theorem Chan.fld_reply (c : Chan) (d : Datagram) (st : Status) (h : Option Nat) (b e : Bytes) (f : Fld) :
    (c.reply d st h b e).fld f = c.fld f := rfl
@[simp] theorem Chan.tile_reply (c : Chan) (d : Datagram) (st : Status) (h : Option Nat) (b e : Bytes) (i : Nat) :
    (c.reply d st h b e).tile i = c.tile i := rfl
@[simp] theorem Chan.grove_begun (c : Chan) (q : Nat) (v : Queue) (g : Nat) : (c.setQueue q v).grove g = c.grove g := rfl
@[simp] theorem Chan.fld_setQueue (c : Chan) (q : Nat) (v : Queue) (f : Fld) : (c.setQueue q v).fld f = c.fld f := rfl
@[simp] theorem Chan.tile_setQueue (c : Chan) (q : Nat) (v : Queue) (i : Nat) : (c.setQueue q v).tile i = c.tile i := rfl

end Sys2Proof.Machine
end

