-- ==== Sys2Proof/Laws/Tile.lean ====
section
/-! SUPPORT. Tile SRAM: reading sound lines gives what is stored, and stores change what they cover. -/

namespace Sys2Proof.Machine

theorem cellRead_append (m : List Host.Cell) (a p q : Nat) : cellRead m a (p + q) = cellRead m a p ++ cellRead m (a + p) q := by
  unfold cellRead
  rw [List.range_add, List.map_append, List.map_map]
  congr 1
  apply List.map_congr_left
  intro i _
  simp [Nat.add_assoc]

/-- Part of an extent. -/
theorem slice_cellRead (m : List Host.Cell) (a n off k : Nat) (h : off + k ≤ n) : slice (cellRead m a n) off k = cellRead m (a + off) k := by
  obtain ⟨r, rfl⟩ : ∃ r, n = off + (k + r) := ⟨n - off - k, by omega⟩
  rw [cellRead_append, cellRead_append]
  unfold slice
  have h1 : (cellRead m a off ++ (cellRead m (a + off) k ++ cellRead m (a + off + k) r)).drop off
      = cellRead m (a + off) k ++ cellRead m (a + off + k) r := by
    rw [List.drop_append_of_le_length (by simp)]
    simp
  rw [h1]
  have h2 : (cellRead m (a + off) k ++ cellRead m (a + off + k) r).take k = cellRead m (a + off) k := by
    rw [List.take_append_of_le_length (by simp)]; simp
  rw [h2]; simp [zeros]

theorem decodeLine_zero (b : Nat) (l : BitVec 512) : decodeLine b l 0 = .clean := by
  unfold decodeLine codeClass burstLen
  simp

/-- Reading a sound line without an error. -/
theorem Chan.sramLine_clean (c : Chan) (i l : Nat) (h : (c.tile i).poison = []) :
    c.sramLine i l 0 = (some (cellRead (c.tile i).sram (l * 64) 64), c) := by
  have hp : ((c.tile i).poison.contains l) = false := by rw [h]; rfl
  unfold Chan.sramLine
  dsimp only
  rw [hp, decodeLine_zero]
  rfl

theorem Chan.sramFold_clean (c : Chan) (i first k : Nat) (b : Bytes) (h : (c.tile i).poison = []) :
    ((List.range k).map (fun j => first + j)).foldl (Chan.sramStep i []) (some b, c)
      = (some (b ++ cellRead (c.tile i).sram (first * 64) (64 * k)), c) := by
  induction k with
  | zero => simp [cellRead]
  | succ k ih =>
    rw [List.range_succ, List.map_append, List.foldl_append, ih]
    simp only [List.map_cons, List.map_nil, List.foldl_cons, List.foldl_nil, mapGet, Chan.sramStep]
    rw [Chan.sramLine_clean c i _ h]
    have e : 64 * (k + 1) = 64 * k + 64 := by omega
    rw [e, cellRead_append, ← List.append_assoc]
    have e2 : first * 64 + 64 * k = (first + k) * 64 := by omega
    rw [e2]; rfl

/-- Reading an extent of sound lines without errors gives what is stored, and changes nothing. -/
theorem Chan.sramRead_clean (c : Chan) (i a n : Nat) (h : (c.tile i).poison = []) :
    c.sramRead i a n [] = (some (cellRead (c.tile i).sram a n), c) := by
  unfold Chan.sramRead
  dsimp only
  have hf := Chan.sramFold_clean c i (a / 64) ((a + n - 1) / 64 - a / 64 + 1) [] h
  rw [hf]
  simp only [Option.map_some, List.nil_append, Prod.mk.injEq, Option.some.injEq, and_true]
  rw [slice_cellRead _ _ _ _ _ (by
    have h1 := Nat.div_add_mod (a + n - 1) 64
    have h2 := Nat.div_add_mod a 64
    have h4 := Nat.mod_lt (a + n - 1) (show 0 < 64 by decide)
    have h5 := Nat.mod_lt a (show 0 < 64 by decide)
    rcases Nat.eq_zero_or_pos n with rfl | hn
    · omega
    · have h3 : a / 64 ≤ (a + n - 1) / 64 := Nat.div_le_div_right (by omega)
      omega)]
  have h2 := Nat.div_add_mod a 64
  congr 1
  omega

theorem sramOk_iff (a n : Nat) : sramOk a n = true ↔ a + n ≤ sramBytes := by simp [sramOk]

@[simp] theorem Chan.tile_hbm (c : Chan) (m : List Host.Cell) (j : Nat) : ({ c with hbm := m } : Chan).tile j = c.tile j := rfl

theorem Chan.markSram_tile (c : Chan) (i a j : Nat) : (c.markSram i a).tile j = c.tile j := by
  unfold Chan.markSram; split <;> rfl

theorem Chan.markAll_tile (l : List Nat) (i : Nat) (c : Chan) (j : Nat) :
    (l.foldl (fun c k => c.markSram i (k * 4096)) c).tile j = c.tile j := by
  induction l generalizing c with
  | nil => rfl
  | cons a t ih => rw [List.foldl_cons, ih, Chan.markSram_tile]

/-- Every tile after a store into one. -/
theorem Chan.sramWrite_tile (c : Chan) (i a : Nat) (b : Bytes) (j : Nat) :
    (c.sramWrite i a b).tile j = if j = i then (c.tile i).writeBytes a b else c.tile j := by
  unfold Chan.sramWrite
  dsimp only
  split
  · simp
  · rw [Chan.markAll_tile]; simp

/-- Reading the sound lines that a store covers in part changes nothing. -/
theorem Chan.readParts_clean (c : Chan) (i a n : Nat) (h : (c.tile i).poison = []) : c.readParts i a n [] = (true, c) := by
  unfold Chan.readParts
  generalize partLines a n = l
  induction l with
  | nil => rfl
  | cons k t ih =>
    rw [List.foldl_cons]
    have he : mapGet (fun _ => (0 : LineErr)) [] k = 0 := rfl
    simp only [Bool.not_true, Bool.false_eq_true, if_false, he, Chan.sramLine_clean c i k h]
    have hr : cellRead (c.tile i).sram (k * 64) 64 = (c.tile i).readBytes (k * 64) 64 := rfl
    rw [if_pos hr]
    exact ih

/-- A store into sound lines completes. -/
theorem Chan.storeBytes_clean (c : Chan) (i x a : Nat) (b : Bytes) (h : (c.tile i).poison = []) :
    c.storeBytes i x a b [] = (c.sramWrite i a b).onCtx i x Ctx.advance := by
  unfold Chan.storeBytes
  rw [Chan.readParts_clean c i a b.length h]

@[simp] theorem Tile.writeBytes_sram (t : Tile) (a : Nat) (b : Bytes) : (t.writeBytes a b).sram = cellWrite t.sram a b := rfl
@[simp] theorem Tile.writeBytes_ctx (t : Tile) (a : Nat) (b : Bytes) (x : Nat) : (t.writeBytes a b).ctx x = t.ctx x := rfl
@[simp] theorem Tile.setCtx_sram (t : Tile) (x : Nat) (v : Ctx) : (t.setCtx x v).sram = t.sram := by unfold Tile.setCtx; split <;> rfl
@[simp] theorem Tile.setCtx_poison (t : Tile) (x : Nat) (v : Ctx) : (t.setCtx x v).poison = t.poison := by
  unfold Tile.setCtx; split <;> rfl
@[simp] theorem Tile.setCtx_slot (t : Tile) (x : Nat) (v : Ctx) : (t.setCtx x v).slot = t.slot := by unfold Tile.setCtx; split <;> rfl

/-- The context that stored, after the store. -/
theorem Chan.store_ctx (c : Chan) (i x a : Nat) (b : Bytes) (hx : x < 2) :
    ((c.sramWrite i a b).onCtx i x Ctx.advance).ctx i x = (c.ctx i x).advance := by
  rw [Chan.ctx_onCtx _ _ _ _ _ _ hx hx]
  simp [Chan.ctx, Chan.sramWrite_tile]

theorem Chan.store_tile (c : Chan) (i x a : Nat) (b : Bytes) (j : Nat) (h : j ≠ i) :
    ((c.sramWrite i a b).onCtx i x Ctx.advance).tile j = c.tile j := by
  rw [Chan.tile_onCtx_ne _ _ _ _ _ h, Chan.sramWrite_tile, if_neg h]

theorem Chan.store_sram (c : Chan) (i x a : Nat) (b : Bytes) :
    (((c.sramWrite i a b).onCtx i x Ctx.advance).tile i).sram = cellWrite (c.tile i).sram a b := by
  rw [Chan.onCtx_sram, Chan.sramWrite_tile]; simp

/-- The faulting tile keeps its slot. -/
theorem Chan.recordTileFault_slot (c : Chan) (i x ag code a j : Nat) :
    ((c.recordTileFault i x ag code a).tile j).slot = (c.tile j).slot := by
  unfold Chan.recordTileFault
  dsimp only
  have hif (p : Prop) [Decidable p] (y z : Chan) (k : Nat) : (if p then y else z).tile k = if p then y.tile k else z.tile k := by
    split <;> rfl
  simp only [Chan.tile_event, Chan.tile_setFld, Chan.tile_putReg, Chan.tile_setTile, hif, ite_self]
  split
  · next h => subst h; rfl
  · rfl

end Sys2Proof.Machine
end

