-- ==== Sys2Proof/Laws/Moves.lean ====
section
/-! SUPPORT. The movement engine: what serving a descriptor does, by what its effect answers. -/

namespace Sys2Proof.Machine

/-- Serving a descriptor that passes its checks. -/
theorem Moves.step {c : Chan} {i x op : Nat} {d : QDesc} (h : Moves c i x op d) (act : Chan → QDesc → MoveRes) :
    c.moveStep i x op act = (act (c.taken i x d) d).after c i x d := by
  unfold Chan.moveStep
  rw [h.start, h.turn, h.head]
  dsimp only
  rw [h.named, h.valid]
  simp only [Bool.not_true, Bool.false_eq_true, if_false, ne_eq, not_true_eq_false, decide_false, Bool.and_false, Bool.or_self]
  rfl

@[simp] theorem Ctx.setQueue_rest (v : Ctx) (k : Nat) (q : List QDesc) : (v.setQueue k q).st = v.st := by
  unfold Ctx.setQueue; split
  · rfl
  · split <;> rfl

theorem Chan.tile_served (c : Chan) (i x j : Nat) :
    (c.served i x).tile j = if j = i then { c.tile i with lastMove := x } else c.tile j := by
  unfold Chan.served; rw [Chan.tile_setTile]

/-- Taking a descriptor leaves the tile's memory. -/
theorem Chan.taken_sram (c : Chan) (i x : Nat) (d : QDesc) (j : Nat) : ((c.taken i x d).tile j).sram = (c.tile j).sram := by
  unfold Chan.taken
  rw [Chan.tile_served]
  split
  · next h => subst h; exact Chan.onCtx_sram _ _ _ _ _
  · exact Chan.onCtx_sram _ _ _ _ _

theorem Chan.onCtx_tile_poison (c : Chan) (i x j : Nat) (f : Ctx → Ctx) : ((c.onCtx i x f).tile j).poison = (c.tile j).poison := by
  unfold Chan.onCtx
  rw [Chan.tile_setTile]
  split
  · next h => subst h; rw [Tile.setCtx_poison]
  · rfl

theorem Chan.onCtx_tile_slot (c : Chan) (i x j : Nat) (f : Ctx → Ctx) : ((c.onCtx i x f).tile j).slot = (c.tile j).slot := by
  unfold Chan.onCtx
  rw [Chan.tile_setTile]
  split
  · next h => subst h; rw [Tile.setCtx_slot]
  · rfl

theorem Chan.onCtx_arr (c : Chan) (i x j : Nat) (a : ArrId) (f : Ctx → Ctx) : (c.onCtx i x f).arr j a = c.arr j a := by
  unfold Chan.onCtx Chan.arr
  rw [Chan.tile_setTile]
  split
  · next h => subst h; unfold Tile.setCtx; split <;> rfl
  · rfl

theorem Chan.taken_poison (c : Chan) (i x : Nat) (d : QDesc) (j : Nat) : ((c.taken i x d).tile j).poison = (c.tile j).poison := by
  unfold Chan.taken
  rw [Chan.tile_served]
  split
  · next h => subst h; exact Chan.onCtx_tile_poison _ _ _ _ _
  · exact Chan.onCtx_tile_poison _ _ _ _ _
theorem Chan.taken_slot (c : Chan) (i x : Nat) (d : QDesc) (j : Nat) : ((c.taken i x d).tile j).slot = (c.tile j).slot := by
  unfold Chan.taken
  rw [Chan.tile_served]
  split
  · next h => subst h; exact Chan.onCtx_tile_slot _ _ _ _ _
  · exact Chan.onCtx_tile_slot _ _ _ _ _
theorem Chan.taken_arr (c : Chan) (i x : Nat) (d : QDesc) (j : Nat) (a : ArrId) : (c.taken i x d).arr j a = c.arr j a := by
  unfold Chan.taken
  rw [show ((c.onCtx i x (fun v => v.takeHead 2 d)).served i x).arr j a = (c.onCtx i x (fun v => v.takeHead 2 d)).arr j a from ?_]
  · exact Chan.onCtx_arr _ _ _ _ _ _
  · unfold Chan.arr
    rw [Chan.tile_served]
    split
    · next h => subst h; cases a <;> rfl
    · rfl

/-- A source of sound lines reads as it is stored. -/
theorem Chan.moveSource_clean (c : Chan) (i a n : Nat) (k : Bytes → Chan → MoveRes) (h : (c.tile i).poison = []) :
    c.moveSource i a n [] k = k (cellRead (c.tile i).sram a n) c := by
  unfold Chan.moveSource
  rw [Chan.sramRead_clean _ _ _ _ h]

end Sys2Proof.Machine
end

