-- ==== Sys2Proof/Laws/Quiet.lean ====
section
/-! SUPPORT. Operations that leave the heartwood cell and the waiting commands as they are, open no session, and do not unlock
the module. -/

namespace Sys2Proof.Machine

/-- From `s` to `t` the heartwood cell and the waiting commands are as they were, no session has been opened, and a locked module
is locked. -/
structure Quiet (s t : State) : Prop where
  cell     : t.cell = s.cell
  pending  : t.pending = s.pending
  sessions : t.pd.sessions.length ≤ s.pd.sessions.length
  opens    : t.pd.pending.length ≤ s.pd.pending.length
  locked   : s.pd.locked = true → t.pd.locked = true

theorem Quiet.refl (s : State) : Quiet s s := ⟨rfl, rfl, le_rfl, le_rfl, id⟩

theorem Quiet.trans {a b c : State} (h : Quiet a b) (k : Quiet b c) : Quiet a c :=
  ⟨k.cell.trans h.cell, k.pending.trans h.pending, k.sessions.trans h.sessions, k.opens.trans h.opens, fun x => k.locked (h.locked x)⟩

/-- A change of what has been sent and of the channels alone. -/
theorem Quiet.of_pd {s t : State} (hc : t.cell = s.cell) (hp : t.pending = s.pending) (hd : t.pd = s.pd) : Quiet s t :=
  ⟨hc, hp, by rw [hd], by rw [hd], by rw [hd]; exact id⟩

theorem PortDie.core_pending {a b : PortDie} (h : a.core = b.core) : a.pending = b.pending := by
  cases a; cases b; simp only [PortDie.core, PortDie.mk.injEq] at h ⊢; tauto
theorem PortDie.core_locked {a b : PortDie} (h : a.core = b.core) : a.locked = b.locked := by
  cases a; cases b; simp only [PortDie.core, PortDie.mk.injEq] at h ⊢; tauto

/-- Equal port dies but for services, ring and ended sessions. -/
theorem Quiet.of_core {s t : State} (hc : t.cell = s.cell) (hp : t.pending = s.pending) (hd : t.pd.core = s.pd.core) : Quiet s t :=
  ⟨hc, hp, by rw [PortDie.core_sessions hd], by rw [PortDie.core_pending hd], by rw [PortDie.core_locked hd]; exact id⟩

theorem State.onChan_quiet (s : State) (c : Nat) (f : Chan → Chan) : Quiet s (s.onChan c f) :=
  Quiet.of_core (s.onChan_cell c f) (s.onChan_pending c f) (s.onChan_core c f)

/-- A fold of quiet steps is quiet. -/
theorem Quiet.foldl {α : Type} (l : List α) (f : State → α → State) (h : ∀ s a, Quiet s (f s a)) (s : State) : Quiet s (l.foldl f s) := by
  induction l generalizing s with
  | nil => exact Quiet.refl s
  | cons a t ih => exact (h s a).trans (ih _)

theorem State.onPort_quiet (s : State) (f : PortDie → PortDie) (hs : (f s.pd).sessions.length ≤ s.pd.sessions.length)
    (ho : (f s.pd).pending.length ≤ s.pd.pending.length) (hl : s.pd.locked = true → (f s.pd).locked = true) : Quiet s (s.onPort f) :=
  ⟨rfl, rfl, hs, ho, hl⟩

/-- A change of the port die that leaves sessions, waiting opens and the lock. -/
theorem State.onPort_still (s : State) (f : PortDie → PortDie) (hs : (f s.pd).sessions = s.pd.sessions)
    (ho : (f s.pd).pending = s.pd.pending) (hl : (f s.pd).locked = s.pd.locked) : Quiet s (s.onPort f) :=
  s.onPort_quiet f (by rw [hs]) (by rw [ho]) (by rw [hl]; exact id)

theorem State.draw_quiet (s : State) : Quiet s s.draw.2 :=
  s.onPort_still (fun p => { p with free := p.free + 1 }) rfl rfl rfl
theorem State.drawBytes_quiet (s : State) (n : Nat) : Quiet s (s.drawBytes n).2 :=
  s.onPort_still (fun p => { p with free := p.free + 1 }) rfl rfl rfl

theorem State.deliver_quiet (s : State) (ch : Nat) (e : Emit) : Quiet s (s.deliver ch e) :=
  Quiet.of_pd (by simp) (by simp) (by simp)

theorem State.settleServices_quiet (s : State) : Quiet s s.settleServices := Quiet.of_core rfl rfl (by simp)
theorem State.sweepEnded_quiet (s : State) : Quiet s s.sweepEnded := Quiet.of_core (by simp) (by simp) (by simp)

theorem State.logClock_quiet (s : State) (ch : Option Nat) : Quiet s (s.logClock ch).2 := by
  unfold State.logClock
  split
  · exact Quiet.refl s
  · split
    · exact s.draw_quiet
    · exact Quiet.refl s

theorem State.flog_quiet (s : State) (st : Status) (src code : Nat) (ch : Option Nat) (arg : BitVec 64) : Quiet s (s.flog st src code ch arg) := by
  unfold State.flog
  refine (s.logClock_quiet ch).trans (Quiet.trans ?_ (State.settleServices_quiet _))
  exact (State.onPort_still _ _ rfl rfl rfl).trans (State.deliver_quiet _ _ _)

theorem State.pdFlag_quiet (s : State) (f n : Fld) : Quiet s (s.pdFlag f n) := s.onPort_still _ rfl rfl rfl

theorem PortDie.onSession_length (p : PortDie) (id : Nat) (f : Session → Session) : (p.onSession id f).sessions.length = p.sessions.length := by
  simp [PortDie.onSession]

theorem State.onSession_quiet (s : State) (id : Nat) (f : Session → Session) : Quiet s (s.onPort (fun p => p.onSession id f)) :=
  s.onPort_quiet _ (by rw [PortDie.onSession_length]) le_rfl (fun h => h)

theorem State.replyM_quiet (s : State) (d : Datagram) (st : Status) (detail data : Bytes) : Quiet s (s.replyM d st detail data) := by
  unfold State.replyM
  split
  · exact (s.draw_quiet.trans (State.onPort_still _ _ rfl rfl rfl)).trans (State.deliver_quiet _ _ _)
  · refine Quiet.trans ?_ (State.deliver_quiet _ _ _)
    exact s.onPort_quiet _ (by rw [PortDie.keepReply_sessions, PortDie.onSession_length]) (by rw [PortDie.keepReply_pending]; exact le_rfl)
      (fun h => by rw [PortDie.keepReply_locked]; exact h)

theorem State.badParamM_quiet (s : State) (d : Datagram) (off : Nat) : Quiet s (s.badParamM d off) := s.replyM_quiet _ _ _ _

theorem State.completeM_quiet (s : State) (d : Datagram) (st : Status) (data : Bytes) : Quiet s (s.completeM d st data) := by
  unfold State.completeM
  refine (s.logClock_quiet none).trans (Quiet.trans ?_ (State.settleServices_quiet _))
  refine Quiet.trans ?_ (State.deliver_quiet _ _ _)
  exact State.onPort_quiet _ _ (by simp [PortDie.onSession, PortDie.setFld]) le_rfl (fun h => h)

theorem State.flushM_quiet (id n : Nat) (s : State) : Quiet s (State.flushM id n s) := by
  induction n generalizing s with
  | zero => exact Quiet.refl s
  | succ n ih =>
    unfold State.flushM
    split
    · exact Quiet.refl s
    · split
      · exact Quiet.refl s
      · exact ((s.onSession_quiet _ _).trans (State.replyM_quiet _ _ _ _ _)).trans (ih _)

theorem State.endSession_quiet (s : State) (id : Nat) : Quiet s (s.endSession id) := by
  unfold State.endSession
  split
  · exact Quiet.refl s
  · exact ⟨rfl, rfl, List.length_filter_le _ _, le_rfl, fun h => h⟩

/-- A channel command is quiet when its effect is. -/
theorem State.chanCmdS_quiet (s : State) (q : Issue) (op : Nat) (fs : List (Nat × Nat × Nat)) (conf : Chan → Datagram → Bool)
    (bad : Datagram → List (Bool × Nat)) (f : Datagram → State → State) (hf : ∀ d s, Quiet s (f d s)) :
    Quiet s (s.chanCmdS q op fs conf bad f) := by
  unfold State.chanCmdS
  split
  · exact Quiet.refl s
  · split
    · exact Quiet.refl s
    · dsimp only
      have hs (k : Nat) (v : Chan) : Quiet s (s.setChan k v) := Quiet.of_pd rfl rfl rfl
      split
      · exact (hs _ _).trans (State.onChan_quiet _ _ _)
      · split
        · exact (hs _ _).trans (State.onChan_quiet _ _ _)
        · exact (hs _ _).trans (hf _ _)

theorem State.chanCmd_quiet (s : State) (q : Issue) (op : Nat) (fs : List (Nat × Nat × Nat)) (conf : Chan → Datagram → Bool)
    (bad : Datagram → List (Bool × Nat)) (f : Datagram → Chan → Chan) : Quiet s (s.chanCmd q op fs conf bad f) :=
  s.chanCmdS_quiet q op fs conf bad _ (fun _ _ => State.onChan_quiet _ _ _)

/-- A module command is quiet when its effect is. -/
theorem State.modCmd_quiet (s : State) (q : Issue) (op : Nat) (fs : List (Nat × Nat × Nat)) (conf : Bool)
    (bad : Datagram → List (Bool × Nat)) (f : Datagram → State → State) (hf : ∀ d s, Quiet s (f d s)) :
    Quiet s (s.modCmd q op fs conf bad f) := by
  unfold State.modCmd
  split
  · exact Quiet.refl s
  · rename_i d _
    dsimp only
    refine Quiet.trans ?_ ((State.flushM_quiet _ _ _).trans (State.sweepEnded_quiet _))
    refine Quiet.trans (b := if d.session = 0 then s else s.onPort (fun p => p.onSession d.session (fun x => { x with queue := x.queue.begin d }))) ?_ ?_
    · split
      · exact Quiet.refl s
      · exact s.onSession_quiet _ _
    · generalize (if d.session = 0 then s else s.onPort (fun p => p.onSession d.session (fun x => { x with queue := x.queue.begin d }))) = u
      split
      · exact u.replyM_quiet _ _ _ _
      · rename_i o _
        generalize (if d.session = 0 then true else roleOk (s.rights d.session 0xFF).1 o.role) = b
        cases b
        · exact u.replyM_quiet _ _ _ _
        · cases conf
          · simp only [Bool.not_true, Bool.false_eq_true, if_false]
            split
            · exact u.badParamM_quiet _ _
            · exact hf _ _
          · exact u.replyM_quiet _ _ _ _

theorem completeStep_quiet (s : State) (q : Issue) (op : Nat) (f : Datagram → Chan → Chan) (t : State) (h : completeStep s q op f = .next t) :
    Quiet s t := by
  unfold completeStep at h
  cases h
  split
  · exact Quiet.refl s
  · exact s.onChan_quiet _ _

theorem State.freezeAll_quiet (s : State) (bit : Nat) : Quiet s (s.freezeAll bit) := Quiet.foldl _ _ (fun s _ => s.onChan_quiet _ _) s
theorem State.thawAll_quiet (s : State) (bit : Nat) : Quiet s (s.thawAll bit) := Quiet.foldl _ _ (fun s _ => s.onChan_quiet _ _) s

theorem State.recap_quiet (s : State) : Quiet s s.recap := by
  unfold State.recap
  dsimp only
  split
  · refine Quiet.trans ?_ (State.freezeAll_quiet _ _)
    split
    · exact State.onPort_still _ _ rfl rfl rfl
    · refine Quiet.trans ?_ (State.pdFlag_quiet _ _ _)
      exact State.onPort_still _ _ rfl rfl rfl
  · split
    · refine Quiet.trans ?_ (State.thawAll_quiet _ _)
      exact State.onPort_still _ _ rfl rfl rfl
    · exact State.onPort_still _ _ rfl rfl rfl

theorem State.settleAlarm_quiet (s : State) : Quiet s s.settleAlarm := by
  unfold State.settleAlarm
  split
  · exact s.thawAll_quiet _
  · exact Quiet.refl s

theorem State.eraseKeys_quiet (s : State) : Quiet s s.eraseKeys := ⟨rfl, rfl, Nat.zero_le _, Nat.zero_le _, fun _ => rfl⟩

theorem State.alarm_quiet (s : State) (k : Nat) : Quiet s (s.alarm k) := by
  unfold State.alarm
  dsimp only
  split
  · exact Quiet.refl s
  · split
    · exact (s.pdFlag_quiet _ _).trans (State.flog_quiet _ _ _ _ _ _)
    · split
      · exact ((s.pdFlag_quiet _ _).trans (State.flog_quiet _ _ _ _ _ _)).trans (State.freezeAll_quiet _ _)
      · exact ((s.pdFlag_quiet _ _).trans (State.flog_quiet _ _ _ _ _ _)).trans (State.eraseKeys_quiet _)

end Sys2Proof.Machine
end

