-- ==== Sys2Proof/WellFormed.lean ====
section
/-! DEFINITION. Well-formed commands: every operand fits the field that the spec gives it (R84, R240-R258, R275, R286,
R297-R303, R354, R373). `exec` gives every command a meaning, well formed or not; a sender can only spell well-formed ones. -/

namespace Sys2Proof

/-- A number that fits `n` bits. -/
def fits (n v : Nat) : Bool := decide (v < 2 ^ n)

/-- A list of `n` numbers of `w` bits each. -/
def fitsAll (n w : Nat) (l : List Nat) : Bool := decide (l.length = n) && l.all (fits w)

/-- Tile coordinates of a channel (R17). -/
def tileAt (p : Nat × Nat) : Bool := decide (p.1 < 48) && decide (p.2 < 90)

/-- `HELLO` (R258). -/
def Hello.wf (h : Hello) : Bool :=
  fits 16 h.node && fits 64 h.serial && fits 8 h.channel && fits 8 h.ifx && decide (1 ≤ h.kind) && decide (h.kind ≤ 3) && fits 16 h.fmNode
    && fits 16 h.rxNext && fitsAll 4 32 h.allot && fitsAll 4 32 h.held

/-- A credit/ack payload (R247). -/
def CreditAck.wf (a : CreditAck) : Bool := fits 16 a.ack && fitsAll 4 32 a.ret

/-- A weight-set source (R302). -/
def Source.wf (x : Source) : Bool := decide (x.kind ≤ 1) && fits 8 x.target && fits 32 x.nsid && fits 64 x.lba && fits 16 x.node

/-- A manifest shard entry (R354). -/
def RingShard.wf (x : RingShard) : Bool :=
  fits 8 x.kind && fits 8 x.flags && fits 32 x.tensor && fits 16 x.member && fits 64 x.first && fits 64 x.nblock && fits 64 x.header
    && fits 64 x.blocks && fits 32 x.ring && decide (x.digest.length = 32)

/-- A routing report's entry: interface, state, node, serial, interface (R259). -/
def topoWf (p : Nat × Nat × Nat × Nat × Nat) : Bool :=
  fits 8 p.1 && fits 8 p.2.1 && fits 16 p.2.2.1 && fits 64 p.2.2.2.1 && fits 8 p.2.2.2.2

/-- A control message's parameters (R135, R207-R212, R244, R253, R258, R259, R356-R363). -/
def CtlMsg.wf : CtlMsg → Bool
  | .hello h => h.wf
  | .topoReport e => e.all topoWf
  | .idAssign id fm => fits 16 id && fits 16 fm
  | .audit ch => fitsAll 4 64 ch
  | .auditReply _ ch re he => fitsAll 4 64 ch && fitsAll 4 64 re && fitsAll 4 64 he
  | .reconcile => true
  | .readChunk id c d _ p sl => decide (id.length = 16) && fits 32 c && fits 16 d && decide (p < 2) && decide (sl < 2)
  | .chunkDone j c m => fits 16 j && fits 32 c && fits 12 m
  | .chunkBad j c a st => fits 16 j && fits 32 c && fits 8 a && fits 16 st
  | .bufFree j r => fits 16 j && fits 32 r
  | .wsetFail j c x y => fits 16 j && fits 32 c && fits 16 x && fits 16 y
  | .digestUpdate j st c d => fits 16 j && fits 32 st && fits 32 c && decide (d.length = 32)
  | .switchAt j sl p => fits 16 j && decide (sl < 2) && fits 32 p
  | .chunkStored j c st n => fits 16 j && fits 32 c && fits 32 st && fits 8 n
  | .writeChunk j id c st l d r => fits 16 j && decide (id.length = 16) && fits 32 c && fits 32 st && fits 32 l && decide (d.length = 32) && fits 8 r
  | .stepReport a j st b x _ _ => fits 16 a && fits 16 j && fits 32 st && fits 32 b && fits 32 x
  | .stepFault a j st x sh => fits 16 a && fits 16 j && fits 32 st && fits 8 x && fits 24 sh
  | .verdictQuery j st a => fits 16 j && fits 32 st && fits 16 a
  | .suspectMark a j st sh t t2 => fits 16 a && fits 16 j && fits 32 st && fits 24 sh && fits 16 t && fits 16 t2
  | .ringBegin j r k a p pa i n d => fits 16 j && fits 32 r && decide (k ≤ 1) && fits 16 a && fits 32 p && fits 16 pa && fits 8 i && fits 32 n && fits 64 d
  | .ringFail j a st w => fits 16 j && fits 16 a && fits 8 st && fits 32 w
  | .ringAbort j a => fits 16 j && fits 16 a
  | .ringDone j r a => fits 16 j && fits 32 r && fits 16 a
  | .restoreBegin j r a i n d => fits 16 j && fits 32 r && fits 16 a && fits 8 i && fits 32 n && fits 64 d
  | .restoreReport j st b => fits 16 j && fits 8 st && b.all (fits 32)
  | .other t _ => fits 8 t

/-- A payload. -/
def Payload.wf : Payload → Bool
  | .raw _ => true
  | .ctl m => m.wf
  | .credit a => a.wf

/-- A link frame's header fields (R240). -/
def Frame.wf (f : Frame) : Bool :=
  fits 8 f.typ && decide (f.vl < 4) && fits 16 f.lseq && fits 16 f.src && fits 16 f.dst && fits 16 f.job && fits 8 f.grove && fits 8 f.fmt
    && fits 24 f.tensor && fits 24 f.shard && fits 32 f.step && fits 16 f.mb && fits 8 f.hver && fits 16 f.ccount && fits 32 f.rseq && f.payload.wf

/-- A command datagram's header fields (R286). -/
def Datagram.wf (d : Datagram) : Bool :=
  fits 16 d.udpLen && fits 16 d.magic && fits 8 d.version && fits 8 d.channel && fits 8 d.queue && fits 8 d.opcode && fits 16 d.flags
    && fits 16 d.plen && fits 16 d.session && decide (d.tag.length = 16)

/-- A queued command: a channel queue 0-7 of channel 0-7, or the module queue 0 of channel 0xFF (R286, R291). -/
def Issue.wf (q : Issue) : Bool :=
  ((decide (q.channel < 8) && decide (q.queue < 8)) || (q.channel = 0xFF && q.queue = 0)) && fits 16 q.session

/-- A crown-core access of 1 to 64 bytes; a store carries as many bytes as it stores (R30, R31). -/
def CrownAccess.wf (a : CrownAccess) : Bool :=
  decide (1 ≤ a.size) && decide (a.size ≤ 64) && (a.write.map (fun b => decide (b.length = a.size))).getD true

/-- A network packet that names an IP address. -/
def NetPacket.wf : NetPacket → Bool
  | .arp _ => true
  | .icmpEcho v6 t _ => fits (if v6 then 128 else 32) t
  | .neighbourSolicit t => fits 128 t
  | .fragment => true
  | .other => true

/-- A word of instruction memory addressed by a branch is aligned; operation numbers of scalar words fit (R84). -/
def ScalarOp.wf : ScalarOp → Bool
  | .alu _ _ _ _ => true
  | .branch _ _ _ t => decide (t.toNat % 4 = 0)
  | .load _ _ _ => true
  | .store _ _ _ => true

/-- A well-formed command. -/
def Instr.wf : Instr → Bool
  | .scalarInstruction _ _ op => op.it.wf
  | .vadd _ _ _ | .vsub _ _ _ | .vmul _ _ _ | .vfma _ _ _ | .vmin _ _ _ | .vmax _ _ _ | .vdiv _ _ _ | .vsqrt _ _ _ | .vsfu _ _ _
  | .vcmp _ _ _ | .vcvt _ _ _ | .vred _ _ _ | .vbcast _ _ _ | .issueDesc _ _ _ _ | .semwait _ _ _ | .sempost _ _ _ _
  | .setkey _ _ _ _ _ | .halt _ _ | .illegalInstruction _ _ _ => true
  | .vld _ _ _ _ _ e => e.all (fun p => decide (p.1 < 24576))
  | .vst _ _ _ _ _ => true
  | .arrayDescriptorStart _ _ | .arrayBlock _ _ | .accumulatorReadout _ _ | .copy _ _ | .send _ _ | .gtbLoad _ _ | .accSave _ _
  | .accLoad _ _ | .accMerge _ _ | .hbmWrite _ _ | .remotePost _ _ _ | .ctxStart _ _ | .ctxStop _ _ | .clrFault _
  | .routerFlit _ _ _ | .flitEject _ _ _ | .sramScrub _ _ | .hbmScrub _ _ _ => true
  | .hbmRead _ _ e => e.all (fun p => fits 31 p.1)
  | .crownCoreAccess _ a => a.wf
  | .undCfgWrite _ _ | .groveTableApply _ _ | .tableDrainTimeout _ _ => true
  | .tileDataFrame _ _ f => f.wf
  | .weightFrame _ _ f => f.wf
  | .chunkDigestCompare _ _ j c => fits 16 j && fits 32 c
  | .chunkComplete _ _ c => fits 32 c
  | .bufFree _ src j r => fits 16 src && fits 16 j && fits 32 r
  | .chunkDone _ j c m => fits 16 j && fits 32 c && fits 12 m
  | .chunkBad _ j c a st => fits 16 j && fits 32 c && fits 8 a && fits 16 st
  | .chunkTimeout _ _ c _ => fits 32 c
  | .wsetFail _ j c x y => fits 16 j && fits 32 c && fits 16 x && fits 16 y
  | .digestUpdate _ j st c d => fits 16 j && fits 32 st && fits 32 c && decide (d.length = 32)
  | .switchAt _ j sl p => fits 16 j && decide (sl < 2) && fits 32 p
  | .wsetSwitchApply _ _ | .baseReattach _ _ | .stashAdmit _ _ | .stashOverMarkAdmit _ _ | .egressSend _ _ | .egressStageTimeout _ _ => true
  | .hbmTierReload _ _ c _ => fits 32 c
  | .gradientFrame _ _ f => f.wf
  | .combineBlock _ _ sh _ => fits 24 sh
  | .slotTimeout _ _ sh _ src => fits 24 sh && fits 16 src
  | .graceExpiry _ _ sh src => fits 24 sh && fits 16 src
  | .stepReport _ src a j st b x _ _ => fits 16 src && fits 16 a && fits 16 j && fits 32 st && fits 32 b && fits 32 x
  | .stepFault _ src a j st x sh => fits 16 src && fits 16 a && fits 16 j && fits 32 st && fits 8 x && fits 24 sh
  | .verdictTimeout _ _ st a => fits 32 st && fits 16 a
  | .verdict _ j a v st r _ => fits 16 j && fits 16 a && fits 8 v && fits 32 st && fits 10 r
  | .verdictQuery _ src j st a => fits 16 src && fits 16 j && fits 32 st && fits 16 a
  | .verdictWaitExpiry _ _ => true
  | .suspectMark _ a j st sh t t2 => fits 16 a && fits 16 j && fits 32 st && fits 24 sh && fits 16 t && fits 16 t2
  | .updateStart _ _ => true
  | .chunkStored _ j c st n => fits 16 j && fits 32 c && fits 32 st && fits 8 n
  | .writebackTimeout _ _ c => fits 32 c
  | .frameReceive _ _ f _ _ => f.wf
  | .frameTransmit _ _ => true
  | .creditAck _ _ a => a.wf
  | .creditAckTimer _ _ | .replayTimeout _ _ | .linkTrained _ _ _ _ | .helloTimer _ _ | .retrainEnd _ _ _ | .laneLoss _ _ _ => true
  | .hello _ _ h => h.wf
  | .seamSlip _ _ sep => decide (sep ≤ 8)
  | .linkHoldExpiry _ _ | .linkStateUe _ _ | .auditSend _ _ | .reconcile _ _ | .reconcileTimeout _ _ => true
  | .rxCellUe _ _ _ => true
  | .audit _ _ ch => fitsAll 4 64 ch
  | .auditReply _ _ _ ch re he => fitsAll 4 64 ch && fitsAll 4 64 re && fitsAll 4 64 he
  | .topoReport _ src e => fits 16 src && e.all topoWf
  | .routeSwap _ => true
  | .routeSwapComplete _ u => (u.map (fits 31)).getD true
  | .regionApply _ | .flip _ | .clear _ | .clearDone _ => true
  | .commandDatagram d => d.wf
  | .networkProtocolPacket p => p.wf
  | .nvmeTcpSegment p _ => fits 16 p
  | .sessionIdleTimeout x => fits 16 x
  | .sessionOpenExpiry x => fits 16 x
  | .nop q | .sessionClose q | .moduleInfo q | .channelStart q | .channelStop q | .channelFreeze q | .channelThaw q | .powerStatus q
  | .thermalStatus q | .keyList q | .metInfo q | .groveLoadComplete q | .linkLoopbackComplete q _ | .fwUpdateComplete q => q.wf
  | .sessionOpen q f n i => q.wf && decide (f.length = 16) && decide (n.length = 32) && fits 16 i
  | .sessionKey q x ct sg => q.wf && fits 16 x && decide (ct.length = 1568) && decide (sg.length = 1280)
  | .queueClaim q c n _ => q.wf && fits 8 c && fits 8 n
  | .queueRelease q c n => q.wf && fits 8 c && fits 8 n
  | .moduleIdSet q m f => q.wf && fits 16 m && fits 16 f
  | .eventSubscribe q a p m => q.wf && decide (a.length = 16) && fits 16 p && fits 8 m
  | .serviceMove q a b => q.wf && fits 8 a && fits 8 b
  | .netSet q a la b lb => q.wf && decide (a.length = 16) && fits 8 la && decide (b.length = 4) && fits 8 lb
  | .regRead q _ n v => q.wf && fits 16 n && fits 8 v
  | .regWrite q _ n vs => q.wf && fits 16 n && decide (vs.length = n)
  | .regRmw q _ _ _ => q.wf
  | .strobe q _ => q.wf
  | .strobeAtBoundary q _ => q.wf
  | .stageDiscard q _ => q.wf
  | .snap q _ => q.wf
  | .snapRelease _ off => fits 32 off
  | .memRead q l n e => q.wf && fits 32 l && fits 16 n && e.all (fun p => fits 31 p.1)
  | .memWrite q l n b => q.wf && fits 32 l && fits 16 n && decide (b.length = 64 * n)
  | .tileRead q x y a n e => q.wf && fits 8 x && fits 8 y && fits 32 a && fits 16 n && e.all (fun p => decide (p.1 < 24576))
  | .tileWrite q x y a n b => q.wf && fits 8 x && fits 8 y && fits 32 a && fits 16 n && decide (b.length = 64 * n)
  | .nvmeTargetSet q i p a n => q.wf && fits 8 i && fits 16 p && decide (a.length = 16) && decide (n.length < 256)
  | .dmaFetch q i n l b h => q.wf && fits 8 i && fits 32 n && fits 64 l && fits 32 b && fits 32 h
  | .dmaFetchComplete q _ => q.wf
  | .dmaStore q i n l b h => q.wf && fits 8 i && fits 32 n && fits 64 l && fits 32 b && fits 32 h
  | .dmaStoreComplete q _ => q.wf
  | .progLoad q g c l n => q.wf && fits 8 g && fits 8 c && fits 32 l && fits 32 n
  | .progLoadComplete q p => q.wf && fits 32 p
  | .progStop q g | .groveUnload q g | .groveResume q g | .groveDrain q g | .groveStatus q g | .wsetStatus q g | .baseDetach q g
  | .verdictLog q g => q.wf && fits 8 g
  | .groveLoad q l n d => q.wf && fits 32 l && fits 32 n && decide (d.length = 32)
  | .groveStart q g _ | .grovePause q g _ => q.wf && fits 8 g
  | .groveQuiescent _ _ => true
  | .wsetStage q g sl a b x y => q.wf && fits 8 g && fits 8 sl && fits 16 a && fits 16 b && x.wf && y.wf
  | .wsetStageComplete q _ _ _ => q.wf
  | .wsetSwitch q g sl _ => q.wf && fits 8 g && fits 8 sl
  | .wsetDiscard q g sl => q.wf && fits 8 g && fits 8 sl
  | .suspectClear q u => q.wf && fits 8 u
  | .ringWrite q g k i n l _ => q.wf && fits 8 g && fits 8 k && fits 8 i && fits 32 n && fits 64 l
  | .ringRestore q g i n l r _ => q.wf && fits 8 g && fits 8 i && fits 32 n && fits 64 l && fits 32 r
  | .restoreQuery q g i n l | .ringOrphans q g i n l => q.wf && fits 8 g && fits 8 i && fits 32 n && fits 64 l
  | .capSet q w | .orphanCapSet q w => q.wf && fits 32 w
  | .attest q n => q.wf && decide (n.length = 32)
  | .keyAdd q r => q.wf && decide (r.length = 3112)
  | .keyRemove q f sg => q.wf && decide (f.length = 16) && decide (sg.length = 1280)
  | .alarmCfg q c r => q.wf && fits 8 c && fits 8 r
  | .energyRead q m n => q.wf && fits 8 m && decide (n.length = 32)
  | .bistRun q l => q.wf && fits 8 l
  | .bistRunComplete q a b => q.wf && a.all tileAt && b.all tileAt
  | .logRead q _ n => q.wf && fits 16 n
  | .defectMapRead q o n => q.wf && fits 32 o && fits 16 n
  | .linkLoopback q i m n => q.wf && fits 8 i && fits 8 m && fits 32 n
  | .fwUpdate q c l n => q.wf && fits 8 c && fits 32 l && fits 32 n
  | .registerWrite _ off _ => fits 32 off
  | .bitAliasWrite _ off _ => fits 32 off
  | .paritySweep _ | .parityInject _ | .chHoldRelease _ | .svnCommit | .bind | .ringCapture _ _ | .ringCaptureEnd _ _ => true
  | .ringBegin _ j r k a p pa i n d =>
    fits 16 j && fits 32 r && decide (k ≤ 1) && fits 16 a && fits 32 p && fits 16 pa && fits 8 i && fits 32 n && fits 64 d
  | .ringShardsWritten _ _ _ _ | .ringCommit _ _ _ _ | .ringTimeout _ _ => true
  | .ringShardList _ j r m x _ sh => fits 16 j && fits 32 r && fits 16 m && fits 32 x && sh.all RingShard.wf
  | .ringFail _ j a st w => fits 16 j && fits 16 a && fits 8 st && fits 32 w
  | .ringAbort _ j a => fits 16 j && fits 16 a
  | .ringDone _ j r a => fits 16 j && fits 32 r && fits 16 a
  | .restoreBegin _ j r a i n d _ => fits 16 j && fits 32 r && fits 16 a && fits 8 i && fits 32 n && fits 64 d
  | .restoreImageFrame _ j k t _ _ => fits 16 j && fits 8 k && fits 32 t
  | .restoreReport _ j m st b => fits 16 j && fits 16 m && fits 8 st && b.all (fits 32)
  | .restoreComplete _ _ | .shareCompute | .supplyFreeze | .supplyRecover | .capStepAssert | .capStepDeassert | .orphanExpiry => true
  | .limiterTrim _ w => fits 16 w
  | .supplySample mv => fits 17 mv
  | .clearFaults _ | .statusWord _ | .readVin _ | .readIin _ | .readTemperature1 _ | .readTemperature2 _ | .readPin _
  | .mfrPlkCapWrite _ _ | .mfrPlkCapRead _ | .mfrPlkDemand _ | .mfrPlkFloor _ | .mfrPlkState _ | .smbusAlertResponse => true
  | .pmbusUnknownCommand c => (!(([0x03, 0x79, 0x88, 0x89, 0x8D, 0x8E, 0x97, 0xD0, 0xD1, 0xD2, 0xD3] : List Nat).contains c.toNat))
  | .tempSample _ ts => decide (ts.length = 48)
  | .sensorDisagree _ f h => decide (f < 6) && decide (h < 4)
  | .sensorSuspect _ f h _ => decide (f < 6) && decide (h < 4)
  | .inletSample _ _ | .thetaUpdate _ | .heatTrim _ | .fieldGate _ _ | .flowLoss | .coolantKeepExpiry | .powerOn _ _ _ _ | .refArrival
  | .channelRelease _ => true
  | .bringupStepDone _ _ a b _ h => a.all tileAt && b.all tileAt && fits 12 h
  | .bringupStepTimeout _ | .pllUnlock _ _ | .controllerLinkLost _ | .controllerLinkReturn _ | .watchdogExpiry _ => true
  | .heartbeat _ a b => a.all tileAt && b.all tileAt
  | .quiesceTimeout _ _ | .groveQuiesced _ _ | .replayRestart _ _ _ | .meshAlarm | .sealBreach | .glitch => true
  | .cellEnergySample m => decide (m.length = 9)
  | .cellPowerLoss _ | .cellReport | .cellLinkTimeout => true
  | .apportion l => l.all (fun p => decide (p.1 < 8) && decide (p.2.1 < 16))
  | .moduleReset | .overvoltage | .inputCollapse => true
  | .restoreQueryComplete q _ => q.wf
  | .ringOrphansComplete q _ => q.wf
  | .partnerReturn _ _ | .flowLossDeassert | .modResetDeassert _ _ _ _ | .commandPortTrained | .uncorrectableControllerError _ => true

end Sys2Proof
end

