-- ==== Sys2Proof/Tests/Slice0.lean ====
section
/-! SUPPORT. The model's own tests: the WellFormed smoke, the manual's worked examples, and for each statement with
hypotheses a witness that meets them. -/

namespace Sys2Proof.Tests
open Sys2Proof Sys2Proof.Machine

set_option Elab.async false
/-! ## States of tests -/

/-- Channel 0 in a state, with a few registers. -/
def chanW (st : ChState) (regs : NMap Word) : Chan := { Chan.reset 0 with st := st, bank := { Bank.empty with regs := regs } }

/-- The module with its port die taking commands and one channel. -/
def stateW (c : Chan) : State := { State.reset with chans := [(c.idx, c)], pd := { PortDie.reset with powered := true, boot := 4 } }

def runW (tl : Tile) : State := stateW { chanW .running [] with tiles := [(0, tl)] }
def ctxW : Ctx := { Ctx.reset with st := .running }
def t0 : TileRef := ⟨0, 0, 0⟩

/-- A descriptor of the given words. -/
def descW (ws : List Nat) : QDesc := ⟨0, ws.flatMap (leBytes 4) ++ zeros (64 - 4 * ws.length)⟩

/-- A command datagram of session 1. -/
def cmdW (ch op : Nat) (params : Bytes) : Datagram := ⟨32 + params.length, 0x4B50, 1, ch, 0, op, 0, 0, params.length, 1, zeros 16, params, 77⟩

/-- Session 1 with a role. -/
def sesW (r : Role) : Session := ⟨1, [], r, 255, [], [], 600, none, { Queue.fresh with owner := some 1 }⟩

/-- Channel `c` with command `d` waiting in queue 0, and the port die with session 1. -/
def queuedW (c : Chan) (d : Datagram) : Chan := { c with queues := [(0, { Queue.fresh with owner := some 1, waiting := [d] })] }
def stateC (c : Chan) (r : Role) (d : Datagram) : State :=
  { State.reset with chans := [(0, queuedW c d)], pd := { PortDie.reset with powered := true, boot := 4, sessions := [sesW r] } }

theorem readyC_of (c : Chan) (r : Role) (op : Nat) (params : Bytes) (fs : List (Nat × Nat × Nat)) (conf : Chan → Datagram → Bool)
    (bad : Datagram → List (Bool × Nat)) (hc : c.idx = 0 ∧ c.linkLost = false)
    (h1 : isFor (cmdW 0 op params) ⟨0, 0, 1, 0⟩ op fs = true)
    (h2 : ((queuedW c (cmdW 0 op params)).setQueue 0 ({ Queue.fresh with owner := some 1, waiting := [cmdW 0 op params] }.begin (cmdW 0 op params))).refused
      (some r) ((sesW r).sees 0) (cmdW 0 op params) (groveNamed (cmdW 0 op params)) conf (bad (cmdW 0 op params)) = none) :
    ReadyC (stateC c r (cmdW 0 op params)) ⟨0, 0, 1, 0⟩ op fs conf bad (cmdW 0 op params) where
  chan := by decide
  named := rfl
  place := hc.1
  queue := rfl
  owned := by decide
  head := by
    show (if isFor (cmdW 0 op params) ⟨0, 0, 1, 0⟩ op fs then some (cmdW 0 op params) else none) = _
    rw [h1]; rfl
  link := hc.2
  sess := rfl
  passes := h2

/-- The port die with module command `d` waiting in session 1's queue. -/
def pdM (r : Role) (d : Datagram) : PortDie :=
  { PortDie.reset with powered := true, boot := 4, sessions := [{ sesW r with queue := { Queue.fresh with owner := some 1, waiting := [d] } }] }

theorem readyM_of (s : State) (r : Role) (op : Nat) (params : Bytes) (fs : List (Nat × Nat × Nat)) (conf : Bool) (bad : Datagram → List (Bool × Nat))
    (hs : s.pd.sessions = (pdM r (cmdW 0xFF op params)).sessions)
    (h1 : isFor (cmdW 0xFF op params) ⟨0xFF, 0, 1, 0⟩ op fs = true)
    (h2 : ((opFind op).map (fun o => roleOk (some r) o.role && (badOffset o params (bad (cmdW 0xFF op params))).isNone)) = some true) (h3 : conf = false) :
    ReadyM s ⟨0xFF, 0, 1, 0⟩ op fs conf bad (cmdW 0xFF op params) where
  sess := by decide
  same := rfl
  named := rfl
  queue := rfl
  head := by
    have h : (s.pd.modQueue 1).head = some (cmdW 0xFF op params) := by
      simp only [PortDie.modQueue, PortDie.anySession, PortDie.session, hs]; rfl
    show (match (s.pd.modQueue 1).head with
      | some d => if isFor d ⟨0xFF, 0, 1, 0⟩ op fs then some d else none
      | none => none) = _
    rw [h]
    show (if isFor (cmdW 0xFF op params) ⟨0xFF, 0, 1, 0⟩ op fs then some (cmdW 0xFF op params) else none) = _
    rw [h1]; rfl
  open_ := by
    show (s.pd.sessions.find? (fun x => x.id = 1)).isSome = true
    rw [hs]; rfl
  spec := by
    have hr : (s.rights 1 0xFF).1 = some r := by
      simp only [State.rights, PortDie.anySession, PortDie.session, hs]; rfl
    cases ho : opFind op with
    | none => rw [ho] at h2; exact absurd h2 (by simp)
    | some o =>
      rw [ho] at h2
      simp only [Option.map_some, Option.some.injEq, Bool.and_eq_true, Option.isNone_iff_eq_none] at h2
      exact ⟨o, ho, by show roleOk (s.rights 1 0xFF).1 o.role = true; rw [hr]; exact h2.1, h2.2⟩
  conf := h3

/-- Session 0's command waiting. -/
def cmd0 (op : Nat) (params : Bytes) : Datagram := { cmdW 0xFF op params with session := 0 }
theorem ready0_of (s : State) (op : Nat) (params : Bytes) (fs : List (Nat × Nat × Nat)) (bad : Datagram → List (Bool × Nat))
    (hs : s.pd.session0 = [cmd0 op params]) (h1 : isFor (cmd0 op params) ⟨0xFF, 0, 0, 0⟩ op fs = true)
    (h2 : ((opFind op).map (fun o => (badOffset o params (bad (cmd0 op params))).isNone)) = some true) :
    Ready0 s ⟨0xFF, 0, 0, 0⟩ op fs bad (cmd0 op params) where
  sess := rfl
  named := rfl
  queue := rfl
  head := by
    show s.pd.session0.find? (fun d => isFor d ⟨0xFF, 0, 0, 0⟩ op fs) = _
    rw [hs, List.find?_cons, h1]
  row := rfl
  spec := by
    cases ho : opFind op with
    | none => rw [ho] at h2; exact absurd h2 (by simp)
    | some o =>
      rw [ho] at h2
      simp only [Option.map_some, Option.some.injEq, Option.isNone_iff_eq_none] at h2
      exact ⟨o, ho, h2⟩

/-- A read that answers, and one that does not. -/
theorem pair_some {α β : Type} {p : Option α × β} (h : p.1.isSome = true) : ∃ b d, p = (some b, d) :=
  match p, h with
  | (some b, d), _ => ⟨b, d, rfl⟩
theorem pair_none {α β : Type} {p : Option α × β} (h : p.1.isSome = false) : ∃ d, p = (none, d) :=
  match p, h with
  | (none, d), _ => ⟨d, rfl⟩
theorem pair_of {β : Type} {p : Bool × β} {b : Bool} (h : p.1 = b) : ∃ d, p = (b, d) := ⟨p.2, by rw [← h]⟩

/-! ## Words of the tile core (R91, R92) -/

/-- A word by the fields of R91: `MAJ`, `VD`, `VA`, `VB`, `VC`, `PRED`, `T`, `SUB`. -/
def tileW (maj : BitVec 6) (vd va vb vc : BitVec 5) (pred : BitVec 3) (t : BitVec 1) (sub : BitVec 2) : Word :=
  maj ++ vd ++ va ++ vb ++ vc ++ pred ++ t ++ sub

theorem test_decode_vector_words :
    decodeTileWord t0 0 (tileW 0b000001 0b00001 0b00010 0b00011 0b00000 0b100 0b0 0b00) = .vadd t0 0 ⟨1, 2, 3, 0, 4, false, 0⟩ ∧
    decodeTileWord t0 1 (tileW 0b000100 0b11111 0b00010 0b00011 0b10000 0b001 0b1 0b00) = .vfma t0 1 ⟨31, 2, 3, 16, 1, true, 0⟩ ∧
    decodeTileWord t0 0 (tileW 0b001001 0b00001 0b00010 0b00000 0b00101 0b000 0b0 0b00) = .vsfu t0 0 ⟨1, 2, 0, 5, 0, false, 0⟩ ∧
    decodeTileWord t0 0 (tileW 0b001010 0b00101 0b00010 0b00011 0b00000 0b000 0b0 0b11) = .vcmp t0 0 ⟨5, 2, 3, 0, 0, false, 3⟩ ∧
    decodeTileWord t0 0 (tileW 0b001011 0b00001 0b00010 0b00111 0b00001 0b000 0b0 0b00) = .vcvt t0 0 ⟨1, 2, 7, 1, 0, false, 0⟩ ∧
    decodeTileWord t0 0 (tileW 0b001100 0b00001 0b00010 0b00000 0b00000 0b000 0b1 0b10) = .vred t0 0 ⟨1, 2, 0, 0, 0, true, 2⟩ ∧
    decodeTileWord t0 0 (tileW 0b010000 0b00001 0b00010 0b00000 0b00000 0b000 0b1 0b00) = .vbcast t0 0 ⟨1, 2, 0, 0, 0, true, 0⟩ := by
  decide +kernel

theorem test_decode_memory_and_control_words :
    decodeTileWord t0 0 (0b001101#6 ++ 0b00001#5 ++ 0b00010#5 ++ 0b1111111111111111#16) = .vld t0 0 1 2 0xFFFF [] ∧
    decodeTileWord t0 0 (0b001110#6 ++ 0b00001#5 ++ 0b00010#5 ++ 0b0000000000000011#16) = .vst t0 0 1 2 ⟨3, []⟩ ∧
    decodeTileWord t0 0 (tileW 0b100000 0b00000 0b00110 0b00000 0b00000 0b000 0b0 0b10) = .issueDesc t0 0 6 ⟨2, []⟩ ∧
    decodeTileWord t0 0 (0b100001#6 ++ 0#22 ++ 0b1010#4) = .semwait t0 0 10 ∧
    decodeTileWord t0 0 (0b100010#6 ++ 0#21 ++ 0b1#1 ++ 0b1010#4) = .sempost t0 0 10 true ∧
    decodeTileWord t0 0 (tileW 0b100011 0b00000 0b00001 0b00010 0b00011 0b000 0b0 0b00) = .setkey t0 0 1 2 3 ∧
    decodeTileWord t0 0 (tileW 0b100100 0b00000 0b00000 0b00000 0b00000 0b000 0b0 0b00) = .halt t0 0 ∧
    (let w := tileW 0b001111 0b00000 0b00000 0b00000 0b00000 0b000 0b0 0b00
     decodeTileWord t0 0 w = .illegalInstruction t0 0 w) := by decide +kernel

/-! ## Well-formedness -/

theorem test_wf_accepts : ([.capStepAssert, .vadd t0 0 ⟨0, 0, 0, 0, 0, false, 0⟩, .nop ⟨0xFF, 0, 1, 0⟩] : List Instr).all Instr.wf = true := by decide

/-! ## General statements -/

theorem witness_StepRunsTheFrontCommand : (⟨State.reset.chans, State.reset.pd, State.reset.cell, [], [.shareCompute, .flowLoss]⟩ : State).pending =
    .shareCompute :: [.flowLoss] := rfl

/-- A READY channel 0 with a running clock just below a carry of its count. -/
def tickW : State :=
  stateW (chanW .ready [(F.CLK_STATUS_PLL_LOCK.off, F.CLK_STATUS_PLL_LOCK.into 0 1), (R.CLK_PCLK_COUNT_LO, 0xFFFFFFFE), (R.CLK_PCLK_COUNT_LO + 4, 0xFFFFFFFF)])
theorem quietChans (s : State) (h : ∀ k < 8, (s.chan k).groves = [] ∧ (s.chan k).hasBases = false) :
    ∀ k < 8, (s.chan k).hasBases = false ∧ ∀ g, ((s.chan k).grove g).st.active = false := fun k hk =>
  ⟨(h k hk).2, fun g => by rw [Chan.grove, (h k hk).1]; rfl⟩
theorem witness_IdleStepsTick :
    (State.reset.pending = [] ∧ State.reset.pd.powered = false) ∧
    (tickW.pending = [] ∧ tickW.pd.powered = true ∧ (∀ k < 8, (tickW.chan k).hasBases = false ∧ ∀ g, ((tickW.chan k).grove g).st.active = false) ∧
       (tickW.chan 7).st = .off ∧ (tickW.chan 0).st = .ready ∧ (tickW.chan 0).clocked = true ∧
       (tickW.chan 0).bank.get64 chanRegs R.CLK_PCLK_COUNT_LO = 2 ^ 64 - 2) :=
  ⟨by decide, rfl, rfl, quietChans tickW (by decide +kernel), by decide, by decide, by decide +kernel, by decide +kernel⟩

theorem witness_EveryStepKeeps : step State.reset = .next State.reset ∧ State.reset.cell.Sound ∧ State.reset.pd.SessionsBound :=
  ⟨rfl, ⟨rfl, rfl, by decide, by decide, by decide, by decide⟩, by decide, by decide⟩

theorem witness_LockedStaysLocked : ({ State.reset with pd := { PortDie.reset with locked := true } } : State).pd.locked = true ∧
    ∃ t, step { State.reset with pd := { PortDie.reset with locked := true } } = .next t := ⟨rfl, _, rfl⟩

theorem witness_ChannelCommandsStayInTheirChannel : (Instr.flip 3).within = some 3 ∧ (∃ t, exec (.flip 3) State.reset = .next t ∧
    (State.reset.chan 3).hasBases = false ∧ (t.chan 3).hasBases = false ∧ ∀ e ∈ [2, 3, 4], seamFalls (State.reset.chan 3) (t.chan 3) e = false) :=
  ⟨rfl, _, rfl, by decide +kernel, by decide +kernel, by decide +kernel⟩

/-! ## The tile core -/

theorem witness_canIssue : ((runW { Tile.reset with c0 := ctxW }).chan 0).canIssue (tileIdx t0) 0 = true ∧
    (State.reset.chan 0).canIssue (tileIdx t0) 0 = false ∧ (State.reset.chan 0).canRetry (tileIdx t0) 0 = false ∧
    ((runW { Tile.reset with c0 := { ctxW with st := .waiting } }).chan 0).canRetry (tileIdx t0) 0 = true := by decide +kernel

theorem witness_VectorOps : ((Instr.vsfu t0 0 ⟨0, 0, 0, 5, 0, true, 0⟩) ∈ (laneOps t0 0 ⟨0, 0, 0, 5, 0, true, 0⟩).map (·.1)) ∧
    (laneOps t0 0 ⟨0, 0, 0, 6, 0, true, 0⟩).length = 8 ∧ 5 < (⟨0, 0, 0, 6, 0, true, 0⟩ : VFields).vc.toNat := by decide

theorem witness_CompareConvertReduce : (⟨0, 0, 0, 4, 0, true, 2⟩ : VFields).sub ≠ 3 ∧ (⟨0, 0, 0, 4, 0, true, 2⟩ : VFields).vc.toNat ≤ 4 ∧
    4 < (⟨0, 0, 0, 5, 0, true, 3⟩ : VFields).vc.toNat ∧ (⟨0, 0, 0, 5, 0, true, 3⟩ : VFields).sub = 3 ∧ ∀ l < 128, ((ctxW.pr 0).getLsbD l) = true := by decide +kernel

/-- A tile whose context 0 runs, with a value in x1 and poisoned lines. -/
def loadW (x1 : Nat) (poison : List Nat) : State := runW { Tile.reset with c0 := { ctxW with x := [(1, BitVec.ofNat 64 x1)] }, poison := poison }
theorem witness_ScalarLoadsAndStores :
    (let c := (loadW (sramBytes - 8) []).chan 0
     let a := effAddr ((c.at_ t0 0).xr 1) 0
     a % 8 = 0 ∧ a + 8 = sramBytes ∧ sramOk a 8 = true ∧ (∃ b d, c.sramRead 0 a 8 [] = (some b, d)) ∧ ∃ d, c.readParts 0 a 8 [] = (true, d)) ∧
    (let c := (loadW 0 [0]).chan 0
     sramOk 0 8 = true ∧ (∃ d, c.sramRead 0 0 8 [] = (none, d)) ∧ ∃ d, c.readParts 0 0 8 [] = (false, d)) ∧
    sramOk (effAddr (((loadW (sramBytes - 7) []).chan 0).at_ t0 0 |>.xr 1) 0) 8 = false :=
  ⟨⟨by decide +kernel, by decide +kernel, by decide +kernel, pair_some (by decide +kernel), pair_of (by decide +kernel)⟩,
    ⟨by decide +kernel, pair_none (by decide +kernel), pair_of (by decide +kernel)⟩, by decide +kernel⟩

theorem witness_VectorLoadsAndStores :
    (let c := (loadW (sramBytes - 256) []).chan 0
     let a := vecAddr (c.at_ t0 0) 1 0
     a + 256 = sramBytes ∧ (c.tile 0).poison = [] ∧ (∃ b d, c.sramRead 0 a 256 [] = (some b, d)) ∧ ∃ d, c.readParts 0 a 256 [] = (true, d)) ∧
    (let c := (loadW 1 [0]).chan 0
     let a := vecAddr (c.at_ t0 0) 1 0
     a + 256 ≤ sramBytes ∧ (∃ d, c.sramRead 0 a 256 [] = (none, d)) ∧ ∃ d, c.readParts 0 a 256 [] = (false, d)) ∧
    sramBytes < vecAddr (((loadW (sramBytes - 255) []).chan 0).at_ t0 0) 1 0 + 256 :=
  ⟨⟨by decide +kernel, by decide +kernel, pair_some (by decide +kernel), pair_of (by decide +kernel)⟩,
    ⟨by decide +kernel, pair_none (by decide +kernel), pair_of (by decide +kernel)⟩, by decide +kernel⟩

theorem witness_Semaphores :
    (ctxW.sem 1 = 0 ∧ (1 : BitVec 4) ≠ 0) ∧ ({ ctxW with sems := [(15, 254)] }.sem 15 = 254) ∧ ({ ctxW with sems := [(15, 255)] }.sem (15 : BitVec 4).toNat = 255) ∧
    Tile.reset.slot = none := by decide

/-- An evaluation grove at batch 4, to be drained at 9. -/
def evalW : Grove := { Grove.empty with st := .running, step := 4, stop := 9 }
theorem witness_KeyGates : evalW.keyGate 4 = .go ∧ ({ evalW with st := .paused }).keyGate 5 = .wait ∧ evalW.keyGate 9 = .drain ∧
    ({ evalW with pauseAt := some 5 }).keyGate 5 = .pause ∧ ({ evalW with ring := { evalW.ring with phase := 1 } }).keyGate 5 = .capture := by decide +kernel

theorem witness_DescriptorsQueueAndKeys :
    ((Ctx.queueOf ctxW 0).length < 8 ∧ 8 ≤ (Ctx.queueOf { ctxW with qM := List.replicate 8 (descW []) } 2).length ∧ (ctxW.xr 1).toNat % 64 = 0 ∧
      majListed (bits (0xFC000000 : Word).toNat 26 6) = false) ∧
    (∃ b d, ((loadW 0 []).chan 0).sramRead 0 0 64 [] = (some b, d)) ∧ (∃ d, ((loadW 0 [0]).chan 0).sramRead 0 0 64 [] = (none, d)) :=
  ⟨by decide +kernel, pair_some (by decide +kernel), pair_none (by decide +kernel)⟩

/-! ## Arrays and movement -/

/-- An array descriptor of one MXFP8 block, without `CLOSE`. -/
def arrDesc (close : Nat) : QDesc := descW [1 + 2 ^ 17 + close * 2 ^ 18, 0x10 + 0x10 * 256 + 0x1 * 65536, 0, 0x1000, 0, 0, 0x1000, 0, 1, 0x2000, 0x4000, 0x5000]

theorem witness_ArrayDescriptorStarts :
    let s := runW { Tile.reset with c0 := { ctxW with qA := [arrDesc 0] } }
    (s.chan 0).mayStart 0 = true ∧ ((s.chan 0).arr 0 .A).run = none ∧ (s.chan 0).pickArr 0 .A = some (0, arrDesc 0) ∧
      arrCheck .A (arrDesc 0).words 0 ((s.chan 0).arr 0 .A) = none := by decide +kernel

theorem witness_ArrayDescriptorFaults :
    let s := runW { Tile.reset with c0 := { ctxW with qA := [descW [2]] } }
    (s.chan 0).mayStart 0 = true ∧ (s.chan 0).pickArr 0 .A = some (0, descW [2]) ∧ arrCheck .A (descW [2]).words 0 ((s.chan 0).arr 0 .A) = some 1 := by decide +kernel

/-! ## Well-formedness: an ill-formed command for each check -/

def qW : Issue := ⟨0, 7, 65535, 0⟩
def frW : Frame := Frame.blank 1 0 (.raw [])
def heW : Hello := ⟨0, 0, 0, 0, 1, 0, 0, [0, 0, 0, 0], [0, 0, 0, 0]⟩
def shW : RingShard := ⟨1, 0, 0, 0, 0, 0, 0, 0, 0, zeros 32⟩

/-- A well-formed command of each row that has a check (part 1) -/
theorem test_wf_accepts_each_a : ([
    .scalarInstruction t0 0 ⟨.branch 0 0 0 4, []⟩,
    .vld t0 0 0 0 0 [],
    .hbmRead t0 0 [],
    .crownCoreAccess 0 ⟨0, true, 0, 0, 64, none, []⟩,
    .weightFrame 0 0 frW,
    .tileDataFrame 0 0 frW,
    .gradientFrame 0 0 frW,
    .frameReceive 0 0 frW 0 .clean,
    .chunkDigestCompare 0 0 0 0,
    .chunkComplete 0 0 0,
    .bufFree 0 0 0 0,
    .chunkDone 0 0 0 0,
    .chunkBad 0 0 0 0 0,
    .chunkTimeout 0 0 0 true,
    .wsetFail 0 0 0 0 0,
    .digestUpdate 0 0 0 0 (zeros 32),
    .switchAt 0 0 1 0,
    .hbmTierReload 0 0 0 none,
    .combineBlock 0 0 0 ⟨true, false⟩,
    .slotTimeout 0 0 0 true 0,
    .graceExpiry 0 0 0 0,
    .stepReport 0 0 0 0 0 0 0 [] true,
    .stepFault 0 0 0 0 0 0 0,
    .verdictTimeout 0 0 0 0,
    .verdict 0 0 0 0 0 0 [],
    .verdictQuery 0 0 0 0 0,
    .suspectMark 0 0 0 0 0 0 0,
    .chunkStored 0 0 0 0 0,
    .writebackTimeout 0 0 0,
    .creditAck 0 0 ⟨0, false, [0, 0, 0, 0]⟩,
    .hello 0 0 heW,
    .seamSlip 0 0 8,
    .audit 0 0 [0, 0, 0, 0],
    .auditReply 0 0 true [0, 0, 0, 0] [0, 0, 0, 0] [0, 0, 0, 0]] : List Instr).all (Instr.wf) = true := by decide +kernel

/-- A well-formed command of each row that has a check (part 2) -/
theorem test_wf_accepts_each_b : ([
    .topoReport 0 0 [(0, 0, 0, 0, 0)],
    .routeSwapComplete 0 none,
    .commandDatagram (cmdW 0 0 []),
    .networkProtocolPacket (.icmpEcho false 0 []),
    .nvmeTcpSegment 0 [],
    .sessionIdleTimeout 0,
    .sessionOpenExpiry 0,
    .nop qW,
    .sessionOpen qW (zeros 16) (zeros 32) 0,
    .sessionKey qW 0 (zeros 1568) (zeros 1280),
    .queueClaim qW 0 0 0,
    .queueRelease qW 0 0,
    .moduleIdSet qW 0 0,
    .eventSubscribe qW (zeros 16) 0 0,
    .serviceMove qW 0 0,
    .netSet qW (zeros 16) 0 (zeros 4) 0,
    .regRead qW 0 0 0,
    .regWrite qW 0 1 [0],
    .regRmw qW 0 0 0,
    .strobe qW 0,
    .strobeAtBoundary qW 0,
    .stageDiscard qW 0,
    .snap qW 0,
    .snapRelease none 0,
    .memRead qW 0 0 [],
    .memWrite qW 0 1 (zeros 64),
    .tileRead qW 0 0 0 0 [],
    .tileWrite qW 0 0 0 1 (zeros 64),
    .nvmeTargetSet qW 0 0 (zeros 16) [0],
    .dmaFetch qW 0 0 0 0 0,
    .dmaStore qW 0 0 0 0 0,
    .dmaFetchComplete qW none,
    .dmaStoreComplete qW ⟨true, []⟩,
    .progLoad qW 0 0 0 0] : List Instr).all (Instr.wf) = true := by decide +kernel

/-- A well-formed command of each row that has a check (part 3) -/
theorem test_wf_accepts_each_c : ([
    .progLoadComplete qW 0,
    .progStop qW 0,
    .groveLoad qW 0 0 (zeros 32),
    .groveLoadComplete qW,
    .groveUnload qW 0,
    .groveStart qW 0 0,
    .grovePause qW 0 0,
    .groveResume qW 0,
    .groveDrain qW 0,
    .groveStatus qW 0,
    .wsetStage qW 0 0 0 0 ⟨1, 0, 0, 0, 0⟩ ⟨1, 0, 0, 0, 0⟩,
    .wsetStageComplete qW [] [] [],
    .wsetSwitch qW 0 0 true,
    .wsetStatus qW 0,
    .wsetDiscard qW 0 0,
    .baseDetach qW 0,
    .verdictLog qW 0,
    .suspectClear qW 0,
    .ringWrite qW 0 0 0 0 0 [],
    .ringRestore qW 0 0 0 0 0 [],
    .restoreQuery qW 0 0 0 0,
    .ringOrphans qW 0 0 0 0,
    .capSet qW 0,
    .orphanCapSet qW 0,
    .attest qW (zeros 32),
    .keyAdd qW (zeros 3112),
    .keyRemove qW (zeros 16) (zeros 1280),
    .alarmCfg qW 0 0,
    .energyRead qW 0 (zeros 32),
    .bistRun qW 0,
    .bistRunComplete qW [(47, 89)] [],
    .logRead qW 0 0,
    .defectMapRead qW 0 0,
    .linkLoopback qW 0 0 0] : List Instr).all (Instr.wf) = true := by decide +kernel

/-- A well-formed command of each row that has a check (part 4) -/
theorem test_wf_accepts_each_d : ([
    .fwUpdate qW 0 0 0,
    .registerWrite none 0 0,
    .bitAliasWrite 0 0 0,
    .ringBegin 0 0 0 1 0 0 0 0 0 0,
    .ringShardList 0 0 0 0 0 true [shW],
    .ringFail 0 0 0 0 0,
    .ringAbort 0 0 0,
    .ringDone 0 0 0 0,
    .restoreBegin 0 0 0 0 0 0 0 [],
    .restoreImageFrame 0 0 0 0 0 [],
    .restoreReport 0 0 0 0 [0],
    .limiterTrim 0 0,
    .supplySample 0,
    .pmbusUnknownCommand 0x04,
    .tempSample 0 (List.replicate 48 0),
    .sensorDisagree 0 5 3,
    .sensorSuspect 0 5 3 0,
    .bringupStepDone 0 true [] [] [] 0,
    .heartbeat 0 [] [],
    .cellEnergySample (List.replicate 9 0),
    .apportion [(7, 15, 0)],
    .restoreQueryComplete qW [],
    .ringOrphansComplete qW []] : List Instr).all (Instr.wf) = true := by decide +kernel

/-- Each operand out of its range in turn is refused (part 1) -/
theorem test_wf_refuses_a : ([
    .scalarInstruction t0 0 ⟨.branch 0 0 0 2, []⟩,
    .vld t0 0 0 0 0 [(24576, 0)],
    .hbmRead t0 0 [(2 ^ 31, 0)],
    .crownCoreAccess 0 ⟨0, true, 0, 0, 0, none, []⟩, .crownCoreAccess 0 ⟨0, true, 0, 0, 65, none, []⟩, .crownCoreAccess 0 ⟨0, true, 0, 0, 2, some [0], []⟩,
    .weightFrame 0 0 { frW with typ := 256 }, .weightFrame 0 0 { frW with vl := 4 }, .weightFrame 0 0 { frW with lseq := 2 ^ 16 }, .weightFrame 0 0 { frW with src := 2 ^ 16 }, .weightFrame 0 0 { frW with dst := 2 ^ 16 }, .weightFrame 0 0 { frW with job := 2 ^ 16 }, .weightFrame 0 0 { frW with grove := 256 }, .weightFrame 0 0 { frW with fmt := 256 }, .weightFrame 0 0 { frW with tensor := 2 ^ 24 }, .weightFrame 0 0 { frW with shard := 2 ^ 24 }, .weightFrame 0 0 { frW with step := 2 ^ 32 }, .weightFrame 0 0 { frW with mb := 2 ^ 16 }, .weightFrame 0 0 { frW with hver := 256 }, .weightFrame 0 0 { frW with ccount := 2 ^ 16 }, .weightFrame 0 0 { frW with rseq := 2 ^ 32 }, .weightFrame 0 0 { frW with payload := .credit ⟨2 ^ 16, false, [0, 0, 0, 0]⟩ }, .weightFrame 0 0 { frW with payload := .credit ⟨0, false, [0]⟩ },
    .tileDataFrame 0 0 { frW with vl := 4 },
    .gradientFrame 0 0 { frW with vl := 4 },
    .frameReceive 0 0 { frW with vl := 4 } 0 .clean,
    .chunkDigestCompare 0 0 (2 ^ 16) 0, .chunkDigestCompare 0 0 0 (2 ^ 32),
    .chunkComplete 0 0 (2 ^ 32),
    .bufFree 0 (2 ^ 16) 0 0, .bufFree 0 0 (2 ^ 16) 0, .bufFree 0 0 0 (2 ^ 32),
    .chunkDone 0 (2 ^ 16) 0 0, .chunkDone 0 0 (2 ^ 32) 0, .chunkDone 0 0 0 (2 ^ 12),
    .chunkBad 0 (2 ^ 16) 0 0 0, .chunkBad 0 0 (2 ^ 32) 0 0, .chunkBad 0 0 0 (2 ^ 8) 0, .chunkBad 0 0 0 0 (2 ^ 16),
    .chunkTimeout 0 0 (2 ^ 32) true,
    .wsetFail 0 (2 ^ 16) 0 0 0, .wsetFail 0 0 (2 ^ 32) 0 0, .wsetFail 0 0 0 (2 ^ 16) 0, .wsetFail 0 0 0 0 (2 ^ 16),
    .digestUpdate 0 (2 ^ 16) 0 0 (zeros 32), .digestUpdate 0 0 (2 ^ 32) 0 (zeros 32), .digestUpdate 0 0 0 (2 ^ 32) (zeros 32), .digestUpdate 0 0 0 0 (zeros 31),
    .switchAt 0 (2 ^ 16) 1 0, .switchAt 0 0 2 0, .switchAt 0 0 1 (2 ^ 32),
    .hbmTierReload 0 0 (2 ^ 32) none,
    .combineBlock 0 0 (2 ^ 24) ⟨true, false⟩,
    .slotTimeout 0 0 (2 ^ 24) true 0, .slotTimeout 0 0 0 true (2 ^ 16),
    .graceExpiry 0 0 (2 ^ 24) 0, .graceExpiry 0 0 0 (2 ^ 16),
    .stepReport 0 (2 ^ 16) 0 0 0 0 0 [] true, .stepReport 0 0 (2 ^ 16) 0 0 0 0 [] true, .stepReport 0 0 0 (2 ^ 16) 0 0 0 [] true, .stepReport 0 0 0 0 (2 ^ 32) 0 0 [] true, .stepReport 0 0 0 0 0 (2 ^ 32) 0 [] true, .stepReport 0 0 0 0 0 0 (2 ^ 32) [] true,
    .stepFault 0 (2 ^ 16) 0 0 0 0 0, .stepFault 0 0 (2 ^ 16) 0 0 0 0, .stepFault 0 0 0 (2 ^ 16) 0 0 0, .stepFault 0 0 0 0 (2 ^ 32) 0 0, .stepFault 0 0 0 0 0 (2 ^ 8) 0, .stepFault 0 0 0 0 0 0 (2 ^ 24),
    .verdictTimeout 0 0 (2 ^ 32) 0, .verdictTimeout 0 0 0 (2 ^ 16),
    .verdict 0 (2 ^ 16) 0 0 0 0 [], .verdict 0 0 (2 ^ 16) 0 0 0 [], .verdict 0 0 0 (2 ^ 8) 0 0 [], .verdict 0 0 0 0 (2 ^ 32) 0 [], .verdict 0 0 0 0 0 (2 ^ 10) [],
    .verdictQuery 0 (2 ^ 16) 0 0 0, .verdictQuery 0 0 (2 ^ 16) 0 0, .verdictQuery 0 0 0 (2 ^ 32) 0, .verdictQuery 0 0 0 0 (2 ^ 16),
    .suspectMark 0 (2 ^ 16) 0 0 0 0 0, .suspectMark 0 0 (2 ^ 16) 0 0 0 0, .suspectMark 0 0 0 (2 ^ 32) 0 0 0, .suspectMark 0 0 0 0 (2 ^ 24) 0 0, .suspectMark 0 0 0 0 0 (2 ^ 16) 0, .suspectMark 0 0 0 0 0 0 (2 ^ 16),
    .chunkStored 0 (2 ^ 16) 0 0 0, .chunkStored 0 0 (2 ^ 32) 0 0, .chunkStored 0 0 0 (2 ^ 32) 0, .chunkStored 0 0 0 0 (2 ^ 8),
    .writebackTimeout 0 0 (2 ^ 32),
    .creditAck 0 0 ⟨2 ^ 16, false, [0, 0, 0, 0]⟩, .creditAck 0 0 ⟨0, false, [0, 0, 0, 2 ^ 32]⟩,
    .hello 0 0 { heW with node := 2 ^ 16 }, .hello 0 0 { heW with serial := 2 ^ 64 }, .hello 0 0 { heW with channel := 256 }, .hello 0 0 { heW with ifx := 256 }, .hello 0 0 { heW with kind := 0 }, .hello 0 0 { heW with kind := 4 }, .hello 0 0 { heW with fmNode := 2 ^ 16 }, .hello 0 0 { heW with rxNext := 2 ^ 16 }, .hello 0 0 { heW with allot := [] }, .hello 0 0 { heW with held := [0, 0, 0, 2 ^ 32] },
    .seamSlip 0 0 9,
    .audit 0 0 [0, 0, 0], .audit 0 0 [0, 0, 0, 2 ^ 64],
    .auditReply 0 0 true [0, 0, 0] [0, 0, 0, 0] [0, 0, 0, 0], .auditReply 0 0 true [0, 0, 0, 2 ^ 64] [0, 0, 0, 0] [0, 0, 0, 0], .auditReply 0 0 true [0, 0, 0, 0] [0, 0, 0] [0, 0, 0, 0], .auditReply 0 0 true [0, 0, 0, 0] [0, 0, 0, 2 ^ 64] [0, 0, 0, 0], .auditReply 0 0 true [0, 0, 0, 0] [0, 0, 0, 0] [0, 0, 0], .auditReply 0 0 true [0, 0, 0, 0] [0, 0, 0, 0] [0, 0, 0, 2 ^ 64]] : List Instr).all (fun i => !i.wf) = true := by decide +kernel

/-- Each operand out of its range in turn is refused (part 2) -/
theorem test_wf_refuses_b : ([
    .topoReport 0 (2 ^ 16) [(0, 0, 0, 0, 0)], .topoReport 0 0 [(256, 0, 0, 0, 0)], .topoReport 0 0 [(0, 256, 0, 0, 0)], .topoReport 0 0 [(0, 0, 2 ^ 16, 0, 0)], .topoReport 0 0 [(0, 0, 0, 2 ^ 64, 0)], .topoReport 0 0 [(0, 0, 0, 0, 256)],
    .routeSwapComplete 0 (some (2 ^ 31)),
    .commandDatagram { cmdW 0 0 [] with udpLen := 2 ^ 16 }, .commandDatagram { cmdW 0 0 [] with magic := 2 ^ 16 }, .commandDatagram { cmdW 0 0 [] with version := 256 }, .commandDatagram { cmdW 0 0 [] with channel := 256 }, .commandDatagram { cmdW 0 0 [] with queue := 256 }, .commandDatagram { cmdW 0 0 [] with opcode := 256 }, .commandDatagram { cmdW 0 0 [] with flags := 2 ^ 16 }, .commandDatagram { cmdW 0 0 [] with plen := 2 ^ 16 }, .commandDatagram { cmdW 0 0 [] with session := 2 ^ 16 }, .commandDatagram { cmdW 0 0 [] with tag := [] },
    .networkProtocolPacket (.icmpEcho false (2 ^ 32) []), .networkProtocolPacket (.icmpEcho true (2 ^ 128) []), .networkProtocolPacket (.neighbourSolicit (2 ^ 128)),
    .nvmeTcpSegment (2 ^ 16) [],
    .sessionIdleTimeout (2 ^ 16),
    .sessionOpenExpiry (2 ^ 16),
    .nop ⟨8, 0, 1, 0⟩, .nop ⟨0, 8, 1, 0⟩, .nop ⟨0xFF, 1, 1, 0⟩, .nop ⟨0, 0, 2 ^ 16, 0⟩,
    .sessionOpen ⟨8, 0, 1, 0⟩ (zeros 16) (zeros 32) 0, .sessionOpen qW (zeros 15) (zeros 32) 0, .sessionOpen qW (zeros 16) (zeros 31) 0, .sessionOpen qW (zeros 16) (zeros 32) (2 ^ 16),
    .sessionKey ⟨8, 0, 1, 0⟩ 0 (zeros 1568) (zeros 1280), .sessionKey qW (2 ^ 16) (zeros 1568) (zeros 1280), .sessionKey qW 0 (zeros 1567) (zeros 1280), .sessionKey qW 0 (zeros 1568) (zeros 1279),
    .queueClaim ⟨8, 0, 1, 0⟩ 0 0 0, .queueClaim qW (2 ^ 8) 0 0, .queueClaim qW 0 (2 ^ 8) 0,
    .queueRelease ⟨8, 0, 1, 0⟩ 0 0, .queueRelease qW (2 ^ 8) 0, .queueRelease qW 0 (2 ^ 8),
    .moduleIdSet ⟨8, 0, 1, 0⟩ 0 0, .moduleIdSet qW (2 ^ 16) 0, .moduleIdSet qW 0 (2 ^ 16),
    .eventSubscribe ⟨8, 0, 1, 0⟩ (zeros 16) 0 0, .eventSubscribe qW (zeros 15) 0 0, .eventSubscribe qW (zeros 16) (2 ^ 16) 0, .eventSubscribe qW (zeros 16) 0 (2 ^ 8),
    .serviceMove ⟨8, 0, 1, 0⟩ 0 0, .serviceMove qW (2 ^ 8) 0, .serviceMove qW 0 (2 ^ 8),
    .netSet ⟨8, 0, 1, 0⟩ (zeros 16) 0 (zeros 4) 0, .netSet qW (zeros 15) 0 (zeros 4) 0, .netSet qW (zeros 16) (2 ^ 8) (zeros 4) 0, .netSet qW (zeros 16) 0 (zeros 3) 0, .netSet qW (zeros 16) 0 (zeros 4) (2 ^ 8),
    .regRead ⟨8, 0, 1, 0⟩ 0 0 0, .regRead qW 0 (2 ^ 16) 0, .regRead qW 0 0 (2 ^ 8),
    .regWrite ⟨8, 0, 1, 0⟩ 0 1 [0], .regWrite qW 0 (2 ^ 16) [0], .regWrite qW 0 1 [],
    .regRmw ⟨8, 0, 1, 0⟩ 0 0 0,
    .strobe ⟨8, 0, 1, 0⟩ 0,
    .strobeAtBoundary ⟨8, 0, 1, 0⟩ 0,
    .stageDiscard ⟨8, 0, 1, 0⟩ 0,
    .snap ⟨8, 0, 1, 0⟩ 0,
    .snapRelease none (2 ^ 32),
    .memRead ⟨8, 0, 1, 0⟩ 0 0 [], .memRead qW (2 ^ 32) 0 [], .memRead qW 0 (2 ^ 16) [], .memRead qW 0 0 [(2 ^ 31, 0)],
    .memWrite ⟨8, 0, 1, 0⟩ 0 1 (zeros 64), .memWrite qW (2 ^ 32) 1 (zeros 64), .memWrite qW 0 1 (zeros 63),
    .tileRead ⟨8, 0, 1, 0⟩ 0 0 0 0 [], .tileRead qW (2 ^ 8) 0 0 0 [], .tileRead qW 0 (2 ^ 8) 0 0 [], .tileRead qW 0 0 (2 ^ 32) 0 [], .tileRead qW 0 0 0 (2 ^ 16) [], .tileRead qW 0 0 0 0 [(24576, 0)],
    .tileWrite ⟨8, 0, 1, 0⟩ 0 0 0 1 (zeros 64), .tileWrite qW (2 ^ 8) 0 0 1 (zeros 64), .tileWrite qW 0 (2 ^ 8) 0 1 (zeros 64), .tileWrite qW 0 0 (2 ^ 32) 1 (zeros 64), .tileWrite qW 0 0 0 1 (zeros 63),
    .nvmeTargetSet ⟨8, 0, 1, 0⟩ 0 0 (zeros 16) [0], .nvmeTargetSet qW (2 ^ 8) 0 (zeros 16) [0], .nvmeTargetSet qW 0 (2 ^ 16) (zeros 16) [0], .nvmeTargetSet qW 0 0 (zeros 15) [0], .nvmeTargetSet qW 0 0 (zeros 16) (zeros 256),
    .dmaFetch ⟨8, 0, 1, 0⟩ 0 0 0 0 0, .dmaFetch qW (2 ^ 8) 0 0 0 0, .dmaFetch qW 0 (2 ^ 32) 0 0 0, .dmaFetch qW 0 0 (2 ^ 64) 0 0, .dmaFetch qW 0 0 0 (2 ^ 32) 0, .dmaFetch qW 0 0 0 0 (2 ^ 32),
    .dmaStore ⟨8, 0, 1, 0⟩ 0 0 0 0 0, .dmaStore qW (2 ^ 8) 0 0 0 0, .dmaStore qW 0 (2 ^ 32) 0 0 0, .dmaStore qW 0 0 (2 ^ 64) 0 0, .dmaStore qW 0 0 0 (2 ^ 32) 0, .dmaStore qW 0 0 0 0 (2 ^ 32),
    .dmaFetchComplete ⟨8, 0, 1, 0⟩ none,
    .dmaStoreComplete ⟨8, 0, 1, 0⟩ ⟨true, []⟩,
    .progLoad ⟨8, 0, 1, 0⟩ 0 0 0 0, .progLoad qW (2 ^ 8) 0 0 0, .progLoad qW 0 (2 ^ 8) 0 0, .progLoad qW 0 0 (2 ^ 32) 0, .progLoad qW 0 0 0 (2 ^ 32)] : List Instr).all (fun i => !i.wf) = true := by decide +kernel

/-- Each operand out of its range in turn is refused (part 3) -/
theorem test_wf_refuses_c : ([
    .progLoadComplete ⟨8, 0, 1, 0⟩ 0, .progLoadComplete qW (2 ^ 32),
    .progStop ⟨8, 0, 1, 0⟩ 0, .progStop qW (2 ^ 8),
    .groveLoad ⟨8, 0, 1, 0⟩ 0 0 (zeros 32), .groveLoad qW (2 ^ 32) 0 (zeros 32), .groveLoad qW 0 (2 ^ 32) (zeros 32), .groveLoad qW 0 0 (zeros 31),
    .groveLoadComplete ⟨8, 0, 1, 0⟩,
    .groveUnload ⟨8, 0, 1, 0⟩ 0, .groveUnload qW (2 ^ 8),
    .groveStart ⟨8, 0, 1, 0⟩ 0 0, .groveStart qW (2 ^ 8) 0,
    .grovePause ⟨8, 0, 1, 0⟩ 0 0, .grovePause qW (2 ^ 8) 0,
    .groveResume ⟨8, 0, 1, 0⟩ 0, .groveResume qW (2 ^ 8),
    .groveDrain ⟨8, 0, 1, 0⟩ 0, .groveDrain qW (2 ^ 8),
    .groveStatus ⟨8, 0, 1, 0⟩ 0, .groveStatus qW (2 ^ 8),
    .wsetStage ⟨8, 0, 1, 0⟩ 0 0 0 0 ⟨1, 0, 0, 0, 0⟩ ⟨1, 0, 0, 0, 0⟩, .wsetStage qW (2 ^ 8) 0 0 0 ⟨1, 0, 0, 0, 0⟩ ⟨1, 0, 0, 0, 0⟩, .wsetStage qW 0 (2 ^ 8) 0 0 ⟨1, 0, 0, 0, 0⟩ ⟨1, 0, 0, 0, 0⟩, .wsetStage qW 0 0 (2 ^ 16) 0 ⟨1, 0, 0, 0, 0⟩ ⟨1, 0, 0, 0, 0⟩, .wsetStage qW 0 0 0 (2 ^ 16) ⟨1, 0, 0, 0, 0⟩ ⟨1, 0, 0, 0, 0⟩, .wsetStage qW 0 0 0 0 ⟨2, 0, 0, 0, 0⟩ ⟨1, 0, 0, 0, 0⟩, .wsetStage qW 0 0 0 0 ⟨1, 256, 0, 0, 0⟩ ⟨1, 0, 0, 0, 0⟩, .wsetStage qW 0 0 0 0 ⟨1, 0, 2 ^ 32, 0, 0⟩ ⟨1, 0, 0, 0, 0⟩, .wsetStage qW 0 0 0 0 ⟨1, 0, 0, 2 ^ 64, 0⟩ ⟨1, 0, 0, 0, 0⟩, .wsetStage qW 0 0 0 0 ⟨1, 0, 0, 0, 2 ^ 16⟩ ⟨1, 0, 0, 0, 0⟩, .wsetStage qW 0 0 0 0 ⟨1, 0, 0, 0, 0⟩ ⟨2, 0, 0, 0, 0⟩,
    .wsetStageComplete ⟨8, 0, 1, 0⟩ [] [] [],
    .wsetSwitch ⟨8, 0, 1, 0⟩ 0 0 true, .wsetSwitch qW (2 ^ 8) 0 true, .wsetSwitch qW 0 (2 ^ 8) true,
    .wsetStatus ⟨8, 0, 1, 0⟩ 0, .wsetStatus qW (2 ^ 8),
    .wsetDiscard ⟨8, 0, 1, 0⟩ 0 0, .wsetDiscard qW (2 ^ 8) 0, .wsetDiscard qW 0 (2 ^ 8),
    .baseDetach ⟨8, 0, 1, 0⟩ 0, .baseDetach qW (2 ^ 8),
    .verdictLog ⟨8, 0, 1, 0⟩ 0, .verdictLog qW (2 ^ 8),
    .suspectClear ⟨8, 0, 1, 0⟩ 0, .suspectClear qW (2 ^ 8),
    .ringWrite ⟨8, 0, 1, 0⟩ 0 0 0 0 0 [], .ringWrite qW (2 ^ 8) 0 0 0 0 [], .ringWrite qW 0 (2 ^ 8) 0 0 0 [], .ringWrite qW 0 0 (2 ^ 8) 0 0 [], .ringWrite qW 0 0 0 (2 ^ 32) 0 [], .ringWrite qW 0 0 0 0 (2 ^ 64) [],
    .ringRestore ⟨8, 0, 1, 0⟩ 0 0 0 0 0 [], .ringRestore qW (2 ^ 8) 0 0 0 0 [], .ringRestore qW 0 (2 ^ 8) 0 0 0 [], .ringRestore qW 0 0 (2 ^ 32) 0 0 [], .ringRestore qW 0 0 0 (2 ^ 64) 0 [], .ringRestore qW 0 0 0 0 (2 ^ 32) [],
    .restoreQuery ⟨8, 0, 1, 0⟩ 0 0 0 0, .restoreQuery qW (2 ^ 8) 0 0 0, .restoreQuery qW 0 (2 ^ 8) 0 0, .restoreQuery qW 0 0 (2 ^ 32) 0, .restoreQuery qW 0 0 0 (2 ^ 64),
    .ringOrphans ⟨8, 0, 1, 0⟩ 0 0 0 0, .ringOrphans qW (2 ^ 8) 0 0 0, .ringOrphans qW 0 (2 ^ 8) 0 0, .ringOrphans qW 0 0 (2 ^ 32) 0, .ringOrphans qW 0 0 0 (2 ^ 64),
    .capSet ⟨8, 0, 1, 0⟩ 0, .capSet qW (2 ^ 32),
    .orphanCapSet ⟨8, 0, 1, 0⟩ 0, .orphanCapSet qW (2 ^ 32),
    .attest ⟨8, 0, 1, 0⟩ (zeros 32), .attest qW (zeros 31),
    .keyAdd ⟨8, 0, 1, 0⟩ (zeros 3112), .keyAdd qW (zeros 3111),
    .keyRemove ⟨8, 0, 1, 0⟩ (zeros 16) (zeros 1280), .keyRemove qW (zeros 15) (zeros 1280), .keyRemove qW (zeros 16) (zeros 1279),
    .alarmCfg ⟨8, 0, 1, 0⟩ 0 0, .alarmCfg qW (2 ^ 8) 0, .alarmCfg qW 0 (2 ^ 8),
    .energyRead ⟨8, 0, 1, 0⟩ 0 (zeros 32), .energyRead qW (2 ^ 8) (zeros 32), .energyRead qW 0 (zeros 31),
    .bistRun ⟨8, 0, 1, 0⟩ 0, .bistRun qW (2 ^ 8),
    .bistRunComplete ⟨8, 0, 1, 0⟩ [(47, 89)] [], .bistRunComplete qW [(48, 0)] [], .bistRunComplete qW [(47, 89)] [(0, 90)],
    .logRead ⟨8, 0, 1, 0⟩ 0 0, .logRead qW 0 (2 ^ 16),
    .defectMapRead ⟨8, 0, 1, 0⟩ 0 0, .defectMapRead qW (2 ^ 32) 0, .defectMapRead qW 0 (2 ^ 16),
    .linkLoopback ⟨8, 0, 1, 0⟩ 0 0 0, .linkLoopback qW (2 ^ 8) 0 0, .linkLoopback qW 0 (2 ^ 8) 0, .linkLoopback qW 0 0 (2 ^ 32)] : List Instr).all (fun i => !i.wf) = true := by decide +kernel

/-- Each operand out of its range in turn is refused (part 4) -/
theorem test_wf_refuses_d : ([
    .fwUpdate ⟨8, 0, 1, 0⟩ 0 0 0, .fwUpdate qW (2 ^ 8) 0 0, .fwUpdate qW 0 (2 ^ 32) 0, .fwUpdate qW 0 0 (2 ^ 32),
    .registerWrite none (2 ^ 32) 0,
    .bitAliasWrite 0 (2 ^ 32) 0,
    .ringBegin 0 (2 ^ 16) 0 1 0 0 0 0 0 0, .ringBegin 0 0 (2 ^ 32) 1 0 0 0 0 0 0, .ringBegin 0 0 0 2 0 0 0 0 0 0, .ringBegin 0 0 0 1 (2 ^ 16) 0 0 0 0 0, .ringBegin 0 0 0 1 0 (2 ^ 32) 0 0 0 0, .ringBegin 0 0 0 1 0 0 (2 ^ 16) 0 0 0, .ringBegin 0 0 0 1 0 0 0 (2 ^ 8) 0 0, .ringBegin 0 0 0 1 0 0 0 0 (2 ^ 32) 0, .ringBegin 0 0 0 1 0 0 0 0 0 (2 ^ 64),
    .ringShardList 0 (2 ^ 16) 0 0 0 true [shW], .ringShardList 0 0 (2 ^ 32) 0 0 true [shW], .ringShardList 0 0 0 (2 ^ 16) 0 true [shW], .ringShardList 0 0 0 0 (2 ^ 32) true [shW], .ringShardList 0 0 0 0 0 true [{ shW with kind := 256 }], .ringShardList 0 0 0 0 0 true [{ shW with flags := 256 }], .ringShardList 0 0 0 0 0 true [{ shW with tensor := 2 ^ 32 }], .ringShardList 0 0 0 0 0 true [{ shW with member := 2 ^ 16 }], .ringShardList 0 0 0 0 0 true [{ shW with first := 2 ^ 64 }], .ringShardList 0 0 0 0 0 true [{ shW with nblock := 2 ^ 64 }], .ringShardList 0 0 0 0 0 true [{ shW with header := 2 ^ 64 }], .ringShardList 0 0 0 0 0 true [{ shW with blocks := 2 ^ 64 }], .ringShardList 0 0 0 0 0 true [{ shW with ring := 2 ^ 32 }], .ringShardList 0 0 0 0 0 true [{ shW with digest := [] }],
    .ringFail 0 (2 ^ 16) 0 0 0, .ringFail 0 0 (2 ^ 16) 0 0, .ringFail 0 0 0 (2 ^ 8) 0, .ringFail 0 0 0 0 (2 ^ 32),
    .ringAbort 0 (2 ^ 16) 0, .ringAbort 0 0 (2 ^ 16),
    .ringDone 0 (2 ^ 16) 0 0, .ringDone 0 0 (2 ^ 32) 0, .ringDone 0 0 0 (2 ^ 16),
    .restoreBegin 0 (2 ^ 16) 0 0 0 0 0 [], .restoreBegin 0 0 (2 ^ 32) 0 0 0 0 [], .restoreBegin 0 0 0 (2 ^ 16) 0 0 0 [], .restoreBegin 0 0 0 0 (2 ^ 8) 0 0 [], .restoreBegin 0 0 0 0 0 (2 ^ 32) 0 [], .restoreBegin 0 0 0 0 0 0 (2 ^ 64) [],
    .restoreImageFrame 0 (2 ^ 16) 0 0 0 [], .restoreImageFrame 0 0 (2 ^ 8) 0 0 [], .restoreImageFrame 0 0 0 (2 ^ 32) 0 [],
    .restoreReport 0 (2 ^ 16) 0 0 [0], .restoreReport 0 0 (2 ^ 16) 0 [0], .restoreReport 0 0 0 (2 ^ 8) [0], .restoreReport 0 0 0 0 [2 ^ 32],
    .limiterTrim 0 (2 ^ 16),
    .supplySample (2 ^ 17),
    .pmbusUnknownCommand 0x03, .pmbusUnknownCommand 0xD3,
    .tempSample 0 [],
    .sensorDisagree 0 6 3, .sensorDisagree 0 5 4,
    .sensorSuspect 0 6 3 0, .sensorSuspect 0 5 4 0,
    .bringupStepDone 0 true [(48, 0)] [] [] 0, .bringupStepDone 0 true [] [(0, 90)] [] 0, .bringupStepDone 0 true [] [] [] (2 ^ 12),
    .heartbeat 0 [(48, 0)] [], .heartbeat 0 [] [(0, 90)],
    .cellEnergySample [],
    .apportion [(8, 0, 0)], .apportion [(0, 16, 0)],
    .restoreQueryComplete ⟨8, 0, 1, 0⟩ [],
    .ringOrphansComplete ⟨8, 0, 1, 0⟩ []] : List Instr).all (fun i => !i.wf) = true := by decide +kernel

/-- A well-formed control message of each subtype -/
theorem test_wf_accepts_messages : ([
    .hello heW,
    .topoReport [],
    .idAssign 0 0,
    .audit [0, 0, 0, 0],
    .auditReply true [0, 0, 0, 0] [0, 0, 0, 0] [0, 0, 0, 0],
    .readChunk (zeros 16) 0 0 true 1 1,
    .chunkDone 0 0 0,
    .chunkBad 0 0 0 0,
    .bufFree 0 0,
    .wsetFail 0 0 0 0,
    .digestUpdate 0 0 0 (zeros 32),
    .switchAt 0 1 0,
    .chunkStored 0 0 0 0,
    .writeChunk 0 (zeros 16) 0 0 0 (zeros 32) 0,
    .stepReport 0 0 0 0 0 [] true,
    .stepFault 0 0 0 0 0,
    .verdictQuery 0 0 0,
    .suspectMark 0 0 0 0 0 0,
    .ringBegin 0 0 1 0 0 0 0 0 0,
    .ringFail 0 0 0 0,
    .ringAbort 0 0,
    .ringDone 0 0 0,
    .restoreBegin 0 0 0 0 0 0,
    .restoreReport 0 0 [],
    .other 0 []] : List CtlMsg).all (CtlMsg.wf) = true := by decide +kernel

/-- Each parameter of a control message out of its range -/
theorem test_wf_refuses_messages : ([
    .hello { heW with kind := 4 },
    .topoReport [(256, 0, 0, 0, 0)],
    .idAssign (2 ^ 16) 0, .idAssign 0 (2 ^ 16),
    .audit [0, 0, 0], .audit [0, 0, 0, 2 ^ 64],
    .auditReply true [0, 0, 0] [0, 0, 0, 0] [0, 0, 0, 0], .auditReply true [0, 0, 0, 2 ^ 64] [0, 0, 0, 0] [0, 0, 0, 0], .auditReply true [0, 0, 0, 0] [0, 0, 0] [0, 0, 0, 0], .auditReply true [0, 0, 0, 0] [0, 0, 0, 2 ^ 64] [0, 0, 0, 0], .auditReply true [0, 0, 0, 0] [0, 0, 0, 0] [0, 0, 0], .auditReply true [0, 0, 0, 0] [0, 0, 0, 0] [0, 0, 0, 2 ^ 64],
    .readChunk (zeros 15) 0 0 true 1 1, .readChunk (zeros 16) (2 ^ 32) 0 true 1 1, .readChunk (zeros 16) 0 (2 ^ 16) true 1 1, .readChunk (zeros 16) 0 0 true 2 1, .readChunk (zeros 16) 0 0 true 1 2,
    .chunkDone (2 ^ 16) 0 0, .chunkDone 0 (2 ^ 32) 0, .chunkDone 0 0 (2 ^ 12),
    .chunkBad (2 ^ 16) 0 0 0, .chunkBad 0 (2 ^ 32) 0 0, .chunkBad 0 0 (2 ^ 8) 0, .chunkBad 0 0 0 (2 ^ 16),
    .bufFree (2 ^ 16) 0, .bufFree 0 (2 ^ 32),
    .wsetFail (2 ^ 16) 0 0 0, .wsetFail 0 (2 ^ 32) 0 0, .wsetFail 0 0 (2 ^ 16) 0, .wsetFail 0 0 0 (2 ^ 16),
    .digestUpdate (2 ^ 16) 0 0 (zeros 32), .digestUpdate 0 (2 ^ 32) 0 (zeros 32), .digestUpdate 0 0 (2 ^ 32) (zeros 32), .digestUpdate 0 0 0 (zeros 31),
    .switchAt (2 ^ 16) 1 0, .switchAt 0 2 0, .switchAt 0 1 (2 ^ 32),
    .chunkStored (2 ^ 16) 0 0 0, .chunkStored 0 (2 ^ 32) 0 0, .chunkStored 0 0 (2 ^ 32) 0, .chunkStored 0 0 0 (2 ^ 8),
    .writeChunk (2 ^ 16) (zeros 16) 0 0 0 (zeros 32) 0, .writeChunk 0 (zeros 15) 0 0 0 (zeros 32) 0, .writeChunk 0 (zeros 16) (2 ^ 32) 0 0 (zeros 32) 0, .writeChunk 0 (zeros 16) 0 (2 ^ 32) 0 (zeros 32) 0, .writeChunk 0 (zeros 16) 0 0 (2 ^ 32) (zeros 32) 0, .writeChunk 0 (zeros 16) 0 0 0 (zeros 31) 0, .writeChunk 0 (zeros 16) 0 0 0 (zeros 32) (2 ^ 8),
    .stepReport (2 ^ 16) 0 0 0 0 [] true, .stepReport 0 (2 ^ 16) 0 0 0 [] true, .stepReport 0 0 (2 ^ 32) 0 0 [] true, .stepReport 0 0 0 (2 ^ 32) 0 [] true, .stepReport 0 0 0 0 (2 ^ 32) [] true,
    .stepFault (2 ^ 16) 0 0 0 0, .stepFault 0 (2 ^ 16) 0 0 0, .stepFault 0 0 (2 ^ 32) 0 0, .stepFault 0 0 0 (2 ^ 8) 0, .stepFault 0 0 0 0 (2 ^ 24),
    .verdictQuery (2 ^ 16) 0 0, .verdictQuery 0 (2 ^ 32) 0, .verdictQuery 0 0 (2 ^ 16),
    .suspectMark (2 ^ 16) 0 0 0 0 0, .suspectMark 0 (2 ^ 16) 0 0 0 0, .suspectMark 0 0 (2 ^ 32) 0 0 0, .suspectMark 0 0 0 (2 ^ 24) 0 0, .suspectMark 0 0 0 0 (2 ^ 16) 0, .suspectMark 0 0 0 0 0 (2 ^ 16),
    .ringBegin (2 ^ 16) 0 1 0 0 0 0 0 0, .ringBegin 0 (2 ^ 32) 1 0 0 0 0 0 0, .ringBegin 0 0 2 0 0 0 0 0 0, .ringBegin 0 0 1 (2 ^ 16) 0 0 0 0 0, .ringBegin 0 0 1 0 (2 ^ 32) 0 0 0 0, .ringBegin 0 0 1 0 0 (2 ^ 16) 0 0 0, .ringBegin 0 0 1 0 0 0 (2 ^ 8) 0 0, .ringBegin 0 0 1 0 0 0 0 (2 ^ 32) 0, .ringBegin 0 0 1 0 0 0 0 0 (2 ^ 64),
    .ringFail (2 ^ 16) 0 0 0, .ringFail 0 (2 ^ 16) 0 0, .ringFail 0 0 (2 ^ 8) 0, .ringFail 0 0 0 (2 ^ 32),
    .ringAbort (2 ^ 16) 0, .ringAbort 0 (2 ^ 16),
    .ringDone (2 ^ 16) 0 0, .ringDone 0 (2 ^ 32) 0, .ringDone 0 0 (2 ^ 16),
    .restoreBegin (2 ^ 16) 0 0 0 0 0, .restoreBegin 0 (2 ^ 32) 0 0 0 0, .restoreBegin 0 0 (2 ^ 16) 0 0 0, .restoreBegin 0 0 0 (2 ^ 8) 0 0, .restoreBegin 0 0 0 0 (2 ^ 32) 0, .restoreBegin 0 0 0 0 0 (2 ^ 64),
    .restoreReport (2 ^ 16) 0 [], .restoreReport 0 (2 ^ 8) [], .restoreReport 0 0 [2 ^ 32],
    .other (2 ^ 8) []] : List CtlMsg).all (fun i => !i.wf) = true := by decide +kernel

/-- A descriptor in progress. -/
def blockW (close : Nat) (blocks : Nat) : Tile :=
  { Tile.reset with c0 := ctxW, a := { Arr.reset with owner := some 0, run := some ⟨0, arrDesc close, blocks⟩ } }

theorem witness_ArrayBlock :
    let s := stateW { chanW .running [(R.TH_DUTY, 1)] with tiles := [(0, blockW 0 0)] }
    let d := (arrDesc 0).words
    ((s.chan 0).arr 0 .A).run = some ⟨0, arrDesc 0, 0⟩ ∧ (s.chan 0).clockRuns 0 = true ∧ (0 < dfield d 8 0 16 ∧ (s.chan 0).fld F.TH_DUTY_DUTY ≠ 0 ∧
      dfield d 0 22 1 = 0 ∧ dfield d 0 23 1 = 0) ∧ 0 + 1 = dfield d 8 0 16 ∧ dfield d 0 18 1 = 0 ∧
      ((s.chan 0).arr 0 .A).count + blockAdds 0x10 0x10 ≤ maxAdditions := by decide +kernel

/-- What a panel of zeros holds. -/
def zeroPort : PortBlock := ⟨List.replicate 32 (List.replicate 32 0), List.replicate 32 0⟩

/-- The same block with descriptor word 0 set, on a channel. -/
def blockC (tl : Tile) : Chan := (stateW { chanW .running [(R.TH_DUTY, 1)] with tiles := [(0, tl)] }).chan 0
theorem witness_ArrayOperands :
    ((blockC (blockW 0 0)).operand 0 false (.A, 0) (arrDesc 0).words 2 0x10 0 0 false false [] []).1 = .data zeroPort ∧
    ((blockC (blockW 0 0)).operand 0 false (.A, 0) (arrDesc 0).words 5 0x10 0 0 true false [] []).1 = .data zeroPort ∧
    ((blockC { blockW 0 0 with poison := [64] }).operand 0 false (.A, 0) (arrDesc 0).words 2 0x10 0 0 false false [] []).1 = .fault 0x0D ∧
    ((blockC (blockW 0 0)).operand 0 true (.A, 0) (arrDesc 0).words 2 0x10 0 0 false false [] []).1 = .wait := by decide +kernel
theorem test_addBlock_zero : addBlock [] 0x10 0x10 0 zeroPort zeroPort = some [] := by decide +kernel

theorem witness_AccumulatorReadout :
    let s := runW (blockW 1 1)
    let d := (arrDesc 1).words
    ((s.chan 0).arr 0 .A).run = some ⟨0, arrDesc 1, 1⟩ ∧ (s.chan 0).clockRuns 0 = true ∧ dfield d 8 0 16 ≤ 1 ∧ dfield d 0 18 1 = 1 := by decide +kernel

/-- A tile of grove 0, slot (0, 0) of region 0, whose context 0 has a movement descriptor at the head of its queue. -/
def moveTile (d : QDesc) (slot : Option SlotRef) : Tile := { Tile.reset with c0 := { ctxW with qM := [d] }, slot := slot }

/-- Channel 0 with that tile; grove 0's region 0 is one local slot at tile 0; its grant 0 is the writable lines 16 to 31. -/
def moveChan (d : QDesc) (slot : Option SlotRef) : Chan :=
  { chanW .running [(grantOff 0 0, 0x80000010), (grantOff 0 0 + 4, 0x8000001F), (R.CTL_GRV_REGION_W0, 1), (R.CTL_GRV_REGION_W1, 0x82000)] with
    tiles := [(0, moveTile d slot)], groves := [(0, { Grove.empty with st := .running })] }

theorem moves_of {c : Chan} {i x op : Nat} {d : QDesc} (h : c.mayStart i = true ∧ c.movesNext i x = true ∧
    headReady (c.ctx i x) ((c.ctx i x).queueOf 2) = some d ∧ dfield d.words 0 0 8 = op ∧
    moveCheck d.words x (c.arr i (accArr d.words)).owner = none) : Moves c i x op d := ⟨h.1, h.2.1, h.2.2.1, h.2.2.2.1, h.2.2.2.2⟩

theorem witness_MovementStaysOrFaults :
    (let c := moveChan (descW [10]) none
     c.mayStart 0 = true ∧ c.movesNext 0 0 = true ∧ headReady (c.ctx 0 0) ((c.ctx 0 0).queueOf 2) = some (descW [10]) ∧
       9 < dfield (descW [10]).words 0 0 8 ∧ moveCheck (descW [10]).words 0 (c.arr 0 .A).owner = some 1) ∧
    (State.reset.chan 0).mayStart 0 = false ∧ (moveOps t0 0 [] false).length = 8 := by decide +kernel

def copyDesc : QDesc := descW [2, 0x17FFC0, 0, 1]
theorem witness_Copy : Moves (moveChan copyDesc none) 0 0 2 copyDesc ∧ (moveTile copyDesc none).poison = [] := ⟨moves_of (by decide +kernel), rfl⟩

def sendDesc : QDesc := descW [3, 0, 0, 1, 0]
theorem witness_Send : Moves (moveChan sendDesc (some ⟨0, 0, 0, 0⟩)) 0 0 3 sendDesc ∧
    (let c := moveChan sendDesc (some ⟨0, 0, 0, 0⟩)
     let e := regionAt c.reg 0 0
     (c.tile 0).slot = some ⟨0, 0, 0, 0⟩ ∧ e.valid = true ∧ 0 < e.lw ∧ 0 < e.lh ∧ e.remote = false ∧ dfield sendDesc.words 4 0 8 < 64 ∧
       dfield sendDesc.words 4 8 8 = 0 ∧ dfield sendDesc.words 4 16 8 = 0) := ⟨moves_of (by decide +kernel), by decide +kernel⟩

/-- A remote region entry whose slot (0, 0) an exception entry maps. -/
def remoteChan : Chan := { moveChan sendDesc (some ⟨0, 0, 0, 0⟩) with
  bank := { Bank.empty with regs := [(R.CTL_GRV_REGION_W0, 3), (R.CTL_GRV_REGION_W1, 0x82000), (R.CTL_GRV_EXC_W0, 1), (R.CTL_GRV_EXC_W1, 5)] } }
theorem witness_SendRemote : (let c : Chan := { remoteChan with bank := { Bank.empty with regs := [(R.CTL_GRV_REGION_W0, 3), (R.CTL_GRV_REGION_W1, 0x82000)] } }
    Moves c 0 0 3 sendDesc ∧ (regionAt c.reg 0 0).remote = true ∧ exceptionsAt c.reg 0 = []) := ⟨moves_of (by decide +kernel), by decide +kernel⟩
theorem witness_SendByException : Moves remoteChan 0 0 3 sendDesc ∧ (regionAt remoteChan.reg 0 0).remote = true ∧
    (exceptionsAt remoteChan.reg 0).any (fun q => q.2.1 = 0 && q.2.2.1 = 0 && q.2.2.2.1 = 0) = true := ⟨moves_of (by decide +kernel), by decide +kernel⟩

def gtbDesc : QDesc := descW [4, 0, 0, 0, 0, 0, 2 + fmtBf16 * 8]
theorem witness_GtbLoad : Moves (moveChan gtbDesc none) 0 0 4 gtbDesc ∧ dfield gtbDesc.words 6 3 8 = fmtBf16 ∧ dfield gtbDesc.words 6 0 1 = 0 ∧
    (moveTile gtbDesc none).g0.readers = 0 := ⟨moves_of (by decide +kernel), by decide +kernel⟩
/-- A load of an MX tile: 16 lines at 0, scales at 0x400. -/
def mxDesc : QDesc := descW [4, 0, 0, 16, 0, 0, 2 + 0x10 * 8 + 0x400 * 2048]
theorem witness_GtbLoadMx :
    (Moves (moveChan mxDesc none) 0 0 4 mxDesc ∧ (cellRead [] (dfield mxDesc.words 6 11 21) 32).all (fun v => v = (cellRead [] (dfield mxDesc.words 6 11 21) 32).headD 0) = true) ∧
    (let sram := [(0x401, (1 : Byte))]
     let c : Chan := { moveChan mxDesc none with tiles := [(0, { moveTile mxDesc none with sram := sram })] }
     Moves c 0 0 4 mxDesc ∧ (cellRead sram (dfield mxDesc.words 6 11 21) 32).all (fun v => v = (cellRead sram (dfield mxDesc.words 6 11 21) 32).headD 0) = false) :=
  ⟨⟨moves_of (by decide +kernel), by decide +kernel⟩, moves_of (by decide +kernel), by decide +kernel⟩
theorem witness_GtbLoadWaits :
    let c : Chan := { moveChan gtbDesc none with tiles := [(0, { moveTile gtbDesc none with g0 := { GtbHalf.free with readers := 1 } })] }
    Moves c 0 0 4 gtbDesc ∧ ((c.tile 0).g0).readers ≠ 0 := ⟨moves_of (by decide +kernel), by decide +kernel⟩

def accDesc (op clr : Nat) : QDesc := descW [op + clr * 2 ^ 17]
/-- The same tile with array A owned by context 0. -/
def ownedChan (d : QDesc) : Chan := { moveChan d none with tiles := [(0, { moveTile d none with a := { Arr.reset with owner := some 0 } })] }
theorem witness_AccSave : (∀ k < 2, Moves (ownedChan (accDesc 5 k)) 0 0 5 (accDesc 5 k) ∧ dfield (accDesc 5 k).words 0 17 1 = k) ∧
    ((ownedChan (accDesc 5 0)).arr 0 .A).run = none := by
  refine ⟨fun k hk => ?_, rfl⟩
  match k, hk with
  | 0, _ => exact ⟨moves_of (by decide +kernel), by decide +kernel⟩
  | 1, _ => exact ⟨moves_of (by decide +kernel), by decide +kernel⟩
/-- An array with a descriptor in progress, and one that has added all it may. -/
def busyChan (op count : Nat) : Chan := { moveChan (accDesc op 0) none with
  tiles := [(0, { moveTile (accDesc op 0) none with a := { Arr.reset with owner := some 0, run := if count = 0 then some ⟨0, arrDesc 0, 0⟩ else none, count := count } })] }
theorem witness_AccMovesWaitOrOverflow :
    (Moves (busyChan 5 0) 0 0 5 (accDesc 5 0) ∧ Moves (busyChan 7 0) 0 0 7 (accDesc 7 0) ∧ ((busyChan 5 0).arr 0 .A).run ≠ none) ∧
    Moves (busyChan 7 maxAdditions) 0 0 7 (accDesc 7 0) ∧ maxAdditions < ((busyChan 7 maxAdditions).arr 0 .A).count + 1 :=
  ⟨⟨moves_of (by decide +kernel), moves_of (by decide +kernel), by decide +kernel⟩, moves_of (by decide +kernel), by decide +kernel⟩
theorem witness_AccLoad : Moves (moveChan (accDesc 6 0) none) 0 0 6 (accDesc 6 0) := moves_of (by decide +kernel)
def hbmDesc (op line n : Nat) : QDesc := descW [op, 0, 0, n, 0, line]
def here : Option SlotRef := some ⟨0, 0, 0, 0⟩
theorem witness_HbmReadOutside : Moves (moveChan (hbmDesc 8 31 2) here) 0 0 8 (hbmDesc 8 31 2) ∧ ∃ k < 2, (moveChan (hbmDesc 8 31 2) here).lineGranted 0 (31 + k) false = false :=
  ⟨moves_of (by decide +kernel), 1, by decide, by decide +kernel⟩
theorem witness_HbmWriteInside : Moves (moveChan (hbmDesc 9 16 1) here) 0 0 9 (hbmDesc 9 16 1) ∧ (moveChan (hbmDesc 9 16 1) here).lineGranted 0 16 true = true ∧
    (moveChan (hbmDesc 9 16 1) here).residencies ((moveChan (hbmDesc 9 16 1) here).grove 0) = [] :=
  ⟨moves_of (by decide +kernel), by decide +kernel, by decide +kernel⟩
theorem witness_HbmWriteOutside : Moves (moveChan (hbmDesc 9 15 1) here) 0 0 9 (hbmDesc 9 15 1) ∧ (moveChan (hbmDesc 9 15 1) here).lineGranted 0 15 true = false :=
  ⟨moves_of (by decide +kernel), by decide +kernel⟩

theorem witness_HbmMovesOnFreeTiles : Moves (moveChan (hbmDesc 8 31 1) none) 0 0 8 (hbmDesc 8 31 1) ∧ Moves (moveChan (hbmDesc 9 16 1) none) 0 0 9 (hbmDesc 9 16 1) :=
  ⟨moves_of (by decide +kernel), moves_of (by decide +kernel)⟩
theorem witness_HbmReadUncorrectable :
    (let c : Chan := { moveChan (hbmDesc 8 31 1) here with poison := [31] }
     Moves c 0 0 8 (hbmDesc 8 31 1) ∧ (c.lineGranted 0 31 false = true) ∧ ∃ c2, (c.taken 0 0 (hbmDesc 8 31 1)).readLines 31 [] 1 = (none, c2)) :=
  ⟨moves_of (by decide +kernel), by decide +kernel, pair_none (by decide +kernel)⟩

/-- A flit at (`x`, 0) for (`dx`, 0). -/
def flitW (x dx port : Nat) (e : FlitEnd) : Flit := ⟨x, 0, dx, 0, 0, port, 7, false, 0, e⟩
theorem witness_Flits :
    let c (f : Flit) : Chan := { moveChan copyDesc here with flits := [f] }
    let go := flitW 0 47 4 (.sram 0 0 none)
    let line := flitW 0 0 4 (.sram 0 0 (some (0, 15)))
    let out := flitW 0 0 4 (.egress 0 (Frame.blank 9 0 (.raw [])) true)
    let lost := flitW 0 0 4 (.sram 1 0 none)
    ((c go).flits[0]? = some go ∧ (c go).flits[1]? = none ∧ blockedFlit (c go).flits 0 go = false ∧ (c go).inBuffer go.hop < 8) ∧
    (8 ≤ ({ c go with flits := go :: List.replicate 8 go.hop } : Chan).inBuffer go.hop) ∧
    (blockedFlit (c line).flits 0 line = false ∧ ((c line).checkFlit 0 line 0).1.bad = false ∧ (c line).aclkOn 0 = true ∧ ((c line).tile 0).slot.map (·.grove) = some 0) ∧
    (blockedFlit (c out).flits 0 out = false ∧ ((c out).checkFlit 0 out 0).1.fin = out.fin) ∧
    (blockedFlit (c lost).flits 0 lost = false ∧ ((c lost).tile 0).slot.map (·.grove) ≠ some 1) ∧
    (State.reset.chan 0).aclkOn 0 = false := by decide +kernel

def frameW (typ job : Nat) (p : Payload) : Frame := { Frame.blank typ 0 p with job := job }
theorem witness_DuePostsAndTileData :
    let c : Chan := { moveChan copyDesc here with due := [⟨0, 0, 1⟩], groves := [(0, { Grove.empty with st := .running, job := 5 }), (1, { Grove.empty with st := .paused, job := 6 }), (2, { Grove.empty with st := .faulted, job := 7 })] }
    (c.aclkOn 0 = true ∧ c.due.contains ⟨0, 0, 1⟩ = true ∧ c.due.contains ⟨0, 0, 2⟩ = false) ∧ c.groveOfJob 9 = none ∧ (c.groveOfJob 6 = some 1 ∧ (c.grove 1).st = .paused) ∧
    (c.groveOfJob 7 = some 2 ∧ (c.grove 2).st = .faulted) ∧
    (c.groveOfJob 5 = some 0 ∧ (c.grove 0).st ≠ .paused ∧ (c.grove 0).st ≠ .faulted ∧ (c.grove 0).replay = false ∧
      bits (frameW 9 5 (.raw [])).tensor 0 8 = 0 ∧ (regionAt c.reg 0 0).valid = true ∧ (regionAt c.reg 0 0).remote = false ∧
      0 < (regionAt c.reg 0 0).lw ∧ 0 < (regionAt c.reg 0 0).lh ∧ (regionAt c.reg 0 1).valid = false) := by decide +kernel

theorem witness_Contexts :
    let c := moveChan copyDesc here
    (State.reset.chan 0).regsUp = false ∧ c.regsUp = true ∧ (c.fld (enFld 0 0) ≠ 1 ∧ c.fld (enFld 0 0) = 0 ∧ c.fld (F.TILE_FAULT_CODE.sh (tileSlot 0)) = 0 ∧ (c.tile 0).slot.isSome ∧ (c.tile 1).slot = none) ∧
      ((c.setFld (enFld 0 0) 1).fld (enFld 0 0) = 1 ∧ (c.setFld (enFld 0 0) 1).fld (F.TILE_FAULT_CODE.sh (tileSlot 0)) = 0 ∧ (c.ctx 0 0).st ≠ .faulted) := by decide +kernel

theorem witness_ScrubsAndGenerations :
    let c := (((((chanW .running []).setFld F.HBM_SCRUB_CFG_SRAM_EN 1).setFld F.HBM_SCRUB_CFG_HBM_EN 1).setFld F.HBM_STATUS_STACK_UP 7).setFld F.HBM_STATUS_CLEAR_BUSY 1)
    (c.aclkOn 0 = true ∧ c.fld F.HBM_SCRUB_CFG_SRAM_EN ≠ 0 ∧ (c.tile 0).poison = [] ∧ (c.tile 0).scrubQ = []) ∧
      (c.fld F.HBM_SCRUB_CFG_HBM_EN ≠ 0 ∧ bits (c.fld F.HBM_STATUS_STACK_UP) 2 1 = 1 ∧ c.scrubPos.length = 3 ∧ c.poison = [] ∧ c.scrubQ = []) ∧
      (c.st ≠ .off ∧ c.st ≠ .locked ∧ (c.setFld F.HBM_STATUS_OTHER_CLEAN 1).fld F.HBM_STATUS_OTHER_CLEAN = 1 ∧ (c.setFld F.HBM_STATUS_OTHER_CLEAN 0).fld F.HBM_STATUS_OTHER_CLEAN ≠ 1) ∧
      c.fld F.HBM_STATUS_CLEAR_BUSY ≠ 0 ∧ ({ c with clearing := 1 } : Chan).clearing ≠ c.fld F.HBM_STATUS_GEN ∧
      ((State.reset.chan 0).aclkOn 0 = false ∧ (c.setFld F.HBM_SCRUB_CFG_HBM_EN 0).fld F.HBM_SCRUB_CFG_HBM_EN = 0 ∧ (State.reset.chan 0).st = .off ∧
        (State.reset.chan 0).fld F.HBM_STATUS_CLEAR_BUSY = 0) := by decide +kernel

theorem foldr_some {α β : Type} (f : α → Option β → Option β) (b : β) (l : List α) (h : ∀ a ∈ l, f a (some b) = some b) : l.foldr f (some b) = some b := by
  induction l with
  | nil => rfl
  | cons a l ih => rw [List.foldr_cons, ih (fun x hx => h x (List.mem_cons_of_mem _ hx)), h a (List.mem_cons_self ..)]

theorem imageAt_zeros (n : Nat) (h : n < 1024) : imageAt (cellRead [] 0 40960) n = AccCell.zero := by
  have hb : cellRead [] 0 40960 = List.replicate 40960 0 := by
    have : (fun i => cellByte [] (0 + i)) = fun _ : Nat => (0 : Byte) := rfl
    rw [cellRead, this, List.map_const', List.length_range]
  have hs : slice (List.replicate 40960 (0 : Byte)) (40 * n) 40 = List.replicate 40 0 := by
    have h1 : min 40 (40960 - 40 * n) = 40 := by omega
    simp only [slice, List.drop_replicate, List.take_replicate, List.length_replicate, h1, Nat.sub_self]
    rfl
  rw [imageAt, hb, hs]
  decide +kernel

theorem witness_AccMerge : Moves (ownedChan (accDesc 7 0)) 0 0 7 (accDesc 7 0) ∧ ((ownedChan (accDesc 7 0)).arr 0 .A).count + 1 ≤ maxAdditions ∧
    ∃ m, accMerge [] (cellRead [] 0 40960) = some m := by
  refine ⟨moves_of (by decide +kernel), by decide +kernel, [], ?_⟩
  rw [accMerge]
  refine foldr_some _ _ _ (fun n hn => ?_)
  rw [imageAt_zeros n (List.mem_range.mp hn)]
  have h : (mapGet (fun _ => AccCell.zero) [] n).add AccCell.zero.L.toInt AccCell.zero.wrap AccCell.zero.flags = some AccCell.zero := by
    show AccCell.zero.add _ _ _ = _
    decide +kernel
  rw [h]
  show some (if AccCell.zero = AccCell.zero then [] else _) = some []
  rw [if_pos rfl]

theorem witness_HbmReadInside : Moves (moveChan (hbmDesc 8 31 1) here) 0 0 8 (hbmDesc 8 31 1) ∧ moveLines (hbmDesc 8 31 1).words = 1 ∧
    (moveChan (hbmDesc 8 31 1) here).lineGranted 0 31 false = true ∧
    ∃ b c2, ((moveChan (hbmDesc 8 31 1) here).taken 0 0 (hbmDesc 8 31 1)).readLines 31 [] 1 = (some b, c2) := by
  refine ⟨moves_of (by decide +kernel), by decide +kernel, by decide +kernel, ?_⟩
  generalize hc : (moveChan (hbmDesc 8 31 1) here).taken 0 0 (hbmDesc 8 31 1) = c
  have hp : c.poison = [] := by rw [← hc]; rfl
  refine ⟨[] ++ c.hbmLine (31 + 0), c, ?_⟩
  simp only [Chan.readLines, Chan.readLine, hp, List.contains_nil, Bool.false_eq_true, if_false, mapGet, decodeLine_zero]

/-! ## Weight streaming and gradients -/

/-- A running training grove of job 5. -/
def groveW : Grove := { Grove.empty with st := .running, kind := 1, job := 5 }

/-- Channel 0 with grove 0 so, and an HBM image. -/
def chanG (v : Grove) (regs : NMap Word) (hbm : List Host.Cell) : Chan := { chanW .running regs with groves := [(0, v)], hbm := hbm }

/-- One residency entry at HBM byte 0: ordinal 0, chunks 3 to 4, read by node 9. -/
def resImage : List Host.Cell := cellWrite [] 0 (leBytes 4 0 ++ leBytes 4 3 ++ leBytes 4 2 ++ leBytes 2 9)
/-- Channel 0 with grove 0 and that schedule. -/
def chanS (v : Grove) : Chan := chanG { v with sections := [⟨5, 32, 0⟩] } [] resImage

/-- A frame of chunk 3 of job 5; `last` is the final frame. -/
def chunkFrame (last : Bool) : Frame := { frameW 1 5 (.raw []) with shard := 3, flags := if last then 0x24 else 0 }

/-- The same grove with its first weight slot in force. -/
def streamW : Grove := { groveW with ws := { GroveWs.reset with active := some 0 } }
/-- The same with chunk 3 complete, and one whose slot reloads it. -/
def doneW : Grove := { groveW with ws := { GroveWs.reset with active := some 0, chunks := [⟨3, 0, 0, [], none, 0, true, true⟩] } }
def slotW : Grove := { groveW with ws := { GroveWs.reset with active := some 0, slotReload := [⟨3, 0, [], [], none, 0⟩] } }
theorem witness_WeightFrames :
    (let c := chanS streamW
     c.weightTakers (chunkFrame true) = [0] ∧ c.carriers 5 = [] ∧ (c.grove 0).slotReloadOf 3 = none ∧ (c.grove 0).st ≠ .paused ∧ (c.grove 0).replay = false ∧
       c.destsRun 0 (c.resFor 0 3) (chunkFrame true) = true ∧ (c.grove 0).hasChunk (chunkFrame true) = false ∧ (chunkFrame true).flags.getLsbD 2 = true ∧
       (chunkFrame false).typ = 1 ∧ (chunkFrame false).flags.getLsbD 2 = false) ∧
    ((chanS doneW).weightTakers (chunkFrame false) = [0] ∧ ((chanS doneW).grove 0).hasChunk (chunkFrame false) = true) ∧
    ((chanS slotW).weightTakers (chunkFrame false) = [0] ∧ ((chanS slotW).grove 0).slotReloadOf 3 = some ⟨3, 0, [], [], none, 0⟩) ∧
    ((chanS { streamW with st := .paused }).weightTakers (chunkFrame false) = [0]) ∧
    ((Chan.reset 0).weightTakers (chunkFrame true) ++ (Chan.reset 0).carriers 5 = []) := by decide +kernel

/-- The chunk held at its entry port. -/
def heldProg (n : Nat) : ChunkProg := ⟨3, 0, 0, [], some (chunkFrame true), n, false, false⟩
def heldGrove (d : Bytes) (n : Nat) : Grove :=
  { groveW with ws := { GroveWs.reset with chunks := [heldProg n], slot0 := { WSlot.empty with digests := [⟨3, 0, d⟩] } } }

theorem witness_ChunkDigest :
    (let c := chanS (heldGrove (digest []) 0)
     (c.streamGroves 5 ++ c.carriers 5).filter (fun g => ((c.grove g).heldProg 3).isSome) = [0] ∧ (c.grove 0).heldProg 3 = some (heldProg 0) ∧
       c.chunkDigest 0 (chunkFrame true) = some (digest []) ∧ (chunkFrame true).flags.getLsbD 5 = true ∧ (chunkFrame true).mb = 0 ∧
       c.destsRun 0 0 (chunkFrame true) = true ∧ (c.grove 0).slotReloadOf 3 = none) ∧
    (∀ n < 2, let c := chanS (heldGrove [] n)
     c.chunkDigest 0 (chunkFrame true) ≠ some (digest []) ∧ (c.grove 0).slotReloadOf 3 = none) ∧
    (let v : Grove := { groveW with ws := { GroveWs.reset with slotReload := [⟨3, 0, [], [], some (chunkFrame true), 0⟩] } }
     (chanS v).streamGroves 5 = [0] ∧ v.slotReloadOf 3 = some ⟨3, 0, [], [], some (chunkFrame true), 0⟩) := by decide +kernel

theorem witness_ChunkNotices :
    let q : ChunkReq := ⟨3, 0, [], 1, 0⟩
    let c := chanG { groveW with ws := { GroveWs.reset with chunks := [⟨3, 0, 0, [], none, 0, true, false⟩], reqs := [q] } } [] []
    (c.grove 0).ws.chunks.find? (fun p => p.chunk = 3 && p.written && !p.complete) = some ⟨3, 0, 0, [], none, 0, true, false⟩ ∧
      ((c.takeFrame (fun f => f.src = 9 && f.payload = .ctl (.bufFree 5 0))).groveOfJob 5 = some 0 ∧
        ((c.takeFrame (fun f => f.src = 9 && f.payload = .ctl (.bufFree 5 0))).grove 0).ws.freed.contains (9, 0) = false) ∧
      (let took := c.takeCtl (.chunkDone 5 3 0)
       took.groveOfJob 5 = some 0 ∧ (took.grove 0).ws.reqs.find? (fun x => x.chunk = 3) = some q ∧ q.modules.contains 0 = false ∧
         (took.grove 0).update.chunks.find? (fun k => k.chunk = 3) = none) ∧
      (let c2 := chanG { groveW with update := { GroveUpdate.reset with chunks := [⟨3, [], 0, []⟩] } } [] []
       (c2.grove 0).update.chunks.find? (fun k => k.chunk = 3) = some ⟨3, [], 0, []⟩ ∧ (c2.grove 0).ws.reqs = [] ∧ c2.confirmers 0 3 = none) ∧
      ((c.takeCtl (.chunkBad 5 3 1 9)).groveOfJob 5 = some 0 ∧ (c.grove 0).ws.reqs.any (fun q => q.chunk = 3 && decide (0 < q.tries)) = true ∧
        (c.grove 0).ws.failed.isNone = true ∧ (c.takeCtl (.chunkBad 6 3 1 9)).groveOfJob 6 = none) := by decide +kernel

theorem witness_ChunkTimeouts :
    (let c := chanG { groveW with sections := [⟨5, 32, 0⟩], ws := { GroveWs.reset with active := some 0, reqs := [⟨3, 0, [], 0, 0⟩, ⟨4, 0, [], 1, 0⟩] } } [] resImage
     let v := c.grove 0
     (v.ws.reqs.find? (fun x => x.chunk = 3) = some ⟨3, 0, [], 0, 0⟩ ∧ v.ws.active = some 0 ∧
       (c.residencies v).find? (fun x => x.ord = 0) = some ⟨0, 3, 2, 9, 0, 0, 0, 0, 0⟩) ∧
     v.ws.reqs.find? (fun x => x.chunk = 4) = some ⟨4, 0, [], 1, 0⟩ ∧
     (let took := c.takeCtl (.wsetFail 5 4 1 2)
      took.streamGroves 5 = [0] ∧ took.readerOf 0 4 ≠ some took.node)) ∧
    ((chanG groveW [] []).grove 0).ws.reqs = [] := by decide +kernel

theorem witness_DigestsAndSwitches :
    (let c := chanG groveW [] []
     let took := c.takeCtl (.digestUpdate 5 1 3 (zeros 32))
     took.groveOfJob 5 = some 0 ∧ (took.grove 0).st ≠ .faulted ∧ ((took.grove 0).wslot (took.grove 0).slotNow).digests.contains ⟨3, 1, zeros 32⟩ = false ∧
       (took.residencies (took.grove 0)).find? (fun r => r.covers 3) = none) ∧
    (((chanG { groveW with st := .faulted } [] []).grove 0).st = .faulted ∧ (chanG { groveW with st := .faulted } [] []).groveOfJob 5 = some 0) ∧
    (let v : Grove := { groveW with kind := 0, ws := { GroveWs.reset with switch := some ⟨1, 7, 0⟩ } }
     ¬ (v.ws.switch.map (·.at_) = some v.step) ∧ v.replay = false ∧ (chanG v [] []).isSub 0 = false) ∧
    (let c := chanG { groveW with ws := { GroveWs.reset with slot1 := { WSlot.empty with st := .staged } } } [] []
     let took := c.takeCtl (.switchAt 5 1 7)
     took.groveOfJob 5 = some 0 ∧ ((took.grove 0).wslot 1).st = .staged ∧ (took.grove 0).ws.switch = none) ∧
    (let c := chanG { groveW with ws := { GroveWs.reset with switch := some ⟨1, 0, 0⟩ } } [] []
     (c.grove 0).ws.switch = some ⟨1, 0, 0⟩ ∧ (c.grove 0).st = .running ∧ (c.grove 0).kind = 1 ∧ (c.grove 0).step = 0 ∧ (c.grove 0).between = true) ∧
    (let c := (chanG { groveW with ws := { GroveWs.reset with attached := false } } [] []).setFld (F.SP_WS_GRV_CFG_BASE_SUB.sh (wsOff 0)) 1
     c.isSub 0 = true ∧ (c.grove 0).st = .running ∧ (c.grove 0).ws.attached = false) := by decide +kernel

/-- A manifest of one chunk of no bytes. -/
def manifest1 (d : Bytes) : Bytes := zeros 12 ++ leBytes 4 1 ++ zeros 48 ++ slice d 0 32 ++ zeros 16

theorem witness_HbmTierReload :
    (∀ n < 2, let v : Grove := { groveW with ws := { GroveWs.reset with reload := [(0, n)], slot0 := { WSlot.empty with manifest := manifest1 (digest []) } } }
     v.ws.reload.find? (fun p => p.1 = 0) = some (0, n) ∧ (v.wslot v.slotNow).chunk 0 = some ⟨digest [], 0, 0, 0⟩) ∧
    (chanG groveW [] []).tensorOf 0 0 = none ∧ groveW.ws.reload = [] := by decide +kernel

theorem witness_StashAndStaging :
    (let c := ((chanG groveW [] (cellWrite [] 4 [1])).setFld (F.HBM_STASH_GRV_CFG_STASH_SEM.sh (stashOff 0)) 1)
     (c.stashCanAdmit 0 = true ∧ c.occ 0 = 0) ∧ (c.setFld (F.HBM_STASH_GRV_MARK_MARK.sh (stashOff 0)) 1).fld (F.HBM_STASH_GRV_MARK_MARK.sh (stashOff 0)) = 1 ∧
       (c.setFld (F.HBM_STASH_GRV_MARK_MARK.sh (stashOff 0)) 1).stashCanAdmit 0 = true ∧
       (c.setFld (F.HBM_STASH_GRV_MARK_MARK.sh (stashOff 0)) 0).fld (F.HBM_STASH_GRV_MARK_MARK.sh (stashOff 0)) ≤ c.occ 0 ∧ (c.grove 0).stash.draining = false) ∧ ((Chan.reset 0).stashCanAdmit 0 = false ∧ ((Chan.reset 0).grove 0).egress.waiting = []) ∧
    ({ GroveEgress.reset with waiting := [0] }.waiting ≠ []) := by decide +kernel

/-- A table of one shard, number 2, of one block of tree 1, and one egress entry, both halves in one record. -/
def shardImage : List Host.Cell :=
  cellWrite [] 1024 (leBytes 4 1 ++ leBytes 4 1 ++ zeros 56 ++ leBytes 4 2 ++ zeros 8 ++ leBytes 2 1 ++ leBytes 2 1 ++ leBytes 2 0 ++ leBytes 2 1 ++ leBytes 2 1 ++ zeros 10 ++
    leBytes 8 (2 + 2 ^ 40))
def redChan (v : Grove) (tree : Bytes) : Chan := (chanG v [] (cellWrite shardImage 64 tree)).setFld (F.RED_GRV_TABLE_TABLE_LINE.sh (redOff 0)) 16
def shard2 : Shard := ⟨2, 0, 0, 1, 1, 0, 1, 1, 0, 0, 0, true⟩

theorem witness_Egress :
    let c := redChan { groveW with egress := { GroveEgress.reset with staged := [⟨0, false, []⟩] } } []
    (c.grove 0).st = .running ∧ (c.grove 0).kind = 1 ∧ c.unsent 0 = [(2, 0)] ∧ c.shard 0 2 = some shard2 ∧ c.nextRun 0 shard2 = [0] ∧
      c.ownFull 0 shard2 = false ∧ (c.grove 0).st.active = true ∧ ((Chan.reset 0).grove 0).st.active = false := by decide +kernel

/-- A gradient frame of shard 2 of job 5. -/
def gradFrame (job shard : Nat) : Frame := { frameW 4 job (.raw []) with shard := shard }
/-- A valid tree entry that combines one source, node 9 on interface 0; `root` 1 makes it a root. -/
def treeBytes (root : Nat) : Bytes := [BitVec.ofNat 8 (1 + 2 * root + 4), 1, 7, 0, 1, 0, 0, 0] ++ leBytes 4 (9 + 0 * 65536)

theorem witness_GradientFrames :
    let c := redChan groveW (treeBytes 0)
    c.groveOfJob 6 = none ∧ (c.groveOfJob 5 = some 0 ∧ (c.grove 0).st = .running ∧ c.shard 0 3 = none) ∧
      (c.shard 0 2 = some shard2 ∧ (c.treeEntry (shard2.treeOf ((gradFrame 5 2).flags.getLsbD 4))).valid = true ∧ (c.treeEntry 1).combine = true ∧ (c.treeEntry 1).root = false) ∧
      ((c.treeEntry 2).valid = false ∧ (gradFrame 5 2).typ = 4 ∧ ((redChan groveW (treeBytes 1)).treeEntry 1).root = true ∧ shard2.owner ≠ 8 ∧
        (chanG { groveW with st := .loaded } [] []).groveOfJob 5 = some 0 ∧ GroveState.loaded.active = false) ∧
      ((redChan { groveW with st := .paused } []).groveOfJob 5 = some 0 ∧ ((redChan { groveW with st := .paused } []).grove 0).st = .paused) := by decide +kernel

theorem witness_CombineAndTimeout :
    let c := redChan groveW (treeBytes 0)
    let x := c.comb 0 shard2 false
    c.shard 0 2 = some shard2 ∧ (c.grove 0).st = .running ∧ (c.treeEntry (shard2.treeOf false)).valid = true ∧ (c.treeEntry (shard2.treeOf false)).combine = true ∧
      (x.awaited (c.fld (F.RED_GRV_CFG_POLICY.sh (redOff 0)) = 1)).find? (fun k => ((x.inputs[k]?).map (fun i => decide (i.src = 9))).getD false) = some 0 ∧
      c.shard 0 3 = none ∧ (x.awaited (c.fld (F.RED_GRV_CFG_POLICY.sh (redOff 0)) = 1)).find? (fun k => ((x.inputs[k]?).map (fun i => decide (i.src = 8))).getD false) = none ∧
      ((redChan groveW (treeBytes 1)).treeEntry 1).root = true ∧ ({ GroveUpdate.reset with step := some 0 } : GroveUpdate).before 2 = true := by decide +kernel

/-- An open input and its complete backup. -/
def slotPair : List RedIn := [⟨9, 0, none, false, 0, false, [], 0, false, false⟩, ⟨10, 1, some 0, false, 0, false, [], 0, false, true⟩]
theorem witness_GraceExpiry :
    let c : Chan := { redChan groveW (treeBytes 1) with combs := [⟨0, 2, false, 5, 0, 0, slotPair, [], 0, 0, none⟩] }
    let y := c.comb 0 shard2 false
    c.shard 0 2 = some shard2 ∧ y.slots.find? (fun k => match y.inputs[k]?, y.backup k with
      | some p, some (_, b) => p.choice = 0 && b.usable && b.last && (p.src = 9 || b.src = 9)
      | _, _ => false) = some 0 ∧ y.inputs[0]? = some ⟨9, 0, none, false, 0, false, [], 0, false, false⟩ := by decide +kernel

/-! ## Verdicts, updates and links -/

theorem witness_ReportsAndTimeouts :
    (let c := (redChan { groveW with coord := 0xFFFE, verdict := { GroveVerdict.reset with open_ := [⟨0, 0, [], []⟩] } } []).setFld (F.RED_GRV_CFG_COORD.sh (redOff 0)) 1
     c.coordOf 5 = some 0 ∧ (c.grove 0).st = .running ∧
       (c.takeFrame (fun f => f.src = 9 && f.payload = .ctl (.stepFault 0 5 0 16 7))).shard 0 7 = none ∧
       (c.grove 0).verdict.open_.find? (fun d => d.step = 0 && d.attempt = 0) = some ⟨0, 0, [], []⟩ ∧ (c.grove 0).coord = c.node) ∧
    (let c := (redChan { groveW with st := .paused, coord := 0xFFFE } []).setFld (F.RED_GRV_CFG_COORD.sh (redOff 0)) 1
     c.coordOf 5 = some 0 ∧ (c.grove 0).st = .paused) := by decide +kernel

theorem witness_VerdictReason :
    (let d : Decision := ⟨0, 0, [⟨9, 0, [], [0], some 0⟩], []⟩
     ([9] : List Nat).all (fun o => (d.report o).isSome) = true ∧ (d.report 9).map (·.bits) = some 0 ∧ d.report 10 = none) ∧
    ((⟨0, 0, [], [(9, 16)]⟩ : Decision).faults ≠ []) ∧ bits 16 4 1 = 1 ∧ bits 16 9 1 = 0 := by decide +kernel

theorem witness_Verdicts :
    (let r : VerdictRec := ⟨3, 0, 1, 0, []⟩
     let c := (redChan { groveW with coord := 0xFFFE, verdict := { GroveVerdict.reset with log := [r] } } []).setFld (F.RED_GRV_CFG_COORD.sh (redOff 0)) 1
     c.groveOfJob 5 = some 0 ∧ (c.grove 0).st = .running ∧ (c.grove 0).kind = 1 ∧ (c.grove 0).step = 0 ∧ (c.grove 0).verdict.attempt = 0 ∧
       c.coordOf 5 = some 0 ∧ (c.grove 0).verdict.log.find? (fun r => r.step = 3 && r.attempt = 0) = some r) ∧
    (let c := redChan { groveW with st := .paused } []
     c.groveOfJob 5 = some 0 ∧ (c.grove 0).st = .paused) := by decide +kernel

theorem witness_VerdictWaits :
    (∀ n ∈ ([0, 4] : List Nat), let c := (redChan { groveW with verdict := { GroveVerdict.reset with queries := n } } []).setFld (F.RED_GRV_VCODE_WAITING.sh (redOff 0)) 1
     (c.grove 0).st = .running ∧ c.fld (F.RED_GRV_VCODE_WAITING.sh (redOff 0)) ≠ 0 ∧ (c.grove 0).verdict.queries = n) ∧
    (let took := (redChan groveW (treeBytes 0)).takeCtl (.suspectMark 0 5 0 2 1 2)
     let us := [1, 2].flatMap (fun t => let e := took.treeEntry t; if e.valid then e.units else [])
     us ≠ [] ∧ ∀ u ∈ us, u < 6) := by decide +kernel

theorem witness_Updates :
    (let v : Grove := { groveW with update := { GroveUpdate.reset with queued := [4, 5] } }
     v.update.step = none ∧ v.update.queued = 4 :: [5] ∧ v.st = .running ∧ v.replay = false ∧ v.holding = false) ∧
    (let k : WbChunk := ⟨0, [], 1, []⟩
     let c := redChan { groveW with update := { GroveUpdate.reset with step := some 4, chunks := [k] }, ws := { GroveWs.reset with slot0 := { WSlot.empty with manifest := manifest1 [] } } } []
     let took := c.takeCtl (.chunkStored 5 0 5 1)
     (took.groveOfJob 5 = some 0 ∧ (took.grove 0).update.chunks.find? (fun k => k.chunk = 0) = some k ∧ (took.grove 0).update.step.map (· + 1) = some 5 ∧
       (took.grove 0).st ≠ .faulted ∧ took.readerOf 0 0 = none) ∧
     ((c.grove 0).update.step = some 4 ∧ ((c.grove 0).wslot (c.grove 0).slotNow).chunk 0 = some ⟨zeros 32, 0, 0, 0⟩ ∧
       ((c.tensorOf 0 0).map (·.tier)).getD 1 ≠ 0 ∧ k.tries ≠ 0)) := by decide +kernel

/-- Channel 0 with one interface's state. -/
def chanL (i : Nat) (l : Link) : Chan := { chanW .running [] with links := [(i, l)] }
def upLink : Link := { Link.reset with st := .up, phys := true, heard := true }

theorem witness_FramesReceived :
    let f := frameW 1 5 (.raw [])
    ((chanL 1 upLink).link 1).phys = true ∧ ((chanL 1 upLink).link 1).st = .up ∧ frameCrc f + 1 ≠ frameCrc f ∧
      f.lseq = ((chanL 1 upLink).link 1).rxNext ∧
      (({ f with lseq := 65535 }.lseq + 65536 - upLink.rxNext) % 65536 ≠ 0) ∧
      (({ f with lseq := 15 }.lseq + 65536 - upLink.rxNext) % 65536 ≠ 0 ∧ ({ f with lseq := 15 }.lseq + 65536 - upLink.rxNext) % 65536 < 16 ∧
        ((chanL 2 upLink).link 2).window.any (fun x => x.lseq = 15) = false) := by decide +kernel

theorem witness_FramesSent :
    let f := frameW 8 0 (.credit ⟨0, false, [0, 0, 0, 0]⟩)
    let e : EgressItem := ⟨5, 0, frameW 4 5 (.raw [])⟩
    { upLink with control := [f] }.control = f :: [] ∧ f.typ = 0x08 ∧ (upLink.control = [] ∧ { upLink with resend := [f] }.resend = f :: []) ∧
      ({ upLink with egress := [e], partner := some ⟨9, 0, 0, 0, 1, 0, 0, [64, 64, 64, 64], [0, 0, 0, 0]⟩ } : Link).pick 0 = some e ∧
      { upLink with timer := true }.timer = true := by decide +kernel

theorem witness_Training :
    (let l : Link := { Link.reset with st := .training }
     l.st = .training ∧ l.phys = false) ∧
    (let l : Link := { Link.reset with phys := true }
     l.phys = true ∧ l.heard = false) ∧
    (∀ n ∈ ([1, 2] : List Nat), let l : Link := { Link.reset with st := .retrain, fails := n }
     l.st = .retrain ∧ l.phys = false ∧ (l.fails + 1 < 3 ↔ n = 1)) := by decide +kernel

theorem witness_LinkLoss :
    upLink.st = .up ∧ ((chanL 4 upLink).link ((2 : Fin 3).val + 2)).st = .up ∧ { upLink with st := .hold }.st = .hold ∧
      (({ upLink with cells := [⟨7, 1, 1, frameW 1 5 (.raw []), [5]⟩] } : Link).cells.find? (fun x => x.id = 7)).isSome ∧ upLink.st ≠ .disabled ∧ upLink.st ≠ .down := by
  decide +kernel

/-- An interface with a link-local message in its receive area. -/
def localLink (m : CtlMsg) (l : Link) : Link := { l with cells := [⟨0, 0, 1, { Frame.blank 7 0 (.ctl m) with vl := 0 }, [5]⟩] }
theorem witness_Audits :
    (let l : Link := { upLink with creditedSent := 2 ^ 20 }
     l.st = .up ∧ 2 ^ 20 ≤ l.creditedSent ∧ l.audit = none ∧ l.recon = 0) ∧
    ((chanL 0 (localLink (.audit [0, 0, 0, 0]) upLink)).takeLocal 0 (.audit [0, 0, 0, 0])).isSome = true ∧
    (((chanL 0 (localLink (.auditReply false [1] [0, 0, 0, 0] []) { upLink with audit := some [1] })).takeLocal 0 (.auditReply false [1] [0, 0, 0, 0] [])).map
      (fun c1 => (c1.link 0).audit)) = some (some [1]) ∧
    (((chanL 0 (localLink .reconcile upLink)).takeLocal 0 .reconcile).map (fun c1 => (c1.link 0).audit)) = some none ∧
    { upLink with recon := 2 }.recon = 2 := by decide +kernel

theorem witness_RouteSwap : (chanW .ready []).regsUp = true ∧ ((chanW .ready []).setFld F.SP_RT_CTL_BUSY 1).fld F.SP_RT_CTL_BUSY ≠ 0 := by decide +kernel

theorem witness_ReportsElsewhere :
    (let c := (redChan { groveW with coord := 0xFFFE } []).setFld (F.RED_GRV_CFG_COORD.sh (redOff 0)) 1
     (c.takeFrame (fun f => f.src = 9 && f.payload = .ctl (.stepFault 0 5 0 Status.consistencyFail.code 2))).shard 0 2 = some shard2 ∧
       (c.grove 0).verdict.open_.find? (fun d => d.step = 0 && d.attempt = 0) = none ∧ (c.grove 0).st.coordinates = true) ∧
    (let c := (redChan { groveW with st := .faulted, coord := 0xFFFE } []).setFld (F.RED_GRV_CFG_COORD.sh (redOff 0)) 1
     c.coordOf 5 = some 0 ∧ (c.grove 0).st ≠ .paused ∧ (c.grove 0).st.coordinates = false ∧ c.coordOf 6 = none) ∧
    (groveW.decided 0 0 = false ∧ ({ groveW with step := 4 }).decided 3 0 = true) := by decide +kernel

theorem witness_VerdictsElsewhere :
    let c := redChan groveW []
    c.groveOfJob 6 = none ∧ c.coordOf 5 = none ∧ (c.grove 0).st.active = true ∧ (c.grove 0).step ≠ 1 ∧
      (let d := (redChan { groveW with coord := 0xFFFE } []).setFld (F.RED_GRV_CFG_COORD.sh (redOff 0)) 1
       d.coordOf 5 = some 0 ∧ (d.grove 0).verdict.log.find? (fun r => r.step = 3 && r.attempt = 0) = none) ∧
      (c.waitsVerdict 0 = false ∧ ((c.setFld (F.RED_GRV_VCODE_WAITING.sh (redOff 0)) 1).waitsVerdict 0 = true)) := by decide +kernel

/-- A write-back of chunk 0, first sent, whose residency node 9 reads. -/
def storeW (fails : Nat) : Grove := { groveW with
  sections := [⟨5, 32, 0⟩], update := { GroveUpdate.reset with step := some 4, chunks := [⟨3, [], fails, []⟩] } }
theorem witness_UpdatesElsewhere :
    (((redChan groveW []).grove 0).update.queued = [] ∧ ((redChan groveW []).takeCtl (.chunkStored 6 0 5 1)).groveOfJob 6 = none ∧
      ((redChan groveW []).grove 0).update.chunks = []) ∧
    (let took := (chanG (storeW 0) [] resImage).takeCtl (.chunkStored 5 3 5 1)
     took.groveOfJob 5 = some 0 ∧ (took.grove 0).update.chunks.find? (fun k => k.chunk = 3) = some ⟨3, [], 0, []⟩ ∧ took.readerOf 0 3 = some 9) := by decide +kernel

/-- A frame in sequence and what the receiver computes over it. -/
def seqFrame (n : Nat) : Frame := { frameW 1 5 (.raw []) with lseq := n }
theorem witness_FramesDropped :
    (wireFails .clean 0 1 (seqFrame 0) = false ∧ wireFails ⟨[], [], [(0, 3)]⟩ 0 1 (seqFrame 0) = true ∧ (seqFrame 0).unsequenced = false) ∧
    (({ Frame.blank 0x08 0 (.raw []) with hver := 2 } : Frame).unsequenced && badFrame { Frame.blank 0x08 0 (.raw []) with hver := 2 }) = true ∧
    Link.reset.phys = false ∧ ({ Link.reset with phys := true } : Link).st ≠ .up ∧
    (({ upLink with window := [seqFrame 15] } : Link).window.any (fun x => x.lseq = (seqFrame 15).lseq) = true) ∧
    (((seqFrame 16).lseq + 65536 - upLink.rxNext) % 65536 = 16 ∧ ((seqFrame 32768).lseq + 65536 - upLink.rxNext) % 65536 = 32768) := by decide +kernel

theorem witness_FramesSentElsewhere :
    let m : Frame := Frame.blank 7 0 (.ctl (.audit [0, 0, 0, 0]))
    let sent (n : Nat) : SentFrame := ⟨seqFrame 0, some 1, 1, n⟩
    Link.reset.st ≠ .up ∧ (({ upLink with control := [m] } : Link).control.find? (fun f => f.typ = 0x08) = none) ∧
      ({ upLink with control := [m] } : Link).control.find? (fun f => f.typ ≠ 0x08 && ({ upLink with control := [m] } : Link).room 0 f) = some m ∧
      upLink.pick 0 = none ∧ upLink.timer = false ∧ upLink.replay = [] ∧
      (∃ x ∈ [sent 4], 4 ≤ x.tries) ∧ ∀ x ∈ [sent 3], x.tries < 4 := by decide +kernel

/-- A partner on a stream port. -/
def partnerW (node : Nat) : Hello := ⟨node, 0, 0, 0, 1, 0, 0, [64, 64, 64, 64], [0, 0, 0, 0]⟩
theorem witness_TrainingElsewhere :
    (stateW (chanW .running [])).seamEnabled 0 0 = true ∧ (stateW (chanW .running [])).seamEnabled 0 4 = false ∧ seamPeer 0 4 ≠ none ∧
      Link.reset.st ≠ .training ∧ upLink.heard = true := by decide +kernel

theorem witness_Hellos :
    (chanL 1 { upLink with partner := some (partnerW 9) }).idx = 0 ∧ helloFits 0 1 (partnerW 9) = true ∧ helloFits 0 4 (partnerW 9) = false ∧
      (((some (partnerW 9)).map (fun p => (p.node, p.serial, p.ifx))) = some ((partnerW 9).node, (partnerW 9).serial, (partnerW 9).ifx)) ∧
      (((some (partnerW 9)).map (fun p => (p.node, p.serial, p.ifx))) ≠ some ((partnerW 8).node, (partnerW 8).serial, (partnerW 8).ifx)) ∧
      (partnerW 9).rxNext = upLink.txNext ∧ ({ upLink with st := .training } : Link).st = .training ∧ ({ upLink with st := .hold } : Link).st ≠ .up := by decide +kernel

theorem witness_LinkErrorsElsewhere : Link.reset.st ≠ .up ∧ Link.reset.st ≠ .hold ∧ Link.reset.st = .disabled ∧ Link.reset.cells.find? (fun x => x.id = 7) = none := by decide

theorem witness_AuditsElsewhere :
    ((chanL 0 upLink).takeLocal 0 (.audit [0, 0, 0, 0])).isSome = false ∧ ((chanL 0 upLink).takeLocal 0 .reconcile).isSome = false ∧
    (((chanL 0 (localLink (.audit [1, 0, 0, 0]) upLink)).takeLocal 0 (.audit [1, 0, 0, 0])).map (fun c1 => (c1.link 0).auditAt)) = some [0, 0, 0, 0] ∧
    (((chanL 0 (localLink (.auditReply true [1] [0] [65]) { upLink with recon := 2, partner := some (partnerW 9) })).takeLocal 0 (.auditReply true [1] [0] [65])).map
      (fun c1 => ((c1.link 0).recon, decide (∃ q ∈ ([65] : List Nat).zipIdx, ((c1.link 0).partner.map (fun h => h.allot.getD q.2 0)).getD 0 < q.1)))) = some (2, true) ∧
    (((chanL 0 (localLink (.auditReply true [1] [0] [64]) { upLink with recon := 2, partner := some (partnerW 9) })).takeLocal 0 (.auditReply true [1] [0] [64])).map
      (fun c1 => ((c1.link 0).recon, decide (∃ q ∈ ([64] : List Nat).zipIdx, ((c1.link 0).partner.map (fun h => h.allot.getD q.2 0)).getD 0 < q.1)))) = some (2, false) ∧
    (((chanL 0 (localLink (.auditReply false [1] [0] []) upLink)).takeLocal 0 (.auditReply false [1] [0] [])).map (fun c1 => (c1.link 0).audit)) = some none ∧
    (((chanL 0 (localLink .reconcile { upLink with audit := some [] })).takeLocal 0 .reconcile).map (fun c1 => ((c1.link 0).audit, (c1.link 0).recon))) = some (some [], 0) := by
  decide +kernel

theorem witness_Kernels : (List.replicate 1024 0).length = 1024 ∧ ∀ k < 3, (⟨k, false, 0, 0, 0, 0, 0, 0, 0, 0, 0, 0⟩ : KernelConsts).kind = k ∧
    (kernelConsts (zeros 9 ++ [BitVec.ofNat 8 k] ++ zeros (259 * 64 - 10))).kind = k := by decide +kernel

/-- One SGD step by hand: g 2, w 1, moment 4, WD 0, B1 0.5, LR 0.25: m = 4, w = 0. -/
theorem test_sgd : (⟨0, false, 0x3E800000, 0, 0, 0x3F000000, 0, 0, 0, 0, 0, 0⟩ : KernelConsts).sgd 0x40000000 0x3F800000 0x40800000 = (0, 0x40800000) := by decide +kernel

/-! ## Registers, tables and tile failures -/

theorem witness_RegisterWrite :
    (let c := chanW .ready []
     c.regsUp = true ∧ findReg chanRegs 0x7FFFFC = none ∧ (findReg chanRegs R.TH_CH_CFG).isSome = true ∧ c.lacks R.TH_CH_CFG = false ∧ R.TH_CH_CFG ≠ R.CTL_UND_CFG ∧
       (∀ d, findReg chanRegs R.TH_CH_CFG = some d → (d.isStaged = false ∨ (c.grove 0).strobe = none) ∧
         [R.CKP_GRV_CFG, R.CKP_GRV_STAGE, R.CKP_GRV_RANGES, R.CKP_GRV_CARRY].contains d.base = false)) := by
  refine ⟨by decide, by decide +kernel, by decide +kernel, by decide +kernel, by decide, fun d hd => ?_⟩
  obtain rfl : d = ((findReg chanRegs R.TH_CH_CFG).getD ⟨0, 0, 0, 0, 0, 0, .none, []⟩) := by rw [hd]; rfl
  exact ⟨by decide +kernel, by decide +kernel⟩

/-- A staged register of grove 3, where no strobe waits. -/
theorem witness_StagedRegisterWrite : ((findReg chanRegs (R.RED_GRV_TABLE + redOff 3)).map (fun d => d.isStaged)) = some true ∧
    (chanW .ready []).groupOf (R.RED_GRV_TABLE + redOff 3) = some 3 ∧ ((chanW .ready []).grove 3).strobe = none := by decide +kernel

/-- The access types of a register with RW, W1C and RSV bits. -/
theorem witness_AccessTypes : ((findReg chanRegs R.CTL_STATUS).map (fun d => decide (d.bitsOf .w1c ≠ 0))) = some true ∧
    ((findReg chanRegs (R.RED_GRV_TABLE + redOff 15)).map (fun d => d.isStaged && decide (d.bitsOf .rsv ≠ 0))) = some true := by decide +kernel

theorem witness_Alias :
    (0x3FFFC < 0x40000 ∧ 0x3FFFC % 4 = 0) ∧ findReg chanRegs 0x3FFFC = none ∧ (2 : Word).toNat = 2 ∧ (1 : Word).toNat ≤ 1 ∧
    ((findReg chanRegs R.CTL_STATUS).map (fun d => (d.bitsOf .w1c).getLsbD F.CTL_STATUS_ALIAS_ERR.lo)) = some true ∧
    ((findReg chanRegs R.TH_CH_CFG).map (fun d => !((d.bitsOf .w1c).getLsbD 0 || (d.bitsOf .wo).getLsbD 0))) = some true ∧ R.TH_CH_CFG < 0x40000 := by decide +kernel

theorem witness_Understory :
    (let c := chanW .ready []
     c.unitsOk (F.CTL_UND_CFG_UNITS.of 0) = true ∧ c.unitsOk (F.CTL_UND_CFG_UNITS.of (F.CTL_UND_CFG_UNITS.into 0 73)) = false) ∧
    chanBank R.TH_LIMIT_LO = some [R.TH_LIMIT_LO] ∧ R.TH_LIMIT_LO < 0x800000 := by decide +kernel

theorem witness_CrownAccess :
    ((chanW .ready []).crownMay ⟨0, true, 0, 0x20000, 4, none, []⟩ (crownPlace 0x20000) = false) ∧
    (let a : CrownAccess := ⟨3, true, 0, BitVec.ofNat 40 (0x400000000 + sramBytes - 64), 64, some (zeros 64), []⟩
     crownPlace a.addr.toNat = .tile 0 (sramBytes - 64) ∧ (sramBytes - 64) + a.size ≤ sramBytes) := by decide +kernel

/-- Regions 0, 1 and 3 staged, region 3 just large enough. -/
def regionChan : Chan := { chanW .bringup [] with
  bank := { Bank.empty with staged := [(R.HBM_REGION_LO, 0), (R.HBM_REGION_HI, 0x80000000), (R.HBM_REGION_LO + 24, 1), (R.HBM_REGION_HI + 24, BitVec.ofNat 32 (2 ^ 31 + dirtyLines))] } }
theorem witness_RegionApply : regionChan.st = .bringup ∧ regionOffs.any (fun o => regionChan.bank.badStaged.contains o) = false ∧
    regionItem regionChan.staged (sumCap regionChan.reg) = none ∧ (chanW .running []).st = .running := by decide +kernel

theorem witness_TableApply :
    let c : Chan := { chanW .running [] with applyWait := some (1, none), flits := [flitW 0 1 4 (.sram 2 0 none)] }
    (c.applyWait = some (1, none) ∧ (groupsOf 1).contains 0 = true ∧ c.drained (groupsOf 1) = true) ∧
      (({ c with flits := [flitW 0 1 4 (.sram 0 0 none)] } : Chan).drained (groupsOf 1) = false ∧ ({ c with flits := [flitW 0 1 4 (.sram 0 0 none)] } : Chan).drained [0] = false) := by decide +kernel

theorem witness_PortDieWrites :
    (let s := stateW (chanW .bringup [])
     s.pd.running = true ∧ (s.chan 0).st = .bringup ∧ (0xFF : Byte).getLsbD 0 = true ∧ s.cell.link = true) ∧
    ({ Cell.reset with link := false }.link = false) := by decide +kernel

theorem witness_TileFailures :
    (let c := moveChan copyDesc here
     c.clockRuns 0 = true ∧ (c.tile 0).slot.isSome) ∧
    (let c : Chan := { chanW .running [(R.CTL_GRV_REGION_W0, 1), (R.CTL_GRV_REGION_W1, 0x82000)] with
       tiles := [(0, { blockW 0 0 with slot := here })], groves := [(0, { groveW with replay := true })] }
     (c.grove 0).replay = true ∧ c.arraysIdle 0 = false ∧ c.clockRuns 0 = true ∧ c.tileRuns 0 = false) ∧
    (let c := chanG { groveW with replay := true } [] []
     (c.grove 0).replay = true ∧ (c.grove 0).failing = [] ∧ (c.grove 0).ws.reload = [] ∧ (c.grove 0).ws.slotReload = [] ∧ (c.grove 0).st = .running ∧ c.arraysIdle 0 = true) ∧
    (let c := chanG { groveW with st := .paused } [] []
     c.quiet 0 = true ∧ (c.grove 0).st = .paused) ∧
    (let c := chanG { groveW with st := .draining, kind := 0, begun := true } [] []
     c.quiet 0 = true ∧ (c.grove 0).st = .draining ∧ (c.grove 0).kind = 0 ∧ (c.grove 0).begun = true) := by decide +kernel

theorem witness_Heartbeats :
    (let c := (chanW .ready []).setFld F.CTL_BRINGUP_BANDS 6
     c.st = .ready ∧ ([(47, 89)] : List (Nat × Nat)).any (fun p => decide (p.1 < 48) && decide (p.2 < c.admittedRows)) = true ∧
       ([(48, 0), (0, 90)] : List (Nat × Nat)).any (fun p => decide (p.1 < 48) && decide (p.2 < c.admittedRows)) = false) ∧
    (let c := chanG { groveW with failing := [(0, 1)] } [] []
     (c.grove 0).failing ≠ [] ∧ c.arraysIdle 0 = true ∧ (c.grove 0).st = .running ∧ c.st = .running ∧ c.down = false) := by decide +kernel

theorem witness_RegisterWriteElsewhere :
    (chanW .off []).regsUp = false ∧ (chanW .ready []).lacks (R.RED_GRV_TABLE + redOff 3) = false ∧
    (∃ g, (chanG { groveW with strobe := some ⟨0, 8, 0⟩ } [] []).groupOf (R.RED_GRV_TABLE + redOff 0) = some g ∧
      ((chanG { groveW with strobe := some ⟨0, 8, 0⟩ } [] []).grove g).strobe.isSome = true) ∧
    ((chanG { groveW with ring := { groveW.ring with phase := 1 } } [] []).grove 0).ring.phase ≠ 0 ∧
    (stateW (chanW .ready [])).pd.running = true ∧ State.reset.pd.running = false := by
  exact ⟨by decide, by decide +kernel, ⟨0, by decide +kernel, by decide +kernel⟩, by decide, by decide, by decide⟩

theorem witness_AccessTypesSayRsv : ∃ d, findReg chanRegs (R.RED_GRV_TABLE + redOff 15) = some d ∧ d.isStaged = true ∧ ∃ k < 32, (d.bitsOf .rsv).getLsbD k = true := by
  have h : (findReg chanRegs (R.RED_GRV_TABLE + redOff 15)).any (fun d => d.isStaged && (List.range 32).any (fun k => (d.bitsOf .rsv).getLsbD k)) = true := by decide +kernel
  cases hd : findReg chanRegs (R.RED_GRV_TABLE + redOff 15) with
  | none => rw [hd] at h; exact absurd h (by simp)
  | some d =>
    rw [hd] at h
    simp only [Option.any_some, Bool.and_eq_true, List.any_eq_true, List.mem_range] at h
    exact ⟨d, rfl, h.1, h.2⟩

theorem witness_SnapRelease : chanBank 0 = none ∧ (chanW .ready []).regsUp = true := by decide +kernel

/-- A firmware load. -/
def loadAt (n size : Nat) : CrownAccess := ⟨0, true, 0, BitVec.ofNat 40 n, size, none, []⟩
theorem witness_CrownPlaces :
    (let c := chanW .ready []
     (c.crownMay (loadAt 0 64) .rom = true ∧ crownPlace 0 = .rom) ∧
     (c.crownMay (loadAt 0x10000000 4) (.regs 0) = true ∧ crownPlace 0x10000000 = .regs 0) ∧
     (c.crownMay (loadAt 0x20000000 4) (.global 0) = true ∧ crownPlace 0x20000000 = .global 0) ∧
     (c.crownMay (loadAt 0x400000000 64) (.tile 0 0) = true ∧ crownPlace 0x400000000 = .tile 0 0) ∧
     (c.crownMay (loadAt 0x2000000000 64) (.hbm 0) = true ∧ crownPlace 0x2000000000 = .hbm 0)) ∧
    (∃ b d, (chanW .ready []).sramLines 0 0 [] 1 = (some b, d)) ∧ (∃ b d, (chanW .ready []).readLines 0 [] 1 = (some b, d)) ∧
    (∃ d, ({ chanW .ready [] with poison := [0] } : Chan).readLines 0 [] 1 = (none, d)) :=
  ⟨by decide +kernel, pair_some (by decide +kernel), pair_some (by decide +kernel), pair_none (by decide +kernel)⟩

theorem witness_RegionApplyElsewhere : (chanW .running []).st ≠ .off ∧ ¬ ((chanW .running []).st = .bringup ∨ (chanW .running []).st = .ready) ∧
    (chanW .off []).st = .off ∧ (∀ g ∈ groveNums, ((chanW .ready []).grove g).st = .empty) := by decide +kernel

theorem witness_TableApplyElsewhere : (chanW .running []).applyWait = none ∧ (groupsOf 1).contains 1 = false := by decide +kernel

theorem witness_TileFailuresElsewhere :
    (chanW .running []).clockRuns 0 = true ∧ (chanW .off []).clockRuns 0 = false ∧ groveW.replay = false ∧ groveW.failing = [] ∧
      (chanG groveW [] []).quiet 0 = true ∧ (chanG groveW [] []).arraysIdle 0 = true ∧ (chanG groveW [] []).drained [0] = true ∧ ((chanW .off []).st ≠ .ready ∧ (chanW .off []).st ≠ .running) := by decide +kernel

/-! ## The command port, sessions and channels -/

/-- A datagram of session 1 with its tag. -/
def tagged (ch op : Nat) (seq : Word) (params : Bytes) : Datagram :=
  let d := { cmdW ch op params with seq := seq }
  { d with tag := kmac256 [] (header d.channel d.queue d.opcode d.flags d.seq.toNat d.plen d.session ++ d.params) 128 "PLK4824-CMD" }

/-- Channel 0's queue 0 belongs to session 1. -/
def portW (q : Queue) : State :=
  { State.reset with chans := [(0, { chanW .ready [] with queues := [(0, q)] })], pd := { PortDie.reset with powered := true, boot := 4, sessions := [sesW .owner] } }
def ownQ : Queue := { Queue.fresh with owner := some 1 }

theorem witness_DatagramChecks :
    (portW ownQ).pd.serving = true ∧ formOk { cmdW 0 0 [] with magic := 0 } = false ∧ formOk (cmdW 0 0 []) = true ∧
    (portW ownQ).pd.fld F.PD_FW_RECOVERY ≠ 1 ∧ (portW ownQ).pd.session 2 = none ∧ (portW ownQ).pd.session 1 = some (sesW .owner) ∧
    tagOk (sesW .owner) (cmdW 0 0 []) = false ∧ tagOk (sesW .owner) (tagged 0 0x10 63 (zeros 8)) = true ∧
    (portW { ownQ with owner := some 2 }).queueOwned (tagged 0 0x10 63 (zeros 8)) = false := by decide +kernel

theorem witness_DatagramAdmitted :
    let s := portW ownQ
    let d := tagged 0 0x10 63 (zeros 8)
    s.queueOwned d = true ∧ (d.seq - (s.namedQueue d).expect).toNat = 63 ∧ (s.namedQueue d).tokens ≠ 0 ∧ (s.namedQueue d).waiting = [] ∧ d.channel < 8 ∧
      formatCheck true d.opcode d.params = none ∧ (s.chan 0).linkLost = false := by decide +kernel

theorem witness_NoHead (r : Nat) : (((portW ownQ).chan 0).queue r).head = none := by
  have h : ((portW ownQ).chan 0).queue r = if r = 0 then ownQ else Queue.fresh := by
    show mapGet _ [(0, ownQ)] r = _
    by_cases hr : r = 0 <;> simp [mapGet, hr, Ne.symm]
  rw [h]; split <;> rfl

theorem witness_DatagramRefused :
    (let s := portW ownQ
     let d := tagged 0 0x10 (BitVec.ofNat 32 (2 ^ 32 - 1)) (zeros 8)
     2 ^ 31 ≤ (d.seq - (s.namedQueue d).expect).toNat ∧ (s.namedQueue d).cache = []) ∧
    (let s := portW { ownQ with expect := 1, cache := [⟨0, 0x10, 77, []⟩] }
     let d := tagged 0 0x10 0 (zeros 8)
     2 ^ 31 ≤ (d.seq - (s.namedQueue d).expect).toNat ∧ (s.namedQueue d).cache.reverse.find? (fun r => r.seq = d.seq) = some ⟨0, 0x10, 77, []⟩) ∧
    (let s := portW { ownQ with tokens := 0 }
     let d := tagged 0 0x10 63 (zeros 8)
     (d.seq - (s.namedQueue d).expect).toNat < 2 ^ 31 ∧ (s.namedQueue d).tokens = 0) ∧
    (((64 : Word) - ((portW ownQ).namedQueue (tagged 0 0x10 64 (zeros 8))).expect).toNat = 64) := by decide +kernel

theorem witness_Network :
    (stateW (chanW .ready [])).pd.serving = true ∧
    (let p := (stateW (chanW .ready [])).pd.setFld F.PD_NET_CFG_LEN4 24
     p.serving = true ∧ netAnswer p (.arp (p.reg R.PD_NET_IP4)) = some (leBytes 4 (p.reg R.PD_NET_IP4).toNat)) ∧
    netAnswer (stateW (chanW .ready [])).pd (.arp 1) = none ∧
    ((stateW (chanW .off [])).chan 0).linkUp = false ∧ ((stateW ((chanW .ready []).setFld F.CTL_BRINGUP_STEP 4)).chan 0).linkUp = true ∧
    (∃ c k, c < 8 ∧ k < 1024 ∧ 57343 = 49152 + 1024 * c + k) ∧ (49151 < 49152 ∨ 57344 ≤ 49151) :=
  ⟨by decide, by decide +kernel, by decide +kernel, by decide +kernel, by decide +kernel, ⟨7, 1023, by decide⟩, .inl (by decide)⟩

/-- The port die with one host key and a session-0 command. -/
def pdO (op : Nat) (params : Bytes) : State :=
  { State.reset with pd := { PortDie.reset with powered := true, boot := 4, session0 := [cmd0 op params], keys := [⟨1, 0, 0xFF, [1]⟩], pending := [⟨9, fprOf [1], 600, [], [], []⟩] } }

theorem witness_SessionOpen :
    let ps := fprOf [1] ++ zeros 32 ++ leBytes 2 10 ++ zeros 14
    Ready0 (pdO 0x01 ps) ⟨0xFF, 0, 0, 0⟩ 0x01 [opBytes 0 16 (fprOf [1]), opBytes 16 32 (zeros 32), (48, 2, 10)] (fun _ => []) (cmd0 0x01 ps) ∧
      (pdO 0x01 ps).pd.anySession 0 = none ∧ (pdO 0x01 ps).pd.locked = false ∧ ((pdO 0x01 ps).pd.hostKey (slice (fprOf [1]) 0 16)).isSome = true ∧
      (pdO 0x01 ps).pd.sessions.length < 16 ∧ (pdO 0x01 ps).pd.pending.length < 4 ∧ (pdO 0x01 ps).pd.ended.length < 1000 :=
  ⟨ready0_of _ _ _ _ _ rfl (by decide +kernel) (by decide +kernel), by decide, rfl, by decide +kernel, by decide, by decide, by decide⟩

theorem witness_SessionKey :
    let ps := leBytes 2 9 ++ zeros 2 ++ zeros 1568 ++ zeros 1280
    Ready0 (pdO 0x02 ps) ⟨0xFF, 0, 0, 0⟩ 0x02 [(0, 2, 9), opBytes 4 1568 (zeros 1568), opBytes 1572 1280 (zeros 1280)] (fun _ => []) (cmd0 0x02 ps) ∧
      (pdO 0x02 ps).pd.pending.find? (fun x => x.id = 9) = some ⟨9, fprOf [1], 600, [], [], []⟩ ∧ (pdO 0x02 ps).pd.session 9 = none ∧
      ((pdO 0x02 ps).pd.hostKey (fprOf [1])).isSome = true :=
  ⟨ready0_of _ _ _ _ _ rfl (by decide +kernel) (by decide +kernel), by decide +kernel, rfl, by decide +kernel⟩

/-- A state whose port die holds module command `op` of session 1. -/
def stateM (c : Chan) (op : Nat) (params : Bytes) : State := { State.reset with chans := [(0, c)], pd := pdM .owner (cmdW 0xFF op params) }

theorem witness_SessionClose : ReadyM (stateM (chanW .ready []) 0x03 []) ⟨0xFF, 0, 1, 0⟩ 0x03 [] false (fun _ => []) (cmdW 0xFF 0x03 []) ∧
    ((stateM (chanW .ready []) 0x03 []).pd.session 1).isSome := ⟨readyM_of _ _ _ _ _ _ _ rfl (by decide) (by decide +kernel) rfl, by decide⟩

theorem witness_QueueClaim :
    let ps := [0, 7, 0, 0] ++ leBytes 4 5
    let c (o : Option Nat) : Chan := { chanW .ready [] with queues := [(7, { Queue.fresh with owner := o })] }
    (∀ o, ReadyM (stateM (c o) 0x04 ps) ⟨0xFF, 0, 1, 0⟩ 0x04 [(0, 1, 0), (1, 1, 7), (4, 4, (5 : Word).toNat)] false badQueue (cmdW 0xFF 0x04 ps)) ∧
      (stateM (c none) 0x04 ps).maySee (cmdW 0xFF 0x04 ps) 0 = true ∧ (((c none).queue 7).owner = none) ∧ (((c (some 2)).queue 7).owner ≠ none ∧ ((c (some 2)).queue 7).owner ≠ some 1) :=
  ⟨fun _ => readyM_of _ _ _ _ _ _ _ rfl (by decide) (by decide +kernel) rfl, by decide +kernel, by decide, by decide⟩

theorem witness_QueueClaimUnseen :
    let ps := [0, 7, 0, 0] ++ leBytes 4 5
    let d := cmdW 0xFF 0x04 ps
    let q : Session := { sesW .tenant with mask := 2, queue := { Queue.fresh with owner := some 1, waiting := [d] } }
    let s : State := { State.reset with pd := { PortDie.reset with powered := true, boot := 4, sessions := [q] } }
    s.maySee d 0 = false ∧ roleOk (s.rights 1 0xFF).1 (some .tenant) = true ∧ s.modHead ⟨0xFF, 0, 1, 0⟩ 0x04 [(0, 1, 0), (1, 1, 7), (4, 4, 5)] = some d := by decide +kernel

theorem witness_QueueRelease :
    let ps : Bytes := [0, 7, 0, 0]
    let c (o : Option Nat) (n : Nat) : Chan := { chanW .ready [] with queues := [(7, { Queue.fresh with owner := o, tokens := n })] }
    (∀ o n, ReadyM (stateM (c o n) 0x05 ps) ⟨0xFF, 0, 1, 0⟩ 0x05 [(0, 1, 0), (1, 1, 7)] false badQueue (cmdW 0xFF 0x05 ps)) ∧
      ((c (some 1) 64).queue 7).tokens = 64 ∧ ((c (some 1) 63).queue 7).tokens < 64 ∧ ((c (some 1) 63).queue 7).owner = some 1 ∧ ((c none 64).queue 7).owner ≠ some 1 :=
  ⟨fun _ _ => readyM_of _ _ _ _ _ _ _ rfl (by decide) (by decide +kernel) rfl, by decide, by decide, by decide, by decide⟩

theorem witness_ModuleAdministration :
    let c := chanW .ready []
    ReadyM (stateM c 0x00 []) ⟨0xFF, 0, 1, 0⟩ 0x00 [] false (fun _ => []) (cmdW 0xFF 0x00 []) ∧
    (Ready0 (pdO 0x00 []) ⟨0xFF, 0, 0, 0⟩ 0x00 [] (fun _ => []) (cmd0 0x00 []) ∧ (pdO 0x00 []).pd.anySession 0 = none) ∧
    ReadyM (stateM c 0x06 []) ⟨0xFF, 0, 1, 0⟩ 0x06 [] false (fun _ => []) (cmdW 0xFF 0x06 []) ∧
    (let ps := zeros 16 ++ leBytes 2 5000 ++ [255, 0]
     ReadyM (stateM c 0x08 ps) ⟨0xFF, 0, 1, 0⟩ 0x08 [opBytes 0 16 (zeros 16), (16, 2, 5000), (18, 1, 255)] false (fun _ => []) (cmdW 0xFF 0x08 ps)) ∧
    (let ps := leBytes 2 4095 ++ leBytes 2 9
     ReadyM (stateM c 0x07 ps) ⟨0xFF, 0, 1, 0⟩ 0x07 [(0, 2, 4095), (2, 2, 9)] (stateM c 0x07 ps).idsHeld (fun _ => [(decide (4095 < 4095), 0)]) (cmdW 0xFF 0x07 ps)) ∧
    (let ps : Bytes := [7, 0, 0, 0]
     ReadyM (stateM c 0x0D ps) ⟨0xFF, 0, 1, 0⟩ 0x0D [(0, 1, 7), (1, 1, 0)] (decide (0 = 0 ∨ 0 = 7) && !((stateM c 0x0D ps).chan 0).st.hosts)
       (fun _ => [(decide (8 ≤ 7), 0), (decide (0 ≠ 0 ∧ 0 ≠ 7), 1)]) (cmdW 0xFF 0x0D ps) ∧ (stateM c 0x0D ps).pd.services.length = 3) ∧
    (let ps := zeros 16 ++ [64, 0, 0, 0] ++ zeros 4 ++ [63] ++ zeros 7
     ReadyM (stateM c 0x0E ps) ⟨0xFF, 0, 1, 0⟩ 0x0E [opBytes 0 16 (zeros 16), (16, 1, 64), opBytes 20 4 (zeros 4), (24, 1, 63)] false
       (fun _ => [(decide (64 ≤ 63), 24)]) (cmdW 0xFF 0x0E ps)) :=
  ⟨readyM_of _ _ _ _ _ _ _ rfl (by decide) (by decide +kernel) rfl,
   ⟨ready0_of _ _ _ _ _ rfl (by decide) (by decide +kernel), by decide⟩,
   readyM_of _ _ _ _ _ _ _ rfl (by decide) (by decide +kernel) rfl,
   readyM_of _ _ _ _ _ _ _ rfl (by decide +kernel) (by decide +kernel) rfl,
   readyM_of _ _ _ _ _ _ _ rfl (by decide +kernel) (by decide +kernel) (by decide +kernel),
   ⟨readyM_of _ _ _ _ _ _ _ rfl (by decide +kernel) (by decide +kernel) (by decide +kernel), rfl⟩,
   readyM_of _ _ _ _ _ _ _ rfl (by decide +kernel) (by decide +kernel) rfl⟩

theorem witness_Channels :
    (let s := stateC (chanW .off []) .owner (cmdW 0 0x09 [])
     ReadyC s ⟨0, 0, 1, 0⟩ 0x09 [] noConf (fun _ => []) (cmdW 0 0x09 []) ∧ s.tooHot = false ∧ s.pd.power.ovHold = false ∧
       ({ s with pd := { s.pd with power := { s.pd.power with hottest := 85 * 16 + 1 } } } : State).tooHot = true) ∧
    ReadyC (stateC (chanW .ready []) .owner (cmdW 0 0x0A [])) ⟨0, 0, 1, 0⟩ 0x0A [] noConf (fun _ => []) (cmdW 0 0x0A []) ∧
    ReadyC (stateC (chanW .running []) .owner (cmdW 0 0x0B [])) ⟨0, 0, 1, 0⟩ 0x0B [] noConf (fun _ => []) (cmdW 0 0x0B []) ∧
    ReadyC (stateC { chanW .frozen [] with freeze := 1 } .owner (cmdW 0 0x0C [])) ⟨0, 0, 1, 0⟩ 0x0C [] noConf (fun _ => []) (cmdW 0 0x0C []) ∧
    (∀ g, ((Chan.reset 0).grove g).st.active = false ∧ (((Chan.reset 0).grove g).st = .paused → (Chan.reset 0).quiet g = true)) :=
  ⟨⟨readyC_of _ _ _ _ _ _ _ (by decide) (by decide) (by decide +kernel), by decide +kernel, rfl, by decide +kernel⟩,
   readyC_of _ _ _ _ _ _ _ (by decide) (by decide) (by decide +kernel), readyC_of _ _ _ _ _ _ _ (by decide) (by decide) (by decide +kernel),
   readyC_of _ _ _ _ _ _ _ (by decide) (by decide) (by decide +kernel), fun _ => ⟨rfl, fun h => nomatch h⟩⟩

theorem witness_DatagramsElsewhere :
    State.reset.pd.serving = false ∧
    (let s : State := { portW ownQ with pd := (portW ownQ).pd.setFld F.PD_FW_RECOVERY 1 }
     s.pd.serving = true ∧ s.pd.fld F.PD_FW_RECOVERY = 1) ∧
    ((cmd0 0x10 []).session = 0 ∧ (cmd0 0x00 []).channel = 0xFF ∧ formOk (cmd0 0x00 []) = true ∧ formatCheck false 0x00 [] = none ∧ (formatCheck false 0x01 []).isSome = true) ∧
    (let s := portW { ownQ with waiting := [tagged 0 0x10 63 (zeros 8)] }
     (s.namedQueue (tagged 0 0x10 63 (zeros 8))).waiting ≠ [] ∧ (s.namedQueue (tagged 0 0x10 63 (zeros 8))).tokens ≠ 0) ∧
    ((portW ownQ).queueOwned (tagged 0xFF 0x06 0 []) = true ∧ 8 ≤ (tagged 0xFF 0x06 0 []).channel) := by decide +kernel

theorem witness_SessionRefusals :
    (let s := pdO 0x01 []
     (s.pd.hostKey (zeros 16)) = none ∧ ({ s with pd := { s.pd with locked := true } } : State).pd.locked = true ∧
       16 ≤ ({ s with pd := { s.pd with sessions := List.replicate 16 (sesW .owner) } } : State).pd.sessions.length ∧
       s.pd.pending.find? (fun x => x.id = 8) = none) ∧
    ((9 : Nat) ≠ 0 ∧ 9 < 10) ∧ (3600 < 3601) := by decide +kernel

theorem witness_QueueClaimOwn : (let c : Chan := { chanW .ready [] with queues := [(7, { Queue.fresh with owner := some 1 })] }
    (c.queue 7).owner = some 1 ∧ (stateM c 0x04 ([0, 7, 0, 0] ++ leBytes 4 5)).maySee (cmdW 0xFF 0x04 ([0, 7, 0, 0] ++ leBytes 4 5)) 0 = true) := by decide +kernel

theorem witness_ChannelStartHeld :
    let s := stateC (chanW .off []) .owner (cmdW 0 0x09 [])
    let p (v : Option Nat) : PortDie := { s.pd with power := { s.pd.power with ovHold := true, okSince := v } }
    (p none).power.ovHold = true ∧ (p none).inputOk 800000000 = false := by decide +kernel

/-! ## Register, memory and grove commands -/

theorem rC {c : Chan} {r : Role} {op : Nat} {params : Bytes} {fs : List (Nat × Nat × Nat)} {conf : Chan → Datagram → Bool}
    {bad : Datagram → List (Bool × Nat)}
    (h : ((c.idx = 0 ∧ c.linkLost = false) ∧ isFor (cmdW 0 op params) ⟨0, 0, 1, 0⟩ op fs = true) ∧
      ((queuedW c (cmdW 0 op params)).setQueue 0 ({ Queue.fresh with owner := some 1, waiting := [cmdW 0 op params] }.begin (cmdW 0 op params))).refused
        (some r) ((sesW r).sees 0) (cmdW 0 op params) (groveNamed (cmdW 0 op params)) conf (bad (cmdW 0 op params)) = none) :
    ReadyC (stateC c r (cmdW 0 op params)) ⟨0, 0, 1, 0⟩ op fs conf bad (cmdW 0 op params) := readyC_of _ _ _ _ _ _ _ h.1.1 h.1.2 h.2

theorem rM {s : State} {op : Nat} {params : Bytes} {fs : List (Nat × Nat × Nat)} {conf : Bool} {bad : Datagram → List (Bool × Nat)} (r : Role)
    (hs : s.pd.sessions = (pdM r (cmdW 0xFF op params)).sessions)
    (h : (isFor (cmdW 0xFF op params) ⟨0xFF, 0, 1, 0⟩ op fs = true ∧ conf = false) ∧
      ((opFind op).map (fun o => roleOk (some r) o.role && (badOffset o params (bad (cmdW 0xFF op params))).isNone)) = some true) :
    ReadyM s ⟨0xFF, 0, 1, 0⟩ op fs conf bad (cmdW 0xFF op params) := readyM_of _ _ _ _ _ _ _ hs h.1.1 h.2 h.1.2

def ready0 : Chan := chanW .ready []
def thAddr : Nat := chanBase 0 + R.TH_CH_CFG
/-- A register group of grove 3 that a pending strobe covers. -/
def strobed : Chan := { ready0 with groves := [(3, { Grove.empty with st := .running, strobe := some ⟨0, 0, 0⟩ })] }
def redAddr : Nat := chanBase 0 + (R.RED_GRV_TABLE + redOff 3)

theorem witness_RegRead :
    (let ps := leBytes 4 thAddr ++ leBytes 2 1 ++ [0, 0]
     ReadyC (stateC ready0 .owner (cmdW 0 0x10 ps)) ⟨0, 0, 1, 0⟩ 0x10 [(0, 4, (BitVec.ofNat 32 thAddr).toNat), (4, 2, 1), (6, 1, 0)]
       (fun c _ => c.st = .off && !isGlobal (BitVec.ofNat 32 thAddr).toNat) (badRead (fun a => inChan 0 a || isGlobal a)) (cmdW 0 0x10 ps) ∧
     isGlobal (BitVec.ofNat 32 thAddr).toNat = false ∧ ready0.bank.bad = [] ∧ ready0.bank.badStaged = []) ∧
    (let ps := leBytes 4 0x114 ++ leBytes 2 1 ++ [1, 0]
     ReadyM (stateM ready0 0x10 ps) ⟨0xFF, 0, 1, 0⟩ 0x10 [(0, 4, (0x114 : Word).toNat), (4, 2, 1), (6, 1, 1)] false (badRead isGlobal) (cmdW 0xFF 0x10 ps)) :=
  ⟨⟨rC (by decide +kernel), by decide +kernel⟩, rM .owner rfl (by decide +kernel)⟩

theorem witness_RegWrite :
    (let ps (a : Nat) := leBytes 4 a ++ leBytes 2 1 ++ [0, 0] ++ leBytes 4 7
     let fs (a : Nat) := [(0, 4, (BitVec.ofNat 32 a).toNat), (4, 2, 1), (8, 4 * 1, leNat (slice (wordBytes [7]) 0 (4 * 1)))]
     (ReadyC (stateC ready0 .owner (cmdW 0 0x11 (ps thAddr))) ⟨0, 0, 1, 0⟩ 0x11 (fs thAddr) noConf (badWrite (inChan 0)) (cmdW 0 0x11 (ps thAddr)) ∧
       ready0.meetsPending (thAddr - chanBase 0) = false) ∧
     (ReadyC (stateC strobed .owner (cmdW 0 0x11 (ps redAddr))) ⟨0, 0, 1, 0⟩ 0x11 (fs redAddr) noConf (badWrite (inChan 0)) (cmdW 0 0x11 (ps redAddr)) ∧
       strobed.meetsPending (redAddr - chanBase 0) = true) ∧
     ReadyM (stateM ready0 0x11 (ps 0x114)) ⟨0xFF, 0, 1, 0⟩ 0x11 (fs 0x114) false (badWrite isGlobal) (cmdW 0xFF 0x11 (ps 0x114)) ∧
       (stateM ready0 0x11 (ps 0x114)).mayWrite (cmdW 0xFF 0x11 (ps 0x114)) [0x114] = true ∧
       ((findReg pdRegs 0x114).map (fun r => r.isStaged && (r.bitsOf .rws).getLsbD 13 && !(r.bitsOf .rws).getLsbD 14)) = some true) :=
  ⟨⟨rC (by decide +kernel), by decide +kernel⟩, ⟨rC (by decide +kernel), by decide +kernel⟩, rM .owner rfl (by decide +kernel), by decide +kernel⟩

/-- A state whose one session has a role. -/
def stateR (r : Role) (op : Nat) (params : Bytes) : State := { State.reset with pd := pdM r (cmdW 0xFF op params) }

theorem witness_RegReadGlobal :
    let ps := leBytes 4 0x114 ++ leBytes 2 1 ++ [1, 0]
    ReadyC (stateC ready0 .owner (cmdW 0 0x10 ps)) ⟨0, 0, 1, 0⟩ 0x10 [(0, 4, (0x114 : Word).toNat), (4, 2, 1), (6, 1, 1)]
      (fun c _ => c.st = .off && !isGlobal (0x114 : Word).toNat) (badRead (fun a => inChan 0 a || isGlobal a)) (cmdW 0 0x10 ps) ∧ isGlobal (0x114 : Word).toNat = true ∧
      PortDie.reset.bank.bad = [] ∧ PortDie.reset.bank.badStaged = [] ∧ ({ ready0 with applyWait := some (1, none) } : Chan).applyWait.isSome = true :=
  ⟨rC (by decide +kernel), by decide +kernel⟩

theorem witness_RegWriteRefused :
    (let ps := leBytes 4 R.PD_CH_ENABLE ++ leBytes 2 1 ++ [0, 0] ++ leBytes 4 7
     ReadyM (stateR .operator 0x11 ps) ⟨0xFF, 0, 1, 0⟩ 0x11 [(0, 4, (BitVec.ofNat 32 R.PD_CH_ENABLE).toNat), (4, 2, 1), (8, 4 * 1, leNat (slice (wordBytes [7]) 0 (4 * 1)))]
       false (badWrite isGlobal) (cmdW 0xFF 0x11 ps) ∧ (stateR .operator 0x11 ps).mayWrite (cmdW 0xFF 0x11 ps) [R.PD_CH_ENABLE] = false) ∧
    (let ps := leBytes 4 R.PD_CH_ENABLE ++ leBytes 4 1 ++ leBytes 4 1
     ReadyM (stateR .operator 0x12 ps) ⟨0xFF, 0, 1, 0⟩ 0x12 [(0, 4, (BitVec.ofNat 32 R.PD_CH_ENABLE).toNat), (4, 4, (1 : Word).toNat), (8, 4, (1 : Word).toNat)]
       false (fun d => [badAddr isGlobal (pAt d 0 4) 1]) (cmdW 0xFF 0x12 ps) ∧ (stateR .operator 0x12 ps).mayWrite (cmdW 0xFF 0x12 ps) [R.PD_CH_ENABLE] = false) :=
  ⟨⟨rM .operator rfl (by decide +kernel), by decide +kernel⟩, rM .operator rfl (by decide +kernel), by decide +kernel⟩

theorem witness_RegRmw :
    (let ps (a : Nat) := leBytes 4 a ++ leBytes 4 1 ++ leBytes 4 1
     let fs (a : Nat) := [(0, 4, (BitVec.ofNat 32 a).toNat), (4, 4, (1 : Word).toNat), (8, 4, (1 : Word).toNat)]
     ReadyC (stateC ready0 .owner (cmdW 0 0x12 (ps thAddr))) ⟨0, 0, 1, 0⟩ 0x12 (fs thAddr) noConf (fun d => [badAddr (inChan 0) (pAt d 0 4) 1]) (cmdW 0 0x12 (ps thAddr)) ∧
     ReadyC (stateC strobed .owner (cmdW 0 0x12 (ps redAddr))) ⟨0, 0, 1, 0⟩ 0x12 (fs redAddr) noConf (fun d => [badAddr (inChan 0) (pAt d 0 4) 1]) (cmdW 0 0x12 (ps redAddr)) ∧
     ReadyM (stateM ready0 0x12 (ps R.PD_CH_ENABLE)) ⟨0xFF, 0, 1, 0⟩ 0x12 (fs R.PD_CH_ENABLE) false (fun d => [badAddr isGlobal (pAt d 0 4) 1]) (cmdW 0xFF 0x12 (ps R.PD_CH_ENABLE)) ∧
     (stateM ready0 0x12 (ps R.PD_CH_ENABLE)).mayWrite (cmdW 0xFF 0x12 (ps R.PD_CH_ENABLE)) [R.PD_CH_ENABLE] = true ∧
     (findReg pdRegs R.PD_CH_ENABLE).isSome = true) :=
  ⟨rC (by decide +kernel), rC (by decide +kernel), rM .owner rfl (by decide +kernel), by decide +kernel⟩

/-- Channel 0 READY with grove 0 in a state, and what its bank stages. -/
def groveC (st : GroveState) (staged : NMap Word) : Chan :=
  { ready0 with groves := [(0, { Grove.empty with st := st })], bank := { Bank.empty with staged := staged } }
def isDone (st : Status) (r : StrobeRes) : Bool := match r with | .done s _ _ => s = st | _ => false
def regionStaged : NMap Word := [(R.CTL_GRV_REGION_W0, 0)]

theorem witness_Strobes :
    (∀ st l, (∀ x ∈ [0x13, 0x14, 0x15], ReadyC (stateC (groveC st l) .owner (cmdW 0 x [1, 0, 0, 0])) ⟨0, 0, 1, 0⟩ x [(0, 2, (1 : BitVec 16).toNat)] noConf (fun _ => [])
       (cmdW 0 x [1, 0, 0, 0])) ∧ (groveC st l).applyWait = none) := by
  refine fun st l => ⟨fun x hx => ?_, rfl⟩
  simp only [List.mem_cons, List.not_mem_nil, or_false] at hx
  obtain rfl | rfl | rfl := hx <;> exact readyC_of _ _ _ _ _ _ _ ⟨rfl, rfl⟩ (by decide) (by rfl)

def isWaits (r : StrobeRes) : Bool := match r with | .waits => true | _ => false
def isPending (r : StrobeRes) : Bool := match r with | .pending => true | _ => false

theorem witness_StrobeResults :
    isDone .ok ((groveC .loaded []).strobe 1 (some 0)).1 = true ∧ isDone .stateConflict ((groveC .empty []).strobe 1 (some 0)).1 = true ∧
    isWaits ((groveC .loaded [(R.CTL_GRV_REGION_W0, 2)]).strobe 1 (some 0)).1 = true ∧
    isDone .ok ((groveC .loaded []).strobeBoundary 1 77 0).1 = true ∧ isDone .stateConflict ((groveC .empty []).strobeBoundary 1 77 0).1 = true ∧
    isPending ((groveC .running []).strobeBoundary 1 77 0).1 = true ∧ isWaits ((groveC .loaded [(R.CTL_GRV_REGION_W0, 2)]).strobeBoundary 1 77 0).1 = true := by
  decide +kernel

theorem witness_ModuleStrobes :
    (∀ x ∈ [0x13, 0x15], ReadyM (stateM ready0 x [15, 0, 0, 0]) ⟨0xFF, 0, 1, 0⟩ x [(0, 2, (15 : BitVec 16).toNat)] false
      (fun _ => [(decide (16 ≤ (15 : BitVec 16).toNat), 0)]) (cmdW 0xFF x [15, 0, 0, 0])) ∧ ((stateM ready0 0x13 []).strobeMg 15).1.1 = .ok := by
  refine ⟨fun x hx => ?_, by decide +kernel⟩
  simp only [List.mem_cons, List.not_mem_nil, or_false] at hx
  obtain rfl | rfl := hx <;> exact rM .owner rfl (by decide +kernel)

theorem witness_Snap :
    (let a := chanBase 0 + R.CKP_TX_LO
     ReadyC (stateC ready0 .owner (cmdW 0 0x16 (leBytes 4 a))) ⟨0, 0, 1, 0⟩ 0x16 [(0, 4, (BitVec.ofNat 32 a).toNat)] noConf
       (fun _ => [(!inChan 0 (BitVec.ofNat 32 a).toNat || (chanBank ((BitVec.ofNat 32 a).toNat - chanBase 0)).isNone, 0)]) (cmdW 0 0x16 (leBytes 4 a)) ∧
     chanBank ((BitVec.ofNat 32 a).toNat - chanBase 0) = some [R.CKP_TX_LO, R.CKP_RX_LO]) ∧
    (let a := R.PD_CMD_LO
     ReadyM (stateM ready0 0x16 (leBytes 4 a)) ⟨0xFF, 0, 1, 0⟩ 0x16 [(0, 4, (BitVec.ofNat 32 a).toNat)] false
       (fun _ => [((pdBank (BitVec.ofNat 32 a).toNat).isNone, 0)]) (cmdW 0xFF 0x16 (leBytes 4 a)) ∧ pdBank (BitVec.ofNat 32 a).toNat = some [R.PD_CMD_LO]) :=
  ⟨⟨rC (by decide +kernel), by decide +kernel⟩, rM .owner rfl (by decide +kernel), by decide +kernel⟩

/-- Channel 0 READY with region 0 on lines 0 to 31, and grove 0, of session 1's tenant, granted lines 16 to 31. -/
def memChan : Chan := { chanW .ready [(R.HBM_REGION_LO, 0), (R.HBM_REGION_HI, 0x8000001F), (grantOff 0 0, 0x80000010), (grantOff 0 0 + 4, 0x8000001F)] with
  groves := [(0, { Grove.empty with st := .running })], poison := [] }

theorem witness_MemRead :
    (let ps := leBytes 4 (hbmLines - 127) ++ leBytes 2 127
     ∀ r, (r = .owner ∨ r = .tenant) → ReadyC (stateC memChan r (cmdW 0 0x30 ps)) ⟨0, 0, 1, 0⟩ 0x30 [(0, 4, hbmLines - 127), (4, 2, 127)] noConf
       (fun d => [(!populated (hbmLines - 127) 127, 0), badLines 4 d]) (cmdW 0 0x30 ps)) ∧
    memChan.poison = [] ∧ (memChan.readLines 0 [(0, 1)] 1).1.isSome = true ∧ (({ memChan with poison := [1] } : Chan).readLines 0 [] 2).1 = none ∧
    memChan.tenantMay 31 2 false = false ∧ memChan.tenantMay 16 16 false = true := by
  refine ⟨fun r hr => ?_, by decide +kernel⟩
  obtain rfl | rfl := hr <;> exact rC (by decide +kernel)

theorem witness_MemWrite :
    (let ps := leBytes 4 31 ++ leBytes 2 1 ++ zeros 2 ++ zeros 64
     ∀ r, (r = .owner ∨ r = .tenant) → ReadyC (stateC memChan r (cmdW 0 0x31 ps)) ⟨0, 0, 1, 0⟩ 0x31 [(0, 4, 31), (4, 2, 1), (8, 64 * 1, leNat (slice (zeros 64) 0 (64 * 1)))]
       (fun c _ => c.tableInUse 31 1) (fun d => [(!populated 31 1 || memChan.closed 31 1, 0), badLines 4 d]) (cmdW 0 0x31 ps)) ∧
    memChan.touches 0 31 1 = true ∧ memChan.touches 0 32 1 = false ∧ memChan.tenantMay 31 1 true = true ∧ memChan.tenantMay 15 1 true = false := by
  refine ⟨fun r hr => ?_, by decide +kernel⟩
  obtain rfl | rfl := hr <;> exact rC (by decide +kernel)

theorem witness_TileReadWrite :
    (let ps := [47, 89, 0, 0] ++ leBytes 4 (sramBytes - 64) ++ leBytes 2 1 ++ zeros 2 ++ zeros 64
     let tf := [(0, 1, 47), (1, 1, 89), (4, 4, sramBytes - 64), (8, 2, 1)]
     ReadyC (stateC ready0 .owner (cmdW 0 0x32 (ps.take 12))) ⟨0, 0, 1, 0⟩ 0x32 tf noConf badTile (cmdW 0 0x32 (ps.take 12)) ∧
     ReadyC (stateC ready0 .owner (cmdW 0 0x33 ps)) ⟨0, 0, 1, 0⟩ 0x33 (tf ++ [(12, 64 * 1, leNat (slice (zeros 64) 0 (64 * 1)))])
       (fun c _ => match (c.tile (89 * 48 + 47)).slot with
         | some r => decide (47 < 48) && decide (89 < 90) && (c.grove r.grove).st.active
         | none => false) badTile (cmdW 0 0x33 ps) ∧ (ready0.tile (89 * 48 + 47)).poison = []) :=
  ⟨rC (by decide +kernel), rC (by decide +kernel), by decide +kernel⟩

/-! ## File store, groves and weight sets -/

/-- Channel 0 READY with grove 0 so. -/
def grvC (v : Grove) : Chan := { ready0 with groves := [(0, v)] }
def grvSt (st : GroveState) : Chan := grvC { Grove.empty with st := st }

theorem witness_FileStore :
    (let ps : Bytes := [3, 0] ++ leBytes 2 4420 ++ zeros 16 ++ [2, 0, 0, 0] ++ [65, 66]
     ReadyC (stateC ready0 .owner (cmdW 0 0x34 ps)) ⟨0, 0, 1, 0⟩ 0x34 [(0, 1, 3), (2, 2, 4420), opBytes 4 16 (zeros 16), (20, 1, ([65, 66] : Bytes).length),
       opBytes 24 ([65, 66] : Bytes).length [65, 66]] noConf (fun d => [(decide (4 ≤ pAt d 0 1), 0), (decide (pAt d 20 1 = 0 ∨ 223 < pAt d 20 1), 20)]) (cmdW 0 0x34 ps)) ∧
    (let ps : Bytes := [3, 0, 0, 0] ++ leBytes 4 1 ++ leBytes 8 0 ++ leBytes 4 1 ++ leBytes 4 (hbmLines - 64)
     ReadyC (stateC ready0 .owner (cmdW 0 0x35 ps)) ⟨0, 0, 1, 0⟩ 0x35 (dmaFields 3 1 0 1 (hbmLines - 64)) (fun c _ => c.tableInUse (hbmLines - 64) (64 * 1))
       (fun d => (ready0.touches 0 (hbmLines - 64) (64 * 1) || ready0.closed (hbmLines - 64) (64 * 1), 20) :: badDma d) (cmdW 0 0x35 ps) ∧
     ReadyC (stateC ready0 .owner (cmdW 0 0x36 ps)) ⟨0, 0, 1, 0⟩ 0x36 (dmaFields 3 1 0 1 (hbmLines - 64)) noConf badDma (cmdW 0 0x36 ps)) ∧
    (let ps : Bytes := [0, 3, 0, 0] ++ leBytes 4 0 ++ leBytes 4 64
     ReadyC (stateC (grvSt .loaded) .owner (cmdW 0 0x37 ps)) ⟨0, 0, 1, 0⟩ 0x37 [(0, 1, 0), (1, 1, 3), (4, 4, 0), (8, 4, 64)]
       (groveNot [.loaded, .running, .paused, .draining, .faulted])
       (fun d => [badGrove d, (decide (3 = 0 ∨ 3 < 3), 1), (!populated 0 ((64 + 63) / 64), 4)]) (cmdW 0 0x37 ps)) ∧
    ReadyC (stateC ready0 .owner (cmdW 0 0x38 [15, 0, 0, 0])) ⟨0, 0, 1, 0⟩ 0x38 [(0, 1, 15)] (fun c _ => (c.grove 15).loading) (fun d => [badGrove d]) (cmdW 0 0x38 [15, 0, 0, 0]) :=
  ⟨rC (by decide +kernel), ⟨rC (by decide +kernel), rC (by decide +kernel)⟩, rC (by decide +kernel), rC (by decide +kernel)⟩

/-- A channel whose queue 0 has accepted command `op` with parameters. -/
def accC (c : Chan) (op : Nat) (params : Bytes) : Chan := { c with queues := [(0, { Queue.fresh with owner := some 1, accepted := [cmdW 0 op params] })] }
def stateA (c : Chan) : State := stateW c

theorem witness_FileStoreEnds :
    (∀ x ∈ [0x35, 0x36, 0x37], (accC (grvSt .loaded) x (zeros 24)).acceptedCmd ⟨0, 0, 1, 0⟩ x = some (cmdW 0 x (zeros 24))) ∧
    ((accC (grvSt .loaded) 0x36 (zeros 24)).readLines (pAt (cmdW 0 0x36 (zeros 24)) 20 4) [] (64 * pAt (cmdW 0 0x36 (zeros 24)) 16 4)).1 = some [] ∧
    (grvSt .loaded).progs.any (fun p => p.2.2 = 65535 % 2 ^ 16) = false ∧ (grvSt .loaded).progs.length < 16 ∧
    ((grvSt .loaded).grove (pAt (cmdW 0 0x37 (zeros 24)) 0 1)).st ≠ .empty := by decide +kernel

/-- A running grove whose optimizer table of one entry stands at line 0. -/
def tableC : Chan := ({ grvSt .running with hbm := cellWrite [] 0 (leBytes 4 1) } : Chan).setFld (F.CKP_UPD_GRV_CFG_ENABLE.sh (redOff 0)) 1
theorem witness_FileStoreElsewhere :
    ready0.acceptedCmd ⟨0, 0, 1, 0⟩ 0x35 = none ∧ tableC.tableInUse 0 64 = true ∧ ready0.tableInUse 0 64 = false ∧
    (let d := cmdW 0 0x36 (zeros 16 ++ leBytes 4 1 ++ leBytes 4 0)
     (({ ready0 with poison := [1] } : Chan).readLines (pAt d 20 4) [] (64 * pAt d 16 4)).1 = none) ∧
    ({ ready0 with progs := [(0, 1, 7)] } : Chan).progs.any (fun p => p.2.2 = 7 % 2 ^ 16) = true ∧ (grvSt .empty).grove 0 = Grove.empty ∧
    16 ≤ ({ ready0 with progs := List.replicate 16 (0, 1, 7) } : Chan).progs.length := by decide +kernel

/-- Grove 0 so on tile (0, 0), with the fields of `stopped` stopped for heat. -/
def hotC (v : Grove) (stopped : Nat) : Chan :=
  ({ ready0 with groves := [(0, v)], tiles := [(0, { Tile.reset with slot := some ⟨0, 0, 0, 0⟩ })] } : Chan).setFld F.TH_TJ_STOPPED stopped

theorem witness_GroveLoad :
    (let ps := leBytes 4 0 ++ leBytes 4 64 ++ zeros 32
     ∀ c, (c = ready0 ∨ c = { ready0 with groves := (List.range 16).map (fun g => (g, { Grove.empty with st := .loaded })) }) →
       ReadyC (stateC c .owner (cmdW 0 0x50 ps)) ⟨0, 0, 1, 0⟩ 0x50 [(0, 4, 0), (4, 4, 64), opBytes 8 32 (zeros 32)] noConf
         (fun _ => [(!populated 0 ((64 + 63) / 64), 0)]) (cmdW 0 0x50 ps)) ∧
    groveNums.find? (fun g => !ready0.held g) = some 0 ∧
    groveNums.find? (fun g => !({ ready0 with groves := (List.range 16).map (fun g => (g, { Grove.empty with st := .loaded })) } : Chan).held g) = none := by
  refine ⟨fun c hc => ?_, by decide +kernel⟩
  obtain rfl | rfl := hc <;> exact rC (by decide +kernel)

theorem witness_GroveUnload : ∀ st ∈ [GroveState.loaded, .paused, .faulted],
    ReadyC (stateC (grvSt st) .owner (cmdW 0 0x51 [0, 0, 0, 0])) ⟨0, 0, 1, 0⟩ 0x51 [(0, 1, 0)] (groveNot [.loaded, .paused, .faulted]) (fun d => [badGrove d]) (cmdW 0 0x51 [0, 0, 0, 0]) := by
  intro st hst
  simp only [List.mem_cons, List.not_mem_nil, or_false] at hst
  obtain rfl | rfl | rfl := hst <;> exact rC (by decide +kernel)

theorem witness_GroveStartResume :
    (let ps : Bytes := [0, 0, 0, 0] ++ leBytes 4 0xFFFFFFFF
     ∀ k < 2, ReadyC (stateC (hotC { Grove.empty with st := .loaded } k) .owner (cmdW 0 0x52 ps)) ⟨0, 0, 1, 0⟩ 0x52 [(0, 1, 0), (4, 4, (0xFFFFFFFF : Word).toNat)]
       (fun c d => groveNot [.loaded] c d || (c.grove 0).ring.phase = 5) (fun d => [badGrove d]) (cmdW 0 0x52 ps)) ∧
    (∀ k < 2, ReadyC (stateC (hotC { Grove.empty with st := .paused, causes := 1 } k) .owner (cmdW 0 0x54 [0, 0, 0, 0])) ⟨0, 0, 1, 0⟩ 0x54 [(0, 1, 0)]
       (fun c d => groveNot [.paused] c d || bits (c.grove 0).causes 1 1 = 1) (fun d => [badGrove d]) (cmdW 0 0x54 [0, 0, 0, 0])) ∧
    (hotC { Grove.empty with st := .loaded } 0).heatStops 0 = false ∧ (hotC { Grove.empty with st := .loaded } 1).heatStops 0 = true ∧
    (hotC { Grove.empty with st := .paused, causes := 1 } 0).heatStops 0 = false ∧ (hotC { Grove.empty with st := .paused, causes := 1 } 1).heatStops 0 = true := by
  refine ⟨fun k hk => ?_, fun k hk => ?_, by decide +kernel⟩ <;>
    (match k, hk with
     | 0, _ => exact rC (by decide +kernel)
     | 1, _ => exact rC (by decide +kernel))

theorem witness_GrovePauseDrain :
    (let conf := fun (at_ : Word) (c : Chan) (d : Datagram) => groveNot [.running, .paused, .draining] c d ||
         (let v := c.grove 0
          at_.toNat ≠ pauseNow && (decide (at_.toNat < v.step) || (at_.toNat = v.step && v.begun)))
     (let ps : Bytes := [0, 0, 0, 0] ++ leBytes 4 0
      ReadyC (stateC (grvSt .running) .owner (cmdW 0 0x53 ps)) ⟨0, 0, 1, 0⟩ 0x53 [(0, 1, 0), (4, 4, (0 : Word).toNat)] (conf 0) (fun d => [badGrove d]) (cmdW 0 0x53 ps) ∧
        (0 : Word).toNat ≠ pauseNow) ∧
     (let ps : Bytes := [0, 0, 0, 0] ++ leBytes 4 0xFFFFFFFF
      ReadyC (stateC (grvSt .running) .owner (cmdW 0 0x53 ps)) ⟨0, 0, 1, 0⟩ 0x53 [(0, 1, 0), (4, 4, (0xFFFFFFFF : Word).toNat)] (conf 0xFFFFFFFF) (fun d => [badGrove d])
        (cmdW 0 0x53 ps) ∧ (0xFFFFFFFF : Word).toNat = pauseNow ∧ ((grvSt .running).grove 0).replay = false)) ∧
    (∀ st ∈ [GroveState.running, .paused, .draining], ReadyC (stateC (grvSt st) .owner (cmdW 0 0x55 [0, 0, 0, 0])) ⟨0, 0, 1, 0⟩ 0x55 [(0, 1, 0)]
       (groveNot [.running, .paused, .draining]) (fun d => [badGrove d]) (cmdW 0 0x55 [0, 0, 0, 0]) ∧ ((grvSt st).grove 0).st = st) := by
  refine ⟨⟨⟨rC (by decide +kernel), by decide⟩, rC (by decide +kernel), by decide, rfl⟩, fun st hst => ?_⟩
  simp only [List.mem_cons, List.not_mem_nil, or_false] at hst
  obtain rfl | rfl | rfl := hst <;> exact ⟨rC (by decide +kernel), rfl⟩

theorem witness_GroveStatusAndLoads :
    (let v : Grove := { Grove.empty with st := .running, ws := { GroveWs.reset with active := some 1 } }
     ReadyC (stateC (grvC v) .owner (cmdW 0 0x56 [0, 0, 0, 0])) ⟨0, 0, 1, 0⟩ 0x56 [(0, 1, 0)] (fun c _ => (c.grove 0).loading) (fun d => [badGrove d]) (cmdW 0 0x56 [0, 0, 0, 0]) ∧
       v.ws.active = some 1) ∧
    (let d := cmdW 0 0x50 (zeros 40)
     let c := accC (grvC { Grove.empty with loading := true }) 0x50 (zeros 40)
     c.acceptedCmd ⟨0, 0, 1, 0⟩ 0x50 = some d ∧ groveNums.find? (fun g => (c.grove g).loading && (c.grove g).loader = (d.queue, d.seq)) = some 0 ∧ c.st ≠ .faulted ∧
       (c.loadGrove ⟨fun _ => false, fun _ => [], []⟩ 0 (pAt d 0 4) (pAt d 4 4) (slice d.params 8 32)).1.1 = .digestFail ∧
       ({ c with st := .faulted } : Chan).acceptedCmd ⟨0, 0, 1, 0⟩ 0x50 = some d) :=
  ⟨⟨rC (by decide +kernel), rfl⟩, by decide +kernel⟩

theorem witness_LoadsElsewhere :
    ready0.acceptedCmd ⟨0, 0, 1, 0⟩ 0x50 = none ∧ groveNums.find? (fun g => (ready0.grove g).loading && (ready0.grove g).loader = (0, 0)) = none ∧
      ({ Grove.empty with st := .running } : Grove).ws.active = none ∧ ({ Grove.empty with replay := true } : Grove).replay = true := by decide +kernel

theorem witness_WeightSets :
    (let x : Source := ⟨0, 3, 1, 0, 0⟩
     let ps : Bytes := [0, 1, 0, 0] ++ leBytes 2 0 ++ leBytes 2 0 ++ zeros 4 ++ ([0, 3, 0, 0] ++ leBytes 4 1 ++ zeros 16) ++ ([0, 3, 0, 0] ++ leBytes 4 1 ++ zeros 16)
     ReadyC (stateC (grvSt .loaded) .owner (cmdW 0 0x70 ps)) ⟨0, 0, 1, 0⟩ 0x70 ([(0, 1, 0), (1, 1, 1), (4, 2, 0), (6, 2, 0)] ++ srcFields 12 x ++ srcFields 36 x)
       (fun c d => groveNot [.loaded, .running, .paused, .draining] c d || (c.grove 0).stageBlocked 1)
       (fun d => [badGrove d, badSlot d] ++ badSource 12 d ++ badSource 36 d) (cmdW 0 0x70 ps)) ∧
    (let w (st : SlotState) : Chan := accC (grvC { Grove.empty with st := .loaded, ws := { GroveWs.reset with slot0 := { WSlot.empty with st := st } } }) 0x70 (zeros 60)
     (∀ st ∈ [SlotState.empty, .staging], (w st).acceptedCmd ⟨0, 0, 1, 0⟩ 0x70 = some (cmdW 0 0x70 (zeros 60)) ∧
       (((w st).grove (pAt (cmdW 0 0x70 (zeros 60)) 0 1)).wslot (pAt (cmdW 0 0x70 (zeros 60)) 1 1)).st = st) ∧
     signatureOk (({ PortDie.reset with keys := [] } : PortDie).publisher []) [] = false) ∧
    (let v : Grove := { Grove.empty with st := .loaded, ws := { GroveWs.reset with slot0 := { WSlot.empty with st := .staged } } }
     ReadyC (stateC (grvC v) .owner (cmdW 0 0x73 [0, 0, 0, 0])) ⟨0, 0, 1, 0⟩ 0x73 [(0, 1, 0), (1, 1, 0)] (fun c d => groveNot [.loaded, .running, .paused, .draining] c d ||
       ((c.grove 0).wslot 0).st ≠ .staged || (c.grove 0).stageBlocked 0) (fun d => [badGrove d, badSlot d]) (cmdW 0 0x73 [0, 0, 0, 0])) ∧
    (let v : Grove := { Grove.empty with st := .faulted, ws := { GroveWs.reset with switch := some ⟨1, 7, 0⟩ } }
     ReadyC (stateC (grvC v) .owner (cmdW 0 0x72 [0, 0, 0, 0])) ⟨0, 0, 1, 0⟩ 0x72 [(0, 1, 0)] (groveNot [.loaded, .running, .paused, .draining, .faulted])
       (fun d => [badGrove d]) (cmdW 0 0x72 [0, 0, 0, 0]) ∧ v.ws.switch = some ⟨1, 7, 0⟩) :=
  ⟨rC (by decide +kernel), by decide +kernel, rC (by decide +kernel), rC (by decide +kernel), rfl⟩

theorem witness_Switches :
    (let v (st : GroveState) : Grove := { Grove.empty with st := st, ws := { GroveWs.reset with slot1 := { WSlot.empty with st := .staged } } }
     (∀ st ∈ [GroveState.loaded, .running],
       (let s := stateC (grvC (v st)) .owner (cmdW 0 0x71 [0, 1, 0, 0])
        ReadyC s ⟨0, 0, 1, 0⟩ 0x71 [(0, 1, 0), (1, 1, 1)] (fun c d => groveNot [.loaded, .running, .paused] c d || !(c.grove 0).canSwitch 1 ||
          !(true && s.membersAgree 0 0 1 && !s.hasSubscriber ((s.chan 0).grove 0).job) ||
          (decide (1 < (c.grove 0).members) && (c.grove 0).coord ≠ c.node)) (fun d => [badGrove d, badSlot d]) (cmdW 0 0x71 [0, 1, 0, 0]) ∧ (v st).members ≤ 1)) ∧
      (v .loaded).atRest = true ∧ (v .running).atRest = false) ∧
    ReadyC (stateC (grvSt .loaded) .owner (cmdW 0 0x74 [0, 0, 0, 0])) ⟨0, 0, 1, 0⟩ 0x74 [(0, 1, 0)] (groveNot [.loaded, .paused, .faulted]) (fun d => [badGrove d]) (cmdW 0 0x74 [0, 0, 0, 0]) ∧
    (let v : Grove := { Grove.empty with st := .running, kind := 1, coord := ready0.node }
     ReadyC (stateC (grvC v) .owner (cmdW 0 0x80 [0, 0, 0, 0])) ⟨0, 0, 1, 0⟩ 0x80 [(0, 1, 0)] (fun c d => groveNot [.loaded, .running, .paused, .draining, .faulted] c d ||
       (c.grove 0).kind ≠ 1 || (c.grove 0).coord ≠ c.node) (fun d => [badGrove d]) (cmdW 0 0x80 [0, 0, 0, 0])) ∧
    (ReadyC (stateC ready0 .owner (cmdW 0 0x81 [63, 0, 0, 0])) ⟨0, 0, 1, 0⟩ 0x81 [(0, 1, 63)] noConf (fun d => [(decide (64 ≤ pAt d 0 1), 0)]) (cmdW 0 0x81 [63, 0, 0, 0]) ∧
      bits 63 5 1 = 1) := by
  refine ⟨⟨fun st hst => ?_, by decide +kernel⟩, rC (by decide +kernel), rC (by decide +kernel), rC (by decide +kernel), by decide⟩
  simp only [List.mem_cons, List.not_mem_nil, or_false] at hst
  obtain rfl | rfl := hst <;> exact ⟨rC (by decide +kernel), by decide⟩

/-! ## Rings -/

/-- A ring directory of job 0 with one member: a header, an area of `size` blocks, and the member's state block. -/
def ringDir (size : Nat) : NMap Bytes :=
  [(0, leBytes 4 0x52444B50 ++ leBytes 2 1 ++ leBytes 2 0 ++ leBytes 2 1 ++ zeros 4086), (1, []), (17, leBytes 4 100 ++ leBytes 4 size), (18, stateBlock 100 6)]
def ringG (phase : Nat) : Grove := { Grove.empty with st := .paused, ring := { GroveRing.reset with phase := phase, point := some 3 } }

theorem witness_RingWrite :
    (let ps : Bytes := [0, 0, 3, 0] ++ leBytes 4 1 ++ leBytes 8 0
     ReadyC (stateC (grvC (ringG 0)) .owner (cmdW 0 0x90 ps)) ⟨0, 0, 1, 0⟩ 0x90 [(0, 1, 0), (1, 1, 0), (2, 1, 3), (4, 4, 1), (8, 8, 0)]
       (fun c d =>
         let v := c.grove 0
         groveNot [.loaded, .running, .paused, .draining] c d || (decide (1 < v.members) && v.coord ≠ c.node) || v.ring.phase ≠ 0 ||
           v.ring.point.isNone || (0 = 1 && !v.ring.deltaOk))
       (fun d => [badGrove d, (decide (1 < pAt d 1 1) || (0 = 1 && (grvC (ringG 0)).untracked 0), 1), (decide (4 ≤ pAt d 2 1), 2)]) (cmdW 0 0x90 ps)) ∧
    dirBad [] (ringG 0) = some .hwFault ∧ dirBad (ringDir 10) (ringG 0) = none ∧
    memberArea (ringDir 10) (ringG 0).count ((grvC (ringG 0)).memberIdx 0) = some ⟨100, 10, 100, 6⟩ ∧ (ringG 0).members ≤ 1 :=
  ⟨rC (by decide +kernel), by decide +kernel⟩

/-- Channel 0 with grove 0 of job 5 and its ring so, the other generation clean or not, and a state range of one line at line 32. -/
def ringC (r : GroveRing) (clean : Nat) (poison : List Nat) : Chan :=
  (({ chanW .running [] with
    groves := [(0, { Grove.empty with st := .running, job := 5, ring := r })], poison := poison
    hbm := cellWrite (cellWrite [] 1024 [1]) 1088 ([7, 0, 0, 0] ++ leBytes 4 32 ++ leBytes 4 64) } : Chan).setFld F.HBM_STATUS_OTHER_CLEAN clean).setFld
      (F.CKP_GRV_RANGES_LINE.sh 0) 16

theorem witness_RingCapture :
    (let c := ringC GroveRing.reset 1 []
     (c.takeCtl (.ringBegin 5 3 0 1 0 0 0 0 0)).groveOfJob 5 = some 0 ∧ ((c.takeCtl (.ringBegin 5 3 0 1 0 0 0 0 0)).grove 0).st ≠ .faulted ∧
       ((c.takeCtl (.ringBegin 5 3 0 1 0 0 0 0 0)).grove 0).ring.phase = 0) ∧
    (let r : GroveRing := { GroveRing.reset with phase := 1, ring := 3, due := true }
     (((ringC r 1 []).grove 0).ring.phase = 1 ∧ ((ringC r 1 []).grove 0).ring.due = true ∧ (ringC r 1 []).fld F.HBM_STATUS_OTHER_CLEAN ≠ 0 ∧
       (ringC r 0 []).fld F.HBM_STATUS_OTHER_CLEAN = 0) ∧
     ((ringC r 1 [32]).flipFold 0).capturePoisoned 0 = true ∧ ((ringC r 1 []).flipFold 0).capturePoisoned 0 = false) ∧
    ((ringC { GroveRing.reset with phase := 2 } 1 []).grove 0).ring.phase = 2 := by decide +kernel

/-- The coordinator of a one-member grove, with one shard captured. -/
def capW : RingCap := ⟨3, 7, 0, 0, (0, 0), 0, 0, zeros 64, [0]⟩
def ringS (phase : Nat) (done : List Nat) : Chan := ringC { GroveRing.reset with phase := phase, ring := 3, attempt := 7, leads := true, done := done, caps := [capW] } 1 []

theorem witness_RingShards :
    (let c := ringS 3 []
     let r := (c.grove 0).ring
     (r.phase = 3 ∧ r.done.contains (c.memberIdx 0) = false ∧ r.written = 0 ∧ r.leads = true ∧ c.linkLost = false) ∧
       memberArea (ringDir 1) (c.grove 0).count (c.memberIdx 0) = some ⟨100, 1, 100, 6⟩ ∧ memberArea (ringDir 2) (c.grove 0).count (c.memberIdx 0) = some ⟨100, 2, 100, 6⟩ ∧
       (layShards r 5 0 100 r.caps).1.length / 4096 = 2) ∧
    (let c := ringS 3 [0]
     (c.grove 0).ring.leads = true ∧ (c.grove 0).ring.phase = 3 ∧ (c.grove 0).ring.done.contains (c.memberIdx 0) = true) := by decide +kernel

/-- A full ring table. -/
def fullDir : NMap Bytes := ((List.range 16).map (fun k => (k + 1, (List.replicate 64 ([1] ++ zeros 63)).flatten))) ++ [(17, leBytes 4 100), (18, stateBlock 100 6)]

theorem witness_RingCommitFull : ((ringS 4 [0]).grove 0).ring.phase = 4 ∧ ((ringS 4 [0]).grove 0).ring.leads = true ∧
    memberArea fullDir ((ringS 4 [0]).grove 0).count ((ringS 4 [0]).memberIdx 0) = some ⟨100, 0, 100, 6⟩ ∧ (∀ i < 1024, (entryAt fullDir i).isSome) := by decide +kernel

theorem manifest_length (c : Chan) (g : Nat) (h1 : (c.grove g).members ≤ 1) (h2 : (c.grove g).ring.shards = []) (h3 : (c.grove g).ring.table = []) :
    (c.manifestOf g).length ≤ 8192 := by
  unfold Chan.manifestOf
  extract_lets v r rows es body
  have hb : rows.length = 8 := by
    simp only [rows, Chan.memberNodes, h1, if_true, List.flatMap_cons, List.flatMap_nil, List.append_nil, List.length_append, leBytes_length, zeros_length]
  have he : es = [] := by simp [es, r, v, h2]
  have ht : r.table = [] := h3
  simp only [body, List.length_append, hb, he, ht, leBytes_length, zeros_length, slice_length, List.length_cons, List.length_nil, List.flatMap_nil]
  omega

theorem manifest_blocks {c : Chan} {g : Nat} (h : (c.grove g).members ≤ 1 ∧ (c.grove g).ring.shards = [] ∧ (c.grove g).ring.table = []) :
    100 + blocksFor (c.manifestOf g).length ≤ 100 + 2 := by
  have := manifest_length c g h.1 h.2.1 h.2.2
  simp only [blocksFor]
  omega

theorem witness_RingCommit :
    let c := ringS 4 [0]
    memberArea (ringDir 2) (c.grove 0).count (c.memberIdx 0) = some ⟨100, 2, 100, 6⟩ ∧ (List.range 1024).find? (fun i => (entryAt (ringDir 2) i).isNone) = some 0 ∧
      (fsBlock (ringDir 2) (1 + 0 / 64)).isSome = true ∧
      100 + blocksFor (c.manifestOf 0).length ≤ 100 + 2 ∧ (c.grove 0).members ≤ 1 :=
  ⟨by decide +kernel, by decide +kernel, by decide +kernel,
    manifest_blocks ⟨by decide +kernel, rfl, rfl⟩, by decide +kernel⟩

/-- Two-member grove's ring, gathering at its coordinator, with list 0 of member 1 received; and a follower's. -/
def gatherC (leads : Bool) (phase : Nat) : Chan :=
  { chanW .running [] with groves := [(0, { Grove.empty with st := .running, job := 5, members := 2, ring := { GroveRing.reset with phase := phase, ring := 3, attempt := 7, leads := leads, lists := [(1, 0)] } })] }

theorem witness_RingMessages :
    (let c := (gatherC true 3).takeFrame (fun f => f.typ = 0x06 && f.job = 5 && f.step = 3 && f.mb = 1 && f.shard = 1)
     let r := (c.grove 0).ring
     c.groveOfJob 5 = some 0 ∧ r.leads = true ∧ 1 ≤ r.phase ∧ r.phase < 4 ∧ r.done.contains 1 = false ∧ r.ring = 3 ∧ r.lists.contains (1, 1) = false ∧
       (∀ i < 1, r.lists.contains (1, i) = true) ∧ r.lists.contains (1, 2) = false ∧ (∃ i < 2, r.lists.contains (1, i) = false)) ∧
    (let c := (gatherC true 3).takeCtl (.ringFail 5 7 0 0)
     c.groveOfJob 5 = some 0 ∧ (c.grove 0).ring.leads = true ∧ (c.grove 0).ring.phase = 3 ∧ (c.grove 0).ring.attempt = 7) ∧
    (let c := (gatherC false 3).takeCtl (.ringAbort 5 7)
     c.groveOfJob 5 = some 0 ∧ (c.grove 0).ring.leads = false ∧ (c.grove 0).ring.phase = 3 ∧ (c.grove 0).ring.attempt = 7) ∧
    (let c := (gatherC false 3).takeCtl (.ringDone 5 3 7)
     c.groveOfJob 5 = some 0 ∧ (c.grove 0).ring.leads = false ∧ (c.grove 0).ring.phase = 3 ∧ (c.grove 0).ring.ring = 3 ∧ (c.grove 0).ring.attempt = 7) := by decide +kernel

theorem witness_RestoreCommands :
    (let ps : Bytes := [0, 0, 3, 0] ++ leBytes 4 1 ++ leBytes 8 0 ++ leBytes 4 0xFFFFFFFF
     ReadyC (stateC (grvSt .loaded) .owner (cmdW 0 0x91 ps)) ⟨0, 0, 1, 0⟩ 0x91 (ringFields 0 3 1 0 ++ [(16, 4, 0xFFFFFFFF)])
       (fun c d =>
         let v := c.grove 0
         groveNot [.loaded] c d || (decide (1 < v.members) && v.coord ≠ c.node) || v.ring.phase ≠ 0) badRing (cmdW 0 0x91 ps) ∧ ((grvSt .loaded).grove 0).members ≤ 1) ∧
    (let ps : Bytes := [0, 0, 3, 0] ++ leBytes 4 1 ++ leBytes 8 0
     ReadyC (stateC (grvSt .faulted) .owner (cmdW 0 0x92 ps)) ⟨0, 0, 1, 0⟩ 0x92 (ringFields 0 3 1 0) (groveNot ringLooks) badRing (cmdW 0 0x92 ps) ∧
     ReadyC (stateC (grvSt .faulted) .owner (cmdW 0 0x93 ps)) ⟨0, 0, 1, 0⟩ 0x93 (ringFields 0 3 1 0) (groveNot ringLooks) badRing (cmdW 0 0x93 ps)) ∧
    (∀ x ∈ [0x92, 0x93], (accC (grvSt .loaded) x (zeros 16)).acceptedCmd ⟨0, 0, 1, 0⟩ x = some (cmdW 0 x (zeros 16)) ∧
      dirBad [] ((grvSt .loaded).grove (pAt (cmdW 0 x (zeros 16)) 0 1)) = some .hwFault ∧ dirBad (ringDir 2) ((grvSt .loaded).grove (pAt (cmdW 0 x (zeros 16)) 0 1)) = none) :=
  ⟨⟨rC (by decide +kernel), by decide⟩, ⟨rC (by decide +kernel), rC (by decide +kernel)⟩, by decide +kernel⟩

/-- Grove 0 of job 5 in a restore. -/
def restC (installed leads : Bool) (reports : List (Nat × Nat × List Nat)) : Chan :=
  ({ chanW .running [] with groves := [(0, { Grove.empty with st := .loaded, job := 5, ring := { GroveRing.reset with phase := 5, installed := installed, leads := leads, reports := reports } })] } : Chan).setFld F.HBM_STATUS_OTHER_CLEAN 1

theorem witness_Restores :
    (∀ st ∈ [GroveState.loaded, .running],
      (let c := ({ chanW .running [] with groves := [(0, { Grove.empty with st := st, job := 5 })] } : Chan).takeCtl (.restoreBegin 5 3 7 0 0 0)
       c.groveOfJob 5 = some 0 ∧ (c.grove 0).st = st ∧ (c.grove 0).ring.phase = 0)) ∧
    (let c := (restC false true []).takeFrame (fun f => f.typ = 0x06 && f.job = 5 && f.tensor = 0 && f.payload = .raw [])
     c.groveOfJob 5 = some 0 ∧ (c.grove 0).ring.phase = 5 ∧ (c.grove 0).ring.installed = false) ∧
    (let c := restC false true []
     let took := c.takeFrame (fun f => f.src = ((c.memberNodes 0)[0]?).getD 0xFFFF && f.payload = .ctl (.restoreReport 5 0 []))
     c.groveOfJob 5 = some 0 ∧ took.groveOfJob 5 = some 0 ∧ (took.grove 0).ring.phase = 5 ∧ (took.grove 0).ring.leads = true ∧
       (took.grove 0).ring.reports.any (fun x => x.1 = 0) = false) ∧
    ((restC false false []).partsHere 0 = true ∧ (restC false true [(0, 0, [])]).partsHere 0 = true ∧ ((restC false true [(0, 0, [])]).gathered 0).1 = true) ∧
    ((restC true true []).writtenBack 0 = true ∧ (restC true true []).fld F.HBM_STATUS_OTHER_CLEAN = 1) ∧
    (let c : Chan := { restC true true [] with groves := [(0, { Grove.empty with st := .loaded, job := 5, update := { GroveUpdate.reset with chunks := [⟨0, [], 0, []⟩] }, ring := { GroveRing.reset with phase := 5, installed := true } })] }
     c.writtenBack 0 = false ∧ (c.grove 0).ring.phase = 5 ∧ (c.grove 0).ring.installed = true) := by decide +kernel

theorem witness_RingsElsewhere :
    (let c := ringC GroveRing.reset 1 []
     (c.takeCtl (.ringDone 9 3 7)).groveOfJob 9 = none ∧ (c.grove 0).ring.phase ≠ 1 ∧ (c.grove 0).ring.phase ≠ 2 ∧ (c.grove 0).ring.phase ≠ 3 ∧ (c.grove 0).ring.leads = false) ∧
    ((ringS 3 [0]).grove 0).ring.done.contains 0 = true ∧ memberArea [] 1 0 = none ∧ fsBlock [] 1 = none ∧ ready0.acceptedCmd ⟨0, 0, 1, 0⟩ 0x92 = none ∧
    (let c := (gatherC false 5).takeCtl (.ringAbort 5 7)
     c.groveOfJob 5 = some 0 ∧ (c.grove 0).ring.leads = false ∧ (c.grove 0).ring.phase = 5 ∧ (c.grove 0).ring.attempt = 7) ∧
    (restC false true []).partsHere 0 = true ∧ ((restC false true []).gathered 0).1 = false := by decide +kernel

/-! ## Power, key and diagnostic commands -/

/-- The module with some port die, which has powered up and holds the command. -/
def pdX (r : Role) (op : Nat) (params : Bytes) (f : PortDie → PortDie) : State := { State.reset with pd := f (pdM r (cmdW 0xFF op params)) }

theorem witness_PowerAndLogs :
    ReadyM (stateR .tenant 0xA2 []) ⟨0xFF, 0, 1, 0⟩ 0xA2 [] false (fun _ => []) (cmdW 0xFF 0xA2 []) ∧
    ReadyC (stateC ready0 .tenant (cmdW 0 0xA2 [])) ⟨0, 0, 1, 0⟩ 0xA2 [] noConf (fun _ => []) (cmdW 0 0xA2 []) ∧
    ReadyC (stateC ready0 .tenant (cmdW 0 0xA3 [])) ⟨0, 0, 1, 0⟩ 0xA3 [] noConf (fun _ => []) (cmdW 0 0xA3 []) ∧
    (let ps := leBytes 4 0xFFFFFFFF ++ leBytes 2 255 ++ zeros 2
     ReadyC (stateC ready0 .owner (cmdW 0 0xC1 ps)) ⟨0, 0, 1, 0⟩ 0xC1 [(0, 4, (0xFFFFFFFF : Word).toNat), (4, 2, 255)] noConf
       (fun d => [(decide (pAt d 4 2 = 0 ∨ 255 < pAt d 4 2), 4)]) (cmdW 0 0xC1 ps) ∧
     ReadyM (stateR .owner 0xC1 ps) ⟨0xFF, 0, 1, 0⟩ 0xC1 [(0, 4, (0xFFFFFFFF : Word).toNat), (4, 2, 255)] false
       (fun d => [(decide (pAt d 4 2 = 0 ∨ 255 < pAt d 4 2), 4)]) (cmdW 0xFF 0xC1 ps)) ∧
    (let ps := leBytes 4 (dmapSize - 8176) ++ leBytes 2 8176 ++ zeros 2
     ReadyC (stateC ready0 .owner (cmdW 0 0xC2 ps)) ⟨0, 0, 1, 0⟩ 0xC2 [(0, 4, dmapSize - 8176), (4, 2, 8176)] noConf (fun d =>
       [(decide (dmapSize ≤ pAt d 0 4), 0), (decide (pAt d 4 2 = 0 ∨ 8176 < pAt d 4 2 ∨ dmapSize < pAt d 0 4 + pAt d 4 2), 4)]) (cmdW 0 0xC2 ps)) :=
  ⟨rM .tenant rfl (by decide +kernel), rC (by decide +kernel), rC (by decide +kernel), ⟨rC (by decide +kernel), rM .owner rfl (by decide +kernel)⟩, rC (by decide +kernel)⟩

theorem witness_Caps :
    (let ps := leBytes 4 24000
     let cap (s : State) := ((s.begunM (cmdW 0xFF 0xA0 ps)).pdRmw R.TH_MOD_HOST_CAP 0xFFFF (BitVec.ofNat 32 24000)).2.strobeMg 2
     let bad : PortDie → PortDie := fun p => { p with bank := { p.bank with badStaged := [R.TH_MOD_ORPHAN] } }
     (∀ f : PortDie → PortDie, (f = id ∨ f = bad) → ReadyM (pdX .owner 0xA0 ps f) ⟨0xFF, 0, 1, 0⟩ 0xA0 [(0, 4, 24000)] false
       (fun d => [(decide (24000 < pAt d 0 4), 0)]) (cmdW 0xFF 0xA0 ps)) ∧
       (cap (pdX .owner 0xA0 ps id)).1.1 = .ok ∧ (cap (pdX .owner 0xA0 ps bad)).1.1 ≠ .ok ∧
     ReadyM (stateR .owner 0xA1 ps) ⟨0xFF, 0, 1, 0⟩ 0xA1 [(0, 4, 24000)] false
       (fun d => [(decide (pAt d 0 4 < (stateR .owner 0xA1 ps).floorW ∨ 24000 < pAt d 0 4), 0)]) (cmdW 0xFF 0xA1 ps)) := by
  refine ⟨fun f hf => ?_, by decide +kernel, by decide +kernel, rM .owner rfl (by decide +kernel)⟩
  obtain rfl | rfl := hf <;> exact rM .owner rfl (by decide +kernel)

theorem leNat_leBytes (k n : Nat) : leNat (leBytes k n) = n % 256 ^ k := by
  induction k generalizing n with
  | zero => simp [leBytes, leNat, Nat.mod_one]
  | succ k ih => rw [leBytes, leNat, ih, BitVec.toNat_ofNat, Nat.pow_succ 256 k, Nat.mul_comm (256 ^ k) 256, Nat.mod_mul]

/-- A host key's record with a counter. -/
def keyHead (counter : Nat) : Bytes := leBytes 4 0x524B4B50 ++ [1, 0, 255, 0] ++ leBytes 4 counter
def keyRecW (counter : Nat) : Bytes := keyHead counter ++ (leBytes 8 Config.serial.toNat ++ zeros 3092)

theorem keyRec_serial (n : Nat) : leAt (keyRecW n) 12 8 = Config.serial.toNat := by
  have h1 : (keyRecW n).drop 12 = leBytes 8 Config.serial.toNat ++ zeros 3092 := List.drop_left' rfl
  have h2 : (leBytes 8 Config.serial.toNat ++ zeros 3092).take 8 = leBytes 8 Config.serial.toNat := List.take_left' rfl
  rw [leAt, slice]
  simp only [h1, h2, leBytes_length, Nat.sub_self]
  rw [zeros, List.replicate_zero, List.append_nil, leNat_leBytes]
  exact Nat.mod_eq_of_lt Config.serial.isLt

theorem keyRec_fields : ∀ n < 2, leAt (keyRecW n) 0 4 = 0x524B4B50 ∧ leAt (keyRecW n) 4 1 = 1 ∧ leAt (keyRecW n) 5 1 = 0 ∧ leAt (keyRecW n) 6 1 = 255 ∧
    leAt (keyRecW n) 7 1 = 0 ∧ leAt (keyRecW n) 8 4 = n ∧ leAt (keyRecW n) 1813 3 = 0 := by decide +kernel

theorem witness_KeyAdd :
    (∀ n < 2, ReadyM (pdX .owner 0xB1 (keyRecW n) (fun p => { p with keys := [] })) ⟨0xFF, 0, 1, 0⟩ 0xB1 [opBytes 0 3112 (keyRecW n)] false
      (fun d => badKeyRecord d.params) (cmdW 0xFF 0xB1 (keyRecW n)) ∧ leAt (keyRecW n) 8 4 = n) ∧
    (pdX .owner 0xB1 [] (fun p => { p with keys := [] })).pd.fld F.SEC_KEY_COUNTER_COUNTER = 0 ∧
    (∀ f, (pdX .owner 0xB1 [] (fun p => { p with keys := [] })).pd.keyFor f = none) := by
  refine ⟨fun n hn => ?_, by decide +kernel, fun _ => rfl⟩
  obtain ⟨a, b, c, e, f, h, g⟩ := keyRec_fields n hn
  have hb : (badKeyRecord (keyRecW n)).filter (·.1) = [] := by simp [badKeyRecord, keyRec_serial, a, b, c, e, f, g]
  refine ⟨readyM_of _ .owner _ _ _ _ _ rfl ?_ ?_ rfl, h⟩
  · simp only [isFor, cmdW, opBytes, leAt, List.all_cons, List.all_nil, decide_true, Bool.and_self]
  · simp only [badOffset, cmdW, hb]
    rfl

theorem witness_Keys :
    (let k : KeyRec := ⟨0, 0, 0xFF, [1]⟩
     let ps := fprOf [1] ++ zeros 1280
     let s := pdX .owner 0xB2 ps (fun p => { p with keys := [k] })
     ReadyM s ⟨0xFF, 0, 1, 0⟩ 0xB2 [opBytes 0 16 (fprOf [1]), opBytes 16 1280 (zeros 1280)] false (fun _ => []) (cmdW 0xFF 0xB2 ps) ∧
       s.pd.keyFor (slice ps 0 16) = some k) ∧
    ReadyM (stateR .owner 0xB3 []) ⟨0xFF, 0, 1, 0⟩ 0xB3 [] false (fun _ => []) (cmdW 0xFF 0xB3 []) ∧
    (let s := pdX .owner 0xB0 (zeros 32) (fun p => { p with services := [0, 0, 0] })
     ReadyM s ⟨0xFF, 0, 1, 0⟩ 0xB0 [opBytes 0 32 (zeros 32)] (decide (s.pd.services.getD 0 0xFF = 0xFF)) (fun _ => []) (cmdW 0xFF 0xB0 (zeros 32))) ∧
    (let ps : Bytes := [3, 2, 0, 0]
     ReadyM (stateR .owner 0xB4 ps) ⟨0xFF, 0, 1, 0⟩ 0xB4 [(0, 1, 3), (1, 1, 2)] false (fun d => [(decide (4 ≤ pAt d 0 1), 0), (decide (3 ≤ pAt d 1 1), 1)])
       (cmdW 0xFF 0xB4 ps)) :=
  ⟨⟨rM .owner rfl (by decide +kernel), by decide +kernel⟩, rM .owner rfl (by decide +kernel), rM .owner rfl (by decide +kernel), rM .owner rfl (by decide +kernel)⟩

/-- The module with a session of a role, whose keys see the channels of a mask, and the cell's link. -/
def meterS (r : Role) (mask op : Nat) (params : Bytes) (link : Bool) : State :=
  { State.reset with pd := { pdM r (cmdW 0xFF op params) with sessions := [{ sesW r with mask := mask, queue := { Queue.fresh with owner := some 1, waiting := [cmdW 0xFF op params] } }] }, cell := { Cell.reset with link := link } }

theorem witness_Metering :
    (let ps : Bytes := [255, 0, 0, 0] ++ zeros 32
     (∀ l, ReadyM (meterS .owner 255 0xB5 ps l) ⟨0xFF, 0, 1, 0⟩ 0xB5 [(0, 1, 255), opBytes 4 32 (zeros 32)] false (fun _ => []) (cmdW 0xFF 0xB5 ps)) ∧
       (∀ c < 8, (meterS .owner 255 0xB5 ps true).maySee (cmdW 0xFF 0xB5 ps) c = true) ∧ (∀ l, (meterS .owner 255 0xB5 ps l).cell.link = l)) ∧
    (let ps : Bytes := [128, 0, 0, 0] ++ zeros 32
     let s := meterS .tenant 127 0xB5 ps true
     s.modHead ⟨0xFF, 0, 1, 0⟩ 0xB5 [(0, 1, 128), opBytes 4 32 (zeros 32)] = some (cmdW 0xFF 0xB5 ps) ∧ bits 128 7 1 = 1 ∧ s.maySee (cmdW 0xFF 0xB5 ps) 7 = false) ∧
    (∀ l, ReadyM (meterS .owner 255 0xB6 [] l) ⟨0xFF, 0, 1, 0⟩ 0xB6 [] false (fun _ => []) (cmdW 0xFF 0xB6 [])) :=
  ⟨⟨fun _ => rM .owner rfl (by decide +kernel), by decide +kernel, fun _ => rfl⟩, by decide +kernel, fun _ => rM .owner rfl (by decide +kernel)⟩

/-- Channel `i` in BRINGUP, held, with command `op` accepted. -/
def bistC (op : Nat) (params : Bytes) : Chan := accC ((chanW .bringup []).setFld F.CTL_BRINGUP_HELD 1) op params

theorem witness_Tests :
    ReadyC (stateC ((chanW .bringup []).setFld F.CTL_BRINGUP_HELD 1) .owner (cmdW 0 0xC0 [1, 0, 0, 0])) ⟨0, 0, 1, 0⟩ 0xC0 [(0, 1, 1)]
      (fun c _ => c.fld F.CTL_BRINGUP_HELD ≠ 1) (fun d => [(decide (2 ≤ pAt d 0 1), 0)]) (cmdW 0 0xC0 [1, 0, 0, 0]) ∧
    (let ps : Bytes := [4, 1, 0, 0] ++ leBytes 4 10
     ReadyC (stateC ready0 .owner (cmdW 0 0xC3 ps)) ⟨0, 0, 1, 0⟩ 0xC3 [(0, 1, 4), (1, 1, 1), (4, 4, 10)] noConf
       (fun d => [(!hasIf 0 (pAt d 0 1), 0), (decide (2 ≤ pAt d 1 1), 1)]) (cmdW 0 0xC3 ps)) ∧
    (let ps : Bytes := [7, 0, 0, 0] ++ zeros 8
     ReadyM (stateR .owner 0xC4 ps) ⟨0xFF, 0, 1, 0⟩ 0xC4 [(0, 1, 7), (4, 4, 0), (8, 4, 0)] false (fun d => [(decide (8 ≤ pAt d 0 1), 0)]) (cmdW 0xFF 0xC4 ps)) ∧
    ((bistC 0xC0 [0]).acceptedCmd ⟨0, 0, 1, 0⟩ 0xC0 = some (cmdW 0 0xC0 [0]) ∧ (bistC 0xC0 [0]).st = .bringup ∧ anchor 0 = true ∧ ((bistC 0xC0 [0]).refine [] []).bands ≠ 0 ∧
      (bistC 0xC3 []).acceptedCmd ⟨0, 0, 1, 0⟩ 0xC3 = some (cmdW 0 0xC3 [])) ∧
    (let s : State := { State.reset with pd := { pdM .owner (cmdW 0xFF 0xC4 []) with sessions := [{ sesW .owner with queue := { Queue.fresh with owner := some 1, accepted := [cmdW 0xFF 0xC4 (zeros 12)] } }] } }
     s.acceptedM ⟨0xFF, 0, 1, 0⟩ 0xC4 = some (cmdW 0xFF 0xC4 (zeros 12)) ∧ (s.chan 0).poison = []) :=
  ⟨rC (by decide +kernel), rC (by decide +kernel), rM .owner rfl (by decide +kernel), by decide +kernel, by decide +kernel⟩

/-- Routers of three rows of field 0 fail. -/
def badRows : List (Nat × Nat) := [(0, 0), (0, 1), (0, 2)]

theorem witness_BistFails : ((bistC 0xC0 [0]).refine [] badRows).bands = 0 ∧ anchor 1 = false ∧ (({ bistC 0xC0 [0] with idx := 1 } : Chan).refine [] badRows).fits = false ∧
    (({ bistC 0xC0 [0] with idx := 1 } : Chan).refine [] []).fits = true := by decide +kernel

theorem witness_Pmbus :
    (stateW ready0).pmLive = true ∧ (stateW ready0).statusWordOf ≠ 0 ∧ State.reset.pmLive = false ∧ pmCodes.contains (0x04 : Byte).toNat = false ∧
    ofLinear11 0x0400 = none ∧ ofLinear11 0xFBFF = some 33521664 := by decide +kernel

theorem witness_NothingAccepted :
    (bistC 0xC3 []).acceptedCmd ⟨0, 0, 1, 0⟩ 0xC0 = none ∧ (bistC 0xC0 []).acceptedCmd ⟨0, 0, 1, 0⟩ 0xC3 = none ∧
    State.reset.acceptedM ⟨0xFF, 0, 1, 0⟩ 0xC4 = none ∧ (8 : Nat) ≤ (⟨8, 0, 1, 0⟩ : Issue).channel := by decide +kernel

/-- An image of two lines from line 3 on is lost where line 4 reads uncorrectable, and line 5 is no line of it. -/
theorem witness_UpdateLost :
    (∃ l ∈ ([4] : List Nat), 3 ≤ l ∧ 64 * l < 64 * 3 + 128) ∧ ¬ ∃ l ∈ ([5] : List Nat), 3 ≤ l ∧ 64 * l < 64 * 3 + 128 := by decide +kernel

theorem witness_NoSuchKey : (pdX .owner 0xB2 [] (fun p => { p with keys := [] })).pd.keyFor (zeros 16) = none := rfl

theorem witness_PmbusQuiet :
    (let s : State := { State.reset with pd := { PortDie.reset with powered := true, boot := 4, power := { ModPower.reset with vin := 48000, regOff := false } } }
     s.pmLive = true ∧ s.statusWordOf = 0) ∧ pmCodes.contains (0x88 : Byte).toNat = true := by decide +kernel

/-! ## Power, heat, resets, alarms and the cell -/

/-- Channel 0 with its latest readings and field temperatures. -/
def heatC (st : ChState) (spots temps : List Int) (hot : List Nat) (trim : Option Nat) : Chan :=
  { chanW st [] with power := { ChanPower.reset with spots := spots, temps := temps, hot := hot, trim := trim } }
/-- A powered module whose supply stands at a voltage. -/
def suppS (mv : Nat) (c : Chan) : State :=
  { State.reset with chans := [(0, c)], pd := { PortDie.reset with powered := true, boot := 4, power := { ModPower.reset with vin := mv, regOff := false } } }

theorem witness_Limiter : (stateW (chanW .running [])).causeSet 1 = false ∧ ((stateW (chanW .running [])).chan 0).down = false ∧
    ((stateW (chanW .frozen [])).chan 0).st = .frozen ∧ ((stateW (chanW .bringup [])).chan 0).st = .bringup := by decide +kernel

theorem witness_Supply :
    ((suppS 58000 ready0).pd.powered = true ∧ (20000 : Nat) ≤ 20000 ∧ (suppS 58000 ready0).pd.power.vin ≤ 58000) ∧ (44000 ≤ (suppS 44000 ready0).pd.power.vin) ∧
    ((suppS 43999 ready0).pd.power.vin < 44000 ∧ ((suppS 43999 (chanW .bringup [])).chan 0).st = .bringup ∧ ((suppS 43999 ready0).chan 0).st = .ready) ∧
    (suppS 44999 ready0).pd.power.vin < 45000 ∧ 45000 ≤ (suppS 45000 ready0).pd.power.vin ∧
    (({ ModPower.reset with pmbusCap := some 1 } : ModPower).pmbusCap.isSome ∧ ({ ModPower.reset with pmbusCap := some 1 } : ModPower).orphan = false) ∧
    (suppS 0 ready0).pd.power.pmbusCap = none := by decide +kernel

theorem witness_TempSample :
    (let c := heatC .running [] [] [] none
     let f (t : Int) : Chan :=
       let c1 := c.sampleTemps (List.replicate 48 t)
       ({ c1 with power := { c1.power with window := ((c1.fieldTemps, c1.fld F.TH_POWER_POWER) :: c1.power.window).take 11 } } : Chan).fieldsReturn
     (f 1599).fieldTemps.any (fun t => decide (1600 ≤ t)) = false ∧ suddenRise (f 1599).power.window 32 = false ∧ (f 1600).fieldTemps.any (fun t => decide (1600 ≤ t)) = true) ∧
    (suppS 48000 ready0).flowLost = false ∧ (suppS 48000 ready0).pd.power.coolant = false ∧ (suppS 48000 ready0).pd.power.regOff = false := by decide +kernel

theorem witness_Sensors :
    (let c := heatC .running [] ([1000, 1065] ++ List.replicate 46 1000) [] none
     c.suspect 0 = false ∧ c.suspect 1 = false ∧ 64 < pairGap c.power.temps 0 ∧ c.power.hot.contains 0 = false) ∧
    (let c := heatC .running (List.replicate 24 1000) ([1000, 1065] ++ List.replicate 46 1000) [0] none
     c.power.hot.contains 0 = true ∧
       (6 * (pairAt c.power.temps 0).1 - c.reference6 0 0 1000).natAbs < (6 * (pairAt c.power.temps 0).2 - c.reference6 0 0 1000).natAbs ∧
       (6 * (pairAt c.power.temps 0).2 - c.reference6 0 0 1130).natAbs < (6 * (pairAt c.power.temps 0).1 - c.reference6 0 0 1130).natAbs) ∧
    ((0 : Int) ≤ 1280 ∧ (1280 : Int) ≤ 1280) ∧ ((1280 : Int) < 1281 ∧ (-1 : Int) < 0) := by decide +kernel

theorem witness_TrimAndGate :
    (let c := ((heatC .running [] [] [] none).setFld F.TH_POWER_POWER 1000)
     c.down = false ∧ 1000 ≤ c.fld F.TH_POWER_POWER) ∧
    (∃ t ∈ (heatC .running (List.replicate 24 1521) [] [] none).fieldTemps, 1520 < t) ∧
    (let c := heatC .running (List.replicate 24 1488) [] [] (some 3800)
     c.down = false ∧ (∀ x ∈ c.fieldTemps, x ≤ 1488) ∧ c.power.trim = some 3800) ∧
    (let c : Chan := { heatC .running (List.replicate 24 1521) [] [] none with tiles := [(0, { Tile.reset with slot := some ⟨0, 0, 0, 0⟩ })], groves := [(0, { Grove.empty with st := .running })] }
     1520 < c.fieldTemps.getD 0 0 ∧ bits (c.fld F.TH_TJ_STOPPED) 0 1 = 0 ∧ (c.tilesOf 0).any (fun i => fieldOf i = 0) = true ∧ (c.grove 0).replay = false ∧ (c.grove 0).st = .running) := by
  decide +kernel

theorem witness_Coolant :
    (let p (en : Nat) (k : Bool) : PortDie := ({ PortDie.reset with powered := true, power := { ModPower.reset with coolant := k } } : PortDie).setFld F.TH_MOD_CFG_FLOW_EN en
     ((p 1 false).powered = true ∧ (p 1 false).fld F.TH_MOD_CFG_FLOW_EN = 1 ∧ (p 1 false).power.coolant = false) ∧ (p 0 false).fld F.TH_MOD_CFG_FLOW_EN = 0 ∧
       (p 1 true).power.coolant = true) := by decide +kernel

theorem witness_PowerOnResets :
    State.reset.pd.powered = false ∧ (suppS 0 ready0).pd.powered = true ∧
    (let p : PortDie := { PortDie.reset with powered := true, boot := 1 }
     p.powered = true ∧ p.boot = 1 ∧ p.resetPin = false) ∧
    (let p : PortDie := { PortDie.reset with powered := true, boot := 3 }
     p.running = true ∧ p.boot = 3) ∧
    (let p : PortDie := { PortDie.reset with powered := true, resetPin := true }
     p.powered = true ∧ p.resetPin = true) := by decide +kernel

/-- Channel 0 in BRINGUP at a step. -/
def stepC (n : Nat) : Chan := (chanW .bringup []).setFld F.CTL_BRINGUP_STEP n

theorem witness_BringUp :
    (let s : State := { State.reset with pd := ({ PortDie.reset with powered := true, boot := 4, power := { ModPower.reset with okSince := some 0 } } : PortDie).setFld F.PD_FW_RECOVERY 0 }
     s.pd.running = true ∧ s.pd.locked = false ∧ s.pd.fld F.PD_FW_RECOVERY = 0 ∧ bits (s.pd.reg R.PD_CH_ENABLE).toNat 7 1 = 1 ∧ (s.chan 7).st = .off ∧
       s.pd.power.okSince.isSome ∧ s.pd.power.ovHold = false) ∧
    (∀ n ∈ [1, 2, 4, 5, 10], (stepC n).st = .bringup ∧ (stepC n).fld F.CTL_BRINGUP_HELD ≠ 1 ∧ (stepC n).fld F.CTL_BRINGUP_STEP = n) ∧
    (slice [1] 0 32 ≠ slice (stateW (stepC 4)).pd.fwHeader 52 32 ∧ (stateW (stepC 4)).response 4 = 0 ∧ (stateW (stepC 4)).pd.locked = false) ∧
    (let s : State := { stateW (stepC 10) with pd := { (stateW (stepC 10)).pd with power := { ModPower.reset with vin := 48000 }, flash := { Flash.reset with modid := some 3 } } }
     s.causeSet 1 = false ∧ s.capCause = false ∧ s.pd.flash.modid = some 3) := by decide +kernel

theorem witness_ChannelFaults :
    (let c := ready0.setFld F.CLK_STATUS_PLL_LOCK 1
     c.down = false ∧ c.clocked = true ∧ c.st ≠ .faulted) ∧
    (∀ st ∈ [ChState.bringup, .ready, .running, .frozen], (chanW st []).st = st) ∧ (ready0.setFld F.CTL_BRINGUP_STEP 4).linkUp = true ∧
    ({ ready0 with linkLost := true } : Chan).linkLost = true := by decide +kernel

theorem witness_Alarms :
    (let s (v : Nat) : State := { State.reset with pd := ({ PortDie.reset with powered := true, boot := 1 } : PortDie).setFld ⟨R.SEC_ALARM_CFG, 0, 8⟩ v }
     (∀ v < 3, (s v).pd.armed = true ∧ (s v).pd.locked = false ∧ (s v).pd.meshOpen = false ∧ (s v).response 0 = v ∧ (s v).response 1 = v ∧ (s v).response 2 = 0) ∧
       (s 0).cell.link = true) := by decide +kernel

theorem witness_Cell :
    (State.reset.cell.nv.getD 0 0 + 1000 ≤ ((List.range 9).map (fun i => (State.reset.cell.counts.getD i 0 + ([1000] : List Nat).getD i 0) % 2 ^ 64)).getD 0 0) ∧
    (((List.range 9).map (fun i => (State.reset.cell.counts.getD i 0 + ([999] : List Nat).getD i 0) % 2 ^ 64)).getD 0 0 < State.reset.cell.nv.getD 0 0 + 1000) ∧
    (let s := suppS 48000 ready0
     s.pd.armed = true ∧ s.pd.fld F.MET_BREACHES_BREACHES = s.cell.breachN % 65536 ∧ s.cell.link = true ∧ (s.chan 0).down = false) := by decide +kernel

theorem witness_PairEven :
    (let c := heatC .running (List.replicate 24 1000) ([1000, 1065] ++ List.replicate 46 1000) [0] none
     ∃ pred : Int, (6 * (pairAt c.power.temps 0).1 - c.reference6 0 0 pred).natAbs = (6 * (pairAt c.power.temps 0).2 - c.reference6 0 0 pred).natAbs) :=
  ⟨1065, by decide +kernel⟩

theorem witness_Theta :
    (let c : Chan := { heatC .running [] [] [] none with power := { ChanPower.reset with theta := some 0 } }
     c.down = false ∧ c.fld F.TH_POWER_POWER < 1000 ∧ c.power.theta = some 0) ∧
    ((heatC .running [] [] [] none).fld F.TH_POWER_POWER < 1000 ∧ (heatC .running [] [] [] none).power.theta = none) ∧
    ((∀ t ∈ (heatC .running [] [] [] none).fieldTemps, t ≤ 1520) ∧ (heatC .running [] [] [] none).power.trim = none) := by decide +kernel

theorem witness_CellNews :
    (let s : State := { suppS 48000 ready0 with cell := { Cell.reset with breachN := 1, link := true } }
     s.pd.armed = true ∧ s.pd.fld F.MET_BREACHES_BREACHES ≠ s.cell.breachN % 65536) ∧
    (let p : PortDie := { PortDie.reset with powered := true, boot := 4, resetPin := true }
     p.powered = true ∧ ¬ (p.boot = 1 ∧ p.resetPin = false)) := by decide +kernel

/-! ## The manual's worked examples -/

/-- The example of R17: tile T(12, 7) of field F29 is CH6 (31, 77), local field 5. -/
theorem test_field_number : fieldNum 6 (fieldOf (77 * 48 + 31)) = 29 := by decide +kernel

/-- The example after R53: the long accumulator ends with bit 140 alone set, in either order, and reads 1.0. -/
def exBlock (a xa : Nat) (c : AccCell) : Option AccCell := c.addMx fmtE4M3 fmtE4M3 (a :: List.replicate 31 0) (0x38 :: List.replicate 31 0) xa xa
def exOne : Option AccCell := some ⟨2 ^ 140, 0, 0⟩
theorem test_accumulator_order :
    (((exBlock 0x38 0x8B AccCell.zero).bind (exBlock 0x38 0x7F)).bind (exBlock 0xB8 0x8B)) = exOne ∧
    (((exBlock 0x38 0x7F AccCell.zero).bind (exBlock 0xB8 0x8B)).bind (exBlock 0x38 0x8B)) = exOne ∧
    (exOne.map (fun c => (readScalar fmtBin32 0 none c).1)) = some 0x3F800000 := by decide +kernel

/-- The example after R57: 1 + 3 × 2^-9 to bfloat16. -/
theorem test_stochastic_rounding :
    (roundElem fmtBf16 none ⟨false, 515, -9⟩).1 = 0x3F81 ∧ (roundElem fmtBf16 (some 0x2A17) ⟨false, 515, -9⟩).1 = 0x3F80 ∧
    (roundElem fmtBf16 (some 0x5100) ⟨false, 515, -9⟩).1 = 0x3F81 ∧ (roundElem fmtBf16 (some 0x3FFF) ⟨false, 515, -9⟩).1 = 0x3F80 ∧
    (roundElem fmtBf16 (some 0x4000) ⟨false, 515, -9⟩).1 = 0x3F81 := by decide +kernel

/-- The examples of R62 and R216: 0x3E99_999A on the grids −20 and −39. -/
theorem test_rg64 : (toRg64 (-20) ⟨false, 10066330, -25⟩).1 = 314573 ∧ (toRg64 (-39) ⟨false, 10066330, -25⟩).1 = 164926750720 := by decide +kernel

/-- The example after R238: the header of a gradient frame. -/
theorem test_frame_header : frameHeader { Frame.blank 2 0x964 (.raw (zeros 4160)) with vl := 2, lseq := 0x3A07, src := 0x965, job := 0x42, fmt := 0x20, tensor := 0x123, shard := 7, step := 501, gexp := 0xD9, hver := 1, ccount := 1, rseq := 17 } =
    [0x02, 0x02, 0x07, 0x3A, 0x65, 0x09, 0x64, 0x09, 0x42, 0x00, 0x00, 0x20, 0x23, 0x01, 0x00, 0x00, 0x07, 0x00, 0x00, 0x00, 0xF5, 0x01, 0x00, 0x00,
     0x00, 0x00, 0x00, 0x00, 0x40, 0x10, 0xD9, 0x01, 0x01, 0x00, 0x00, 0x00, 0x11, 0x00, 0x00, 0x00] ++ zeros 20 := by decide +kernel

/-- The example of R273: a write of line 0x0123_4567 with `GEN` = 1 marks bit 5 of byte 34 of line 582 of generation 1 (region 3 at line 0x2000000). -/
def exTracked : Chan :=
  [(F.HBM_STATUS_GEN, 1), (F.HBM_REGION_LO_BASE.sh 32, 0x1000000), (F.HBM_REGION_LO_TRACK.sh 32, 1), (F.HBM_REGION_HI_LIMIT.sh 32, 0x1FFFFFF),
   (F.HBM_REGION_HI_VALID.sh 32, 1), (F.HBM_REGION_LO_BASE.sh 24, 0x2000000), (F.HBM_REGION_HI_LIMIT.sh 24, 0x2100000),
   (F.HBM_REGION_HI_VALID.sh 24, 1)].foldl (fun c p => c.setFld p.1 p.2) (chanW .running [])
theorem test_dirty_bit : stackOf 0x01234567 = 1 ∧ (exTracked.markHbm 0x01234567).hbm = [((0x2000000 + 54739 + 582) * 64 + 34, 32)] := by decide +kernel

/-- The example of R321: alias offset 0xA0_0024 is bit 9 of `CLK_STATUS`. -/
theorem test_alias : aliasOf 0xA00024 = (R.CLK_STATUS, 9) ∧ chanBase 5 + 0xA00024 = 0x15A00024 := by decide

/-- The example of R335: `RED_GRV_TIMER` of grove 3 of CH2. -/
theorem test_grove_register : chanBase 2 + (R.RED_GRV_TIMER + redOff 3) = 0x121001C4 := by decide

/-- The example of chapter 11: `REG_READ` of `CLK_STATUS` of CH5, and its reply but for the tag. -/
def exRead : Datagram := ⟨40, 0x4B50, 1, 5, 2, 0x10, 0, 0x107, 8, 0x31, zeros 16, leBytes 4 0x15010000 ++ leBytes 2 1 ++ [0, 0], 77⟩
def exState : State :=
  let c : Chan := { Chan.reset 5 with st := .running, bank := { Bank.empty with regs := [(R.CLK_STATUS, 3)] }, queues := [(2, { Queue.fresh with owner := some 0x31, tokens := 63, expect := 0x107, waiting := [exRead] })] }
  { State.reset with chans := [(5, c)], pd := { PortDie.reset with powered := true, boot := 4, sessions := [{ sesW .owner with id := 0x31 }] } }
def outBytes (o : List Out) : List Bytes := o.filterMap (fun x => match x with | .packet _ b => some b | _ => none)
theorem test_reg_read_reply :
    (match exec (.regRead ⟨5, 2, 0x31, 0x107⟩ 0x15010000 1 0) exState with
     | .next t => (outBytes t.out).map (fun b => (slice b 0 16, b.drop 32))
     | _ => []) = [([0x50, 0x4B, 0x01, 0x05, 0x02, 0x10, 0x01, 0x00, 0x07, 0x01, 0x00, 0x00, 0x14, 0x00, 0x31, 0x00],
       [0x00, 0x03, 0xFF, 0xFF, 0x40, 0x00, 0x00, 0x00] ++ zeros 8 ++ [0x03, 0x00, 0x00, 0x00])] := by decide +kernel

/-- The example after R438: 71 mWh over two groves, of which 2 mWh carry. -/
theorem test_apportion : Apport.reset.interval 71 325 100 [(0, 300000000), (1, 100000000)] = { Apport.reset with groves := [(0, 50), (1, 19)], carry := 2 } := by
  decide +kernel

/-- The example after R382: avail 7,940 W, floors that sum to 2,600 W and demand 2,555 W in each of eight channels give a share of 992 W. -/
theorem test_share : (([(F.TH_DUTY_HOLD, 325), (F.TH_POWER_DEMAND, 2555), (F.TH_CH_CFG_LIMIT, 3000)].foldl (fun (c : Chan) p => c.setFld p.1 p.2) (chanW .running [])).shareW 7940 2600 20440) = 992 := by decide +kernel

end Sys2Proof.Tests
end

section
/-! PROOFS. Commands of one channel change their channel, and in the others what they take along. -/

namespace Sys2Proof.Machine

/-! ## Commands of one channel -/

/-- Every command that acts within one channel has its meaning as one action on that channel. -/
theorem exec_within {i : Instr} {c : Fin 8} (h : i.within = some c) (s : State) :
    ∃ f, exec i s = chanStep s c f := by
  cases i <;> cases h <;> exact ⟨_, rfl⟩

/-- What the other channels take along can be read off the acting channel before and after the command. -/
theorem ActsOn.facing {s t : State} {c : Nat} {d : Chan} (h : ActsOn s t c d) {k : Nat} (h8 : k < 8) (hk : k ≠ c) :
    t.chan k = (s.chan k).facing c k (s.chan c) (t.chan c) :=
  (h.there k h8 hk).trans (Chan.facing_congr _ _ _ rfl h.here.symm)

/-- Settles O8: each command of one channel is one action on it, and such an action changes another channel by `facing` alone. -/
theorem channelCommandsStayInTheirChannel : Obligations.ChannelCommandsStayInTheirChannel := by
  intro i c s t hi ht
  obtain ⟨f, hf⟩ := exec_within hi s
  cases hf.symm.trans ht
  have h := s.onChan_actsOn c f
  refine ⟨fun k h8 hk => h.facing h8 hk, ?_, h.cell, h.pending, h.port, h.out⟩
  intro ha hb hseams k h8 hk
  have hnone : takesNone (s.chan c) ((s.onChan c f).chan c) = true := by
    simp only [takesNone, ha, hb, Bool.not_false, Bool.true_and, List.all_eq_true, Bool.not_eq_true']
    exact hseams
  rw [h.facing h8 hk, Chan.facing_none _ _ _ hnone]

end Sys2Proof.Machine
end

section
/-! PROOFS. The state after reset. -/

namespace Sys2Proof.Machine

/-! ## The state after reset -/

/-- Each of the eight channels is in its own reset state. -/
theorem State.chan_reset (c : Nat) : State.reset.chan c = Chan.reset c := by
  unfold State.chan State.reset
  generalize List.range 8 = l
  induction l with
  | nil => rfl
  | cons k t ih =>
    rw [List.map_cons, mapGet]
    split
    · next h => rw [h]
    · exact ih

/-- A bank whose stored words all lie at offset 0 reads every other register's reset value. -/
theorem Chan.reg_reset (c off : Nat) (h : off ≠ 0) : (Chan.reset c).reg off = regReset chanRegs off := by
  simp [Chan.reg, Chan.reset, Bank.get, mapGet, Ne.symm h, Bank.empty]

/-- The heartwood cell starts with sound figures (R432, R433, R436). -/
theorem Cell.sound_reset : Cell.reset.Sound :=
  ⟨rfl, rfl, by decide, by decide, by decide, by decide⟩

/-- No session is open or waits after reset (R289). -/
theorem PortDie.sessionsBound_reset : PortDie.reset.SessionsBound := ⟨Nat.zero_le _, Nat.zero_le _⟩

/-- Settles O4: the state after reset is a literal, whose sparse maps read as their defaults. -/
theorem resetStandsAndMeetsTheInvariants : Obligations.ResetStandsAndMeetsTheInvariants := by
  refine ⟨⟨rfl, rfl, rfl, rfl, rfl, fun c _ => ?_, fun _ => rfl⟩, Cell.sound_reset, PortDie.sessionsBound_reset⟩
  rw [State.chan_reset]
  exact ⟨rfl, rfl, fun _ => rfl, fun _ => rfl, fun _ => rfl, fun _ _ => rfl, fun off h => Chan.reg_reset c off h⟩

end Sys2Proof.Machine
end

section
/-! PROOFS. The idle tick: what it counts, and that it takes nothing along while no grove is active. -/

namespace Sys2Proof.Machine

/-! ## An idle tick -/

/-- A 64-bit counter after counting, below its all-ones value. -/
theorem Bank.get64_add64 (t : List RegDef) (b : Bank) (off n : Nat) (h : b.get64 t off + n < 2 ^ 64) :
    (b.add64 t off n).get64 t off = b.get64 t off + n := by
  unfold Bank.add64
  dsimp only
  rw [Nat.min_eq_left (by omega)]
  generalize b.get64 t off + n = v at h ⊢
  unfold Bank.get64
  simp only [Bank.get_put, Nat.left_eq_add, if_true, BitVec.toNat_ofNat]
  simp only [if_false, BitVec.toNat_ofNat, OfNat.ofNat_ne_zero]
  omega

/-- A 64-bit counter's two words are all that counting changes. -/
theorem Bank.get_add64_ne (t : List RegDef) (b : Bank) (off n k : Nat) (h : k ≠ off) (h4 : k ≠ off + 4) :
    (b.add64 t off n).get t k = b.get t k := by
  simp [Bank.add64, h, h4]

/-- A channel that differs in counters between `TH_LIMIT` and `SP_WS_GATE_WAIT`, and in what its groves keep of their stashes. -/
structure Chan.Idles (c d : Chan) : Prop where
  st     : d.st = c.st
  links  : d.links = c.links
  groves : ∀ g, ∃ h, d.grove g = { c.grove g with stash := h }
  regs   : ∀ off, off < 0x20060 ∨ 0xA0038 ≤ off → d.reg off = c.reg off

theorem Chan.Idles.refl (c : Chan) : c.Idles c := ⟨rfl, rfl, fun _ => ⟨_, rfl⟩, fun _ _ => rfl⟩

theorem Chan.Idles.trans {a b c : Chan} (h : a.Idles b) (k : b.Idles c) : a.Idles c where
  st := k.st.trans h.st
  links := k.links.trans h.links
  groves g := by
    obtain ⟨x, hx⟩ := h.groves g
    obtain ⟨y, hy⟩ := k.groves g
    exact ⟨y, by rw [hy, hx]⟩
  regs off ho := (k.regs off ho).trans (h.regs off ho)

theorem Chan.Idles.foldl {α : Type} {f : Chan → α → Chan} (l : List α) (h : ∀ a ∈ l, ∀ c, Chan.Idles c (f c a)) (c : Chan) :
    c.Idles (l.foldl f c) := by
  induction l generalizing c with
  | nil => exact .refl c
  | cons a t ih =>
    exact (h a (List.mem_cons_self ..) c).trans (ih (fun b hb => h b (List.mem_cons_of_mem _ hb)) _)

theorem Chan.grove_withBank (c : Chan) (b : Bank) (g : Nat) : ({ c with bank := b } : Chan).grove g = c.grove g := rfl

theorem Chan.grove_cycle (c : Chan) (off g : Nat) : (c.cycle off).grove g = c.grove g := by
  unfold Chan.cycle
  exact c.grove_withBank _ g

theorem Chan.links_cycle (c : Chan) (off : Nat) : (c.cycle off).links = c.links := by
  unfold Chan.cycle
  rfl

theorem Chan.reg_cycle_ne (c : Chan) (off k : Nat) (h : k ≠ off) (h4 : k ≠ off + 4) : (c.cycle off).reg k = c.reg k := by
  unfold Chan.reg Chan.cycle
  exact Bank.get_add64_ne _ _ _ _ _ h h4

/-- A change of those registers alone. -/
theorem Chan.withBank_idles (c : Chan) (b : Bank)
    (h : ∀ off, off < 0x20060 ∨ 0xA0038 ≤ off → b.get chanRegs off = c.bank.get chanRegs off) : c.Idles { c with bank := b } :=
  ⟨rfl, rfl, fun _ => ⟨_, rfl⟩, h⟩

/-- Counting in a register of that range. -/
theorem Chan.cycle_idles (c : Chan) (off : Nat) (hlo : 0x20060 ≤ off) (hhi : off ≤ 0xA0030) : c.Idles (c.cycle off) := by
  unfold Chan.cycle
  exact c.withBank_idles _ (fun k hk => Bank.get_add64_ne _ _ _ _ _ (by omega) (by omega))

theorem Chan.holdCycle_idles (c : Chan) (g : Nat) (hg : g < 16) : c.Idles (c.holdCycle g) := by
  have hcycle : c.Idles (if c.pointHeld g then c.cycle (R.HBM_STASH_GRV_HOLD_LO + stashOff g) else c) := by
    split
    · exact c.cycle_idles _ (by simp only [R.HBM_STASH_GRV_HOLD_LO, stashOff]; omega) (by simp only [R.HBM_STASH_GRV_HOLD_LO, stashOff]; omega)
    · exact .refl c
  unfold Chan.holdCycle
  dsimp only
  split
  · exact hcycle
  · refine hcycle.trans ⟨rfl, rfl, fun k => ?_, fun _ _ => rfl⟩
    rw [Chan.grove_onGrove]
    split
    · next h => subst h; exact ⟨_, rfl⟩
    · exact ⟨_, rfl⟩

/-- Without power or a clock nothing ticks. -/
theorem Chan.tick_still (c : Chan) (h : c.st = .off ∨ c.st = .locked ∨ c.clocked = false) : c.tick = c := by
  unfold Chan.tick
  exact if_pos (by simpa [or_assoc] using h)

/-- With no grove active, a tick of a running clock counts its cycle, and then only counts more. -/
theorem Chan.tick_idles (c : Chan) (hoff : c.st ≠ .off) (hlock : c.st ≠ .locked) (hclk : c.clocked = true)
    (hg : ∀ g, (c.grove g).st.active = false) : (c.cycle R.CLK_PCLK_COUNT_LO).Idles c.tick := by
  unfold Chan.tick
  rw [if_neg (by simp [hoff, hlock, hclk])]
  dsimp only
  generalize hc1 : c.cycle R.CLK_PCLK_COUNT_LO = c1
  have h2 : c1.Idles (if c1.fld F.TH_STATUS_LIMITING = 1 then c1.cycle R.TH_LIMIT_LO else c1) := by
    split
    · exact c1.cycle_idles _ (by decide) (by decide)
    · exact .refl c1
  generalize (if c1.fld F.TH_STATUS_LIMITING = 1 then c1.cycle R.TH_LIMIT_LO else c1) = c2 at h2
  have h3 : c1.Idles (if groveNums.any c2.waitsAtGate then c2.cycle R.SP_WS_GATE_WAIT_LO else c2) := by
    split
    · exact h2.trans (c2.cycle_idles _ (by decide) (by decide))
    · exact h2
  generalize (if groveNums.any c2.waitsAtGate then c2.cycle R.SP_WS_GATE_WAIT_LO else c2) = c3 at h3
  have h4 := h3.trans (Chan.Idles.foldl groveNums (fun g hg c => c.holdCycle_idles g (List.mem_range.1 hg)) c3)
  rw [List.foldl_fixed' (fun g => ?_)]
  · exact h4
  · obtain ⟨x, hx⟩ := h4.groves g
    rw [hx, ← hc1, Chan.grove_cycle]
    exact if_neg (by simp [hg g])

/-- `CLK_PCLK_COUNT` counts a tick of a running clock (R39). -/
theorem Chan.tick_counts (c : Chan) (hoff : c.st ≠ .off) (hlock : c.st ≠ .locked) (hclk : c.clocked = true)
    (hg : ∀ g, (c.grove g).st.active = false) (hmax : c.bank.get64 chanRegs R.CLK_PCLK_COUNT_LO < 2 ^ 64 - 1) :
    c.tick.bank.get64 chanRegs R.CLK_PCLK_COUNT_LO = c.bank.get64 chanRegs R.CLK_PCLK_COUNT_LO + 1 := by
  have h := (c.tick_idles hoff hlock hclk hg).regs
  rw [← Bank.get64_add64 chanRegs c.bank _ 1 (by omega)]
  exact congrArg₂ (fun lo hi : Word => lo.toNat + hi.toNat * 2 ^ 32) (h R.CLK_PCLK_COUNT_LO (.inl (by decide)))
    (h (R.CLK_PCLK_COUNT_LO + 4) (.inl (by decide)))

/-- What a channel says of base streams depends on its groves but for their stashes, and on the weight stream's own registers. -/
theorem Chan.hasBases_congr {c d : Chan} (hg : ∀ g, ∃ x, d.grove g = { c.grove g with stash := x })
    (hr : ∀ off, 0xA0038 ≤ off → d.reg off = c.reg off) : d.hasBases = c.hasBases := by
  have hcfg (lo w g : Nat) : d.fld (Fld.sh ⟨0xA0100, lo, w⟩ (wsOff g)) = c.fld (Fld.sh ⟨0xA0100, lo, w⟩ (wsOff g)) :=
    congrArg (Fld.of _) (hr (0xA0100 + wsOff g) (by omega))
  have hst (g : Nat) : (d.grove g).st = (c.grove g).st := by obtain ⟨x, hx⟩ := hg g; rw [hx]
  have hkind (g : Nat) : (d.grove g).kind = (c.grove g).kind := by obtain ⟨x, hx⟩ := hg g; rw [hx]
  have hjob (g : Nat) : (d.grove g).job = (c.grove g).job := by obtain ⟨x, hx⟩ := hg g; rw [hx]
  have hws (g : Nat) : (d.grove g).ws = (c.grove g).ws := by obtain ⟨x, hx⟩ := hg g; rw [hx]
  have hsub : d.isSub = c.isSub := by funext g; unfold Chan.isSub; rw [hcfg]
  have hsj : d.streamJob = c.streamJob := by funext g; unfold Chan.streamJob; rw [hsub, hcfg, hjob]
  have hsg : d.streamGroves = c.streamGroves := by funext j; simp only [Chan.streamGroves, hst, hws, hsub, hsj]
  have hleft : d.leftBases = c.leftBases := by simp only [Chan.leftBases, hst, hsub, hsj, hsg]
  have htrain : d.trainBases = c.trainBases := by simp only [Chan.trainBases, hst, hkind, hws, hsub, hsj]
  unfold Chan.hasBases
  rw [hleft, htrain]

/-- Counting the clock's cycle leaves the weight stream's registers. -/
theorem Chan.hasBases_cycle (c : Chan) : (c.cycle R.CLK_PCLK_COUNT_LO).hasBases = c.hasBases :=
  Chan.hasBases_congr (fun g => ⟨_, c.grove_cycle _ g⟩) (fun _ h => c.reg_cycle_ne _ _
    (by simp only [R.CLK_PCLK_COUNT_LO]; omega) (by simp only [R.CLK_PCLK_COUNT_LO]; omega))

/-- With no grove active and no base subscribed to, a tick takes nothing along in another channel. -/
theorem Chan.tick_takesNone (c : Chan) (hb : c.hasBases = false) (hg : ∀ g, (c.grove g).st.active = false) : takesNone c c.tick = true := by
  have hsame : c.tick.hasBases = false ∧ c.tick.links = c.links := by
    by_cases hno : c.st = .off ∨ c.st = .locked ∨ c.clocked = false
    · rw [c.tick_still hno]
      exact ⟨hb, rfl⟩
    · simp only [not_or, Bool.not_eq_false] at hno
      obtain ⟨hoff, hlock, hclk⟩ := hno
      have h := c.tick_idles hoff hlock hclk hg
      exact ⟨(Chan.hasBases_congr h.groves (fun off ho => h.regs off (.inr ho))).trans (c.hasBases_cycle.trans hb),
        h.links.trans (c.links_cycle _)⟩
  generalize c.tick = d at hsame ⊢
  simp [takesNone, seamFalls, Chan.link, hsame, hb]

/-! ## Channels that act one after the other, and take nothing along -/

/-- Each acts on its own state as it was before the first of them acted. -/
theorem State.onChans_still (f : Chan → Chan) (l : List Nat) (hl : l.Nodup) (h8 : ∀ j ∈ l, j < 8) (s : State)
    (hn : ∀ j ∈ l, takesNone (s.chan j) (f (s.chan j)) = true) (k : Nat) (hk : k < 8) :
    ((l.foldl (fun s c => s.onChan c f) s).chan k).body = if k ∈ l then (f (s.chan k)).body else (s.chan k).body := by
  induction l generalizing s with
  | nil => rfl
  | cons j t ih =>
    obtain ⟨hj, ht⟩ := List.nodup_cons.1 hl
    have hother (i : Nat) (hi : i < 8) (hij : i ≠ j) : (s.onChan j f).chan i = s.chan i :=
      (s.onChan_there j i f hi hij).trans (Chan.facing_none _ _ _ (hn j (List.mem_cons_self ..)))
    have htail (i : Nat) (hi : i ∈ t) : i < 8 ∧ i ≠ j := ⟨h8 i (List.mem_cons_of_mem _ hi), fun h => hj (h ▸ hi)⟩
    rw [List.foldl_cons, ih ht (fun i hi => (htail i hi).1) _ (fun i hi => by
      rw [hother i (htail i hi).1 (htail i hi).2]; exact hn i (List.mem_cons_of_mem _ hi))]
    by_cases hkj : k = j
    · subst hkj
      simp [hj]
    · simp [hkj, hother k hk hkj]

/-- Actions on channels leave the cell, the waiting commands, and the port die beyond its services. -/
theorem State.onChans_rest (f : Chan → Chan) (l : List Nat) (s : State) :
    (l.foldl (fun s c => s.onChan c f) s).cell = s.cell ∧ (l.foldl (fun s c => s.onChan c f) s).pending = s.pending ∧
      (l.foldl (fun s c => s.onChan c f) s).pd.core = s.pd.core := by
  induction l generalizing s with
  | nil => exact ⟨rfl, rfl, rfl⟩
  | cons j t ih =>
    obtain ⟨hc, hp, hd⟩ := ih (s.onChan j f)
    exact ⟨hc.trans (s.onChan_cell j f), hp.trans (s.onChan_pending j f), hd.trans (s.onChan_core j f)⟩

theorem PortDie.core_clock {a b : PortDie} (h : a.core = b.core) : a.clock = b.clock :=
  show a.core.clock = b.core.clock from congrArg PortDie.clock h

/-- With power, a tick counts on the port die and then on each channel. -/
theorem State.tick_powered (s : State) (h : s.pd.powered = true) :
    s.tick = (List.range 8).foldl (fun s c => s.onChan c Chan.tick) (s.onPort (fun p => { p with clock := p.clock + 1 })) := by
  unfold State.tick
  rw [if_neg (by simp [h])]

/-- Settles O2: while no channel takes anything along, the tick of each is read off by itself. -/
theorem idleStepsTick : Obligations.IdleStepsTick := by
  intro s hempty
  have hstep : step s = .next s.tick := by unfold step; rw [hempty]
  refine ⟨fun hoff => ?_, fun hon => ⟨s.tick, hstep, ?_⟩⟩
  · rw [hstep, State.tick, if_pos (by simp [hoff])]
  · rw [s.tick_powered hon]
    generalize hs1 : s.onPort (fun p => { p with clock := p.clock + 1 }) = s1
    have hchan (k : Nat) : s1.chan k = s.chan k := by rw [← hs1]; rfl
    obtain ⟨hcell, hpend, hcore⟩ := State.onChans_rest Chan.tick (List.range 8) s1
    refine ⟨?_, ?_, ?_, fun hquiet k hk => ?_⟩
    · rw [PortDie.core_clock hcore, ← hs1]; rfl
    · rw [hcell, ← hs1]; rfl
    · rw [hpend, ← hs1]; exact hempty
    · have hbody := State.onChans_still Chan.tick (List.range 8) List.nodup_range (fun j hj => List.mem_range.1 hj) s1
        (fun j hj => by
          rw [hchan]
          exact Chan.tick_takesNone _ (hquiet j (List.mem_range.1 hj)).1 (hquiet j (List.mem_range.1 hj)).2) k hk
      rw [if_pos (List.mem_range.2 hk), hchan] at hbody
      refine ⟨fun hno => ?_, fun hoff hlock hclk hmax => ?_⟩
      · rw [hbody, Chan.tick_still _ hno]
      · rw [Chan.body_bank hbody]
        exact Chan.tick_counts _ hoff hlock hclk (hquiet k hk).2 hmax

end Sys2Proof.Machine
end

section
/-! PROOFS. Link loss, holds, errors and credit audits. -/

namespace Sys2Proof.Machine

/-! ## Link loss, holds and audits -/

/-- Settles O28: each clause is one branch of its command's action on the channel. -/
theorem linkLossAuditsAndHolds : Obligations.LinkLossAuditsAndHolds := by
  refine ⟨?_, ?_⟩
  · intro ch i e lanes sep cell s
    refine ⟨fun hup hi hl => ?_, fun h => ?_, fun hup hs => ⟨fun h2 h6 => ?_, fun h => ?_⟩, fun h => ?_, fun h => ⟨?_, ?_⟩,
      fun h => ⟨?_, ?_⟩, fun h => ?_, fun x hx => ?_, fun hd hw => ?_, fun h => ?_⟩
    -- `LANE_LOSS`
    · exact Acts.of_chanStep rfl (if_neg (by simp only [hup, hl]; simp [hi]))
    · exact Acts.of_chanStep rfl (if_pos (by simpa [or_assoc] using h))
    -- `SEAM_SLIP`
    · exact Acts.of_chanStep rfl ((if_neg (by simp [hup, hs])).trans (if_pos (by simp [h2, h6])))
    · exact Acts.of_chanStep rfl ((if_neg (by simp [hup, hs])).trans (if_neg (by simp only [Bool.and_eq_true, decide_eq_true_eq]; omega)))
    · exact Acts.of_chanStep rfl (if_pos (by simpa using h))
    -- `LINK_HOLD_EXPIRY` and `PARTNER_RETURN`
    · exact Acts.of_chanStep rfl (if_neg (by simp [h]))
    · exact Acts.of_chanStep rfl (if_neg (by simp [h]))
    · exact Acts.of_chanStep rfl (if_pos h)
    · exact Acts.of_chanStep rfl (if_pos h)
    -- `RX_CELL_UE`
    · exact Acts.of_chanStep rfl (by simp only [h])
    · exact Acts.of_chanStep rfl (by simp only [hx])
    -- `LINK_STATE_UE`
    · exact Acts.of_chanStep rfl (if_neg (by simp [hd, hw]))
    · exact Acts.of_chanStep rfl (if_pos (by simpa using h))
  · intro ch i charged returned held s
    refine ⟨fun hup hn ha hr => ?_, fun h => ?_, fun h => ?_, fun c1 h => ⟨fun heq => ?_, fun hne => ?_⟩, fun ok h => ?_,
      fun c1 h => ⟨fun ha => ?_, fun sent ha => ⟨fun hag => ?_, fun hag => ?_⟩⟩,
      fun c1 h => ⟨fun hr => ?_, fun hr hx => ?_, fun hr hx => ?_⟩, fun h => ?_, fun c1 h => ⟨fun ha hr => ?_, fun hn => ?_⟩,
      fun hup hr => ?_, fun h => ?_⟩
    -- `AUDIT_SEND`
    · exact Acts.of_chanStep rfl (if_neg (by simp only [hup, ha, hr]; simpa using hn))
    · exact Acts.of_chanStep rfl (if_pos (by simpa [or_assoc] using h))
    -- `AUDIT`
    · exact Acts.of_chanStep rfl (by simp only [h])
    · exact Acts.of_chanStep rfl (by simp only [h, if_pos heq])
    · exact Acts.of_chanStep rfl (by simp only [h, if_neg hne])
    -- `AUDIT_REPLY`
    · exact Acts.of_chanStep rfl (by simp only [h])
    · exact Acts.of_chanStep rfl (by simp only [h, ha, Bool.false_eq_true, if_false])
    · refine Acts.of_chanStep rfl ?_
      simp only [h, ha, Bool.false_eq_true, if_false, Bool.and_eq_true, decide_eq_true_eq, List.all_eq_true]
      exact if_pos hag
    · refine Acts.of_chanStep rfl ?_
      simp only [h, ha, Bool.false_eq_true, if_false, Bool.and_eq_true, decide_eq_true_eq, List.all_eq_true]
      exact if_neg hag
    · exact Acts.of_chanStep rfl (by simp only [h, if_true]; exact if_pos hr)
    · refine Acts.of_chanStep rfl ?_
      simp only [h, hr, if_true, ne_eq, not_true_eq_false, if_false, List.any_eq_true, decide_eq_true_eq]
      exact if_pos hx
    · refine Acts.of_chanStep rfl ?_
      simp only [h, hr, if_true, ne_eq, not_true_eq_false, if_false, List.any_eq_true, decide_eq_true_eq]
      exact if_neg hx
    -- `RECONCILE`
    · exact Acts.of_chanStep rfl (by simp only [h])
    · exact Acts.of_chanStep rfl (by simp only [h]; exact if_pos (by simp [ha, hr]))
    · exact Acts.of_chanStep rfl (by simp only [h]; exact if_neg (by simp only [ne_eq, Bool.and_eq_true, decide_eq_true_eq]; tauto))
    -- `RECONCILE_TIMEOUT`
    · exact Acts.of_chanStep rfl (if_pos (by simp [hup, hr]))
    · exact Acts.of_chanStep rfl (if_neg (by simp only [Bool.and_eq_true, decide_eq_true_eq]; tauto))

end Sys2Proof.Machine
end

section
/-! PROOFS. Module administration: what its commands answer, and what sending the answer leaves. -/

namespace Sys2Proof.Machine

/-! ## What an answer leaves of the port die -/

/-- The port die without what answering a module command may change: the sessions with their queues, the replies kept, and the free
values drawn. -/
def PortDie.unanswered (p : PortDie) : PortDie :=
  { p with sessions := [], ended := [], session0 := [], undelivered := [], free := 0 }

theorem PortDie.unanswered_bank {p r : PortDie} (h : p.unanswered = r.unanswered) : p.bank = r.bank :=
  show p.unanswered.bank = r.unanswered.bank by rw [h]
theorem PortDie.unanswered_flash {p r : PortDie} (h : p.unanswered = r.unanswered) : p.flash = r.flash :=
  show p.unanswered.flash = r.unanswered.flash by rw [h]
theorem PortDie.unanswered_services {p r : PortDie} (h : p.unanswered = r.unanswered) : p.services = r.services :=
  show p.unanswered.services = r.unanswered.services by rw [h]

theorem State.replyM_unanswered (s : State) (d : Datagram) (st : Status) (detail data : Bytes) :
    (s.replyM d st detail data).pd.unanswered = s.pd.unanswered := by
  unfold State.replyM
  split
  · rw [State.deliver_pd]; rfl
  · rw [State.deliver_pd, State.onPort_pd]
    unfold PortDie.keepReply
    split <;> rfl

theorem State.flushM_unanswered (id n : Nat) (s : State) : (State.flushM id n s).pd.unanswered = s.pd.unanswered := by
  induction n generalizing s with
  | zero => rfl
  | succ n ih =>
    unfold State.flushM
    split
    · rfl
    · split
      · rfl
      · rw [ih, State.replyM_unanswered]; rfl

theorem State.sweepEnded_unanswered (s : State) : s.sweepEnded.pd.unanswered = s.pd.unanswered := by
  unfold State.sweepEnded
  split <;> rfl

/-- A part of a session that its queue does not touch is as it was once the queue has changed. -/
theorem PortDie.onSession_queue {α : Type} (g : Session → α) (hg : ∀ x q, g { x with queue := q } = g x) (p : PortDie) (id : Nat)
    (q : Session → Queue) (k : Nat) :
    ((p.onSession id (fun x => { x with queue := q x })).session k).map g = (p.session k).map g := by
  rw [PortDie.onSession_find p id (fun x => { x with queue := q x }) (fun _ => rfl), Option.map_map]
  refine congrArg (Option.map · (p.session k)) (funext fun x => ?_)
  simp only [Function.comp]
  split
  · exact hg x _
  · rfl

/-- A part of a session that its queue does not touch is as it was after a reply. -/
theorem State.replyM_session {α : Type} (g : Session → α) (hg : ∀ x q, g { x with queue := q } = g x) (s : State) (d : Datagram)
    (st : Status) (detail data : Bytes) (id : Nat) :
    ((s.replyM d st detail data).pd.session id).map g = (s.pd.session id).map g := by
  unfold State.replyM
  split
  · rw [State.deliver_pd]; rfl
  · rw [State.deliver_pd, State.onPort_pd, PortDie.keepReply_session]
    exact PortDie.onSession_queue g hg _ _ _ _

theorem State.flushM_session {α : Type} (g : Session → α) (hg : ∀ x q, g { x with queue := q } = g x) (id n : Nat) (s : State) (k : Nat) :
    ((State.flushM id n s).pd.session k).map g = (s.pd.session k).map g := by
  induction n generalizing s with
  | zero => rfl
  | succ n ih =>
    unfold State.flushM
    split
    · rfl
    · split
      · rfl
      · rw [ih, State.replyM_session g hg, State.onPort_pd]
        exact PortDie.onSession_queue g hg _ _ _ _

theorem State.sweepEnded_session (s : State) (id : Nat) : s.sweepEnded.pd.session id = s.pd.session id := by
  unfold State.sweepEnded
  split <;> rfl

/-! ## Commands without effect on registers -/

/-- `NOP` on session 0: the reply carries no session's key (R292 step 2). -/
theorem Ready0.nop_executes {s : State} {q : Issue} {d : Datagram} (h : Ready0 s q 0x00 [] (fun _ => []) d)
    (hs : s.pd.anySession 0 = none) : ExecutesM (.nop q) s d .ok [] := by
  have hsess : s.pd.session 0 = none := by
    cases hx : s.pd.session 0 with
    | none => rfl
    | some x => rw [PortDie.anySession, hx] at hs; cases hs
  have hafter : PortOnly (s.replyM d .ok [] []) (s.modCmd q 0x00 [] false (fun _ => []) (fun d s => s.replyM d .ok [] [])) := by
    rw [h.modCmd]
    exact (State.flushM_only _ _ _).trans (State.sweepEnded_only _)
  have honly := (s.replyM_only d .ok [] []).trans hafter
  refine ⟨_, rfl, honly.chans, honly.cell, replyBlock .ok 0xFF 0xFF 0xFF (s.draw.1 % 2 ^ 16) [], by simp, by simp, hafter.mem_out ?_⟩
  have hkey : ((s.draw.2.onPort (fun p => { p with session0 := p.session0.filter (fun x => x ≠ d) })).pd.session 0) = none := hsess
  unfold State.replyM
  rw [if_pos h.sess, h.sess, hsess]
  dsimp only
  unfold State.deliver
  dsimp only
  rw [hkey]
  simp [replyPacket, h.named, h.queue]

/-- The state after a ready module command: its effect, then the commands that wait behind it are answered where they are malformed. -/
theorem ReadyM.session {α : Type} {s : State} {q : Issue} {op : Nat} {fs : List (Nat × Nat × Nat)} {conf : Bool}
    {bad : Datagram → List (Bool × Nat)} {d : Datagram} (h : ReadyM s q op fs conf bad d) (f : Datagram → State → State)
    (g : Session → α) (hg : ∀ x q, g { x with queue := q } = g x) (id : Nat) :
    ((s.modCmd q op fs conf bad f).pd.session id).map g = ((f d (s.begunM d)).pd.session id).map g := by
  rw [h.modCmd, State.sweepEnded_session, State.flushM_session g hg]

theorem ReadyM.unanswered {s : State} {q : Issue} {op : Nat} {fs : List (Nat × Nat × Nat)} {conf : Bool}
    {bad : Datagram → List (Bool × Nat)} {d : Datagram} (h : ReadyM s q op fs conf bad d) (f : Datagram → State → State) :
    (s.modCmd q op fs conf bad f).pd.unanswered = (f d (s.begunM d)).pd.unanswered := by
  rw [h.modCmd, State.sweepEnded_unanswered, State.flushM_unanswered]

/-- After its effect, a ready module command leaves the channels. -/
theorem ReadyM.chan {s : State} {q : Issue} {op : Nat} {fs : List (Nat × Nat × Nat)} {conf : Bool}
    {bad : Datagram → List (Bool × Nat)} {d : Datagram} (h : ReadyM s q op fs conf bad d) (f : Datagram → State → State) (k : Nat) :
    (s.modCmd q op fs conf bad f).chan k = (f d (s.begunM d)).chan k := by
  rw [h.modCmd]
  exact ((State.flushM_only _ _ _).trans (State.sweepEnded_only _)).chan k

theorem PortDie.onSession_sub (p : PortDie) (id : Nat) (b : Option Sub) (k : Nat) :
    (p.onSession id (fun x => { x with sub := b })).session k = (p.session k).map (fun x => if x.id = id then { x with sub := b } else x) :=
  p.onSession_find id (fun x => { x with sub := b }) (fun _ => rfl) k

/-- `EVENT_SUBSCRIBE` (R297). -/
theorem ReadyM.eventSubscribe {s : State} {q : Issue} {addr : Bytes} {port chmask : Nat} {d : Datagram}
    (h : ReadyM s q 0x08 [opBytes 0 16 addr, (16, 2, port), (18, 1, chmask)] false (fun _ => []) d) :
    ∃ u, exec (.eventSubscribe q addr port chmask) s = .next u ∧ Answered s u d .ok [] ∧ u.chans = s.chans ∧
      (u.pd.session d.session).map (·.sub) = some (if port = 0 then none else some ⟨slice addr 0 16, port, chmask⟩) := by
  refine ⟨_, rfl, h.answered rfl (PortOnly.refl _) ?_, (h.only ((State.onPort_only _ _).trans (State.replyM_only _ _ _ _ _))).chans, ?_⟩
  · rw [State.onPort_pd, PortDie.onSession_sub, ← s.begunM_key d, Option.map_map]
    refine congrArg (Option.map · ((s.begunM d).pd.session d.session)) (funext fun x => ?_)
    simp only [Function.comp]
    split <;> rfl
  · rw [h.session _ (·.sub) (fun _ _ => rfl), State.replyM_session (·.sub) (fun _ _ => rfl), State.onPort_pd,
      PortDie.onSession_sub]
    obtain ⟨x, hx⟩ := Option.isSome_iff_exists.1 h.open_
    have hb : ((s.begunM d).pd.session d.session).map (·.id) = some d.session := by
      rw [State.begunM, State.onPort_pd, PortDie.onSession_queue (·.id) (fun _ _ => rfl), hx]
      exact congrArg some (by simpa using List.find?_some hx)
    obtain ⟨y, hy, hid⟩ := Option.map_eq_some_iff.1 hb
    rw [hy, Option.map_some, Option.map_some, if_pos hid]

/-! ## `SERVICE_MOVE` -/

/-- `SERVICE_MOVE` to an anchor that hosts: the services it names are there, and stay there (R28, R297). -/
theorem serviceAt_hosts {up0 up7 : Bool} {a : Nat} (h : a = 0 ∧ up0 = true ∨ a = 7 ∧ up7 = true) : serviceAt up0 up7 a = a := by
  obtain ⟨rfl, rfl⟩ | ⟨rfl, rfl⟩ := h <;> rfl


/-- A parameter that a row's check refuses is not in range of a ready command (R296). -/
theorem badOffset_none {o : OpSpec} {p : Bytes} {bad : List (Bool × Nat)} (h : badOffset o p bad = none) {b : Bool} {k : Nat}
    (hm : (b, k) ∈ bad) : b = false := by
  unfold badOffset at h
  dsimp only at h
  by_contra hb
  simp only [Bool.not_eq_false] at hb
  subst hb
  have hin : k ∈ (bad.filter (·.1)).map (·.2) := List.mem_map.2 ⟨_, List.mem_filter.2 ⟨hm, rfl⟩, rfl⟩
  rw [if_neg (fun hnil => by rw [List.append_eq_nil_iff] at hnil; rw [hnil.1] at hin; cases hin)] at h
  cases h

theorem ReadyM.serviceMove {s : State} {q : Issue} {services anchor : Nat} {d : Datagram}
    (h : ReadyM s q 0x0D [(0, 1, services), (1, 1, anchor)] (decide (anchor = 0 ∨ anchor = 7) && !(s.chan anchor).st.hosts)
        (fun _ => [(decide (8 ≤ services), 0), (decide (anchor ≠ 0 ∧ anchor ≠ 7), 1)]) d) (hn : s.pd.services.length = 3) :
    ∃ u, exec (.serviceMove q services anchor) s = .next u ∧ Answered s u d .ok [] ∧ u.chans = s.chans ∧
      ∀ k < 3, bits services k 1 = 1 → u.pd.services.getD k 0xFF = anchor := by
  refine ⟨_, rfl, h.answered rfl (PortOnly.refl _) ?_, (h.only (((State.onPort_only _ _).trans (State.settleServices_only _)).trans
    (State.replyM_only _ _ _ _ _))).chans, fun k hk hb => ?_⟩
  · exact s.begunM_key d d.session
  · have hanchor : anchor = 0 ∨ anchor = 7 := by
      obtain ⟨o, _, _, hbad⟩ := h.spec
      have := badOffset_none hbad (List.mem_cons_of_mem _ (List.mem_singleton.2 rfl))
      simp only [decide_eq_false_iff_not] at this
      tauto
    have hhosts : (s.chan anchor).st.hosts = true := by simpa [hanchor] using h.conf
    rw [PortDie.unanswered_services (h.unanswered _), PortDie.unanswered_services (State.replyM_unanswered _ _ _ _ _)]
    have hat : serviceAt (s.chan 0).st.hosts (s.chan 7).st.hosts anchor = anchor :=
      serviceAt_hosts (hanchor.imp (fun e => ⟨e, e ▸ hhosts⟩) (fun e => ⟨e, e ▸ hhosts⟩))
    have hlen : k < s.pd.services.length := by omega
    show ((s.pd.services.zipIdx.map (fun x => if bits services x.2 1 = 1 then anchor else x.1)).map
      (serviceAt (s.chan 0).st.hosts (s.chan 7).st.hosts)).getD k 0xFF = anchor
    simp [List.getD_eq_getElem?_getD, hlen, hb, hat]

/-! ## `MODULE_ID_SET` -/

/-- What the fabric knows a channel by, and its state. -/
def Chan.ids (c : Chan) : Nat × ChState × Nat × Nat := (c.idx, c.st, c.node, c.fm)

theorem Chan.ids_body {a b : Chan} (h : a.body = b.body) : a.ids = b.ids := show a.body.ids = b.body.ids by rw [h]

/-- Learning who subscribes changes what a reader's groves keep of their stream, and nothing else. -/
theorem Chan.baseFollows_ids (x : Chan) (node : Nat) (a b : Chan) : (x.baseFollows node a b).ids = x.ids := by
  unfold Chan.baseFollows
  split
  · rfl
  · generalize groveNums = l
    induction l generalizing x with
    | nil => rfl
    | cons g t ih =>
      rw [List.foldl_cons, ih]
      dsimp only
      split <;> rfl

/-- A channel whose links stay takes no seam end down. -/
theorem Chan.seamsFaced_of_links (x : Chan) (c k : Nat) {a b : Chan} (h : b.links = a.links) : x.seamsFaced c k a b = x := by
  have hf (e : Nat) : seamFalls a b e = false := by simp [seamFalls, Chan.link, h]
  unfold Chan.seamsFaced
  refine List.foldl_fixed' (fun e => ?_) _
  split <;> simp [hf]

/-- A change of ids as `MODULE_ID_SET` makes it in one channel (R259, R297). -/
def Chan.assignIds (modid fm : Nat) (c : Chan) : Chan := if c.st = .ready || c.st = .faulted then c.takeIds modid fm else c

theorem Chan.assignIds_links (modid fm : Nat) (c : Chan) : (c.assignIds modid fm).links = c.links := by
  unfold Chan.assignIds
  split <;> rfl

theorem Chan.assignIds_congr (modid fm : Nat) {c d : Chan} (h : c.ids = d.ids) : (c.assignIds modid fm).ids = (d.assignIds modid fm).ids := by
  simp only [Chan.ids, Prod.mk.injEq] at h
  obtain ⟨hi, hs, hn, hf⟩ := h
  unfold Chan.assignIds
  rw [hs]
  split
  · simp [Chan.ids, Chan.takeIds, hi, hs]
  · simp [Chan.ids, hi, hs, hn, hf]

/-- The ids of every channel once some have taken theirs: none takes another's along. -/
theorem State.assignAll_ids (modid fm : Nat) (l : List Nat) (hl : l.Nodup) (s : State) (k : Nat) (hk : k < 8) :
    ((l.foldl (fun s c => s.onChan c (Chan.assignIds modid fm)) s).chan k).ids =
      if k ∈ l then ((s.chan k).assignIds modid fm).ids else (s.chan k).ids := by
  induction l generalizing s with
  | nil => rfl
  | cons j t ih =>
    obtain ⟨hj, ht⟩ := List.nodup_cons.1 hl
    rw [List.foldl_cons, ih ht]
    by_cases hkj : k = j
    · subst hkj
      rw [if_neg hj, if_pos (List.mem_cons_self ..)]
      exact Chan.ids_body (s.onChan_body k _)
    · have hids : ((s.onChan j (Chan.assignIds modid fm)).chan k).ids = (s.chan k).ids := by
        rw [s.onChan_there j k _ hk hkj, Chan.facing, Chan.baseFollows_ids, Chan.seamsFaced_of_links _ _ _ (Chan.assignIds_links ..)]
      rw [Chan.assignIds_congr modid fm hids, hids]
      simp [hkj]

theorem PortDie.core_flash {a b : PortDie} (h : a.core = b.core) : a.flash = b.flash :=
  show a.core.flash = b.core.flash by rw [h]

theorem State.assignAll_core (modid fm : Nat) (l : List Nat) (s : State) :
    (l.foldl (fun s c => s.onChan c (Chan.assignIds modid fm)) s).pd.core = s.pd.core := by
  induction l generalizing s with
  | nil => rfl
  | cons j t ih => rw [List.foldl_cons, ih, State.onChan_core]

/-- The module's ids in flash, and in the channels that are READY or FAULTED. -/
def State.idsSet (s : State) (modid fm : Nat) : State :=
  (List.range 8).foldl (fun s c => s.onChan c (Chan.assignIds modid fm))
    (s.onPort (fun p => { p with flash := { p.flash with modid := some modid, fm := fm } }))

theorem State.idsSet_ids (s : State) (modid fm k : Nat) (hk : k < 8) :
    ((s.idsSet modid fm).chan k).ids = ((s.chan k).assignIds modid fm).ids :=
  (State.assignAll_ids modid fm _ List.nodup_range _ k hk).trans (if_pos (List.mem_range.2 hk))

theorem State.idsSet_flash (s : State) (modid fm : Nat) : (s.idsSet modid fm).pd.flash = { s.pd.flash with modid := some modid, fm := fm } := by
  rw [State.idsSet, PortDie.core_flash (State.assignAll_core modid fm _ _)]
  rfl

theorem State.idsSet_session (s : State) (modid fm id : Nat) : (s.idsSet modid fm).pd.session id = s.pd.session id :=
  PortDie.core_session (State.assignAll_core modid fm _ _) id

/-- `MODULE_ID_SET` (R259, R297, R312). -/
theorem ReadyM.moduleIdSet {s : State} {q : Issue} {modid fm : Nat} {d : Datagram}
    (h : ReadyM s q 0x07 [(0, 2, modid), (2, 2, fm)] s.idsHeld (fun _ => [(decide (4095 < modid), 0)]) d) :
    ∃ u, exec (.moduleIdSet q modid fm) s = .next u ∧ Answered s u d .ok [] ∧ u.pd.flash.modid = some modid ∧ u.pd.flash.fm = fm ∧
      ∀ k < 8, (u.chan k).st = (s.chan k).st ∧ ((s.chan k).st = .ready ∨ (s.chan k).st = .faulted →
        (u.chan k).node = modid * 8 + (s.chan k).idx ∧ (u.chan k).fm = fm) := by
  have hexec : exec (.moduleIdSet q modid fm) s = .next (s.modCmd q 0x07 [(0, 2, modid), (2, 2, fm)] s.idsHeld
      (fun _ => [(decide (4095 < modid), 0)]) (fun d s => (s.idsSet modid fm).replyM d .ok [] [])) := rfl
  have hflash := (PortDie.unanswered_flash (h.unanswered (fun d s => (s.idsSet modid fm).replyM d .ok [] []))).trans
    ((PortDie.unanswered_flash (State.replyM_unanswered _ _ _ _ _)).trans (State.idsSet_flash _ modid fm))
  refine ⟨_, hexec, h.answered rfl (PortOnly.refl _) ?_, by rw [hflash], by rw [hflash], fun k hk => ?_⟩
  · rw [State.idsSet_session]
    exact s.begunM_key d d.session
  · have hids : (((s.begunM d).idsSet modid fm).chan k).ids = ((s.chan k).assignIds modid fm).ids := State.idsSet_ids _ modid fm k hk
    rw [h.chan, (State.replyM_only _ _ _ _ _).chan]
    simp only [Chan.ids, Prod.mk.injEq] at hids
    obtain ⟨-, hst, hnode, hfm⟩ := hids
    refine ⟨hst.trans ?_, fun hrf => ?_⟩
    · unfold Chan.assignIds
      split <;> rfl
    · have htaken : (s.chan k).assignIds modid fm = (s.chan k).takeIds modid fm := if_pos (by simpa using hrf)
      rw [hnode, hfm, htaken]
      exact ⟨rfl, rfl⟩

/-! ## `NET_SET`: a staged register -/

/-- A register seen through its staged copy (R327). -/
def Bank.stagedView (b : Bank) (off : Nat) : Word :=
  let rws := ((findReg pdRegs off).map (·.bitsOf .rws)).getD 0
  (b.get pdRegs off &&& ~~~ rws) ||| (b.getStaged pdRegs off &&& rws)

theorem PortDie.staged_eq (p : PortDie) (off : Nat) : p.staged off = p.bank.stagedView off := rfl

/-- A map reads at a key only its default at that key. -/
theorem mapGet_default {α : Type} {d e : Nat → α} (m : NMap α) {k : Nat} (h : d k = e k) : mapGet d m k = mapGet e m k := by
  induction m with
  | nil => exact h
  | cons p t ih => rw [mapGet, mapGet, ih]

/-- Two banks that agree at a register, and on what is staged there, show the same through the staged copy. -/
theorem Bank.stagedView_congr {a b : Bank} {k : Nat} (hg : a.get pdRegs k = b.get pdRegs k)
    (hs : a.getStaged pdRegs k = b.getStaged pdRegs k) : a.stagedView k = b.stagedView k := by
  unfold Bank.stagedView
  rw [hg, hs]

theorem Bank.getStaged_put_ne (b : Bank) (off k : Nat) (v : Word) (h : k ≠ off) :
    (b.put pdRegs off v).getStaged pdRegs k = b.getStaged pdRegs k :=
  mapGet_default b.staged (by rw [Bank.get_put, if_neg h])

theorem Bank.stagedView_put_ne (b : Bank) (off k : Nat) (v : Word) (h : k ≠ off) :
    (b.put pdRegs off v).stagedView k = b.stagedView k :=
  Bank.stagedView_congr (by rw [Bank.get_put, if_neg h]) (b.getStaged_put_ne off k v h)

theorem PortDie.staged_setFld_ne (p : PortDie) (f : Fld) (v k : Nat) (h : k ≠ f.off) : (p.setFld f v).staged k = p.staged k :=
  Bank.stagedView_put_ne _ _ _ _ h

theorem State.pdFlag_staged (s : State) (f n : Fld) (k : Nat) (hf : k ≠ f.off) (hn : k ≠ n.off) : (s.pdFlag f n).pd.staged k = s.pd.staged k :=
  (PortDie.staged_setFld_ne _ n _ k hn).trans (PortDie.staged_setFld_ne _ f _ k hf)

/-- A word put together of its own parts. -/
theorem Word.merge_self (x m : Word) : (x &&& ~~~m) ||| (x &&& m) = x := by
  refine BitVec.eq_of_getLsbD_eq fun i hi => ?_
  simp only [BitVec.getLsbD_or, BitVec.getLsbD_and, BitVec.getLsbD_not, hi, decide_true, Bool.true_and]
  cases m.getLsbD i <;> simp

/-- Applying a staged register makes it what it showed through its staged copy (R327). -/
theorem Bank.stagedView_applyAt (b : Bank) (off k : Nat) : (b.applyAt pdRegs off).stagedView k = b.stagedView k := by
  by_cases h : k = off
  · subst h
    have hgs : (b.applyAt pdRegs k).getStaged pdRegs k = (b.applyAt pdRegs k).get pdRegs k :=
      (mapGet_mapDel _ b.staged k k).trans (if_pos rfl)
    have hg : (b.applyAt pdRegs k).get pdRegs k = b.stagedView k := (Bank.get_put ..).trans (if_pos rfl)
    rw [Bank.stagedView, hgs, hg]
    exact Word.merge_self _ _
  · refine Bank.stagedView_congr ((Bank.get_put ..).trans (if_neg h)) ?_
    exact (mapGet_mapDel _ b.staged off k).trans ((if_neg h).trans (b.getStaged_put_ne off k _ h))

/-- A write changes the stored word of its register, and the staged copy of one that is staged; marks of parity beside. -/
theorem Bank.write_maps (b : Bank) (r : RegDef) (off : Nat) (v live : Word) :
    ∃ w, (b.write pdRegs r off v live).bank.regs = (b.put pdRegs off w).regs ∧ (b.write pdRegs r off v live).bank.staged =
      if r.isStaged then ((b.put pdRegs off w).putStaged pdRegs off ((b.getStaged pdRegs off &&& ~~~ r.bitsOf .rws) ||| (v &&& r.bitsOf .rws))).staged
      else b.staged := by
  refine ⟨(b.get pdRegs off &&& ~~~ r.bitsOf .rw &&& ~~~ (r.bitsOf .w1c &&& v)) ||| (v &&& r.bitsOf .rw), ?_, ?_⟩
  · unfold Bank.write
    dsimp only
    rw [apply_ite Bank.regs, ite_self, apply_ite Bank.regs]
    exact ite_self _
  · unfold Bank.write
    dsimp only
    rw [apply_ite Bank.staged, ite_self, apply_ite Bank.staged]
    rfl

/-- The staged copy that such maps hold. -/
theorem Bank.getStaged_of_maps {a b : Bank} (hr : a.regs = b.regs) (hs : a.staged = b.staged) (k : Nat) :
    a.getStaged pdRegs k = b.getStaged pdRegs k := by
  have hget : a.get pdRegs = b.get pdRegs := by funext k; rw [Bank.get, Bank.get, hr]
  rw [Bank.getStaged, Bank.getStaged, hget, hs]

theorem Bank.getStaged_putStaged (b : Bank) (off k : Nat) (v : Word) :
    (b.putStaged pdRegs off v).getStaged pdRegs k = if k = off then v else b.getStaged pdRegs k :=
  mapGet_mapSet ..

/-- A write of a register leaves what the others show. -/
theorem Bank.stagedView_write_ne (b : Bank) (r : RegDef) (off k : Nat) (v live : Word) (h : k ≠ off) :
    (b.write pdRegs r off v live).bank.stagedView k = b.stagedView k := by
  obtain ⟨w, hregs, hstaged⟩ := b.write_maps r off v live
  refine Bank.stagedView_congr ?_ ?_
  · simp [Bank.get, hregs, Bank.put, h]
  · cases hs : r.isStaged with
    | true =>
      rw [hs, if_pos rfl] at hstaged
      rw [Bank.getStaged_of_maps (b := (b.put pdRegs off w).putStaged pdRegs off _) hregs hstaged, Bank.getStaged_putStaged, if_neg h,
        Bank.getStaged_put_ne _ _ _ _ h]
    | false =>
      rw [hs, if_neg (by decide)] at hstaged
      rw [Bank.getStaged_of_maps (b := b.put pdRegs off w) hregs hstaged, Bank.getStaged_put_ne _ _ _ _ h]

/-- A write of a register whose bits are all staged is what its staged copy shows. -/
theorem Bank.stagedView_write_same (b : Bank) (r : RegDef) (off : Nat) (v live : Word) (hr : findReg pdRegs off = some r)
    (hrws : r.bitsOf .rws = BitVec.allOnes 32) (hst : r.isStaged = true) : (b.write pdRegs r off v live).bank.stagedView off = v := by
  obtain ⟨w, hregs, hstaged⟩ := b.write_maps r off v live
  rw [hst, if_pos rfl, hrws] at hstaged
  unfold Bank.stagedView
  rw [hr, Bank.getStaged_of_maps (b := (b.put pdRegs off w).putStaged pdRegs off _) hregs hstaged, Bank.getStaged_putStaged, if_pos rfl]
  simp only [Option.map_some, Option.getD_some, hrws, BitVec.not_allOnes, BitVec.and_zero, BitVec.zero_or, BitVec.and_allOnes]

/-! ## `NET_SET`: writes and the strobe of MG0 -/

/-- A register that no flag and no log entry of the port die changes. -/
def QuietReg (off : Nat) : Prop := 0x100 ≤ off ∧ off < 0x48000

theorem QuietReg.ne {k off : Nat} (h : QuietReg k) (ho : off < 0x100 ∨ 0x48000 ≤ off) : k ≠ off := by
  obtain ⟨hlo, hhi⟩ := h
  omega

/-- Only the port die has changed, and what its quiet registers show through their staged copies has not. -/
structure KeepsStaged (s t : State) : Prop extends PortOnly s t where
  staged : ∀ k, QuietReg k → t.pd.staged k = s.pd.staged k

theorem KeepsStaged.refl (s : State) : KeepsStaged s s := ⟨PortOnly.refl s, fun _ _ => rfl⟩

theorem KeepsStaged.trans {a b c : State} (h : KeepsStaged a b) (k : KeepsStaged b c) : KeepsStaged a c :=
  ⟨h.toPortOnly.trans k.toPortOnly, fun o ho => (k.staged o ho).trans (h.staged o ho)⟩

/-- A change of the port die that leaves its bank. -/
theorem KeepsStaged.of_bank {s t : State} (h : PortOnly s t) (hb : t.pd.bank = s.pd.bank) : KeepsStaged s t :=
  ⟨h, fun k _ => by rw [PortDie.staged_eq, PortDie.staged_eq, hb]⟩

theorem State.pdFlag_keeps (s : State) (f n : Fld) (hf : f.off < 0x100) (hn : n.off < 0x100) : KeepsStaged s (s.pdFlag f n) :=
  ⟨s.onPort_only _, fun k hk => s.pdFlag_staged f n k (hk.ne (.inl hf)) (hk.ne (.inl hn))⟩

theorem State.logClock_bank (s : State) (ch : Option Nat) : (s.logClock ch).2.pd.bank = s.pd.bank := by
  unfold State.logClock
  split
  · rfl
  · split <;> rfl

theorem State.flog_keeps (s : State) (st : Status) (src code : Nat) (ch : Option Nat) (arg : BitVec 64) :
    KeepsStaged s (s.flog st src code ch arg) := by
  unfold State.flog
  dsimp only
  refine .trans (.of_bank (s.logClock_only ch) (s.logClock_bank ch)) (.trans ?_ (.of_bank (State.settleServices_only _) rfl))
  refine .trans ?_ (.of_bank (State.deliver_only _ _ _) (by rw [State.deliver_pd]))
  exact ⟨State.onPort_only _ _, fun k hk => PortDie.staged_setFld_ne _ F.PD_FLOG_SEQ_NEXT _ k (hk.ne (.inr (by decide)))⟩

theorem State.pdParity_keeps (s : State) (off : Nat) : KeepsStaged s (s.pdParity off) := by
  unfold State.pdParity
  refine ((s.pdFlag_keeps F.PD_STATUS_PARITY F.PD_FLAG_COUNT_PARITY (by decide) (by decide)).trans ?_).trans (State.flog_keeps _ _ _ _ _ _)
  generalize s.pdFlag F.PD_STATUS_PARITY F.PD_FLAG_COUNT_PARITY = s1
  split
  · exact ⟨s1.onPort_only _, fun k hk => (PortDie.staged_setFld_ne _ F.PD_PARITY_ADDR_SEEN 1 k (hk.ne (.inl (by decide)))).trans
      (PortDie.staged_setFld_ne _ F.PD_PARITY_ADDR_ADDR off k (hk.ne (.inl (by decide))))⟩
  · exact .refl s1

theorem State.pdCheckStaged_keeps (s : State) (off : Nat) : KeepsStaged s (s.pdCheckStaged off) := by
  unfold State.pdCheckStaged
  split
  · refine KeepsStaged.trans ⟨s.onPort_only _, fun _ _ => rfl⟩ (State.pdParity_keeps _ off)
  · exact .refl s

theorem KeepsStaged.foldl {α : Type} {f : State → α → State} (h : ∀ s a, KeepsStaged s (f s a)) (l : List α) (s : State) :
    KeepsStaged s (l.foldl f s) := by
  induction l generalizing s with
  | nil => exact .refl s
  | cons a t ih => exact (h s a).trans (ih _)

theorem Bank.stagedView_applyAll (l : List Nat) (b : Bank) (k : Nat) :
    (l.foldl (fun b o => b.applyAt pdRegs o) b).stagedView k = b.stagedView k := by
  induction l generalizing b with
  | nil => rfl
  | cons o t ih => rw [List.foldl_cons, ih, Bank.stagedView_applyAt]

/-- Applying MG0 shows in each register what its staged copy showed, and goes to flash. -/
theorem State.applyMg0_keeps (s : State) : KeepsStaged s (s.applyMg 0) := by
  unfold State.applyMg State.applied
  rw [if_pos rfl]
  refine KeepsStaged.trans ?_ (.of_bank (State.onPort_only _ _) rfl)
  exact ⟨s.onPort_only _, fun k _ => Bank.stagedView_applyAll _ _ k⟩

/-- A strobe of MG0, whatever its outcome, leaves what the staged copies show. -/
theorem State.strobeMg0_keeps (s : State) : KeepsStaged s (s.strobeMg 1).2 := by
  unfold State.strobeMg
  dsimp only
  split
  · exact KeepsStaged.foldl (fun s o => s.pdCheckStaged_keeps o) _ s
  · split
    · exact .refl s
    · rw [show mgOf 1 = [0] by decide, List.foldl_cons, List.foldl_nil]
      split
      · exact .refl s
      · exact s.applyMg0_keeps

/-- The registers of MG0 that hold addresses. -/
def netAddr : List Nat := [R.PD_NET_IP6, R.PD_NET_IP6 + 4, R.PD_NET_IP6 + 8, R.PD_NET_IP6 + 12, R.PD_NET_IP4]

/-- Their bits are all staged. -/
theorem netAddr_staged : ∀ off ∈ netAddr, ∃ r, findReg pdRegs off = some r ∧ r.bitsOf .rws = BitVec.allOnes 32 ∧ r.isStaged = true := by
  have h : ∀ off ∈ netAddr, ((findReg pdRegs off).map (fun r => decide (r.bitsOf .rws = BitVec.allOnes 32) && r.isStaged)) = some true := by
    decide +kernel
  intro off ho
  obtain ⟨r, hr, hb⟩ := Option.map_eq_some_iff.1 (h off ho)
  exact ⟨r, hr, by simpa using hb⟩

/-- A write of a register of MG0 does nothing beyond its fields, and at most flags a reserved bit. -/
theorem State.pdWrite_net (s : State) {off : Nat} {r : RegDef} (ho : off ∈ R.PD_NET_CFG :: netAddr) (hr : findReg pdRegs off = some r) (v : Word) :
    PortOnly s (s.pdWrite off v) ∧ (s.pdWrite off v).pd.sessions = s.pd.sessions ∧
      ∀ k, QuietReg k → (s.pdWrite off v).pd.staged k = (s.pd.bank.write pdRegs r off v (s.pdLive off)).bank.stagedView k := by
  have hact (t : State) : t.pdWriteActs off v = t := by
    have hne : off ≠ R.PD_CH_ENABLE ∧ off ≠ R.PD_CH_HOLD ∧ off ≠ R.PD_STATUS ∧ off ≠ R.PD_SNAP ∧ off ≠ R.SEC_STATUS ∧ off ≠ R.SEC_CTL ∧
        off ≠ R.MET_CTL := (by decide : ∀ o ∈ R.PD_NET_CFG :: netAddr, o ≠ R.PD_CH_ENABLE ∧ o ≠ R.PD_CH_HOLD ∧ o ≠ R.PD_STATUS ∧
          o ≠ R.PD_SNAP ∧ o ≠ R.SEC_STATUS ∧ o ≠ R.SEC_CTL ∧ o ≠ R.MET_CTL) off ho
    unfold State.pdWriteActs
    simp only [hne, if_false]
  unfold State.pdWrite
  rw [hr]
  dsimp only
  rw [hact]
  generalize s.pd.bank.write pdRegs r off v (s.pdLive off) = w
  split
  · exact ⟨(s.onPort_only _).trans (State.onPort_only _ _), rfl,
      fun k hk => (State.pdFlag_keeps _ F.PD_STATUS_RSV_WRITE F.PD_FLAG_COUNT_RSV_WRITE (by decide) (by decide)).staged k hk⟩
  · exact ⟨s.onPort_only _, rfl, fun _ _ => rfl⟩

/-- The registers of MG0 lie where no flag reaches. -/
theorem netAddr_quiet : ∀ k ∈ netAddr, QuietReg k ∧ k ≠ R.PD_NET_CFG := by
  simp only [netAddr, QuietReg]
  decide

/-- What an address register shows after a write of one. -/
theorem State.pdWrite_netAddr (s : State) {off k : Nat} (ho : off ∈ netAddr) (hk : k ∈ netAddr) (v : Word) :
    (s.pdWrite off v).pd.staged k = if k = off then v else s.pd.staged k := by
  obtain ⟨r, hr, hrws, hst⟩ := netAddr_staged off ho
  rw [(s.pdWrite_net (List.mem_cons_of_mem _ ho) hr v).2.2 k (netAddr_quiet k hk).1]
  split
  · next h => rw [h, Bank.stagedView_write_same _ _ _ _ _ hr hrws hst]
  · next h => rw [Bank.stagedView_write_ne _ _ _ _ _ _ h]; rfl

/-- The register of the network lengths leaves the addresses. -/
theorem State.pdWrite_netCfg (s : State) {k : Nat} (hk : k ∈ netAddr) (v : Word) : (s.pdWrite R.PD_NET_CFG v).pd.staged k = s.pd.staged k := by
  have hsome : (findReg pdRegs R.PD_NET_CFG).isSome = true := by decide +kernel
  obtain ⟨r, hr⟩ := Option.isSome_iff_exists.1 hsome
  rw [(s.pdWrite_net (List.mem_cons_self ..) hr v).2.2 k (netAddr_quiet k hk).1, Bank.stagedView_write_ne _ _ _ _ _ _ (netAddr_quiet k hk).2]
  rfl

/-- A write of a register of MG0 opens and ends no session, and changes the port die alone. -/
theorem State.pdWrite_net_only (s : State) {off : Nat} (ho : off ∈ R.PD_NET_CFG :: netAddr) (v : Word) :
    PortOnly s (s.pdWrite off v) ∧ (s.pdWrite off v).pd.sessions = s.pd.sessions := by
  have hsome : (findReg pdRegs off).isSome = true := (by decide +kernel : ∀ o ∈ R.PD_NET_CFG :: netAddr, (findReg pdRegs o).isSome = true) off ho
  obtain ⟨r, hr⟩ := Option.isSome_iff_exists.1 hsome
  obtain ⟨h1, h2, -⟩ := s.pdWrite_net ho hr v
  exact ⟨h1, h2⟩

/-- The addresses of `NET_SET` staged. -/
def State.stageAddr (s : State) (ip6 ip4 : Bytes) : State :=
  ([0, 1, 2, 3].foldl (fun s k => s.pdWrite (R.PD_NET_IP6 + 4 * k) (BitVec.ofNat 32 (leAt ip6 (4 * k) 4))) s).pdWrite
    R.PD_NET_IP4 (BitVec.ofNat 32 (leAt ip4 0 4))

/-- The addresses and the network lengths of `NET_SET` staged (R331). -/
def State.stageNet (s : State) (ip6 : Bytes) (len6 : Nat) (ip4 : Bytes) (len4 : Nat) : State :=
  (s.stageAddr ip6 ip4).pdWrite R.PD_NET_CFG
    (F.PD_NET_CFG_LEN4.into (F.PD_NET_CFG_LEN6.into ((s.stageAddr ip6 ip4).pdRead R.PD_NET_CFG 0) len6) len4)

theorem State.stageNet_only (s : State) (ip6 : Bytes) (len6 : Nat) (ip4 : Bytes) (len4 : Nat) :
    PortOnly s (s.stageNet ip6 len6 ip4 len4) ∧ (s.stageNet ip6 len6 ip4 len4).pd.sessions = s.pd.sessions := by
  have hwrite (t : State) {off : Nat} (ho : off ∈ R.PD_NET_CFG :: netAddr) (v : Word) (h : PortOnly s t ∧ t.pd.sessions = s.pd.sessions) :
      PortOnly s (t.pdWrite off v) ∧ (t.pdWrite off v).pd.sessions = s.pd.sessions :=
    ⟨h.1.trans (t.pdWrite_net_only ho v).1, (t.pdWrite_net_only ho v).2.trans h.2⟩
  have hmem : ∀ k < 4, R.PD_NET_IP6 + 4 * k ∈ R.PD_NET_CFG :: netAddr := by decide
  have haddr := hwrite _ (hmem 3 (by decide)) (BitVec.ofNat 32 (leAt ip6 (4 * 3) 4)) (hwrite _ (hmem 2 (by decide))
    (BitVec.ofNat 32 (leAt ip6 (4 * 2) 4)) (hwrite _ (hmem 1 (by decide)) (BitVec.ofNat 32 (leAt ip6 (4 * 1) 4))
      (hwrite s (hmem 0 (by decide)) (BitVec.ofNat 32 (leAt ip6 (4 * 0) 4)) ⟨PortOnly.refl s, rfl⟩)))
  exact hwrite _ (by decide) _ (hwrite _ (by decide) _ haddr)

/-- What the address registers then show through their staged copies. -/
theorem State.stageNet_staged (s : State) (ip6 : Bytes) (len6 : Nat) (ip4 : Bytes) (len4 : Nat) :
    (s.stageNet ip6 len6 ip4 len4).pd.staged R.PD_NET_IP4 = BitVec.ofNat 32 (leAt ip4 0 4) ∧
      ∀ k < 4, (s.stageNet ip6 len6 ip4 len4).pd.staged (R.PD_NET_IP6 + 4 * k) = BitVec.ofNat 32 (leAt ip6 (4 * k) 4) := by
  have hmem : ∀ k < 4, R.PD_NET_IP6 + 4 * k ∈ netAddr := by decide
  have h4 : R.PD_NET_IP4 ∈ netAddr := by decide
  unfold State.stageNet
  refine ⟨?_, fun k hk => ?_⟩
  · rw [State.pdWrite_netCfg _ h4, State.stageAddr, State.pdWrite_netAddr _ h4 h4, if_pos rfl]
  · rw [State.pdWrite_netCfg _ (hmem k hk), State.stageAddr, State.pdWrite_netAddr _ h4 (hmem k hk),
      if_neg (by simp only [R.PD_NET_IP6, R.PD_NET_IP4]; omega)]
    simp only [List.foldl_cons, List.foldl_nil]
    rw [State.pdWrite_netAddr _ (hmem 3 (by decide)) (hmem k hk), State.pdWrite_netAddr _ (hmem 2 (by decide)) (hmem k hk),
      State.pdWrite_netAddr _ (hmem 1 (by decide)) (hmem k hk), State.pdWrite_netAddr _ (hmem 0 (by decide)) (hmem k hk)]
    interval_cases k <;> rfl

/-- `NET_SET` (R297, R331, R339). -/
theorem ReadyM.netSet {s : State} {q : Issue} {ip6 ip4 : Bytes} {len6 len4 : Nat} {d : Datagram}
    (h : ReadyM s q 0x0E [opBytes 0 16 ip6, (16, 1, len6), opBytes 20 4 ip4, (24, 1, len4)] false (fun _ => [(decide (64 ≤ len4), 24)]) d) :
    ∃ u, exec (.netSet q ip6 len6 ip4 len4) s = .next u ∧ Answered s u d .ok [] ∧ u.chans = s.chans ∧
      u.pd.staged R.PD_NET_IP4 = BitVec.ofNat 32 (leAt ip4 0 4) ∧ ∀ k < 4, u.pd.staged (R.PD_NET_IP6 + 4 * k) = BitVec.ofNat 32 (leAt ip6 (4 * k) 4) := by
  have hexec : exec (.netSet q ip6 len6 ip4 len4) s = .next (s.modCmd q 0x0E
      [opBytes 0 16 ip6, (16, 1, len6), opBytes 20 4 ip4, (24, 1, len4)] false (fun _ => [(decide (64 ≤ len4), 24)])
      (fun d s => (((s.stageNet ip6 len6 ip4 len4).replyM d .ok [] []).strobeMg 1).2)) := rfl
  obtain ⟨honly, hsess⟩ := (s.begunM d).stageNet_only ip6 len6 ip4 len4
  obtain ⟨hip4, hip6⟩ := (s.begunM d).stageNet_staged ip6 len6 ip4 len4
  have hstrobe := ((s.begunM d).stageNet ip6 len6 ip4 len4 |>.replyM d .ok [] []).strobeMg0_keeps
  have hstaged (k : Nat) (hk : k ∈ netAddr) : (s.modCmd q 0x0E
      [opBytes 0 16 ip6, (16, 1, len6), opBytes 20 4 ip4, (24, 1, len4)] false (fun _ => [(decide (64 ≤ len4), 24)])
      (fun d s => (((s.stageNet ip6 len6 ip4 len4).replyM d .ok [] []).strobeMg 1).2)).pd.staged k =
        ((s.begunM d).stageNet ip6 len6 ip4 len4).pd.staged k := by
    rw [PortDie.staged_eq, PortDie.unanswered_bank (h.unanswered _), ← PortDie.staged_eq, hstrobe.staged k (netAddr_quiet k hk).1,
      PortDie.staged_eq, PortDie.unanswered_bank (State.replyM_unanswered _ _ _ _ _), ← PortDie.staged_eq]
  refine ⟨_, hexec, h.answered rfl hstrobe.toPortOnly ?_, (h.only ((honly.trans (State.replyM_only _ _ _ _ _)).trans hstrobe.toPortOnly)).chans,
    (hstaged _ (by decide)).trans hip4, fun k hk => (hstaged _ ?_).trans (hip6 k hk)⟩
  · rw [PortDie.session, hsess]
    exact s.begunM_key d d.session
  · exact (by decide : ∀ k < 4, R.PD_NET_IP6 + 4 * k ∈ netAddr) k hk

/-- Settles O40: each command's effect ends in its reply, and what answering leaves of the port die keeps the effect. -/
theorem moduleAdministrationAnswers : Obligations.ModuleAdministrationAnswers := by
  intro q addr port chmask modid fm services anchor len6 len4 ip6 ip4 d s
  refine ⟨fun h => ?_, fun h hs => h.nop_executes hs, fun h => ?_, fun h => h.eventSubscribe, fun h => h.moduleIdSet,
    fun h hn => h.serviceMove hn, fun h => h.netSet⟩
  · exact ExecutesM.of h rfl rfl (PortOnly.refl _) (s.begunM_key d d.session)
  · exact ExecutesM.of h rfl rfl (PortOnly.refl _) (s.begunM_key d d.session)

end Sys2Proof.Machine
end

section
/-! PROOFS. Bring-up: a state in which groves run before their channel does. -/

namespace Sys2Proof.Machine

/-! ## Bring-up of a channel whose groves run already -/

/-- CH0 in step 10 of bring-up, with a grove that runs, and on a seam end that CH0 keeps disabled a tile-data frame of another grove that
has not been acknowledged. No step leads here from reset, where a channel leaves OFF without groves and links. -/
def bringupWithGroves : Chan :=
  { Chan.reset 0 with
    st := .bringup
    bank := { Bank.empty with regs := [(F.CTL_BRINGUP_STEP.off, 10)] }
    groves := [(0, { Grove.empty with st := .loaded, job := 7 }), (1, { Grove.empty with st := .running, job := 8 })]
    links := [(3, { Link.reset with
      st := .up, replay := [⟨{ Frame.blank 0x09 0 (.raw []) with src := 0xFFFE, job := 7 }, none, 0, 0⟩] })] }

/-- The module with that channel, its input at 54 V. -/
def moduleWithGroves : State :=
  { State.reset with
    chans := [(0, bringupWithGroves)]
    pd := { PortDie.reset with powered := true, boot := 4, power := { ModPower.reset with vin := 54000 } } }

/-- Step 10 disables the seam end; the flush faults the grove whose frame is lost, and that fault takes the READY channel to RUNNING. -/
theorem bringupStepDone_running : ∃ u, exec (.bringupStepDone 0 true [] [] [] 0) moduleWithGroves = .next u ∧ (u.chan 0).st = .running :=
  ⟨_, rfl, by decide +kernel⟩

/-- Refutes O59: a step 10 that ends well with no freeze cause need not end in READY or FROZEN. In `moduleWithGroves` it ends in RUNNING. -/
theorem not_bringUpAndChannelFaults : ¬ Obligations.BringUpAndChannelFaults := by
  intro h
  obtain ⟨-, -, -, hstep, -⟩ := h 0 true [] [] [] 0 moduleWithGroves
  obtain ⟨-, -, -, -, -, -, -, -, -, -, h10, -⟩ := hstep ⟨rfl, by decide +kernel⟩
  obtain ⟨u, hu, hst, -⟩ := (h10 (by decide +kernel)).2 (by decide +kernel) (by decide +kernel)
  obtain ⟨v, hv, hrun⟩ := bringupStepDone_running
  cases hu.symm.trans hv
  have hends : (u.chan 0).st = .ready ∨ (u.chan 0).st = .frozen := hst
  simp [hrun] at hends

end Sys2Proof.Machine
end

section
/-! PROOFS. Compares, conversions, reductions, broadcasts and scalar instructions: what a context that issues does, and that one that
cannot stays as it is. -/

namespace Sys2Proof.Machine

/-! ## Issuing and not issuing -/

/-- Nothing issues where the context cannot. -/
theorem Chan.issue_idle {c : Chan} {i x : Nat} (f : Ctx → Ctx) (h : c.canIssue i x = false) : c.issue i x f = c :=
  if_neg (by simp [h])

/-- The test that guards the instructions with more than one outcome, where the context can issue. -/
theorem Acts.of_gate {i : Instr} {s : State} {t : TileRef} {x : Fin 2} {f : Chan → Chan} {d : Chan}
    (hc : (s.chan t.ch).canIssue (tileIdx t) x = true)
    (h : exec i s = chanStep s t.ch (fun c => if !c.canIssue (tileIdx t) x then c else f c)) (hd : f (s.chan t.ch) = d) : Acts i s t.ch d :=
  Acts.of_chanStep h ((if_neg (by simp [hc])).trans hd)

/-- The same test where the context cannot issue. -/
theorem Acts.of_gate_idle {i : Instr} {s : State} {t : TileRef} {x : Fin 2} {f : Chan → Chan}
    (hc : (s.chan t.ch).canIssue (tileIdx t) x = false)
    (h : exec i s = chanStep s t.ch (fun c => if !c.canIssue (tileIdx t) x then c else f c)) : Acts i s t.ch (s.chan t.ch) :=
  Acts.of_chanStep h (if_pos (by simp [hc]))

/-- A guarded instruction whose outcome is to issue `f`. -/
theorem Issues.of_gate {i : Instr} {s : State} {t : TileRef} {x : Fin 2} {g : Chan → Chan} {f : Ctx → Ctx}
    (hc : (s.chan t.ch).canIssue (tileIdx t) x = true)
    (h : exec i s = chanStep s t.ch (fun c => if !c.canIssue (tileIdx t) x then c else g c))
    (hg : g (s.chan t.ch) = (s.chan t.ch).issue (tileIdx t) x f) : Issues i s t x (f ((s.chan t.ch).at_ t x)).advance :=
  Acts.of_gate hc h (hg.trans (Chan.issue_eq f hc))

/-- A vector instruction over its own context's registers, where that context can issue. -/
theorem Issues.of_vecStep {i : Instr} {s : State} {t : TileRef} {x : Fin 2} {f : Ctx → Ctx}
    (hc : (s.chan t.ch).canIssue (tileIdx t) x = true) (h : exec i s = vecStep t x f s) : Issues i s t x (f ((s.chan t.ch).at_ t x)).advance :=
  Acts.of_chanStep h (Chan.issue_eq f hc)

/-- The same where the context cannot issue. -/
theorem Acts.of_vecStep_idle {i : Instr} {s : State} {t : TileRef} {x : Fin 2} {f : Ctx → Ctx}
    (hc : (s.chan t.ch).canIssue (tileIdx t) x = false) (h : exec i s = vecStep t x f s) : Acts i s t.ch (s.chan t.ch) :=
  Acts.of_chanStep h (Chan.issue_idle f hc)

/-! ## Reductions -/

@[simp] theorem Ctx.setX_v (v : Ctx) (i : BitVec 5) (n : BitVec 64) : (v.setX i n).v = v.v := by unfold Ctx.setX; split <;> rfl
@[simp] theorem Ctx.setX_p (v : Ctx) (i : BitVec 5) (n : BitVec 64) : (v.setX i n).p = v.p := by unfold Ctx.setX; split <;> rfl
@[simp] theorem Ctx.orFlags_v (v : Ctx) (fl : FFlags) : (v.orFlags fl).v = v.v := rfl
@[simp] theorem Ctx.orFlags_p (v : Ctx) (fl : FFlags) : (v.orFlags fl).p = v.p := rfl
@[simp] theorem Ctx.orFlags_xr (v : Ctx) (fl : FFlags) (k : BitVec 5) : (v.orFlags fl).xr k = v.xr k := rfl

/-- Register x0 reads 0 (R84). -/
@[simp] theorem Ctx.xr_zero (v : Ctx) : v.xr 0 = 0 := rfl

/-- The step of a reduction (R92): the sum, or the larger or smaller of two lanes. -/
def redOp (f : VFields) (a b : Nat) : Nat × FFlags :=
  if f.sub = 0 then (fmtOfT f.ty).add ((fmtOfT f.ty).decode a) ((fmtOfT f.ty).decode b) else (fmtOfT f.ty).minMax (decide (f.sub = 1)) a b

/-- A reduction writes its scalar destination and flags alone, whatever its predicate gates. -/
theorem Ctx.red_writes (f : VFields) (v : Ctx) : ∃ n fl, v.red f = (v.setX f.vd n).orFlags fl := by
  unfold Ctx.red
  dsimp only
  split <;> exact ⟨_, _, rfl⟩

/-- A reduction whose predicate opens every lane combines them in the fixed tree (R65). -/
theorem Ctx.red_open {f : VFields} {v : Ctx} (h : ∀ l < laneCount f.ty, (v.pr f.pred).getLsbD l = true) :
    v.red f = (v.setX f.vd (BitVec.ofNat 64
        ((treeReduce (redOp f) 7 ((List.range (laneCount f.ty)).map (laneAt f.ty (v.vr f.va)))).1.headD 0))).orFlags
      (treeReduce (redOp f) 7 ((List.range (laneCount f.ty)).map (laneAt f.ty (v.vr f.va)))).2 :=
  if_pos (List.all_eq_true.2 fun l hl => h l (List.mem_range.1 hl))

/-- The scalar destination after such a reduction; x0 stays 0. -/
theorem Ctx.xr_red_open {f : VFields} {v : Ctx} (h : ∀ l < laneCount f.ty, (v.pr f.pred).getLsbD l = true) :
    (v.red f).xr f.vd = if f.vd = 0 then 0 else BitVec.ofNat 64
      ((treeReduce (redOp f) 7 ((List.range (laneCount f.ty)).map (laneAt f.ty (v.vr f.va)))).1.headD 0) := by
  rw [Ctx.red_open h, Ctx.orFlags_xr, Ctx.xr_setX]
  by_cases hd : f.vd = 0
  · rw [if_neg (fun h => h.2 hd), if_pos hd, hd, Ctx.xr_zero]
  · rw [if_pos ⟨rfl, hd⟩, if_neg hd]

/-! ## Scalar loads and stores -/

/-- The 8 bytes at an address are not the tile's, or the address is one that faults for its alignment (R84, log entry 4). -/
def ScalarFaults (a : Nat) : Prop := sramOk a 8 = false ∨ (a % 8 ≠ 0 ∧ Config.scalarUnalignedFaults = true)

theorem scalarFaults_iff (a : Nat) : (!sramOk a 8 || (a % 8 ≠ 0 && Config.scalarUnalignedFaults)) = true ↔ ScalarFaults a := by
  simp [ScalarFaults]

theorem not_scalarFaults_of_aligned {a : Nat} (h8 : a % 8 = 0) (hin : a + 8 ≤ sramBytes) : ¬ ScalarFaults a := by
  rintro (h | ⟨h, -⟩)
  · simp [(sramOk_iff a 8).2 hin] at h
  · exact h h8

/-- A store by what the read of its partly covered lines gives (R277). -/
theorem Chan.storeBytes_eq {c d : Chan} {i x a : Nat} {b : Bytes} {errs : NMap LineErr} {r : Bool}
    (h : c.readParts i a b.length errs = (r, d)) :
    c.storeBytes i x a b errs = bif r then (d.sramWrite i a b).onCtx i x Ctx.advance else d.instrFault i x 0x0D := by
  unfold Chan.storeBytes
  rw [h]
  cases r <;> rfl

section
variable {t : TileRef} {x : Fin 2} {rd ra : BitVec 5} {off : BitVec 64} {errs : NMap LineErr} {s : State} {d : Chan}
  (hc : (s.chan t.ch).canIssue (tileIdx t) x = true)
include hc

theorem Issues.scalarAlu (o : Nat) (rb : BitVec 5) :
    Issues (.scalarInstruction t x ⟨.alu o rd ra rb, errs⟩) s t x (((s.chan t.ch).at_ t x).setX rd
      (Config.scalarAlu o (((s.chan t.ch).at_ t x).xr ra) (((s.chan t.ch).at_ t x).xr rb))).advance :=
  Issues.of_gate (f := fun v => v.setX rd (Config.scalarAlu o (v.xr ra) (v.xr rb))) hc rfl rfl

/-- A branch that is taken leaves a running context running, and one that is not moves it on. -/
theorem Issues.scalarBranch (o : Nat) (rb : BitVec 5) (tgt : BitVec 21) :
    Issues (.scalarInstruction t x ⟨.branch o ra rb tgt, errs⟩) s t x
      (if Config.scalarBranch o (((s.chan t.ch).at_ t x).xr ra) (((s.chan t.ch).at_ t x).xr rb) then
        { (s.chan t.ch).at_ t x with pc := tgt } else ((s.chan t.ch).at_ t x).advance) := by
  split
  · next h => exact Acts.of_gate hc rfl (if_pos h)
  · next h => exact Issues.of_gate (f := id) hc rfl (if_neg h)

theorem Acts.scalarLoad_faults (h : ScalarFaults (effAddr (((s.chan t.ch).at_ t x).xr ra) off)) :
    Acts (.scalarInstruction t x ⟨.load rd ra off, errs⟩) s t.ch ((s.chan t.ch).instrFault (tileIdx t) x 0x05) :=
  Acts.of_gate hc rfl (if_pos ((scalarFaults_iff _).2 h))

theorem Acts.scalarStore_faults (h : ScalarFaults (effAddr (((s.chan t.ch).at_ t x).xr ra) off)) :
    Acts (.scalarInstruction t x ⟨.store rd ra off, errs⟩) s t.ch ((s.chan t.ch).instrFault (tileIdx t) x 0x05) :=
  Acts.of_gate hc rfl (if_pos ((scalarFaults_iff _).2 h))

variable (hok : ¬ ScalarFaults (effAddr (((s.chan t.ch).at_ t x).xr ra) off))
include hok

/-- A load that does not fault for its address issues what its lines read, or faults where one is uncorrectable (R280). -/
theorem Acts.scalarLoad {r : Option Bytes}
    (hr : (s.chan t.ch).sramRead (tileIdx t) (effAddr (((s.chan t.ch).at_ t x).xr ra) off) 8 errs = (r, d)) :
    Acts (.scalarInstruction t x ⟨.load rd ra off, errs⟩) s t.ch (r.elim (d.instrFault (tileIdx t) x 0x0D)
      (fun b => d.issue (tileIdx t) x (fun v => v.setX rd (BitVec.ofNat 64 (leNat b))))) := by
  refine Acts.of_gate hc rfl ((if_neg (mt (scalarFaults_iff _).1 hok)).trans ?_)
  simp only [Chan.at_] at hr
  simp only [hr]
  cases r <;> rfl

/-- A store that does not fault for its address stores the register's 8 bytes, or faults where a line it covers in part is
uncorrectable (R277, R280). -/
theorem Acts.scalarStore {r : Bool}
    (hr : (s.chan t.ch).readParts (tileIdx t) (effAddr (((s.chan t.ch).at_ t x).xr ra) off) 8 errs = (r, d)) :
    Acts (.scalarInstruction t x ⟨.store rd ra off, errs⟩) s t.ch (bif r then
      (d.sramWrite (tileIdx t) (effAddr (((s.chan t.ch).at_ t x).xr ra) off)
        (leBytes 8 (((s.chan t.ch).at_ t x).xr rd).toNat)).onCtx (tileIdx t) x Ctx.advance
      else d.instrFault (tileIdx t) x 0x0D) :=
  Acts.of_gate hc rfl ((if_neg (mt (scalarFaults_iff _).1 hok)).trans (Chan.storeBytes_eq (by rwa [leBytes_length])))

end

/-- A load from sound lines changes its own context alone. -/
theorem Issues.scalarLoad_clean {t : TileRef} {x : Fin 2} {rd ra : BitVec 5} {off : BitVec 64} {s : State}
    (hc : (s.chan t.ch).canIssue (tileIdx t) x = true) (hok : ¬ ScalarFaults (effAddr (((s.chan t.ch).at_ t x).xr ra) off))
    (hp : ((s.chan t.ch).tile (tileIdx t)).poison = []) :
    Issues (.scalarInstruction t x ⟨.load rd ra off, []⟩) s t x (((s.chan t.ch).at_ t x).setX rd (BitVec.ofNat 64
      (leNat (cellRead ((s.chan t.ch).tile (tileIdx t)).sram (effAddr (((s.chan t.ch).at_ t x).xr ra) off) 8)))).advance := by
  have h := Acts.scalarLoad (rd := rd) hc hok (Chan.sramRead_clean _ _ _ 8 hp)
  rw [Option.elim_some, Chan.issue_eq _ hc] at h
  exact h

/-- A store into sound lines moves its context on, writes its bytes, and leaves every other tile. -/
theorem scalarStore_clean {t : TileRef} {x : Fin 2} {rd ra : BitVec 5} {off : BitVec 64} {s : State}
    (hc : (s.chan t.ch).canIssue (tileIdx t) x = true) (hok : ¬ ScalarFaults (effAddr (((s.chan t.ch).at_ t x).xr ra) off))
    (hp : ((s.chan t.ch).tile (tileIdx t)).poison = []) :
    ∃ u, exec (.scalarInstruction t x ⟨.store rd ra off, []⟩) s = .next u ∧ (u.chan t.ch).at_ t x = ((s.chan t.ch).at_ t x).advance ∧
      ((u.chan t.ch).tile (tileIdx t)).sram = cellWrite ((s.chan t.ch).tile (tileIdx t)).sram
        (effAddr (((s.chan t.ch).at_ t x).xr ra) off) (leBytes 8 (((s.chan t.ch).at_ t x).xr rd).toNat) ∧
      ∀ j, j ≠ tileIdx t → (u.chan t.ch).tile j = (s.chan t.ch).tile j := by
  obtain ⟨u, hu, hact⟩ := Acts.scalarStore (rd := rd) hc hok (Chan.readParts_clean _ _ _ 8 hp)
  have htile (j : Nat) := Chan.body_tile hact.here j
  exact ⟨u, hu, (Chan.body_ctx hact.here _ _).trans (Chan.store_ctx _ _ _ _ _ x.isLt), (congrArg Tile.sram (htile _)).trans
    (Chan.store_sram _ _ _ _ _), fun j hj => (htile j).trans (Chan.store_tile _ _ _ _ _ _ hj)⟩

/-! ## The obligation -/

/-- Settles O10: each instruction is one guarded action on its context; what its outcomes are is read off the branch they take. -/
theorem comparesReductionsAndScalarsComplete : Obligations.ComparesReductionsAndScalarsComplete := by
  refine ⟨fun t x f s => ⟨fun hc => ⟨?_, fun h => ?_, fun h => ?_, ?_, fun h => ?_, fun h => ?_⟩, fun hc => ?_⟩,
    fun t x o rd ra rb tgt off errs s => ⟨fun hc => ⟨?_, ?_, fun h => ⟨?_, ?_⟩,
      fun h => ⟨fun b d hr => ?_, fun d hr => ?_, fun d hr => ?_, fun d hr => ?_⟩, fun h8 hin hp => ⟨?_, ?_⟩⟩, fun hc op => ?_⟩⟩
  -- `VCMP`, `VCVT`, `VBCAST`
  · exact Issues.of_vecStep hc rfl
  · exact Issues.of_gate hc rfl (if_neg (Nat.not_lt.2 h))
  · exact Acts.of_gate hc rfl (if_pos h)
  · exact Issues.of_vecStep hc rfl
  -- `VRED`
  · obtain ⟨n, fl, hred⟩ := ((s.chan t.ch).at_ t x).red_writes f
    refine ⟨Issues.of_gate hc rfl (if_neg h), fun k hk => ?_, ?_, ?_, fun hopen => Ctx.xr_red_open hopen⟩
    · rw [hred, Ctx.orFlags_xr, Ctx.xr_setX, if_neg (fun hkd => hk hkd.1)]
    · rw [hred, Ctx.orFlags_v, Ctx.setX_v]
    · rw [hred, Ctx.orFlags_p, Ctx.setX_p]
  · exact Acts.of_gate hc rfl (if_pos h)
  -- a context that cannot issue
  · simp only [List.forall_mem_cons, List.not_mem_nil, false_imp_iff, implies_true, and_true]
    exact ⟨Acts.of_vecStep_idle hc rfl, Acts.of_gate_idle hc rfl, Acts.of_vecStep_idle hc rfl, Acts.of_gate_idle hc rfl⟩
  -- scalar operations and branches
  · exact Issues.scalarAlu hc o rb
  · exact Issues.scalarBranch hc o rb tgt
  -- loads and stores
  · exact Acts.scalarLoad_faults hc h
  · exact Acts.scalarStore_faults hc h
  · exact Acts.scalarLoad hc h hr
  · exact Acts.scalarLoad hc h hr
  · exact Acts.scalarStore hc h hr
  · exact Acts.scalarStore hc h hr
  -- aligned loads and stores of sound lines
  · exact Issues.scalarLoad_clean hc (not_scalarFaults_of_aligned h8 hin) hp
  · exact scalarStore_clean hc (not_scalarFaults_of_aligned h8 hin) hp
  -- a context that cannot issue
  · exact Acts.of_gate_idle hc rfl

end Sys2Proof.Machine
end

section
/-! PROOFS. Lane-wise vector instructions: the lanes, flags and registers of the context that issues one. -/

namespace Sys2Proof.Machine

/-! ## A lane-wise operation on a context -/

/-- The result and flags of lane `l` of a lane-wise operation (R91). -/
def Ctx.laneRes (v : Ctx) (f : VFields) (g : FloatFmt → Nat → Nat → Nat → Nat × FFlags) (l : Nat) : Nat × FFlags :=
  g (fmtOfT f.ty) (laneAt f.ty (v.vr f.va) l) (laneAt f.ty (v.vr f.vb) l) (laneAt f.ty (v.vr f.vc) l)

theorem Ctx.vecOp_eq (v : Ctx) (f : VFields) (g : FloatFmt → Nat → Nat → Nat → Nat × FFlags) :
    v.vecOp f g = (v.setV f.vd (vecApply f.ty (v.pr f.pred) (v.vr f.vd) (v.laneRes f g)).1).orFlags
      (vecApply f.ty (v.pr f.pred) (v.vr f.vd) (v.laneRes f g)).2 := rfl

/-- A lane of the destination: its result where the predicate opens it, else what it was. -/
theorem Ctx.laneAt_vecOp (v : Ctx) (f : VFields) (g : FloatFmt → Nat → Nat → Nat → Nat × FFlags) {l : Nat} (hl : l < laneCount f.ty) :
    laneAt f.ty ((v.vecOp f g).vr f.vd) l =
      if (v.pr f.pred).getLsbD l then (v.laneRes f g l).1 % 2 ^ laneBits f.ty else laneAt f.ty (v.vr f.vd) l := by
  rw [← laneAt_vecApply f.ty (v.pr f.pred) (v.vr f.vd) (v.laneRes f g) l hl]
  exact congrArg (laneAt f.ty · l) ((v.vr_setV f.vd f.vd _).trans (if_pos rfl))

theorem Ctx.vr_vecOp_ne (v : Ctx) {f : VFields} (g : FloatFmt → Nat → Nat → Nat → Nat × FFlags) {k : BitVec 5} (hk : k ≠ f.vd) :
    (v.vecOp f g).vr k = v.vr k := (v.vr_setV f.vd k _).trans (if_neg hk)

/-- A lane-wise operation raises the flags of its open lanes. -/
theorem vecApply_flags (t : Bool) (p : BitVec 128) (old : BitVec 2048) (r : Nat → Nat × FFlags) :
    (vecApply t p old r).2 = ((List.range (laneCount t)).map (fun l => if p.getLsbD l then (r l).2 else FFlags.none)).foldl
      FFlags.or FFlags.none := by
  simp only [vecApply, List.foldl_map]
  congr
  funext a l
  split <;> rfl

/-- The context's flags gain those that the open lanes raise (R63). -/
theorem Ctx.vecOp_flags (v : Ctx) (f : VFields) (g : FloatFmt → Nat → Nat → Nat → Nat × FFlags) :
    (v.vecOp f g).flags = v.flags.or (((List.range (laneCount f.ty)).map
      (fun l => if (v.pr f.pred).getLsbD l then (v.laneRes f g l).2 else FFlags.none)).foldl FFlags.or FFlags.none) :=
  congrArg v.flags.or (vecApply_flags _ _ _ _)

/-! ## The instructions -/

section
variable {t : TileRef} {x : Fin 2} {f : VFields} {s : State} {p : Instr × (FloatFmt → Nat → Nat → Nat → Nat × FFlags)}

/-- Each of them is the lane-wise operation of its result, of which `VSFU` is one by its function select. -/
theorem exec_laneOps (hp : p ∈ laneOps t x f) : exec p.1 s = vecStep t x (Ctx.vecOp f p.2) s ∨
    (p = (.vsfu t x f, fun fm a _ _ => fm.sfu f.vc.toNat a) ∧ f.vc.toNat ≤ 5) := by
  rcases List.mem_append.1 hp with hp | hp
  · left
    simp only [List.mem_cons, List.not_mem_nil, or_false] at hp
    obtain rfl | rfl | rfl | rfl | rfl | rfl | rfl | rfl := hp <;> rfl
  · right
    split at hp
    · next h => exact ⟨List.mem_singleton.1 hp, h⟩
    · cases hp

theorem Issues.laneOp (hc : (s.chan t.ch).canIssue (tileIdx t) x = true) (hp : p ∈ laneOps t x f) :
    Issues p.1 s t x (((s.chan t.ch).at_ t x).vecOp f p.2).advance := by
  obtain h | ⟨rfl, h5⟩ := exec_laneOps (s := s) hp
  · exact Issues.of_vecStep hc h
  · exact Issues.of_gate hc rfl (if_neg (Nat.not_lt.2 h5))

theorem Acts.laneOp_idle (hc : (s.chan t.ch).canIssue (tileIdx t) x = false) (hp : p ∈ laneOps t x f) : Acts p.1 s t.ch (s.chan t.ch) := by
  obtain h | ⟨rfl, -⟩ := exec_laneOps (s := s) hp
  · exact Acts.of_vecStep_idle hc h
  · exact Acts.of_gate_idle hc rfl

end

/-- The context that an instruction changed, read in the next state. -/
theorem ActsOn.at_setCtx {s u : State} {t : TileRef} {x : Fin 2} {w : Ctx}
    (h : ActsOn s u t.ch ((s.chan t.ch).setTile (tileIdx t) (((s.chan t.ch).tile (tileIdx t)).setCtx x w))) :
    (u.chan t.ch).at_ t x = w := by
  refine (Chan.body_ctx h.here _ _).trans ?_
  simp [Chan.ctx, x.isLt]

/-- Settles O9: each instruction is one lane-wise operation on its context, whose lanes, flags and other registers are read off one by one. -/
theorem vectorOpsWriteEveryOpenLane : Obligations.VectorOpsWriteEveryOpenLane := by
  refine fun t x f s => ⟨fun hc => ⟨fun p hp => ?_, fun h5 => Acts.of_gate hc rfl (if_pos h5)⟩,
    fun hc => ⟨Acts.of_gate_idle hc rfl, fun p hp => Acts.laneOp_idle hc hp⟩⟩
  obtain ⟨u, hu, hact⟩ := Issues.laneOp hc hp
  have hw := hact.at_setCtx
  refine ⟨u, hu, ?_, hw ▸ hact⟩
  rw [hw]
  refine ⟨fun l hl => Ctx.laneAt_vecOp _ f p.2 hl, fun k hk => Ctx.vr_vecOp_ne _ p.2 hk, rfl, rfl, rfl, rfl, rfl, rfl, rfl, rfl, rfl, rfl, rfl,
    Ctx.vecOp_flags _ f p.2⟩

end Sys2Proof.Machine
end

section
/-! PROOFS. Semaphores: waits, posts within a tile, and what a post past 255 leaves. -/

namespace Sys2Proof.Machine

/-! ## Instructions that may have stalled -/

/-- The test that guards the instructions which a waiting context tries again (R85, R86), where the context can. -/
theorem Acts.of_retry {i : Instr} {s : State} {t : TileRef} {x : Fin 2} {f : Chan → Chan} {d : Chan}
    (hc : (s.chan t.ch).canRetry (tileIdx t) x = true)
    (h : exec i s = chanStep s t.ch (fun c => if !c.canRetry (tileIdx t) x then c else f c)) (hd : f (s.chan t.ch) = d) : Acts i s t.ch d :=
  Acts.of_chanStep h ((if_neg (by simp [hc])).trans hd)

/-- The same test where the context cannot. -/
theorem Acts.of_retry_idle {i : Instr} {s : State} {t : TileRef} {x : Fin 2} {f : Chan → Chan}
    (hc : (s.chan t.ch).canRetry (tileIdx t) x = false)
    (h : exec i s = chanStep s t.ch (fun c => if !c.canRetry (tileIdx t) x then c else f c)) : Acts i s t.ch (s.chan t.ch) :=
  Acts.of_chanStep h (if_pos (by simp [hc]))

/-! ## Posts (R85) -/

theorem Chan.post_none (c : Chan) (i x agent addr fx : Nat) : c.post i x 0 agent addr fx = c := if_pos rfl

theorem Chan.post_counts {c : Chan} {i x n : Nat} (agent addr fx : Nat) (hn : n ≠ 0) (h : (c.ctx i x).sem n < 255) :
    c.post i x n agent addr fx = c.onCtx i x (fun v => v.setSem n (v.sem n + 1)) := (if_neg hn).trans (if_pos h)

theorem Chan.post_overflows {c : Chan} {i x n : Nat} (agent addr fx : Nat) (hn : n ≠ 0) (h : 255 ≤ (c.ctx i x).sem n) :
    c.post i x n agent addr fx = c.tileFault i fx agent 0x0C addr := (if_neg hn).trans (if_neg (Nat.not_lt.2 h))

/-- Moving a context on leaves every count of its tile. -/
theorem Chan.sem_advance (c : Chan) (i n : Nat) (x y : Fin 2) : ((c.onCtx i x Ctx.advance).ctx i y).sem n = (c.ctx i y).sem n := by
  rw [Chan.ctx_onCtx _ _ _ _ _ _ x.isLt y.isLt]
  split
  · next h => rw [h.2]; rfl
  · rfl

/-- The other of two contexts, as the instruction computes it. -/
theorem otherCtx_val : ∀ (other : Bool) (x : Fin 2), (if other then 1 - x.val else x.val) = (if other then 1 - x else x : Fin 2).val := by
  decide

/-- `SEMPOST` moves its context on and posts the semaphore. -/
theorem Acts.sempost {t : TileRef} {x : Fin 2} {sem : BitVec 4} {other : Bool} {s : State} {d : Chan}
    (hc : (s.chan t.ch).canIssue (tileIdx t) x = true)
    (hd : ((s.chan t.ch).onCtx (tileIdx t) x Ctx.advance).post (tileIdx t) (if other then 1 - x else x : Fin 2).val sem.toNat 0
      ((s.chan t.ch).at_ t x).pc.toNat x.val = d) : Acts (.sempost t x sem other) s t.ch d := by
  rw [← otherCtx_val] at hd
  exact Acts.of_gate hc rfl hd

/-! ## The record of a tile fault (R93) -/

theorem Chan.reg_setFld_ne (c : Chan) {f : Fld} {o : Nat} (v : Nat) (h : o ≠ f.off) : (c.setFld f v).reg o = c.reg o :=
  (Bank.get_put _ _ _ _ _).trans (if_neg h)

/-- A fault on a free tile that is no memory error stops the tile alone. -/
theorem Chan.tileFault_free {c : Chan} {i code : Nat} (x agent a : Nat) (hs : (c.tile i).slot = none) (hcode : code ≠ 0x0D) :
    c.tileFault i x agent code a = c.recordTileFault i x agent code a := by
  have hslot := (c.recordTileFault_slot i x agent code a i).trans hs
  unfold Chan.tileFault
  dsimp only
  rw [if_neg hcode, hslot]

/-- The faulting context shows faulted, and is what it was else. -/
theorem Chan.recordTileFault_ctx (c : Chan) (i agent code a : Nat) (x : Fin 2) :
    (c.recordTileFault i x agent code a).ctx i x = { c.ctx i x with st := .faulted } := by
  have htile (p : Prop) [Decidable p] (y z : Chan) : (if p then y else z).tile i = if p then y.tile i else z.tile i := by split <;> rfl
  simp only [Chan.recordTileFault, Chan.ctx, Chan.tile_event, Chan.tile_setFld, Chan.tile_putReg, Chan.tile_setTile, htile, ite_self, if_true]
  fin_cases x <;> rfl

/-- The low byte of the fault register is the code. -/
theorem Chan.recordTileFault_code (c : Chan) (i x agent a : Nat) {code : Nat} (hcode : code < 256) :
    bits ((c.recordTileFault i x agent code a).reg (R.TILE_FAULT + tileSlot i)).toNat 0 8 = code := by
  have hif (p : Prop) [Decidable p] (y z : Chan) (o : Nat) : (if p then y else z).reg o = if p then y.reg o else z.reg o := by split <;> rfl
  have hst (f : Fld) (hf : f.off = R.TILE_STATUS) : R.TILE_FAULT + tileSlot i ≠ (f.sh (tileSlot i)).off := by
    simp only [Fld.sh, hf, R.TILE_FAULT, R.TILE_STATUS]; omega
  have hev (d : Chan) (st : Status) (src k : Nat) (g : Option Nat) (e : BitVec 64) (o : Nat) : (d.event st src k g e).reg o = d.reg o := rfl
  simp only [Chan.recordTileFault, hev, Chan.reg_setFld_ne _ _ (hst F.TILE_STATUS_FAULT rfl), hif,
    Chan.reg_setFld_ne _ _ (hst F.TILE_STATUS_ECC_UE rfl), ite_self, Chan.reg_putReg, if_true, BitVec.toNat_ofNat, bits]
  omega

/-- Settles O12: a wait and a post are one guarded action each; past 255 the fault's record keeps the count. -/
theorem semaphoresCountWaitAndFault : Obligations.SemaphoresCountWaitAndFault := by
  refine ⟨fun t x sem other s => ⟨fun hc => ⟨fun h => ?_, fun h hn => ?_, fun h hn => ?_⟩,
      fun hc => ⟨fun h => ?_, fun h hn => ?_, fun h hn => ?_, ?_⟩,
      fun hc => Acts.of_retry_idle hc rfl, fun hc => ⟨Acts.of_gate_idle hc rfl, Acts.of_chanStep rfl (if_neg (by simp [hc]))⟩⟩,
    fun t x sem s hc h0 h255 hfree => ?_⟩
  -- `SEMWAIT`
  · exact Acts.of_retry hc rfl (if_pos h)
  · exact Acts.of_retry hc rfl ((if_neg h).trans (if_neg hn.ne'))
  · exact Acts.of_retry hc rfl ((if_neg h).trans (if_pos hn))
  -- `SEMPOST` and `HALT`
  · subst h
    exact Acts.sempost hc (Chan.post_none _ _ _ _ _ _)
  · exact Acts.sempost hc (Chan.post_counts _ _ _ (BitVec.toNat_ne_iff_ne.2 h) ((Chan.sem_advance _ _ _ _ _).trans_lt hn))
  · exact Acts.sempost hc (Chan.post_overflows _ _ _ (BitVec.toNat_ne_iff_ne.2 h) (hn.trans_eq (Chan.sem_advance _ _ _ _ _).symm))
  · exact Acts.of_chanStep rfl (if_pos hc)
  -- a post past 255
  · have hpost := Chan.post_overflows 0 ((s.chan t.ch).at_ t x).pc.toNat x.val (BitVec.toNat_ne_iff_ne.2 h0)
      (h255.symm.trans (Chan.sem_advance _ _ _ x x).symm).le
    rw [Chan.tileFault_free _ _ _ ((Chan.onCtx_tile_slot _ _ _ _ _).trans hfree) (by decide)] at hpost
    obtain ⟨u, hu, hact⟩ := Acts.sempost (other := false) hc hpost
    have hctx := (Chan.body_ctx hact.here (tileIdx t) x).trans (Chan.recordTileFault_ctx _ _ _ _ _ _)
    refine ⟨u, hu, ?_, ?_, congrArg Ctx.st hctx⟩
    · exact (congrArg (Ctx.sem · sem.toNat) hctx).trans ((Chan.sem_advance _ _ _ x x).trans h255)
    · rw [Chan.body_reg hact.here]
      exact Chan.recordTileFault_code _ _ _ _ _ (by decide)

end Sys2Proof.Machine
end

section
/-! PROOFS. Vector loads and stores, descriptors issued, keys set, unlisted words. -/

namespace Sys2Proof.Machine

/-! ## Extents and addresses -/

theorem not_sramOk_iff (a n : Nat) : (!sramOk a n) = true ↔ sramBytes < a + n := by simp [sramOk]

/-- The test of a descriptor's address: a misaligned line, or one outside SRAM (R86). -/
theorem descAddrBad_iff (a : Nat) : (decide (a % 64 ≠ 0) || !sramOk a 64) = true ↔ a % 64 ≠ 0 ∨ sramBytes < a + 64 := by
  rw [Bool.or_eq_true, decide_eq_true_iff, not_sramOk_iff]

theorem not_descAddrBad {a : Nat} (h64 : a % 64 = 0) (hin : a + 64 ≤ sramBytes) : ¬ (decide (a % 64 ≠ 0) || !sramOk a 64) = true := by
  rw [descAddrBad_iff]; omega

/-! ## Vector loads and stores -/

section
variable {t : TileRef} {x : Fin 2} {vd va : BitVec 5} {off : BitVec 16} {errs : NMap LineErr} {s : State} {d : Chan}
  (hc : (s.chan t.ch).canIssue (tileIdx t) x = true)
include hc

theorem Acts.vld_outside (h : sramBytes < vecAddr ((s.chan t.ch).at_ t x) va off + 256) :
    Acts (.vld t x vd va off errs) s t.ch ((s.chan t.ch).instrFault (tileIdx t) x 0x05) :=
  Acts.of_gate hc rfl (if_pos ((not_sramOk_iff _ _).2 h))

theorem Acts.vst_outside (h : sramBytes < vecAddr ((s.chan t.ch).at_ t x) va off + 256) :
    Acts (.vst t x vd va ⟨off, errs⟩) s t.ch ((s.chan t.ch).instrFault (tileIdx t) x 0x05) :=
  Acts.of_gate hc rfl (if_pos ((not_sramOk_iff _ _).2 h))

variable (hin : vecAddr ((s.chan t.ch).at_ t x) va off + 256 ≤ sramBytes)
include hin

/-- A load inside SRAM issues what its lines read, or faults where one is uncorrectable (R280). -/
theorem Acts.vld_inside {r : Option Bytes}
    (hr : (s.chan t.ch).sramRead (tileIdx t) (vecAddr ((s.chan t.ch).at_ t x) va off) 256 errs = (r, d)) :
    Acts (.vld t x vd va off errs) s t.ch (r.elim (d.instrFault (tileIdx t) x 0x0D)
      (fun b => d.issue (tileIdx t) x (fun v => v.setV vd (BitVec.ofNat 2048 (leNat b))))) := by
  refine Acts.of_gate hc rfl ((if_neg (mt (not_sramOk_iff _ _).1 (Nat.not_lt.2 hin))).trans ?_)
  simp only [Chan.at_] at hr
  simp only [hr]
  cases r <;> rfl

/-- A store inside SRAM stores the register's 256 bytes, or faults where a line it covers in part is uncorrectable (R277, R280). -/
theorem Acts.vst_inside {r : Bool}
    (hr : (s.chan t.ch).readParts (tileIdx t) (vecAddr ((s.chan t.ch).at_ t x) va off) 256 errs = (r, d)) :
    Acts (.vst t x vd va ⟨off, errs⟩) s t.ch (bif r then
      (d.sramWrite (tileIdx t) (vecAddr ((s.chan t.ch).at_ t x) va off)
        (leBytes 256 (((s.chan t.ch).at_ t x).vr vd).toNat)).onCtx (tileIdx t) x Ctx.advance
      else d.instrFault (tileIdx t) x 0x0D) :=
  Acts.of_gate hc rfl ((if_neg (mt (not_sramOk_iff _ _).1 (Nat.not_lt.2 hin))).trans (Chan.storeBytes_eq (by rwa [leBytes_length])))

variable (hp : ((s.chan t.ch).tile (tileIdx t)).poison = [])
include hp

/-- A load from sound lines changes its own context alone. -/
theorem Issues.vld_clean : Issues (.vld t x vd va off []) s t x (((s.chan t.ch).at_ t x).setV vd (BitVec.ofNat 2048
    (leNat (cellRead ((s.chan t.ch).tile (tileIdx t)).sram (vecAddr ((s.chan t.ch).at_ t x) va off) 256)))).advance := by
  have h := Acts.vld_inside (vd := vd) hc hin (Chan.sramRead_clean _ _ _ 256 hp)
  rw [Option.elim_some, Chan.issue_eq _ hc] at h
  exact h

/-- A store into sound lines moves its context on, reads back as stored, and leaves every byte outside and every other tile. -/
theorem vst_clean : ∃ u, exec (.vst t x vd va ⟨off, []⟩) s = .next u ∧ (u.chan t.ch).at_ t x = ((s.chan t.ch).at_ t x).advance ∧
    cellRead ((u.chan t.ch).tile (tileIdx t)).sram (vecAddr ((s.chan t.ch).at_ t x) va off) 256 =
      leBytes 256 (((s.chan t.ch).at_ t x).vr vd).toNat ∧
    (∀ b, (b < vecAddr ((s.chan t.ch).at_ t x) va off ∨ vecAddr ((s.chan t.ch).at_ t x) va off + 256 ≤ b) →
      cellByte ((u.chan t.ch).tile (tileIdx t)).sram b = cellByte ((s.chan t.ch).tile (tileIdx t)).sram b) ∧
    ∀ j, j ≠ tileIdx t → (u.chan t.ch).tile j = (s.chan t.ch).tile j := by
  obtain ⟨u, hu, hact⟩ := Acts.vst_inside (vd := vd) hc hin (Chan.readParts_clean _ _ _ 256 hp)
  have htile (j : Nat) := Chan.body_tile hact.here j
  have hsram := (congrArg Tile.sram (htile _)).trans (Chan.store_sram _ _ _ _ _)
  have hlen := leBytes_length 256 (((s.chan t.ch).at_ t x).vr vd).toNat
  refine ⟨u, hu, (Chan.body_ctx hact.here _ _).trans (Chan.store_ctx _ _ _ _ _ x.isLt), ?_, fun b hb => ?_,
    fun j hj => (htile j).trans (Chan.store_tile _ _ _ _ _ _ hj)⟩
  · have hback := cellRead_cellWrite ((s.chan t.ch).tile (tileIdx t)).sram (vecAddr ((s.chan t.ch).at_ t x) va off)
      (leBytes 256 (((s.chan t.ch).at_ t x).vr vd).toNat)
    rw [hlen] at hback
    rw [hsram, hback]
  · rw [hsram, cellByte_cellWrite_out _ _ _ _ (by rwa [hlen])]

end

/-! ## Descriptors issued (R86) -/

section
variable {t : TileRef} {x : Fin 2} {va : BitVec 5} {sub : BitVec 2} {errs : NMap LineErr} {s : State}
  (hc : (s.chan t.ch).canRetry (tileIdx t) x = true) (h3 : sub ≠ 3)
include hc h3

theorem Acts.issueDesc_badAddr (h : (((s.chan t.ch).at_ t x).xr va).toNat % 64 ≠ 0 ∨ sramBytes < (((s.chan t.ch).at_ t x).xr va).toNat + 64) :
    Acts (.issueDesc t x va ⟨sub, errs⟩) s t.ch ((s.chan t.ch).instrFault (tileIdx t) x 0x05) :=
  Acts.of_retry hc rfl ((if_neg h3).trans (if_pos ((descAddrBad_iff _).2 h)))

variable (h64 : (((s.chan t.ch).at_ t x).xr va).toNat % 64 = 0) (hin : (((s.chan t.ch).at_ t x).xr va).toNat + 64 ≤ sramBytes)
include h64 hin

/-- A full queue stalls its context. -/
theorem Issues.issueDesc_full (h8 : 8 ≤ (((s.chan t.ch).at_ t x).queueOf sub.toNat).length) :
    Issues (.issueDesc t x va ⟨sub, errs⟩) s t x { (s.chan t.ch).at_ t x with st := .waiting } :=
  Acts.of_retry hc rfl ((if_neg h3).trans ((if_neg (not_descAddrBad h64 hin)).trans (if_pos h8)))

/-- A descriptor joins a queue with a free place, or faults where its line is uncorrectable (R280). -/
theorem Acts.issueDesc {r : Option Bytes} {d : Chan} (h8 : (((s.chan t.ch).at_ t x).queueOf sub.toNat).length < 8)
    (hr : (s.chan t.ch).sramRead (tileIdx t) (((s.chan t.ch).at_ t x).xr va).toNat 64 errs = (r, d)) :
    Acts (.issueDesc t x va ⟨sub, errs⟩) s t.ch (r.elim (d.instrFault (tileIdx t) x 0x0D) (fun b => d.onCtx (tileIdx t) x (fun v =>
      (v.setQueue sub.toNat (v.queueOf sub.toNat ++ [⟨(((s.chan t.ch).at_ t x).xr va).toNat, b⟩])).advance))) := by
  refine Acts.of_retry hc rfl ((if_neg h3).trans ((if_neg (not_descAddrBad h64 hin)).trans ((if_neg (Nat.not_le.2 h8)).trans ?_)))
  simp only [Chan.at_] at hr
  simp only [hr]
  cases r <;> rfl

end

/-! ## Keys -/

section
variable {t : TileRef} {x : Fin 2} {va vb vc : BitVec 5} {s : State}

/-- What `SETKEY` leaves of its context: the key registers, and the next word (R92). -/
def Ctx.keyed (v : Ctx) (va vb vc : BitVec 5) : Ctx :=
  { v with keyStep := (v.xr va).setWidth 32, keyMb := (v.xr vb).setWidth 16, keyTensor := (v.xr vc).setWidth 24,
           st := .running, pc := v.pc + 4 }

/-- What `SETKEY` of context `x` makes of the channel where the tile's grove `g` answers with a gate (log entries 17, 54). -/
def Chan.setkeyBy (c : Chan) (i x g : Nat) (va vb vc : BitVec 5) (k : KeyGate) : Chan :=
  let step := (((c.ctx i x).xr va).setWidth 32 : BitVec 32).toNat
  match k with
  | .go => (c.onCtx i x (·.keyed va vb vc)).noteKey g step (((c.ctx i x).xr vb).setWidth 16 : BitVec 16).toNat
  | .wait => c
  | .drain => c.onGrove g (fun v => { v with st := .draining, ws := { v.ws with attached := false } })
  | .pause => (c.pauseGrove g 0).answerPause g (((c.grove g).pauseAt).getD 0)
  | .capture => c.onGrove g (fun v => ({ v with ring := { v.ring with ring := step } }).pass step c.pclk)

variable (hc : (s.chan t.ch).canIssue (tileIdx t) x = true)
include hc

/-- On a free tile the key has no grove to tell. -/
theorem Issues.setkey_free (hs : ((s.chan t.ch).tile (tileIdx t)).slot = none) :
    Issues (.setkey t x va vb vc) s t x (((s.chan t.ch).at_ t x).keyed va vb vc) := by
  refine Acts.of_gate hc rfl ?_
  simp only [hs]
  exact Chan.issue_eq _ hc

/-- On a mapped tile the grove's gate for the step decides. -/
theorem Acts.setkey_mapped {r : SlotRef} {k : KeyGate} (hs : ((s.chan t.ch).tile (tileIdx t)).slot = some r)
    (hk : ((s.chan t.ch).grove r.grove).keyGate (((((s.chan t.ch).at_ t x).xr va).setWidth 32 : BitVec 32).toNat) = k) :
    Acts (.setkey t x va vb vc) s t.ch ((s.chan t.ch).setkeyBy (tileIdx t) x r.grove va vb vc k) := by
  refine Acts.of_gate hc rfl ?_
  simp only [Chan.at_] at hk
  simp only [hs, hk]
  cases k
  case go => exact congrArg (Chan.noteKey · _ _ _) (Chan.issue_eq _ hc)
  all_goals rfl

end

/-- Settles O11: each instruction is one guarded action, whose outcome is the branch that its address, its lines, its queue or its
grove's gate selects. -/
theorem loadsStoresDescriptorsAndKeys : Obligations.LoadsStoresDescriptorsAndKeys := by
  refine ⟨fun t x vd va off errs s => ⟨fun hc => ⟨fun h => ⟨Acts.vld_outside hc h, Acts.vst_outside hc h⟩, fun hin => ?_⟩,
      fun hc => ⟨Acts.of_gate_idle hc rfl, Acts.of_gate_idle hc rfl⟩⟩,
    fun t x va vb vc sub errs word s => ⟨fun hc => ⟨fun h3 => ?_, fun h3 h => Acts.issueDesc_badAddr hc h3 h, fun h3 h64 hin => ?_⟩,
      fun hc => ⟨fun hs => Issues.setkey_free hc hs, fun r hs => ?_, fun hw => ?_⟩,
      fun hc => Acts.of_retry_idle hc rfl, fun hc => ⟨Acts.of_gate_idle hc rfl, ?_⟩⟩⟩
  -- `VLD` and `VST` inside SRAM
  · exact ⟨fun b d hr => Acts.vld_inside hc hin hr, fun d hr => Acts.vld_inside hc hin hr, fun d hr => Acts.vst_inside hc hin hr,
      fun d hr => Acts.vst_inside hc hin hr, fun hp => ⟨Issues.vld_clean hc hin hp, vst_clean hc hin hp⟩⟩
  -- `ISSUE_DESC`
  · exact Acts.of_retry hc rfl (if_pos h3)
  · exact ⟨fun h8 => Issues.issueDesc_full hc h3 h64 hin h8, fun h8 => ⟨fun b d hr => Acts.issueDesc hc h3 h64 hin h8 hr,
      fun d hr => Acts.issueDesc hc h3 h64 hin h8 hr, fun hp => Acts.issueDesc hc h3 h64 hin h8 (Chan.sramRead_clean _ _ _ 64 hp)⟩⟩
  -- `SETKEY` on a mapped tile
  · exact ⟨fun hk => Acts.setkey_mapped hc hs hk, fun hk => Acts.setkey_mapped hc hs hk, fun hk => Acts.setkey_mapped hc hs hk,
      fun hk => Acts.setkey_mapped hc hs hk, fun hk => Acts.setkey_mapped hc hs hk⟩
  -- an unlisted word
  · exact Acts.of_chanStep rfl (if_neg (by simp [hc, hw]))
  · exact Acts.of_chanStep rfl (if_pos (by simp [hc]))

end Sys2Proof.Machine
end

section
/-! PROOFS. The movement engine: whose turn it is, and what each opcode's effect answers where its source lines are sound. -/

namespace Sys2Proof.Machine

/-! ## Whose turn it is -/

section
variable {c : Chan} {i x : Nat} (op : Nat) (act : Chan → QDesc → MoveRes)

/-- Nothing is served while no descriptor may start, it is the other context's turn, or no head is ready (R86, R93). -/
theorem Chan.moveStep_idle (h : c.mayStart i = false ∨ c.movesNext i x = false ∨ headReady (c.ctx i x) ((c.ctx i x).queueOf 2) = none) :
    c.moveStep i x op act = c := by
  unfold Chan.moveStep
  split
  · rfl
  · next hgate =>
    obtain ⟨hstart, hturn⟩ : c.mayStart i = true ∧ c.movesNext i x = true := by simpa using hgate
    rw [h.resolve_left (by simp [hstart]) |>.resolve_left (by simp [hturn])]

variable {d : QDesc} (hstart : c.mayStart i = true) (hturn : c.movesNext i x = true)
  (hhead : headReady (c.ctx i x) ((c.ctx i x).queueOf 2) = some d)
include hstart hturn hhead

/-- A head of another opcode of R90 is left to that opcode's command. -/
theorem Chan.moveStep_other (h2 : 2 ≤ dfield d.words 0 0 8) (h9 : dfield d.words 0 0 8 ≤ 9) (hop : dfield d.words 0 0 8 ≠ op) :
    c.moveStep i x op act = c := by
  unfold Chan.moveStep
  rw [if_neg (by simp [hstart, hturn]), hhead]
  exact if_pos (by simp [h2, h9, hop])

/-- A head that fails a check faults the tile under that check's code (R88, R90). -/
theorem Chan.moveStep_refused {code : Nat} (hop : dfield d.words 0 0 8 < 2 ∨ 9 < dfield d.words 0 0 8 ∨ dfield d.words 0 0 8 = op)
    (hcheck : moveCheck d.words x (c.arr i (accArr d.words)).owner = some code) :
    c.moveStep i x op act = (c.taken i x d).tileFault i x 3 code d.addr := by
  unfold Chan.moveStep
  rw [if_neg (by simp [hstart, hturn]), hhead]
  refine (if_neg ?_).trans ?_
  · simp only [Bool.and_eq_true, decide_eq_true_eq, not_and]
    omega
  · simp only [hcheck]
    rfl

end

/-- Each movement command serves its opcode with that opcode's effect. -/
theorem exec_moveOps {t : TileRef} {x : Fin 2} {errs : NMap LineErr} {ue : Bool} {p : Instr × Nat × (Chan → QDesc → MoveRes)}
    (hp : p ∈ moveOps t x errs ue) (s : State) : exec p.1 s = chanStep s t.ch (fun c => c.moveStep (tileIdx t) x p.2.1 p.2.2) := by
  simp only [moveOps, List.mem_cons, List.not_mem_nil, or_false] at hp
  obtain rfl | rfl | rfl | rfl | rfl | rfl | rfl | rfl := hp <;> rfl

/-- A command that serves a descriptor makes its channel what the opcode's effect answers. -/
theorem Moves.acts {i : Instr} {s : State} {t : TileRef} {x : Fin 2} {op : Nat} {d : QDesc} {act : Chan → QDesc → MoveRes} {r : MoveRes}
    (h : Moves (s.chan t.ch) (tileIdx t) x op d) (he : exec i s = chanStep s t.ch (fun c => c.moveStep (tileIdx t) x op act))
    (hr : act ((s.chan t.ch).taken (tileIdx t) x d) d = r) : Acts i s t.ch (r.after (s.chan t.ch) (tileIdx t) x d) :=
  Acts.of_chanStep he (hr ▸ h.step act)

section
variable {i : Instr} {s : State} {t : TileRef} {x : Fin 2} {op : Nat} {d : QDesc} {act : Chan → QDesc → MoveRes} {c : Chan}
  (h : Moves (s.chan t.ch) (tileIdx t) x op d) (he : exec i s = chanStep s t.ch (fun c => c.moveStep (tileIdx t) x op act))
include h he

theorem Moves.retires (hr : act ((s.chan t.ch).taken (tileIdx t) x d) d = .retire c) : Acts i s t.ch (c.moved (tileIdx t) x d) :=
  h.acts he hr

theorem Moves.faults {code : Nat} (hr : act ((s.chan t.ch).taken (tileIdx t) x d) d = .fault code c) :
    Acts i s t.ch (c.tileFault (tileIdx t) x 3 code d.addr) := h.acts he hr

theorem Moves.stays (hr : act ((s.chan t.ch).taken (tileIdx t) x d) d = .stay c) :
    Acts i s t.ch (c.onCtx (tileIdx t) x (fun _ => (s.chan t.ch).ctx (tileIdx t) x)) := h.acts he hr

end

/-! ## Effects on sound lines -/

section
variable {c : Chan} {i x : Nat} {d : QDesc}

/-- Taking a descriptor leaves the halves of the gradient tile buffer. -/
theorem Chan.taken_gtb (c : Chan) (i x : Nat) (d : QDesc) :
    ((c.taken i x d).tile i).g0 = (c.tile i).g0 ∧ ((c.taken i x d).tile i).g1 = (c.tile i).g1 := by
  unfold Chan.taken Chan.onCtx
  rw [Chan.tile_served, if_pos rfl, Chan.tile_setTile, if_pos rfl]
  unfold Tile.setCtx
  split <;> exact ⟨rfl, rfl⟩

variable (hp : (c.tile i).poison = [])
include hp

/-- The source of a descriptor that has been taken, of sound lines. -/
theorem Chan.moveSource_taken (a n : Nat) (k : Bytes → Chan → MoveRes) :
    (c.taken i x d).moveSource i a n [] k = k (cellRead (c.tile i).sram a n) (c.taken i x d) := by
  rw [Chan.moveSource_clean _ _ _ _ _ ((c.taken_poison i x d i).trans hp), Chan.taken_sram]

/-- A `SEND` to a slot of a valid region puts its lines on the mesh: to the slot's tile, or to the region's interface (R106, R110). -/
theorem Chan.moveSend_taken {r : SlotRef} (hs : (c.tile i).slot = some r) (hn : dfield d.words 4 0 8 < 64)
    (hv : (regionAt c.reg r.grove (dfield d.words 4 0 8)).valid = true)
    (hx : dfield d.words 4 8 8 < (regionAt c.reg r.grove (dfield d.words 4 0 8)).lw)
    (hy : dfield d.words 4 16 8 < (regionAt c.reg r.grove (dfield d.words 4 0 8)).lh) :
    (c.taken i x d).moveSend i d [] = .retire { c.taken i x d with
      flits := c.flits ++
        if (regionAt c.reg r.grove (dfield d.words 4 0 8)).remote && !(exceptionsAt c.reg r.grove).any (fun q =>
            q.2.1 = dfield d.words 4 0 8 && q.2.2.1 = dfield d.words 4 8 8 && q.2.2.2.1 = dfield d.words 4 16 8) then
          remoteFlits i (viaIf (regionAt c.reg r.grove (dfield d.words 4 0 8)).via) (remoteFrames c.node (c.grove r.grove) r.grove
            (regionAt c.reg r.grove (dfield d.words 4 0 8)) d.words (cellRead (c.tile i).sram (dfield d.words 1 0 21) (64 * moveLines d.words)))
        else
          sendFlits i (slotTile c.reg r.grove (dfield d.words 4 0 8) (dfield d.words 4 8 8) (dfield d.words 4 16 8)) r.grove d.words
            (cellRead (c.tile i).sram (dfield d.words 1 0 21) (64 * moveLines d.words)) } := by
  have hreg : (c.taken i x d).reg = c.reg := rfl
  unfold Chan.moveSend
  simp only [Chan.taken_slot, hs, hreg, Chan.moveSource_taken hp]
  rw [if_neg (by simp [hv]; omega)]
  split <;> rfl

end

/-! ## The gradient tile buffer on sound lines (R72-R74) -/

/-- The half of the gradient tile buffer that a `GTB_LOAD` names. -/
def Tile.gtbHalf (t : Tile) (w : Bytes) : GtbHalf := if dfield w 6 0 1 = 0 then t.g0 else t.g1

/-- The channel when a `GTB_LOAD` has filled its half from source bytes `b` under a block scale. -/
def Chan.gtbFill (c : Chan) (i : Nat) (w b : Bytes) (scale : Nat) : Chan :=
  let codes := (List.range 1024).map (fun k => leAt b (k * (fmtBits (dfield w 6 3 8) / 8)) (fmtBits (dfield w 6 3 8) / 8))
  let h : GtbHalf := ⟨dfield w 6 1 2, dfield w 6 3 8, scale, codes, []⟩
  c.setTile i (if dfield w 6 0 1 = 0 then { c.tile i with g0 := h } else { c.tile i with g1 := h })

section
variable {c : Chan} {i x : Nat} {d : QDesc}

theorem Chan.taken_gtbHalf (c : Chan) (i x : Nat) (d : QDesc) (w : Bytes) :
    ((c.taken i x d).tile i).gtbHalf w = (c.tile i).gtbHalf w := by
  unfold Tile.gtbHalf
  rw [(c.taken_gtb i x d).1, (c.taken_gtb i x d).2]

theorem Chan.moveGtb_occupied (h : ((c.tile i).gtbHalf d.words).readers ≠ 0) :
    (c.taken i x d).moveGtb i d [] = .stay (c.taken i x d) :=
  if_pos (by rwa [← c.taken_gtbHalf i x d] at h)

variable (h : ((c.tile i).gtbHalf d.words).readers = 0) (hp : (c.tile i).poison = [])
include h hp

theorem Chan.moveGtb_bf16 (hf : dfield d.words 6 3 8 = fmtBf16) : (c.taken i x d).moveGtb i d [] = .retire ((c.taken i x d).gtbFill i d.words
    (cellRead (c.tile i).sram (dfield d.words 1 0 21) (64 * moveLines d.words)) 127) := by
  refine (if_neg ?_).trans ((Chan.moveSource_taken hp _ _ _).trans (if_pos hf))
  rw [← c.taken_gtbHalf i x d] at h
  exact not_not.2 h

/-- An MX tile takes the scale of its 32 rows, where they have one. -/
theorem Chan.moveGtb_mx (hf : dfield d.words 6 3 8 ≠ fmtBf16) : (c.taken i x d).moveGtb i d [] =
    if (cellRead (c.tile i).sram (dfield d.words 6 11 21) 32).all
        (fun v => v = (cellRead (c.tile i).sram (dfield d.words 6 11 21) 32).headD 0) then
      .retire ((c.taken i x d).gtbFill i d.words (cellRead (c.tile i).sram (dfield d.words 1 0 21) (64 * moveLines d.words))
        ((cellRead (c.tile i).sram (dfield d.words 6 11 21) 32).headD 0).toNat)
    else .fault 0x09 (c.taken i x d) := by
  refine (if_neg ?_).trans ((Chan.moveSource_taken hp _ _ _).trans ((if_neg hf).trans ((Chan.moveSource_taken hp _ _ _).trans ?_)))
  · rw [← c.taken_gtbHalf i x d] at h
    exact not_not.2 h
  · simp only [List.any_eq_not_all_not, ne_eq, decide_not, Bool.not_not]
    cases (cellRead (c.tile i).sram (dfield d.words 6 11 21) 32).all _ <;> rfl

end

/-! ## Accumulator images on sound lines (R78, R82, R83) -/

section
variable {c : Chan} {i x : Nat} {d : QDesc}

theorem Chan.moveAccSave_busy (h : (c.arr i (accArr d.words)).run ≠ none) (ue : Bool) :
    (c.taken i x d).moveAccSave i d ue = .stay (c.taken i x d) := if_pos (by rwa [Chan.taken_arr])

theorem Chan.moveAccMerge_busy (h : (c.arr i (accArr d.words)).run ≠ none) (errs : NMap LineErr) :
    (c.taken i x d).moveAccMerge i d errs = .stay (c.taken i x d) := if_pos (by rwa [Chan.taken_arr])

theorem Chan.moveAccLoad_taken (hp : (c.tile i).poison = []) : (c.taken i x d).moveAccLoad i x d [] =
    .retire ((c.taken i x d).setArr i (accArr d.words) { (c.taken i x d).arr i (accArr d.words) with
      owner := some x, acc := accOf (cellRead (c.tile i).sram (dfield d.words 1 0 21) 40960), count := 0 }) := Chan.moveSource_taken hp _ _ _

variable (h : (c.arr i (accArr d.words)).run = none)
include h

theorem Chan.moveAccSave_ue : (c.taken i x d).moveAccSave i d true = .fault 0x0D (c.taken i x d) :=
  (if_neg (by rw [Chan.taken_arr]; exact not_not.2 h)).trans (if_pos rfl)

/-- The images go to memory, and with `CLR` the array is empty. -/
theorem Chan.moveAccSave_free : (c.taken i x d).moveAccSave i d false =
    .retire (if dfield d.words 0 17 1 = 1 then
      ((c.taken i x d).sramWrite i (dfield d.words 2 0 21) (accImages (c.arr i (accArr d.words)).acc)).setArr i (accArr d.words)
        { c.arr i (accArr d.words) with owner := none, acc := [], count := 0 }
      else (c.taken i x d).sramWrite i (dfield d.words 2 0 21) (accImages (c.arr i (accArr d.words)).acc)) := by
  rw [← c.taken_arr i x d] at h ⊢
  exact (if_neg (not_not.2 h)).trans (if_neg Bool.false_ne_true)

/-- The images are one addition, refused past the limit or where a sum wraps (R51, R83). -/
theorem Chan.moveAccMerge_free (hp : (c.tile i).poison = []) : (c.taken i x d).moveAccMerge i d [] =
    if maxAdditions < (c.arr i (accArr d.words)).count + 1 then .fault 0x0A (c.taken i x d)
    else (accMerge (c.arr i (accArr d.words)).acc (cellRead (c.tile i).sram (dfield d.words 1 0 21) 40960)).elim
      (.fault 0x0B (c.taken i x d)) (fun m => .retire ((c.taken i x d).setArr i (accArr d.words)
        { c.arr i (accArr d.words) with acc := m, count := (c.arr i (accArr d.words)).count + 1 })) := by
  rw [← c.taken_arr i x d] at h ⊢
  refine (if_neg (not_not.2 h)).trans ((Chan.moveSource_taken hp _ _ _).trans (if_congr Iff.rfl rfl ?_))
  split
  · next hm => rw [hm]; rfl
  · next hm => rw [hm]; rfl

end

/-- Settles O14: every command serves its context's head by one step of the movement engine, and an opcode's effect on sound lines is what
its source holds. -/
theorem sourceMovesAndAccumulatorMoves : Obligations.SourceMovesAndAccumulatorMoves := by
  refine ⟨fun t x d s hp => ⟨fun h => ?_, fun r h hs hn hv hx hy => ?_⟩,
    fun t x d s hp => ⟨fun h => ?_, fun h => ?_, fun h => ?_, fun h => ?_⟩,
    fun t x errs ue s p hop => ⟨fun h => ?_, fun d h1 h2 h3 => ?_, fun d h => h.acts (exec_moveOps hop s) rfl⟩⟩
  -- `COPY` and `SEND`
  · exact h.retires rfl (Chan.moveSource_taken hp _ _ _)
  · have hsend := Chan.moveSend_taken (x := x) (d := d) hp hs hn hv hx hy
    refine ⟨fun hlocal => h.retires rfl ?_, fun hremote hexc => h.retires rfl ?_⟩
    · rwa [if_neg (by rcases hlocal with h | h <;> simp [h])] at hsend
    · rwa [if_pos (by simp [hremote, hexc])] at hsend
  -- `GTB_LOAD`
  · exact ⟨fun hr => h.stays rfl (Chan.moveGtb_occupied hr), fun hr hf => h.retires rfl (Chan.moveGtb_bf16 hr hp hf),
      fun hr hf => ⟨fun heq => h.retires rfl ((Chan.moveGtb_mx hr hp hf).trans (if_pos heq)),
        fun hne => h.faults rfl ((Chan.moveGtb_mx hr hp hf).trans (if_neg (ne_true_of_eq_false hne)))⟩⟩
  -- `ACC_SAVE`
  · exact ⟨fun hr ue => h.stays rfl (Chan.moveAccSave_busy hr ue), fun hr => h.faults rfl (Chan.moveAccSave_ue hr),
      fun hr hclr => h.retires rfl ((Chan.moveAccSave_free hr).trans (by rw [if_neg hclr])),
      fun hr hclr => h.retires rfl ((Chan.moveAccSave_free hr).trans (by rw [if_pos hclr]))⟩
  -- `ACC_LOAD`
  · exact h.retires rfl (Chan.moveAccLoad_taken hp)
  -- `ACC_MERGE`
  · refine ⟨fun hr => h.stays rfl (Chan.moveAccMerge_busy hr []), fun hr hmax => h.faults rfl ?_, fun hr hmax hm => h.faults rfl ?_,
      fun m hr hmax hm => h.retires rfl ?_⟩
    · exact (Chan.moveAccMerge_free hr hp).trans (if_pos hmax)
    · exact (Chan.moveAccMerge_free hr hp).trans ((if_neg (Nat.not_lt.2 hmax)).trans (by rw [hm]; rfl))
    · exact (Chan.moveAccMerge_free hr hp).trans ((if_neg (Nat.not_lt.2 hmax)).trans (by rw [hm]; rfl))
  -- any of the commands
  · exact Acts.of_chanStep (exec_moveOps hop s) (Chan.moveStep_idle _ _ h)
  · exact ⟨fun h4 h5 h6 => Acts.of_chanStep (exec_moveOps hop s) (Chan.moveStep_other _ _ h1 h2 h3 h4 h5 h6),
      fun code h4 h5 => Acts.of_chanStep (exec_moveOps hop s) (Chan.moveStep_refused _ _ h1 h2 h3 h4 h5)⟩

end Sys2Proof.Machine
end

section
/-! PROOFS. The arrays: descriptors that start, blocks that are added, and readouts. -/

namespace Sys2Proof.Machine

/-! ## Starting a descriptor (R78, R86-R88) -/

section
variable {t : TileRef} {a : ArrId} {s : State}

theorem Acts.arrayStart_idle (h : (s.chan t.ch).mayStart (tileIdx t) = false ∨ ((s.chan t.ch).arr (tileIdx t) a).run ≠ none ∨
    (s.chan t.ch).pickArr (tileIdx t) a = none) : Acts (.arrayDescriptorStart t a) s t.ch (s.chan t.ch) := by
  by_cases hgate : (!(s.chan t.ch).mayStart (tileIdx t) || decide (((s.chan t.ch).arr (tileIdx t) a).run ≠ none)) = true
  · exact Acts.of_chanStep rfl (if_pos hgate)
  · obtain ⟨hstart, hrun⟩ : (s.chan t.ch).mayStart (tileIdx t) = true ∧ ((s.chan t.ch).arr (tileIdx t) a).run = none := by simpa using hgate
    have hpick := h.resolve_left (by simp [hstart]) |>.resolve_left (by simp [hrun])
    exact Acts.of_chanStep rfl ((if_neg hgate).trans (by simp only [hpick]))

variable {x : Nat} {d : QDesc} (hstart : (s.chan t.ch).mayStart (tileIdx t) = true) (hrun : ((s.chan t.ch).arr (tileIdx t) a).run = none)
  (hpick : (s.chan t.ch).pickArr (tileIdx t) a = some (x, d))
include hstart hrun hpick

/-- A head that passes every check starts, and owns the array for its context. -/
theorem Acts.arrayStart_passes (hcheck : arrCheck a d.words x ((s.chan t.ch).arr (tileIdx t) a) = none) :
    Acts (.arrayDescriptorStart t a) s t.ch (((s.chan t.ch).onCtx (tileIdx t) x (fun v => v.takeHead (arrQueue a) d)).setArr (tileIdx t) a
      { (s.chan t.ch).arr (tileIdx t) a with
        last := x, run := some ⟨x, d, 0⟩, owner := some x, taken := ((s.chan t.ch).arr (tileIdx t) a).taken + 1
        acc := if dfield d.words 0 17 1 = 1 then [] else ((s.chan t.ch).arr (tileIdx t) a).acc
        count := if dfield d.words 0 17 1 = 1 then 0 else ((s.chan t.ch).arr (tileIdx t) a).count }) := by
  refine Acts.of_chanStep rfl ((if_neg (by simp [hstart, hrun])).trans ?_)
  simp only [hpick, hcheck]

/-- A head that fails a check faults the tile under its code. -/
theorem Acts.arrayStart_refused {code : Nat} (hcheck : arrCheck a d.words x ((s.chan t.ch).arr (tileIdx t) a) = some code) :
    Acts (.arrayDescriptorStart t a) s t.ch ((((s.chan t.ch).onCtx (tileIdx t) x (fun v => v.takeHead (arrQueue a) d)).setArr (tileIdx t) a
      { (s.chan t.ch).arr (tileIdx t) a with last := x }).tileFault (tileIdx t) x (arrAgent a) code d.addr) := by
  refine Acts.of_chanStep rfl ((if_neg (by simp [hstart, hrun])).trans ?_)
  simp only [hpick, hcheck]

end

/-! ## Blocks (R46-R53, R70-R74) -/

/-- Array `a` of a tile works on descriptor `r`, whose next block may go on now, and the block's operands read as `oa` and `ob`:
with `c1` the channel, and `ba` the port's panel buffers, after the first, and `c2` and `bb` after the second. -/
structure BlockReads (c : Chan) (i : Nat) (a : ArrId) (errs : NMap LineErr) (r : ArrRun) (oa : OperandRead) (ba : List PanelBuf) (c1 : Chan)
    (ob : OperandRead) (bb : List PanelBuf) (c2 : Chan) : Prop where
  run   : (c.arr i a).run = some r
  clock : c.clockRuns i = true
  more  : r.block < dfield r.desc.words 8 0 16
  duty  : c.fld F.TH_DUTY_DUTY ≠ 0
  readA : c.operand i (dfield r.desc.words 0 22 1 = 1) (a, (c.arr i a).taken) r.desc.words 2 (dfield r.desc.words 1 0 8) r.block
    ((dfield r.desc.words 0 24 1 + r.block) % 2) false (dfield r.desc.words 0 20 1 = 1) (c.arr i a).bufA errs = (oa, ba, c1)
  readB : c1.operand i (dfield r.desc.words 0 23 1 = 1) (a, (c.arr i a).taken) r.desc.words 5 (dfield r.desc.words 1 8 8) r.block
    ((dfield r.desc.words 0 24 1 + r.block) % 2) true (dfield r.desc.words 0 21 1 = 1) (c.arr i a).bufB errs = (ob, bb, c2)

/-- A descriptor in progress is dropped with a fault of its array. -/
def Chan.dropArr (c : Chan) (i : Nat) (a : ArrId) (r : ArrRun) (code : Nat) : Chan :=
  (c.setArr i a { c.arr i a with run := none }).tileFault i r.ctx (arrAgent a) code r.desc.addr

/-- The channel when the next block of descriptor `r` has been added into the cells `m`, its GTB half read once; the last one retires the
descriptor (R74, R85). -/
def Chan.blockAdded (c : Chan) (i : Nat) (a : ArrId) (arr : Arr) (r : ArrRun) (m : NMap AccCell) (ba bb : List PanelBuf) (last : Bool) : Chan :=
  let d := r.desc.words
  let c3 := if decide (dfield d 0 22 1 = 1) || decide (dfield d 0 23 1 = 1) then
    c.setTile i ((c.tile i).gtbDone (a, arr.taken) ((dfield d 0 24 1 + r.block) % 2)) else c
  let c4 := c3.setArr i a { arr with
    acc := m, count := arr.count + blockAdds (dfield d 1 0 8) (dfield d 1 8 8), bufA := ba, bufB := bb
    run := if last then none else some { r with block := r.block + 1 } }
  if last then c4.retireArr i a { r with block := r.block + 1 } else c4

/-- What a block that goes on makes of its channel `c` by what its operands present, read through `c1` and then `c2`: a fault, a wait, or
an addition that may pass the limit or leave the range of `WRAP` (R51, R53, R71-R74, R93). -/
def Chan.blockEnds (c c1 c2 : Chan) (i : Nat) (a : ArrId) (r : ArrRun) (ue : Bool) (ba bb : List PanelBuf) : OperandRead → OperandRead → Chan
  | .fault k, _ => c1.dropArr i a r k
  | _, .fault k => c2.dropArr i a r k
  | .data pa, .data pb =>
    let d := r.desc.words
    let arr := c.arr i a
    if ue then c2.dropArr i a r 0x0D
    else if maxAdditions < arr.count + blockAdds (dfield d 1 0 8) (dfield d 1 8 8) then c2.dropArr i a r 0x0A
    else (addBlock arr.acc (dfield d 1 0 8) (dfield d 1 8 8) (signed 9 (dfield d 8 16 9)) pa pb).elim (c2.dropArr i a r 0x0B)
      (fun m => c2.blockAdded i a arr r m ba bb (decide (dfield d 8 0 16 = r.block + 1) && decide (dfield d 0 18 1 = 0)))
  | _, _ => c

section
variable {t : TileRef} {a : ArrId} {errs : NMap LineErr} {ue : Bool} {s : State}

theorem Acts.arrayBlock_idle (h : ((s.chan t.ch).arr (tileIdx t) a).run = none) : Acts (.arrayBlock t ⟨⟨a, ue⟩, errs⟩) s t.ch (s.chan t.ch) :=
  Acts.of_chanStep rfl (by simp only [h])

theorem Acts.arrayBlock_held {r : ArrRun} (hr : ((s.chan t.ch).arr (tileIdx t) a).run = some r)
    (h : (s.chan t.ch).clockRuns (tileIdx t) = false ∨ dfield r.desc.words 8 0 16 ≤ r.block ∨ (s.chan t.ch).fld F.TH_DUTY_DUTY = 0) :
    Acts (.arrayBlock t ⟨⟨a, ue⟩, errs⟩) s t.ch (s.chan t.ch) := by
  refine Acts.of_chanStep rfl ?_
  simp only [hr]
  exact if_pos (by simpa [or_assoc] using h)

theorem BlockReads.acts {r : ArrRun} {oa ob : OperandRead} {ba bb : List PanelBuf} {c1 c2 : Chan}
    (h : BlockReads (s.chan t.ch) (tileIdx t) a errs r oa ba c1 ob bb c2) :
    Acts (.arrayBlock t ⟨⟨a, ue⟩, errs⟩) s t.ch ((s.chan t.ch).blockEnds c1 c2 (tileIdx t) a r ue ba bb oa ob) := by
  refine Acts.of_chanStep rfl ?_
  simp only [h.run, h.readA, h.readB]
  refine (if_neg (by simp [h.clock, h.more, h.duty])).trans ?_
  cases oa with
  | fault k => rfl
  | wait => cases ob <;> rfl
  | data pa =>
    cases ob with
    | fault k => rfl
    | wait => rfl
    | data pb =>
      refine if_congr Iff.rfl rfl (if_congr Iff.rfl rfl ?_)
      split
      · next hm => rw [hm]; rfl
      · next hm => rw [hm]; rfl

end

section
variable {c c1 c2 : Chan} {i : Nat} {a : ArrId} {r : ArrRun} {ue : Bool} {ba bb : List PanelBuf} {oa ob : OperandRead}

theorem Chan.blockEnds_faultB {k : Nat} (ha : ∀ j, oa ≠ .fault j) : c.blockEnds c1 c2 i a r ue ba bb oa (.fault k) = c2.dropArr i a r k := by
  cases oa with
  | fault j => exact absurd rfl (ha j)
  | data _ => rfl
  | wait => rfl

/-- A block one of whose halves holds nothing yet waits (R74). -/
theorem Chan.blockEnds_waits (ha : ∀ j, oa ≠ .fault j) (hb : ∀ j, ob ≠ .fault j) (hw : oa = .wait ∨ ob = .wait) :
    c.blockEnds c1 c2 i a r ue ba bb oa ob = c := by
  cases oa with
  | fault j => exact absurd rfl (ha j)
  | wait =>
    cases ob with
    | fault j => exact absurd rfl (hb j)
    | data _ => rfl
    | wait => rfl
  | data _ =>
    obtain rfl : ob = .wait := hw.resolve_left (fun h => nomatch h)
    rfl

end

/-! ## Readouts (R54-R60, R78-R81) -/

/-- An extent that readout writes, where it has one. -/
def Chan.putExtent (c : Chan) (i : Nat) (d : Bytes) (w : Nat) (b : Bytes) : Chan := if b = [] then c else c.sramWrite i (dfield d w 0 21) b

section
variable {t : TileRef} {a : ArrId} {ue : Bool} {s : State}

theorem Acts.readout_idle (h : ((s.chan t.ch).arr (tileIdx t) a).run = none) : Acts (.accumulatorReadout t ⟨a, ue⟩) s t.ch (s.chan t.ch) :=
  Acts.of_chanStep rfl (by simp only [h])

theorem Acts.readout_held {r : ArrRun} (hr : ((s.chan t.ch).arr (tileIdx t) a).run = some r)
    (h : (s.chan t.ch).clockRuns (tileIdx t) = false ∨ r.block < dfield r.desc.words 8 0 16 ∨ dfield r.desc.words 0 18 1 = 0) :
    Acts (.accumulatorReadout t ⟨a, ue⟩) s t.ch (s.chan t.ch) := by
  refine Acts.of_chanStep rfl ?_
  simp only [hr]
  exact if_pos (by simpa [or_assoc] using h)

variable {r : ArrRun} (hr : ((s.chan t.ch).arr (tileIdx t) a).run = some r) (hclk : (s.chan t.ch).clockRuns (tileIdx t) = true)
  (hdone : dfield r.desc.words 8 0 16 ≤ r.block) (hclose : dfield r.desc.words 0 18 1 ≠ 0)
include hr hclk hdone hclose

theorem Acts.readout_memoryError (hue : ue = true) :
    Acts (.accumulatorReadout t ⟨a, ue⟩) s t.ch ((s.chan t.ch).dropArr (tileIdx t) a r 0x0D) := by
  refine Acts.of_chanStep rfl ?_
  simp only [hr]
  exact (if_neg (by simp [hclk, hdone, hclose])).trans (if_pos hue)

/-- A readout writes its rows, flags and scales, frees the array and retires its descriptor. -/
theorem Acts.readout_writes (hue : ue = false) : Acts (.accumulatorReadout t ⟨a, ue⟩) s t.ch
    (let c := s.chan t.ch
     let i := tileIdx t
     let d := r.desc.words
     let ro := readoutOf d ⟨c.tileSeed i, dfield d 12 0 24, 0, (c.ctx i r.ctx).keyStep.toNat, (c.ctx i r.ctx).keyMb.toNat⟩ (c.arr i a).acc
     (((c.sramWrite i (dfield d 9 0 21) ro.rows).putExtent i d 10 ro.flags |>.putExtent i d 11 ro.scales).setArr i a
       { c.arr i a with owner := none, acc := [], count := 0, run := none }).retireArr i a r) := by
  subst hue
  refine Acts.of_chanStep rfl ?_
  simp only [hr]
  exact (if_neg (by simp [hclk, hdone, hclose])).trans (if_neg Bool.false_ne_true)

end

/-- Settles O13: a descriptor's start, each of its blocks and its readout are one guarded action each, whose outcome is what the checks, the
operands and the sums answer. -/
theorem arrayDescriptorsBlocksAndReadouts : Obligations.ArrayDescriptorsBlocksAndReadouts := by
  refine ⟨fun t a s => ⟨fun h1 h2 x d h3 => ⟨Acts.arrayStart_passes h1 h2 h3, fun code => Acts.arrayStart_refused h1 h2 h3⟩,
      Acts.arrayStart_idle⟩,
    fun t a errs ue s => ⟨fun h => ?_, fun r hr hclk => ⟨fun h => Acts.arrayBlock_held hr (.inr h), fun hmore hduty oa ba c1 ob bb c2 hA hB => ?_,
      fun h => Acts.readout_held hr (.inr h), fun hdone hclose => ⟨Acts.readout_memoryError hr hclk hdone hclose,
        Acts.readout_writes hr hclk hdone hclose⟩⟩⟩⟩
  -- no descriptor in progress, or no clock
  · cases hrun : ((s.chan t.ch).arr (tileIdx t) a).run with
    | none => exact ⟨Acts.arrayBlock_idle hrun, Acts.readout_idle hrun⟩
    | some r =>
      have hclk := h.resolve_left (by simp [hrun])
      exact ⟨Acts.arrayBlock_held hrun (.inl hclk), Acts.readout_held hrun (.inl hclk)⟩
  -- a block that goes on
  · have h : Acts (.arrayBlock t ⟨⟨a, ue⟩, errs⟩) s t.ch _ := BlockReads.acts ⟨hr, hclk, hmore, hduty, hA, hB⟩
    refine ⟨fun k ha => ?_, fun k ha hb => ?_, fun ha hb hw => ?_, fun pa pb ha hb => ?_⟩
    · subst ha
      exact h
    · subst hb
      rwa [Chan.blockEnds_faultB ha] at h
    · rwa [Chan.blockEnds_waits ha hb hw] at h
    · subst ha hb
      refine ⟨fun hue => ?_, fun hue hmax => ?_, fun hue hmax => ⟨fun hm => ?_, fun m hm => ?_⟩⟩
      · rwa [Chan.blockEnds, if_pos hue] at h
      · rwa [Chan.blockEnds, if_neg (by simp [hue]), if_pos hmax] at h
      · rwa [Chan.blockEnds, if_neg (by simp [hue]), if_neg (Nat.not_lt.2 hmax), hm] at h
      · rw [Chan.blockEnds, if_neg (by simp [hue]), if_neg (Nat.not_lt.2 hmax), hm] at h
        refine ⟨fun hgo => ?_, fun hlast hopen => ?_⟩
        · have hnot : (decide (dfield r.desc.words 8 0 16 = r.block + 1) && decide (dfield r.desc.words 0 18 1 = 0)) = false := by
            simp only [Bool.and_eq_false_iff, decide_eq_false_iff_not]
            exact hgo.imp Ne.symm id
          rwa [hnot] at h
        · have hyes : (decide (dfield r.desc.words 8 0 16 = r.block + 1) && decide (dfield r.desc.words 0 18 1 = 0)) = true := by
            simp [hlast, hopen]
          rwa [hyes] at h

end Sys2Proof.Machine
end

section
/-! PROOFS. The mesh: flits that hop and eject, posts that fall due, and tile data frames. -/

namespace Sys2Proof.Machine

/-! ## Hops (R94, R107) -/

/-- A flit has come to the router of its destination (R107). -/
def Flit.There (f : Flit) : Prop := f.x = f.dx ∧ f.y = f.dy ∧ f.port ≠ 5

/-- A flit without an error passes a router's check as it is (R276). -/
theorem Chan.checkFlit_clean (c : Chan) (i : Nat) (f : Flit) : c.checkFlit i f 0 = (f, c) := by
  simp only [Chan.checkFlit, BitVec.ofNat_eq_ofNat, BitVec.toNat_ofNat, Nat.zero_mod, codeClass, burstLen, if_true]

section
variable {ch : Fin 8} {idx : Nat} {err : BitVec 544} {s : State}

theorem Acts.routerFlit_none (h : (s.chan ch).flits[idx]? = none) : Acts (.routerFlit ch idx err) s ch (s.chan ch) :=
  Acts.of_chanStep rfl (by simp only [h])

theorem Acts.flitEject_none (h : (s.chan ch).flits[idx]? = none) : Acts (.flitEject ch idx err) s ch (s.chan ch) :=
  Acts.of_chanStep rfl (by simp only [h])

variable {f : Flit} (hf : (s.chan ch).flits[idx]? = some f)
include hf

/-- A flit stays where it has arrived, where an earlier one of its path is ahead, or where the next buffer is full. -/
theorem Acts.routerFlit_stays (h : f.There ∨ blockedFlit (s.chan ch).flits idx f = true ∨ 8 ≤ (s.chan ch).inBuffer f.hop) :
    Acts (.routerFlit ch idx err) s ch (s.chan ch) := by
  refine Acts.of_chanStep rfl ?_
  simp only [hf]
  refine if_pos ?_
  simp only [Bool.or_eq_true, Bool.and_eq_true, decide_eq_true_eq]
  unfold Flit.There at h
  tauto

/-- A flit that may go is checked at the next router, and is then in its buffer. -/
theorem Acts.routerFlit_hops (hgo : ¬ f.There) (hfree : blockedFlit (s.chan ch).flits idx f = false)
    (hroom : (s.chan ch).inBuffer f.hop < 8) {g : Flit} {c1 : Chan}
    (hcheck : (s.chan ch).checkFlit (f.hop.y * 48 + f.hop.x) f.hop err = (g, c1)) :
    Acts (.routerFlit ch idx err) s ch { c1 with flits := setAt c1.flits idx g } := by
  refine Acts.of_chanStep rfl ?_
  simp only [hf, hcheck]
  refine if_neg ?_
  simp only [Bool.or_eq_true, Bool.and_eq_true, decide_eq_true_eq, hfree]
  unfold Flit.There at hgo
  have := Nat.not_le.2 hroom
  tauto

/-! ## Ejection (R85, R94, R108, R110) -/

theorem Acts.flitEject_stays (h : ¬ f.There ∨ blockedFlit (s.chan ch).flits idx f = true) :
    Acts (.flitEject ch idx err) s ch (s.chan ch) := by
  refine Acts.of_chanStep rfl ?_
  simp only [hf]
  refine if_pos ?_
  simp only [Bool.or_eq_true, decide_eq_true_eq]
  unfold Flit.There at h
  tauto

end

/-- Flit `f` at place `idx` is at its destination with no earlier one of its path ahead, and checks there as `f1`, which leaves `c1`. -/
structure Ejects (c : Chan) (idx : Nat) (err : BitVec 544) (f f1 : Flit) (c1 : Chan) : Prop where
  at_   : c.flits[idx]? = some f
  there : f.There
  first : blockedFlit c.flits idx f = false
  check : c.checkFlit (f.dy * 48 + f.dx) f err = (f1, c1)

/-- The channel when the flit at place `idx` has left the mesh. -/
def Chan.without (c : Chan) (idx : Nat) : Chan := { c with flits := removeAt c.flits idx }

section
variable {ch : Fin 8} {idx : Nat} {err : BitVec 544} {s : State} {f f1 : Flit} {c1 : Chan} (h : Ejects (s.chan ch) idx err f f1 c1)
include h

theorem Ejects.goes : ¬ (decide (f.port = 5) || decide (f.x ≠ f.dx) || decide (f.y ≠ f.dy) || blockedFlit (s.chan ch).flits idx f) = true := by
  obtain ⟨hx, hy, hport⟩ := h.there
  simp [hx, hy, hport, h.first]

/-- At an interface the line joins its frame (R110). -/
theorem Ejects.toInterface {o : Nat} {fr : Frame} {last : Bool} (hfin : f1.fin = .egress o fr last) :
    Acts (.flitEject ch idx err) s ch ((c1.without idx).lineOut f1.src o fr last f1.data f1.bad) := by
  refine Acts.of_chanStep rfl ?_
  simp only [h.at_, h.check, hfin]
  exact if_neg h.goes

variable {g addr : Nat} {post : Option (Nat × Nat)} (hfin : f1.fin = .sram g addr post)
include hfin

theorem Ejects.held (hclk : (s.chan ch).aclkOn (f.dy * 48 + f.dx) = false) : Acts (.flitEject ch idx err) s ch (s.chan ch) := by
  refine Acts.of_chanStep rfl ?_
  simp only [h.at_, h.check, hfin]
  exact (if_neg h.goes).trans (if_pos (by simp [hclk]))

variable (hclk : (s.chan ch).aclkOn (f.dy * 48 + f.dx) = true)
include hclk

/-- A flit for a tile that its grove does not map faults the grove (R108). -/
theorem Ejects.misrouted (hslot : ((c1.without idx).tile (f.dy * 48 + f.dx)).slot.map (·.grove) ≠ some g) :
    Acts (.flitEject ch idx err) s ch
      ((((c1.without idx).count F.CTL_UND_FREE_MISROUTE).event .hwFault 0 0x0004 (some g) argNone).groveFault g .hwFault) := by
  refine Acts.of_chanStep rfl ?_
  simp only [h.at_, h.check, hfin]
  exact (if_neg h.goes).trans ((if_neg (by simp [hclk])).trans (if_pos hslot))

/-- A sound line is written, and its post falls due (R85). -/
theorem Ejects.writes (hslot : ((c1.without idx).tile (f.dy * 48 + f.dx)).slot.map (·.grove) = some g) (hbad : f1.bad = false) :
    Acts (.flitEject ch idx err) s ch
      (let c3 := (c1.without idx).sramWrite (f.dy * 48 + f.dx) addr (leBytes 64 f1.data.toNat)
       post.elim c3 (fun q => { c3 with due := c3.due ++ [⟨f.dy * 48 + f.dx, q.1, q.2⟩] })) := by
  refine Acts.of_chanStep rfl ?_
  simp only [h.at_, h.check, hfin, hbad]
  refine (if_neg h.goes).trans ((if_neg (by simp [hclk])).trans ((if_neg (not_not.2 hslot)).trans ?_))
  cases post <;> rfl

end

/-! ## Posts and tile data frames (R85, R110, R111) -/

/-- The slot that a tile data frame names is none of the grove's slots here. -/
def Chan.noSlotFor (c : Chan) (g : Nat) (f : Frame) : Prop :=
  64 ≤ bits f.tensor 0 8 ∨ (regionAt c.reg g (bits f.tensor 0 8)).valid = false ∨ (regionAt c.reg g (bits f.tensor 0 8)).remote = true ∨
    (regionAt c.reg g (bits f.tensor 0 8)).lw ≤ bits f.tensor 8 8 ∨ (regionAt c.reg g (bits f.tensor 0 8)).lh ≤ bits f.tensor 16 8

section
variable {t : TileRef} {i : Fin 5} {f : Frame} {s : State}

theorem Acts.tileDataFrame_noJob (h : (s.chan t.ch).groveOfJob f.job = none) :
    Acts (.tileDataFrame t.ch i f) s t.ch ((s.chan t.ch).dropMember f none) := Acts.of_chanStep rfl (by simp only [h])

variable {g : Nat} (h : (s.chan t.ch).groveOfJob f.job = some g)
include h

theorem Acts.tileDataFrame_faulted (hst : ((s.chan t.ch).grove g).st = .faulted) :
    Acts (.tileDataFrame t.ch i f) s t.ch ((s.chan t.ch).dropMember f (some g)) := by
  refine Acts.of_chanStep rfl ?_
  simp only [h]
  exact if_pos hst

theorem Acts.tileDataFrame_held (hst : ((s.chan t.ch).grove g).st ≠ .faulted)
    (hheld : ((s.chan t.ch).grove g).st = .paused ∨ ((s.chan t.ch).grove g).replay = true) :
    Acts (.tileDataFrame t.ch i f) s t.ch (s.chan t.ch) := by
  refine Acts.of_chanStep rfl ?_
  simp only [h]
  exact (if_neg hst).trans (if_pos (by simpa using hheld))

variable (hst : ((s.chan t.ch).grove g).st ≠ .faulted) (hp : ((s.chan t.ch).grove g).st ≠ .paused)
  (hr : ((s.chan t.ch).grove g).replay = false)
include hst hp hr

theorem Acts.tileDataFrame_noSlot (hbad : (s.chan t.ch).noSlotFor g f) :
    Acts (.tileDataFrame t.ch i f) s t.ch (((s.chan t.ch).takeFrame (fun y => y = f)).event .hwFault 4 0 (some g) argNone) := by
  refine Acts.of_chanStep rfl ?_
  simp only [h]
  refine (if_neg hst).trans ((if_neg (by simp [hp, hr])).trans (if_pos ?_))
  simpa [Chan.noSlotFor, or_assoc] using hbad

theorem Acts.tileDataFrame_delivers (hok : ¬ (s.chan t.ch).noSlotFor g f) :
    Acts (.tileDataFrame t.ch i f) s t.ch { (s.chan t.ch).takeFrame (fun y => y = f) with
      flits := ((s.chan t.ch).takeFrame (fun y => y = f)).flits ++
        frameFlits i (slotTile (s.chan t.ch).reg g (bits f.tensor 0 8) (bits f.tensor 8 8) (bits f.tensor 16 8)) g f } := by
  refine Acts.of_chanStep rfl ?_
  simp only [h]
  refine (if_neg hst).trans ((if_neg (by simp [hp, hr])).trans (if_neg ?_))
  simpa [Chan.noSlotFor, or_assoc] using hok

end

/-- Settles O16: a hop, an ejection, a post and a tile data frame are one guarded action each on the channel. -/
theorem flitsPostsAndTileData : Obligations.FlitsPostsAndTileData := by
  refine ⟨fun ch idx err s => ⟨fun h => ⟨Acts.routerFlit_none h, Acts.flitEject_none h⟩, fun f hf => ⟨Acts.routerFlit_stays hf,
      fun hgo hfree hroom => ?_, Acts.flitEject_stays hf, fun hthere hfree f1 c1 hcheck => ?_⟩⟩,
    fun t x sem i f s => ⟨fun hclk hdue => ?_, fun h => ?_, Acts.tileDataFrame_noJob, fun g h => ⟨Acts.tileDataFrame_faulted h,
      Acts.tileDataFrame_held h, fun hp hst hr => ⟨Acts.tileDataFrame_noSlot h hst hp hr, Acts.tileDataFrame_delivers h hst hp hr⟩⟩⟩⟩
  -- a hop
  · exact ⟨fun g c1 => Acts.routerFlit_hops hf hgo hfree hroom, Acts.routerFlit_hops hf hgo hfree hroom (Chan.checkFlit_clean _ _ _)⟩
  -- an ejection
  · have h : Ejects (s.chan ch) idx err f f1 c1 := ⟨hf, hthere, hfree, hcheck⟩
    refine ⟨fun o fr last => h.toInterface, fun g addr post hfin => ⟨h.held hfin, h.misrouted hfin, fun hclk hslot hbad => ?_⟩⟩
    have hw := h.writes hfin hclk hslot hbad
    exact ⟨fun hpost => by subst hpost; exact hw, fun q hpost => by subst hpost; exact hw⟩
  -- a post
  · exact Acts.of_chanStep rfl (if_pos (by rw [hclk, hdue]; rfl))
  · exact Acts.of_chanStep rfl (if_neg (by rcases h with h | h <;> rw [h] <;> simp))

end Sys2Proof.Machine
end

section
/-! PROOFS. Contexts started, stopped and cleared; the patrol scrubbers; the dirty-line generations. -/

namespace Sys2Proof.Machine

/-! ## Contexts (R95, R103) -/

section
variable {i : Instr} {s : State} {k : Nat} {f : Chan → Chan} {d : Chan}
  (h : exec i s = chanStep s k (fun c => if c.regsUp then f c else c))
include h

/-- A register write that takes effect where the channel's registers answer. -/
theorem Acts.of_regsUp (hup : (s.chan k).regsUp = true) (hd : f (s.chan k) = d) : Acts i s k d :=
  Acts.of_chanStep h ((if_pos hup).trans hd)

theorem Acts.of_regsDown (hup : (s.chan k).regsUp = false) : Acts i s k (s.chan k) := Acts.of_chanStep h (if_neg (by simp [hup]))

end

/-- A context after `CLR_FAULT`: idle, with no count and no descriptor (R95). -/
def Ctx.cleared (v : Ctx) : Ctx := { v with st := .idle, sems := [], qA := [], qB := [], qM := [] }

theorem Chan.clrFault_tile (c : Chan) (i : Nat) : (c.clrFault i).tile i =
    { c.tile i with c0 := (c.tile i).c0.cleared, c1 := (c.tile i).c1.cleared, a := Arr.reset, b := Arr.reset } :=
  (c.tile_setTile i i _).trans (if_pos rfl)

theorem Chan.clrFault_ctx (c : Chan) (i y : Nat) : (c.clrFault i).ctx i y = (c.ctx i y).cleared := by
  unfold Chan.ctx
  rw [Chan.clrFault_tile]
  unfold Tile.ctx
  split <;> rfl

theorem Chan.clrFault_reg (c : Chan) (i : Nat) : (c.clrFault i).reg (R.TILE_FAULT + tileSlot i) = 0 :=
  (Chan.reg_putReg _ _ _ _).trans (if_pos rfl)

theorem Chan.clrFault_arr (c : Chan) (i : Nat) (a : ArrId) : (c.clrFault i).arr i a = Arr.reset := by
  unfold Chan.arr
  rw [Chan.clrFault_tile]
  cases a <;> rfl

theorem Chan.ctxStart_starts {c : Chan} {i x : Nat} (hen : c.fld (enFld i x) ≠ 1) (hcode : c.fld (F.TILE_FAULT_CODE.sh (tileSlot i)) = 0)
    (hslot : (c.tile i).slot.isSome) : c.ctxStart i x = (c.setFld (enFld i x) 1).onCtx i x
      (fun v => { v with st := .running, pc := BitVec.ofNat 21 (c.reg (entryReg x + tileSlot i)).toNat }) :=
  if_neg (by simp [hen, hcode, Option.ne_none_iff_isSome.2 hslot])

theorem Chan.ctxStart_ignored {c : Chan} {i x : Nat}
    (h : (c.tile i).slot = none ∨ c.fld (enFld i x) = 1 ∨ c.fld (F.TILE_FAULT_CODE.sh (tileSlot i)) ≠ 0) : c.ctxStart i x = c :=
  if_pos (by rcases h with h | h | h <;> simp [h])

/-! ## Scrubs (R278, R279) -/

/-- Writing an extent back as it was read changes no byte. -/
theorem cellByte_writeBack (m : List Host.Cell) (a n b : Nat) : cellByte (cellWrite m a (cellRead m a n)) b = cellByte m b := by
  rw [cellByte_cellWrite, cellRead_length]
  split
  · next h =>
    rw [cellRead, List.getD_eq_getElem?_getD, List.getElem?_map, List.getElem?_range (by omega)]
    exact congrArg (cellByte m) (Nat.add_sub_cancel' h.1)
  · rfl

theorem getD_setAt {α : Type} {l : List α} {k : Nat} (v d : α) (h : k < l.length) : (setAt l k v).getD k d = v := by
  have hlen : (l.take k).length = k := by simp; omega
  simp [setAt, List.getD_eq_getElem?_getD, hlen]

/-- A sound line of the patrol is written back, and the patrol goes on. -/
theorem Acts.sramScrub_patrol {t : TileRef} {s : State} (hclk : (s.chan t.ch).aclkOn (tileIdx t) = true)
    (hen : (s.chan t.ch).fld F.HBM_SCRUB_CFG_SRAM_EN ≠ 0) (hp : ((s.chan t.ch).tile (tileIdx t)).poison = [])
    (hq : ((s.chan t.ch).tile (tileIdx t)).scrubQ = []) : Acts (.sramScrub t 0) s t.ch ((s.chan t.ch).setTile (tileIdx t)
      (let tl := (s.chan t.ch).tile (tileIdx t)
       { tl with
         sram := cellWrite tl.sram (tl.scrub * 64) (cellRead tl.sram (tl.scrub * 64) 64)
         scrub := (tl.scrub + 1) % 24576
         scrubQ := [] })) := by
  refine Acts.of_chanStep rfl ((if_neg (by simp [hclk, hen])).trans ?_)
  simp only [hq, List.headD_nil, Chan.sramLine_clean _ _ _ hp, if_true]

/-- Reading an unlisted HBM line without an error. -/
theorem Chan.readLine_clean (c : Chan) (l : Nat) (h : c.poison = []) : c.readLine l [(l, 0)] = (some (c.hbmLine l), c) := by
  have he : mapGet (fun _ => (0 : LineErr)) [(l, 0)] l = 0 := if_pos rfl
  unfold Chan.readLine
  rw [he, decodeLine_zero, h]
  rfl

/-- The patrol of a stack moves on its position alone of what it reads and writes (R279). -/
theorem Chan.patrolOn_scrubPos (c : Chan) (h : Nat) :
    (c.patrolOn h).scrubPos = setAt c.scrubPos h ((c.scrubPos.getD h 0 + 1) % 562500000) := by
  unfold Chan.patrolOn
  extract_lets
  split <;> rfl

theorem Chan.patrolOn_hbm (c : Chan) (h : Nat) : (c.patrolOn h).hbm = c.hbm := by
  simp only [Chan.patrolOn, apply_ite Chan.hbm, Chan.count_hbm, Chan.setFld_hbm, ite_self]

/-- An unlisted line of the patrol is written back, and the stack's patrol goes on. -/
theorem Acts.hbmScrub_patrol {ch : Fin 8} {stack : Fin 3} {s : State} (hen : (s.chan ch).fld F.HBM_SCRUB_CFG_HBM_EN ≠ 0)
    (hup : bits ((s.chan ch).fld F.HBM_STATUS_STACK_UP) stack.val 1 = 1) (hp : (s.chan ch).poison = []) (hq : (s.chan ch).scrubQ = []) :
    Acts (.hbmScrub ch stack 0) s ch
      (let c := s.chan ch
       let line := stackLine stack.val (c.scrubPos.getD stack.val 0)
       ({ c with hbm := cellWrite c.hbm (line * 64) (c.hbmLine line), scrubQ := [] } : Chan).patrolOn stack.val) := by
  refine Acts.of_chanStep rfl ((if_neg (by simp [hen, hup])).trans ?_)
  simp only [hq, List.find?_nil, Option.getD_none, Chan.readLine_clean _ _ hp, Option.isSome_none, Bool.false_eq_true, if_false]

/-! ## Dirty generations (R274) -/

theorem mapGet_filter_out {α : Type} (d : Nat → α) (m : NMap α) (p : Nat → Bool) {k : Nat} (h : p k = false) :
    mapGet d (m.filter (fun q => p q.1)) k = d k := by
  induction m with
  | nil => rfl
  | cons q m ih =>
    rw [List.filter_cons]
    split
    · next hq =>
      have hne : q.1 ≠ k := fun e => by simp [e, h] at hq
      exact (if_neg hne).trans ih
    · exact ih

theorem cellByte_cellZero (m : List Host.Cell) {a n b : Nat} (h : a ≤ b ∧ b < a + n) : cellByte (cellZero m a n) b = 0 :=
  mapGet_filter_out _ m (fun x => !(decide (a ≤ x) && decide (x < a + n))) (by simp [h.1, h.2])

/-- The clear has ended: it is no longer busy (R274). -/
theorem Chan.clearDone_busy (c : Chan) : c.clearDone.fld F.HBM_STATUS_CLEAR_BUSY = 0 := by
  unfold Chan.clearDone
  split
  · next h => exact h
  · split
    · exact Chan.fld_setFld_same _ _ _ (by decide)
    · rw [Chan.fld_setFld_ne _ _ _ _ (by decide) (.inr (.inl (by decide))), Chan.fld_setFld_same _ _ _ (by decide), Nat.zero_mod]

section
variable {c : Chan} (hbusy : c.fld F.HBM_STATUS_CLEAR_BUSY ≠ 0) (hgen : c.clearing ≠ c.fld F.HBM_STATUS_GEN)
include hbusy hgen

/-- A generation that no flip has made the receiving one is clean then. -/
theorem Chan.clearDone_clean : c.clearDone.fld F.HBM_STATUS_OTHER_CLEAN = 1 := by
  unfold Chan.clearDone
  rw [if_neg hbusy, if_neg hgen]
  exact Chan.fld_setFld_same _ _ _ (by decide)

theorem Chan.clearDone_hbm {b l : Nat} {tr : Bool} (hr : c.region 3 = some (b, l, tr)) :
    c.clearDone.hbm = cellZero c.hbm ((b + c.clearing * genLines) * 64) (genLines * 64) := by
  unfold Chan.clearDone
  rw [if_neg hbusy, if_neg hgen, hr]
  rfl

end

/-- Settles O17: each write, scrub, flip and clear is one guarded action on the channel. -/
theorem contextsScrubsAndGenerations : Obligations.ContextsScrubsAndGenerations := by
  refine ⟨fun t x s => ⟨fun h => ?_, fun h => ⟨fun hen hcode hslot => ?_, fun hi => ?_, fun hen => ?_, fun hen => ?_, ?_, ?_, fun y _ => ?_,
      ?_, ?_, ?_⟩⟩,
    fun t stack err s => ⟨fun h => ?_, fun hclk hen hp hq => ?_, fun h => ?_, fun hen hup hlen hp hq => ?_, fun h => ?_, fun hoff hlock => ?_,
      fun h => ?_, fun hbusy => ?_⟩⟩
  -- contexts
  · exact ⟨Acts.of_regsDown rfl h, Acts.of_regsDown rfl h, Acts.of_regsDown rfl h⟩
  · exact Acts.of_regsUp rfl h (Chan.ctxStart_starts hen hcode hslot)
  · exact Acts.of_regsUp rfl h (Chan.ctxStart_ignored hi)
  · exact Acts.of_regsUp rfl h (if_neg hen)
  · exact Acts.of_regsUp rfl h (if_pos hen)
  -- what `CLR_FAULT` leaves
  · exact Acts.of_regsUp rfl h rfl
  · exact Chan.clrFault_reg _ _
  · rw [Chan.clrFault_ctx]
    exact ⟨rfl, rfl, rfl, rfl, rfl, rfl⟩
  · exact Chan.clrFault_arr _ _ _
  · exact Chan.clrFault_arr _ _ _
  · rw [Chan.clrFault_tile]
  -- scrubs
  · exact Acts.of_chanStep rfl (if_pos (by rcases h with h | h <;> simp [h]))
  · obtain ⟨u, hu, hact⟩ := Acts.sramScrub_patrol hclk hen hp hq
    have htile := (Chan.body_tile hact.here (tileIdx t)).trans ((Chan.tile_setTile _ _ _ _).trans (if_pos rfl))
    exact ⟨u, hu, congrArg Tile.scrub htile, fun a => (congrArg (cellByte ·.sram a) htile).trans (cellByte_writeBack _ _ _ _)⟩
  · exact Acts.of_chanStep rfl (if_pos (by rcases h with h | h <;> simp [h]))
  · obtain ⟨u, hu, hact⟩ := Acts.hbmScrub_patrol hen hup hp hq
    have hpos := (congrArg Chan.scrubPos hact.here).trans (Chan.patrolOn_scrubPos _ _)
    have hhbm := (Chan.body_hbm hact.here).trans (Chan.patrolOn_hbm _ _)
    refine ⟨u, hu, ?_, fun a => (congrArg (cellByte · a) hhbm).trans (cellByte_writeBack _ _ _ _)⟩
    exact (congrArg (·.getD stack.val 0) hpos).trans (getD_setAt _ _ (stack.isLt.trans_eq hlen.symm))
  -- generations
  · exact ⟨Acts.of_chanStep rfl (if_pos (by simpa using h)), Acts.of_chanStep rfl (if_pos (by simpa using h))⟩
  · exact ⟨fun h => Acts.of_chanStep rfl ((if_neg (by simp [hoff, hlock])).trans (if_pos h)),
      fun h => Acts.of_chanStep rfl ((if_neg (by simp [hoff, hlock])).trans (if_neg h)),
      Acts.of_chanStep rfl (if_neg (by simp [hoff, hlock]))⟩
  · exact Acts.of_chanStep rfl (if_pos h)
  · obtain ⟨u, hu, hact⟩ : Acts (.clearDone t.ch) s t.ch (s.chan t.ch).clearDone := Acts.of_chanStep rfl rfl
    refine ⟨u, hu, (Chan.body_fld hact.here _).trans (Chan.clearDone_busy _), fun hgen =>
      ⟨(Chan.body_fld hact.here _).trans (Chan.clearDone_clean hbusy hgen), fun b l tr hr k hk => ?_⟩⟩
    rw [Chan.body_hbm hact.here, Chan.clearDone_hbm hbusy hgen hr]
    exact cellByte_cellZero _ ⟨Nat.le_add_right _ _, Nat.add_lt_add_left hk _⟩

end Sys2Proof.Machine
end

section
/-! PROOFS. Weight frames that arrive at an interface, and the comparison of a held chunk's digest. -/

namespace Sys2Proof.Machine

/-! ## Weight frames (R111, R131, R132, R142, R149, R408) -/

/-- Every grove that a chunk frame at interface `i` is for: those of the channel that take it, then those whose chunk the entry port
hashes for the module's other channels. -/
def Chan.chunkGroves (c : Chan) (i : Fin 5) (f : Frame) : List Nat :=
  c.weightTakers f ++ if i.val < 2 then c.carriers f.job else []

/-- The groves among them that have not the chunk. -/
def Chan.chunkLacking (c : Chan) (i : Fin 5) (f : Frame) : List Nat := (c.chunkGroves i f).filter (fun g => !(c.grove g).hasChunk f)

/-- The frame is the final one of its chunk, at an entry port. -/
def finalAtEntry (i : Fin 5) (f : Frame) : Bool := decide (i.val < 2) && f.flags.getLsbD 2

/-- The taking grove that reloads the frame's chunk for a remapped slot. -/
def Chan.chunkReload (c : Chan) (f : Frame) : Option (Nat × SlotReload) :=
  (c.weightTakers f).findSome? (fun g => ((c.grove g).slotReloadOf f.shard).map (fun r => (g, r)))

/-- A taking grove is paused or frozen, or a tile that the frame goes to is stopped. -/
def Chan.chunkWaits (c : Chan) (f : Frame) : Bool :=
  (c.weightTakers f).any (fun g => (c.grove g).st = .paused || (c.grove g).replay || !c.destsRun g (c.resFor g f.shard) f)

/-- Grove `g` holds the frame for the comparison. -/
def Chan.holdFrame (f : Frame) (d : Chan) (g : Nat) : Chan :=
  d.setGrove g ((d.grove g).setProg { (d.grove g).prog f.shard f.step (d.resFor g f.shard) with held := some f })

/-- Grove `g` notes the frame's bytes and gets its lines; one that only hashes for other channels drops them
(R131; when lines are written is log entry 28). -/
def Chan.writeFrame (gs : List Nat) (i : Fin 5) (f : Frame) (d : Chan) (g : Nat) : Chan :=
  let p := (d.grove g).prog f.shard f.step (d.resFor g f.shard)
  let d1 := d.setGrove g ((d.grove g).setProg { p with
    data := if !decide (i.val < 2) then [] else if f.mb = 0 then f.payload.bytes else p.data ++ f.payload.bytes
    written := f.flags.getLsbD 2 })
  if gs.contains g then d1.deliverWeight g (d.resFor g f.shard) f else d1.count F.SP_WS_ERR_COUNT_DUP

/-- From channel `c` a frame that came by unicast goes on to its chunk's group. -/
def Chan.passFrame (c : Chan) (i : Fin 5) (f : Frame) (d : Chan) : Chan :=
  match c.chunkLacking i f with
  | g :: _ => if decide (i.val < 2) && !f.flags.getLsbD 5 then d.forwardUnicast i (c.chunkGroup g f.shard f.tensor) f else d
  | [] => d

section
variable {ch : Fin 8} {i : Fin 5} {f : Frame} {s : State}

theorem Acts.weightFrame_otherType (htyp : f.typ ≠ 0x01) : Acts (.weightFrame ch i f) s ch (s.chan ch) :=
  Acts.of_chanStep rfl (if_pos htyp)

theorem Acts.weightFrame_stray (htyp : f.typ = 0x01) (hgs : (s.chan ch).chunkGroves i f = []) :
    Acts (.weightFrame ch i f) s ch ((s.chan ch).strayChunk i (finalAtEntry i f) f) :=
  Acts.of_chanStep rfl ((if_neg (not_not_intro htyp)).trans (if_pos hgs))

theorem Acts.weightFrame_reload {g : Nat} {r : SlotReload} (htyp : f.typ = 0x01) (hgs : (s.chan ch).chunkGroves i f ≠ [])
    (hr : (s.chan ch).chunkReload f = some (g, r)) : Acts (.weightFrame ch i f) s ch ((s.chan ch).reloadFrame g r f) := by
  unfold Chan.chunkReload at hr
  refine Acts.of_chanStep rfl ((if_neg (not_not_intro htyp)).trans ((if_neg hgs).trans ?_))
  rw [hr]

/-- Where no chunk is reloaded, a frame that is for some grove waits, is a duplicate, is held or is written. -/
theorem Acts.weightFrame_plain (htyp : f.typ = 0x01) (hgs : (s.chan ch).chunkGroves i f ≠ [])
    (hr : (s.chan ch).chunkReload f = none) {d : Chan}
    (hd : (let c := s.chan ch
       if c.chunkWaits f then c
       else if (c.chunkGroves i f).all (fun g => (c.grove g).hasChunk f) then
         ((if finalAtEntry i f then c.dropCellOf i f else c).takeFrame (fun x => x = f)).count F.SP_WS_ERR_COUNT_DUP
       else if finalAtEntry i f then (c.chunkLacking i f).foldl (Chan.holdFrame f) c
       else (c.passFrame i f ((c.chunkLacking i f).foldl (Chan.writeFrame (c.weightTakers f) i f) c)).takeFrame (fun x => x = f)) = d) :
    Acts (.weightFrame ch i f) s ch d := by
  unfold Chan.chunkReload at hr
  refine Acts.of_chanStep rfl ((if_neg (not_not_intro htyp)).trans ((if_neg hgs).trans ?_))
  rw [hr]
  exact hd

end

/-! ## The comparison of a held chunk (R131, R136, R137, R408) -/

/-- The groves whose copy of a chunk is held. -/
def Chan.heldGroves (c : Chan) (job chunk : Nat) : List Nat :=
  (c.streamGroves job ++ c.carriers job).filter (fun g => ((c.grove g).heldProg chunk).isSome)

/-- The held final frame of a chunk that is reloaded for a remapped slot. -/
def Chan.heldReload (c : Chan) (job chunk : Nat) : Option (Nat × SlotReload × Frame) :=
  (c.streamGroves job).findSome? (fun g => ((c.grove g).slotReloadOf chunk).bind (fun r => r.held.map (fun f => (g, r, f))))

/-- The first grove whose copy is held, with its progress and the held frame. -/
def Chan.heldFirst (c : Chan) (job chunk : Nat) : Option (Nat × ChunkProg × Frame) :=
  (c.heldGroves job chunk).head?.bind (fun g => ((c.grove g).heldProg chunk).bind (fun p => p.held.map (fun f => (g, p, f))))

/-- A tile that the held chunk goes to is stopped. -/
def Chan.compareWaits (c : Chan) (job chunk : Nat) (f : Frame) : Bool :=
  (c.heldGroves job chunk).any (fun g =>
    (c.streamGroves job).contains g && !c.destsRun g ((((c.grove g).heldProg chunk).map (·.res)).getD 0) f)

/-- What is hashed: the held frame's bytes behind those noted before. -/
def ChunkProg.hashed (p : ChunkProg) (f : Frame) : Bytes := if f.mb = 0 then f.payload.bytes else p.data ++ f.payload.bytes

/-- Where a chunk's notices go: its reader, or the frame's source where the schedule names none. -/
def Chan.noticeTo (c : Chan) (g chunk : Nat) (f : Frame) : Nat := (c.readerOf g chunk).getD f.src

/-- A chunk with the recorded digest (of the slot that `chunkDigest` names, log entry 29): taken, sent on, counted and reported. -/
def Chan.chunkVerified (c : Chan) (i : Fin 5) (job chunk g : Nat) (f : Frame) : Chan :=
  let c1 := (c.heldGroves job chunk).foldl (fun c g => c.takeChunk g chunk f) c
  let c3 := if f.flags.getLsbD 5 then c1.releaseFinal i f
    else (c1.forwardUnicast i (c.chunkGroup g chunk f.tensor) f).takeFrame (fun x => x = f)
  (({ c3 with bank := c3.bank.add64 chanRegs R.SP_WS_VERIFIED_LO 1 } : Chan).sendCtl (c.noticeTo g chunk f) job
    (.chunkDone job chunk (c.node / 8)))

/-- The number of the failed attempt: one at the alternate store is the second, whoever asked for it. -/
def WSlot.failedAttempt (w : WSlot) (p : ChunkProg) (f : Frame) : Nat :=
  if f.src = w.store2 && w.store1 ≠ w.store2 then 2 else p.attempts + 1

/-- A chunk with another digest: flagged, counted, dropped, and reported as attempt `n`. -/
def Chan.chunkMismatch (c : Chan) (i : Fin 5) (job chunk g n : Nat) (f : Frame) : Chan :=
  let c1 := ((c.setFld F.SP_WS_STATUS_MISMATCH 1).count F.SP_WS_ERR_COUNT_MISMATCH).dropCellOf i f
  let c2 := (c.heldGroves job chunk).foldl (fun c g =>
    match (c.grove g).heldProg chunk with
    | some p => c.setGrove g ((c.grove g).setProg { p with held := none, data := [], attempts := n })
    | none => c) c1
  c2.sendCtl (c.noticeTo g chunk f) job (.chunkBad job chunk (min n 2) f.src)

section
variable {ch : Fin 8} {i : Fin 5} {job chunk : Nat} {s : State}

theorem Acts.digestCompare_reload {g : Nat} {r : SlotReload} {f : Frame} (hr : (s.chan ch).heldReload job chunk = some (g, r, f)) :
    Acts (.chunkDigestCompare ch i job chunk) s ch ((s.chan ch).reloadCompare g r f ((s.chan ch).chunkDigest g f)) := by
  unfold Chan.heldReload at hr
  refine Acts.of_chanStep rfl ?_
  dsimp only
  rw [hr]

variable (hr : (s.chan ch).heldReload job chunk = none)
include hr

theorem Acts.digestCompare_nothingHeld (hf : (s.chan ch).heldFirst job chunk = none) :
    Acts (.chunkDigestCompare ch i job chunk) s ch (s.chan ch) := by
  unfold Chan.heldReload at hr
  unfold Chan.heldFirst Chan.heldGroves at hf
  refine Acts.of_chanStep rfl ?_
  dsimp only
  rw [hr]
  dsimp only
  rw [hf]

/-- A held chunk waits for a stopped tile, matches its recorded digest, or fails for the first or the second time. -/
theorem Acts.digestCompare_held {g : Nat} {p : ChunkProg} {f : Frame} (hf : (s.chan ch).heldFirst job chunk = some (g, p, f))
    {d : Chan} (hd : (let c := s.chan ch
       if c.compareWaits job chunk f then c
       else if c.chunkDigest g f = some (digest (p.hashed f)) then c.chunkVerified i job chunk g f
       else
         let w := (c.grove g).wslot (f.rseq % 2)
         let n := w.failedAttempt p f
         let c3 := c.chunkMismatch i job chunk g n f
         let fail := CtlMsg.wsetFail job chunk w.store1 w.store2
         if n = 1 then c3.sendCtl w.store2 job (.readChunk (w.setId.take 16) chunk c.node false (2 * c.idx + i.val) (f.rseq % 2))
         else ((c3.setFld F.SP_WS_STATUS_SET_FAIL 1).sendCtl (c.noticeTo g chunk f) job fail).sendCtl (c.grove g).coord job fail) = d) :
    Acts (.chunkDigestCompare ch i job chunk) s ch d := by
  unfold Chan.heldReload at hr
  unfold Chan.heldFirst Chan.heldGroves at hf
  refine Acts.of_chanStep rfl ?_
  dsimp only
  rw [hr]
  dsimp only
  rw [hf]
  exact hd

end

/-- Settles O18: a frame and a comparison are one action on the channel each, whose branches are the statement's clauses. -/
theorem weightFramesAndDigestsReachTheReader : Obligations.WeightFramesAndDigestsReachTheReader := by
  refine ⟨fun ch i f s => ⟨Acts.weightFrame_otherType, fun htyp => ⟨Acts.weightFrame_stray htyp,
      fun g r => Acts.weightFrame_reload htyp, fun hgs hr => ?_⟩⟩,
    fun ch i job chunk s => ⟨fun g r f => Acts.digestCompare_reload, Acts.digestCompare_nothingHeld, fun g p f hr hf => ?_⟩⟩
  -- a frame of a chunk that some grove needs
  · have plain {d : Chan} := Acts.weightFrame_plain htyp hgs hr (d := d)
    refine ⟨fun hw => plain (if_pos hw), fun hw => ⟨fun hall => ?_, fun hall => ⟨fun hfin => ?_, fun hfin => ?_⟩⟩⟩
    · exact plain ((if_neg (Bool.eq_false_iff.1 hw)).trans (if_pos hall))
    · exact plain ((if_neg (Bool.eq_false_iff.1 hw)).trans ((if_neg (Bool.eq_false_iff.1 hall)).trans (if_pos hfin)))
    · exact plain ((if_neg (Bool.eq_false_iff.1 hw)).trans ((if_neg (Bool.eq_false_iff.1 hall)).trans (if_neg (Bool.eq_false_iff.1 hfin))))
  -- a held chunk
  · have held {d : Chan} := Acts.digestCompare_held hr (i := i) hf (d := d)
    refine ⟨fun hw => held (if_pos hw), fun hw hdig => ?_, fun hw hdig => ⟨fun hn => ?_, fun hn => ?_⟩⟩
    · exact held ((if_neg (Bool.eq_false_iff.1 hw)).trans (if_pos hdig))
    · exact held ((if_neg (Bool.eq_false_iff.1 hw)).trans ((if_neg hdig).trans (if_pos hn)))
    · exact held ((if_neg (Bool.eq_false_iff.1 hw)).trans ((if_neg hdig).trans (if_neg hn)))

end Sys2Proof.Machine
end

section
/-! PROOFS. Direct writes of the understory, parity and snapshot registers; parity sweeps; the accesses of the crown cores. -/

namespace Sys2Proof.Machine

/-! ## Plain writes of a register (R317, R318) -/

theorem Word.and_not_zero (w : Word) : w &&& ~~~ (0 : Word) = w := BitVec.and_allOnes

/-- What a bank holds at an offset after a write. -/
theorem Bank.get_write (t : List RegDef) (b : Bank) (d : RegDef) (off k : Nat) (v live : Word) :
    (b.write t d off v live).bank.get t k =
      if k = off then (b.get t off &&& ~~~ d.bitsOf .rw &&& ~~~ (d.bitsOf .w1c &&& v)) ||| (v &&& d.bitsOf .rw) else b.get t k := by
  rw [← Bank.get_put]
  unfold Bank.write
  dsimp only
  split <;> split <;> rfl

theorem Bank.held_write (t : List RegDef) (b : Bank) (d : RegDef) (off : Nat) (v live : Word) :
    (b.write t d off v live).bank.held = b.held := by
  unfold Bank.write
  dsimp only
  split <;> split <;> rfl

/-- A flag touches its own register and its counter's. -/
theorem Chan.reg_flag_ne (c : Chan) {f n : Fld} {o : Nat} (hf : o ≠ f.off) (hn : o ≠ n.off) : (c.flag f n).reg o = c.reg o :=
  (Chan.reg_setFld_ne (c.setFld f 1) _ hn).trans (Chan.reg_setFld_ne c 1 hf)

/-- A register whose writes are never refused for what it is: nothing of it is staged, it is no ring parameter; its RW bits are `m`,
and none is W1C. -/
def RegDef.plain (d : RegDef) (m : Word) : Bool :=
  !d.isStaged && !([R.CKP_GRV_CFG, R.CKP_GRV_STAGE, R.CKP_GRV_RANGES, R.CKP_GRV_CARRY].contains d.base) &&
    decide (d.bitsOf .rw = m) && decide (d.bitsOf .w1c = 0)

/-- `d` is `c` with the bits `m` of the register at `off` written as `v`; beside it at most a reserved bit has been flagged. -/
structure Chan.Wrote (c d : Chan) (off : Nat) (m v : Word) : Prop where
  here : d.reg off = (c.reg off &&& ~~~ m) ||| (v &&& m)
  regs : ∀ o, o ≠ off → o ≠ R.CTL_STATUS → o ≠ R.CTL_FLAG_COUNT → d.reg o = c.reg o
  held : d.bank.held = c.bank.held

/-- A write of a register without RW bits changes no register but by a flagged reserved bit. -/
theorem Chan.Wrote.reg_same {c d : Chan} {off : Nat} {v : Word} (h : c.Wrote d off 0 v) {o : Nat} (hs : o ≠ R.CTL_STATUS)
    (hn : o ≠ R.CTL_FLAG_COUNT) : d.reg o = c.reg o := by
  by_cases ho : o = off
  · subst ho
    rw [h.here, Word.and_not_zero]
    simp
  · exact h.regs o ho hs hn

/-- A write of a plain register: its fields, then what the write does beyond them, unless the understory refuses it. -/
theorem Chan.writePlain_plain (c : Chan) {off : Nat} {m : Word} (v : Word) (hd : (findReg chanRegs off).map (·.plain m) = some true)
    (hlacks : c.lacks off = false) (hstatus : off ≠ R.CTL_STATUS) (hcount : off ≠ R.CTL_FLAG_COUNT) :
    ∃ d, c.Wrote d off m v ∧ c.writePlain off v =
      if off = R.CTL_UND_CFG && !c.unitsOk (F.CTL_UND_CFG_UNITS.of v) then (c, .capacity) else (d.writeActs off v (c.reg off), .ok) := by
  obtain ⟨r, hr, hplain⟩ := Option.map_eq_some_iff.1 hd
  simp only [RegDef.plain, Bool.and_eq_true, Bool.not_eq_true', decide_eq_true_eq] at hplain
  obtain ⟨⟨⟨hstaged, hring⟩, hrw⟩, hw1c⟩ := hplain
  let w := c.bank.write chanRegs r off v (c.liveWord r off)
  let c1 : Chan := { c with bank := w.bank }
  have hget (k : Nat) := Bank.get_write chanRegs c.bank r off k v (c.liveWord r off)
  have hc1 : c.Wrote c1 off m v := by
    refine ⟨?_, fun o ho _ _ => (hget o).trans (if_neg ho), Bank.held_write chanRegs c.bank r off v (c.liveWord r off)⟩
    have h := hget off
    rwa [if_pos rfl, hrw, hw1c, show (0 : Word) &&& v = 0 from BitVec.zero_and, Word.and_not_zero] at h
  refine ⟨if w.rsv then c1.flagRsv else c1, ?_, ?_⟩
  · split
    · exact ⟨(c1.reg_flag_ne hstatus hcount).trans hc1.here, fun o ho h1 h2 => (c1.reg_flag_ne h1 h2).trans (hc1.regs o ho h1 h2), hc1.held⟩
    · exact hc1
  · unfold Chan.writePlain
    rw [hr]
    simp only [hlacks, hstaged, hring, Bool.false_and, Bool.false_eq_true, if_false]
    rfl

theorem plain_undCfg : (findReg chanRegs R.CTL_UND_CFG).map (·.plain 0x7F) = some true := by decide +kernel
theorem plain_diag : (findReg chanRegs R.CTL_DIAG).map (·.plain 0) = some true := by decide +kernel
theorem plain_snap : (findReg chanRegs R.CTL_SNAP).map (·.plain 0) = some true := by decide +kernel

/-! ## The understory (R102) -/

/-- The low seven bits of a word that takes them from `v`. -/
theorem units_of_write (w v : Word) : F.CTL_UND_CFG_UNITS.of ((w &&& ~~~ 0x7F) ||| (v &&& 0x7F)) = F.CTL_UND_CFG_UNITS.of v := by
  have low (x : Word) : F.CTL_UND_CFG_UNITS.of x = (x.setWidth 7).toNat := by
    simp [Fld.of, bits]
  rw [low, low, BitVec.setWidth_or, BitVec.setWidth_and, BitVec.setWidth_and,
    show (~~~ (0x7F : Word)).setWidth 7 = 0#7 from rfl, show (0x7F : Word).setWidth 7 = BitVec.allOnes 7 from rfl,
    BitVec.and_zero, BitVec.zero_or, BitVec.and_allOnes]

theorem Chan.undCfg_written {c : Chan} {v : Word} (hup : c.unitsOk (F.CTL_UND_CFG_UNITS.of v) = true) :
    c.Wrote (c.writePlain R.CTL_UND_CFG v).1 R.CTL_UND_CFG 0x7F v := by
  obtain ⟨d, hd, hw⟩ := c.writePlain_plain v plain_undCfg rfl (by decide) (by decide)
  rw [hw, if_neg (by simp [hup])]
  exact hd

theorem Chan.undCfg_refused {c : Chan} {v : Word} (hno : c.unitsOk (F.CTL_UND_CFG_UNITS.of v) = false) :
    (c.writePlain R.CTL_UND_CFG v).1 = c := by
  obtain ⟨d, -, hw⟩ := c.writePlain_plain v plain_undCfg rfl (by decide) (by decide)
  rw [hw, if_pos (by simp [hno])]

/-! ## Parity injection (R340) -/

theorem Chan.diag_written (c : Chan) : ∃ d, c.Wrote d R.CTL_DIAG 0 1 ∧
    (c.writePlain R.CTL_DIAG 1).1 = { d with bank := { d.bank with inject := true } } := by
  obtain ⟨d, hd, hw⟩ := c.writePlain_plain 1 plain_diag rfl (by decide) (by decide)
  exact ⟨d, hd, congrArg Prod.fst hw⟩

/-! ## Snapshots released (R337) -/

/-- The word that releases the bank at an offset. -/
def releaseWord (off : Nat) : Word := BitVec.ofNat 32 (off % 2 ^ 24 + 2 ^ 31)

theorem releaseWord_offset (off : Nat) : F.CTL_SNAP_OFFSET.of (releaseWord off) = off % 2 ^ 24 := by
  simp only [Fld.of, releaseWord, bits, BitVec.toNat_ofNat]
  omega

theorem releaseWord_release (off : Nat) : (releaseWord off).getLsbD 31 = true := by
  simp only [BitVec.getLsbD, releaseWord, BitVec.toNat_ofNat, Nat.testBit_eq_decide_div_mod_eq, decide_eq_true_eq]
  omega

/-- What a write of `CTL_SNAP` that releases does beyond its fields. -/
theorem Chan.writeActs_release (c : Chan) (off : Nat) (old : Word) :
    c.writeActs R.CTL_SNAP (releaseWord off) old = (c.unsnap (off % 2 ^ 24)).getD c.flagSnap := by
  have hne : releaseWord off ≠ 0 := fun h => by
    have hbit := releaseWord_release off
    rw [h] at hbit
    simp at hbit
  unfold Chan.writeActs
  rw [if_neg (by decide), if_pos rfl]
  dsimp only
  rw [if_pos (releaseWord_release off), releaseWord_offset, if_neg hne]
  cases c.unsnap (off % 2 ^ 24) <;> rfl

theorem Chan.snap_released (c : Chan) (off : Nat) : ∃ d, c.Wrote d R.CTL_SNAP 0 (releaseWord off) ∧
    (c.writePlain R.CTL_SNAP (releaseWord off)).1 = (d.unsnap (off % 2 ^ 24)).getD d.flagSnap := by
  obtain ⟨d, hd, hw⟩ := c.writePlain_plain (releaseWord off) plain_snap rfl (by decide) (by decide)
  refine ⟨d, hd, ?_⟩
  rw [hw, if_neg (by simp)]
  exact d.writeActs_release off (c.reg R.CTL_SNAP)

theorem mapFind_filter {α : Type} (m : NMap α) (p : Nat → Bool) (k : Nat) :
    mapFind (m.filter (fun q => !p q.1)) k = if p k then none else mapFind m k := by
  induction m with
  | nil => simp [mapFind]
  | cons q m ih =>
    obtain ⟨j, v⟩ := q
    rw [List.filter_cons]
    by_cases hj : j = k
    · subst hj
      by_cases hp : p j <;> simp [hp, mapFind, ih]
    · by_cases hp : p j <;> simp [hp, mapFind, hj, ih]

/-- A release ends the held state of the bank that starts at its offset. -/
theorem Chan.released_held (c : Chan) {off : Nat} {los : List Nat} (hbank : chanBank (off % 2 ^ 24) = some los) (o : Nat) :
    mapFind (c.writePlain R.CTL_SNAP (releaseWord off)).1.bank.held o =
      if los.any (fun l => o = l || o = l + 4) then none else mapFind c.bank.held o := by
  obtain ⟨d, hd, hw⟩ := c.snap_released off
  rw [hw, Chan.unsnap, hbank, ← hd.held]
  exact mapFind_filter d.bank.held (fun k => los.any (fun l => k = l || k = l + 4)) o

/-- An offset that starts no bank is flagged. -/
theorem Chan.released_nothing (c : Chan) {off : Nat} (hbank : chanBank (off % 2 ^ 24) = none) :
    (c.writePlain R.CTL_SNAP (releaseWord off)).1.fld F.CTL_STATUS_SNAP_ERR = 1 ∧
      (c.writePlain R.CTL_SNAP (releaseWord off)).1.bank.held = c.bank.held := by
  obtain ⟨d, hd, hw⟩ := c.snap_released off
  rw [hw, Chan.unsnap, hbank]
  exact ⟨d.fld_flag_same _ _ (by decide) (by decide) (by decide) (.inl (by decide)), hd.held⟩

theorem Chan.released_reg (c : Chan) (off : Nat) {o : Nat} (hs : o ≠ R.CTL_STATUS) (hn : o ≠ R.CTL_FLAG_COUNT)
    (ha : o ≠ R.CTL_AUX_COUNT) : (c.writePlain R.CTL_SNAP (releaseWord off)).1.reg o = c.reg o := by
  obtain ⟨d, hd, hw⟩ := c.snap_released off
  rw [hw, Chan.unsnap]
  cases chanBank (off % 2 ^ 24) with
  | none => exact (d.reg_flag_ne hs ha).trans (hd.reg_same hs hn)
  | some los => exact hd.reg_same hs hn

/-! ## Accesses of the crown cores (R30-R32, R277, R280, R345) -/

/-- An access waits: the channel's registers do not answer, or it is a user program's in a capture hold. -/
def Chan.crownWaits (c : Chan) (a : CrownAccess) : Prop :=
  c.regsUp = false ∨ a.firmware = false ∧ (c.grove a.grove.val).holding = true

theorem Chan.crownWaits_iff (c : Chan) (a : CrownAccess) :
    (!c.regsUp || (!a.firmware && (c.grove a.grove.val).holding)) = true ↔ c.crownWaits a := by
  simp [Chan.crownWaits]

/-- A permitted access is one action on its channel, which it makes `d`. -/
def State.CrownMakes (s : State) (c : Nat) (a : CrownAccess) (p : CrownPlace) (d : Chan) : Prop :=
  ∃ f : Chan → Chan, s.crownAct c a p = s.onChan c f ∧ f (s.chan c) = d

section
variable {ch : Fin 8} {a : CrownAccess} {s : State}

theorem exec_crownCoreAccess_waits (hwait : (s.chan ch).crownWaits a) : exec (.crownCoreAccess ch a) s = .next s :=
  congrArg Host.Outcome.next (if_pos (((s.chan ch).crownWaits_iff a).2 hwait))

variable (hgo : ¬ (s.chan ch).crownWaits a)
include hgo

theorem Acts.crownCoreAccess_refused (hmay : (s.chan ch).crownMay a (crownPlace a.addr.toNat) = false) :
    Acts (.crownCoreAccess ch a) s ch ((s.chan ch).busRefused a.core.val a.addr.toNat) :=
  ⟨_, congrArg Host.Outcome.next ((if_neg (mt ((s.chan ch).crownWaits_iff a).1 hgo)).trans (if_neg (Bool.eq_false_iff.1 hmay))),
    s.onChan_actsOn ch _⟩

variable (hmay : (s.chan ch).crownMay a (crownPlace a.addr.toNat) = true)
include hmay

theorem exec_crownCoreAccess : exec (.crownCoreAccess ch a) s = .next (s.crownAct ch a (crownPlace a.addr.toNat)) :=
  congrArg Host.Outcome.next ((if_neg (mt ((s.chan ch).crownWaits_iff a).1 hgo)).trans (if_pos hmay))

/-- An access that the filter lets through and that acts on its own channel. -/
theorem State.CrownMakes.acts {p : CrownPlace} {d : Chan} (hp : crownPlace a.addr.toNat = p) (h : s.CrownMakes ch a p d) :
    Acts (.crownCoreAccess ch a) s ch d := by
  obtain ⟨f, hact, hd⟩ := h
  rw [← hp] at hact
  exact Acts.of_chanStep ((exec_crownCoreAccess hgo hmay).trans (congrArg Host.Outcome.next hact)) hd

end

section
variable {s : State} {c : Nat} {a : CrownAccess} {off i t h : Nat} {b : Bytes} {d : Chan}

theorem State.crownMakes_rom : s.CrownMakes c a .rom
    ((s.chan c).toCrown a.core.val (some ((List.range a.size).map (fun k => Config.romByte (a.addr.toNat + k))))) := by
  unfold State.CrownMakes State.crownAct
  exact ⟨_, rfl, rfl⟩

theorem State.crownMakes_regs_load (hw : a.write = none) : s.CrownMakes c a (.regs off)
    (((s.chan c).readCheck off 0).2.toCrown a.core.val (some (leBytes 4 ((s.chan c).readWord off 0).toNat))) := by
  unfold State.CrownMakes State.crownAct
  rw [hw]
  exact ⟨_, rfl, rfl⟩

theorem State.crownMakes_regs_store (hw : a.write = some b) : s.CrownMakes c a (.regs off)
    ((s.chan c).writeWord off (BitVec.ofNat 32 (leAt b 0 4))).1 := by
  unfold State.CrownMakes State.crownAct
  rw [hw]
  exact ⟨_, rfl, rfl⟩

theorem State.crownMakes_tile_load {r : Option Bytes} (hw : a.write = none)
    (hl : (s.chan c).sramLines i (t / 64) a.errs (linesIn t a.size) = (r, d)) : s.CrownMakes c a (.tile i t)
    (r.elim (d.crownSramBad a.core.val i) (fun b => d.toCrown a.core.val (some (slice b (t % 64) a.size)))) := by
  unfold State.CrownMakes State.crownAct
  rw [hw]
  refine ⟨_, rfl, ?_⟩
  rw [hl]
  cases r <;> rfl

theorem State.crownMakes_tile_store {r : Bool} (hw : a.write = some b)
    (hl : (s.chan c).sramPoke i t (slice b 0 a.size) a.errs = (r, d)) : s.CrownMakes c a (.tile i t)
    (if r then d.crownSramBad a.core.val i else d) := by
  unfold State.CrownMakes State.crownAct
  rw [hw]
  refine ⟨_, rfl, ?_⟩
  rw [hl]

theorem State.crownMakes_hbm_load {r : Option Bytes} (hw : a.write = none)
    (hl : (s.chan c).readLines (h / 64) a.errs (linesIn h a.size) = (r, d)) : s.CrownMakes c a (.hbm h)
    (d.toCrown a.core.val (r.map (fun b => slice b (h % 64) a.size))) := by
  unfold State.CrownMakes State.crownAct
  rw [hw]
  refine ⟨_, rfl, ?_⟩
  rw [hl]
  cases r <;> rfl

theorem State.crownMakes_hbm_store {r : Bool} (hw : a.write = some b)
    (hl : (s.chan c).hbmPoke h (slice b 0 a.size) a.errs = (r, d)) : s.CrownMakes c a (.hbm h)
    (if r then d.toCrown a.core.val none else d) := by
  unfold State.CrownMakes State.crownAct
  rw [hw]
  refine ⟨_, rfl, ?_⟩
  rw [hl]

end

/-- A load of a module-global register answers the core behind the port die's parity check. -/
theorem State.crownAct_global {s : State} {c : Nat} {a : CrownAccess} (hw : a.write = none) (off : Nat) :
    s.crownAct c a (.global off) =
      (s.pdReadCheck off 0).2.onChan c (fun d => d.toCrown a.core.val (some (leBytes 4 (s.pdRead off 0).toNat))) := by
  unfold State.crownAct
  rw [hw]

/-- A module-global register is only read by a channel. -/
theorem Chan.crownMay_global {c : Chan} {a : CrownAccess} {p : CrownPlace} {off : Nat} (hp : p = .global off) (h : c.crownMay a p = true) :
    a.write = none := by
  subst hp
  simp only [Chan.crownMay, Bool.and_eq_true, Option.isNone_iff_eq_none] at h
  exact h.2

/-- Settles O33: the three register writes are plain writes, and an access that is let through acts as its place and direction say. -/
theorem understorySweepsAndCrownAccess : Obligations.UnderstorySweepsAndCrownAccess := by
  refine ⟨fun ch v off s => ⟨fun h => ⟨Acts.of_regsDown rfl h, Acts.of_regsDown rfl h, Acts.of_regsDown rfl h⟩,
      fun h => ⟨fun hup => ?_, fun hno => ?_, ?_, ?_⟩, fun h => ?_, fun h => ?_⟩,
    fun ch a s => ⟨fun h => Acts.of_regsDown rfl h, fun h => Acts.of_regsUp rfl h rfl, fun h => ?_, fun h => ?_,
      exec_crownCoreAccess_waits, fun hgo => ⟨Acts.crownCoreAccess_refused hgo, fun hmay => ?_⟩⟩⟩
  -- the understory
  · have hw := Chan.undCfg_written hup
    exact ⟨Acts.of_regsUp rfl h rfl, (congrArg F.CTL_UND_CFG_UNITS.of hw.here).trans (units_of_write _ _), fun o ho h1 h2 _ => hw.regs o ho h1 h2⟩
  · exact Acts.of_regsUp rfl h (Chan.undCfg_refused hno)
  -- parity injection
  · obtain ⟨d, hd, hw⟩ := (s.chan ch).diag_written
    exact ⟨Acts.of_regsUp rfl h rfl, congrArg (fun e : Chan => e.bank.inject) hw,
      fun o hs hn _ => (congrArg (fun e : Chan => e.reg o) hw).trans (hd.reg_same hs hn)⟩
  -- snapshots released
  · exact ⟨Acts.of_regsUp rfl h rfl, fun o => (s.chan ch).released_reg off, fun los hbank => (s.chan ch).released_held hbank,
      (s.chan ch).released_nothing⟩
  · exact congrArg Host.Outcome.next (if_neg (by simp [h]))
  · exact congrArg Host.Outcome.next (if_pos h)
  -- parity sweeps of the port die
  · exact congrArg Host.Outcome.next (if_neg (by simp [h]))
  · exact congrArg Host.Outcome.next (if_pos h)
  -- crown-core accesses
  · have acts {p : CrownPlace} {d : Chan} := State.CrownMakes.acts hgo hmay (p := p) (d := d)
    refine ⟨fun hp => acts hp State.crownMakes_rom, fun off hp => ⟨fun hw => acts hp (State.crownMakes_regs_load hw),
      fun b hw => acts hp (State.crownMakes_regs_store hw)⟩, fun off hp => ?_,
      fun i t hp => ⟨fun d hw hl => acts hp (State.crownMakes_tile_load hw hl), fun b d hw hl => acts hp (State.crownMakes_tile_load hw hl),
        fun b d hw hl => acts hp (State.crownMakes_tile_store hw hl), fun b d hw hl => acts hp (State.crownMakes_tile_store hw hl)⟩,
      fun h hp => ⟨fun d hw hl => acts hp (State.crownMakes_hbm_load hw hl), fun b d hw hl => acts hp (State.crownMakes_hbm_load hw hl),
        fun b d hw hl => acts hp (State.crownMakes_hbm_store hw hl), fun b d hw hl => acts hp (State.crownMakes_hbm_store hw hl)⟩⟩
    have hact := State.crownAct_global (s := s) (c := ch) (Chan.crownMay_global hp hmay) off
    rw [← hp] at hact
    exact (exec_crownCoreAccess hgo hmay).trans (congrArg Host.Outcome.next hact)

end Sys2Proof.Machine
end

section
/-! PROOFS. Notices of a chunk's way to its readers, its timeouts, and set failures. -/

namespace Sys2Proof.Machine

/-! ## Chunk notices and timeouts (R132, R134, R136, R137, R232) -/

/-- Settles O19: each clause is one branch of its notice's action on the channel. -/
theorem chunkNoticesAndTimeouts : Obligations.ChunkNoticesAndTimeouts := by
  refine ⟨fun ch g src job chunk ord modid attempt store s => ⟨fun hp => ?_, fun p hp => ?_, ⟨fun hg => ?_, fun h hg => ?_⟩,
      ⟨fun hg => ?_, fun h hg => ⟨fun hw ha => ?_, fun q ha => ?_, fun k ha hw hm => ?_,
        fun k ms ha hw hm => ⟨fun hall => ?_, fun hall => ?_⟩⟩⟩,
      ⟨fun hg => ?_, fun h hg => ⟨fun h2 => ?_, fun h2 => ?_⟩⟩⟩,
    fun ch g chunk job s1 s2 alt s => ⟨fun hno => ?_, fun q slot hq hs => ⟨fun ha hr => ?_, fun r ha hr => ?_, fun ha => ?_⟩, ?_⟩⟩
  -- a written chunk becomes complete
  · exact Acts.of_chanStep rfl (by simp only [hp])
  · exact Acts.of_chanStep rfl (by simp only [hp])
  -- `BUF_FREE`
  · exact Acts.of_chanStep rfl (by simp only [hg])
  · exact Acts.of_chanStep rfl (by simp only [hg])
  -- `CHUNK_DONE`
  · exact Acts.of_chanStep rfl (by simp only [hg])
  · exact Acts.of_chanStep rfl (by simp only [hg, hw, ha])
  · exact Acts.of_chanStep rfl (by simp only [hg, ha])
  · exact Acts.of_chanStep rfl (by simp only [hg, hw, ha, hm])
  · exact Acts.of_chanStep rfl (by simp only [hg, hw, ha, hm]; exact if_neg (Bool.eq_false_iff.1 hall))
  · exact Acts.of_chanStep rfl (by simp only [hg, hw, ha, hm]; exact if_pos hall)
  -- `CHUNK_BAD`
  · exact Acts.of_chanStep rfl (by simp only [hg])
  · exact Acts.of_chanStep rfl (by simp only [hg]; exact if_neg (Bool.eq_false_iff.1 h2))
  · exact Acts.of_chanStep rfl (by simp only [hg]; exact if_pos h2)
  -- a timeout
  · refine Acts.of_chanStep rfl ?_
    obtain hq | hs := hno
    · simp only [hq]
    · dsimp only
      rw [hs]
      cases (((s.chan ch).grove g).ws.reqs.find? (fun x => x.chunk = chunk)) <;> rfl
  · exact Acts.of_chanStep rfl (by simp only [hq, hs]; exact (if_pos ha).trans (by rw [hr]))
  · exact Acts.of_chanStep rfl (by simp only [hq, hs]; exact (if_pos ha).trans (by rw [hr]))
  · exact Acts.of_chanStep rfl (by simp only [hq, hs]; exact if_neg (Bool.eq_false_iff.1 ha))
  -- `WSET_FAIL`
  · exact Acts.of_chanStep rfl rfl

end Sys2Proof.Machine
end

section
/-! PROOFS. Digest updates, weight switches, reattachment, and reloads of HBM-tier and RESIDENT copies. -/

namespace Sys2Proof.Machine

/-! ## Pending switches (R145-R147) -/

/-- The grove stands where its pending switch takes effect: a training grove between steps at the step, another one from the point
on, and where the point is the next, once it is quiet. -/
def Chan.switchDue (c : Chan) (g : Nat) (w : Switch) : Bool :=
  let v := c.grove g
  if v.kind = 1 then v.step = w.at_ && v.between else w.at_ ≤ v.step || (w.at_ = v.step + 1 && c.quiet g)

theorem Chan.switchDue_iff (c : Chan) (g : Nat) (w : Switch) : c.switchDue g w = true ↔
    if (c.grove g).kind = 1 then (c.grove g).step = w.at_ ∧ (c.grove g).between = true
    else w.at_ ≤ (c.grove g).step ∨ (w.at_ = (c.grove g).step + 1 ∧ c.quiet g = true) := by
  unfold Chan.switchDue
  dsimp only
  split <;> simp

section
variable {ch : Fin 8} {g : Fin 16} {s : State}

/-- No switch is applied where none pends, or where the grove is faulted, paused, empty or replaying. -/
theorem Acts.wsetSwitchApply_waits (h : ((s.chan ch).grove g).ws.switch = none ∨ ((s.chan ch).grove g).st = .empty ∨
    ((s.chan ch).grove g).st = .faulted ∨ ((s.chan ch).grove g).st = .paused ∨ ((s.chan ch).grove g).replay = true) :
    Acts (.wsetSwitchApply ch g) s ch (s.chan ch) := by
  refine Acts.of_chanStep rfl ?_
  dsimp only
  split
  · rfl
  · next hw => exact if_pos (by simpa [hw, or_assoc] using h)

/-- Elsewhere a pending switch takes effect once it is due. -/
theorem Acts.wsetSwitchApply_pending {w : Switch} {d : Chan} (hw : ((s.chan ch).grove g).ws.switch = some w)
    (hempty : ((s.chan ch).grove g).st ≠ .empty) (hfault : ((s.chan ch).grove g).st ≠ .faulted)
    (hpause : ((s.chan ch).grove g).st ≠ .paused) (hreplay : ((s.chan ch).grove g).replay = false)
    (hd : (if (s.chan ch).switchDue g w then (s.chan ch).switchNow g w.slot else s.chan ch) = d) : Acts (.wsetSwitchApply ch g) s ch d := by
  subst hd
  refine Acts.of_chanStep rfl ?_
  simp only [hw]
  refine (if_neg (by simp [hempty, hfault, hpause, hreplay])).trans ?_
  unfold Chan.switchDue
  dsimp only
  split <;> rfl

end

/-! ## Reloads (R138, R408) -/

/-- What a reload of a chunk brought has the length and digest that the manifest lists. -/
def Grove.reloadGood (v : Grove) (chunk : Nat) (data : Option Bytes) : Bool :=
  match data, (v.wslot v.slotNow).chunk chunk with
  | some b, some m => b.length = m.len && Machine.digest b = m.digest
  | _, _ => false

theorem Grove.reloadGood_iff (v : Grove) (chunk : Nat) (data : Option Bytes) : v.reloadGood chunk data = true ↔
    ∃ b m, data = some b ∧ (v.wslot v.slotNow).chunk chunk = some m ∧ b.length = m.len ∧ Machine.digest b = m.digest := by
  unfold Grove.reloadGood
  cases data <;> cases (v.wslot v.slotNow).chunk chunk <;> simp

/-- The tier test of a reloaded chunk: the chunk is one of a RESIDENT tensor. -/
theorem Chan.resident_iff (c : Chan) (g : Nat) (k : Option MChunk) :
    k.bind (fun m => (c.tensorOf g m.tensor).map (fun t => decide (t.tier = 0))) = some true ↔
      ∃ m t, k = some m ∧ c.tensorOf g m.tensor = some t ∧ t.tier = 0 := by
  simp [Option.bind_eq_some_iff]

/-- An outstanding reload ends with the copy written, is tried once more, or faults the grove. -/
theorem Acts.hbmTierReload {ch : Fin 8} {g : Fin 16} {chunk n fails : Nat} {data : Option Bytes} {s : State} {d : Chan}
    (hf : ((s.chan ch).grove g).ws.reload.find? (fun p => p.1 = chunk) = some (n, fails))
    (hd : (let c := s.chan ch
       let v := c.grove g
       let rest := v.ws.reload.filter (fun p => p.1 ≠ chunk)
       let c1 := c.setGrove g { v with ws := { v.ws with reload := rest } }
       if v.reloadGood chunk data then
         if ((v.wslot v.slotNow).chunk chunk).bind (fun m => (c.tensorOf g m.tensor).map (fun t => decide (t.tier = 0))) = some true then
           c1.refill g v.slotNow chunk (data.getD [])
         else c1.hbmWrite (Config.hbmCopy v.image v.slotNow chunk) (data.getD [])
       else if fails = 0 then c.setGrove g { v with ws := { v.ws with reload := rest ++ [(chunk, 1)] } }
       else (c.event .digestFail 8 0 (some g.val) argNone).groveFault g .digestFail) = d) : Acts (.hbmTierReload ch g chunk data) s ch d := by
  refine Acts.of_chanStep rfl ?_
  simp only [hf]
  exact hd

/-- Settles O20: each clause is one branch of its command's action on the channel. -/
theorem switchesAndReloads : Obligations.SwitchesAndReloads := by
  refine ⟨fun ch job step chunk slot point g d s => ⟨⟨fun hg => ?_, fun h hg => ⟨fun hno => ?_, fun hst hnew => ?_⟩⟩,
      ⟨fun hg => ?_, fun h hg => ⟨fun hno => ?_, fun hno => ?_⟩⟩,
      ⟨Acts.wsetSwitchApply_waits, fun w hw hempty hfault hpause hreplay => ⟨fun hnow => ?_, fun hnow => ?_⟩,
        fun hsub hrun hatt => ?_, fun hno => ?_⟩⟩,
    fun ch g chunk data s => ⟨fun hf => ?_, fun n fails hf => ⟨fun hgood hres => ?_, fun hgood hres => ?_,
      fun hgood h0 => ?_, fun hgood h0 => ?_⟩⟩⟩
  -- `DIGEST_UPDATE`
  · exact Acts.of_chanStep rfl (by simp only [hg])
  · exact Acts.of_chanStep rfl (by simp only [hg]; exact if_pos (by simpa using hno))
  · exact Acts.of_chanStep rfl (by simp only [hg]; exact if_neg (by simp only [hst, hnew]; decide))
  -- `SWITCH_AT`
  · exact Acts.of_chanStep rfl (by simp only [hg])
  · exact Acts.of_chanStep rfl (by simp only [hg]; exact if_pos (by simpa [or_assoc, Option.isSome_iff_ne_none] using hno))
  · exact Acts.of_chanStep rfl (by simp only [hg]; exact if_neg (by simpa [or_assoc, Option.isSome_iff_ne_none] using hno))
  -- a pending switch
  · exact Acts.wsetSwitchApply_pending hw hempty hfault hpause hreplay (if_pos (((s.chan ch).switchDue_iff g w).2 hnow))
  · exact Acts.wsetSwitchApply_pending hw hempty hfault hpause hreplay (if_neg (mt ((s.chan ch).switchDue_iff g w).1 hnow))
  -- reattachment
  · exact Acts.of_chanStep rfl (if_pos (by simp [hsub, hrun, hatt]))
  · exact Acts.of_chanStep rfl (if_neg (by obtain h | h | h := hno <;> simp [h]))
  -- a reload
  · exact Acts.of_chanStep rfl (by simp only [hf])
  · exact Acts.hbmTierReload hf ((if_pos ((Grove.reloadGood_iff ..).2 hgood)).trans (if_pos ((Chan.resident_iff ..).2 hres)))
  · exact Acts.hbmTierReload hf ((if_pos ((Grove.reloadGood_iff ..).2 hgood)).trans (if_neg (mt (Chan.resident_iff ..).1 hres)))
  · exact Acts.hbmTierReload hf ((if_neg (mt (Grove.reloadGood_iff ..).1 hgood)).trans (if_pos h0))
  · exact Acts.hbmTierReload hf ((if_neg (mt (Grove.reloadGood_iff ..).1 hgood)).trans (if_neg h0))

end Sys2Proof.Machine
end

section
/-! PROOFS. Weight-set commands: stages, discards, switches, detaches; the coordinator's log and suspect marks. -/

namespace Sys2Proof.Machine

/-! ## Completions of accepted commands -/

section
variable {i : Instr} {s : State} {q : Issue} {op : Nat} {f : Datagram → Chan → Chan} (h : exec i s = completeStep s q op f)
include h

/-- A completion for no channel leaves the module. -/
theorem exec_completeStep_noChannel (h8 : 8 ≤ q.channel) : exec i s = .next s :=
  h.trans (congrArg Host.Outcome.next (if_pos h8))

variable (h8 : q.channel < 8)
include h8

/-- A completion that no accepted command waits for leaves the channel (log entry 69). -/
theorem Acts.completeStep_none (hn : (s.chan q.channel).acceptedCmd q op = none) : Acts i s q.channel (s.chan q.channel) :=
  Acts.of_chanStep (h.trans (congrArg Host.Outcome.next (if_neg (Nat.not_le.2 h8)))) (by simp only [hn])

/-- The completion of a waiting command has the row's effect. -/
theorem Acts.completeStep_some {d : Datagram} {k : Chan} (hd : (s.chan q.channel).acceptedCmd q op = some d)
    (hk : f d (s.chan q.channel) = k) : Acts i s q.channel k :=
  Acts.of_chanStep (h.trans (congrArg Host.Outcome.next (if_neg (Nat.not_le.2 h8)))) (by simp only [hd, hk])

end

/-! ## Stages (R144, R302) -/

theorem Grove.wslot_setWslot (v : Grove) (k : Nat) (w : WSlot) : (v.setWslot k w).wslot k = w := by
  unfold Grove.wslot Grove.setWslot
  split <;> rfl

theorem Chan.stage_unsigned (c : Chan) (g k : Nat) {key : Option Bytes} {m : Bytes} (h1 h2 : NMap Bytes) (h : signatureOk key m = false) :
    c.stage g k key m h1 h2 = (.signatureFail, c.setGrove g ((c.grove g).setWslot k WSlot.empty)) :=
  if_pos (by simp [h])

/-- A stage that ends well leaves its slot STAGED under the manifest's digest. -/
theorem Chan.stage_ok {c e : Chan} {g k : Nat} {key : Option Bytes} {m : Bytes} {h1 h2 : NMap Bytes}
    (h : c.stage g k key m h1 h2 = (.ok, e)) : ((e.grove g).wslot k).st = .staged ∧ ((e.grove g).wslot k).setId = digest m := by
  unfold Chan.stage at h
  dsimp only at h
  split at h
  · cases h
  split at h
  · cases h
  split at h
  · cases h
  · cases h
    rw [Chan.grove_onGrove, if_pos rfl, Grove.wslot_setWslot]
    exact ⟨rfl, rfl⟩

/-- A stage in progress ends as its checks say, and a good one names the set by the manifest's digest. -/
theorem Acts.wsetStageComplete_staging {q : Issue} {m : Bytes} {h1 h2 : NMap Bytes} {d : Datagram} {s : State} {st : Status} {c : Chan}
    (h8 : q.channel < 8) (hd : (s.chan q.channel).acceptedCmd q 0x70 = some d)
    (hst : (((s.chan q.channel).grove (pAt d 0 1)).wslot (pAt d 1 1)).st = .staging)
    (hends : (s.chan q.channel).stage (pAt d 0 1) (pAt d 1 1) (s.pd.publisher m) m h1 h2 = (st, c)) :
    Acts (.wsetStageComplete q m h1 h2) s q.channel (c.complete d st (some (pAt d 0 1)) (if st = .ok then digest m else [])) :=
  Acts.completeStep_some rfl h8 hd ((if_neg (not_not_intro hst)).trans (by simp only [hends]))

/-! ## Parts that a run of operations keeps -/

/-- What each of a row of operations keeps of a channel, all of them keep. -/
theorem Chan.foldl_keeps {α β : Type} {f : Chan → α → Chan} (part : Chan → β) (h : ∀ c a, part (f c a) = part c) (l : List α)
    (c : Chan) : part (l.foldl f c) = part c := by
  induction l generalizing c with
  | nil => rfl
  | cons a t ih => exact (ih _).trans (h c a)

theorem Chan.destDown_groves (c : Chan) (i : Nat) : (c.destDown i).groves = c.groves :=
  (Chan.count_groves _ _).trans (Chan.setFld_groves c _ _)

theorem Chan.toEgress_groves (c : Chan) (i : Nat) (e : EgressItem) : (c.toEgress i e).1.groves = c.groves := by
  unfold Chan.toEgress
  dsimp only
  split
  · rfl
  split
  · exact c.destDown_groves i
  · rfl

/-- Sending a frame leaves the groves. -/
theorem Chan.sendFrame_groves (c : Chan) (f : Frame) : (c.sendFrame f).groves = c.groves := by
  unfold Chan.sendFrame
  dsimp only
  split
  · rfl
  split
  · rfl
  · refine Chan.foldl_keeps Chan.groves (fun c o => ?_) _ _
    split
    · rfl
    · exact Chan.toEgress_groves _ _ _

theorem Chan.sendCtl_groves (c : Chan) (dst job : Nat) (m : CtlMsg) : (c.sendCtl dst job m).groves = c.groves := Chan.sendFrame_groves _ _

/-! ## Switches (R145-R147) -/

/-- The channel once the other members of a joined grove have been told of the switch. -/
def Chan.switchTold (c : Chan) (g slot at_ : Nat) : Chan :=
  let v := c.grove g
  if 1 < v.members then ((c.memberNodes g).filter (· ≠ c.node)).foldl (fun c n => c.sendCtl n v.job (.switchAt v.job slot at_)) c else c

theorem Chan.switchTold_grove (c : Chan) (g slot at_ k : Nat) : (c.switchTold g slot at_).grove k = c.grove k := by
  unfold Chan.switchTold
  dsimp only
  split
  · exact congrArg (mapGet _ · k) (Chan.foldl_keeps Chan.groves (fun c _ => c.sendCtl_groves _ _ _) _ _)
  · rfl

/-- The switch pends at the same point before and after the members have been told of it. -/
theorem Chan.switchTold_pends (c : Chan) (g slot : Nat) : (c.switchTold g slot (c.grove g).switchPoint).onGrove g (fun v => { v with
      ws := { v.ws with switch := some (v.switchAt slot (c.grove g).switchPoint) } }) =
    (c.switchTold g slot (c.grove g).switchPoint).onGrove g (fun v => { v with
      ws := { v.ws with switch := some (v.switchAt slot v.switchPoint) } }) := by
  unfold Chan.onGrove
  rw [Chan.switchTold_grove]

/-! ## Suspect marks (R210) -/

/-- Clears the suspect mark of a link unit that `units` names. -/
def Chan.clearSuspect (units : Nat) (c : Chan) (u : Nat) : Chan :=
  if bits units u 1 = 1 then c.setFld (F.RED_UNIT_STATUS_SUSPECT.sh (unitOff u)) 0 else c

theorem Chan.clearSuspect_idx (units : Nat) (c : Chan) (u : Nat) : (c.clearSuspect units u).idx = c.idx := by
  unfold Chan.clearSuspect
  split <;> rfl

theorem Chan.clearSuspect_linkLost (units : Nat) (c : Chan) (u : Nat) : (c.clearSuspect units u).linkLost = c.linkLost := by
  unfold Chan.clearSuspect
  split <;> rfl

theorem Chan.clearSuspect_named {units k : Nat} (hb : bits units k 1 = 1) (c : Chan) :
    (c.clearSuspect units k).fld (F.RED_UNIT_STATUS_SUSPECT.sh (unitOff k)) = 0 := by
  unfold Chan.clearSuspect
  rw [if_pos hb]
  exact Chan.fld_setFld_same _ _ _ (by decide : 0 + 1 ≤ 32)

/-- Clearing one unit's mark sets no other's. -/
theorem Chan.clearSuspect_clear (units : Nat) {c : Chan} {u k : Nat} (hku : k ≠ u) (h : c.fld (F.RED_UNIT_STATUS_SUSPECT.sh (unitOff k)) = 0) :
    (c.clearSuspect units u).fld (F.RED_UNIT_STATUS_SUSPECT.sh (unitOff k)) = 0 := by
  unfold Chan.clearSuspect
  split
  · refine (Chan.fld_setFld_ne _ _ _ _ (by decide : 0 + 1 ≤ 32) (.inl ?_)).trans h
    simp only [Fld.sh, unitOff]
    omega
  · exact h

/-- A named unit is clear once its turn has come. -/
theorem Chan.clearSuspects_clear {units k : Nat} (hb : bits units k 1 = 1) (l : List Nat) (c : Chan)
    (h : k ∈ l ∨ c.fld (F.RED_UNIT_STATUS_SUSPECT.sh (unitOff k)) = 0) :
    (l.foldl (Chan.clearSuspect units) c).fld (F.RED_UNIT_STATUS_SUSPECT.sh (unitOff k)) = 0 := by
  induction l generalizing c with
  | nil => exact h.resolve_left List.not_mem_nil
  | cons u t ih =>
    refine ih _ ?_
    by_cases hku : k = u
    · subst hku
      exact .inr (Chan.clearSuspect_named hb c)
    · exact h.imp (fun hm => (List.mem_cons.1 hm).resolve_left hku) (Chan.clearSuspect_clear units hku)

/-- Settles O48: a ready command has the effect and the reply of its row; a completion ends as its stage does. -/
theorem weightSetCommands : Obligations.WeightSetCommands := by
  refine ⟨fun q grove slot store1 store2 src1 src2 m h1 h2 d s => ⟨fun h => ?_, fun h8 => exec_completeStep_noChannel rfl h8,
      fun h8 hn => Acts.completeStep_none rfl h8 hn, fun h8 hd => ⟨fun hst => ?_, fun hst => ⟨fun hsig => ?_, ?_⟩⟩, fun h => ?_,
      fun h => ⟨fun w hw => ?_, fun hw => ?_⟩⟩,
    fun q grove slot units others d s => ⟨fun h => ⟨fun hrest => ?_, fun hrest => ⟨?_, fun hone => ?_⟩⟩,
      fun h => ?_, fun h => ?_, fun h => ?_⟩⟩
  -- `WSET_STAGE` and its completion
  · exact Executes.of h rfl rfl rfl rfl rfl
  · exact Acts.completeStep_some rfl h8 hd (if_pos hst)
  · exact Acts.wsetStageComplete_staging h8 hd hst (Chan.stage_unsigned _ _ _ _ _ hsig)
  · rcases hends : (s.chan q.channel).stage (pAt d 0 1) (pAt d 1 1) (s.pd.publisher m) m h1 h2 with ⟨st, c⟩
    have hact := Acts.wsetStageComplete_staging h8 hd hst hends
    dsimp only
    split
    · next hok =>
      subst hok
      obtain ⟨u, hu, hon⟩ := hact
      have hslot := Chan.body_grove hon.here (pAt d 0 1)
      obtain ⟨hstaged, hid⟩ := Chan.stage_ok hends
      exact ⟨⟨u, hu, hon⟩, u, hu, by rw [hslot]; exact hstaged, by rw [hslot]; exact hid⟩
    · next hbad => rwa [if_neg hbad] at hact
  -- `WSET_DISCARD` and `WSET_STATUS`
  · exact Executes.of h rfl rfl rfl rfl rfl
  · exact Executes.of (c := (s.chan q.channel).begun d) h rfl (by simp only [hw]; rfl) rfl rfl rfl
  · exact Executes.of (c := ((s.chan q.channel).begun d).draw.2) h rfl (by simp only [hw]; rfl) rfl rfl rfl
  -- `WSET_SWITCH`
  · exact h.acts rfl (by simp only [hrest, if_true]; exact Chan.body_reply ..)
  · exact h.acts rfl (by
      simp only [hrest, Bool.false_eq_true, if_false]
      exact (Chan.body_reply ..).trans (congrArg Chan.body (Chan.switchTold_pends ((s.chan q.channel).begun d) grove slot)))
  · refine Executes.of (c := ((s.chan q.channel).begun d).onGrove grove _) (g := some grove) (detail := []) h rfl ?_ rfl rfl rfl
    simp only [hrest, Bool.false_eq_true, if_false, if_neg (Nat.not_lt.2 hone), Chan.onGrove]
  -- `BASE_DETACH`, `VERDICT_LOG` and `SUSPECT_CLEAR`
  · exact Executes.of h rfl rfl rfl rfl rfl
  · exact Executes.of h rfl rfl rfl rfl rfl
  · obtain ⟨u, hu, hact, hans⟩ := Executes.of (i := .suspectClear q units) h rfl rfl
      (Chan.foldl_keeps Chan.idx (Chan.clearSuspect_idx units) _ _)
      (Chan.foldl_keeps Chan.linkLost (Chan.clearSuspect_linkLost units) _ _) rfl
    refine ⟨u, hu, hans, fun k hk hb => ?_⟩
    rw [← h.named, Chan.body_fld hact.here]
    exact Chan.clearSuspects_clear hb _ _ (.inl (List.mem_range.2 hk))

end Sys2Proof.Machine
end

section
/-! PROOFS. Stash admission points, the timeout of egress staging, and the egress of gradients. -/

namespace Sys2Proof.Machine

/-! ## Egress (R189-R193) -/

section
variable {ch : Fin 8} {g : Fin 16} {ue : Bool} {s : State}

/-- Nothing leaves a grove that does not work or does not train, or that has no block left to send. -/
theorem Acts.egressSend_idle (h : ((s.chan ch).grove g).st.active = false ∨ ((s.chan ch).grove g).kind ≠ 1 ∨ (s.chan ch).unsent g = []) :
    Acts (.egressSend ch ⟨g, ue⟩) s ch (s.chan ch) := by
  refine Acts.of_chanStep rfl ?_
  by_cases hgo : ((s.chan ch).grove g).st.active = true ∧ ((s.chan ch).grove g).kind = 1
  · have hun : (s.chan ch).unsent g = [] := by simpa [hgo] using h
    simp only [hun, ite_self]
  · exact if_pos (by simpa [imp_iff_not_or] using hgo)

variable {n b : Nat} {l : List (Nat × Nat)} (hact : ((s.chan ch).grove g).st.active = true)
  (hkind : ((s.chan ch).grove g).kind = 1) (hun : (s.chan ch).unsent g = (n, b) :: l)
include hact hkind hun

/-- A shard that the table does not name sends nothing. -/
theorem Acts.egressSend_noShard (hsh : (s.chan ch).shard g n = none) : Acts (.egressSend ch ⟨g, ue⟩) s ch (s.chan ch) := by
  refine Acts.of_chanStep rfl ((if_neg (by simp [hact, hkind])).trans ?_)
  simp only [hun, hsh]

variable {sh : Shard} (hsh : (s.chan ch).shard g n = some sh)
include hsh

/-- The shard waits while no run of it is ready, or its own combiner has no room (R192, R198). -/
theorem Acts.egressSend_waits (h : (s.chan ch).nextRun g sh = [] ∨ (s.chan ch).ownFull g sh = true) :
    Acts (.egressSend ch ⟨g, ue⟩) s ch (s.chan ch) := by
  refine Acts.of_chanStep rfl ((if_neg (by simp [hact, hkind])).trans ?_)
  simp only [hun, hsh]
  exact if_pos (by simpa using h)

end

/-- Settles O21: each clause is one branch of its command's action on the channel. -/
theorem stashAndEgress : Obligations.StashAndEgress := by
  refine ⟨fun ch g s => ⟨fun hcan hlow => ?_, fun h => ?_, fun hcan hhigh hdrain => ?_, fun h => ?_, fun hwait => ?_, fun hwait => ?_⟩,
    fun ch g ue s => ⟨Acts.egressSend_idle, fun n b l hact hkind hun => ⟨Acts.egressSend_noShard hact hkind hun,
      fun sh hsh => ⟨Acts.egressSend_waits hact hkind hun hsh, fun hrun hroom => ?_⟩⟩⟩⟩
  -- an admission point below the mark
  · exact Acts.of_chanStep rfl (if_pos (by simp [hcan, hlow]))
  · exact Acts.of_chanStep rfl (if_neg (by obtain h | h := h <;> simp [h]))
  -- an admission point at or over the mark
  · exact Acts.of_chanStep rfl (if_pos (by simp [hcan, hhigh, hdrain]))
  · exact Acts.of_chanStep rfl (if_neg (by obtain h | h | h := h <;> simp [h]))
  -- staging room that does not come
  · exact Acts.of_chanStep rfl (if_neg hwait)
  · exact Acts.of_chanStep rfl (if_pos hwait)
  -- a ready run leaves
  · refine Acts.of_chanStep rfl ((if_neg (by simp [hact, hkind])).trans ?_)
    simp only [hun, hsh]
    exact if_neg (by simp [hrun, hroom])

end Sys2Proof.Machine
end

section
/-! PROOFS. Gradient frames that arrive, combined blocks, and the timeouts of combiner slots. -/

namespace Sys2Proof.Machine

/-! ## Groves that are paused -/

theorem GroveState.ne_paused_of_active {st : GroveState} (h : st.active = true) : st ≠ .paused := by
  rintro rfl
  cases h

theorem GroveState.ne_paused_of_coordinates {st : GroveState} (h : st.coordinates = true) : st ≠ .paused := by
  rintro rfl
  cases h

/-! ## Tree entries that combine (R196) -/

/-- Whether a combiner of the grove works for a tree entry: the grove works, and the entry is a valid root or combiner. -/
def TreeEntry.combinesFor (e : TreeEntry) (st : GroveState) : Prop := st.active = true ∧ e.valid = true ∧ (e.root = true ∨ e.combine = true)

/-- The test of an arriving frame. -/
theorem TreeEntry.discards_iff (e : TreeEntry) :
    (!e.valid || !(e.root || e.combine)) = true ↔ ¬ (e.valid = true ∧ (e.root = true ∨ e.combine = true)) := by
  cases e.valid <;> simp

/-- The test of a grove's commands. -/
theorem TreeEntry.stays_iff (e : TreeEntry) (st : GroveState) :
    (!st.active || !e.valid || !(e.root || e.combine)) = true ↔ ¬ e.combinesFor st := by
  unfold TreeEntry.combinesFor
  cases st.active <;> cases e.valid <;> simp

/-! ## Gradient frames (R196, R199, R215, R265) -/

/-- The types of gradient frames are those that the reduction path takes. -/
theorem Frame.typ_gradient {f : Frame} (h2 : 2 ≤ f.typ) (h4 : f.typ ≤ 4) : ¬ (decide (f.typ < 2) || decide (4 < f.typ)) = true := by
  simp only [Bool.or_eq_true, decide_eq_true_eq]
  omega

section
variable {ch : Fin 8} {i : Fin 5} {f : Frame} {s : State} {g : Nat} (h2 : 2 ≤ f.typ) (h4 : f.typ ≤ 4)
  (hg : (s.chan ch).groveOfJob f.job = some g)
include h2 h4 hg

/-- A gradient frame waits for a paused grove. -/
theorem Acts.gradientFrame_paused (hp : ((s.chan ch).grove g).st = .paused) : Acts (.gradientFrame ch i f) s ch (s.chan ch) := by
  refine Acts.of_chanStep rfl ((if_neg (Frame.typ_gradient h2 h4)).trans ?_)
  simp only [hg]
  exact if_pos hp

/-- A gradient frame of a grove that neither works nor is paused is only taken. -/
theorem Acts.gradientFrame_idle (hp : ((s.chan ch).grove g).st ≠ .paused) (hact : ((s.chan ch).grove g).st.active = false) :
    Acts (.gradientFrame ch i f) s ch ((s.chan ch).takeFrame (fun x => x = f)) := by
  refine Acts.of_chanStep rfl ((if_neg (Frame.typ_gradient h2 h4)).trans ?_)
  simp only [hg]
  exact (if_neg hp).trans (if_pos (by simp [hact]))

variable (hact : ((s.chan ch).grove g).st.active = true)
include hact

theorem Acts.gradientFrame_noShard (hsh : (s.chan ch).shard g f.shard = none) :
    Acts (.gradientFrame ch i f) s ch ((s.chan ch).protoDiscard 5 f) := by
  refine Acts.of_chanStep rfl ((if_neg (Frame.typ_gradient h2 h4)).trans ?_)
  simp only [hg, hsh]
  exact (if_neg (GroveState.ne_paused_of_active hact)).trans (if_neg (by simp [hact]))

/-- A gradient frame of a working grove's shard is discarded or goes to its combiner as its tree entry says. -/
theorem Acts.gradientFrame_shard {sh : Shard} {d : Chan} (hsh : (s.chan ch).shard g f.shard = some sh)
    (hd : (let c := s.chan ch
       let e := c.treeEntry (sh.treeOf (f.flags.getLsbD 4))
       if !e.valid || !(e.root || e.combine) then c.protoDiscard (if e.combine && !e.root then e.parentIf else 5) f
       else if e.root && sh.owner ≠ c.node then c.protoDiscard 5 f
       else c.combFrame i g sh (f.flags.getLsbD 4) f) = d) : Acts (.gradientFrame ch i f) s ch d := by
  refine Acts.of_chanStep rfl ((if_neg (Frame.typ_gradient h2 h4)).trans ?_)
  simp only [hg, hsh]
  exact (if_neg (GroveState.ne_paused_of_active hact)).trans ((if_neg (by simp [hact])).trans hd)

end

/-- Settles O22: each clause is one branch of its command's action on the channel. -/
theorem gradientFramesAreCombined : Obligations.GradientFramesAreCombined := by
  refine ⟨fun ch i f s => ⟨fun htyp => ?_, fun h2 h4 => ⟨fun hg => ?_, fun g hg => ⟨Acts.gradientFrame_paused h2 h4 hg,
      Acts.gradientFrame_idle h2 h4 hg, Acts.gradientFrame_noShard h2 h4 hg,
      fun sh hact hsh => ⟨fun hcomb => ?_, fun hcomb hroot hown => ?_, fun hcomb hown => ?_⟩⟩⟩⟩,
    fun ch g shard src second ue s => ⟨fun hsh => ⟨?_, ?_, ?_⟩,
      fun sh hsh => ⟨fun hno => ?_, fun hcomb hearly => ?_, fun hno => ?_, fun k hcomb hwait => ?_, fun hopen => ?_,
        fun k p hopen hp => ?_⟩⟩⟩
  -- a frame that arrives
  · exact Acts.of_chanStep rfl (if_pos (by simpa using htyp))
  · refine Acts.of_chanStep rfl ((if_neg (Frame.typ_gradient h2 h4)).trans ?_)
    simp only [hg]
  · exact Acts.gradientFrame_shard h2 h4 hg hact hsh (if_pos ((TreeEntry.discards_iff _).2 hcomb))
  · exact Acts.gradientFrame_shard h2 h4 hg hact hsh ((if_neg (mt (TreeEntry.discards_iff _).1 (not_not_intro hcomb))).trans
      (if_pos (Bool.and_eq_true_iff.2 ⟨hroot, decide_eq_true hown⟩)))
  · refine Acts.gradientFrame_shard h2 h4 hg hact hsh ((if_neg (mt (TreeEntry.discards_iff _).1 (not_not_intro hcomb))).trans
      (if_neg fun h => ?_))
    obtain ⟨hroot, hne⟩ := Bool.and_eq_true_iff.1 h
    exact hown.elim (fun hleaf => Bool.false_ne_true (hleaf.symm.trans hroot)) (absurd · (of_decide_eq_true hne))
  -- no such shard
  · exact Acts.of_chanStep rfl (by simp only [hsh])
  · exact Acts.of_chanStep rfl (by simp only [hsh])
  · exact Acts.of_chanStep rfl (by simp only [hsh])
  -- the blocks that the open inputs present
  · refine Acts.of_chanStep rfl ?_
    simp only [hsh]
    refine if_pos (Bool.or_eq_true_iff.2 (hno.imp (TreeEntry.stays_iff _ _).2 fun hearly => ?_))
    exact Bool.and_eq_true_iff.2 hearly
  · refine Acts.of_chanStep rfl ?_
    simp only [hsh]
    refine if_neg fun hskip => ?_
    obtain h | h := Bool.or_eq_true_iff.1 hskip
    · exact (TreeEntry.stays_iff _ _).1 h hcomb
    · exact hearly (Bool.and_eq_true_iff.1 h)
  -- an awaited input that times out
  · refine Acts.of_chanStep rfl ?_
    obtain hcomb | hwait := hno
    · simp only [hsh]
      exact if_pos ((TreeEntry.stays_iff _ _).2 hcomb)
    · simp only [hsh, hwait, ite_self]
  · refine Acts.of_chanStep rfl ?_
    simp only [hsh, hwait]
    exact if_neg (mt (TreeEntry.stays_iff _ _).1 (not_not_intro hcomb))
  -- an expired grace window
  · refine Acts.of_chanStep rfl ?_
    simp only [hsh]
    split
    · rfl
    · next h => cases hopen.symm.trans h
  · refine Acts.of_chanStep rfl ?_
    simp only [hsh]
    split
    · next h => cases hopen.symm.trans h
    · next h =>
      cases hopen.symm.trans h
      simp only [hp]

end Sys2Proof.Machine
end

section
/-! PROOFS. Step reports and faults at the coordinator: where they go, and what a decision's reason says. -/

namespace Sys2Proof.Machine

/-! ## The reason of a decision (R206, R211) -/

theorem bits_one_iff {n k : Nat} : bits n k 1 = 1 ↔ n.testBit k = true := by
  simp [bits, Nat.testBit_eq_decide_div_mod_eq]

/-- A bit of numbers put together by OR is a bit of one of them. -/
theorem testBit_foldl_or {α : Type} (f : α → Nat) (l : List α) (a k : Nat) :
    (l.foldl (fun a o => a ||| f o) a).testBit k = (a.testBit k || l.any (fun o => (f o).testBit k)) := by
  induction l generalizing a with
  | nil => simp
  | cons o t ih => rw [List.foldl_cons, ih, Nat.testBit_or, List.any_cons, Bool.or_assoc]

/-- What an owner gives to the reason: the bits of its report, 256 without one. -/
def Decision.ownerBits (d : Decision) (o : Nat) : Nat := ((d.report o).map (·.bits)).getD 256

theorem Decision.reason_eq (d : Decision) (owners : List Nat) :
    d.reason owners = owners.foldl (fun a o => a ||| d.ownerBits o) 0 ||| (if d.faults = [] then 0 else 512) := by
  have hown : (fun a o => a ||| d.ownerBits o) = (fun (a o : Nat) => a ||| (match d.report o with
      | some r => r.bits
      | none => 256)) := by
    funext a o
    unfold Decision.ownerBits
    cases d.report o <;> rfl
  rw [hown]
  rfl

/-- A reason has a bit that an owner gives it; bit 9 besides where a fault came. -/
theorem Decision.reason_testBit (d : Decision) (owners : List Nat) (k : Nat) :
    (d.reason owners).testBit k = (owners.any (fun o => (d.ownerBits o).testBit k) || (if d.faults = [] then 0 else 512).testBit k) := by
  rw [d.reason_eq, Nat.testBit_or, testBit_foldl_or, Nat.zero_testBit, Bool.false_or]

/-- Reports of every owner without a bit, and no fault, leave no reason. -/
theorem Decision.reason_clean {d : Decision} {owners : List Nat} (hall : owners.all (fun o => (d.report o).isSome) = true)
    (hf : d.faults = []) (hz : ∀ o ∈ owners, ∀ r, d.report o = some r → r.bits = 0) : d.reason owners = 0 := by
  refine Nat.zero_of_testBit_eq_false fun k => ?_
  rw [d.reason_testBit, if_pos hf, Nat.zero_testBit, Bool.or_false, List.any_eq_false]
  intro o ho
  obtain ⟨r, hr⟩ := Option.isSome_iff_exists.1 (List.all_eq_true.1 hall o ho)
  simp [Decision.ownerBits, hr, hz o ho r hr]

/-- An owner without a report gives the reason bit 8. -/
theorem Decision.reason_missing {d : Decision} {owners : List Nat} (h : ∃ o ∈ owners, d.report o = none) :
    (d.reason owners).testBit 8 = true := by
  obtain ⟨o, ho, hr⟩ := h
  rw [d.reason_testBit, List.any_eq_true.2 ⟨o, ho, by rw [Decision.ownerBits, hr]; rfl⟩, Bool.true_or]

/-- A fault gives the reason bit 9. -/
theorem Decision.reason_fault {d : Decision} (owners : List Nat) (h : d.faults ≠ []) : (d.reason owners).testBit 9 = true := by
  rw [d.reason_testBit, if_neg h]
  exact Bool.or_true _

/-! ## The verdict for a reason (R211) -/

/-- A reason with a bit other than the second tree's is no COMMIT: without RETRY it is SKIP. -/
theorem verdictFor_of_bit {n k : Nat} (hk : k ≠ 5) (h : n.testBit k = true) (attempt : Nat) :
    verdictFor n attempt = if bits n 4 1 = 1 && attempt = 0 && bits n 9 1 = 0 then 3 else 2 := by
  have h0 : n ≠ 0 := by
    rintro rfl
    simp at h
  have h32 : n ≠ 32 := by
    rintro rfl
    exact hk (of_decide_eq_true (Nat.testBit_two_pow.symm.trans h)).symm
  unfold verdictFor
  rw [if_neg (c := (decide (n = 0) || decide (n = 32)) = true) (by simp [h0, h32])]

/-- Without a reason the step is committed. -/
theorem verdictFor_zero (attempt : Nat) : verdictFor 0 attempt = 1 := by
  simp [verdictFor, bits]

/-! ## Decisions that are open (R211) -/

theorem GroveVerdict.openFor_new {w : GroveVerdict} {step attempt : Nat}
    (hlog : w.log.any (fun r => r.step = step && r.attempt = attempt) = false)
    (hopen : w.open_.find? (fun d => d.step = step && d.attempt = attempt) = none) :
    w.openFor step attempt = { w with open_ := w.open_ ++ [⟨step, attempt, [], []⟩] } := by
  have hnone : w.open_.any (fun d => d.step = step && d.attempt = attempt) = false := by
    rw [List.any_eq_false]
    exact List.find?_eq_none.1 hopen
  exact if_neg (by rw [hlog, hnone]; decide)

/-- A step and attempt that is not decided is not in the log. -/
theorem Grove.decided_log {v : Grove} {step attempt : Nat} (h : v.decided step attempt = false) :
    v.verdict.log.any (fun r => r.step = step && r.attempt = attempt) = false :=
  (Bool.or_eq_false_iff.1 (Bool.or_eq_false_iff.1 h).1).1

theorem Chan.noteDecision_late {c : Chan} {g step attempt : Nat} (f : Decision → Decision) (h : (c.grove g).decided step attempt = true) :
    c.noteDecision g step attempt f = c.count (F.RED_GRV_CNT_LATE_REPORT.sh (redOff g)) := if_pos h

/-- The first report or fault of a step and attempt opens its decision. -/
theorem Chan.noteDecision_first {c : Chan} {g step attempt : Nat} (f : Decision → Decision) (h : (c.grove g).decided step attempt = false)
    (hopen : (c.grove g).verdict.open_.find? (fun d => d.step = step && d.attempt = attempt) = none) :
    c.noteDecision g step attempt f = (c.onGrove g (fun v => { v with verdict := { v.verdict with
      open_ := (v.verdict.open_ ++ [(⟨step, attempt, [], []⟩ : Decision)]).map (fun d =>
        if d.step = step && d.attempt = attempt then f d else d) } })).tryDecide g step attempt := by
  refine (if_neg (by rw [h]; decide)).trans ?_
  simp only [Chan.onGrove, GroveVerdict.openFor_new (Grove.decided_log h) hopen]

/-! ## Reports and faults (R208-R211, R214, R215) -/

section
variable {ch : Fin 8} {src attempt job step b idx status shard g : Nat} {props : List (Nat × Int)} {last : Bool} {s : State}
  {d : Chan} (hg : (s.chan ch).coordOf job = some g)
include hg

/-- Where the coordinator's grove is neither paused, loaded nor working, a report or fault is only taken. -/
theorem Acts.stepReport_idle (hp : ((s.chan ch).grove g).st ≠ .paused) (hst : ((s.chan ch).grove g).st.coordinates = false) :
    Acts (.stepReport ch src attempt job step b idx props last) s ch
      ((s.chan ch).takeFrame (fun f => f.src = src && f.payload = .ctl (.stepReport attempt job step b idx props last))) := by
  refine Acts.of_chanStep rfl ?_
  simp only [hg]
  exact (if_neg hp).trans (if_pos (by rw [hst]; rfl))

theorem Acts.stepFault_idle (hp : ((s.chan ch).grove g).st ≠ .paused) (hst : ((s.chan ch).grove g).st.coordinates = false) :
    Acts (.stepFault ch src attempt job step status shard) s ch
      ((s.chan ch).takeFrame (fun f => f.src = src && f.payload = .ctl (.stepFault attempt job step status shard))) := by
  refine Acts.of_chanStep rfl ?_
  simp only [hg]
  exact (if_neg hp).trans (if_pos (by rw [hst]; rfl))

variable (hst : ((s.chan ch).grove g).st.coordinates = true)
include hst

/-- A report enters the decision of its step and attempt. -/
theorem Acts.stepReport_noted :
    Acts (.stepReport ch src attempt job step b idx props last) s ch
      (((s.chan ch).takeFrame (fun f => f.src = src && f.payload = .ctl (.stepReport attempt job step b idx props last))).noteDecision
        g step attempt (fun d => d.addReport src b idx props last)) := by
  refine Acts.of_chanStep rfl ?_
  simp only [hg]
  exact (if_neg (GroveState.ne_paused_of_coordinates hst)).trans (if_neg (by rw [hst]; decide))

/-- A fault of no known shard, or under another status, marks no tree. -/
theorem Acts.stepFault_unmarked
    (h : ((s.chan ch).takeFrame (fun f => f.src = src && f.payload = .ctl (.stepFault attempt job step status shard))).shard g shard = none ∨
      status ≠ Status.consistencyFail.code) :
    Acts (.stepFault ch src attempt job step status shard) s ch
      (((s.chan ch).takeFrame (fun f => f.src = src && f.payload = .ctl (.stepFault attempt job step status shard))).noteDecision
        g step attempt (fun d => { d with faults := d.faults ++ [(src, status)] })) := by
  refine Acts.of_chanStep rfl ?_
  simp only [hg]
  refine (if_neg (GroveState.ne_paused_of_coordinates hst)).trans ((if_neg (by rw [hst]; decide)).trans ?_)
  obtain hsh | hcode := h
  · simp only [hsh]
  · simp only [if_neg hcode]
    split <;> rfl

/-- A fault under CONSISTENCY_FAIL of a known shard first logs the shard's trees and marks them suspect (R209, R210). -/
theorem Acts.stepFault_marked {sh : Shard} {took : Chan}
    (htook : (s.chan ch).takeFrame (fun f => f.src = src && f.payload = .ctl (.stepFault attempt job step status shard)) = took)
    (hsh : took.shard g shard = some sh) (hcode : status = Status.consistencyFail.code) :
    Acts (.stepFault ch src attempt job step status shard) s ch
      ((((took.logTrees g sh).sendFrame { Frame.blank 0x07 (took.fld (F.RED_GRV_CFG_VGROUP.sh (redOff g)))
        (.ctl (.suspectMark attempt job step shard sh.tree sh.tree2)) with job := job, flags := 32 }).sendCtl took.fm job
          (.suspectMark attempt job step shard sh.tree sh.tree2)).noteDecision
        g step attempt (fun d => { d with faults := d.faults ++ [(src, status)] })) := by
  subst htook
  refine Acts.of_chanStep rfl ?_
  simp only [hg]
  refine (if_neg (GroveState.ne_paused_of_coordinates hst)).trans ((if_neg (by rw [hst]; decide)).trans ?_)
  simp only [hsh, if_pos hcode]

end

/-- Settles O23: a report or fault has the effect of one branch of its command; a decision's verdict follows from the bits of its reason. -/
theorem reportsAreDecided : Obligations.ReportsAreDecided := by
  refine ⟨fun ch src attempt job step b idx status shard gg props last s => ⟨fun hg => ⟨?_, ?_⟩,
      fun g hg => ⟨fun hp => ⟨?_, ?_⟩, fun hp hst => ⟨Acts.stepReport_idle hg hp hst, Acts.stepFault_idle hg hp hst⟩,
        fun hst => ⟨Acts.stepReport_noted hg hst, Acts.stepFault_unmarked hg hst, fun sh => Acts.stepFault_marked hg hst rfl⟩⟩,
      fun d hd hst hco => ?_, fun hno => ?_⟩,
    fun d owners c g step attempt f => ⟨fun hall hf hz => ?_, fun hmiss => ?_, fun hf => ?_, fun n h4 h9 => ?_,
      Chan.noteDecision_late f, Chan.noteDecision_first f⟩⟩
  -- a job that the channel does not coordinate
  · exact Acts.of_chanStep rfl (by simp only [hg])
  · exact Acts.of_chanStep rfl (by simp only [hg])
  -- a paused grove
  · exact Acts.of_chanStep rfl (by simp only [hg]; exact if_pos hp)
  · exact Acts.of_chanStep rfl (by simp only [hg]; exact if_pos hp)
  -- a verdict timeout
  · exact Acts.of_chanStep rfl (by simp only [hd]; exact if_pos (by simp [hst, hco]))
  · refine Acts.of_chanStep rfl ?_
    dsimp only
    split
    · next hd => exact if_neg (by simpa [hd, imp_iff_not_or] using hno)
    · rfl
  -- the reason and its verdict
  · have hreason := Decision.reason_clean hall hf hz
    exact ⟨hreason, by rw [hreason, verdictFor_zero]⟩
  · have h8 := Decision.reason_missing hmiss
    refine ⟨bits_one_iff.2 h8, ?_⟩
    rw [verdictFor_of_bit (by decide) h8]
    split <;> decide
  · have h9 := Decision.reason_fault owners hf
    refine ⟨bits_one_iff.2 h9, ?_⟩
    rw [verdictFor_of_bit (by decide) h9, bits_one_iff.2 h9]
    simp
  · constructor <;> simp [verdictFor_of_bit (by decide) (bits_one_iff.1 h4), h4, h9]

end Sys2Proof.Machine
end

section
/-! PROOFS. Verdicts at the members, queries at the coordinator, and what a new attempt or step starts with. -/

namespace Sys2Proof.Machine

/-! ## Listed values after writes -/

@[simp] theorem mapFind_mapPut {α : Type} (m : NMap α) (k j : Nat) (v : α) :
    mapFind (mapPut m k v) j = if j = k then some v else mapFind m j := by
  induction m with
  | nil => simp [mapPut, mapFind, eq_comm]
  | cons p t ih =>
    obtain ⟨i, w⟩ := p
    by_cases hlt : k < i
    · simp [mapPut, mapFind, hlt, eq_comm]
    · by_cases hki : k = i
      · subst hki
        by_cases hj : j = k <;> simp [mapPut, mapFind, hj, Ne.symm]
      · by_cases hi : i = j
        · subst hi
          simp [mapPut, mapFind, hlt, hki, Ne.symm hki]
        · simp [mapPut, mapFind, hlt, hki, hi, ih]

/-- After a row of writes, a key that the row gives one value only has that value. -/
theorem mapFind_foldl_mapPut {α : Type} {k : Nat} {v : α} (l : List (Nat × α)) (m : NMap α) (hall : ∀ f ∈ l, f.1 = k → f.2 = v)
    (h : (∃ f ∈ l, f.1 = k) ∨ mapFind m k = some v) : mapFind (l.foldl (fun m e => mapPut m e.1 e.2) m) k = some v := by
  induction l generalizing m with
  | nil => exact h.resolve_left (by simp)
  | cons e t ih =>
    refine ih _ (fun f hf => hall f (List.mem_cons_of_mem _ hf)) ?_
    rw [mapFind_mapPut]
    by_cases he : e.1 = k
    · rw [if_pos he.symm, hall e List.mem_cons_self he]
      exact .inr rfl
    · rw [if_neg (Ne.symm he)]
      refine h.imp_left fun ⟨f, hf, hk⟩ => ⟨f, (List.mem_cons.1 hf).resolve_left fun hfe => he (hfe ▸ hk), hk⟩

/-- The next step's exponents are the verdict's (R206). -/
theorem Grove.nextStep_exponent (v : Grove) {gt : List (Nat × Int)} {e : Nat × Int} (he : e ∈ gt) (hall : ∀ f ∈ gt, f.1 = e.1 → f.2 = e.2) :
    mapFind (v.nextStep gt).verdict.g e.1 = some e.2 := mapFind_foldl_mapPut gt _ hall (.inl ⟨e, he, rfl⟩)

/-! ## Verdicts and queries (R212-R214) -/

/-- A member's own verdict: of the step and attempt that the working training grove is in, with a code of R211. -/
def Grove.awaitsVerdict (v : Grove) (attempt verdict step : Nat) : Prop :=
  v.st.active = true ∧ v.kind = 1 ∧ step = v.step ∧ attempt = v.verdict.attempt ∧ 1 ≤ verdict ∧ verdict ≤ 3

/-- The test that a verdict is only taken. -/
theorem Grove.onlyTakes_iff (v : Grove) (attempt verdict step : Nat) :
    (!v.st.active || v.kind ≠ 1 || step ≠ v.step || attempt ≠ v.verdict.attempt || verdict = 0 || 4 ≤ verdict) = true ↔
      ¬ v.awaitsVerdict attempt verdict step := by
  unfold Grove.awaitsVerdict
  cases v.st.active
  · simp
  · simp only [Bool.not_true, Bool.false_or, Bool.or_eq_true, decide_eq_true_eq, true_and]
    omega

/-- Settles O24: each clause is one branch of its command's action on the channel, or one part of what the next attempt or step starts with. -/
theorem verdictsAreActedOnOnce : Obligations.VerdictsAreActedOnOnce := by
  refine ⟨fun ch job attempt verdict step reason src gt s => ⟨fun hg => ?_, fun g hg => ⟨fun hp => ?_, fun hp hown => ?_, fun hown => ?_⟩,
      fun hg => ?_, fun g hg => ⟨fun hp => ?_, fun hp hno => ?_, fun r hst hr => ?_⟩⟩,
    fun v gt => ⟨rfl, rfl, rfl, rfl, rfl, rfl, rfl, rfl, fun e he hall => v.nextStep_exponent he hall, rfl, rfl, rfl⟩⟩
  -- a verdict at a member
  · exact Acts.of_chanStep rfl (by simp only [hg])
  · exact Acts.of_chanStep rfl (by simp only [hg]; exact if_pos hp)
  · refine Acts.of_chanStep rfl ?_
    simp only [hg]
    exact (if_neg hp).trans (if_pos ((Grove.onlyTakes_iff ..).2 hown))
  · refine Acts.of_chanStep rfl ?_
    simp only [hg]
    exact (if_neg (GroveState.ne_paused_of_active hown.1)).trans (if_neg (mt (Grove.onlyTakes_iff ..).1 (not_not_intro hown)))
  -- a query at the coordinator
  · exact Acts.of_chanStep rfl (by simp only [hg])
  · exact Acts.of_chanStep rfl (by simp only [hg]; exact if_pos hp)
  · refine Acts.of_chanStep rfl ?_
    simp only [hg]
    refine (if_neg hp).trans ?_
    obtain hlog | hst := hno
    · simp only [hlog]
    · simp only [hst]
      split <;> rfl
  · refine Acts.of_chanStep rfl ?_
    simp only [hg, hr]
    exact (if_neg (GroveState.ne_paused_of_coordinates hst)).trans (if_pos hst)

end Sys2Proof.Machine
end

section
/-! PROOFS. What the built-in update kernels make of a panel, element by element. -/

namespace Sys2Proof.Machine

/-! ## Elements of a panel -/

theorem at32_map_range (f : Nat → Nat) {n i : Nat} (h : i < n) : at32 ((List.range n).map f) i = f i := by
  simp [at32, h]

theorem at32_map (f : Nat → Nat) {l : List Nat} {i : Nat} (h : i < l.length) : at32 (l.map f) i = f (at32 l i) := by
  simp [at32, h]

/-- A masked element reads 0, any other as it is. -/
theorem at32_unmasked (skip : List Bool) (l : List Nat) (i : Nat) :
    at32 (unmasked skip l) i = if skip.getD i false then 0 else at32 l i := by
  by_cases h : i < l.length
  · simp [at32, unmasked, h]
  · simp [at32, unmasked, Nat.not_lt.1 h]

theorem unmasked_map_range (skip : List Bool) (f : Nat → Nat) (n : Nat) :
    unmasked skip ((List.range n).map f) = (List.range n).map (fun i => if skip.getD i false then 0 else f i) := by
  refine List.ext_getElem (by simp [unmasked]) fun i h1 h2 => ?_
  simp [unmasked]

theorem bytes32_length (l : List Nat) : (bytes32 l).length = 4 * l.length := by
  simp [bytes32, List.length_flatMap, Nat.mul_comm]

theorem words32_length (b : Bytes) (n : Nat) : (words32 b n).length = n := by simp [words32]

/-! ## The element-wise kernels (R228) -/

theorem KernelConsts.run_sgd {k : KernelConsts} (hk : k.kind = 0) (skip : List Bool) (g : List Nat) (s : PanelState) {i : Nat} (hi : i < 1024) :
    at32 (k.run skip g s).master i = (k.sgd (at32 g i) (at32 s.master i) (at32 s.m1 i)).1 ∧
    at32 (k.run skip g s).m1 i = (k.sgd (at32 g i) (at32 s.master i) (at32 s.m1 i)).2 := by
  rw [KernelConsts.run, if_pos hk]
  simp only [List.map_map]
  exact ⟨at32_map_range _ hi, at32_map_range _ hi⟩

theorem KernelConsts.run_adam {k : KernelConsts} (hk : k.kind = 1) (skip : List Bool) (g : List Nat) (s : PanelState) {i : Nat} (hi : i < 1024) :
    at32 (k.run skip g s).master i = (k.adam (at32 g i) (at32 s.master i) (at32 s.m1 i) (at32 s.m2 i)).1 ∧
    at32 (k.run skip g s).m1 i = (k.adam (at32 g i) (at32 s.master i) (at32 s.m1 i) (at32 s.m2 i)).2.1 ∧
    at32 (k.run skip g s).m2 i = (k.adam (at32 g i) (at32 s.master i) (at32 s.m1 i) (at32 s.m2 i)).2.2 := by
  rw [KernelConsts.run, if_neg (by rw [hk]; decide), if_pos hk]
  simp only [List.map_map]
  exact ⟨at32_map_range _ hi, at32_map_range _ hi, at32_map_range _ hi⟩

/-! ## The factored kernel (R228) -/

/-- The square of a gradient element that the factors sum: 0 where it is masked. -/
def KernelConsts.square (k : KernelConsts) (skip : List Bool) (g : List Nat) (n : Nat) : Nat :=
  if skip.getD n false then 0 else fma32 (at32 g n) (at32 g n) k.eps

/-- A factor moved towards the mean of a set of squares. -/
def KernelConsts.factor (k : KernelConsts) (old : Nat) (set : List Nat) : Nat := fma32 old k.b2 (mul32 (mul32 (sum32 5 set) twoTo5) k.c2)

/-- The new factor of row `i`, and that of column `j`, from the old ones `f`. -/
def KernelConsts.rowFactor (k : KernelConsts) (skip : List Bool) (g f : List Nat) (i : Nat) : Nat :=
  k.factor (at32 f i) ((List.range 32).map (fun j => k.square skip g (32 * i + j)))
def KernelConsts.colFactor (k : KernelConsts) (skip : List Bool) (g f : List Nat) (j : Nat) : Nat :=
  k.factor (at32 f (32 + j)) ((List.range 32).map (fun i => k.square skip g (32 * i + j)))

theorem KernelConsts.at32_squares (k : KernelConsts) (skip : List Bool) {g : List Nat} {n : Nat} (h : n < g.length) :
    at32 (unmasked skip (g.map (fun x => fma32 x x k.eps))) n = k.square skip g n := by
  rw [at32_unmasked, at32_map _ h, KernelConsts.square]

/-- The factors are those of the 32 rows and of the 32 columns. -/
theorem KernelConsts.factors_eq (k : KernelConsts) (skip : List Bool) {g : List Nat} (hg : g.length = 1024) (f : List Nat) :
    k.factors skip g f = (List.range 32).map (k.rowFactor skip g f) ++ (List.range 32).map (k.colFactor skip g f) := by
  unfold KernelConsts.factors
  refine congrArg₂ (· ++ ·) (List.map_congr_left fun i hi => ?_) (List.map_congr_left fun j hj => ?_)
  · have hi := List.mem_range.1 hi
    refine congrArg (k.factor (at32 f i)) (List.map_congr_left fun j hj => k.at32_squares skip ?_)
    have hj := List.mem_range.1 hj
    omega
  · have hj := List.mem_range.1 hj
    refine congrArg (k.factor (at32 f (32 + j))) (List.map_congr_left fun i hi => k.at32_squares skip ?_)
    have hi := List.mem_range.1 hi
    omega

section
variable (k : KernelConsts) (skip : List Bool) {g : List Nat} (hg : g.length = 1024) (f : List Nat)
include hg

theorem KernelConsts.factors_row {i : Nat} (hi : i < 32) : at32 (k.factors skip g f) i = k.rowFactor skip g f i := by
  rw [k.factors_eq skip hg]
  simp [at32, List.getElem?_append, hi]

theorem KernelConsts.factors_col {j : Nat} (hj : j < 32) : at32 (k.factors skip g f) (32 + j) = k.colFactor skip g f j := by
  rw [k.factors_eq skip hg]
  simp [at32, List.getElem?_append, hj]

theorem KernelConsts.factors_rows : (k.factors skip g f).take 32 = (List.range 32).map (k.rowFactor skip g f) := by
  rw [k.factors_eq skip hg]
  exact List.take_left' (by simp)

end

/-- A gradient element over the root of its factors. -/
def KernelConsts.scaled (k : KernelConsts) (skip : List Bool) (g f : List Nat) (n : Nat) : Nat :=
  div32 (at32 g n) (sqrt32 (div32 (mul32 (k.rowFactor skip g f (n / 32)) (k.colFactor skip g f (n % 32)))
    (mul32 (sum32 5 ((List.range 32).map (k.rowFactor skip g f))) twoTo5)))

/-- What the root mean square is taken of: 0 where the element is masked. -/
def KernelConsts.scaledSq (k : KernelConsts) (skip : List Bool) (g f : List Nat) (n : Nat) : Nat :=
  if skip.getD n false then 0 else mul32 (k.scaled skip g f n) (k.scaled skip g f n)

/-- The clip: the root mean square over its limit, at least 1. -/
def KernelConsts.clipBy (k : KernelConsts) (skip : List Bool) (g f : List Nat) : Nat :=
  max32 one32 (div32 (sqrt32 (mul32 (sum32 10 ((List.range 1024).map (k.scaledSq skip g f))) twoTo10)) k.clip)

/-- The new moment of an element where the variant keeps one. -/
def KernelConsts.clippedMoment (k : KernelConsts) (skip : List Bool) (g : List Nat) (s : PanelState) (n : Nat) : Nat :=
  fma32 (at32 s.m1 n) k.b1 (mul32 (div32 (k.scaled skip g s.m2 n) (k.clipBy skip g s.m2)) k.c1)

/-- What the master moves against. -/
def KernelConsts.clipped (k : KernelConsts) (skip : List Bool) (g : List Nat) (s : PanelState) (n : Nat) : Nat :=
  if k.variant then k.clippedMoment skip g s n else div32 (k.scaled skip g s.m2 n) (k.clipBy skip g s.m2)

/-- `adafactor` in its parts. -/
theorem KernelConsts.adafactor_eq (k : KernelConsts) (skip : List Bool) {g : List Nat} (hg : g.length = 1024) (s : PanelState) :
    k.adafactor skip g s = ⟨(List.range 1024).map (fun n => k.stepW (at32 s.master n) (fma32 (at32 s.master n) k.wd (k.clipped skip g s n))),
      if k.variant then (List.range 1024).map (k.clippedMoment skip g s) else s.m1, k.factors skip g s.m2⟩ := by
  have hu : (List.range 1024).map (fun n => div32 (at32 g n) (sqrt32 (div32 (mul32 (at32 (k.factors skip g s.m2) (n / 32))
      (at32 (k.factors skip g s.m2) (32 + n % 32))) (mul32 (sum32 5 ((k.factors skip g s.m2).take 32)) twoTo5)))) =
      (List.range 1024).map (k.scaled skip g s.m2) := by
    refine List.map_congr_left fun n hn => ?_
    have hn := List.mem_range.1 hn
    rw [k.factors_row skip hg _ (by omega), k.factors_col skip hg _ (Nat.mod_lt _ (by decide)), k.factors_rows skip hg]
    rfl
  have hsq : unmasked skip (((List.range 1024).map (k.scaled skip g s.m2)).map (fun x => mul32 x x)) =
      (List.range 1024).map (k.scaledSq skip g s.m2) := by
    rw [List.map_map, unmasked_map_range]
    rfl
  unfold KernelConsts.adafactor
  dsimp only
  rw [hu, hsq, List.map_map]
  refine (PanelState.mk.injEq ..).mpr ⟨List.map_congr_left fun n hn => ?_, if_congr Iff.rfl (List.map_congr_left fun n hn => ?_) rfl, rfl⟩
  · have hn := List.mem_range.1 hn
    unfold KernelConsts.clipped
    cases k.variant
    · simp only [Bool.false_eq_true, if_false]
      rw [at32_map_range _ hn]
      rfl
    · simp only [if_true]
      rw [at32_map_range _ hn, at32_map_range _ hn]
      rfl
  · rw [at32_map_range _ (List.mem_range.1 hn)]
    rfl

section
variable {k : KernelConsts} (hk : k.kind = 2) (skip : List Bool) {g : List Nat} (hg : g.length = 1024) (s : PanelState)
include hk hg

theorem KernelConsts.run_factors {i : Nat} (hi : i < 32) :
    at32 (k.run skip g s).m2 i = k.rowFactor skip g s.m2 i ∧ at32 (k.run skip g s).m2 (32 + i) = k.colFactor skip g s.m2 i := by
  rw [KernelConsts.run, if_neg (by rw [hk]; decide), if_neg (by rw [hk]; decide), k.adafactor_eq skip hg]
  exact ⟨k.factors_row skip hg _ hi, k.factors_col skip hg _ hi⟩

theorem KernelConsts.run_adafactor {n : Nat} (hn : n < 1024) :
    at32 (k.run skip g s).m1 n = (if k.variant then k.clippedMoment skip g s n else at32 s.m1 n) ∧
    at32 (k.run skip g s).master n = k.stepW (at32 s.master n) (fma32 (at32 s.master n) k.wd (k.clipped skip g s n)) := by
  rw [KernelConsts.run, if_neg (by rw [hk]; decide), if_neg (by rw [hk]; decide), k.adafactor_eq skip hg]
  dsimp only
  rw [at32_map_range _ hn]
  refine ⟨?_, rfl⟩
  split
  · exact at32_map_range _ hn
  · rfl

end

/-! ## The lines written (R223) -/

/-- A kernel that reads full panels writes a full master and a full moment. -/
theorem KernelConsts.run_length (k : KernelConsts) (skip : List Bool) {g : List Nat} (hg : g.length = 1024) {s : PanelState} (hm : s.m1.length = 1024) :
    (k.run skip g s).master.length = 1024 ∧ (k.run skip g s).m1.length = 1024 := by
  unfold KernelConsts.run
  split
  · simp
  split
  · simp
  · rw [k.adafactor_eq skip hg]
    refine ⟨by simp, ?_⟩
    dsimp only
    split
    · simp
    · exact hm

theorem slice_zero {b : Bytes} {n : Nat} (h : n ≤ b.length) : slice b 0 n = b.take n := by
  simp [slice, zeros, h]

/-- The 193 lines written begin with the header line read. -/
theorem builtinKernel_lines {b : Bytes} (hb : 64 ≤ b.length) :
    (builtinKernel b).length = 193 * 64 ∧ (builtinKernel b).take 64 = b.take 64 := by
  unfold builtinKernel
  dsimp only
  refine ⟨?_, ?_⟩
  · simp only [List.length_append, slice_length, bytes32_length]
    rw [(KernelConsts.run_length _ _ (words32_length _ _) (words32_length _ _)).1,
      (KernelConsts.run_length _ _ (words32_length _ _) (words32_length _ _)).2]
  · rw [List.append_assoc, List.append_assoc, List.take_left' (slice_length _ _ _), slice_zero hb]

end Sys2Proof.Machine
end

section
/-! PROOFS. Waits for a verdict, suspect marks, updates that begin, chunks that are stored, and write-back timeouts. -/

namespace Sys2Proof.Machine

/-! ## Updates and write-back (R222, R230, R345) -/

section
variable {ch : Fin 8} {g : Fin 16} {chunk : Nat} {s : State}

/-- No update begins where one runs or none is queued, or the grove does not work, replays or holds for a capture. -/
theorem Acts.updateStart_waits (h : ((s.chan ch).grove g).update.step ≠ none ∨ ((s.chan ch).grove g).update.queued = [] ∨
    ((s.chan ch).grove g).st.active = false ∨ ((s.chan ch).grove g).replay = true ∨ ((s.chan ch).grove g).holding = true) :
    Acts (.updateStart ch g) s ch (s.chan ch) := by
  refine Acts.of_chanStep rfl ?_
  dsimp only
  split
  · next hstep hqueue => exact if_pos (by simpa [hstep, hqueue, or_assoc] using h)
  · rfl

/-- A timeout of a chunk that no running update holds, or that the manifest does not name, does nothing; nor does one of a faulted
grove. -/
theorem Acts.writebackTimeout_idle (h : ((s.chan ch).grove g).update.step = none ∨
    ((s.chan ch).grove g).update.chunks.find? (fun k => k.chunk = chunk) = none ∨
    (((s.chan ch).grove g).wslot ((s.chan ch).grove g).slotNow).chunk chunk = none ∨ ((s.chan ch).grove g).st = .faulted) :
    Acts (.writebackTimeout ch g chunk) s ch (s.chan ch) := by
  refine Acts.of_chanStep rfl ?_
  dsimp only
  split
  · next hstep hkept hentry => exact if_pos (by simpa [hstep, hkept, hentry] using Or.inr h)
  · rfl

end

/-- Settles O25: each clause is one branch of its command's action on the channel, or one element of a kernel's panel. -/
theorem verdictWaitsAndUpdates : Obligations.VerdictWaitsAndUpdates := by
  refine ⟨fun ch g attempt job step shard tree tree2 s => ⟨fun hno => ?_, fun hact hwait => ⟨fun h0 => ?_, fun h0 h4 => ?_, fun h4 => ?_⟩, ?_⟩,
    fun ch g job chunk step count s => ⟨Acts.updateStart_waits, fun n rest hstep hqueue hact hreplay hhold => ?_,
      ⟨fun hg => ?_, fun h hg => ⟨fun hno => ?_, fun k hk hstep hst => ⟨fun hrd => ?_, fun rd hrd => ?_⟩⟩⟩,
      Acts.writebackTimeout_idle, fun n k m hstep hk hm hst => ⟨fun ht => ?_, fun ht h0 => ?_, fun ht h0 => ?_⟩⟩,
    fun k skip g s hg => ⟨fun hk i hi => ?_, fun hk i hi => ?_, fun hk => ⟨fun i hi => KernelConsts.run_factors hk skip hg s hi, fun n hn => ?_⟩⟩,
    fun b hb hk => builtinKernel_lines (by omega)⟩
  -- a wait that expires
  · exact Acts.of_chanStep rfl (if_pos (by obtain h | h := hno <;> simp [h]))
  · refine Acts.of_chanStep rfl ((if_neg (by simp [hact, hwait])).trans ?_)
    simp [h0]
  · refine Acts.of_chanStep rfl ((if_neg (by simp [hact, hwait])).trans ?_)
    simp [h0, h4]
  · refine Acts.of_chanStep rfl ((if_neg (by simp [hact, hwait])).trans ?_)
    simp [Nat.not_lt.2 h4, lt_of_lt_of_le (by decide : 0 < 4) h4]
  -- a suspect mark
  · exact Acts.of_chanStep rfl rfl
  -- an update that begins
  · refine Acts.of_chanStep rfl ?_
    simp only [hstep, hqueue]
    exact if_neg (by simp [hact, hreplay, hhold])
  -- a stored chunk
  · exact Acts.of_chanStep rfl (by simp only [hg])
  · refine Acts.of_chanStep rfl ?_
    simp only [hg]
    split
    · rfl
    · next hk => exact if_pos (by simpa [hk] using hno)
  · refine Acts.of_chanStep rfl ?_
    simp only [hg, hk, hrd]
    exact if_neg (by simp [hstep, hst])
  · refine Acts.of_chanStep rfl ?_
    simp only [hg, hk, hrd]
    exact if_neg (by simp [hstep, hst])
  -- a write-back that times out
  · exact Acts.of_chanStep rfl (by simp only [hstep, hk, hm]; exact if_pos (by simp [ht]))
  · exact Acts.of_chanStep rfl (by simp only [hstep, hk, hm]; exact (if_neg (by simp [ht, hst])).trans (if_pos h0))
  · exact Acts.of_chanStep rfl (by simp only [hstep, hk, hm]; exact (if_neg (by simp [ht, hst])).trans (if_neg h0))
  -- the element-wise kernels
  · exact (KernelConsts.run_sgd hk skip g s hi).symm
  · obtain ⟨hmaster, hm1, hm2⟩ := KernelConsts.run_adam hk skip g s hi
    exact ⟨hm1, hm2, hmaster⟩
  -- the factored kernel
  · exact KernelConsts.run_adafactor hk skip hg s hn

end Sys2Proof.Machine
end

section
/-! PROOFS. HBM and tile memory commands: what reading and writing lines keep of the channel, and what sound lines read. -/

namespace Sys2Proof.Machine

/-! ## What reads and writes of lines keep of the channel -/

/-- `d` is still the channel that `c` was: its number, and whether its controller link is lost, have stayed. -/
structure Chan.SamePlace (c d : Chan) : Prop where
  idx      : d.idx = c.idx
  linkLost : d.linkLost = c.linkLost

namespace Chan.SamePlace

theorem refl (c : Chan) : c.SamePlace c := ⟨rfl, rfl⟩

theorem trans {a b c : Chan} (h : a.SamePlace b) (k : b.SamePlace c) : a.SamePlace c :=
  ⟨k.idx.trans h.idx, k.linkLost.trans h.linkLost⟩

/-- A row of operations that each keep the channel's place keeps it. -/
theorem foldl {α : Type} {f : Chan → α → Chan} (h : ∀ (c : Chan) a, c.SamePlace (f c a)) (l : List α) (c : Chan) : c.SamePlace (l.foldl f c) :=
  ⟨Chan.foldl_keeps Chan.idx (fun c a => (h c a).idx) l c, Chan.foldl_keeps Chan.linkLost (fun c a => (h c a).linkLost) l c⟩

theorem setFld (c : Chan) (f : Fld) (v : Nat) : c.SamePlace (c.setFld f v) := ⟨c.setFld_idx f v, c.setFld_linkLost f v⟩

theorem count (c : Chan) (f : Fld) : c.SamePlace (c.count f) := ⟨c.count_idx f, c.count_linkLost f⟩

theorem setTile (c : Chan) (i : Nat) (t : Tile) : c.SamePlace (c.setTile i t) := ⟨rfl, rfl⟩

theorem draws (c : Chan) (n : Nat) : c.SamePlace { c with free := n } := ⟨rfl, rfl⟩

theorem hbm (c : Chan) (m : List Host.Cell) : c.SamePlace { c with hbm := m } := ⟨rfl, rfl⟩

theorem event (c : Chan) (st : Status) (src code : Nat) (g : Option Nat) (arg : BitVec 64) : c.SamePlace (c.event st src code g arg) :=
  ⟨rfl, rfl⟩

end Chan.SamePlace

theorem Chan.hbmUe_samePlace (c : Chan) (line : Nat) : c.SamePlace (c.hbmUe line) := by
  have hlisted : c.SamePlace (if c.poison.contains line then c
      else if c.poison.length < 255 then { c with poison := c.poison ++ [line] } else c.setFld F.HBM_STATUS_POISON_FULL 1) := by
    split
    · exact .refl c
    split
    · exact ⟨rfl, rfl⟩
    · exact .setFld c _ _
  exact (((((hlisted.trans (.setFld _ _ _)).trans (.setFld _ _ _)).trans (.count _ _)).trans (.setFld _ _ _)).trans (.setFld _ _ _)).trans
    (.event _ _ _ _ _ _)

theorem Chan.hbmCe_samePlace (c : Chan) (line : Nat) : c.SamePlace (c.hbmCe line) := by
  unfold Chan.hbmCe
  refine .trans (.trans ?_ (.setFld _ _ _)) (.count _ _)
  exact ⟨rfl, rfl⟩

theorem Chan.readLine_samePlace (c : Chan) (line : Nat) (errs : NMap LineErr) : c.SamePlace (c.readLine line errs).2 := by
  unfold Chan.readLine
  split
  · exact c.hbmUe_samePlace line
  split
  · exact .refl c
  · exact c.hbmCe_samePlace line
  · exact c.hbmUe_samePlace line
  · exact .draws c _
  · exact (Chan.SamePlace.draws c _).trans (Chan.hbmUe_samePlace _ line)

theorem Chan.readLines_samePlace {c e : Chan} {line n : Nat} {errs : NMap LineErr} {r : Option Bytes}
    (h : c.readLines line errs n = (r, e)) : c.SamePlace e := by
  induction n generalizing r e with
  | zero =>
    cases h
    exact .refl c
  | succ n ih =>
    rw [Chan.readLines] at h
    split at h
    · next hn =>
      cases h
      exact ih hn
    · next b c1 hn =>
      have hline := c1.readLine_samePlace (line + n) errs
      split at h <;> next hl => cases h; rw [hl] at hline; exact (ih hn).trans hline

theorem Chan.sramLine_samePlace (c : Chan) (i line : Nat) (e : LineErr) : c.SamePlace (c.sramLine i line e).2 := by
  have hbad (k : Chan) (t : Tile) (f : Fld) : k.SamePlace ((k.setTile i t).setFld f 1) := (Chan.SamePlace.setTile k i t).trans (.setFld _ _ _)
  unfold Chan.sramLine
  dsimp only
  split
  · exact hbad c _ _
  split
  · exact .refl c
  · exact (hbad c _ _).trans (.count _ _)
  · exact hbad c _ _
  · exact .draws c _
  · exact (Chan.SamePlace.draws c _).trans (hbad _ _ _)

theorem Chan.sramLines_samePlace {c e : Chan} {i line n : Nat} {errs : NMap LineErr} {r : Option Bytes}
    (h : c.sramLines i line errs n = (r, e)) : c.SamePlace e := by
  induction n generalizing r e with
  | zero =>
    cases h
    exact .refl c
  | succ n ih =>
    rw [Chan.sramLines] at h
    split at h
    · next hn =>
      cases h
      exact ih hn
    · next b c1 hn =>
      have hline := c1.sramLine_samePlace i (line + n) (mapGet (fun _ => 0) errs (line + n))
      split at h <;> next hl => cases h; rw [hl] at hline; exact (ih hn).trans hline

theorem Chan.markHbm_samePlace (c : Chan) (line : Nat) : c.SamePlace (c.markHbm line) := by
  unfold Chan.markHbm
  split
  · split
    · exact .hbm c _
    · exact .refl c
  · exact .refl c

theorem Chan.hbmWriteLine_samePlace (c : Chan) (line : Nat) (b : Bytes) : c.SamePlace (c.hbmWriteLine line b) := by
  unfold Chan.hbmWriteLine
  dsimp only
  refine .trans (.trans ?_ (.setFld _ _ _)) (Chan.markHbm_samePlace _ _)
  exact ⟨rfl, rfl⟩

theorem Chan.hbmWrite_samePlace (c : Chan) (line : Nat) (b : Bytes) : c.SamePlace (c.hbmWrite line b) :=
  .foldl (fun c _ => c.hbmWriteLine_samePlace _ _) _ c

theorem Chan.markSram_samePlace (c : Chan) (i a : Nat) : c.SamePlace (c.markSram i a) := by
  unfold Chan.markSram
  split
  · exact .hbm c _
  · exact .refl c

theorem Chan.sramWrite_samePlace (c : Chan) (i a : Nat) (b : Bytes) : c.SamePlace (c.sramWrite i a b) := by
  unfold Chan.sramWrite
  dsimp only
  split
  · exact .setTile c i _
  · exact (Chan.SamePlace.setTile c i _).trans (.foldl (fun c k => c.markSram_samePlace i (k * 4096)) _ _)

/-! ## Sound lines -/

/-- Reading unlisted HBM lines without errors gives what they hold, and changes nothing. -/
theorem Chan.readLines_clean {c : Chan} (line n : Nat) (h : c.poison = []) :
    c.readLines line [] n = (some ((List.range n).flatMap (fun k => c.hbmLine (line + k))), c) := by
  have hline (l : Nat) : c.readLine l [] = (some (c.hbmLine l), c) := by
    unfold Chan.readLine
    rw [show mapGet (fun _ => (0 : LineErr)) [] l = 0 from rfl, decodeLine_zero, h]
    rfl
  induction n with
  | zero => rfl
  | succ n ih =>
    simp only [Chan.readLines, ih, hline, List.range_succ, List.flatMap_append, List.flatMap_cons, List.flatMap_nil, List.append_nil]

/-- Reading sound tile lines without errors gives what they hold, and changes nothing. -/
theorem Chan.sramLines_clean {c : Chan} {i : Nat} (line n : Nat) (h : (c.tile i).poison = []) :
    c.sramLines i line [] n = (some (cellRead (c.tile i).sram (line * 64) (64 * n)), c) := by
  induction n with
  | zero => rfl
  | succ n ih =>
    have he : mapGet (fun _ => (0 : LineErr)) [] (line + n) = 0 := rfl
    have ha : (line + n) * 64 = line * 64 + 64 * n := by omega
    rw [Nat.mul_succ 64, cellRead_append, ← ha]
    simp only [Chan.sramLines, ih, he, Chan.sramLine_clean c i _ h]

/-! ## Ready commands -/

section
variable {s : State} {q : Issue} {op : Nat} {fs : List (Nat × Nat × Nat)} {conf : Chan → Datagram → Bool}
  {bad : Datagram → List (Bool × Nat)} {d : Datagram} (h : ReadyC s q op fs conf bad d)
include h

/-- A ready command carries the row's operands. -/
theorem ReadyC.operand {off n v : Nat} (hm : (off, n, v) ∈ fs) : pAt d off n = v := by
  have hhead := h.head
  unfold Chan.headFor at hhead
  split at hhead
  · split at hhead
    · next hfor =>
      cases hhead
      simp only [isFor, Bool.and_eq_true, List.all_eq_true] at hfor
      exact of_decide_eq_true (hfor.2 _ hm)
    · cases hhead
  · cases hhead

/-- No parameter of a ready command is out of range. -/
theorem ReadyC.inRange {b : Bool} {k : Nat} (hm : (b, k) ∈ bad d) : b = false := by
  have hpass := h.passes
  unfold Chan.refused at hpass
  split at hpass
  · cases hpass
  split at hpass
  · cases hpass
  split at hpass
  · cases hpass
  · exact badOffset_none (Option.map_eq_none_iff.1 hpass) hm

end

/-- The address of a ready tile memory command is that of a line (R296, R299). -/
theorem ReadyC.tileAligned {s : State} {q : Issue} {op x y addr n : Nat} {fs : List (Nat × Nat × Nat)} {conf : Chan → Datagram → Bool}
    {d : Datagram} (h : ReadyC s q op ((0, 1, x) :: (1, 1, y) :: (4, 4, addr) :: (8, 2, n) :: fs) conf badTile d) : addr / 64 * 64 = addr := by
  have hin : decide (pAt d 4 4 % 64 ≠ 0 ∨ sramBytes < pAt d 4 4 + 64 * pAt d 8 2) = false := h.inRange (k := 4) (by simp [badTile])
  have haddr : pAt d 4 4 = addr := h.operand (by simp)
  rw [haddr, decide_eq_false_iff_not, not_or] at hin
  omega

/-- Settles O45: a ready command's effect is the branch that its role, its extent and what its lines read select, and ends in its reply. -/
theorem memoryCommandsReadAndWriteLines : Obligations.MemoryCommandsReadAndWriteLines := by
  refine fun q x y line addr n data errs d s => ⟨fun h => ⟨fun hno => ?_, fun hmay => ?_⟩,
    fun h => ⟨fun hno => ?_, fun hmay hown => ?_⟩, fun h => ?_, fun h => ?_⟩
  -- `MEM_READ`
  · exact Executes.of h rfl (if_pos (by simpa using hno)) rfl rfl rfl
  · have hread {r : Option Bytes} {e : Chan} (hl : ((s.chan q.channel).begun d).readLines line errs n = (r, e)) :
        Executes (.memRead q line n errs) s d e (r.elim .hwFault (fun _ => .ok)) (r.getD []) := by
      have hplace := Chan.readLines_samePlace hl
      refine Executes.of (g := none) (detail := []) h rfl ((if_neg (by simpa [imp_iff_not_or] using hmay)).trans ?_)
        hplace.idx hplace.linkLost rfl
      simp only [hl]
      cases r <;> rfl
    exact ⟨fun b e hl => hread hl, fun e hl => hread hl, fun he hp => hread (he ▸ Chan.readLines_clean line n hp)⟩
  -- `MEM_WRITE`
  · exact Executes.of h rfl (if_pos (by simpa using hno)) rfl rfl rfl
  · have hplace := ((s.chan q.channel).begun d).hbmWrite_samePlace line (slice data 0 (64 * n))
    refine Executes.of h rfl (if_neg ?_) hplace.idx hplace.linkLost rfl
    simpa [imp_iff_not_or] using And.intro hmay hown
  -- `TILE_READ`
  · have hread {r : Option Bytes} {e : Chan} (hl : ((s.chan q.channel).begun d).sramLines (y * 48 + x) (addr / 64) errs n = (r, e)) :
        Executes (.tileRead q x y addr n errs) s d e (r.elim .hwFault (fun _ => .ok)) (r.getD []) := by
      have hplace := Chan.sramLines_samePlace hl
      refine Executes.of (g := none) (detail := []) h rfl ?_ hplace.idx hplace.linkLost rfl
      simp only [hl]
      cases r <;> rfl
    refine ⟨fun b e hl => hread hl, fun e hl => hread hl, fun he hp => ?_⟩
    have hclean := Chan.sramLines_clean (addr / 64) n hp
    rw [h.tileAligned] at hclean
    exact hread (he ▸ hclean)
  -- `TILE_WRITE`
  · have hplace := ((s.chan q.channel).begun d).sramWrite_samePlace (y * 48 + x) addr (slice data 0 (64 * n))
    exact Executes.of h rfl rfl hplace.idx hplace.linkLost rfl

end Sys2Proof.Machine
end

section
/-! PROOFS. File-store and user-program commands: what is accepted, and how it ends. -/

namespace Sys2Proof.Machine

/-! ## Effects beyond the body -/

/-- What a command makes of its channel can be named by any channel with the same body. -/
theorem ActsOn.congr_body {s t : State} {c : Nat} {d k : Chan} (h : ActsOn s t c d) (hk : d.body = k.body) : ActsOn s t c k :=
  ⟨h.here.trans hk, fun j h8 hj => (h.there j h8 hj).trans (Chan.facing_congr _ _ _ rfl hk), h.port, h.cell, h.pending, h.out⟩

/-- What the completion of a waiting command hands over is sent, while the channel's controller link is up. -/
theorem exec_completeStep_sends {i : Instr} {s : State} {q : Issue} {op : Nat} {f : Datagram → Chan → Chan} {d : Datagram} {k : Chan}
    {e : Emit} {o : Out} (h : exec i s = completeStep s q op f) (h8 : q.channel < 8) (hd : (s.chan q.channel).acceptedCmd q op = some d)
    (hk : f d (s.chan q.channel) = k) (hlink : k.linkLost = false) (he : e ∈ k.outbox)
    (ho : ∀ s' : State, s'.pd = s.pd → o ∈ (s'.deliver q.channel e).out) : ∃ u, exec i s = .next u ∧ o ∈ u.out := by
  refine ⟨_, h.trans (congrArg Host.Outcome.next (if_neg (Nat.not_le.2 h8))), s.onChan_sent q.channel _ e o ?_ ?_ ho⟩ <;>
    simpa only [hd, hk]

/-! ## Stores that end (R280, R299) -/

/-- The channel once it has handed `e` over. -/
def Chan.handsOver (c : Chan) (e : Emit) : Chan := { c with outbox := c.outbox ++ [e] }

/-- What is handed over leaves with the completion that follows it. -/
theorem Chan.mem_complete_handsOver (c : Chan) (e : Emit) (d : Datagram) (st : Status) (g : Option Nat) (data : Bytes) :
    e ∈ ((c.handsOver e).complete d st g data).outbox :=
  List.mem_append_left _ (List.mem_append_right _ (List.mem_singleton.2 rfl))

section
variable {q : Issue} {d : Datagram} {s : State} {errs : NMap LineErr} {b : Bytes} {e : Chan} (h8 : q.channel < 8)
  (hd : (s.chan q.channel).acceptedCmd q 0x36 = some d)
  (hl : (s.chan q.channel).readLines (pAt d 20 4) errs (64 * pAt d 16 4) = (some b, e))
include h8 hd hl

/-- A store that the target has taken completes with the number of bytes it read. -/
theorem Acts.dmaStoreComplete_taken :
    Acts (.dmaStoreComplete q ⟨true, errs⟩) s q.channel (e.complete d .ok none (leBytes 8 (pAt d 16 4 * 4096))) := by
  obtain ⟨u, hu, hon⟩ := Acts.completeStep_some (i := .dmaStoreComplete q ⟨true, errs⟩) rfl h8 hd (by simp only [hl]; rfl)
  exact ⟨u, hu, hon.congr_body rfl⟩

/-- The blocks it read are handed to the target, while the controller link is up. -/
theorem exec_dmaStoreComplete_sends (hup : (s.chan q.channel).linkLost = false) : ∃ u, exec (.dmaStoreComplete q ⟨true, errs⟩) s = .next u ∧
    .blocks q.channel (pAt d 0 1) (pAt d 4 4) (pAt d 8 8) b ∈ u.out := by
  refine exec_completeStep_sends (k := (e.handsOver (.blocks (pAt d 0 1) (pAt d 4 4) (pAt d 8 8) b)).complete d .ok none _)
    rfl h8 hd (by simp only [hl]; rfl) ?_ (e.mem_complete_handsOver ..) (fun s' _ => ?_)
  · exact (Chan.readLines_samePlace hl).linkLost.trans hup
  · exact List.mem_append_right _ (List.mem_singleton.2 rfl)

end

/-- Settles O46: a ready command has the effect and the reply of its row; a completion of a waiting command is one branch of its row's
effect. -/
theorem fileStoreAndProgramsRun : Obligations.FileStoreAndProgramsRun := by
  refine fun q idx port nsid lba blocks line grove core len pid addr nqn data ok errs d s => ⟨fun h => ?_, fun h => ?_, fun h => ?_,
    fun h => ?_, fun h => ?_, fun h8 => ⟨?_, ?_, ?_⟩, fun h8 => ⟨fun hn => ?_, fun hn => ?_, fun hn => ?_⟩,
    fun h8 hd => ⟨fun b hb => ⟨fun huse => ?_, fun hfree => ?_⟩, fun hnone => ?_⟩,
    fun h8 hd => ⟨fun hbad => ?_, fun e hok hl => ?_, fun b e hok hl => ?_⟩,
    fun h8 hd => ⟨fun hid => ?_, fun hid => ⟨fun hgone => ?_, fun hst => ⟨fun hfull => ?_, fun hroom => ?_⟩⟩⟩⟩
  -- `NVME_TARGET_SET`, `DMA_FETCH` and `DMA_STORE`
  · exact Executes.of h rfl rfl rfl rfl rfl
  · exact Executes.of h rfl rfl rfl rfl rfl
  · exact Executes.of h rfl rfl rfl rfl rfl
  -- `PROG_LOAD` and `PROG_STOP`
  · split
    · next hfull => exact Executes.of h rfl (if_pos hfull) rfl rfl rfl
    · next hroom => exact Executes.of h rfl (if_neg hroom) rfl rfl rfl
  · exact Executes.of h rfl rfl rfl rfl rfl
  -- completions that no command waits for
  · exact exec_completeStep_noChannel rfl h8
  · exact exec_completeStep_noChannel rfl h8
  · exact exec_completeStep_noChannel rfl h8
  · exact Acts.completeStep_none rfl h8 hn
  · exact Acts.completeStep_none rfl h8 hn
  · exact Acts.completeStep_none rfl h8 hn
  -- a fetch that ends
  · subst hb
    exact Acts.completeStep_some rfl h8 hd (if_pos huse)
  · subst hb
    exact Acts.completeStep_some rfl h8 hd (if_neg (Bool.eq_false_iff.1 hfree))
  · subst hnone
    exact Acts.completeStep_some rfl h8 hd rfl
  -- a store that ends
  · subst hbad
    exact Acts.completeStep_some rfl h8 hd rfl
  · subst hok
    exact Acts.completeStep_some rfl h8 hd (by simp only [hl]; rfl)
  · subst hok
    exact ⟨Acts.dmaStoreComplete_taken h8 hd hl, exec_dmaStoreComplete_sends h8 hd hl⟩
  -- a program load that ends
  · exact Acts.completeStep_some rfl h8 hd (if_pos hid)
  · exact Acts.completeStep_some rfl h8 hd ((if_neg (Bool.eq_false_iff.1 hid)).trans (if_pos hgone))
  · exact Acts.completeStep_some rfl h8 hd ((if_neg (Bool.eq_false_iff.1 hid)).trans ((if_neg hst).trans (if_pos hfull)))
  · exact Acts.completeStep_some rfl h8 hd
      ((if_neg (Bool.eq_false_iff.1 hid)).trans ((if_neg hst).trans (if_neg (Nat.not_le.2 hroom))))

end Sys2Proof.Machine
end

section
/-! PROOFS. Route swaps. -/

namespace Sys2Proof.Machine

/-! ## Routing tables (R259, R262) -/

/-- While a check runs, a further swap is ignored. -/
theorem Chan.startSwap_busy {c : Chan} (h : c.fld F.SP_RT_CTL_BUSY = 1) : c.startSwap = c := if_pos h

theorem Chan.startSwap_idle {c : Chan} (h : c.fld F.SP_RT_CTL_BUSY ≠ 1) : c.startSwap = c.setFld F.SP_RT_CTL_BUSY 1 := if_neg h

/-- Settles O29: each clause is one branch of its command's action on the channel. -/
theorem routeTablesSwapWhole : Obligations.RouteTablesSwapWhole := by
  refine fun ch src es ue s => ⟨?_, fun h => ?_, fun hoff hlock hidle => ?_, fun hidle => ?_,
    fun hbusy => ⟨fun tb e hfound => ?_, fun hfound => ?_⟩⟩
  -- `TOPO_REPORT`
  · exact Acts.of_chanStep rfl rfl
  -- `ROUTE_SWAP`
  · refine Acts.of_chanStep rfl ?_
    by_cases hdead : (s.chan ch).st = .off ∨ (s.chan ch).st = .locked
    · exact if_pos (by simpa using hdead)
    · exact (if_neg (by simpa using hdead)).trans (Chan.startSwap_busy ((or_assoc.2 h).resolve_left hdead))
  · exact Acts.of_chanStep rfl ((if_neg (by simp [hoff, hlock])).trans (Chan.startSwap_idle hidle))
  -- `ROUTE_SWAP_COMPLETE`
  · exact Acts.of_chanStep rfl (if_pos hidle)
  · refine Acts.of_chanStep rfl ((if_neg hbusy).trans ?_)
    simp only [hfound] <;> rfl
  · refine Acts.of_chanStep rfl ((if_neg hbusy).trans ?_)
    simp only [hfound]

end Sys2Proof.Machine
end

section
/-! PROOFS. Frames that are received: checks, sequences and the reorder window. -/

namespace Sys2Proof.Machine

/-! ## Sound frames (R238, R245, R247, R249) -/

/-- What an interface that is UP, with the sequence state `l`, does with a sequenced frame. -/
def Chan.takeSequenced (c : Chan) (l : Link) (i : Nat) (f : Frame) : Chan :=
  let d := (f.lseq + 65536 - l.rxNext) % 65536
  if d = 0 then Chan.drainWindow i 16 (c.acceptFrame i f)
  else if i < 2 then (if d < 32768 then c.sendNak i else c)
  else if d < 16 then (if l.window.any (fun x => x.lseq = f.lseq) then c else c.setLink i { l with window := l.window ++ [f] })
  else if d < 32768 && d % 16 = 0 then c.sendNak i
  else c

/-- What an interface in the state `l` does with a sound frame: only an UP one takes credit and sequenced frames. -/
def Chan.takeSound (c : Chan) (l : Link) (i : Nat) (f : Frame) : Chan :=
  match f.payload with
  | .ctl (.hello h) => c.takeHello i h
  | .credit a => if l.st = .up then c.takeCredit i a else c
  | _ => if l.st ≠ .up then c else c.takeSequenced l i f

theorem Chan.takeSound_hello {c : Chan} {l : Link} {i : Nat} {f : Frame} {h : Hello} (hf : f.payload = .ctl (.hello h)) :
    c.takeSound l i f = c.takeHello i h := by
  simp only [Chan.takeSound, hf]

theorem Chan.takeSound_credit {c : Chan} {l : Link} {i : Nat} {f : Frame} {a : CreditAck} (hf : f.payload = .credit a) :
    c.takeSound l i f = if l.st = .up then c.takeCredit i a else c := by
  simp only [Chan.takeSound, hf]

theorem Chan.takeSound_sequenced {c : Chan} {l : Link} {i : Nat} {f : Frame} (hhello : ∀ h, f.payload ≠ .ctl (.hello h))
    (hcredit : ∀ a, f.payload ≠ .credit a) : c.takeSound l i f = if l.st = .up then c.takeSequenced l i f else c := by
  unfold Chan.takeSound
  split
  · next h hf => exact absurd hf (hhello h)
  · next a hf => exact absurd hf (hcredit a)
  · exact ite_not ..

/-- On a physically trained interface, a frame that comes whole and is not discarded is taken. -/
theorem Acts.frameReceive_sound {ch : Fin 8} {i : Fin 5} {f : Frame} {crc : Word} {w : Wire} {s : State} {d : Chan}
    (hphys : ((s.chan ch).link i).phys = true)
    (hsound : (wireFails w ((s.chan ch).countFec i w).free i f || crc ≠ frameCrc f) = false)
    (hkept : (f.unsequenced && badFrame f) = false)
    (hd : ((s.chan ch).countFec i w).takeSound ((s.chan ch).link i) i f = d) : Acts (.frameReceive ch i f crc w) s ch d :=
  Acts.of_chanStep rfl ((if_neg (by simp [hphys])).trans ((if_neg (Bool.eq_false_iff.1 hsound)).trans
    ((if_neg (Bool.eq_false_iff.1 hkept)).trans hd)))

/-- Settles O26: each clause is one branch of its command's action on the channel. -/
theorem receivedFramesAreCheckedAndSequenced : Obligations.ReceivedFramesAreCheckedAndSequenced := by
  refine fun ch i f crc w a s => ⟨fun hphys => ?_, fun hphys => ⟨fun hbroken => ⟨fun hup => ?_, fun hup => ?_⟩, fun hsound hbad => ?_,
    fun hsound hkept => ⟨fun h hf => ?_, fun b hf => ⟨fun hup => ?_, fun hup => ?_⟩, fun hhello hcredit => ?_⟩⟩,
    fun hup => ?_, fun hup => ?_⟩
  · exact Acts.of_chanStep rfl (if_pos (by simp [hphys]))
  -- a CRC failure
  · exact Acts.of_chanStep rfl ((if_neg (by simp [hphys])).trans ((if_pos hbroken).trans (if_pos hup)))
  · exact Acts.of_chanStep rfl ((if_neg (by simp [hphys])).trans ((if_pos hbroken).trans (if_neg hup)))
  -- a bad unsequenced frame
  · exact Acts.of_chanStep rfl ((if_neg (by simp [hphys])).trans ((if_neg (Bool.eq_false_iff.1 hsound)).trans (if_pos hbad)))
  -- `HELLO` and credit frames
  · exact Acts.frameReceive_sound hphys hsound hkept (Chan.takeSound_hello hf)
  · exact Acts.frameReceive_sound hphys hsound hkept ((Chan.takeSound_credit hf).trans (if_pos hup))
  · exact Acts.frameReceive_sound hphys hsound hkept ((Chan.takeSound_credit hf).trans (if_neg hup))
  -- a sequenced frame
  · have htaken := Chan.takeSound_sequenced (c := (s.chan ch).countFec i w) (l := (s.chan ch).link i) (i := i) hhello hcredit
    refine ⟨fun hup => Acts.frameReceive_sound hphys hsound hkept (htaken.trans (if_neg hup)), fun hup => ?_⟩
    have hseq {d} (hd : ((s.chan ch).countFec i w).takeSequenced ((s.chan ch).link i) i f = d) :=
      Acts.frameReceive_sound hphys hsound hkept (htaken.trans ((if_pos hup).trans hd))
    refine ⟨fun hd => ?_, fun hd hport => ⟨fun hlate => ?_, fun hearly => ?_⟩, fun hd hseam => ⟨fun hwin hheld => ?_,
      fun hwin hfree => ?_, fun hwin hlate hlink => ?_, fun hwin hno => ?_⟩⟩
    · exact hseq (if_pos hd)
    -- another one at a port
    · exact hseq ((if_neg hd).trans ((if_pos hport).trans (if_pos hlate)))
    · exact hseq ((if_neg hd).trans ((if_pos hport).trans (if_neg (Nat.not_lt.2 hearly))))
    -- another one at a seam end, within its window and beyond it
    · exact hseq ((if_neg hd).trans ((if_neg (Nat.not_lt.2 hseam)).trans ((if_pos hwin).trans (if_pos hheld))))
    · exact hseq ((if_neg hd).trans ((if_neg (Nat.not_lt.2 hseam)).trans ((if_pos hwin).trans (if_neg (Bool.eq_false_iff.1 hfree)))))
    · exact hseq ((if_neg hd).trans ((if_neg (Nat.not_lt.2 hseam)).trans ((if_neg (Nat.not_lt.2 hwin)).trans
        (if_pos (Bool.and_eq_true_iff.2 ⟨decide_eq_true hlate, decide_eq_true hlink⟩)))))
    · refine hseq ((if_neg hd).trans ((if_neg (Nat.not_lt.2 hseam)).trans ((if_neg (Nat.not_lt.2 hwin)).trans (if_neg ?_))))
      simp only [Bool.and_eq_true, decide_eq_true_eq]
      omega
  -- `CREDIT_ACK`
  · exact Acts.of_chanStep rfl (if_pos hup)
  · exact Acts.of_chanStep rfl (if_neg hup)

end Sys2Proof.Machine
end

section
/-! PROOFS. Frames that leave, training, and what a `HELLO` does. -/

namespace Sys2Proof.Machine

/-! ## Replay (R249) -/

/-- A frame resent four times without progress resets the link. -/
theorem Chan.resendAll_limit {c : Chan} {i : Nat} (hkept : (c.link i).replay ≠ []) (hlimit : ∃ x ∈ (c.link i).replay, 4 ≤ x.tries) :
    c.resendAll i = c.linkReset i :=
  (if_neg hkept).trans (if_pos (by simpa using hlimit))

/-- Below that limit every kept frame is due again. -/
theorem Chan.resendAll_again {c : Chan} {i : Nat} (hkept : (c.link i).replay ≠ []) (htries : ∀ x ∈ (c.link i).replay, x.tries < 4) :
    c.resendAll i = (c.setLink i { c.link i with
      replay := (c.link i).replay.map (fun x => { x with tries := x.tries + 1 }), resend := (c.link i).replay.map (·.frame) }).countLink
        F.SP_LINK_COUNT_REPLAYS i :=
  (if_neg hkept).trans (if_neg (by simpa using htries))

/-! ## Sending (R246-R249) -/

/-- On an interface that is not UP nothing leaves, no timer runs and nothing is sent again. -/
theorem Acts.notUp_still {ch : Fin 8} {i : Fin 5} {s : State} (hup : ((s.chan ch).link i).st ≠ .up) :
    Acts (.frameTransmit ch i) s ch (s.chan ch) ∧ Acts (.creditAckTimer ch i) s ch (s.chan ch) ∧
      Acts (.replayTimeout ch i) s ch (s.chan ch) :=
  ⟨Acts.of_chanStep rfl (if_pos hup), Acts.of_chanStep rfl (if_neg (by simp [hup])), Acts.of_chanStep rfl (if_neg hup)⟩

/-! ## `HELLO` (R250, R251, R255, R258) -/

/-- The test of a retrain: the same partner, whose next sequence is the sender's own or that of a frame kept for replay. -/
theorem Link.resumes_iff (l : Link) (next : Nat) (same : Prop) [Decidable same] :
    (same && (next = l.txNext || l.replay.any (fun x => x.frame.lseq = next))) = true ↔
      same ∧ (next = l.txNext ∨ ∃ x ∈ l.replay, x.frame.lseq = next) := by
  simp

section
variable {c : Chan} {i : Nat} {h : Hello}

/-- A `HELLO` is dropped without physical training, from another end than the one across a seam, and where none is awaited. -/
theorem Chan.takeHello_drop (hno : (c.link i).phys = false ∨ helloFits c.idx i h = false ∨
    ((c.link i).st ≠ .training ∧ (c.link i).st ≠ .up ∧ (c.link i).st ≠ .retrain)) : c.takeHello i h = c := by
  by_cases hdeaf : (c.link i).phys = false ∨ helloFits c.idx i h = false
  · exact if_pos (by simpa using hdeaf)
  · obtain ⟨htrain, hup, hre⟩ := (or_assoc.2 hno).resolve_left hdeaf
    exact (if_neg (by simpa using hdeaf)).trans ((if_neg htrain).trans ((if_neg hup).trans (if_neg hre)))

variable (hphys : (c.link i).phys = true) (hfits : helloFits c.idx i h = true)
include hphys hfits

/-- The test that drops a `HELLO` does not hold. -/
theorem Chan.hello_passes : ¬ (!(c.link i).phys || !helloFits c.idx i h) = true := by
  simp [hphys, hfits]

end

/-- Settles O27: each clause is one branch of its command's action on the channel, or of what a `HELLO` does. -/
theorem framesTrainAndLeaveUnderCredit : Obligations.FramesTrainAndLeaveUnderCredit := by
  refine ⟨fun ch i s => ⟨Acts.notUp_still, fun hup => ⟨fun f hf => ?_, fun hcredit => ⟨fun f rest hre => ?_, fun f hre hf => ?_,
      fun hre hctl hpick => ?_, fun e hre hctl hpick => ?_⟩, fun ht => ?_, fun ht => ?_, fun hr => ?_, fun hr hlimit => ?_,
      fun hr htries => ?_⟩⟩,
    fun ch i rev pol h s => ⟨fun hno => ?_, fun hst hphys hseam => ⟨fun hi => ?_, fun hi => ?_⟩, Acts.of_chanStep rfl rfl,
      fun hphys hheard => ?_, fun hno => ?_, fun hno ok => ?_, fun hseam => ?_, fun hst hphys => ⟨fun hseam => ⟨fun hi => ?_,
      fun hi => ?_⟩, fun hfew => ?_, fun hthird => ?_⟩⟩,
    fun c i h => ⟨Chan.takeHello_drop, fun hphys hfits => ⟨fun hst => ?_, fun hst hsame => ?_, fun hst hother => ?_,
      fun hst hno => ?_, fun hst hsame hknown => ?_⟩⟩⟩
  -- `FRAME_TRANSMIT`
  · refine Acts.of_chanStep rfl ((if_neg (not_not_intro hup)).trans ?_)
    simp only [hf]
  · refine Acts.of_chanStep rfl ((if_neg (not_not_intro hup)).trans ?_)
    simp only [hcredit, hre]
  · refine Acts.of_chanStep rfl ((if_neg (not_not_intro hup)).trans ?_)
    simp only [hcredit, hre, hf, Chan.sendLocal]
  · refine Acts.of_chanStep rfl ((if_neg (not_not_intro hup)).trans ?_)
    simp only [hcredit, hre, hctl, hpick]
  · refine Acts.of_chanStep rfl ((if_neg (not_not_intro hup)).trans ?_)
    simp only [hcredit, hre, hctl, hpick]
  -- `CREDIT_ACK_TIMER` and `REPLAY_TIMEOUT`
  · exact Acts.of_chanStep rfl (if_pos (by simp [hup, ht]))
  · exact Acts.of_chanStep rfl (if_neg (by simp [ht]))
  · exact Acts.of_chanStep rfl ((if_pos hup).trans (if_pos hr))
  · exact Acts.of_chanStep rfl ((if_pos hup).trans (Chan.resendAll_limit hr hlimit))
  · exact Acts.of_chanStep rfl ((if_pos hup).trans (Chan.resendAll_again hr htries))
  -- `LINK_TRAINED`
  · exact Acts.of_chanStep rfl (if_pos (by simpa [or_assoc] using hno))
  · refine Acts.of_chanStep rfl ((if_neg (by simp [hst, hphys, hseam])).trans ?_)
    simp only [if_neg (Nat.not_lt.2 hi)]
  · refine Acts.of_chanStep rfl ((if_neg (by simp [hst, hphys, hseam])).trans ?_)
    simp only [if_pos hi]
  -- `HELLO_TIMER`
  · exact Acts.of_chanStep rfl (if_pos (by simp [hphys, hheard]))
  · exact Acts.of_chanStep rfl (if_neg (by obtain h | h := hno <;> simp [h]))
  -- `RETRAIN_END`
  · exact Acts.of_chanStep rfl (if_pos (by obtain h | h := hno <;> simp [h]))
  · exact Acts.of_chanStep rfl (if_pos (by simp [hseam]))
  · refine Acts.of_chanStep rfl ((if_neg (by simp [hst, hphys, hseam])).trans ((if_pos rfl).trans ?_))
    simp only [if_neg (Nat.not_lt.2 hi)]
  · refine Acts.of_chanStep rfl ((if_neg (by simp [hst, hphys, hseam])).trans ((if_pos rfl).trans ?_))
    simp only [if_pos hi]
  · exact Acts.of_chanStep rfl ((if_neg (by simp [hst, hphys])).trans ((if_neg Bool.false_ne_true).trans (if_pos hfew)))
  · exact Acts.of_chanStep rfl ((if_neg (by simp [hst, hphys])).trans
      ((if_neg Bool.false_ne_true).trans (if_neg (Nat.not_lt.2 hthird))))
  -- a `HELLO` in training
  · exact (if_neg (Chan.hello_passes hphys hfits)).trans (if_pos hst)
  -- a `HELLO` on an UP interface
  · exact (if_neg (Chan.hello_passes hphys hfits)).trans ((if_neg (by simp [hst])).trans ((if_pos hst).trans (if_pos hsame)))
  · exact (if_neg (Chan.hello_passes hphys hfits)).trans ((if_neg (by simp [hst])).trans ((if_pos hst).trans (if_neg hother)))
  -- a `HELLO` in a retrain
  · exact (if_neg (Chan.hello_passes hphys hfits)).trans ((if_neg (by simp [hst])).trans ((if_neg (by simp [hst])).trans
      ((if_pos hst).trans (if_neg (mt (Link.resumes_iff ..).1 hno)))))
  · exact (if_neg (Chan.hello_passes hphys hfits)).trans ((if_neg (by simp [hst])).trans ((if_neg (by simp [hst])).trans
      ((if_pos hst).trans (if_pos ((Link.resumes_iff ..).2 ⟨hsame, hknown⟩)))))

end Sys2Proof.Machine
end

section
/-! PROOFS. `HBM_READ` and `HBM_WRITE` of HBM lines, inside the grants and outside. -/

namespace Sys2Proof.Machine

/-! ## Lines of the first range (R270) -/

/-- Every extent that ends in the first range begins there. -/
theorem lineRange_first {line n : Nat} (hend : line + n ≤ 0x60000000) (hn : 0 < n) : lineRange line = (0, 0) := if_pos (by omega)

theorem oneRange_first {line n : Nat} (hend : line + n ≤ 0x60000000) (hn : 0 < n) : oneRange line n = true := by
  unfold oneRange
  rw [lineRange_first hend hn, lineRange_first (n := 1) (by omega) (by omega)]
  simp only [decide_true, Bool.true_and, decide_eq_true_eq]
  omega

/-- The check of an extent's grants, as the movement engine makes it (R272). -/
def Chan.extentGranted (c : Chan) (g line n : Nat) (write : Bool) : Bool := (List.range n).all (fun k => c.lineGranted g (line + k) write)

theorem Chan.extentGranted_true {c : Chan} {g line n : Nat} {write : Bool} (h : ∀ k < n, c.lineGranted g (line + k) write = true) :
    c.extentGranted g line n write = true := List.all_eq_true.2 fun k hk => h k (List.mem_range.1 hk)

theorem Chan.extentGranted_false {c : Chan} {g line n : Nat} {write : Bool} (h : ∃ k < n, c.lineGranted g (line + k) write = false) :
    c.extentGranted g line n write = false := by
  obtain ⟨k, hk, hno⟩ := h
  exact List.all_eq_false.2 ⟨k, List.mem_range.2 hk, by simp [hno]⟩

/-- Whether a write meets the release line of a grove that streams, or the one after it (R133). -/
def Chan.hitsRelease (c : Chan) (g line n : Nat) : Bool :=
  decide (c.residencies (c.grove g) ≠ []) && decide (line ≤ c.fld (F.SP_WS_GRV_REL_LINE_LINE.sh (wsOff g)) + 1) &&
    decide (c.fld (F.SP_WS_GRV_REL_LINE_LINE.sh (wsOff g)) < line + n)

theorem Chan.hitsRelease_off {c : Chan} {g line n : Nat} (h : c.residencies (c.grove g) = [] ∨
    c.fld (F.SP_WS_GRV_REL_LINE_LINE.sh (wsOff g)) + 1 < line ∨ line + n ≤ c.fld (F.SP_WS_GRV_REL_LINE_LINE.sh (wsOff g))) :
    c.hitsRelease g line n = false := by
  unfold Chan.hitsRelease
  obtain h | h | h := h <;> simp [h]

/-- What an `HBM_READ` that the grants let through does (R138, R280): its lines go to SRAM, an HBM-tier chunk freezes the grove, another
uncorrectable line faults the tile. -/
def Chan.readGranted (c : Chan) (i g : Nat) (d : QDesc) (errs : NMap LineErr) : MoveRes :=
  match c.readLines (dfield d.words 5 0 31) errs (moveLines d.words) with
  | (some b, c1) => .retire (c1.sramWrite i (dfield d.words 2 0 21) b)
  | (none, c1) => match c1.hbmTierChunk g (c1.fld F.HBM_UE_ADDR_LINE) with
    | some k => .discard (c1.tierFreeze g k)
    | none => .fault 0x10 c1

section
variable {c c2 : Chan} {i g : Nat} {d : QDesc} {errs : NMap LineErr}

theorem Chan.readGranted_read {b : Bytes} (hr : c.readLines (dfield d.words 5 0 31) errs (moveLines d.words) = (some b, c2)) :
    c.readGranted i g d errs = .retire (c2.sramWrite i (dfield d.words 2 0 21) b) := by
  unfold Chan.readGranted
  rw [hr]

theorem Chan.readGranted_ue (hr : c.readLines (dfield d.words 5 0 31) errs (moveLines d.words) = (none, c2))
    (hk : c2.hbmTierChunk g (c2.fld F.HBM_UE_ADDR_LINE) = none) : c.readGranted i g d errs = .fault 0x10 c2 := by
  unfold Chan.readGranted
  rw [hr]
  dsimp only
  rw [hk]

end

/-! ## `HBM_READ` and `HBM_WRITE` (R272, R280) -/

section
variable {c : Chan} {i x : Nat} {d : QDesc} {errs : NMap LineErr}

/-- A free tile has no grants, and an extent across ranges lies in none. -/
theorem Chan.moveHbmRead_refused (h : (c.tile i).slot = none ∨ oneRange (dfield d.words 5 0 31) (moveLines d.words) = false) :
    c.moveHbmRead i d errs = .fault 0x0F c := by
  unfold Chan.moveHbmRead
  dsimp only
  split
  · rfl
  · next hs => exact if_pos (by simp [h.resolve_left (by simp [hs])])

theorem Chan.moveHbmWrite_refused (h : (c.tile i).slot = none ∨ oneRange (dfield d.words 5 0 31) (moveLines d.words) = false) :
    c.moveHbmWrite i d errs = .fault 0x0F c := by
  unfold Chan.moveHbmWrite
  dsimp only
  split
  · rfl
  · next hs => exact if_pos (by simp [h.resolve_left (by simp [hs])])

variable {r : SlotRef} (hs : (c.tile i).slot = some r) (hend : dfield d.words 5 0 31 + moveLines d.words ≤ 0x60000000)
  (hn : 0 < moveLines d.words)
include hs hend hn

theorem Chan.moveHbmRead_first : c.moveHbmRead i d errs =
    if !c.extentGranted r.grove (dfield d.words 5 0 31) (moveLines d.words) false then .fault 0x0F c else c.readGranted i r.grove d errs := by
  unfold Chan.moveHbmRead
  dsimp only
  rw [lineRange_first hend hn, hs]
  dsimp only
  rw [oneRange_first hend hn]
  rfl

theorem Chan.moveHbmRead_outside (hg : c.extentGranted r.grove (dfield d.words 5 0 31) (moveLines d.words) false = false) :
    c.moveHbmRead i d errs = .fault 0x0F c := (Chan.moveHbmRead_first hs hend hn).trans (if_pos (by rw [hg]; rfl))

theorem Chan.moveHbmRead_inside (hg : c.extentGranted r.grove (dfield d.words 5 0 31) (moveLines d.words) false = true) :
    c.moveHbmRead i d errs = c.readGranted i r.grove d errs := (Chan.moveHbmRead_first hs hend hn).trans (if_neg (by rw [hg]; decide))

theorem Chan.moveHbmWrite_first : c.moveHbmWrite i d errs =
    if !c.extentGranted r.grove (dfield d.words 5 0 31) (moveLines d.words) true ||
        (c.hitsRelease r.grove (dfield d.words 5 0 31) (moveLines d.words) && moveLines d.words ≠ 1) then .fault 0x0F c
    else c.moveSource i (dfield d.words 1 0 21) (64 * moveLines d.words) errs (fun b c1 =>
      .retire (if c.hitsRelease r.grove (dfield d.words 5 0 31) (moveLines d.words) then
        (c1.hbmWrite (dfield d.words 5 0 31) b).releaseHit r.grove
          (dfield d.words 5 0 31 - c.fld (F.SP_WS_GRV_REL_LINE_LINE.sh (wsOff r.grove)))
        else c1.hbmWrite (dfield d.words 5 0 31) b)) := by
  unfold Chan.moveHbmWrite
  dsimp only
  rw [lineRange_first hend hn, hs]
  dsimp only
  rw [oneRange_first hend hn]
  rfl

theorem Chan.moveHbmWrite_outside (hg : c.extentGranted r.grove (dfield d.words 5 0 31) (moveLines d.words) true = false) :
    c.moveHbmWrite i d errs = .fault 0x0F c := (Chan.moveHbmWrite_first hs hend hn).trans (if_pos (by rw [hg]; rfl))

/-- Sound source lines go to HBM, off the release line. -/
theorem Chan.moveHbmWrite_inside (hg : c.extentGranted r.grove (dfield d.words 5 0 31) (moveLines d.words) true = true)
    (hrel : c.hitsRelease r.grove (dfield d.words 5 0 31) (moveLines d.words) = false) (hp : (c.tile i).poison = []) :
    c.moveHbmWrite i d [] =
      .retire (c.hbmWrite (dfield d.words 5 0 31) (cellRead (c.tile i).sram (dfield d.words 1 0 21) (64 * moveLines d.words))) := by
  refine (Chan.moveHbmWrite_first hs hend hn).trans ((if_neg (by simp [hg, hrel])).trans ?_)
  rw [Chan.moveSource_clean _ _ _ _ _ hp, if_neg (by rw [hrel]; decide)]

end

/-- Settles O15: an access is refused by its tile or its extent, or by the grants; one that the grants let through reads its lines, or
writes its source. -/
theorem hbmMovesStayInsideGrants : Obligations.HbmMovesStayInsideGrants := by
  refine fun t x d errs s => ⟨fun h => ?_, fun r hs hend hn => ?_⟩
  · rw [← Chan.taken_slot _ _ x d] at h
    exact ⟨fun hm => hm.faults rfl (Chan.moveHbmRead_refused h), fun hm => hm.faults rfl (Chan.moveHbmWrite_refused h)⟩
  · rw [← Chan.taken_slot _ _ x d] at hs
    refine ⟨fun hm hg => ?_, fun hm hno => ?_, fun hm hg hp hrel => ?_, fun hm hno => ?_⟩
    -- a read inside a grant
    · have hin := Chan.moveHbmRead_inside (errs := errs) hs hend hn (Chan.extentGranted_true hg)
      exact ⟨fun b c2 hr => hm.retires rfl (hin.trans (Chan.readGranted_read hr)),
        fun c2 hr hk => hm.faults rfl (hin.trans (Chan.readGranted_ue hr hk))⟩
    -- a read outside every grant
    · exact hm.faults rfl (Chan.moveHbmRead_outside hs hend hn (Chan.extentGranted_false hno))
    -- a write inside a writable grant, off the release line
    · rw [← Chan.taken_sram _ _ x d]
      exact hm.retires rfl (Chan.moveHbmWrite_inside hs hend hn (Chan.extentGranted_true hg) (Chan.hitsRelease_off hrel)
        ((Chan.taken_poison _ _ _ _ _).trans hp))
    -- a write outside every writable grant
    · exact hm.faults rfl (Chan.moveHbmWrite_outside hs hend hn (Chan.extentGranted_false hno))

end Sys2Proof.Machine
end

section
/-! PROOFS. Regions that are applied, and strobes that wait for the flit drain. -/

namespace Sys2Proof.Machine

/-! ## Parity reports of staged copies (R463) -/

/-- A report touches the flag, its counter and the first address alone. -/
theorem Chan.reg_parityReport_ne (c : Chan) {off k : Nat} (hs : k ≠ R.CTL_STATUS) (hn : k ≠ R.CTL_FLAG_COUNT) (ha : k ≠ R.CTL_PARITY_ADDR) :
    (c.parityReport off).reg k = c.reg k := by
  unfold Chan.parityReport
  dsimp only
  refine Eq.trans ?_ (c.reg_flag_ne (f := F.CTL_STATUS_PARITY) (n := F.CTL_FLAG_COUNT_PARITY) hs hn)
  change Chan.reg (ite _ _ _) k = _
  split
  · exact (Chan.reg_setFld_ne _ _ ha).trans (Chan.reg_setFld_ne _ _ ha)
  · rfl

theorem Chan.reg_checkStaged_ne (c : Chan) {off k : Nat} (hs : k ≠ R.CTL_STATUS) (hn : k ≠ R.CTL_FLAG_COUNT) (ha : k ≠ R.CTL_PARITY_ADDR) :
    (c.checkStaged off).reg k = c.reg k := by
  unfold Chan.checkStaged
  split
  · exact Chan.reg_parityReport_ne _ hs hn ha
  · rfl

theorem Chan.reg_checkAll_ne (offs : List Nat) (c : Chan) {k : Nat} (hs : k ≠ R.CTL_STATUS) (hn : k ≠ R.CTL_FLAG_COUNT)
    (ha : k ≠ R.CTL_PARITY_ADDR) : (offs.foldl (fun c o => c.checkStaged o) c).reg k = c.reg k := by
  induction offs generalizing c with
  | nil => rfl
  | cons o os ih => exact (ih _).trans (c.reg_checkStaged_ne hs hn ha)

/-- A staged copy of sound parity is checked without a mark. -/
theorem Chan.checkAll_sound {offs : List Nat} {c : Chan} (h : offs.any (fun o => c.bank.badStaged.contains o) = false) :
    offs.foldl (fun c o => c.checkStaged o) c = c := by
  induction offs with
  | nil => rfl
  | cons o os ih =>
    obtain ⟨ho, hos⟩ : c.bank.badStaged.contains o = false ∧ os.any (fun o => c.bank.badStaged.contains o) = false := by simpa using h
    have hc : c.checkStaged o = c := if_neg (by rw [ho]; exact Bool.false_ne_true)
    rw [List.foldl_cons, hc, ih hos]

/-! ## Staged registers applied (R327) -/

/-- What shows through a staged copy looks at no other register. -/
theorem Chan.staged_setFld_ne (c : Chan) (f : Fld) (v : Nat) {k : Nat} (h : k ≠ f.off) : (c.setFld f v).staged k = c.staged k := by
  have hget : (c.setFld f v).reg k = c.reg k := c.reg_setFld_ne v h
  have hst : (c.setFld f v).bank.getStaged chanRegs k = c.bank.getStaged chanRegs k := mapGet_default c.bank.staged hget
  unfold Chan.staged
  rw [hget, hst]

/-- The channel when one staged register has been applied. -/
def Chan.applyReg (c : Chan) (o : Nat) : Chan := { c with bank := c.bank.applyAt chanRegs o }

theorem Chan.reg_applyReg (c : Chan) (o k : Nat) : (c.applyReg o).reg k = if k = o then c.staged k else c.reg k := by
  refine (Bank.get_put chanRegs c.bank o k _).trans ?_
  split
  · next h => subst h; rfl
  · rfl

/-- Applying a register leaves what shows through the staged copies. -/
theorem Chan.staged_applyReg (c : Chan) (o k : Nat) : (c.applyReg o).staged k = c.staged k := by
  have hreg := c.reg_applyReg o k
  have hst : (c.applyReg o).bank.getStaged chanRegs k =
      if k = o then (c.applyReg o).reg k else c.bank.getStaged chanRegs k := by
    refine (mapGet_mapDel _ c.bank.staged o k).trans ?_
    split
    · rfl
    · next h => exact mapGet_default c.bank.staged (hreg.trans (if_neg h))
  unfold Chan.staged at hreg ⊢
  by_cases h : k = o
  · rw [hst, if_pos h, hreg, if_pos h, Word.merge_self]
  · rw [hst, if_neg h, hreg, if_neg h]

/-- A register whose offset is applied is what showed through its staged copy; another stays. -/
theorem Chan.reg_applyOffs (offs : List Nat) (c : Chan) (k : Nat) :
    (offs.foldl Chan.applyReg c).reg k = if k ∈ offs then c.staged k else c.reg k := by
  induction offs generalizing c with
  | nil => simp
  | cons o os ih =>
    rw [List.foldl_cons, ih, c.staged_applyReg, c.reg_applyReg]
    by_cases h : k = o <;> simp [h]

theorem Chan.hbm_applyOffs (offs : List Nat) (c : Chan) : (offs.foldl Chan.applyReg c).hbm = c.hbm := by
  induction offs generalizing c with
  | nil => rfl
  | cons o os ih => exact ih (c.applyReg o)

/-! ## Regions (R271) -/

theorem Chan.region_eq (c : Chan) (n : Nat) : c.region n = regionIn c.reg n := by
  have hoff (f : Fld) : c.fld (f.sh (8 * n)) = bits (c.reg (f.off + 8 * n)).toNat f.lo f.width := rfl
  unfold Chan.region regionIn
  simp only [hoff]

theorem Chan.body_region {a b : Chan} (h : a.body = b.body) (n : Nat) : a.region n = b.region n := by
  unfold Chan.region
  simp only [Chan.body_fld h]

/-- A region is read off its two registers. -/
theorem regionIn_congr {a b : Nat → Word} {n : Nat} (hlo : a (R.HBM_REGION_LO + 8 * n) = b (R.HBM_REGION_LO + 8 * n))
    (hhi : a (R.HBM_REGION_HI + 8 * n) = b (R.HBM_REGION_HI + 8 * n)) : regionIn a n = regionIn b n := by
  unfold regionIn
  rw [hlo, hhi]

theorem mem_regionOffs {k : Nat} (n : Nat) (h8 : n < 8) (hk : k = R.HBM_REGION_LO + 8 * n ∨ k = R.HBM_REGION_HI + 8 * n) : k ∈ regionOffs := by
  refine List.mem_map.2 ?_
  obtain rfl | rfl := hk
  · exact ⟨2 * n, List.mem_range.2 (by omega), by omega⟩
  · exact ⟨2 * n + 1, List.mem_range.2 (by omega), by simp only [R.HBM_REGION_LO, R.HBM_REGION_HI]; omega⟩

/-- Two views that agree on the region block hold the same regions. -/
theorem regionIn_agree {a b : Nat → Word} (h : ∀ k ∈ regionOffs, a k = b k) {n : Nat} (h8 : n < 8) : regionIn a n = regionIn b n :=
  regionIn_congr (h _ (mem_regionOffs n h8 (.inl rfl))) (h _ (mem_regionOffs n h8 (.inr rfl)))

/-- The registers of the region block lie apart from the channel's flags. -/
theorem ne_of_mem_regionOffs {k j : Nat} (hk : k ∈ regionOffs) (hj : j ∉ regionOffs) : k ≠ j := fun h => hj (h ▸ hk)

/-- A refused apply leaves every region as it is. -/
theorem Chan.region_refused (c : Chan) {n : Nat} (h8 : n < 8) :
    ((regionOffs.foldl (fun c o => c.checkStaged o) c).setFld F.HBM_STATUS_REGION_ERR 1).region n = c.region n := by
  rw [Chan.region_eq, Chan.region_eq]
  refine regionIn_agree (fun k hk => ?_) h8
  rw [Chan.reg_setFld_ne _ _ (ne_of_mem_regionOffs hk (by decide))]
  exact Chan.reg_checkAll_ne _ _ (ne_of_mem_regionOffs hk (by decide)) (ne_of_mem_regionOffs hk (by decide))
    (ne_of_mem_regionOffs hk (by decide))

/-- The channel when region 3, as it is staged, has been zeroed. -/
def Chan.zeroDirty (c : Chan) : Chan :=
  match regionIn c.staged 3 with
  | some (b, l, _) => c.zeroLines b (l + 1 - b)
  | none => c

theorem Chan.zeroDirty_some {c : Chan} {b l : Nat} {tr : Bool} (h : regionIn c.staged 3 = some (b, l, tr)) :
    c.zeroDirty = c.zeroLines b (l + 1 - b) := by
  unfold Chan.zeroDirty
  rw [h]

theorem Chan.zeroDirty_staged (c : Chan) {k : Nat} (hk : k ∈ regionOffs) : c.zeroDirty.staged k = c.staged k := by
  unfold Chan.zeroDirty
  split
  · exact Chan.staged_setFld_ne _ _ _ (ne_of_mem_regionOffs hk (by decide))
  · rfl

/-- The channel when `REGION_APPLY` has been accepted (R271). -/
def Chan.regionsApplied (c : Chan) : Chan := regionOffs.foldl Chan.applyReg c.zeroDirty

/-- Every staged region is in force. -/
theorem Chan.region_regionsApplied (c : Chan) {n : Nat} (h8 : n < 8) : c.regionsApplied.region n = regionIn c.staged n := by
  rw [Chan.region_eq]
  refine regionIn_agree (fun k hk => ?_) h8
  rw [Chan.regionsApplied, Chan.reg_applyOffs, if_pos hk, c.zeroDirty_staged hk]

theorem Chan.hbm_regionsApplied {c : Chan} {b l : Nat} {tr : Bool} (h : regionIn c.staged 3 = some (b, l, tr)) :
    c.regionsApplied.hbm = cellZero c.hbm (b * 64) ((l + 1 - b) * 64) := by
  rw [Chan.regionsApplied, Chan.hbm_applyOffs, Chan.zeroDirty_some h]
  rfl

theorem mapGet_filter_in {α : Type} (d : Nat → α) (m : NMap α) (p : Nat → Bool) {k : Nat} (h : p k = true) :
    mapGet d (m.filter (fun q => p q.1)) k = mapGet d m k := by
  induction m with
  | nil => rfl
  | cons q m ih =>
    rw [List.filter_cons]
    split
    · rw [mapGet, mapGet, ih]
    · next hq =>
      have hne : q.1 ≠ k := fun e => hq (e ▸ h)
      exact ih.trans (if_neg hne).symm

theorem cellByte_cellZero_out (m : List Host.Cell) {a n b : Nat} (h : b < a ∨ a + n ≤ b) : cellByte (cellZero m a n) b = cellByte m b :=
  mapGet_filter_in _ m (fun x => !(decide (a ≤ x) && decide (x < a + n))) (by simp; omega)

/-! ## `REGION_APPLY` (R271, R283) -/

/-- The channel takes an apply: in BRINGUP, or in READY with no grove loaded. -/
def Chan.takesRegions (c : Chan) : Prop := c.st = .bringup ∨ c.st = .ready ∧ ∀ g ∈ groveNums, (c.grove g).st = .empty

/-- The staged copies hold parity, and break none of items 1-4. -/
def Chan.regionsGood (c : Chan) : Prop :=
  regionOffs.any (fun o => c.bank.badStaged.contains o) = false ∧ regionItem c.staged (sumCap c.reg) = none

theorem Chan.takesRegions_iff (c : Chan) : c.takesRegions ↔ (c.st = .bringup || (c.st = .ready && c.idle)) = true := by
  simp [Chan.takesRegions, Chan.idle]

theorem Chan.regionApply_good {c : Chan} (hmay : c.takesRegions) (hgood : c.regionsGood) : c.regionApply = c.regionsApplied := by
  obtain ⟨hsound, hitem⟩ := hgood
  unfold Chan.regionApply
  dsimp only
  rw [Chan.checkAll_sound hsound, c.takesRegions_iff.1 hmay, hsound, hitem]
  rfl

theorem Chan.regionApply_refused {c : Chan} (h : ¬ (c.takesRegions ∧ c.regionsGood)) :
    c.regionApply = (regionOffs.foldl (fun c o => c.checkStaged o) c).setFld F.HBM_STATUS_REGION_ERR 1 := by
  refine if_pos ?_
  by_cases hmay : c.takesRegions
  · by_cases hsound : regionOffs.any (fun o => c.bank.badStaged.contains o) = false
    · have hitem : regionItem c.staged (sumCap c.reg) ≠ none := fun hn => h ⟨hmay, hsound, hn⟩
      rw [Chan.checkAll_sound hsound, Option.isSome_iff_ne_none.2 hitem, Bool.or_true]
    · rw [Bool.eq_true_of_not_eq_false hsound, Bool.or_true, Bool.true_or]
  · rw [Bool.eq_false_iff.2 (mt c.takesRegions_iff.2 hmay)]
    rfl

theorem Acts.regionApply_on {ch : Fin 8} {s : State} {d : Chan} (hoff : (s.chan ch).st ≠ .off) (hlock : (s.chan ch).st ≠ .locked)
    (hd : (s.chan ch).regionApply = d) : Acts (.regionApply ch) s ch d :=
  Acts.of_chanStep rfl ((if_neg (by simp [hoff, hlock])).trans hd)

/-! ## The drain of a strobe's groves (R109, R332) -/

section
variable {ch : Fin 8} {g : Fin 16} {s : State} {mask : Nat} {q : Option Nat}

theorem Acts.tableApply_none (h : (s.chan ch).applyWait = none) :
    Acts (.groveTableApply ch g) s ch (s.chan ch) ∧ Acts (.tableDrainTimeout ch g) s ch (s.chan ch) :=
  ⟨Acts.of_chanStep rfl (by simp only [h]), Acts.of_chanStep rfl (by simp only [h])⟩

variable (h : (s.chan ch).applyWait = some (mask, q))
include h

theorem Acts.tableApply_waits (hw : (groupsOf mask).contains g.val = false ∨ (s.chan ch).drained (groupsOf mask) = false) :
    Acts (.groveTableApply ch g) s ch (s.chan ch) := by
  refine Acts.of_chanStep rfl ?_
  simp only [h]
  exact if_pos (by obtain hw | hw := hw <;> rw [hw] <;> simp)

theorem Acts.tableApply_drained (hg : (groupsOf mask).contains g.val = true) (hd : (s.chan ch).drained (groupsOf mask) = true) :
    Acts (.groveTableApply ch g) s ch ((((s.chan ch).applyAll (groupsOf mask)).strobeResult .ok 0 0).endWait q .ok
      (some (minOr 0xFFFFFFFF ((groupsOf mask).map (fun g => ((s.chan ch).grove g).step))))) := by
  refine Acts.of_chanStep rfl ?_
  simp only [h]
  exact if_neg (by rw [hg, hd]; decide)

theorem Acts.drainTimeout_still (hw : (groupsOf mask).contains g.val = false ∨ (s.chan ch).drained [g.val] = true) :
    Acts (.tableDrainTimeout ch g) s ch (s.chan ch) := by
  refine Acts.of_chanStep rfl ?_
  simp only [h]
  exact if_pos (by obtain hw | hw := hw <;> rw [hw] <;> simp)

theorem Acts.drainTimeout_faults (hg : (groupsOf mask).contains g.val = true) (hd : (s.chan ch).drained [g.val] = false) :
    Acts (.tableDrainTimeout ch g) s ch ((((s.chan ch).groveFault g .hwFault).strobeResult .hwFault 0 0).endWait q .hwFault none) := by
  refine Acts.of_chanStep rfl ?_
  simp only [h]
  exact if_neg (by rw [hg, hd]; decide)

end

/-- Settles O34: an apply is accepted, or only flagged, and its regions are read off their registers; a strobe that waits applies, ends or
waits on by what its groves' flits say. -/
theorem regionsAndTablesApply : Obligations.RegionsAndTablesApply := by
  refine ⟨fun ch s => ⟨fun h => ?_, fun hoff hlock => ⟨fun hmay hgood => ?_, fun hno => ?_⟩⟩,
    fun ch g s => ⟨fun h => Acts.tableApply_none h, fun mask q h => ⟨fun hg => ?_, fun hg => ⟨fun hd => ?_, fun hd => ?_, fun hd => ?_, fun hd => ?_⟩⟩⟩⟩
  -- off or locked
  · exact Acts.of_chanStep rfl (if_pos (by simpa using h))
  -- accepted
  · obtain ⟨u, hu, hact⟩ := Acts.regionApply_on hoff hlock (Chan.regionApply_good hmay hgood)
    refine ⟨u, hu, fun n h8 => ?_, fun b l tr hr => ?_⟩
    · exact (Chan.body_region hact.here n).trans (Chan.region_regionsApplied _ h8)
    · rw [Chan.body_hbm hact.here, Chan.hbm_regionsApplied hr]
      exact ⟨fun k hb hl => cellByte_cellZero _ ⟨hb, by omega⟩, fun k hk => cellByte_cellZero_out _ (by omega)⟩
  -- refused
  · exact ⟨Acts.regionApply_on hoff hlock (Chan.regionApply_refused hno), fun n h8 => Chan.region_refused _ h8⟩
  -- the strobe is not of this grove's group
  · exact ⟨Acts.tableApply_waits h (.inl hg), Acts.drainTimeout_still h (.inl hg)⟩
  -- the strobe's groves have drained, or not
  · exact Acts.tableApply_drained h hg hd
  · exact Acts.tableApply_waits h (.inr hd)
  -- the timeout finds a flit of the grove, or none
  · exact Acts.drainTimeout_faults h hg hd
  · exact Acts.drainTimeout_still h (.inr hd)

end Sys2Proof.Machine
end

section
/-! PROOFS. What opens a session: every other command leaves the open sessions and the waiting opens, or ends some. -/

namespace Sys2Proof.Machine

/-! ## Shared operations of the module are quiet -/

/-- A branch is quiet when both its ways are. -/
theorem Quiet.ite {p : Prop} [Decidable p] {s a b : State} (ha : Quiet s a) (hb : Quiet s b) : Quiet s (if p then a else b) := by
  split <;> assumption

/-- A further change of the port die that leaves its sessions, waiting opens and lock. -/
theorem Quiet.onPort {s t : State} (h : Quiet s t) (f : PortDie → PortDie)
    (hf : ∀ p, (f p).sessions = p.sessions ∧ (f p).pending = p.pending ∧ (f p).locked = p.locked := by exact fun _ => ⟨rfl, rfl, rfl⟩) :
    Quiet s (t.onPort f) :=
  h.trans (t.onPort_still f (hf _).1 (hf _).2.1 (hf _).2.2)

theorem State.pdParity_quiet (s : State) (off : Nat) : Quiet s (s.pdParity off) := by
  unfold State.pdParity
  refine (s.pdFlag_quiet F.PD_STATUS_PARITY F.PD_FLAG_COUNT_PARITY).trans (Quiet.trans ?_ (State.flog_quiet _ _ _ _ _ _))
  exact Quiet.ite (State.onPort_still _ _ rfl rfl rfl) (Quiet.refl _)

theorem State.pdCheckApplied_quiet (s : State) (off : Nat) : Quiet s (s.pdCheckApplied off) :=
  Quiet.ite ((s.onPort_still _ rfl rfl rfl).trans (State.pdParity_quiet _ _)) (Quiet.refl _)

theorem State.pdCheckStaged_quiet (s : State) (off : Nat) : Quiet s (s.pdCheckStaged off) :=
  Quiet.ite ((s.onPort_still _ rfl rfl rfl).trans (State.pdParity_quiet _ _)) (Quiet.refl _)

theorem State.pdReadCheck_quiet (s : State) (off view : Nat) : Quiet s (s.pdReadCheck off view).2 := by
  unfold State.pdReadCheck
  split
  · exact s.pdCheckStaged_quiet off
  · exact s.pdCheckApplied_quiet off

theorem State.readGlobal_quiet (view : Nat) (l : List Nat) (s : State) : Quiet s (s.readGlobal view l).2.2 := by
  induction l generalizing s with
  | nil => exact Quiet.refl s
  | cons a t ih => exact (s.pdReadCheck_quiet a view).trans (ih _)

theorem State.applied_quiet (s : State) (n : Nat) : Quiet s (s.applied n) :=
  Quiet.ite (s.onPort_still _ rfl rfl rfl) (Quiet.ite s.recap_quiet (Quiet.ite s.settleAlarm_quiet (Quiet.refl s)))

theorem State.applyMg_quiet (s : State) (n : Nat) : Quiet s (s.applyMg n) :=
  (s.onPort_still _ rfl rfl rfl).trans (State.applied_quiet _ n)

theorem State.strobeMg_quiet (s : State) (mask : Nat) : Quiet s (s.strobeMg mask).2 := by
  unfold State.strobeMg
  dsimp only
  split
  · exact Quiet.foldl _ _ (fun s o => s.pdCheckStaged_quiet o) s
  · split
    · exact Quiet.refl s
    · exact Quiet.foldl _ _ (fun s n => Quiet.ite (Quiet.refl s) (s.applyMg_quiet n)) s

theorem State.bindCell_quiet (s : State) : Quiet s s.bindCell :=
  Quiet.ite (s.onPort_still _ rfl rfl rfl) (s.pdFlag_quiet _ _)

/-- A change of the port die's registers and flash alone. -/
theorem State.onBank_quiet (s : State) (f : PortDie → PortDie) (h : ∀ p, ∃ b l, f p = { p with bank := b, flash := l }) :
    Quiet s (s.onPort f) := by
  obtain ⟨b, l, hb⟩ := h s.pd
  exact s.onPort_still f (by rw [hb]) (by rw [hb]) (by rw [hb])

theorem State.pdWriteActs_quiet (s : State) (off : Nat) (v : Word) : Quiet s (s.pdWriteActs off v) := by
  have hhold : Quiet s ((List.range 8).foldl (fun s c => if bits v.toNat c 1 = 0 then s.onChan c Chan.holdRelease else s)
      (s.onPort (fun p => { p with flash := { p.flash with hold := v.toNat % 256 } }))) :=
    (s.onPort_still _ rfl rfl rfl).trans (Quiet.foldl _ _ (fun s c => Quiet.ite (s.onChan_quiet c _) (Quiet.refl s)) _)
  have hsnap : Quiet s (match pdBank (F.PD_SNAP_OFFSET.of v) with
      | some los => s.onPort (fun p => { p with bank := if v.getLsbD 31 then p.bank.unsnap los else p.bank.snap pdRegs los })
      | none => if v = 0 then s else s.pdFlag F.PD_STATUS_SNAP_ERR F.PD_FLAG_COUNT_SNAP_ERR) := by
    split
    · exact s.onBank_quiet _ fun _ => ⟨_, _, rfl⟩
    · exact Quiet.ite (Quiet.refl s) (s.pdFlag_quiet _ _)
  have hsec : Quiet s (s.onPort (fun p =>
      let p1 := if p.meshOpen && v.getLsbD 0 then p.setFld (alarmFlag 0) 1 else p
      if s.cell.broken && v.getLsbD 1 then p1.setFld (alarmFlag 1) 1 else p1)) := by
    refine s.onBank_quiet _ fun p => ?_
    dsimp only
    split <;> split <;> exact ⟨_, _, rfl⟩
  unfold State.pdWriteActs
  split
  · exact s.onPort_still _ rfl rfl rfl
  split
  · exact hhold
  split
  · exact Quiet.ite (s.onBank_quiet _ fun _ => ⟨_, _, rfl⟩) (Quiet.refl s)
  split
  · exact hsnap
  split
  · exact hsec.trans (State.settleAlarm_quiet _)
  split
  · exact Quiet.ite (s.onBank_quiet _ fun _ => ⟨_, _, rfl⟩) (Quiet.refl s)
  split
  · exact Quiet.ite s.bindCell_quiet (Quiet.refl s)
  · exact Quiet.refl s

theorem State.pdWrite_quiet (s : State) (off : Nat) (v : Word) : Quiet s (s.pdWrite off v) := by
  unfold State.pdWrite
  split
  · exact Quiet.refl s
  · refine Quiet.trans ?_ (State.pdWriteActs_quiet _ _ _)
    have hbank (b : Bank) : Quiet s (s.onPort (fun p => { p with bank := b })) := s.onPort_still _ rfl rfl rfl
    exact Quiet.ite ((hbank _).trans (State.pdFlag_quiet _ _ _)) (hbank _)

theorem State.pdRmw_quiet (s : State) (off : Nat) (mask v : Word) : Quiet s (s.pdRmw off mask v).2 := by
  unfold State.pdRmw
  split
  · exact Quiet.refl s
  · exact s.pdWrite_quiet _ _

theorem State.afterMg1_quiet (s : State) (d : Datagram) (good : State → State) (h : ∀ u, Quiet u (good u)) : Quiet s (s.afterMg1 d good) :=
  (s.strobeMg_quiet 2).trans (Quiet.ite (h _) (State.replyM_quiet _ _ _ _ _))

theorem State.sigFail_quiet (s : State) : Quiet s s.sigFail := by
  have h : Quiet s (s.onPort (fun p => { p with sigFails := p.sigFails ++ [p.clock] })) := s.onPort_still _ rfl rfl rfl
  exact Quiet.ite (h.trans (State.alarm_quiet _ _)) h

/-! ## The command port -/

theorem State.replyPort_quiet (s : State) (d : Datagram) (st : Status) : Quiet s (s.replyPort d st) := by
  unfold State.replyPort
  by_cases h : d.session = 0
  · rw [if_pos h]
    exact s.draw_quiet.trans (State.deliver_quiet _ _ _)
  · rw [if_neg h]
    exact s.deliver_quiet _ _

theorem State.admit0_quiet (s : State) (d : Datagram) : Quiet s (s.admit0 d) := by
  unfold State.admit0
  dsimp only
  refine Quiet.ite (Quiet.refl s) (Quiet.ite (s.replyPort_quiet _ _) ?_)
  split
  · exact s.replyPort_quiet _ _
  · exact s.onPort_still _ rfl rfl rfl

theorem State.admitTagged_quiet (s : State) (d : Datagram) : Quiet s (s.admitTagged d) := by
  have hcount : Quiet s (s.onPort (fun p => { p with bank := p.bank.add64 pdRegs R.PD_CMD_LO 1 })) := s.onPort_still _ rfl rfl rfl
  unfold State.admitTagged
  split
  · exact s.pdFlag_quiet _ _
  · refine Quiet.ite (s.pdFlag_quiet _ _) (Quiet.ite (s.replyPort_quiet _ _) ?_)
    split
    · exact s.deliver_quiet _ _
    · exact s.onPort_still _ rfl rfl rfl
    · exact Quiet.refl s
    · exact s.replyPort_quiet _ _
    · exact Quiet.ite (hcount.trans (State.onChan_quiet _ _ _))
        (hcount.trans ((State.onSession_quiet _ _ _).trans (State.flushM_quiet _ _ _)))

theorem State.crownAct_quiet (s : State) (c : Nat) (a : CrownAccess) (place : CrownPlace) : Quiet s (s.crownAct c a place) := by
  unfold State.crownAct
  dsimp only
  split
  case h_4 => exact (s.pdReadCheck_quiet _ _).trans (State.onChan_quiet _ _ _)
  case h_5 => exact Quiet.refl s
  case h_10 => exact Quiet.refl s
  all_goals exact s.onChan_quiet _ _

/-! ## Power, heat and supply -/

theorem State.latch_quiet (s : State) (b : Nat) : Quiet s (s.latch b) := s.onPort_still _ rfl rfl rfl

theorem State.allOff_quiet (s : State) : Quiet s s.allOff := Quiet.foldl _ _ (fun s _ => s.onChan_quiet _ _) s

theorem State.startChan_quiet (s : State) (c : Nat) : Quiet s (s.startChan c) :=
  ((s.onPort_still _ rfl rfl rfl).trans (State.onChan_quiet _ _ _)).trans (State.recap_quiet _)

theorem State.shutdown_quiet (s : State) (st : Status) (detail : Nat) : Quiet s (s.shutdown st detail) :=
  ((((Quiet.foldl _ _ (fun t _ => t.flog_quiet _ _ _ _ _) s).trans (State.allOff_quiet _)).onPort _).trans
    (State.flog_quiet _ _ _ _ _ _)).trans (State.recap_quiet _)

theorem State.powerLost_quiet (s : State) : Quiet s s.powerLost := ⟨rfl, rfl, Nat.zero_le _, Nat.zero_le _, id⟩

theorem State.sent_quiet (s : State) (o : List Out) : Quiet s { s with out := o } := Quiet.of_pd rfl rfl rfl

theorem State.pmNack_quiet (s : State) : Quiet s s.pmNack :=
  ((s.pdFlag_quiet _ _).trans (State.latch_quiet _ _)).trans (State.sent_quiet _ _)

theorem State.pmbus_quiet (s : State) (ok : Bool) (f : State → State) (h : ∀ u, Quiet u (f u)) : Quiet s (s.pmbus ok f) :=
  Quiet.ite (s.sent_quiet _) (Quiet.ite s.pmNack_quiet (h s))

theorem State.noteHottest_quiet (s : State) : Quiet s s.noteHottest := by
  unfold State.noteHottest
  exact s.onPort_still _ rfl rfl rfl

theorem State.thermalTrip_quiet (s : State) : Quiet s s.thermalTrip := (s.latch_quiet 4).trans (State.shutdown_quiet _ _ _)

theorem State.coolantStop_quiet (s : State) : Quiet s s.coolantStop :=
  Quiet.ite (Quiet.refl s) (((s.onPort_still _ rfl rfl rfl).trans (State.pdFlag_quiet _ _ _)).trans (State.freezeAll_quiet _ _))

theorem State.coolantCheck_quiet (s : State) : Quiet s s.coolantCheck :=
  Quiet.ite ((s.onPort_still _ rfl rfl rfl).trans (State.thawAll_quiet _ _)) (Quiet.refl s)

theorem State.restartFigures_quiet (s : State) (ch : Nat) (gs : List Nat) : Quiet s (s.restartFigures ch gs) := by
  unfold State.restartFigures
  by_cases h : gs = []
  · simp only [h, if_true]
    exact s.onPort_still _ rfl rfl rfl
  · simp only [h, if_false]
    exact s.onPort_still _ rfl rfl rfl

/-! ## Bring-up and the defect map -/

theorem PortDie.putRegs_bank {α : Type} (l : List α) (off : α → Nat) (v : α → Word) (p : PortDie) :
    ∃ b, l.foldl (fun p x => p.putReg (off x) (v x)) p = { p with bank := b } := by
  induction l generalizing p with
  | nil => exact ⟨p.bank, rfl⟩
  | cons x t ih =>
    obtain ⟨b, hb⟩ := ih (p.putReg (off x) (v x))
    exact ⟨b, hb⟩

theorem PortDie.readFlash_bank (p : PortDie) : ∃ b, p.readFlash = { p with bank := b } :=
  PortDie.putRegs_bank p.flash.net (·.1) (·.2) _

theorem State.takeCell_quiet (s : State) : Quiet s s.takeCell := by
  refine s.onBank_quiet _ fun p => ?_
  have hcounts (l : List Nat) (p : PortDie) : ∃ b, l.foldl (fun (p : PortDie) i =>
      (p.putReg (R.MET_E_LO + 8 * i) (BitVec.ofNat 32 (s.cell.counts.getD i 0))).putReg (R.MET_E_LO + 8 * i + 4)
        (BitVec.ofNat 32 (s.cell.counts.getD i 0 / 2 ^ 32))) p = { p with bank := b } := by
    induction l generalizing p with
    | nil => exact ⟨p.bank, rfl⟩
    | cons i t ih =>
      obtain ⟨b, hb⟩ := ih ((p.putReg (R.MET_E_LO + 8 * i) (BitVec.ofNat 32 (s.cell.counts.getD i 0))).putReg (R.MET_E_LO + 8 * i + 4)
        (BitVec.ofNat 32 (s.cell.counts.getD i 0 / 2 ^ 32)))
      exact ⟨b, hb⟩
  obtain ⟨b, hb⟩ := hcounts (List.range 9) p
  dsimp only
  rw [hb]
  exact ⟨_, _, rfl⟩

theorem State.checkCell_quiet (s : State) : Quiet s s.checkCell := by
  have h : Quiet s (if s.boundOk then s else (s.pdFlag F.MET_STATUS_UNBOUND F.MET_COUNT_UNBOUND).alarm 4) :=
    Quiet.ite (Quiet.refl s) ((s.pdFlag_quiet _ _).trans (State.alarm_quiet _ _))
  exact Quiet.ite h (h.trans (State.alarm_quiet _ _))

theorem State.romBoot_quiet (s : State) : Quiet s s.romBoot := by
  have hup (u : State) : Quiet u (u.onPort (fun p => { p.readFlash with boot := 3 })) := by
    obtain ⟨b, hb⟩ := u.pd.readFlash_bank
    exact u.onPort_still _ (by rw [hb]) (by rw [hb]) (by rw [hb])
  have hrun (k : Nat) (h : Bytes) (fb : Bool) : Quiet s (s.onPort (fun p => p.runImage k h fb)) := s.onPort_still _ rfl rfl rfl
  have hgo (k : Nat) (h : Bytes) (fb : Bool) := ((hrun k h fb).trans (hup _)).trans
    ((State.onPort_still _ (fun p => { p with power := { p.power with pwrOk := true } }) rfl rfl rfl).trans (State.checkCell_quiet _))
  have hrec : Quiet s (s.onPort (fun p => p.setFld F.PD_FW_RECOVERY 1)) := s.onPort_still _ rfl rfl rfl
  unfold State.romBoot
  dsimp only
  refine Quiet.ite (hup s) ?_
  split
  · exact hgo _ _ _
  · exact hgo _ _ _
  · exact (hrec.trans (hup _)).trans (State.alarm_quiet _ _)

theorem State.resetReleased_quiet (s : State) (imageA imageB : Option Bytes) (straps : BitVec 3) (ref : Bool) :
    Quiet s (s.resetReleased imageA imageB straps ref) :=
  ((s.onPort_still _ rfl rfl rfl).trans (State.takeCell_quiet _)).trans (Quiet.ite (State.romBoot_quiet _) (State.flog_quiet _ _ _ _ _ _))

theorem State.appendRecord_quiet (s : State) (kind chmask : Nat) (entries : List Bytes) : Quiet s (s.appendRecord kind chmask entries).2 := by
  have hfull : Quiet s (s.onPort (fun p => p.setFld F.PD_DMAP_FULL 1)) := s.onBank_quiet _ fun _ => ⟨_, _, rfl⟩
  unfold State.appendRecord
  dsimp only
  generalize (_ ++ List.flatMap id _ : Bytes) = body
  split
  · exact Quiet.refl s
  · split
    · exact hfull
    · exact s.draw_quiet.trans (State.onBank_quiet _ _ fun _ => ⟨_, _, rfl⟩)

theorem State.recordMap_quiet (s : State) (c kind : Nat) : Quiet s (s.recordMap c kind) := by
  unfold State.recordMap
  dsimp only
  generalize (_ ++ _ : List Bytes) = entries
  split
  · exact Quiet.refl s
  · have h := s.appendRecord_quiet kind (2 ^ c) entries
    generalize s.appendRecord kind (2 ^ c) entries = r at h ⊢
    split <;> exact h.trans (State.onChan_quiet _ _ _)

theorem State.noteLinkLost_quiet (s : State) (c : Nat) : Quiet s (s.noteLinkLost c) :=
  (s.pdFlag_quiet _ _).trans (State.flog_quiet _ _ _ _ _ _)

theorem State.noteMap_quiet (s : State) (m : MapRead) : Quiet s (s.noteMap m) :=
  (s.onBank_quiet _ fun _ => ⟨_, _, rfl⟩).trans (Quiet.foldl _ _ (fun t _ => t.flog_quiet _ _ _ _ _) _)

theorem State.stepMap_quiet (s : State) (c : Nat) : Quiet s (s.stepMap c) :=
  Quiet.ite (s.onChan_quiet _ _) ((s.noteMap_quiet _).trans (State.onChan_quiet _ _ _))

theorem State.bringupEnds_quiet (s : State) (c : Nat) : Quiet s (s.bringupEnds c) :=
  Quiet.ite (((s.onChan_quiet _ _).trans (State.noteLinkLost_quiet _ _)).trans (State.onChan_quiet _ _ _)) (s.onChan_quiet _ _)

theorem State.stepEnds_quiet (s : State) (c step : Nat) (badTiles badRouters : List Site) (meas : Bytes) (hold : Nat) :
    Quiet s (s.stepEnds c step badTiles badRouters meas hold) := by
  have hact (f : Chan → Chan) : Quiet s (s.onChan c f) := s.onChan_quiet c f
  unfold State.stepEnds
  dsimp only
  exact Quiet.ite (hact _) <| Quiet.ite (hact _) <|
    Quiet.ite (Quiet.ite (hact _) ((hact _).trans (State.alarm_quiet _ _))) <| Quiet.ite (hact _) <| Quiet.ite (s.stepMap_quiet c) <|
    Quiet.ite (hact _) <| Quiet.ite ((s.recordMap_quiet _ _).trans (State.onChan_quiet _ _ _)) <| Quiet.ite (hact _) <|
    Quiet.ite ((hact _).trans (State.settleServices_quiet _)) (hact _)

theorem State.breachHeard_quiet (s : State) : Quiet s s.breachHeard :=
  ((s.pdFlag_quiet _ _).trans (State.onPort_still _ _ rfl rfl rfl)).trans (State.alarm_quiet _ _)

theorem State.tick_quiet (s : State) : Quiet s s.tick :=
  Quiet.ite (Quiet.refl s) ((s.onPort_still _ rfl rfl rfl).trans (Quiet.foldl _ _ (fun s c => s.onChan_quiet c _) _))

end Sys2Proof.Machine
end

section
/-! PROOFS. Commands that are quiet, one lemma each. -/

namespace Sys2Proof.Machine

/-! ## Module commands that open no session -/

section
variable (s : State) (q : Issue)

/-- A command whose outcome is a quiet step. -/
def Instr.QuietAt (i : Instr) (s : State) : Prop := ∃ t, exec i s = .next t ∧ Quiet s t

theorem sessionClose_quiet : Instr.QuietAt (.sessionClose q) s :=
  ⟨_, rfl, State.modCmd_quiet _ _ _ _ _ _ _ fun _ u => (u.replyM_quiet _ _ _ _).trans (State.endSession_quiet _ _)⟩

theorem queueClaim_quiet (ch qn : Nat) (seq : Word) : Instr.QuietAt (.queueClaim q ch qn seq) s :=
  ⟨_, rfl, State.modCmd_quiet _ _ _ _ _ _ _ fun _ u => Quiet.ite (u.replyM_quiet _ _ _ _) <| Quiet.ite (u.replyM_quiet _ _ _ _) <|
    (u.onChan_quiet _ _).trans (State.replyM_quiet _ _ _ _ _)⟩

theorem queueRelease_quiet (ch qn : Nat) : Instr.QuietAt (.queueRelease q ch qn) s :=
  ⟨_, rfl, State.modCmd_quiet _ _ _ _ _ _ _ fun _ u => Quiet.ite (u.replyM_quiet _ _ _ _) <| Quiet.ite (u.replyM_quiet _ _ _ _) <|
    (u.onChan_quiet _ _).trans (State.replyM_quiet _ _ _ _ _)⟩

theorem moduleIdSet_quiet (modid fm : Nat) : Instr.QuietAt (.moduleIdSet q modid fm) s :=
  ⟨_, rfl, State.modCmd_quiet _ _ _ _ _ _ _ fun _ u => ((u.onPort_still _ rfl rfl rfl).trans
    (Quiet.foldl _ _ (fun u c => u.onChan_quiet c _) _)).trans (State.replyM_quiet _ _ _ _ _)⟩

theorem eventSubscribe_quiet (addr : Bytes) (port chmask : Nat) : Instr.QuietAt (.eventSubscribe q addr port chmask) s :=
  ⟨_, rfl, State.modCmd_quiet _ _ _ _ _ _ _ fun _ u => (u.onSession_quiet _ _).trans (State.replyM_quiet _ _ _ _ _)⟩

theorem serviceMove_quiet (services anchor : Nat) : Instr.QuietAt (.serviceMove q services anchor) s :=
  ⟨_, rfl, State.modCmd_quiet _ _ _ _ _ _ _ fun _ u => ((u.onPort_still _ rfl rfl rfl).trans (State.settleServices_quiet _)).trans
    (State.replyM_quiet _ _ _ _ _)⟩

theorem netSet_quiet (ip6 : Bytes) (len6 : Nat) (ip4 : Bytes) (len4 : Nat) : Instr.QuietAt (.netSet q ip6 len6 ip4 len4) s :=
  ⟨_, rfl, State.modCmd_quiet _ _ _ _ _ _ _ fun _ u => (((Quiet.foldl _ _ (fun u _ => u.pdWrite_quiet _ _) u).trans
    ((State.pdWrite_quiet _ _ _).trans (State.pdWrite_quiet _ _ _))).trans (State.replyM_quiet _ _ _ _ _)).trans (State.strobeMg_quiet _ _)⟩

theorem capSet_quiet (watts : Nat) : Instr.QuietAt (.capSet q watts) s :=
  ⟨_, rfl, State.modCmd_quiet _ _ _ _ _ _ _ fun d u => (u.pdRmw_quiet _ _ _).trans
    (State.afterMg1_quiet _ d _ fun v => v.replyM_quiet _ _ _ _)⟩

theorem orphanCapSet_quiet (watts : Nat) : Instr.QuietAt (.orphanCapSet q watts) s :=
  ⟨_, rfl, State.modCmd_quiet _ _ _ _ _ _ _ fun d u => (u.pdRmw_quiet _ _ _).trans
    (State.afterMg1_quiet _ d _ fun v => v.replyM_quiet _ _ _ _)⟩

theorem attest_quiet (nonce : Bytes) : Instr.QuietAt (.attest q nonce) s :=
  ⟨_, rfl, State.modCmd_quiet _ _ _ _ _ _ _ fun _ u => u.draw_quiet.trans (State.replyM_quiet _ _ _ _ _)⟩

theorem State.bumpKeys_quiet (keys : PortDie → List KeyRec) : Quiet s (s.onPort (fun p => { p.bumpCounter with keys := keys p })) :=
  (s.onBank_quiet PortDie.bumpCounter fun _ => ⟨_, _, rfl⟩).trans
    ((s.onPort PortDie.bumpCounter).onPort_still (fun p => { p with keys := keys s.pd }) rfl rfl rfl)

theorem keyAdd_quiet (record : Bytes) : Instr.QuietAt (.keyAdd q record) s :=
  ⟨_, rfl, State.modCmd_quiet _ _ _ _ _ _ _ fun _ u => Quiet.ite (u.replyM_quiet _ _ _ _) <|
    Quiet.ite ((u.replyM_quiet _ _ _ _).trans (State.sigFail_quiet _)) <| Quiet.ite (u.replyM_quiet _ _ _ _) <|
    Quiet.ite (u.replyM_quiet _ _ _ _) <| (u.bumpKeys_quiet _).trans (State.replyM_quiet _ _ _ _ _)⟩

theorem keyRemove_quiet (fpr sig : Bytes) : Instr.QuietAt (.keyRemove q fpr sig) s := by
  refine ⟨_, rfl, State.modCmd_quiet _ _ _ _ _ _ _ fun d u => ?_⟩
  refine Quiet.ite ((u.replyM_quiet _ _ _ _).trans (State.sigFail_quiet _)) ?_
  split
  · exact u.badParamM_quiet _ _
  · exact Quiet.ite (u.replyM_quiet _ _ _ _) (((u.bumpKeys_quiet _).trans (State.replyM_quiet _ _ _ _ _)).trans
      (Quiet.foldl _ _ (fun u i => u.endSession_quiet i) _))

theorem alarmCfg_quiet (cls resp : Nat) : Instr.QuietAt (.alarmCfg q cls resp) s :=
  ⟨_, rfl, State.modCmd_quiet _ _ _ _ _ _ _ fun _ u => ((u.pdRmw_quiet _ _ _).trans (State.strobeMg_quiet _ _)).trans
    (State.replyM_quiet _ _ _ _ _)⟩

theorem metInfo_quiet : Instr.QuietAt (.metInfo q) s :=
  ⟨_, rfl, State.modCmd_quiet _ _ _ _ _ _ _ fun _ u => Quiet.ite (u.replyM_quiet _ _ _ _) (u.replyM_quiet _ _ _ _)⟩

/-! ## Register and log commands, on a channel or on the module -/

theorem regRead_quiet (addr : Word) (n view : Nat) : Instr.QuietAt (.regRead q addr n view) s :=
  ⟨_, rfl, Quiet.ite
    (State.modCmd_quiet _ _ _ _ _ _ _ fun _ u => (State.readGlobal_quiet view _ u).trans (State.replyM_quiet _ _ _ _ _))
    (State.chanCmdS_quiet _ _ _ _ _ _ _ fun _ u => Quiet.ite ((State.readGlobal_quiet view _ u).trans (State.onChan_quiet _ _ _)) (u.onChan_quiet _ _))⟩

theorem regWrite_quiet (addr : Word) (n : Nat) (vs : List Word) : Instr.QuietAt (.regWrite q addr n vs) s :=
  ⟨_, rfl, Quiet.ite
    (State.modCmd_quiet _ _ _ _ _ _ _ fun _ u => Quiet.ite (u.replyM_quiet _ _ _ _)
      ((Quiet.foldl _ _ (fun u _ => u.pdWrite_quiet _ _) u).trans (State.replyM_quiet _ _ _ _ _)))
    (s.chanCmd_quiet _ _ _ _ _ _)⟩

theorem regRmw_quiet (addr mask value : Word) : Instr.QuietAt (.regRmw q addr mask value) s :=
  ⟨_, rfl, Quiet.ite
    (State.modCmd_quiet _ _ _ _ _ _ _ fun _ u => Quiet.ite (u.replyM_quiet _ _ _ _)
      (((u.pdReadCheck_quiet _ _).trans (State.pdRmw_quiet _ _ _ _)).trans (State.replyM_quiet _ _ _ _ _)))
    (s.chanCmd_quiet _ _ _ _ _ _)⟩

theorem strobe_quiet (groups : BitVec 16) : Instr.QuietAt (.strobe q groups) s :=
  ⟨_, rfl, Quiet.ite (State.modCmd_quiet _ _ _ _ _ _ _ fun _ u => (u.strobeMg_quiet _).trans (State.replyM_quiet _ _ _ _ _))
    (Quiet.ite (Quiet.refl s) (s.chanCmd_quiet _ _ _ _ _ _))⟩

theorem stageDiscard_quiet (groups : BitVec 16) : Instr.QuietAt (.stageDiscard q groups) s :=
  ⟨_, rfl, Quiet.ite (State.modCmd_quiet _ _ _ _ _ _ _ fun _ u => (u.onPort_still _ rfl rfl rfl).trans (State.replyM_quiet _ _ _ _ _))
    (s.chanCmd_quiet _ _ _ _ _ _)⟩

theorem snap_quiet (addr : Word) : Instr.QuietAt (.snap q addr) s := by
  refine ⟨_, rfl, Quiet.ite (State.modCmd_quiet _ _ _ _ _ _ _ fun d u => ?_) (s.chanCmd_quiet _ _ _ _ _ _)⟩
  split
  · exact (u.onPort_still _ rfl rfl rfl).trans (State.replyM_quiet _ _ _ _ _)
  · exact u.badParamM_quiet _ _

theorem snapRelease_quiet (c : Option (Fin 8)) (off : Nat) : Instr.QuietAt (.snapRelease c off) s := by
  cases c with
  | none => exact ⟨_, rfl, Quiet.ite (s.pdWrite_quiet _ _) (Quiet.refl s)⟩
  | some c => exact ⟨_, rfl, s.onChan_quiet _ _⟩

theorem registerWrite_quiet (c : Option (Fin 8)) (off : Nat) (v : Word) : Instr.QuietAt (.registerWrite c off v) s := by
  cases c with
  | none => exact ⟨_, rfl, Quiet.ite (s.pdWrite_quiet _ _) (Quiet.refl s)⟩
  | some c => exact ⟨_, rfl, s.onChan_quiet _ _⟩

theorem paritySweep_quiet (c : Option (Fin 8)) : Instr.QuietAt (.paritySweep c) s := by
  cases c with
  | none => exact ⟨_, rfl, Quiet.ite ((Quiet.foldl _ _ (fun u o => u.pdCheckApplied_quiet o) s).trans
      (Quiet.foldl _ _ (fun u o => u.pdCheckStaged_quiet o) _)) (Quiet.refl s)⟩
  | some c => exact ⟨_, rfl, s.onChan_quiet _ _⟩

/-! ## Commands that wait, and their completions -/

theorem channelStart_quiet : Instr.QuietAt (.channelStart q) s :=
  ⟨_, rfl, Quiet.ite (((s.chanCmd_quiet _ _ _ _ _ _).onPort _).trans (State.recap_quiet _)) (s.chanCmd_quiet _ _ _ _ _ _)⟩

theorem groveLoadComplete_quiet : Instr.QuietAt (.groveLoadComplete q) s := by
  obtain ⟨u, hu⟩ : ∃ u, s.loadEnds q = .next u := ⟨_, rfl⟩
  change ∃ t, execGroveLoadComplete q s = .next t ∧ Quiet s t
  unfold execGroveLoadComplete
  rw [hu]
  exact ⟨_, rfl, (completeStep_quiet s q _ _ u hu).trans (State.restartFigures_quiet _ _ _)⟩

theorem bistRunComplete_quiet (badTiles badRouters : List (Nat × Nat)) : Instr.QuietAt (.bistRunComplete q badTiles badRouters) s := by
  refine ⟨_, rfl, Quiet.ite (Quiet.refl s) ?_⟩
  split
  · exact Quiet.refl s
  · exact Quiet.ite (Quiet.refl s) (Quiet.ite (s.onChan_quiet _ _) (((s.onChan_quiet _ _).trans (State.recordMap_quiet _ _ _)).trans
      (State.onChan_quiet _ _ _)))

theorem fwUpdateComplete_quiet : Instr.QuietAt (.fwUpdateComplete q) s := by
  refine ⟨_, rfl, ?_⟩
  split
  · exact Quiet.refl s
  · exact Quiet.ite ((s.completeM_quiet _ _ _).trans (State.sigFail_quiet _))
      ((s.onPort_still _ rfl rfl rfl).trans (State.completeM_quiet _ _ _ _))

/-! ## Power, heat, alarms and bring-up -/

theorem crownCoreAccess_quiet (c : Fin 8) (a : CrownAccess) : Instr.QuietAt (.crownCoreAccess c a) s :=
  ⟨_, rfl, Quiet.ite (Quiet.refl s) (Quiet.ite (s.crownAct_quiet _ _ _) (s.onChan_quiet _ _))⟩

theorem commandDatagram_quiet (d : Datagram) : Instr.QuietAt (.commandDatagram d) s :=
  ⟨_, rfl, Quiet.ite (Quiet.refl s) (Quiet.ite (s.pdFlag_quiet _ _) (Quiet.ite (s.admit0_quiet d) (Quiet.ite (Quiet.refl s)
    (s.admitTagged_quiet d))))⟩

theorem networkProtocolPacket_quiet (p : NetPacket) : Instr.QuietAt (.networkProtocolPacket p) s := by
  refine ⟨_, rfl, Quiet.ite (Quiet.refl s) ?_⟩
  split
  · exact s.sent_quiet _
  · exact Quiet.refl s

theorem shareCompute_quiet : Instr.QuietAt .shareCompute s :=
  ⟨_, rfl, (Quiet.foldl _ _ (fun u c => u.onChan_quiet c _) s).trans (State.recap_quiet _)⟩

theorem supplySample_quiet (mv : Nat) : Instr.QuietAt (.supplySample mv) s := by
  have h : Quiet s (s.onPort (fun p => { p with power := { p.power with
      vin := mv, okSince := if 46000 ≤ mv ∧ mv ≤ 58000 then some (p.power.okSince.getD p.clock) else none } })) :=
    s.onPort_still _ rfl rfl rfl
  refine ⟨_, rfl, Quiet.ite (Quiet.ite (h.trans (State.powerLost_quiet _)) h) (Quiet.ite h (Quiet.trans ?_ (State.recap_quiet _)))⟩
  have hlow := Quiet.ite (p := mv < 46000) ((h.trans (State.onBank_quiet _ (·.setFld F.TH_MOD_STATUS_SUPPLY_LOW 1) fun _ => ⟨_, _, rfl⟩)).trans
    (State.latch_quiet _ 8)) h
  exact Quiet.ite ((hlow.trans (State.onBank_quiet _ _ fun _ => ⟨_, _, rfl⟩)).trans (State.flog_quiet _ _ _ _ _ _)) hlow

theorem supplyFreeze_quiet : Instr.QuietAt .supplyFreeze s :=
  ⟨_, rfl, Quiet.ite (Quiet.refl s) (((Quiet.foldl _ _ (fun u c => u.onChan_quiet c _) s).trans (State.freezeAll_quiet _ _)).trans
    (State.latch_quiet _ _))⟩

theorem orphanExpiry_quiet : Instr.QuietAt .orphanExpiry s :=
  ⟨_, rfl, Quiet.ite (Quiet.refl s) (((s.onPort_still _ rfl rfl rfl).trans (State.pdFlag_quiet _ _ _)).trans (State.recap_quiet _))⟩

theorem pmRead_quiet (code : Nat) (data : Bytes) : Quiet s (s.pmRead code data) := s.sent_quiet _

theorem mfrPlkCapWrite_quiet (ok : Bool) (w : BitVec 16) : Instr.QuietAt (.mfrPlkCapWrite ok w) s := by
  refine ⟨_, rfl, s.pmbus_quiet ok _ fun u => ?_⟩
  split
  · exact u.pmNack_quiet
  · exact ((u.onPort_still _ rfl rfl rfl).trans (State.recap_quiet _)).trans (State.sent_quiet _ _)

theorem tempSample_quiet (c : Fin 8) (temps : List Int) : Instr.QuietAt (.tempSample c temps) s := by
  refine ⟨_, rfl, ?_⟩
  have h (f : Chan → Chan) : Quiet s (s.onChan c f).noteHottest := (s.onChan_quiet _ _).trans (State.noteHottest_quiet _)
  exact Quiet.ite (Quiet.ite (h _) ((h _).trans (State.thermalTrip_quiet _)))
    (Quiet.ite ((h _).trans (State.coolantStop_quiet _)) ((h _).trans (State.coolantCheck_quiet _)))

theorem inletSample_quiet (t0 t1 : Int) : Instr.QuietAt (.inletSample t0 t1) s := by
  refine ⟨_, rfl, ?_⟩
  split
  · exact s.onPort_still _ rfl rfl rfl
  · exact s.onPort_still _ rfl rfl rfl

theorem fieldGate_quiet (c : Fin 8) (f : Fin 6) : Instr.QuietAt (.fieldGate c f) s :=
  ⟨_, rfl, Quiet.ite (Quiet.refl s) ((s.onChan_quiet _ _).trans (State.latch_quiet _ _))⟩

theorem flowLoss_quiet : Instr.QuietAt .flowLoss s := by
  have h : Quiet s (s.onPort (fun p => { p with power := { p.power with flowLoss := true } })) := s.onPort_still _ rfl rfl rfl
  exact ⟨_, rfl, Quiet.ite (h.trans (State.coolantStop_quiet _)) h⟩

theorem modResetDeassert_quiet (a b : Option Bytes) (straps : BitVec 3) (ref : Bool) : Instr.QuietAt (.modResetDeassert a b straps ref) s :=
  ⟨_, rfl, Quiet.ite (Quiet.refl s) (((s.onPort_still _ rfl rfl rfl).trans (State.resetReleased_quiet _ _ _ _ _)).trans
    (State.recap_quiet _))⟩

theorem bringupStepDone_quiet (c : Fin 8) (ok : Bool) (bt br : List (Nat × Nat)) (meas : Bytes) (hold : Nat) :
    Instr.QuietAt (.bringupStepDone c ok bt br meas hold) s :=
  ⟨_, rfl, Quiet.ite (Quiet.refl s) (Quiet.ite ((s.bringupEnds_quiet _).trans (State.recap_quiet _))
    ((s.stepEnds_quiet _ _ _ _ _ _).trans (State.recap_quiet _)))⟩

theorem pllUnlock_quiet (c : Fin 8) (refLost : Bool) : Instr.QuietAt (.pllUnlock c refLost) s :=
  ⟨_, rfl, Quiet.trans (Quiet.ite (Quiet.foldl _ _ (fun u c => u.onChan_quiet c _) s) (s.onChan_quiet _ _)) (State.settleServices_quiet _)⟩

theorem controllerLinkLost_quiet (c : Fin 8) : Instr.QuietAt (.controllerLinkLost c) s :=
  ⟨_, rfl, Quiet.ite (Quiet.refl s) (((s.noteLinkLost_quiet _).trans (State.onChan_quiet _ _ _)).trans (State.onChan_quiet _ _ _))⟩

theorem heartbeat_quiet (c : Fin 8) (sc sr : List (Nat × Nat)) : Instr.QuietAt (.heartbeat c sc sr) s :=
  ⟨_, rfl, Quiet.ite (Quiet.refl s) (Quiet.ite ((s.onChan_quiet _ _).trans (State.settleServices_quiet _))
    ((s.onChan_quiet _ _).trans (State.recordMap_quiet _ _ _)))⟩

theorem apportion_quiet (l : List (Nat × Nat × Nat)) : Instr.QuietAt (.apportion l) s :=
  ⟨_, rfl, Quiet.foldl _ _ (fun u _ => Quiet.ite (Quiet.refl u) (u.onPort_still _ rfl rfl rfl)) s⟩

theorem moduleReset_quiet : Instr.QuietAt .moduleReset s :=
  ⟨_, rfl, Quiet.ite (Quiet.refl s) ⟨rfl, rfl, Nat.zero_le _, Nat.zero_le _, id⟩⟩

theorem overvoltage_quiet : Instr.QuietAt .overvoltage s :=
  ⟨_, rfl, Quiet.ite (Quiet.refl s) (((s.allOff_quiet.onPort _).trans (State.flog_quiet _ _ _ _ _ _)).trans (State.recap_quiet _))⟩

theorem inputCollapse_quiet : Instr.QuietAt .inputCollapse s :=
  ⟨_, rfl, Quiet.ite (Quiet.refl s) ((s.allOff_quiet.onPort _).trans (State.recap_quiet _))⟩

end

end Sys2Proof.Machine
end

section
/-! PROOFS. Every step keeps the session bounds: a step is quiet, or is one of the few that change the cell or open a session. -/

namespace Sys2Proof.Machine

/-! ## Every other command is quiet -/

/-- The commands that change the heartwood cell, or may open a session. -/
def Instr.notQuiet : Instr → Bool
  | .sessionOpen .. | .sessionKey .. | .energyRead .. | .sealBreach | .cellEnergySample _ | .cellPowerLoss _ | .cellReport
  | .cellLinkTimeout | .powerOn .. => true
  | _ => false

/-- A command beyond one channel that neither changes the cell nor opens a session is quiet. -/
theorem exec_quiet_of_module (i : Instr) (s : State) (hw : i.within = none) (h : Instr.notQuiet i = false) : Instr.QuietAt i s := by
  have hbase (t : State) : Quiet t t := Quiet.refl t
  cases i <;> simp only [Instr.within, reduceCtorEq] at hw
  -- they change the cell or open a session
  case sessionOpen | sessionKey | energyRead | sealBreach | cellEnergySample | cellPowerLoss | cellReport | cellLinkTimeout | powerOn =>
    cases h
  -- commands of one channel's queue
  case channelFreeze | channelThaw | tileRead | tileWrite | nvmeTargetSet | dmaFetch | dmaStore | progLoad | progStop | groveLoad
    | groveUnload | groveStart | grovePause | groveResume | groveDrain | groveStatus | wsetStage | wsetStatus | wsetDiscard | baseDetach
    | verdictLog | suspectClear | restoreQuery | ringOrphans | thermalStatus | bistRun | linkLoopback | memRead | memWrite | wsetSwitch
    | ringWrite | ringRestore | defectMapRead =>
    exact ⟨_, rfl, State.chanCmd_quiet _ _ _ _ _ _ _⟩
  case channelStop => exact ⟨_, rfl, (s.chanCmd_quiet _ _ _ _ _ _).trans (State.recap_quiet _)⟩
  case channelStart q => exact channelStart_quiet s q
  case strobeAtBoundary => exact ⟨_, rfl, Quiet.ite (hbase s) (s.chanCmd_quiet _ _ _ _ _ _)⟩
  -- completions
  case dmaFetchComplete | dmaStoreComplete | progLoadComplete | wsetStageComplete | linkLoopbackComplete | restoreQueryComplete
    | ringOrphansComplete =>
    exact ⟨_, rfl, Quiet.ite (hbase s) (s.onChan_quiet _ _)⟩
  case groveLoadComplete q => exact groveLoadComplete_quiet s q
  case bistRunComplete q a b => exact bistRunComplete_quiet s q a b
  case fwUpdateComplete q => exact fwUpdateComplete_quiet s q
  -- commands of the module's queue that only reply
  case nop | moduleInfo | keyList | fwUpdate => exact ⟨_, rfl, State.modCmd_quiet _ _ _ _ _ _ _ fun _ u => u.replyM_quiet _ _ _ _⟩
  case powerStatus | logRead =>
    exact ⟨_, rfl, Quiet.ite (State.modCmd_quiet _ _ _ _ _ _ _ fun _ u => u.replyM_quiet _ _ _ _) (s.chanCmd_quiet _ _ _ _ _ _)⟩
  -- commands of the module's queue that act
  case sessionClose q => exact sessionClose_quiet s q
  case queueClaim q ch n seq => exact queueClaim_quiet s q ch n seq
  case queueRelease q ch n => exact queueRelease_quiet s q ch n
  case moduleIdSet q m f => exact moduleIdSet_quiet s q m f
  case eventSubscribe q a p m => exact eventSubscribe_quiet s q a p m
  case serviceMove q a b => exact serviceMove_quiet s q a b
  case netSet q a la b lb => exact netSet_quiet s q a la b lb
  case capSet q w => exact capSet_quiet s q w
  case orphanCapSet q w => exact orphanCapSet_quiet s q w
  case attest q n => exact attest_quiet s q n
  case keyAdd q r => exact keyAdd_quiet s q r
  case keyRemove q f sig => exact keyRemove_quiet s q f sig
  case alarmCfg q c r => exact alarmCfg_quiet s q c r
  case metInfo q => exact metInfo_quiet s q
  -- registers
  case regRead q a n v => exact regRead_quiet s q a n v
  case regWrite q a n vs => exact regWrite_quiet s q a n vs
  case regRmw q a m v => exact regRmw_quiet s q a m v
  case strobe q g => exact strobe_quiet s q g
  case stageDiscard q g => exact stageDiscard_quiet s q g
  case snap q a => exact snap_quiet s q a
  case snapRelease c off => exact snapRelease_quiet s c off
  case registerWrite c off v => exact registerWrite_quiet s c off v
  case paritySweep c => exact paritySweep_quiet s c
  case chHoldRelease | svnCommit | bind => exact ⟨_, rfl, Quiet.ite (s.pdWrite_quiet _ _) (hbase s)⟩
  -- the command port
  case commandDatagram d => exact commandDatagram_quiet s d
  case networkProtocolPacket p => exact networkProtocolPacket_quiet s p
  case nvmeTcpSegment => exact ⟨_, rfl, Quiet.ite (s.sent_quiet _) (hbase s)⟩
  case sessionIdleTimeout x => exact ⟨_, rfl, s.endSession_quiet x⟩
  case sessionOpenExpiry => exact ⟨_, rfl, s.onPort_quiet _ le_rfl (List.length_filter_le _ _) id⟩
  case crownCoreAccess c a => exact crownCoreAccess_quiet s c a
  -- power and heat
  case limiterTrim => exact ⟨_, rfl, (s.onChan_quiet _ _).trans (State.recap_quiet _)⟩
  case shareCompute => exact shareCompute_quiet s
  case supplySample mv => exact supplySample_quiet s mv
  case supplyFreeze => exact supplyFreeze_quiet s
  case supplyRecover => exact ⟨_, rfl, Quiet.ite (hbase s) (s.thawAll_quiet _)⟩
  case capStepAssert | capStepDeassert => exact ⟨_, rfl, (s.onPort_still _ rfl rfl rfl).trans (State.recap_quiet _)⟩
  case orphanExpiry => exact orphanExpiry_quiet s
  case tempSample c ts => exact tempSample_quiet s c ts
  case inletSample a b => exact inletSample_quiet s a b
  case fieldGate c f => exact fieldGate_quiet s c f
  case flowLoss => exact flowLoss_quiet s
  case flowLossDeassert => exact ⟨_, rfl, (s.onPort_still _ rfl rfl rfl).trans (State.coolantCheck_quiet _)⟩
  case coolantKeepExpiry => exact ⟨_, rfl, Quiet.ite (s.shutdown_quiet _ _) (hbase s)⟩
  case overvoltage => exact overvoltage_quiet s
  case inputCollapse => exact inputCollapse_quiet s
  -- PMBus
  case statusWord | readVin | readIin | readTemperature1 | readTemperature2 | readPin | mfrPlkCapRead | mfrPlkDemand | mfrPlkFloor
    | mfrPlkState =>
    exact ⟨_, rfl, s.pmbus_quiet _ _ fun u => pmRead_quiet u _ _⟩
  case clearFaults => exact ⟨_, rfl, s.pmbus_quiet _ _ fun u => (u.onPort_still _ rfl rfl rfl).trans (State.sent_quiet _ _)⟩
  case mfrPlkCapWrite ok w => exact mfrPlkCapWrite_quiet s ok w
  case pmbusUnknownCommand => exact ⟨_, rfl, Quiet.ite (hbase s) (s.pmbus_quiet _ _ State.pmNack_quiet)⟩
  case smbusAlertResponse => exact ⟨_, rfl, Quiet.ite (s.sent_quiet _) (s.sent_quiet _)⟩
  -- bring-up and faults
  case refArrival => exact ⟨_, rfl, Quiet.ite s.romBoot_quiet (hbase s)⟩
  case commandPortTrained => exact ⟨_, rfl, Quiet.ite (s.onPort_still _ rfl rfl rfl) (hbase s)⟩
  case channelRelease c => exact ⟨_, rfl, Quiet.ite (s.startChan_quiet c) (hbase s)⟩
  case bringupStepDone c ok a b m hold => exact bringupStepDone_quiet s c ok a b m hold
  case bringupStepTimeout => exact ⟨_, rfl, Quiet.ite (hbase s) ((s.bringupEnds_quiet _).trans (State.recap_quiet _))⟩
  case pllUnlock c r => exact pllUnlock_quiet s c r
  case controllerLinkLost c => exact controllerLinkLost_quiet s c
  case controllerLinkReturn => exact ⟨_, rfl, Quiet.ite (hbase s) ((s.onChan_quiet _ _).trans (State.recap_quiet _))⟩
  case uncorrectableControllerError => exact ⟨_, rfl, (s.onChan_quiet _ _).trans (State.settleServices_quiet _)⟩
  case heartbeat c a b => exact heartbeat_quiet s c a b
  case groveQuiesced => exact ⟨_, rfl, Quiet.ite (hbase s) ((s.onChan_quiet _ _).trans (State.recordMap_quiet _ _ _))⟩
  case moduleReset => exact moduleReset_quiet s
  case modResetDeassert a b st r => exact modResetDeassert_quiet s a b st r
  -- alarms and the cell's accounts
  case meshAlarm => exact ⟨_, rfl, Quiet.ite (hbase s) ((s.onPort_still _ rfl rfl rfl).trans (State.alarm_quiet _ _))⟩
  case glitch => exact ⟨_, rfl, Quiet.ite (s.alarm_quiet _) (hbase s)⟩
  case apportion l => exact apportion_quiet s l

theorem exec_quiet (i : Instr) (s : State) (h : Instr.notQuiet i = false) : Instr.QuietAt i s := by
  cases hw : i.within with
  | some c =>
    obtain ⟨f, hf⟩ := exec_within hw s
    exact ⟨_, hf, s.onChan_quiet c f⟩
  | none => exact exec_quiet_of_module i s hw h

/-! ## Session bounds -/

/-- A quiet step keeps the session bounds. -/
theorem Quiet.bound {s t : State} (h : Quiet s t) (hs : s.pd.SessionsBound) : t.pd.SessionsBound :=
  ⟨h.sessions.trans hs.1, h.opens.trans hs.2⟩

/-- A module command is quiet up to its effect and after it, or has no effect. -/
theorem State.modCmd_around (s : State) (q : Issue) (op : Nat) (fs : List (Nat × Nat × Nat)) (conf : Bool)
    (bad : Datagram → List (Bool × Nat)) (f : Datagram → State → State) :
    Quiet s (s.modCmd q op fs conf bad f) ∨ ∃ d u, Quiet s u ∧ Quiet (f d u) (s.modCmd q op fs conf bad f) := by
  unfold State.modCmd
  split
  · exact .inl (Quiet.refl s)
  · rename_i d _
    dsimp only
    have hend (w : State) (hw : Quiet s w ∨ ∃ u, Quiet s u ∧ w = f d u) : Quiet s (State.flushM d.session 65 w).sweepEnded ∨
        ∃ e u, Quiet s u ∧ Quiet (f e u) (State.flushM d.session 65 w).sweepEnded := by
      have hpost : Quiet w (State.flushM d.session 65 w).sweepEnded := (State.flushM_quiet _ _ _).trans (State.sweepEnded_quiet _)
      rcases hw with hw | ⟨u, hu, rfl⟩
      · exact .inl (hw.trans hpost)
      · exact .inr ⟨d, u, hu, hpost⟩
    refine hend _ ?_
    have hbegun : Quiet s (if d.session = 0 then s else
        s.onPort (fun p => p.onSession d.session (fun x => { x with queue := x.queue.begin d }))) :=
      Quiet.ite (Quiet.refl s) (s.onSession_quiet _ _)
    generalize (if d.session = 0 then s else s.onPort (fun p => p.onSession d.session (fun x => { x with queue := x.queue.begin d }))) = u
      at hbegun ⊢
    split
    · exact .inl (hbegun.trans (u.replyM_quiet _ _ _ _))
    · rename_i o _
      generalize (if d.session = 0 then true else roleOk (s.rights d.session 0xFF).1 o.role) = granted
      cases granted
      · exact .inl (hbegun.trans (u.replyM_quiet _ _ _ _))
      · cases conf
        · simp only [Bool.not_true, Bool.false_eq_true, if_false]
          split
          · exact .inl (hbegun.trans (u.badParamM_quiet _ _))
          · exact .inr ⟨u, hbegun, rfl⟩
        · exact .inl (hbegun.trans (u.replyM_quiet _ _ _ _))

/-- A module command keeps the session bounds where its effect does. -/
theorem State.modCmd_bound {s : State} (q : Issue) (op : Nat) (fs : List (Nat × Nat × Nat)) (conf : Bool)
    (bad : Datagram → List (Bool × Nat)) {f : Datagram → State → State}
    (hf : ∀ d u, u.pd.SessionsBound → (f d u).pd.SessionsBound) (hs : s.pd.SessionsBound) :
    (s.modCmd q op fs conf bad f).pd.SessionsBound := by
  rcases s.modCmd_around q op fs conf bad f with h | ⟨d, u, hu, h⟩
  · exact h.bound hs
  · exact h.bound (hf d u (hu.bound hs))

/-- There is room for one more waiting open. -/
theorem Quiet.addOpen_bound {s u : State} (h : Quiet s u) (o : PendingOpen) (hs : s.pd.SessionsBound) (hroom : s.pd.pending.length < 4) :
    (u.onPort (fun p => { p with pending := p.pending ++ [o] })).pd.SessionsBound := by
  refine ⟨(h.bound hs).1, ?_⟩
  have hlen : (u.pd.pending ++ [o]).length ≤ 4 := by
    have := h.opens
    rw [List.length_append, List.length_singleton]
    omega
  exact hlen

/-- There is room for one more session. -/
theorem Quiet.addSession_bound {s u : State} (h : Quiet s u) (x : Session) (l : List Datagram → List Datagram) (hs : s.pd.SessionsBound)
    (hroom : s.pd.sessions.length < 16) :
    (u.onPort (fun p => { p with sessions := p.sessions ++ [x], session0 := l p.session0 })).pd.SessionsBound := by
  refine ⟨?_, (h.bound hs).2⟩
  have hlen : (u.pd.sessions ++ [x]).length ≤ 16 := by
    have := h.sessions
    rw [List.length_append, List.length_singleton]
    omega
  exact hlen

/-- The first exchange adds one waiting open. -/
theorem State.openSession_bound {s : State} (d : Datagram) (fpr : Bytes) (idle : Nat) (hs : s.pd.SessionsBound)
    (hroom : s.pd.pending.length < 4) : (s.openSession d fpr idle).pd.SessionsBound := by
  have hdraws : Quiet s ((s.draw.2.drawBytes 32).2.draw.2.draw).2 :=
    ((s.draw_quiet.trans (State.drawBytes_quiet _ _)).trans (State.draw_quiet _)).trans (State.draw_quiet _)
  unfold State.openSession
  exact (State.replyM_quiet _ _ _ _ _).bound (hdraws.addOpen_bound _ hs hroom)

/-- The second exchange adds one session where both checks hold. -/
theorem State.keySession_bound {s : State} (d : Datagram) (o : PendingOpen) (ct sig : Bytes) (hs : s.pd.SessionsBound)
    (hroom : s.pd.sessions.length < 16) : (s.keySession d o ct sig).pd.SessionsBound := by
  have hpend : Quiet s (s.onPort (fun p => { p with pending := p.pending.filter (fun x => x.id ≠ o.id) })) :=
    s.onPort_quiet _ le_rfl (List.length_filter_le _ _) id
  have hfail := (hpend.trans ((State.replyM_quiet _ d .signatureFail [] []).trans (State.sigFail_quiet _))).bound hs
  unfold State.keySession
  dsimp only
  split
  · split
    · exact hfail
    · exact (State.deliver_quiet _ _ _).bound ((hpend.trans (State.draw_quiet _)).addSession_bound _ _ hs hroom)
  · exact hfail

theorem sessionOpen_bound (q : Issue) (fpr nonce : Bytes) (idle : Nat) {s : State} (hs : s.pd.SessionsBound) :
    ∃ t, exec (.sessionOpen q fpr nonce idle) s = .next t ∧ t.pd.SessionsBound := by
  refine ⟨_, rfl, State.modCmd_bound _ _ _ _ _ (fun d u hu => ?_) hs⟩
  have hreply (st : Status) (detail : Bytes) := (u.replyM_quiet d st detail []).bound hu
  split
  · exact hreply _ _
  · split
    · exact hreply _ _
    · split
      · exact hreply _ _
      · split
        · exact hreply _ _
        · next hroom => exact State.openSession_bound d _ _ hu (by omega)

theorem sessionKey_bound (q : Issue) (id : Nat) (ct sig : Bytes) {s : State} (hs : s.pd.SessionsBound) :
    ∃ t, exec (.sessionKey q id ct sig) s = .next t ∧ t.pd.SessionsBound := by
  refine ⟨_, rfl, State.modCmd_bound _ _ _ _ _ (fun d u hu => ?_) hs⟩
  have hreply (st : Status) (detail : Bytes) := (u.replyM_quiet d st detail []).bound hu
  split
  · exact hreply _ _
  · split
    · exact hreply _ _
    · split
      · exact hreply _ _
      · next hroom => exact State.keySession_bound d _ ct sig hu (by omega)

theorem energyRead_bound (q : Issue) (chmask : Nat) (nonce : Bytes) {s : State} (hs : s.pd.SessionsBound) :
    ∃ t, exec (.energyRead q chmask nonce) s = .next t ∧ t.pd.SessionsBound := by
  refine ⟨_, rfl, State.modCmd_bound _ _ _ _ _ (fun d u hu => ?_) hs⟩
  have hreply (st : Status) (detail : Bytes) := (u.replyM_quiet d st detail []).bound hu
  split
  · exact hreply _ _
  · split
    · exact hreply _ _
    · exact (State.replyM_quiet _ _ _ _ _).bound (u.draw_quiet.bound hu)

theorem powerOn_bound (a b : Option Bytes) (straps : BitVec 3) (ref : Bool) {s : State} (hs : s.pd.SessionsBound) :
    ∃ t, exec (.powerOn a b straps ref) s = .next t ∧ t.pd.SessionsBound := by
  refine ⟨_, rfl, ?_⟩
  split
  · exact hs
  · refine (Quiet.trans (Quiet.trans ?_ (State.resetReleased_quiet _ a b straps ref)) (State.recap_quiet _)).bound
      (s := (s.onPort (fun p => { p.fresh with
        powered := true, resetPin := false
        power := { p.fresh.power with
          vin := max p.fresh.power.vin 46000
          okSince := if max p.fresh.power.vin 46000 ≤ 58000 then some (p.fresh.power.okSince.getD p.fresh.clock) else none } })).cellStarts)
      ⟨Nat.zero_le _, Nat.zero_le _⟩
    exact Quiet.ite (State.pdFlag_quiet _ _ _) (Quiet.refl _)

/-- A change of the cell, and then quiet steps. -/
theorem Quiet.bound_of_cell {s t : State} {c : Cell} (h : Quiet { s with cell := c } t) (hs : s.pd.SessionsBound) : t.pd.SessionsBound :=
  h.bound hs

/-- Every command keeps the session bounds. -/
theorem exec_bound (i : Instr) {s : State} (hs : s.pd.SessionsBound) : ∃ t, exec i s = .next t ∧ t.pd.SessionsBound := by
  cases h : Instr.notQuiet i with
  | false =>
    obtain ⟨t, ht, hq⟩ := exec_quiet i s h
    exact ⟨t, ht, hq.bound hs⟩
  | true =>
    cases i <;> simp only [Instr.notQuiet, Bool.false_eq_true] at h
    case sessionOpen q f n x => exact sessionOpen_bound q f n x hs
    case sessionKey q x ct sig => exact sessionKey_bound q x ct sig hs
    case energyRead q m n => exact energyRead_bound q m n hs
    case powerOn a b st r => exact powerOn_bound a b st r hs
    case sealBreach => exact ⟨_, rfl, (Quiet.ite (State.breachHeard_quiet _) (Quiet.refl _)).bound_of_cell hs⟩
    case cellEnergySample => exact ⟨_, rfl, hs⟩
    case cellPowerLoss => exact ⟨_, rfl, hs⟩
    case cellReport =>
      refine ⟨_, rfl, ?_⟩
      split
      · exact hs
      · exact ((Quiet.ite (State.breachHeard_quiet _) (Quiet.refl _)).trans (State.takeCell_quiet _)).bound_of_cell hs
    case cellLinkTimeout =>
      refine ⟨_, rfl, ?_⟩
      split
      · exact hs
      · exact (State.pdFlag_quiet _ _ _).bound_of_cell hs

/-- Settles O6: a step is quiet, so that it opens no session, or is one of the few whose effect leaves room for what it opens. -/
theorem everyStepKeepsTheSessionBounds : Obligations.EveryStepKeepsTheSessionBounds := by
  intro s t h hs
  unfold step at h
  split at h
  · cases h
    exact s.tick_quiet.bound hs
  · next i rest _ =>
    obtain ⟨u, hu, hb⟩ := exec_bound i (s := { s with pending := rest }) hs
    cases hu.symm.trans h
    exact hb

end Sys2Proof.Machine
end

section
/-! PROOFS. The command port's input: datagram admission, network packets and NVMe/TCP segments. -/

namespace Sys2Proof.Machine

/-! ## Segments and packets -/

/-- The 1,024 ports of a channel name it. -/
theorem channel_of_port {c k port : Nat} (hk : k < 1024) (hp : port = 49152 + 1024 * c + k) : (port - 49152) / 1024 = c := by omega

/-- A segment to a channel's ports goes to its initiator while its controller link is up, and is dropped otherwise. -/
theorem nvmeTcpSegment_to_channel {s : State} {port c k : Nat} (body : Bytes) (hs : s.pd.serving = true) (hc : c < 8) (hk : k < 1024)
    (hp : port = 49152 + 1024 * c + k) : exec (.nvmeTcpSegment port body) s =
      .next (if (s.chan c).linkUp = true then { s with out := s.out ++ [.nvme c body] } else s) := by
  show execNvmeTcpSegment port body s = _
  have h49 : 49152 ≤ port := by omega
  simp [execNvmeTcpSegment, channel_of_port hk hp, hs, hc, h49]

/-- A segment to no channel's port is dropped. -/
theorem nvmeTcpSegment_elsewhere {s : State} {port : Nat} (body : Bytes) (hp : port < 49152 ∨ 57344 ≤ port) :
    exec (.nvmeTcpSegment port body) s = .next s := by
  show execNvmeTcpSegment port body s = _
  have h : ¬ (49152 ≤ port ∧ (port - 49152) / 1024 < 8) := by omega
  unfold execNvmeTcpSegment
  dsimp only
  rw [if_neg]
  simp only [Bool.and_eq_true, decide_eq_true_eq]
  exact fun hall => h ⟨hall.1.1.2, hall.1.2⟩

theorem nvmeTcpSegment_off {s : State} (port : Nat) (body : Bytes) (hs : s.pd.serving = false) :
    exec (.nvmeTcpSegment port body) s = .next s := by
  show execNvmeTcpSegment port body s = _
  simp [execNvmeTcpSegment, hs]

theorem networkProtocolPacket_off {s : State} (p : NetPacket) (hs : s.pd.serving = false) :
    exec (.networkProtocolPacket p) s = .next s := by
  show execNetworkProtocolPacket p s = _
  simp [execNetworkProtocolPacket, hs]

/-- What the port die answers a packet is sent. -/
theorem networkProtocolPacket_answered {s : State} {p : NetPacket} {b : Bytes} (hs : s.pd.serving = true) (hb : netAnswer s.pd p = some b) :
    exec (.networkProtocolPacket p) s = .next { s with out := s.out ++ [.net b] } := by
  show execNetworkProtocolPacket p s = _
  simp [execNetworkProtocolPacket, hs, hb]

theorem networkProtocolPacket_ignored {s : State} {p : NetPacket} (hs : s.pd.serving = true) (hb : netAnswer s.pd p = none) :
    exec (.networkProtocolPacket p) s = .next s := by
  show execNetworkProtocolPacket p s = _
  simp [execNetworkProtocolPacket, hs, hb]

/-- Settles O38. -/
theorem segmentsGoToTheirChannelsInitiator : Obligations.SegmentsGoToTheirChannelsInitiator := by
  unfold Obligations.SegmentsGoToTheirChannelsInitiator
  intro port body s hs
  refine ⟨fun c k hc hk hp hl => ?_, nvmeTcpSegment_elsewhere body⟩
  rw [nvmeTcpSegment_to_channel body hs hc hk hp, if_pos hl]

/-! ## Counting, refusing and taking a datagram -/

/-- Setting a flag of the port die and counting it: its companion counts. -/
theorem PortDie.fld_flag_count (p : PortDie) (f n : Fld) (h : f.lo + f.width ≤ 32) (hn : n.lo + n.width ≤ 32) (hd : f.Apart n) :
    (p.flag f n).fld n = min (p.fld n + 1) (2 ^ n.width - 1) := by
  unfold PortDie.flag PortDie.count
  refine (Bank.fld_count_same pdRegs _ n hn).trans ?_
  rw [show (p.setFld f 1).bank.fld pdRegs n = p.fld n from PortDie.fld_setFld_ne p f n 1 h (by unfold Fld.Apart at *; omega)]

/-- A reply without data to a command of an open session is answered when sent, and sending changes nothing else. -/
theorem State.deliver_refusal {s : State} {d : Datagram} {st : Status} {blk : Bytes}
    (ho : (s.pd.session d.session).isSome) (hn : blk.length = 16) (hh : blk.head? = some (BitVec.ofNat 8 st.code)) {u : State}
    (hu : u = s.deliver 0xFF (.reply d.channel d.queue d.session ⟨d.seq, d.opcode, d.origin, blk⟩)) :
    Answered s u d st [] ∧ u.chans = s.chans ∧ u.pd.sessions = s.pd.sessions := by
  obtain ⟨x, hx⟩ := Option.isSome_iff_exists.1 ho
  subst hu
  refine ⟨⟨blk, hn, hh, ?_⟩, by simp, by simp⟩
  simp [State.deliver, hx, replyPacket]

/-- A reply of the admission steps to a command of an open session is answered, and changes nothing but what is sent. -/
theorem State.replyPort_refuses {s : State} {d : Datagram} (st : Status) (hd : d.session ≠ 0) (ho : (s.pd.session d.session).isSome) :
    Answered s (s.replyPort d st) d st [] ∧ (s.replyPort d st).chans = s.chans ∧ (s.replyPort d st).pd.sessions = s.pd.sessions := by
  have hr : ∃ blk : Bytes, blk.length = 16 ∧ blk.head? = some (BitVec.ofNat 8 st.code) ∧
      s.replyPort d st = s.deliver 0xFF (.reply d.channel d.queue d.session ⟨d.seq, d.opcode, d.origin, blk⟩) := by
    unfold State.replyPort
    rw [if_neg hd]
    dsimp only
    refine ⟨_, ?_, ?_, rfl⟩ <;> split <;> simp [Chan.block]
  obtain ⟨blk, hn, hh, hu⟩ := hr
  exact State.deliver_refusal ho hn hh hu

/-- No queue's head is answered on the spot: each is idle, or its command waits for its execution. -/
def Chan.Resting (c : Chan) : Prop :=
  c.linkLost = false ∧ ∀ r, (c.queue r).head = none ∨ ∃ d, (c.queue r).head = some d ∧ formatCheck true d.opcode d.params = none

theorem Chan.flushQueue_resting {c : Chan} (h : c.Resting) (q n : Nat) : Chan.flushQueue q n c = c := by
  cases n with
  | zero => rfl
  | succ n =>
    unfold Chan.flushQueue
    rcases h.2 q with hn | ⟨d, hd, hf⟩
    · rw [hn]
    · simp [hd, h.1, hf]

theorem Chan.flushQueues_resting {c : Chan} (h : c.Resting) : c.flushQueues = c := by
  unfold Chan.flushQueues
  generalize c.queues.map (·.1) = l
  induction l with
  | nil => rfl
  | cons q t ih => rw [List.foldl_cons, Chan.flushQueue_resting h, ih]

/-- The queues of an acting channel whose heads are not answered on the spot are those its act leaves. -/
theorem State.onChan_queue {s : State} {c : Nat} {f : Chan → Chan} (h : (f (s.chan c)).Resting) (r : Nat) :
    ((s.onChan c f).chan c).queue r = (f (s.chan c)).queue r := by
  have hr : ({ f (s.chan c) with outbox := [] } : Chan).flushQueues = { f (s.chan c) with outbox := [] } := Chan.flushQueues_resting h
  unfold State.onChan
  dsimp only
  rw [hr, State.chan_sweepEnded, State.chan_settleServices, State.follow_here]
  obtain ⟨o, ho⟩ := State.deliverAll_eq
    ((if (f (s.chan c)).linkLost then (f (s.chan c)).outbox.filter (fun e => !e.viaPort) else (f (s.chan c)).outbox) ++ []) c
    (s.setChan c { f (s.chan c) with outbox := [] })
  rw [ho]
  show ((s.setChan c { f (s.chan c) with outbox := [] }).chan c).queue r = _
  simp [Chan.queue]

/-- The head of an idle queue that takes a command is that command, if any. -/
theorem Queue.push_head {q : Queue} {d x : Datagram} (hq : q.head = none) (h : (q.push d).head = some x) : x = d := by
  unfold Queue.push Queue.head at h
  unfold Queue.head at hq
  dsimp only at h
  split at h
  · exact nomatch h
  · next hc =>
      rw [if_neg hc] at hq
      rw [List.find?_append, hq, Option.none_or] at h
      exact List.mem_singleton.1 (List.mem_of_find?_eq_some h)

/-- A channel whose queues were idle rests when one takes a command that an execution follows. -/
theorem Chan.push_resting {c : Chan} {d : Datagram} (hl : c.linkLost = false) (hf : formatCheck true d.opcode d.params = none)
    (hq : ∀ r, (c.queue r).head = none) : (c.setQueue d.queue ((c.queue d.queue).push d)).Resting := by
  refine ⟨hl, fun r => ?_⟩
  rw [Chan.queue_setQueue]
  by_cases hr : r = d.queue
  · rw [if_pos hr]
    cases hx : ((c.queue d.queue).push d).head with
    | none => exact .inl rfl
    | some x => exact .inr ⟨x, rfl, by rw [Queue.push_head (hq _) hx]; exact hf⟩
  · rw [if_neg hr]
    exact .inl (hq r)

/-! ## What each admission step decides -/

section
variable {s : State} {d : Datagram}

theorem commandDatagram_off (hs : s.pd.serving = false) : exec (.commandDatagram d) s = .next s := by
  show execCommandDatagram d s = _
  simp [execCommandDatagram, hs]

theorem commandDatagram_malformed (hs : s.pd.serving = true) (hf : formOk d = false) :
    exec (.commandDatagram d) s = .next (s.pdFlag F.PD_STATUS_DROP F.PD_DROP_COUNT_FORMAT) := by
  show execCommandDatagram d s = _
  simp [execCommandDatagram, hs, hf]

theorem commandDatagram_session0 (hs : s.pd.serving = true) (hf : formOk d = true) (h0 : d.session = 0) :
    exec (.commandDatagram d) s = .next (s.admit0 d) := by
  show execCommandDatagram d s = _
  simp [execCommandDatagram, hs, hf, h0]

theorem commandDatagram_recovery (hs : s.pd.serving = true) (hf : formOk d = true) (h0 : d.session ≠ 0)
    (hr : s.pd.fld F.PD_FW_RECOVERY = 1) : exec (.commandDatagram d) s = .next s := by
  show execCommandDatagram d s = _
  simp [execCommandDatagram, hs, hf, h0, hr]

theorem commandDatagram_tagged (hs : s.pd.serving = true) (hf : formOk d = true) (h0 : d.session ≠ 0)
    (hr : ¬ s.pd.fld F.PD_FW_RECOVERY = 1) : exec (.commandDatagram d) s = .next (s.admitTagged d) := by
  show execCommandDatagram d s = _
  simp [execCommandDatagram, hs, hf, h0, hr]

/-- The commands of session 0 that RECOVERY leaves (R395). -/
def BareOp (d : Datagram) : Prop := d.opcode = 0x00 ∨ d.opcode = 0x06

/-- The commands of session 0 that the module port takes. -/
def TakenBare (d : Datagram) : Prop := d.channel = 0xFF ∧ d.queue = 0 ∧ (BareOp d ∨ d.opcode = 0x01 ∨ d.opcode = 0x02)

/-- The two decisions of the admission of session 0, as it computes them. -/
theorem bareOp_iff (d : Datagram) : ((d.opcode = 0x00 || d.opcode = 0x06 : Bool) = true) ↔ BareOp d := by simp [BareOp]

theorem takenBare_iff (d : Datagram) : ((d.channel = 0xFF && d.queue = 0 &&
    ((d.opcode = 0x00 || d.opcode = 0x06) || d.opcode = 0x01 || d.opcode = 0x02) : Bool) = true) ↔ TakenBare d := by
  simp only [TakenBare, BareOp, Bool.and_eq_true, Bool.or_eq_true, decide_eq_true_eq, or_assoc, and_assoc]

theorem State.admit0_recovery (hr : s.pd.fld F.PD_FW_RECOVERY = 1) (hn : ¬ (TakenBare d ∧ BareOp d)) : s.admit0 d = s := by
  unfold State.admit0
  rw [← bareOp_iff, ← takenBare_iff, ← Bool.and_eq_true, Bool.not_eq_true] at hn
  dsimp only
  rw [hn]
  simp [hr]

theorem State.admit0_other (hr : ¬ s.pd.fld F.PD_FW_RECOVERY = 1) (hn : ¬ TakenBare d) :
    s.admit0 d = s.replyPort d (if s.pd.locked then .locked else .badOpcode) := by
  unfold State.admit0
  rw [← takenBare_iff, Bool.not_eq_true] at hn
  dsimp only
  rw [hn]
  simp [hr]

section
variable (ho : TakenBare d) (hr : s.pd.fld F.PD_FW_RECOVERY = 1 → BareOp d)
include ho hr

/-- A command that the module port takes of session 0 is judged by its format. -/
theorem State.admit0_refused {st : Status} (hf : formatCheck false d.opcode d.params = some st) : s.admit0 d = s.replyPort d st := by
  unfold State.admit0
  rw [← bareOp_iff] at hr
  rw [← takenBare_iff] at ho
  dsimp only
  rw [ho, hf]
  by_cases h : s.pd.fld F.PD_FW_RECOVERY = 1
  · rw [hr h]; simp
  · simp [h]

theorem State.admit0_waits (hf : formatCheck false d.opcode d.params = none) :
    s.admit0 d = s.onPort (fun p => { p with session0 := p.session0 ++ [d] }) := by
  unfold State.admit0
  rw [← bareOp_iff] at hr
  rw [← takenBare_iff] at ho
  dsimp only
  rw [ho, hf]
  by_cases h : s.pd.fld F.PD_FW_RECOVERY = 1
  · rw [hr h]; simp
  · simp [h]

end

/-! ## A datagram of an open session -/

theorem State.admitTagged_none (hx : s.pd.session d.session = none) : s.admitTagged d = s.pdFlag F.PD_STATUS_TAG_FAIL F.PD_DROP_COUNT_TAG := by
  unfold State.admitTagged
  rw [hx]

theorem State.admitTagged_forged {x : Session} (hx : s.pd.session d.session = some x) (ht : tagOk x d = false) :
    s.admitTagged d = s.pdFlag F.PD_STATUS_TAG_FAIL F.PD_DROP_COUNT_TAG := by
  unfold State.admitTagged
  simp [hx, ht]

theorem State.admitTagged_foreign {x : Session} (hx : s.pd.session d.session = some x) (ht : tagOk x d = true)
    (hq : s.queueOwned d = false) : s.admitTagged d = s.replyPort d .authFail := by
  unfold State.admitTagged
  simp [hx, ht, hq]

section
variable {x : Session} (hx : s.pd.session d.session = some x) (ht : tagOk x d = true) (hq : s.queueOwned d = true)
include hx ht hq

theorem State.admitTagged_resend {r : ReplyRec} (ha : (s.namedQueue d).admission d = .resend r) :
    s.admitTagged d = s.deliver 0xFF (.reply d.channel d.queue d.session r) := by
  unfold State.admitTagged
  simp [hx, ht, hq, ha]

theorem State.admitTagged_late (ha : (s.namedQueue d).admission d = .late) :
    s.admitTagged d = s.onPort (fun p => { p with late := p.late + 1 }) := by
  unfold State.admitTagged
  simp [hx, ht, hq, ha]

theorem State.admitTagged_drop (ha : (s.namedQueue d).admission d = .drop) : s.admitTagged d = s := by
  unfold State.admitTagged
  simp [hx, ht, hq, ha]

theorem State.admitTagged_noToken (ha : (s.namedQueue d).admission d = .noToken) : s.admitTagged d = s.replyPort d .noToken := by
  unfold State.admitTagged
  simp [hx, ht, hq, ha]

/-- An admitted datagram is counted and waits in the queue it names. -/
theorem State.admitTagged_take (ha : (s.namedQueue d).admission d = .take) :
    s.admitTagged d =
      let s1 := s.onPort (fun p => { p with bank := p.bank.add64 pdRegs R.PD_CMD_LO 1 })
      if d.channel < 8 then s1.onChan d.channel (fun c => c.setQueue d.queue ((c.queue d.queue).push d))
      else State.flushM d.session 65 (s1.onPort (fun p => p.onSession d.session (fun x => { x with queue := x.queue.push d }))) := by
  unfold State.admitTagged
  rw [hx]
  dsimp only
  rw [if_neg (by simp [ht]), if_neg (by simp [hq]), ha]

end

end

/-! ## What a queue decides (R292 step 5, R293) -/

section
variable {q : Queue} {d : Datagram}

theorem Queue.admission_late (h : 2 ^ 31 ≤ (d.seq - q.expect).toNat) (hn : ∀ r ∈ q.cache, r.seq ≠ d.seq) : q.admission d = .late := by
  have hf : q.cache.reverse.find? (fun r => r.seq = d.seq) = none := by
    rw [List.find?_eq_none]
    intro r hr
    simpa using hn r (List.mem_reverse.1 hr)
  unfold Queue.admission
  dsimp only
  rw [if_pos h, hf]

theorem Queue.admission_resend {r : ReplyRec} (h : 2 ^ 31 ≤ (d.seq - q.expect).toNat)
    (hr : q.cache.reverse.find? (fun r => r.seq = d.seq) = some r) : q.admission d = .resend { r with origin := d.origin } := by
  unfold Queue.admission
  dsimp only
  rw [if_pos h, hr]

theorem Queue.admission_noToken (h : (d.seq - q.expect).toNat < 2 ^ 31) (ht : 64 ≤ (d.seq - q.expect).toNat ∨ q.tokens = 0) :
    q.admission d = .noToken := by
  unfold Queue.admission
  dsimp only
  rw [if_neg (by omega), if_pos (by simpa using ht)]

theorem Queue.admission_drop (h : (d.seq - q.expect).toNat < 64) (ht : q.tokens ≠ 0) (hw : ∃ y ∈ q.waiting, y.seq = d.seq) :
    q.admission d = .drop := by
  unfold Queue.admission
  dsimp only
  rw [if_neg (by omega), if_neg (by simp only [Bool.or_eq_true, decide_eq_true_eq, not_or]; omega), if_pos (by simpa using hw)]

theorem Queue.admission_take (h : (d.seq - q.expect).toNat < 64) (ht : q.tokens ≠ 0) (hw : ∀ y ∈ q.waiting, y.seq ≠ d.seq) :
    q.admission d = .take := by
  unfold Queue.admission
  dsimp only
  rw [if_neg (by omega), if_neg (by simp only [Bool.or_eq_true, decide_eq_true_eq, not_or]; omega), if_neg (by simpa using hw)]

end

/-! ## The obligation -/

/-- Flagging and counting a datagram changes nothing else that its source sees. -/
theorem State.pdFlag_flagged (s : State) (f n : Fld) (h : f.lo + f.width ≤ 32) (hn : n.lo + n.width ≤ 32) (hw : 1 < 2 ^ f.width)
    (hd : f.Apart n) (hd' : n.Apart f) : (s.pdFlag f n).pd.fld f = 1 ∧ (s.pdFlag f n).pd.fld n = min (s.pd.fld n + 1) (2 ^ n.width - 1) ∧
      (s.pdFlag f n).out = s.out ∧ (s.pdFlag f n).chans = s.chans :=
  ⟨PortDie.fld_flag_same s.pd f n h hn hw hd', PortDie.fld_flag_count s.pd f n h hn hd, rfl, rfl⟩

theorem State.drop_flagged (s : State) :
    let u := s.pdFlag F.PD_STATUS_DROP F.PD_DROP_COUNT_FORMAT
    u.pd.fld F.PD_STATUS_DROP = 1 ∧ u.pd.fld F.PD_DROP_COUNT_FORMAT = min (s.pd.fld F.PD_DROP_COUNT_FORMAT + 1)
      (2 ^ F.PD_DROP_COUNT_FORMAT.width - 1) ∧ u.out = s.out ∧ u.chans = s.chans :=
  s.pdFlag_flagged _ _ (by decide) (by decide) (by decide) (.inl (by decide)) (.inl (by decide))

theorem State.tagFail_flagged (s : State) :
    let u := s.pdFlag F.PD_STATUS_TAG_FAIL F.PD_DROP_COUNT_TAG
    u.pd.fld F.PD_STATUS_TAG_FAIL = 1 ∧ u.pd.fld F.PD_DROP_COUNT_TAG = min (s.pd.fld F.PD_DROP_COUNT_TAG + 1)
      (2 ^ F.PD_DROP_COUNT_TAG.width - 1) ∧ u.out = s.out ∧ u.chans = s.chans :=
  s.pdFlag_flagged _ _ (by decide) (by decide) (by decide) (.inl (by decide)) (.inl (by decide))

/-- Settles O37: each admission step has its lemma, and the datagram goes through them in their order. -/
theorem datagramsAndNetworkPackets : Obligations.DatagramsAndNetworkPackets := by
  unfold Obligations.DatagramsAndNetworkPackets
  refine ⟨fun d s => ⟨fun hs => commandDatagram_off hs, fun hs => ⟨?_, ?_, ?_, ?_⟩⟩, fun p port body s => ⟨?_, ?_⟩⟩
  · intro hf
    exact ⟨_, commandDatagram_malformed hs hf, State.drop_flagged s⟩
  · intro hf h0
    rw [commandDatagram_session0 hs hf h0]
    refine ⟨fun hr hn => by rw [State.admit0_recovery hr hn], fun hr hn => by rw [State.admit0_other hr hn], fun ho hr => ?_⟩
    exact ⟨fun st hst => by rw [State.admit0_refused ho hr hst], fun hn => by rw [State.admit0_waits ho hr hn]⟩
  · exact fun hf h0 hr => commandDatagram_recovery hs hf h0 hr
  · intro hf h0 hr
    rw [commandDatagram_tagged hs hf h0 hr]
    refine ⟨fun hx => ⟨_, by rw [State.admitTagged_none hx], State.tagFail_flagged s⟩, fun x hx =>
      ⟨fun ht => ⟨_, by rw [State.admitTagged_forged hx ht], State.tagFail_flagged s⟩, fun ht =>
        ⟨fun hq => ⟨_, by rw [State.admitTagged_foreign hx ht hq], State.replyPort_refuses _ h0 (by simp [hx])⟩, fun hq =>
          ?_⟩⟩⟩
    refine ⟨?_, ?_, ?_, ?_, ?_⟩
    · intro ha hn
      rw [State.admitTagged_late hx ht hq (Queue.admission_late ha hn)]
    · intro ha r hr
      rw [State.admitTagged_resend hx ht hq (Queue.admission_resend ha hr)]
      simp [State.deliver, hx]
    · intro ha hn
      rw [State.admitTagged_noToken hx ht hq (Queue.admission_noToken ha hn)]
      exact ⟨_, rfl, State.replyPort_refuses _ h0 (by simp [hx])⟩
    · intro ha hn hw
      rw [State.admitTagged_drop hx ht hq (Queue.admission_drop ha hn hw)]
    · intro ha hn hw
      rw [State.admitTagged_take hx ht hq (Queue.admission_take ha hn hw)]
      dsimp only
      refine ⟨fun hc => by rw [if_pos hc], fun hc => by rw [if_neg (by omega)], fun hc hf hl hi => ⟨_, by rw [if_pos hc], fun r => ?_⟩⟩
      rw [State.onChan_queue (by rw [State.chan_onPort]; exact Chan.push_resting hl hf hi), State.chan_onPort, Chan.queue_setQueue]
      simp [State.namedQueue, hc]
  · exact fun hs => ⟨networkProtocolPacket_off p hs, nvmeTcpSegment_off port body hs⟩
  · intro hs
    refine ⟨fun b hb => networkProtocolPacket_answered hs hb, networkProtocolPacket_ignored hs, ⟨rfl, rfl⟩, fun c k hc hk hp hl => ?_⟩
    rw [nvmeTcpSegment_to_channel body hs hc hk hp, if_neg (by simp [hl])]

end Sys2Proof.Machine
end

section
/-! PROOFS. Register accesses of the port die leave the open sessions. -/

namespace Sys2Proof.Machine

/-- The open sessions are as they were. -/
def KeepsSessions (s t : State) : Prop := t.pd.sessions = s.pd.sessions

theorem KeepsSessions.refl (s : State) : KeepsSessions s s := rfl

theorem KeepsSessions.trans {a b c : State} (h : KeepsSessions a b) (k : KeepsSessions b c) : KeepsSessions a c := Eq.trans k h

theorem KeepsSessions.ite {p : Prop} [Decidable p] {s a b : State} (ha : KeepsSessions s a) (hb : KeepsSessions s b) :
    KeepsSessions s (if p then a else b) := by
  split <;> assumption

theorem KeepsSessions.foldl {α : Type} (l : List α) (f : State → α → State) (h : ∀ s a, KeepsSessions s (f s a)) (s : State) :
    KeepsSessions s (l.foldl f s) := by
  induction l generalizing s with
  | nil => exact KeepsSessions.refl s
  | cons a t ih => exact (h s a).trans (ih _)

/-- A change of the port die that does not look at its sessions. -/
theorem State.onPort_keepsSessions (s : State) (f : PortDie → PortDie) (h : ∀ p, (f p).sessions = p.sessions := by exact fun _ => rfl) :
    KeepsSessions s (s.onPort f) := h s.pd

theorem State.onChan_keepsSessions (s : State) (c : Nat) (f : Chan → Chan) : KeepsSessions s (s.onChan c f) :=
  PortDie.core_sessions (s.onChan_core c f)

/-- Every open session is the one it was. -/
theorem KeepsSessions.session {s t : State} (h : KeepsSessions s t) (id : Nat) : t.pd.session id = s.pd.session id := by
  unfold PortDie.session
  rw [show t.pd.sessions = s.pd.sessions from h]

theorem State.pdFlag_keepsSessions (s : State) (f n : Fld) : KeepsSessions s (s.pdFlag f n) := s.onPort_keepsSessions _

theorem State.deliver_keepsSessions (s : State) (ch : Nat) (e : Emit) : KeepsSessions s (s.deliver ch e) := by
  unfold KeepsSessions
  rw [State.deliver_pd]

theorem State.settleServices_keepsSessions (s : State) : KeepsSessions s s.settleServices := rfl

theorem State.logClock_keepsSessions (s : State) (ch : Option Nat) : KeepsSessions s (s.logClock ch).2 := by
  unfold State.logClock
  split
  · exact KeepsSessions.refl s
  · split
    · exact s.onPort_keepsSessions (fun p => { p with free := p.free + 1 })
    · exact KeepsSessions.refl s

theorem State.flog_keepsSessions (s : State) (st : Status) (src code : Nat) (ch : Option Nat) (arg : BitVec 64) :
    KeepsSessions s (s.flog st src code ch arg) := by
  have h := s.logClock_keepsSessions ch
  unfold State.flog
  generalize s.logClock ch = r at h ⊢
  refine h.trans (KeepsSessions.trans ?_ (State.settleServices_keepsSessions _))
  refine KeepsSessions.trans ?_ (State.deliver_keepsSessions _ _ _)
  exact r.2.onPort_keepsSessions _ fun p => PortDie.setFld_sessions p F.PD_FLOG_SEQ_NEXT (r.2.pd.fld F.PD_FLOG_SEQ_NEXT + 1)

/-- The address of a parity failure is noted. -/
theorem State.parityAddr_keepsSessions (s : State) (off : Nat) :
    KeepsSessions s (s.onPort fun p => (p.setFld F.PD_PARITY_ADDR_ADDR off).setFld F.PD_PARITY_ADDR_SEEN 1) := by
  unfold KeepsSessions
  rw [State.onPort_pd, PortDie.setFld_sessions, PortDie.setFld_sessions]

theorem State.pdParity_keepsSessions (s : State) (off : Nat) : KeepsSessions s (s.pdParity off) := by
  have h := s.pdFlag_keepsSessions F.PD_STATUS_PARITY F.PD_FLAG_COUNT_PARITY
  unfold State.pdParity
  generalize s.pdFlag F.PD_STATUS_PARITY F.PD_FLAG_COUNT_PARITY = s1 at h ⊢
  refine h.trans (KeepsSessions.trans ?_ (State.flog_keepsSessions _ _ _ _ _ _))
  exact KeepsSessions.ite (s1.parityAddr_keepsSessions off) (KeepsSessions.refl _)

theorem State.pdCheckApplied_keepsSessions (s : State) (off : Nat) : KeepsSessions s (s.pdCheckApplied off) :=
  KeepsSessions.ite ((s.onPort_keepsSessions _).trans (State.pdParity_keepsSessions _ _)) (KeepsSessions.refl _)

theorem State.pdCheckStaged_keepsSessions (s : State) (off : Nat) : KeepsSessions s (s.pdCheckStaged off) :=
  KeepsSessions.ite ((s.onPort_keepsSessions _).trans (State.pdParity_keepsSessions _ _)) (KeepsSessions.refl _)

theorem State.pdReadCheck_keepsSessions (s : State) (off view : Nat) : KeepsSessions s (s.pdReadCheck off view).2 := by
  unfold State.pdReadCheck
  split
  · exact s.pdCheckStaged_keepsSessions off
  · exact s.pdCheckApplied_keepsSessions off

theorem State.readGlobal_keepsSessions (view : Nat) (l : List Nat) (s : State) : KeepsSessions s (s.readGlobal view l).2.2 := by
  induction l generalizing s with
  | nil => exact KeepsSessions.refl s
  | cons a t ih => exact (s.pdReadCheck_keepsSessions a view).trans (ih _)

theorem State.freezeAll_keepsSessions (s : State) (bit : Nat) : KeepsSessions s (s.freezeAll bit) :=
  KeepsSessions.foldl _ _ (fun s _ => s.onChan_keepsSessions _ _) s
theorem State.thawAll_keepsSessions (s : State) (bit : Nat) : KeepsSessions s (s.thawAll bit) :=
  KeepsSessions.foldl _ _ (fun s _ => s.onChan_keepsSessions _ _) s

theorem State.recap_keepsSessions (s : State) : KeepsSessions s s.recap := by
  unfold State.recap
  dsimp only
  generalize hs1 : s.onPort _ = s1
  have h1 : KeepsSessions s s1 := by rw [← hs1]; exact s.onPort_keepsSessions _ (fun p => by simp only [PortDie.setFld_sessions])
  refine h1.trans (KeepsSessions.ite ?_ (KeepsSessions.ite (s1.thawAll_keepsSessions 1) (KeepsSessions.refl _)))
  exact (KeepsSessions.ite (KeepsSessions.refl _) (s1.pdFlag_keepsSessions _ _)).trans (State.freezeAll_keepsSessions _ 1)

theorem State.settleAlarm_keepsSessions (s : State) : KeepsSessions s s.settleAlarm :=
  KeepsSessions.ite (s.thawAll_keepsSessions 5) (KeepsSessions.refl _)

theorem State.applied_keepsSessions (s : State) (n : Nat) : KeepsSessions s (s.applied n) :=
  KeepsSessions.ite (s.onPort_keepsSessions _)
    (KeepsSessions.ite s.recap_keepsSessions (KeepsSessions.ite s.settleAlarm_keepsSessions (KeepsSessions.refl s)))

theorem State.applyMg_keepsSessions (s : State) (n : Nat) : KeepsSessions s (s.applyMg n) :=
  (s.onPort_keepsSessions _).trans (State.applied_keepsSessions _ n)

theorem State.strobeMg_keepsSessions (s : State) (mask : Nat) : KeepsSessions s (s.strobeMg mask).2 := by
  unfold State.strobeMg
  dsimp only
  split
  · exact KeepsSessions.foldl _ _ (fun s o => s.pdCheckStaged_keepsSessions o) s
  · split
    · exact KeepsSessions.refl s
    · exact KeepsSessions.foldl _ _ (fun s n => KeepsSessions.ite (KeepsSessions.refl s) (s.applyMg_keepsSessions n)) s

/-- The registers whose write has an effect besides the write (R321). -/
abbrev ActsOnWrite (off : Nat) : Prop :=
  off ∈ [R.PD_CH_ENABLE, R.PD_CH_HOLD, R.PD_STATUS, R.PD_SNAP, R.SEC_STATUS, R.SEC_CTL, R.MET_CTL]

theorem State.pdWriteActs_plain (s : State) {off : Nat} (h : ¬ ActsOnWrite off) (v : Word) : s.pdWriteActs off v = s := by
  simp only [ActsOnWrite, List.mem_cons, List.not_mem_nil, or_false, not_or] at h
  obtain ⟨h1, h2, h3, h4, h5, h6, h7⟩ := h
  simp [State.pdWriteActs, h1, h2, h3, h4, h5, h6, h7]

/-- A write without further effect changes the port die's registers alone. -/
theorem State.pdWrite_plain (s : State) {off : Nat} (h : ¬ ActsOnWrite off) (v : Word) :
    ∃ b, s.pdWrite off v = s.onPort (fun p => { p with bank := b }) := by
  unfold State.pdWrite
  split
  · exact ⟨s.pd.bank, rfl⟩
  · rw [State.pdWriteActs_plain _ h]
    split <;> exact ⟨_, rfl⟩

theorem State.pdRmw_plain (s : State) {off : Nat} (h : ¬ ActsOnWrite off) (mask v : Word) :
    ∃ b, (s.pdRmw off mask v).2 = s.onPort (fun p => { p with bank := b }) := by
  unfold State.pdRmw
  split
  · exact ⟨s.pd.bank, rfl⟩
  · exact s.pdWrite_plain h _

end Sys2Proof.Machine
end

section
/-! PROOFS. Power and log commands. -/

namespace Sys2Proof.Machine

/-! ## Commands that stage a register and strobe its group -/

/-- After its effect, a ready module command only replies to what waits behind it. -/
theorem ReadyM.after {s : State} {q : Issue} {op : Nat} {fs : List (Nat × Nat × Nat)} {conf : Bool}
    {bad : Datagram → List (Bool × Nat)} {d : Datagram} (h : ReadyM s q op fs conf bad d) (f : Datagram → State → State) :
    PortOnly (f d (s.begunM d)) (s.modCmd q op fs conf bad f) := by
  rw [h.modCmd]
  exact (State.flushM_only _ _ _).trans (State.sweepEnded_only _)

/-- An effect that ends in a reply: the command is answered, and the registers and channels are those the effect left. -/
theorem ReadyM.replies {i : Instr} {s : State} {q : Issue} {op : Nat} {fs : List (Nat × Nat × Nat)} {conf : Bool}
    {bad : Datagram → List (Bool × Nat)} {d : Datagram} (h : ReadyM s q op fs conf bad d) {f : Datagram → State → State} {s1 : State}
    {st : Status} {detail data : Bytes} (he : exec i s = .next (s.modCmd q op fs conf bad f))
    (hf : f d (s.begunM d) = s1.replyM d st detail data) (hs : KeepsSessions (s.begunM d) s1) :
    ∃ u, exec i s = .next u ∧ Answered s u d st data ∧ u.chans = s1.chans ∧ u.pd.unanswered = s1.pd.unanswered ∧ u.cell = s1.cell := by
  have ho := (s1.replyM_only d st detail data).trans (hf ▸ h.after f)
  refine ⟨_, he, h.answered hf (PortOnly.refl _) ?_, ho.chans, ?_, ho.cell⟩
  · rw [hs.session, s.begunM_key]
  · rw [h.unanswered, hf, State.replyM_unanswered]

/-- Staging a module register without a further effect, and strobing its group, leave the open sessions. -/
theorem State.rmwStrobe_keepsSessions (s : State) {off : Nat} (h : ¬ ActsOnWrite off) (mask v : Word) (m : Nat) :
    KeepsSessions s ((s.pdRmw off mask v).2.strobeMg m).2 := by
  obtain ⟨b, hb⟩ := s.pdRmw_plain h mask v
  rw [hb]
  exact (s.onPort_keepsSessions _).trans (State.strobeMg_keepsSessions _ m)

theorem State.afterMg1_ok {s : State} {d : Datagram} (good : State → State) (ha : (s.strobeMg 2).1.1 = .ok) :
    s.afterMg1 d good = good (s.strobeMg 2).2 := if_pos ha

theorem State.afterMg1_failed {s : State} {d : Datagram} (good : State → State) (ha : (s.strobeMg 2).1.1 ≠ .ok) :
    s.afterMg1 d good = (s.strobeMg 2).2.replyM d (s.strobeMg 2).1.1
      (strobeDetail (s.strobeMg 2).1.1 (s.strobeMg 2).1.2.1 (s.strobeMg 2).1.2.2) [] := if_neg ha

/-! ## The obligation -/

theorem hostCap_plain : ¬ ActsOnWrite R.TH_MOD_HOST_CAP := by decide
theorem orphanCap_plain : ¬ ActsOnWrite R.TH_MOD_ORPHAN := by decide

/-- Settles O51. -/
theorem powerAndLogCommandsAnswer : Obligations.PowerAndLogCommandsAnswer := by
  unfold Obligations.PowerAndLogCommandsAnswer
  intro q watts n offset len first d s
  refine ⟨fun hq h => ?_, fun hq h => ?_, fun h => ?_, fun hq h => ?_, fun hq h => ?_, fun h => ?_, fun h => ⟨fun ha => ?_, fun ha => ?_⟩, fun h => ?_⟩
  · exact ExecutesM.of h (congrArg _ (if_pos hq)) rfl (PortOnly.refl _) (s.begunM_key d d.session)
  · exact Executes.of h (congrArg _ (if_neg (by omega))) rfl rfl rfl rfl
  · exact Executes.of h rfl rfl rfl rfl rfl
  · exact Executes.of h (congrArg _ (if_neg (by omega))) rfl rfl rfl rfl
  · exact ExecutesM.of h (congrArg _ (if_pos hq)) rfl (PortOnly.refl _) (s.begunM_key d d.session)
  · exact Executes.of h rfl rfl rfl rfl rfl
  · obtain ⟨u, hu, hr, hc, hb, _⟩ := h.replies (i := .capSet q watts) rfl (State.afterMg1_ok _ ha)
      (State.rmwStrobe_keepsSessions _ hostCap_plain _ _ _)
    exact ⟨u, hu, hr, hc, PortDie.unanswered_bank hb⟩
  · obtain ⟨u, hu, hr, _⟩ := h.replies (i := .capSet q watts) rfl (State.afterMg1_failed _ ha)
      (State.rmwStrobe_keepsSessions _ hostCap_plain _ _ _)
    exact ⟨u, hu, hr⟩
  · have hk := (s.begunM d).rmwStrobe_keepsSessions orphanCap_plain 0xFFFF (BitVec.ofNat 32 watts) 2
    dsimp only
    by_cases ha : (((s.begunM d).pdRmw R.TH_MOD_ORPHAN 0xFFFF (BitVec.ofNat 32 watts)).2.strobeMg 2).1.1 = .ok
    · rw [ha]
      obtain ⟨u, hu, hr, _, hb, _⟩ := h.replies (i := .orphanCapSet q watts) rfl (State.afterMg1_ok _ ha) hk
      exact ⟨u, hu, hr, PortDie.unanswered_bank hb⟩
    · obtain ⟨u, hu, hr, _, hb, _⟩ := h.replies (i := .orphanCapSet q watts) rfl (State.afterMg1_failed _ ha) hk
      exact ⟨u, hu, hr, PortDie.unanswered_bank hb⟩

end Sys2Proof.Machine
end

section
/-! PROOFS. Register reads and snapshots. -/

namespace Sys2Proof.Machine

/-! ## Reading a channel's registers -/

/-- What a live register shows does not depend on the command queues. -/
theorem Chan.liveWord_begun (c : Chan) (d : Datagram) (r : RegDef) (off : Nat) : (c.begun d).liveWord r off = c.liveWord r off := by
  have hreg : (c.begun d).reg = c.reg := rfl
  have hgrove : (c.begun d).grove = c.grove := rfl
  have hnib : (c.begun d).groveNibbles = c.groveNibbles := rfl
  have hchanged : (c.begun d).changed = c.changed := rfl
  have htiles : (c.begun d).tilesOf = c.tilesOf := rfl
  have hfree : (c.begun d).freeIn = c.freeIn := rfl
  have hpool : (c.begun d).poolFree = c.poolFree := rfl
  have hocc : (c.begun d).occ = c.occ := rfl
  have hwaits : (c.begun d).waitsVerdict = c.waitsVerdict := rfl
  have hblocks : (c.begun d).openBlocks = c.openBlocks := rfl
  have htile : (c.begun d).tile = c.tile := rfl
  have hlink : (c.begun d).link = c.link := rfl
  unfold Chan.liveWord
  simp only [hreg, hgrove, hnib, hchanged, htiles, hfree, hpool, hocc, hwaits, hblocks, htile, hlink]
  rfl

theorem Chan.readPlain_begun (c : Chan) (d : Datagram) (off : Nat) : (c.begun d).readPlain off = c.readPlain off := by
  unfold Chan.readPlain Chan.lacks
  simp only [Chan.liveWord_begun]
  rfl

theorem Chan.staged_begun (c : Chan) (d : Datagram) (off : Nat) : (c.begun d).staged off = c.staged off := by
  unfold Chan.staged
  rfl

/-- What a register shows does not depend on the command queues. -/
theorem Chan.readWord_begun (c : Chan) (d : Datagram) (off view : Nat) : (c.begun d).readWord off view = c.readWord off view := by
  unfold Chan.readWord
  split
  · simp only [Chan.readPlain_begun]
  · split
    · split
      · simp only [Chan.readPlain_begun, Chan.staged_begun]
      · rfl
    · exact c.readPlain_begun d off

theorem Chan.parityReport_samePlace (c : Chan) (off : Nat) : c.SamePlace (c.parityReport off) := by
  have hflag : c.SamePlace (c.flag F.CTL_STATUS_PARITY F.CTL_FLAG_COUNT_PARITY) := ⟨c.flag_idx _ _, c.flag_linkLost _ _⟩
  unfold Chan.parityReport
  dsimp only
  refine .trans ?_ (.event _ _ _ _ _ _)
  split
  · exact (hflag.trans (.setFld _ _ _)).trans (.setFld _ _ _)
  · exact hflag

theorem Chan.withBank_samePlace (c : Chan) (b : Bank) : c.SamePlace { c with bank := b } := ⟨rfl, rfl⟩

theorem Chan.checkApplied_samePlace (c : Chan) (off : Nat) : c.SamePlace (c.checkApplied off) := by
  unfold Chan.checkApplied
  split
  · exact (c.withBank_samePlace _).trans (Chan.parityReport_samePlace _ _)
  · exact .refl c

theorem Chan.checkStaged_samePlace (c : Chan) (off : Nat) : c.SamePlace (c.checkStaged off) := by
  unfold Chan.checkStaged
  split
  · exact (c.withBank_samePlace _).trans (Chan.parityReport_samePlace _ _)
  · exact .refl c

/-- A read checks the parity of what it shows: of the staged copy, or of the register in force. -/
theorem Chan.readCheck_cases (c : Chan) (off view : Nat) :
    ∃ o, c.readCheck off view = (c.bank.badStaged.contains o, c.checkStaged o) ∨
      c.readCheck off view = (c.bank.bad.contains o, c.checkApplied o) := by
  unfold Chan.readCheck
  generalize (if 0x800000 ≤ off then (aliasOf off).1 else off) = o
  dsimp only
  split
  · exact ⟨o, .inl rfl⟩
  · exact ⟨o, .inr rfl⟩

theorem Chan.readCheck_samePlace (c : Chan) (off view : Nat) : c.SamePlace (c.readCheck off view).2 := by
  obtain ⟨o, h | h⟩ := c.readCheck_cases off view <;> rw [h]
  · exact c.checkStaged_samePlace o
  · exact c.checkApplied_samePlace o

/-- Reading does not move a channel, nor its controller link. -/
theorem Chan.readWords_samePlace (view : Nat) (l : List Nat) (c : Chan) : c.SamePlace (c.readWords view l).2.2 := by
  induction l generalizing c with
  | nil => exact .refl c
  | cons o t ih => exact (c.readCheck_samePlace o view).trans (ih (c.readCheck o view).2)

/-- Where nothing fails parity, a check finds nothing and changes nothing. -/
theorem Chan.readCheck_clean {c : Chan} (hb : c.bank.bad = []) (hs : c.bank.badStaged = []) (off view : Nat) :
    c.readCheck off view = (false, c) := by
  obtain ⟨o, h | h⟩ := c.readCheck_cases off view <;> rw [h]
  · simp [Chan.checkStaged, hs]
  · simp [Chan.checkApplied, hb]

theorem Chan.readWords_clean {c : Chan} (hb : c.bank.bad = []) (hs : c.bank.badStaged = []) (view : Nat) (l : List Nat) :
    c.readWords view l = (l.map (fun o => c.readWord o view), false, c) := by
  induction l with
  | nil => rfl
  | cons o t ih => simp [Chan.readWords, Chan.readCheck_clean hb hs, ih]

/-! ## Reading module-global registers -/

/-- A figure of the port die that answering a command does not touch. -/
theorem PortDie.of_unanswered {α : Type} (g : PortDie → α) {p r : PortDie} (h : p.unanswered = r.unanswered)
    (hg : ∀ p, g p.unanswered = g p := by exact fun _ => rfl) : g p = g r := by
  rw [← hg p, h, hg]

/-- Two states that differ in nothing a module-global register shows: only in queues, outboxes and replies. -/
structure SameReads (s t : State) : Prop where
  body : ∀ k, (t.chan k).body = (s.chan k).body
  port : t.pd.unanswered = s.pd.unanswered
  open_ : t.pd.sessions.length = s.pd.sessions.length
  cell : t.cell = s.cell

section
variable {s t : State} (h : SameReads s t)
include h

theorem SameReads.causeSet (bit : Nat) : t.causeSet bit = s.causeSet bit := by
  unfold State.causeSet
  simp only [fun k => Chan.body_freeze (h.body k)]

theorem SameReads.linkUp (k : Nat) : (t.chan k).linkUp = (s.chan k).linkUp := by
  unfold Chan.linkUp
  rw [Chan.body_st (h.body k), Chan.body_linkLost (h.body k), Chan.body_fld (h.body k)]

theorem SameReads.pdLive (off : Nat) : t.pdLive off = s.pdLive off := by
  have hreg (o : Nat) : t.pd.reg o = s.pd.reg o := PortDie.of_unanswered (·.reg o) h.port
  have hkeys (k : Nat) : t.pd.keysOf k = s.pd.keysOf k := PortDie.of_unanswered (·.keysOf k) h.port
  have hchanged (n : Nat) : t.pd.changed n = s.pd.changed n := PortDie.of_unanswered (·.changed n) h.port
  have hflash : t.pd.flash = s.pd.flash := PortDie.of_unanswered (·.flash) h.port
  have hpower : t.pd.power = s.pd.power := PortDie.of_unanswered (·.power) h.port
  have hopens : t.pd.pending = s.pd.pending := PortDie.of_unanswered (·.pending) h.port
  have hmesh : t.pd.meshOpen = s.pd.meshOpen := PortDie.of_unanswered (·.meshOpen) h.port
  have hfails : t.pd.failsNow = s.pd.failsNow := PortDie.of_unanswered (·.failsNow) h.port
  have hbound : t.boundOk = s.boundOk := by
    unfold State.boundOk
    rw [show t.pd.bound = s.pd.bound from PortDie.of_unanswered (·.bound) h.port]
  unfold State.pdLive
  simp only [hreg, hkeys, hchanged, hflash, hpower, hopens, hmesh, hfails, hbound, h.causeSet, h.linkUp, h.open_, h.cell,
    fun k => Chan.body_st (h.body k)]

theorem SameReads.pdRead (off view : Nat) : t.pdRead off view = s.pdRead off view := by
  have hw : t.pd.window off = s.pd.window off := PortDie.of_unanswered (·.window off) h.port
  have hb : t.pd.bank = s.pd.bank := PortDie.of_unanswered (·.bank) h.port
  have hs : t.pd.staged off = s.pd.staged off := PortDie.of_unanswered (·.staged off) h.port
  unfold State.pdRead
  rw [hw, hb, hs, h.pdLive]

end

theorem State.begunM_sameReads (s : State) (d : Datagram) : SameReads s (s.begunM d) :=
  ⟨fun _ => rfl, rfl, by simp [State.begunM, PortDie.onSession], rfl⟩

theorem State.begun_sameReads (s : State) (c : Nat) (d : Datagram) : SameReads s (s.setChan c ((s.chan c).begun d)) := by
  refine ⟨fun k => ?_, rfl, rfl, rfl⟩
  rw [State.chan_setChan]
  split
  · next hk => rw [hk]; rfl
  · rfl

theorem State.pdReadCheck_clean {s : State} (hb : s.pd.bank.bad = []) (hs : s.pd.bank.badStaged = []) (off view : Nat) :
    s.pdReadCheck off view = (false, s) := by
  unfold State.pdReadCheck
  split
  · simp [State.pdCheckStaged, hs]
  · simp [State.pdCheckApplied, hb]

theorem State.readGlobal_clean {s : State} (hb : s.pd.bank.bad = []) (hs : s.pd.bank.badStaged = []) (view : Nat) (l : List Nat) :
    s.readGlobal view l = (l.map (fun a => s.pdRead a view), false, s) := by
  induction l with
  | nil => rfl
  | cons a t ih => simp [State.readGlobal, State.pdReadCheck_clean hb hs, ih]

/-! ## `REG_READ` -/

section
variable {s : State} {q : Issue} {addr : Word} {n view : Nat} {d : Datagram}

theorem regRead_local (hq : q.channel < 8) (hg : isGlobal addr.toNat = false) : exec (.regRead q addr n view) s =
    .next (s.chanCmd q 0x10 [(0, 4, addr.toNat), (4, 2, n), (6, 1, view)] (fun c _ => c.st = .off && !isGlobal addr.toNat)
      (badRead (fun a => inChan q.channel a || isGlobal a)) (fun d c =>
        let r := c.readWords view ((wordsAt addr.toNat n).map (fun a => a - chanBase q.channel))
        r.2.2.reply d (if r.2.1 then .cfgParity else .ok) none [] (wordBytes r.1))) := by
  show execRegRead q addr n view s = _
  unfold execRegRead
  dsimp only
  rw [if_neg (by omega)]
  simp only [hg, Bool.false_eq_true, if_false]
  rfl

/-- A channel's read of a module-global register, where none fails parity. -/
theorem ReadyC.regRead_global (hq : q.channel < 8) (h : ReadyC s q 0x10 [(0, 4, addr.toNat), (4, 2, n), (6, 1, view)]
      (fun c _ => c.st = .off && !isGlobal addr.toNat) (badRead (fun a => inChan q.channel a || isGlobal a)) d)
    (hg : isGlobal addr.toNat = true) (hb : s.pd.bank.bad = []) (hs : s.pd.bank.badStaged = []) : exec (.regRead q addr n view) s =
    .next (s.chanCmd q 0x10 [(0, 4, addr.toNat), (4, 2, n), (6, 1, view)] (fun c _ => c.st = .off && !isGlobal addr.toNat)
      (badRead (fun a => inChan q.channel a || isGlobal a)) (fun d c =>
        c.reply d .ok none [] (wordBytes ((wordsAt addr.toNat n).map (fun a => s.pdRead a view))))) := by
  show execRegRead q addr n view s = _
  unfold execRegRead
  dsimp only
  rw [if_neg (by omega), h.chanCmd, h.chanCmdS]
  simp only [hg, if_true]
  rw [State.readGlobal_clean (by exact hb) (by exact hs)]
  simp only [(s.begun_sameReads q.channel d).pdRead, Bool.false_eq_true, if_false]

/-- The module's read: the words and the status are those of the checked read. -/
theorem regRead_module (hq : q.channel = 0xFF) : exec (.regRead q addr n view) s =
    .next (s.modCmd q 0x10 [(0, 4, addr.toNat), (4, 2, n), (6, 1, view)] false (badRead isGlobal) (fun d s =>
      let r := s.readGlobal view (wordsAt addr.toNat n)
      r.2.2.replyM d (if r.2.1 then .cfgParity else .ok) [] (wordBytes r.1))) :=
  congrArg _ (if_pos hq)

end

/-! ## `SNAP` -/

theorem snap_channel {s : State} {q : Issue} {addr : Word} {los : List Nat} (hq : q.channel < 8)
    (hl : chanBank (addr.toNat - chanBase q.channel) = some los) : exec (.snap q addr) s =
    .next (s.chanCmd q 0x16 [(0, 4, addr.toNat)] noConf
      (fun _ => [(!inChan q.channel addr.toNat || (chanBank (addr.toNat - chanBase q.channel)).isNone, 0)]) (fun d c =>
        ({ c with bank := c.bank.snap chanRegs los } : Chan).reply d .ok none [] [])) := by
  show execSnap q addr s = _
  unfold execSnap
  generalize addr.toNat - chanBase q.channel = o at hl ⊢
  have hsnap (c : Chan) : c.snap o = some { c with bank := c.bank.snap chanRegs los } := by simp only [Chan.snap, hl, Option.map_some]
  dsimp only
  rw [if_neg (by omega)]
  simp only [hsnap]

theorem snap_module {s : State} {q : Issue} {addr : Word} {los : List Nat} (hq : q.channel = 0xFF)
    (hl : pdBank addr.toNat = some los) : exec (.snap q addr) s =
    .next (s.modCmd q 0x16 [(0, 4, addr.toNat)] false (fun _ => [((pdBank addr.toNat).isNone, 0)]) (fun d s =>
      (s.onPort (fun p => { p with bank := p.bank.snap pdRegs los })).replyM d .ok [] [])) := by
  show execSnap q addr s = _
  unfold execSnap
  dsimp only
  rw [if_pos hq]
  simp only [hl]

theorem mapFind_snap (m : NMap Word) (f : Nat → Word) (los : List Nat) {k : Nat}
    (h : (mapFind m k).isSome ∨ ∃ o ∈ los, k = o ∨ k = o + 4) :
    (mapFind (los.foldl (fun h o => mapPut (mapPut h o (f o)) (o + 4) (f (o + 4))) m) k).isSome := by
  induction los generalizing m with
  | nil => simpa using h
  | cons o t ih =>
    refine ih _ ?_
    simp only [mapFind_mapPut]
    rcases h with hm | ⟨o', ho', hk⟩
    · left
      split
      · rfl
      · split
        · rfl
        · exact hm
    · rcases List.mem_cons.1 ho' with rfl | ht
      · left
        rcases hk with rfl | rfl <;> simp
      · exact .inr ⟨o', ht, hk⟩

/-- A snapshot holds both words of each counter of its bank (R337). -/
theorem Bank.held_snap (t : List RegDef) (b : Bank) (los : List Nat) {o : Nat} (h : o ∈ los) :
    (mapFind (b.snap t los).held o).isSome ∧ (mapFind (b.snap t los).held (o + 4)).isSome :=
  ⟨mapFind_snap _ _ los (.inr ⟨o, h, .inl rfl⟩), mapFind_snap _ _ los (.inr ⟨o, h, .inr rfl⟩)⟩

/-! ## The obligation -/

/-- Settles O42. -/
theorem regReadAndSnapReturnTheWords : Obligations.RegReadAndSnapReturnTheWords := by
  unfold Obligations.RegReadAndSnapReturnTheWords
  refine ⟨fun q addr n view d s => ⟨fun hq h hg => ⟨?_, fun hb hs => ?_⟩, fun hq h hg hb hs => ?_, fun hq h => ⟨?_, fun hb hs => ?_⟩⟩,
    fun q addr los d s => ⟨fun hq h hl => ?_, fun hq h hl => ?_⟩⟩
  · have hp := Chan.readWords_samePlace view ((wordsAt addr.toNat n).map (fun a => a - chanBase q.channel)) ((s.chan q.channel).begun d)
    exact Executes.of h (regRead_local hq hg) rfl hp.idx hp.linkLost rfl
  · refine Executes.of h (regRead_local hq hg) (c := (s.chan q.channel).begun d) (g := none) (detail := []) ?_ rfl rfl rfl
    dsimp only
    rw [Chan.readWords_clean (by exact hb) (by exact hs)]
    simp only [List.map_map, Chan.readWord_begun]
    rfl
  · exact Executes.of h (h.regRead_global hq hg hb hs) rfl rfl rfl rfl
  · obtain ⟨u, hu, hr, _⟩ := h.replies (i := .regRead q addr n view) (regRead_module hq) rfl (State.readGlobal_keepsSessions _ _ _)
    exact ⟨u, hu, hr⟩
  · refine ExecutesM.of h (s1 := s.begunM d) (detail := []) (regRead_module hq) ?_ (PortOnly.refl _) (s.begunM_key d d.session)
    dsimp only
    rw [State.readGlobal_clean (by exact hb) (by exact hs)]
    simp only [(s.begunM_sameReads d).pdRead, Bool.false_eq_true, if_false]
  · refine ⟨Executes.of h (snap_channel hq hl) rfl rfl rfl rfl, ?_⟩
    obtain ⟨u, hu, ha⟩ := h.acts (snap_channel hq hl) (k := { s.chan q.channel with bank := (s.chan q.channel).bank.snap chanRegs los })
      (Chan.body_reply _ _ _ _ _ _)
    refine ⟨u, hu, fun o ho => ?_⟩
    rw [Chan.body_bank ha.here]
    exact Bank.held_snap _ _ los ho
  · obtain ⟨u, hu, hr, hc, hb, _⟩ := h.replies (snap_module hq hl) rfl (State.onPort_keepsSessions _ _)
    exact ⟨u, hu, hr, hc, PortDie.unanswered_bank hb⟩

end Sys2Proof.Machine
end

section
/-! PROOFS. Key commands, alarm responses, attestation and metering. -/

namespace Sys2Proof.Machine

/-! ## What has been sent stays sent -/

/-- Nothing that had been sent is taken back. -/
def Sends (s t : State) : Prop := ∃ o, t.out = s.out ++ o

theorem Sends.refl (s : State) : Sends s s := ⟨[], by simp⟩

theorem Sends.trans {a b c : State} (h : Sends a b) (k : Sends b c) : Sends a c := by
  obtain ⟨x, hx⟩ := h
  obtain ⟨y, hy⟩ := k
  exact ⟨x ++ y, by rw [hy, hx, List.append_assoc]⟩

theorem Sends.foldl {α : Type} (l : List α) (f : State → α → State) (h : ∀ s a, Sends s (f s a)) (s : State) : Sends s (l.foldl f s) := by
  induction l generalizing s with
  | nil => exact Sends.refl s
  | cons a t ih => exact (h s a).trans (ih _)

theorem State.freezeAll_sends (s : State) (bit : Nat) : Sends s (s.freezeAll bit) := Sends.foldl _ _ (fun s _ => s.onChan_out _ _) s

theorem State.alarm_sends (s : State) (k : Nat) : Sends s (s.alarm k) := by
  unfold State.alarm
  dsimp only
  generalize hs1 : State.flog _ _ _ _ _ _ = s1
  have h1 : Sends s s1 := by rw [← hs1]; exact (State.flog_only _ _ _ _ _ _).out
  split
  · exact Sends.refl s
  · split
    · exact h1
    · split
      · exact h1.trans (s1.freezeAll_sends 5)
      · exact h1

theorem State.sigFail_sends (s : State) : Sends s s.sigFail := by
  unfold State.sigFail
  dsimp only
  split
  · exact State.alarm_sends (s.onPort fun p => { p with sigFails := p.sigFails ++ [p.clock] }) 3
  · exact Sends.refl s

theorem State.endSession_sends (s : State) (id : Nat) : Sends s (s.endSession id) := by
  unfold State.endSession
  split
  · exact Sends.refl s
  · exact ⟨[], by simp⟩

/-! ## Replies, whatever the command does then -/

/-- The fingerprints of the open sessions stay while only queues change. -/
theorem PortDie.onSession_fprs (p : PortDie) (id : Nat) (q : Session → Queue) :
    (p.onSession id (fun x => { x with queue := q x })).sessions.map (·.fpr) = p.sessions.map (·.fpr) := by
  show (p.sessions.map _).map _ = _
  rw [List.map_map]
  refine List.map_congr_left fun x _ => ?_
  simp only [Function.comp]
  split <;> rfl

theorem State.replyM_fprs (s : State) (d : Datagram) (st : Status) (detail data : Bytes) :
    (s.replyM d st detail data).pd.sessions.map (·.fpr) = s.pd.sessions.map (·.fpr) := by
  unfold State.replyM
  split
  · rw [State.deliver_pd]; rfl
  · rw [State.deliver_pd, State.onPort_pd, PortDie.keepReply_sessions, PortDie.onSession_fprs]

theorem State.flushM_fprs (id n : Nat) (s : State) : (State.flushM id n s).pd.sessions.map (·.fpr) = s.pd.sessions.map (·.fpr) := by
  induction n generalizing s with
  | zero => rfl
  | succ n ih =>
    unfold State.flushM
    split
    · rfl
    · split
      · rfl
      · rw [ih, State.replyM_fprs, State.onPort_pd, PortDie.onSession_fprs]

/-- After its effect, a ready module command leaves the fingerprints of the open sessions. -/
theorem ReadyM.fprs {s : State} {q : Issue} {op : Nat} {fs : List (Nat × Nat × Nat)} {conf : Bool}
    {bad : Datagram → List (Bool × Nat)} {d : Datagram} (h : ReadyM s q op fs conf bad d) (f : Datagram → State → State) :
    (s.modCmd q op fs conf bad f).pd.sessions.map (·.fpr) = (f d (s.begunM d)).pd.sessions.map (·.fpr) := by
  rw [h.modCmd, PortDie.core_sessions (State.sweepEnded_core _), State.flushM_fprs]

/-- A ready module command that replies, whatever it does then, is answered. -/
theorem ReadyM.answered_then {i : Instr} {s : State} {q : Issue} {op : Nat} {fs : List (Nat × Nat × Nat)} {conf : Bool}
    {bad : Datagram → List (Bool × Nat)} {d : Datagram} (h : ReadyM s q op fs conf bad d) {f : Datagram → State → State} {s1 s2 : State}
    {st : Status} {detail data : Bytes} (he : exec i s = .next (s.modCmd q op fs conf bad f)) (hf : f d (s.begunM d) = s2)
    (hs : KeepsSessions (s.begunM d) s1) (h2 : Sends (s1.replyM d st detail data) s2) :
    ∃ u, exec i s = .next u ∧ Answered s u d st data ∧ u.pd.unanswered = s2.pd.unanswered ∧
      u.pd.sessions.map (·.fpr) = s2.pd.sessions.map (·.fpr) := by
  have hd : d.session ≠ 0 := by rw [h.same]; exact h.sess
  obtain ⟨x, hx⟩ := Option.isSome_iff_exists.1 h.open_
  have hkey : (s1.pd.session d.session).map (·.kMh) = some x.kMh := by rw [hs.session, s.begunM_key, hx]; rfl
  obtain ⟨y, hy, hk⟩ := Option.map_eq_some_iff.1 hkey
  obtain ⟨blk, h1, h3, h4⟩ := s1.replyM_answered d st detail data y hd hy h.named h.queue
  have hafter : PortOnly s2 (s.modCmd q op fs conf bad f) := hf ▸ h.after f
  obtain ⟨o, ho⟩ := h2
  refine ⟨_, he, ⟨blk, h1, h3, hafter.mem_out ?_⟩, by rw [h.unanswered, hf], by rw [h.fprs, hf]⟩
  rw [ho, hx, Option.map_some, ← hk]
  exact List.mem_append_left _ h4

/-! ## `KEY_ADD` -/

theorem PortDie.fld_bumpCounter (p : PortDie) :
    p.bumpCounter.fld F.SEC_KEY_COUNTER_COUNTER = (p.fld F.SEC_KEY_COUNTER_COUNTER + 1) % 2 ^ F.SEC_KEY_COUNTER_COUNTER.width :=
  PortDie.fld_setFld_same p _ _ (by decide)

theorem PortDie.bumpCounter_sessions (p : PortDie) : p.bumpCounter.sessions = p.sessions := rfl

section
variable {s : State} {q : Issue} {d : Datagram}

/-- `KEY_ADD` under the present counter and an owner key's signature: the record's key is added where it is new and its table has room. -/
theorem ReadyM.keyAdd_signed {rec : Bytes} {k : KeyRec} (h : ReadyM s q 0xB1 [opBytes 0 3112 rec] false (fun d => badKeyRecord d.params) d)
    (hk : k = ⟨leAt d.params 4 1, leAt d.params 5 1, leAt d.params 6 1, slice d.params 20 1793⟩)
    (hn : leAt d.params 8 4 = s.pd.fld F.SEC_KEY_COUNTER_COUNTER)
    (hs : s.pd.ownerSigned (slice d.params 0 1832) (slice d.params 1832 1280) = true) :
    if (s.pd.keyFor (fprOf k.key)).isSome then ExecutesM (.keyAdd q rec) s d .stateConflict []
    else if keyPlaces k.kind ≤ (s.pd.keysOf k.kind).length then ExecutesM (.keyAdd q rec) s d .capacity []
    else ∃ u, exec (.keyAdd q rec) s = .next u ∧ Answered s u d .ok [] ∧ u.chans = s.chans ∧ u.pd.keys = s.pd.keys ++ [k] ∧
      u.pd.fld F.SEC_KEY_COUNTER_COUNTER = (s.pd.fld F.SEC_KEY_COUNTER_COUNTER + 1) % 2 ^ F.SEC_KEY_COUNTER_COUNTER.width := by
  subst hk
  have hcount : ¬ (leAt d.params 8 4 ≠ (s.begunM d).pd.fld F.SEC_KEY_COUNTER_COUNTER) := fun hne => hne hn
  have hsigned : ¬ (!(s.begunM d).pd.ownerSigned (slice d.params 0 1832) (slice d.params 1832 1280)) = true := by
    rw [show (s.begunM d).pd.ownerSigned _ _ = true from hs]
    simp
  split
  · next hdup =>
      exact ExecutesM.of h rfl ((if_neg hcount).trans ((if_neg hsigned).trans (if_pos hdup))) (PortOnly.refl _) (s.begunM_key d d.session)
  · next hnew =>
      split
      · next hfull =>
          exact ExecutesM.of h rfl ((if_neg hcount).trans ((if_neg hsigned).trans ((if_neg hnew).trans (if_pos hfull)))) (PortOnly.refl _)
            (s.begunM_key d d.session)
      · next hroom =>
          obtain ⟨u, hu, hr, hc, hp, _⟩ := h.replies (i := .keyAdd q rec) rfl
            ((if_neg hcount).trans ((if_neg hsigned).trans ((if_neg hnew).trans (if_neg hroom))))
            (State.onPort_keepsSessions _ _ PortDie.bumpCounter_sessions)
          exact ⟨u, hu, hr, hc, PortDie.of_unanswered (·.keys) hp,
            (PortDie.of_unanswered (·.fld F.SEC_KEY_COUNTER_COUNTER) hp).trans (s.begunM d).pd.fld_bumpCounter⟩

theorem ReadyM.keyAdd_unsigned {rec : Bytes} (h : ReadyM s q 0xB1 [opBytes 0 3112 rec] false (fun d => badKeyRecord d.params) d)
    (hn : leAt d.params 8 4 = s.pd.fld F.SEC_KEY_COUNTER_COUNTER)
    (hs : ¬ s.pd.ownerSigned (slice d.params 0 1832) (slice d.params 1832 1280) = true) :
    ∃ u, exec (.keyAdd q rec) s = .next u ∧ Answered s u d .signatureFail [] := by
  have hsigned : (!(s.begunM d).pd.ownerSigned (slice d.params 0 1832) (slice d.params 1832 1280)) = true := by
    rw [Bool.not_eq_true']
    exact Bool.eq_false_iff.2 hs
  obtain ⟨u, hu, hr, _⟩ := h.answered_then (i := .keyAdd q rec) rfl ((if_neg (fun hne => hne hn)).trans (if_pos hsigned))
    (KeepsSessions.refl _) (State.sigFail_sends _)
  exact ⟨u, hu, hr⟩

end

/-! ## `KEY_REMOVE` ends its key's sessions -/

theorem State.endSession_sessions (s : State) (id : Nat) : (s.endSession id).pd.sessions = s.pd.sessions.filter (fun y => y.id ≠ id) := by
  unfold State.endSession
  split
  · next hnone =>
      refine (List.filter_eq_self.2 fun y hy => ?_).symm
      simpa using List.find?_eq_none.1 hnone y hy
  · rfl

theorem State.endSession_unanswered (s : State) (id : Nat) : (s.endSession id).pd.unanswered = s.pd.unanswered := by
  unfold State.endSession
  split <;> rfl

/-- Ending sessions leaves those that are not named. -/
theorem State.endSessions_sessions (l : List Nat) (s : State) :
    (l.foldl (fun s i => s.endSession i) s).pd.sessions = s.pd.sessions.filter (fun y => y.id ∉ l) := by
  induction l generalizing s with
  | nil => simp
  | cons i t ih =>
    rw [List.foldl_cons, ih, State.endSession_sessions, List.filter_filter]
    refine List.filter_congr fun y _ => ?_
    simp [Bool.and_comm]

theorem State.endSessions_unanswered (l : List Nat) (s : State) :
    (l.foldl (fun s i => s.endSession i) s).pd.unanswered = s.pd.unanswered := by
  induction l generalizing s with
  | nil => rfl
  | cons i t ih => rw [List.foldl_cons, ih, State.endSession_unanswered]

/-- The sessions of a key end. -/
def State.endKey (s : State) (f : Bytes) : State :=
  ((s.pd.sessions.filter (fun x => x.fpr = f)).map (·.id)).foldl (fun s i => s.endSession i) s

theorem State.endKey_fprs (s : State) (f : Bytes) : ∀ x ∈ (s.endKey f).pd.sessions, x.fpr ≠ f := by
  intro x hx hf
  rw [State.endKey, State.endSessions_sessions, List.mem_filter, decide_eq_true_eq] at hx
  exact hx.2 (List.mem_map.2 ⟨x, List.mem_filter.2 ⟨hx.1, by simpa using hf⟩, rfl⟩)

theorem State.endKey_sends (s : State) (f : Bytes) : Sends s (s.endKey f) := Sends.foldl _ _ State.endSession_sends s

/-- The port die without the key of a fingerprint; the key commands have counted one more. -/
def PortDie.dropKey (p : PortDie) (f : Bytes) : PortDie := { p.bumpCounter with keys := p.keys.filter (fun x => fprOf x.key ≠ f) }

section
variable {s : State} {q : Issue} {d : Datagram} {fpr sig : Bytes} {k : KeyRec}
  (h : ReadyM s q 0xB2 [opBytes 0 16 fpr, opBytes 16 1280 sig] false (fun _ => []) d)
include h

theorem ReadyM.keyRemove_unsigned (hs : ¬ s.pd.ownerSigned (removalMessage (s.pd.fld F.SEC_KEY_COUNTER_COUNTER) (slice d.params 0 16))
    (slice d.params 16 1280) = true) : ∃ u, exec (.keyRemove q fpr sig) s = .next u ∧ Answered s u d .signatureFail [] := by
  obtain ⟨u, hu, hr, _⟩ := h.answered_then (i := .keyRemove q fpr sig) rfl (if_pos (by rw [Bool.not_eq_true']; exact Bool.eq_false_iff.2 hs))
    (KeepsSessions.refl _) (State.sigFail_sends _)
  exact ⟨u, hu, hr⟩

variable (hs : s.pd.ownerSigned (removalMessage (s.pd.fld F.SEC_KEY_COUNTER_COUNTER) (slice d.params 0 16)) (slice d.params 16 1280) = true)
include hs

omit h in
/-- `KEY_REMOVE` under an owner key's signature goes by whether the key is registered. -/
theorem keyRemove_signed : ¬ (!(s.begunM d).pd.ownerSigned (removalMessage ((s.begunM d).pd.fld F.SEC_KEY_COUNTER_COUNTER)
    (slice d.params 0 16)) (slice d.params 16 1280)) = true := by
  have hb : (s.begunM d).pd.ownerSigned (removalMessage ((s.begunM d).pd.fld F.SEC_KEY_COUNTER_COUNTER) (slice d.params 0 16))
    (slice d.params 16 1280) = true := hs
  rw [hb]
  simp

theorem ReadyM.keyRemove_unknown (hk : s.pd.keyFor (slice d.params 0 16) = none) : ExecutesM (.keyRemove q fpr sig) s d .badParam [] := by
  refine ExecutesM.of h rfl (s1 := s.begunM d) (detail := leBytes 2 0) ((if_neg (keyRemove_signed hs)).trans ?_) (PortOnly.refl _)
    (s.begunM_key d d.session)
  rw [show (s.begunM d).pd.keyFor (slice d.params 0 16) = none from hk]
  rfl

theorem ReadyM.keyRemove_lastOwner (hk : s.pd.keyFor (slice d.params 0 16) = some k) (hl : k.kind = 0 ∧ (s.pd.keysOf 0).length = 1) :
    ExecutesM (.keyRemove q fpr sig) s d .stateConflict [] := by
  refine ExecutesM.of h rfl (s1 := s.begunM d) (detail := []) ((if_neg (keyRemove_signed hs)).trans ?_) (PortOnly.refl _)
    (s.begunM_key d d.session)
  rw [show (s.begunM d).pd.keyFor (slice d.params 0 16) = some k from hk]
  exact if_pos hl

theorem ReadyM.keyRemove_known (hk : s.pd.keyFor (slice d.params 0 16) = some k) (hl : ¬ (k.kind = 0 ∧ (s.pd.keysOf 0).length = 1)) :
    ∃ u, exec (.keyRemove q fpr sig) s = .next u ∧ Answered s u d .ok [] ∧
      u.pd.keys = s.pd.keys.filter (fun x => fprOf x.key ≠ slice d.params 0 16) ∧ (∀ x ∈ u.pd.sessions, x.fpr ≠ slice d.params 0 16) ∧
      u.pd.fld F.SEC_KEY_COUNTER_COUNTER = (s.pd.fld F.SEC_KEY_COUNTER_COUNTER + 1) % 2 ^ F.SEC_KEY_COUNTER_COUNTER.width := by
  have hend : ∃ u, exec (.keyRemove q fpr sig) s = .next u ∧ Answered s u d .ok [] ∧
      u.pd.unanswered = ((((s.begunM d).onPort (·.dropKey (slice d.params 0 16))).replyM d .ok [] []).endKey (slice d.params 0 16)).pd.unanswered ∧
      u.pd.sessions.map (·.fpr) =
        ((((s.begunM d).onPort (·.dropKey (slice d.params 0 16))).replyM d .ok [] []).endKey (slice d.params 0 16)).pd.sessions.map (·.fpr) := by
    refine h.answered_then rfl ((if_neg (keyRemove_signed hs)).trans ?_)
      ((s.begunM d).onPort_keepsSessions (·.dropKey (slice d.params 0 16)) PortDie.bumpCounter_sessions) (State.endKey_sends _ _)
    rw [show (s.begunM d).pd.keyFor (slice d.params 0 16) = some k from hk]
    exact if_neg hl
  obtain ⟨u, hu, hr, hp, hf⟩ := hend
  rw [State.endKey, State.endSessions_unanswered, State.replyM_unanswered] at hp
  refine ⟨u, hu, hr, PortDie.of_unanswered (·.keys) hp, fun x hx => ?_,
    (PortDie.of_unanswered (·.fld F.SEC_KEY_COUNTER_COUNTER) hp).trans s.pd.fld_bumpCounter⟩
  have hx' : x.fpr ∈ u.pd.sessions.map (·.fpr) := List.mem_map_of_mem hx
  rw [hf] at hx'
  obtain ⟨y, hy, hxy⟩ := List.mem_map.1 hx'
  rw [← hxy]
  exact State.endKey_fprs _ _ y hy

end

/-! ## Attestation, metering, alarm responses -/

/-- Beginning a command of an open session leaves what every session may do and see. -/
theorem State.rights_begunM {s : State} {d : Datagram} (ho : (s.pd.session d.session).isSome) (id ch : Nat) :
    (s.begunM d).rights id ch = s.rights id ch := by
  have hses : (s.begunM d).pd.session id =
      (s.pd.session id).map (fun x => if x.id = d.session then { x with queue := x.queue.begin d } else x) :=
    PortDie.onSession_find s.pd d.session (fun x => { x with queue := x.queue.begin d }) (fun _ => rfl) id
  have hended : (s.begunM d).pd.ended = s.pd.ended := if_pos ho
  unfold State.rights PortDie.anySession
  rw [hses, hended]
  cases s.pd.session id with
  | none => rfl
  | some x =>
    simp only [Option.map_some]
    split <;> rfl

section
variable {s : State} {q : Issue} {d : Datagram}

/-- `ATTEST` answers with the signed record of the state it meets. -/
theorem ReadyM.attest {nonce : Bytes}
    (h : ReadyM s q 0xB0 [opBytes 0 32 nonce] (decide (s.pd.services.getD 0 0xFF = 0xFF)) (fun _ => []) d) :
    ExecutesM (.attest q nonce) s d .ok (s.attestBody (slice d.params 0 32) ++
      slice (Config.falconSign Config.deviceSeed (s.attestBody (slice d.params 0 32)) s.draw.1) 0 1280) := by
  have hbody : (s.begunM d).attestBody (slice d.params 0 32) = s.attestBody (slice d.params 0 32) := by
    unfold State.attestBody
    simp only [(s.begunM_sameReads d).pdLive]
    rfl
  rw [← hbody]
  exact ExecutesM.of h rfl rfl (State.draw_only _) (s.begunM_key d d.session)

theorem ReadyM.alarmCfg {cls resp : Nat} (h : ReadyM s q 0xB4 [(0, 1, cls), (1, 1, resp)] false
      (fun d => [(decide (4 ≤ pAt d 0 1), 0), (decide (3 ≤ pAt d 1 1), 1)]) d) :
    let a := ((s.begunM d).pdRmw R.SEC_ALARM_CFG (BitVec.ofNat 32 (3 * 4 ^ cls)) (BitVec.ofNat 32 (resp * 4 ^ cls))).2.strobeMg 4
    ∃ u, exec (.alarmCfg q cls resp) s = .next u ∧ Answered s u d a.1.1 [] ∧ u.pd.bank = a.2.pd.bank := by
  have hplain : ¬ ActsOnWrite R.SEC_ALARM_CFG := by decide
  obtain ⟨u, hu, hr, _, hp, _⟩ := h.replies (i := .alarmCfg q cls resp) rfl rfl (State.rmwStrobe_keepsSessions _ hplain _ _ _)
  exact ⟨u, hu, hr, PortDie.unanswered_bank hp⟩

theorem ReadyM.metInfo (h : ReadyM s q 0xB6 [] false (fun _ => []) d) :
    (s.cell.link = false → ExecutesM (.metInfo q) s d .hwFault []) ∧
    (s.cell.link = true → ExecutesM (.metInfo q) s d .ok (leBytes 8 Config.cellSerial.toNat ++ leBytes 4 Config.cellFwSum.toNat ++
      slice Config.cellFwDigest 0 32 ++ leBytes 1 (bits (s.pdLive R.MET_STATUS).toNat 8 3) ++ [0] ++ leBytes 2 s.cell.breachN ++
      slice Config.cellKey 0 1793 ++ zeros 7 ++ slice Config.cellCert 0 1280)) := by
  rw [← (s.begunM_sameReads d).pdLive]
  refine ⟨fun hl => ?_, fun hl => ?_⟩
  · have hdown : (!(s.begunM d).cell.link) = true := by rw [show (s.begunM d).cell.link = false from hl]; rfl
    exact ExecutesM.of h rfl (if_pos hdown) (PortOnly.refl _) (s.begunM_key d d.session)
  · have hup : ¬ (!(s.begunM d).cell.link) = true := by rw [show (s.begunM d).cell.link = true from hl]; simp
    exact ExecutesM.of h rfl (if_neg hup) (PortOnly.refl _) (s.begunM_key d d.session)

/-! ## `ENERGY_READ` -/

section
variable {chmask : Nat} {nonce : Bytes} (h : ReadyM s q 0xB5 [(0, 1, chmask), opBytes 4 32 nonce] false (fun _ => []) d)
include h

theorem ReadyM.energyRead_unseen (hc : ∃ c < 8, bits chmask c 1 = 1 ∧ s.maySee d c = false) :
    ExecutesM (.energyRead q chmask nonce) s d .authFail [] := by
  have hany : ((List.range 8).any (fun c => bits chmask c 1 = 1 && !(s.begunM d).maySee d c)) = true := by
    obtain ⟨c, h8, hb, hs⟩ := hc
    refine List.any_eq_true.2 ⟨c, List.mem_range.2 h8, ?_⟩
    rw [State.maySee, State.rights_begunM h.open_, show (s.rights d.session c).2 = false from hs, hb]
    rfl
  exact ExecutesM.of h rfl (if_pos hany) (PortOnly.refl _) (s.begunM_key d d.session)

variable (hc : ∀ c < 8, bits chmask c 1 = 1 → s.maySee d c = true)
include hc

theorem ReadyM.energyRead_seen : ¬ ((List.range 8).any (fun c => bits chmask c 1 = 1 && !(s.begunM d).maySee d c)) = true := by
  intro hany
  obtain ⟨c, h8, hb⟩ := List.any_eq_true.1 hany
  rw [State.maySee, State.rights_begunM h.open_, Bool.and_eq_true, decide_eq_true_eq] at hb
  have := hc c (List.mem_range.1 h8) hb.1
  rw [State.maySee] at this
  rw [this] at hb
  exact absurd hb.2 (by simp)

theorem ReadyM.energyRead_linkDown (hl : s.cell.link = false) : ExecutesM (.energyRead q chmask nonce) s d .hwFault [] := by
  have hdown : (!(s.begunM d).cell.link) = true := by rw [show (s.begunM d).cell.link = false from hl]; rfl
  exact ExecutesM.of h rfl ((if_neg (h.energyRead_seen hc)).trans (if_pos hdown)) (PortOnly.refl _) (s.begunM_key d d.session)

/-- The cell's readout is answered and counted. -/
theorem ReadyM.energyRead_readout (hl : s.cell.link = true) : ∃ u, exec (.energyRead q chmask nonce) s = .next u ∧ u.chans = s.chans ∧
    Answered s u d .ok (s.cell.readout chmask (slice d.params 4 32) s.draw.1 ++
      (if s.pd.fld F.MET_CFG_APPORTION = 1 then s.apportionBlock chmask else [])) ∧
    u.cell = { s.cell with readouts := s.cell.readouts + 1, gapSeen := false } := by
  have hup : ¬ (!(s.begunM d).cell.link) = true := by rw [show (s.begunM d).cell.link = true from hl]; simp
  obtain ⟨u, hu, hr, hch, _, hcell⟩ := h.replies (i := .energyRead q chmask nonce) rfl
    ((if_neg (h.energyRead_seen hc)).trans (if_neg hup)) rfl
  exact ⟨u, hu, hch, hr, hcell⟩

end

end

/-! ## The obligation -/

/-- Settles O52. -/
theorem keysAttestationAndMetering : Obligations.KeysAttestationAndMetering := by
  unfold Obligations.KeysAttestationAndMetering
  refine ⟨fun q rec fpr sig nonce cls resp k d s => ⟨fun h hk => ⟨fun hn => ?_, fun hn => ?_⟩, fun h => ?_, fun h => ?_, ReadyM.attest,
    ReadyM.alarmCfg⟩, fun q chmask nonce d s => ⟨fun h => ⟨h.energyRead_unseen, h.energyRead_linkDown, h.energyRead_readout⟩, ReadyM.metInfo⟩⟩
  · exact ExecutesM.of h rfl (if_pos hn) (PortOnly.refl _) (s.begunM_key d d.session)
  · split
    · next hs => exact h.keyAdd_signed hk hn hs
    · next hs => exact h.keyAdd_unsigned hn hs
  · split
    · next hs =>
        refine ⟨h.keyRemove_unknown hs, fun hk => ?_⟩
        split
        · next hl => exact h.keyRemove_lastOwner hs hk hl
        · next hl => exact h.keyRemove_known hs hk hl
    · next hs => exact h.keyRemove_unsigned hs
  · exact ExecutesM.of h rfl rfl (PortOnly.refl _) (s.begunM_key d d.session)

end Sys2Proof.Machine
end

section
/-! PROOFS. Sessions and queues: a claimed queue that a command of another queue names as its own. -/

namespace Sys2Proof.Machine

/-! ## A command that waits in another queue than the one it names -/

/-- `QUEUE_CLAIM` of queue 0 of CH0, by session 1. -/
def claimOfQueue0 : Datagram :=
  { udpLen := 40, magic := 0x4B50, version := 1, channel := 0xFF, queue := 0, opcode := 0x04, flags := 0, seq := 0, plen := 8,
    session := 1, tag := [], params := zeros 8, origin := 0 }

/-- A command of an opcode that no row has; it names queue 0. -/
def unknownForQueue0 : Datagram := { claimOfQueue0 with channel := 0, opcode := 0xEE }

/-- An owner's session whose module queue holds the claim. -/
def claimingSession : Session :=
  { id := 1, fpr := [], role := .owner, mask := 0xFF, kHm := [], kMh := [], idle := 600, sub := none
    queue := { Queue.fresh with owner := some 1, waiting := [claimOfQueue0] } }

/-- A module with that session. The unknown command waits in queue 1 of CH0, next to be answered, though it names queue 0. No step leads
here from reset, where a command waits in the queue it names. -/
def moduleWithStrayCommand : State :=
  { State.reset with
    chans := [(0, { Chan.reset 0 with queues := [(1, { Queue.fresh with owner := some 1, waiting := [unknownForQueue0] })] })]
    pd := { PortDie.reset with sessions := [claimingSession] } }

theorem claimOfQueue0_ready : ReadyM moduleWithStrayCommand ⟨0xFF, 0, 1, 0⟩ 0x04 [(0, 1, 0), (1, 1, 0), (4, 4, (0 : Word).toNat)] false
    badQueue claimOfQueue0 where
  sess := by decide
  same := rfl
  named := rfl
  queue := rfl
  head := by decide +kernel
  open_ := by decide +kernel
  spec := ⟨_, rfl, by decide +kernel, by decide +kernel⟩
  conf := rfl

/-- The claimed queue keeps the reply to the stray command: it is not empty as a fresh one is. -/
theorem queueClaim_caches : ∃ u, exec (.queueClaim ⟨0xFF, 0, 1, 0⟩ 0 0 0) moduleWithStrayCommand = .next u ∧
    ((u.chan 0).queue 0).cache.length = 1 :=
  ⟨_, rfl, by decide +kernel⟩

/-- Refutes O39: a claimed free queue need not be as a fresh one. In `moduleWithStrayCommand` a command that waits in another queue names
the claimed one; taking the claim answers that command, and the claimed queue keeps the reply. -/
theorem not_sessionsAndQueues : ¬ Obligations.SessionsAndQueues := by
  intro h
  obtain ⟨-, hqueues⟩ := h
  obtain ⟨hclaim, -⟩ := hqueues ⟨0xFF, 0, 1, 0⟩ 0 0 0 claimOfQueue0 moduleWithStrayCommand
  obtain ⟨hfree, -⟩ := hclaim claimOfQueue0_ready
  obtain ⟨u, hu, -, hq, -⟩ := hfree (by decide +kernel) (by decide +kernel)
  obtain ⟨v, hv, hcache⟩ := queueClaim_caches
  cases hu.symm.trans hv
  rw [hq] at hcache
  exact absurd hcache (by decide)

end Sys2Proof.Machine
end

section
/-! PROOFS. Grove commands, the status of a grove, and the end of a load. -/

namespace Sys2Proof.Machine

/-! ## What the grove commands' effects leave -/

section
variable {s : State} {q : Issue} {op : Nat} {fs : List (Nat × Nat × Nat)} {conf : Chan → Datagram → Bool}
  {bad : Datagram → List (Bool × Nat)} {d : Datagram} (h : ReadyC s q op fs conf bad d)
include h

theorem ReadyC.opcode : d.opcode = op := by
  have hhead := h.head
  unfold Chan.headFor at hhead
  split at hhead
  · split at hhead
    · next hfor =>
      cases hhead
      simp only [isFor, Bool.and_eq_true, decide_eq_true_eq] at hfor
      exact hfor.1.2
    · cases hhead
  · cases hhead

/-- A ready command finds its channel in a state that allows it (R308, R309). -/
theorem ReadyC.allowed : chAccepts op (s.chan q.channel).st ((s.chan q.channel).begun d).anyLoaded = true ∧
    conf ((s.chan q.channel).begun d) d = false := by
  have hpass := h.passes
  rw [← h.queue] at hpass
  unfold Chan.refused at hpass
  split at hpass
  · cases hpass
  split at hpass
  · cases hpass
  split at hpass
  · cases hpass
  · next hconf =>
      rw [Bool.not_eq_true, Bool.or_eq_false_iff, Bool.not_eq_false', h.opcode] at hconf
      exact hconf

end

/-- A ready channel command whose effect is a reply of channel `k` executes, and leaves `k`. -/
theorem ReadyC.executes {i : Instr} {s : State} {q : Issue} {op : Nat} {fs : List (Nat × Nat × Nat)} {conf : Chan → Datagram → Bool}
    {bad : Datagram → List (Bool × Nat)} {d : Datagram} (h : ReadyC s q op fs conf bad d) {f : Datagram → Chan → Chan} {k : Chan}
    {st : Status} {g : Option Nat} {detail data : Bytes} (he : exec i s = .next (s.chanCmd q op fs conf bad f))
    (hf : f d ((s.chan q.channel).begun d) = k.reply d st g detail data)
    (hi : k.idx = (s.chan q.channel).idx) (hl : k.linkLost = (s.chan q.channel).linkLost) : Executes i s d k st data :=
  Executes.of h he hf hi hl rfl

/-- A ready `GROVE_PAUSE` finds its grove running, paused or draining (R309). -/
theorem ReadyC.pausable {s : State} {q : Issue} {op grove : Nat} {fs : List (Nat × Nat × Nat)} {conf : Chan → Datagram → Bool} {d : Datagram}
    (h : ReadyC s q op ((0, 1, grove) :: fs) (fun c d => groveNot [.running, .paused, .draining] c d || conf c d) (fun d => [badGrove d]) d) :
    (((s.chan q.channel).begun d).grove grove).st = .running ∨ (((s.chan q.channel).begun d).grove grove).st = .paused ∨
      (((s.chan q.channel).begun d).grove grove).st = .draining := by
  have hgrove : pAt d 0 1 = grove := h.operand (List.mem_cons_self ..)
  have h16 : decide (16 ≤ pAt d 0 1) = false := h.inRange (k := 0) (List.mem_singleton.2 rfl)
  rw [decide_eq_false_iff_not, Nat.not_le] at h16
  have hnot := (Bool.or_eq_false_iff.1 h.allowed.2).1
  rw [groveNot, hgrove] at hnot
  rw [hgrove] at h16
  simp only [h16, decide_true, Bool.true_and, Bool.or_eq_false_iff, Bool.not_eq_false', List.contains_iff_mem, List.mem_cons,
    List.not_mem_nil, or_false] at hnot
  exact hnot.2

@[simp] theorem Chan.settle_grove (c : Chan) (g : Nat) : c.settle.grove g = c.grove g := by
  unfold Chan.settle
  split <;> rfl

theorem Chan.settle_progs (c : Chan) : c.settle.progs = c.progs := by
  unfold Chan.settle
  split <;> rfl

/-- An unload ends with the grove empty and without programs. -/
theorem Chan.unloadGrove_ends (c : Chan) (g : Nat) : ∃ e : Chan,
    c.unloadGrove g = ({ e.setGrove g Grove.empty with progs := e.progs.filter (fun p => p.1 ≠ g) } : Chan).settle := by
  unfold Chan.unloadGrove
  exact ⟨_, rfl⟩

theorem Chan.unloadGrove_grove (c : Chan) (g : Nat) : (c.unloadGrove g).grove g = Grove.empty := by
  obtain ⟨e, he⟩ := c.unloadGrove_ends g
  rw [he, Chan.settle_grove]
  exact mapGet_mapPut_same _ _ _ _

theorem Chan.unloadGrove_progs (c : Chan) (g : Nat) : ∀ p ∈ (c.unloadGrove g).progs, p.1 ≠ g := by
  obtain ⟨e, he⟩ := c.unloadGrove_ends g
  intro p hp
  rw [he, Chan.settle_progs] at hp
  simpa using (List.mem_filter.1 hp).2

/-- A grove that runs, drains or is paused is paused afterwards. -/
theorem Chan.pauseGrove_paused (c : Chan) (g cause : Nat) (h : (c.grove g).st = .running ∨ (c.grove g).st = .paused ∨ (c.grove g).st = .draining) :
    ((c.pauseGrove g cause).grove g).st = .paused := by
  have hput (v : Grove) : (c.setGrove g v).grove g = v := mapGet_mapPut_same _ _ _ _
  unfold Chan.pauseGrove
  dsimp only
  split
  · rw [Chan.settle_grove, hput]
  · next hactive =>
      have hp : (c.grove g).st = .paused := by
        rcases h with h | h | h
        · exact absurd (by simp [GroveState.active, h]) hactive
        · exact h
        · exact absurd (by simp [GroveState.active, h]) hactive
      rw [if_pos hp, hput]
      exact hp

/-- The replies to those who wait for a pause change no more than queues. -/
theorem Chan.answerPause_body (c : Chan) (g at_ : Nat) : (c.answerPause g at_).body = c.body := by
  unfold Chan.answerPause
  generalize c.deferred 0x53 g = l
  induction l generalizing c with
  | nil => rfl
  | cons d t ih => rw [List.foldl_cons, ih, Chan.body_reply]

theorem Chan.pauseAtOnce_replay {c : Chan} {g : Nat} (h : (c.grove g).replay = true) :
    c.pauseAtOnce g = c.onGrove g (fun v => { v with pauseAt := some pauseNow }) := if_pos h

theorem Chan.pauseAtOnce_body {c : Chan} {g : Nat} (h : (c.grove g).replay = false) : (c.pauseAtOnce g).body = (c.pauseGrove g 0).body := by
  unfold Chan.pauseAtOnce
  dsimp only
  rw [if_neg (by simp [h])]
  split
  · exact Chan.answerPause_body _ _ _
  · rfl

/-! ## The end of a load -/

section
variable {s : State} {q : Issue} {d : Datagram}

/-- A channel's part of a load's end, and what of the module goes with it: the grove's energy figure restarts (R438). -/
theorem exec_groveLoadComplete {t : State} (h : s.loadEnds q = .next t) : exec (.groveLoadComplete q) s =
    .next (t.restartFigures q.channel (groveNums.filter (fun g =>
      ((s.chan q.channel).grove g).st = .empty && ((t.chan q.channel).grove g).st ≠ .empty))) := by
  show execGroveLoadComplete q s = _
  unfold execGroveLoadComplete
  rw [h]

theorem groveLoadComplete_noChannel (h8 : 8 ≤ q.channel) : exec (.groveLoadComplete q) s = .next s := by
  have hends : s.loadEnds q = .next s := congrArg Host.Outcome.next (if_pos h8)
  rw [exec_groveLoadComplete hends]
  have hnil : groveNums.filter (fun g => ((s.chan q.channel).grove g).st = .empty && ((s.chan q.channel).grove g).st ≠ .empty) = [] := by
    rw [List.filter_eq_nil_iff]
    simp
  rw [hnil]
  rfl

/-- What the end of a load makes of its channel, the readers of the others brought up to date. -/
theorem groveLoadComplete_becomes {f : Chan → Chan} {e : Chan}
    (h : s.loadEnds q = .next (s.onChan q.channel f)) (he : f (s.chan q.channel) = e) :
    ∃ u, exec (.groveLoadComplete q) s = .next u ∧ (u.chan q.channel).body = e.body ∧ u.cell = s.cell ∧
      ∀ k, k < 8 → k ≠ q.channel → u.chan k = (s.chan k).facing q.channel k (s.chan q.channel) (u.chan q.channel) := by
  subst he
  refine ⟨_, exec_groveLoadComplete h, s.onChan_body _ _, s.onChan_cell _ _, fun k h8 hk => ?_⟩
  exact (s.onChan_there _ _ _ h8 hk).trans (Chan.facing_congr _ _ _ rfl (s.onChan_body _ _).symm)

end

/-! ## The obligation -/

/-- Settles O47: a ready command's effect is the branch that the grove's state selects; a load's end is the branch of its checks. -/
theorem groveCommandsAndLoads : Obligations.GroveCommandsAndLoads := by
  unfold Obligations.GroveCommandsAndLoads
  refine ⟨fun q line len grove dig stop at_ d s => ⟨fun h => ⟨fun hfull => ?_, fun g hg => ?_⟩, fun h => ?_, fun h => ⟨fun hheat => ?_, fun hheat => ?_⟩,
      fun h => ⟨fun hat => ?_, fun hat hr => ?_, fun hat hr => ?_⟩, fun h => ⟨fun hheat => ?_, fun hheat => ?_⟩,
      fun h => ⟨fun hst => ?_, fun hst => ?_, fun hst => ?_⟩⟩,
    fun q grove d s => ⟨fun h => ⟨fun k hk => ?_, fun hnone => ?_⟩, groveLoadComplete_noChannel, fun h8 hn => ?_, fun h8 hd => ⟨fun hgone => ?_,
      fun g hg => ⟨fun hst => ?_, fun st data e hst hload => ⟨fun hok => ?_, fun hno => ?_⟩⟩⟩⟩⟩
  -- `GROVE_LOAD`
  · exact h.executes (g := none) (detail := []) rfl (by simp only [hfull]) rfl rfl
  · exact h.executes (g := groveNamed d) (detail := []) rfl (by simp only [hg]; rfl) rfl rfl
  -- `GROVE_UNLOAD`
  · obtain ⟨u, hu, ha⟩ := h.acts (i := .groveUnload q grove) rfl (Chan.body_reply _ _ _ _ _ _)
    refine ⟨u, hu, ha, (Chan.body_grove ha.here grove).trans (Chan.unloadGrove_grove _ _), ?_⟩
    rw [Chan.body_progs ha.here]
    exact Chan.unloadGrove_progs _ _
  -- `GROVE_START`
  · exact Executes.of h rfl (if_pos hheat) rfl rfl rfl
  · exact h.acts rfl (congrArg Chan.body (if_neg (Bool.eq_false_iff.1 hheat)))
  -- `GROVE_PAUSE`
  · exact h.acts rfl (congrArg Chan.body (if_neg hat))
  · exact h.acts rfl (congrArg Chan.body ((if_pos hat).trans (Chan.pauseAtOnce_replay hr)))
  · obtain ⟨u, hu, ha⟩ := h.acts (i := .grovePause q grove at_) rfl ((congrArg Chan.body (if_pos hat)).trans (Chan.pauseAtOnce_body hr))
    refine ⟨u, hu, ha, ?_⟩
    rw [Chan.body_grove ha.here]
    exact Chan.pauseGrove_paused _ _ _ h.pausable
  -- `GROVE_RESUME`
  · exact Executes.of h rfl (if_pos hheat) rfl rfl rfl
  · exact h.acts rfl ((congrArg Chan.body (if_neg (Bool.eq_false_iff.1 hheat))).trans (Chan.body_reply _ _ _ _ _ _))
  -- `GROVE_DRAIN`
  · exact h.executes (g := some grove) (detail := []) rfl (by simp only [hst]) rfl rfl
  · exact h.executes (g := some grove) (detail := []) rfl (by simp only [hst]) rfl rfl
  · exact h.acts rfl (by simp only [hst])
  -- `GROVE_STATUS`
  · exact h.executes (g := some grove) (detail := []) rfl (by simp only [hk]) rfl rfl
  · exact h.executes (g := some grove) (detail := []) rfl (by simp only [hnone]) rfl rfl
  -- the end of a load
  · exact groveLoadComplete_becomes (congrArg Host.Outcome.next (if_neg (Nat.not_le.2 h8))) (by simp only [hn])
  · exact groveLoadComplete_becomes (congrArg Host.Outcome.next (if_neg (Nat.not_le.2 h8))) (by simp only [hd, hgone])
  · exact groveLoadComplete_becomes (congrArg Host.Outcome.next (if_neg (Nat.not_le.2 h8))) (by simp only [hd, hg]; exact if_pos hst)
  · exact groveLoadComplete_becomes (congrArg Host.Outcome.next (if_neg (Nat.not_le.2 h8)))
      (by simp only [hd, hg]; exact (if_neg hst).trans (by simp only [hload, hok, if_true]))
  · exact ⟨groveLoadComplete_becomes (congrArg Host.Outcome.next (if_neg (Nat.not_le.2 h8)))
      (by simp only [hd, hg]; exact (if_neg hst).trans (by simp only [hload, hno, if_false])), mapGet_mapPut_same _ _ _ _⟩

end Sys2Proof.Machine
end

section
/-! PROOFS. Built-in self-test, loopback, and firmware update. -/

namespace Sys2Proof.Machine

/-! ## What a map record leaves of the map in force -/

/-- The map in force in a channel: row vectors, and each knot's place and cause. -/
def Chan.mapInForce (c : Chan) : List Nat × List (Nat × Nat × Nat) := (c.rows, c.knots.map (fun k => (k.x, k.y, k.cause)))

theorem Chan.mapInForce_body {a b : Chan} (h : a.body = b.body) : a.mapInForce = b.mapInForce :=
  show a.body.mapInForce = b.body.mapInForce by rw [h]

theorem State.onChan_mapInForce (s : State) (c : Nat) (f : Chan → Chan) : ((s.onChan c f).chan c).mapInForce = (f (s.chan c)).mapInForce :=
  Chan.mapInForce_body (s.onChan_body c f)

theorem State.appendRecord_chan (s : State) (kind mask : Nat) (l : List Bytes) (k : Nat) : ((s.appendRecord kind mask l).2).chan k = s.chan k := by
  unfold State.appendRecord
  dsimp only
  split
  · rfl
  · split
    · exact State.chan_onPort _ _ _
    · exact (State.chan_onPort _ _ _).trans (State.chan_onPort _ _ _)

/-- Recording a map notes at most that its knots are saved. -/
theorem State.recordMap_mapInForce (s : State) (c kind : Nat) : ((s.recordMap c kind).chan c).mapInForce = (s.chan c).mapInForce := by
  unfold State.recordMap
  dsimp only
  split
  · rfl
  · split
    · rw [State.onChan_mapInForce, State.appendRecord_chan]
      simp [Chan.mapInForce]
    · rw [State.onChan_mapInForce, State.appendRecord_chan]
      simp [Chan.mapInForce, Chan.flagEvent]

theorem Chan.complete_mapInForce (c : Chan) (d : Datagram) (st : Status) (g : Option Nat) (b : Bytes) :
    (c.complete d st g b).mapInForce = c.mapInForce := rfl

/-! ## The end of a BIST -/

section
variable {s : State} {q : Issue} {d : Datagram} {badTiles badRouters : List (Nat × Nat)}

theorem bistRunComplete_none (h : (s.chan q.channel).acceptedCmd q 0xC0 = none ∨ (s.chan q.channel).st ≠ .bringup) :
    exec (.bistRunComplete q badTiles badRouters) s = .next s := by
  show execBistRunComplete q badTiles badRouters s = _
  unfold execBistRunComplete
  dsimp only
  split
  · rfl
  · split
    · rfl
    · next _ hd =>
        rw [if_pos (h.resolve_left (by rw [hd]; simp))]

/-- The findings of a BIST do not fit: an anchor keeps no band, another channel's fields lose too many rows (log entry 67). -/
def Refined.Unfit (r : Refined) (ch : Nat) : Prop := if anchor ch then r.bands = 0 else (!r.fits) = true

section
variable (h8 : q.channel < 8) (hd : (s.chan q.channel).acceptedCmd q 0xC0 = some d) (hst : (s.chan q.channel).st = .bringup)
include h8 hd hst

theorem bistRunComplete_unfit (hu : ((s.chan q.channel).refine badTiles badRouters).Unfit q.channel) :
    exec (.bistRunComplete q badTiles badRouters) s =
      .next (s.onChan q.channel (fun c => (c.complete d .hwFault none []).bringupFails .hwFault)) := by
  show execBistRunComplete q badTiles badRouters s = _
  unfold execBistRunComplete
  dsimp only
  rw [if_neg (by omega), hd]
  exact congrArg Host.Outcome.next ((if_neg (not_not_intro hst)).trans (if_pos hu))

theorem bistRunComplete_fits (hu : ¬ ((s.chan q.channel).refine badTiles badRouters).Unfit q.channel) :
    ∃ u, exec (.bistRunComplete q badTiles badRouters) s = .next u ∧ (u.chan q.channel).mapInForce =
      (((s.chan q.channel).refine badTiles badRouters).rows,
        ((s.chan q.channel).refine badTiles badRouters).knots.map (fun k => (k.x, k.y, k.cause))) := by
  have he : ∃ bands data, exec (.bistRunComplete q badTiles badRouters) s =
      .next (((s.onChan q.channel (fun c => (c.take ((s.chan q.channel).refine badTiles badRouters)).setFld F.CTL_BRINGUP_BANDS bands)).recordMap
        q.channel 1).onChan q.channel (fun c => c.complete d .ok none data)) := by
    refine ⟨if anchor q.channel then ((s.chan q.channel).refine badTiles badRouters).bands else 6,
      leBytes 4 ((s.chan q.channel).refine badTiles badRouters).fresh, ?_⟩
    show execBistRunComplete q badTiles badRouters s = _
    unfold execBistRunComplete
    dsimp only
    rw [if_neg (by omega), hd]
    exact congrArg Host.Outcome.next ((if_neg (not_not_intro hst)).trans (if_neg hu))
  obtain ⟨bands, data, he⟩ := he
  refine ⟨_, he, ?_⟩
  rw [State.onChan_mapInForce, Chan.complete_mapInForce, State.recordMap_mapInForce, State.onChan_mapInForce]
  unfold Chan.mapInForce
  rw [Chan.setFld_rows, Chan.setFld_knots]
  rfl

end

end

/-! ## The end of a firmware update -/

theorem State.settleServices_flash (s : State) : s.settleServices.pd.flash = s.pd.flash := rfl

theorem State.deliver_flash (s : State) (ch : Nat) (e : Emit) : (s.deliver ch e).pd.flash = s.pd.flash := by rw [State.deliver_pd]

theorem State.logClock_flash (s : State) (ch : Option Nat) : (s.logClock ch).2.pd.flash = s.pd.flash := by
  unfold State.logClock
  split
  · rfl
  · split <;> rfl

theorem State.completeM_flash (s : State) (d : Datagram) (st : Status) (data : Bytes) : (s.completeM d st data).pd.flash = s.pd.flash := by
  have h := s.logClock_flash none
  unfold State.completeM
  generalize s.logClock none = r at h ⊢
  rw [← h, State.settleServices_flash, State.deliver_flash]
  rfl

theorem State.flog_flash (s : State) (st : Status) (src code : Nat) (ch : Option Nat) (arg : BitVec 64) :
    (s.flog st src code ch arg).pd.flash = s.pd.flash := by
  have h := s.logClock_flash ch
  unfold State.flog
  generalize s.logClock ch = r at h ⊢
  rw [← h, State.settleServices_flash, State.deliver_flash]
  rfl

theorem State.freezeAll_flash (s : State) (bit : Nat) : (s.freezeAll bit).pd.flash = s.pd.flash := by
  unfold State.freezeAll
  generalize s.liveChans = l
  induction l generalizing s with
  | nil => rfl
  | cons c t ih => rw [List.foldl_cons, ih, PortDie.core_flash (s.onChan_core c _)]

theorem State.alarm_flash (s : State) (k : Nat) : (s.alarm k).pd.flash = s.pd.flash := by
  unfold State.alarm
  dsimp only
  generalize hs1 : State.flog _ _ _ _ _ _ = s1
  have h1 : s1.pd.flash = s.pd.flash := by rw [← hs1, State.flog_flash]; rfl
  split
  · rfl
  · split
    · exact h1
    · split
      · exact (s1.freezeAll_flash 5).trans h1
      · exact h1

theorem State.sigFail_flash (s : State) : s.sigFail.pd.flash = s.pd.flash := by
  unfold State.sigFail
  dsimp only
  split
  · exact State.alarm_flash _ 3
  · rfl

section
variable {s : State} {q : Issue} {d : Datagram}

theorem fwUpdateComplete_none (h : s.acceptedM q 0xC4 = none) : exec (.fwUpdateComplete q) s = .next s := by
  show execFwUpdateComplete q s = _
  unfold execFwUpdateComplete
  rw [h]

variable (h : s.acceptedM q 0xC4 = some d)
include h

/-- An image that reads and verifies is written over the inactive one, and is active from then on (R425). -/
theorem fwUpdateComplete_ok (hok : imageOk (s.pd.fld F.SEC_SVN_MIN_SVN) ((s.chan (pAt d 0 1)).hbmRead (64 * pAt d 4 4) (pAt d 8 4)) = true)
    (hread : ¬ ∃ l ∈ (s.chan (pAt d 0 1)).poison, pAt d 4 4 ≤ l ∧ 64 * l < 64 * pAt d 4 4 + pAt d 8 4) :
    ∃ u, exec (.fwUpdateComplete q) s = .next u ∧ u.chans = s.chans ∧ u.pd.flash.active = 1 - s.pd.flash.active % 2 ∧
      u.pd.flash.images = s.pd.flash.images.set (1 - s.pd.flash.active % 2) ((s.chan (pAt d 0 1)).hbmRead (64 * pAt d 4 4) (pAt d 8 4)) := by
  refine ⟨(s.onPort (fun p => { p with flash := { p.flash with
    images := p.flash.images.set (1 - s.pd.flash.active % 2) ((s.chan (pAt d 0 1)).hbmRead (64 * pAt d 4 4) (pAt d 8 4))
    active := 1 - s.pd.flash.active % 2 } })).completeM d .ok [], ?_, (State.completeM_only _ _ _ _).chans, ?_, ?_⟩
  · show execFwUpdateComplete q s = _
    unfold execFwUpdateComplete
    rw [h]
    dsimp only
    rw [if_neg]
    rw [hok, Bool.not_true, Bool.or_false, List.any_eq_true]
    simpa using hread
  · rw [State.completeM_flash]; rfl
  · rw [State.completeM_flash]; rfl

/-- An image that fails, or that a line without data gives, leaves both images. -/
theorem fwUpdateComplete_failed (hbad : imageOk (s.pd.fld F.SEC_SVN_MIN_SVN) ((s.chan (pAt d 0 1)).hbmRead (64 * pAt d 4 4) (pAt d 8 4)) = false ∨
    ∃ l ∈ (s.chan (pAt d 0 1)).poison, pAt d 4 4 ≤ l ∧ 64 * l < 64 * pAt d 4 4 + pAt d 8 4) :
    ∃ u, exec (.fwUpdateComplete q) s = .next u ∧ u.pd.flash.active = s.pd.flash.active ∧ u.pd.flash.images = s.pd.flash.images := by
  refine ⟨(s.completeM d .signatureFail []).sigFail, ?_, ?_, ?_⟩
  · show execFwUpdateComplete q s = _
    unfold execFwUpdateComplete
    rw [h]
    dsimp only
    rw [if_pos]
    rw [Bool.or_eq_true, List.any_eq_true]
    rcases hbad with hb | hl
    · exact .inr (by rw [hb]; rfl)
    · exact .inl (by simpa using hl)
  · rw [State.sigFail_flash, State.completeM_flash]
  · rw [State.sigFail_flash, State.completeM_flash]

end

/-! ## The obligation -/

/-- Settles O53. -/
theorem testsAndUpdatesAreAcceptedAndEnd : Obligations.TestsAndUpdatesAreAcceptedAndEnd := by
  unfold Obligations.TestsAndUpdatesAreAcceptedAndEnd
  intro q level ifx mode frames errors ch line len badTiles badRouters d s
  refine ⟨fun h => ?_, fun h => ?_, fun h => ?_, fun h8 => ⟨?_, exec_completeStep_noChannel rfl h8⟩, fun _ => bistRunComplete_none,
    fun h8 hn => Acts.completeStep_none rfl h8 hn, fwUpdateComplete_none, fun h8 hd hst => ⟨fun hu => ?_, fun hu => ?_⟩,
    fun h8 hd => Acts.completeStep_some rfl h8 hd rfl, fun hd => ⟨fwUpdateComplete_ok hd, fwUpdateComplete_failed hd⟩⟩
  · exact Executes.of h rfl rfl rfl rfl rfl
  · exact Executes.of h rfl rfl rfl rfl rfl
  · exact ExecutesM.of h rfl rfl (PortOnly.refl _) (s.begunM_key d d.session)
  · exact congrArg Host.Outcome.next (if_pos h8)
  · have hunfit : ((s.chan q.channel).refine badTiles badRouters).Unfit q.channel := by
      unfold Refined.Unfit
      split at hu
      · next ha => rwa [if_pos ha]
      · next ha => rw [if_neg ha, hu]; rfl
    exact ⟨_, bistRunComplete_unfit h8 hd hst hunfit, State.onChan_body _ _ _⟩
  · have hfit : ¬ ((s.chan q.channel).refine badTiles badRouters).Unfit q.channel := by
      unfold Refined.Unfit
      split at hu
      · next ha => rwa [if_pos ha]
      · next ha => rw [if_neg ha, hu]; simp
    obtain ⟨u, hex, hmap⟩ := bistRunComplete_fits h8 hd hst hfit
    exact ⟨u, hex, congrArg Prod.fst hmap, congrArg Prod.snd hmap⟩

end Sys2Proof.Machine
end

section
/-! PROOFS. `CHANNEL_START`, `CHANNEL_STOP`, `CHANNEL_FREEZE` and `CHANNEL_THAW`. -/

namespace Sys2Proof.Machine

/-! ## What pauses, drains and replies leave -/

/-- A channel is READY or RUNNING. -/
def Chan.Up (c : Chan) : Prop := c.st = .ready ∨ c.st = .running

/-- `b` keeps what of `a` no pause, drain or reply touches: its place, its links and freeze causes, and its state but for whether it is
READY or RUNNING. -/
structure Chan.Keeps (a b : Chan) : Prop where
  place  : a.SamePlace b
  links  : b.links = a.links
  freeze : b.freeze = a.freeze
  st     : b.st = a.st ∨ (a.Up ∧ b.Up)

namespace Chan.Keeps

theorem refl (c : Chan) : c.Keeps c := ⟨.refl c, rfl, rfl, .inl rfl⟩

theorem trans {a b c : Chan} (h : a.Keeps b) (k : b.Keeps c) : a.Keeps c := by
  refine ⟨h.place.trans k.place, k.links.trans h.links, k.freeze.trans h.freeze, ?_⟩
  rcases h.st with hb | ⟨ha, hb⟩
  · rcases k.st with hc | ⟨hb', hc⟩
    · exact .inl (hc.trans hb)
    · exact .inr ⟨by unfold Chan.Up at *; rwa [hb] at hb', hc⟩
  · rcases k.st with hc | ⟨_, hc⟩
    · exact .inr ⟨ha, by unfold Chan.Up at *; rwa [hc]⟩
    · exact .inr ⟨ha, hc⟩

theorem ite {p : Prop} [Decidable p] {a b c : Chan} (hb : a.Keeps b) (hc : a.Keeps c) : a.Keeps (if p then b else c) := by
  split <;> assumption

theorem foldl {α : Type} {f : Chan → α → Chan} (h : ∀ (c : Chan) x, c.Keeps (f c x)) (l : List α) (c : Chan) : c.Keeps (l.foldl f c) := by
  induction l generalizing c with
  | nil => exact .refl c
  | cons x t ih => exact (h c x).trans (ih _)

theorem setGrove (c : Chan) (g : Nat) (v : Grove) : c.Keeps (c.setGrove g v) := ⟨⟨rfl, rfl⟩, rfl, rfl, .inl rfl⟩

theorem reply (c : Chan) (d : Datagram) (st : Status) (g : Option Nat) (b e : Bytes) : c.Keeps (c.reply d st g b e) :=
  ⟨⟨rfl, rfl⟩, rfl, rfl, .inl rfl⟩

theorem complete (c : Chan) (d : Datagram) (st : Status) (g : Option Nat) (b : Bytes) : c.Keeps (c.complete d st g b) :=
  ⟨⟨rfl, rfl⟩, rfl, rfl, .inl rfl⟩

theorem settle (c : Chan) : c.Keeps c.settle := by
  unfold Chan.settle
  split
  · next hup =>
      refine ⟨⟨rfl, rfl⟩, rfl, rfl, .inr ⟨by simpa [Chan.Up] using hup, ?_⟩⟩
      unfold Chan.Up
      dsimp only
      split
      · exact .inr rfl
      · exact .inl rfl
  · exact .refl c

theorem pauseGrove (c : Chan) (g cause : Nat) : c.Keeps (c.pauseGrove g cause) :=
  .ite ((setGrove c g _).trans (settle _)) (.ite (setGrove c g _) (.refl c))

theorem answerPause (c : Chan) (g at_ : Nat) : c.Keeps (c.answerPause g at_) := .foldl (fun c d => reply c d _ _ _ _) _ c

theorem answerDrain (c : Chan) (g last : Nat) (none_ : Bool) : c.Keeps (c.answerDrain g last none_) := by
  refine .foldl (fun c d => ?_) _ c
  dsimp only
  split
  · exact trans (b := c.draw.2) ⟨⟨rfl, rfl⟩, rfl, rfl, .inl rfl⟩ (complete _ _ _ _ _)
  · exact complete c _ _ _ _

theorem drainEnd (c : Chan) (g last : Nat) (none_ : Bool) : c.Keeps (c.drainEnd g last none_) :=
  (((setGrove c g _).trans (answerDrain _ _ _ _)).trans (.foldl (fun c d => reply c d _ _ _ _) _ _)).trans (settle _)

theorem stepReached (c : Chan) (g : Nat) : c.Keeps (c.stepReached g) :=
  .ite (.refl c) (.ite (drainEnd c g _ _) (.ite ((pauseGrove c g 0).trans (answerPause _ _ _)) (.refl c)))

theorem unpause (c : Chan) (g cause : Nat) : c.Keeps (c.unpause g cause) :=
  .ite (.refl c) (.ite (setGrove c g _) (((setGrove c g _).trans (settle _)).trans (stepReached _ _)))

theorem answerFreeze (c : Chan) : c.Keeps c.answerFreeze := .ite (.refl c) (.foldl (fun c d => reply c d _ _ _ _) _ c)

end Chan.Keeps

/-! ## Freezing and thawing -/

/-- Setting a cause of a frozen channel whose groves pause keeps it frozen (R307). -/
theorem Chan.freezeBy_frozen {c : Chan} (h : c.st = .ready ∨ c.st = .running ∨ c.st = .frozen) (bit : Nat) :
    (c.freezeBy bit).st = .frozen ∧ (c.freezeBy bit).freeze = (if bits c.freeze bit 1 = 1 then c.freeze else c.freeze + 2 ^ bit) := by
  unfold Chan.freezeBy
  dsimp only
  split
  · have hk := Chan.Keeps.foldl (fun (c : Chan) g => Chan.Keeps.pauseGrove c g 1) groveNums
      ({ c with freeze := if bits c.freeze bit 1 = 1 then c.freeze else c.freeze + 2 ^ bit, st := .frozen } : Chan)
    refine ⟨?_, hk.freeze⟩
    rcases hk.st with hst | ⟨hup, -⟩
    · exact hst
    · exact absurd hup (by simp [Chan.Up])
  · next hup =>
      have hf : c.st = .frozen := by
        rcases h with h | h | h
        · exact absurd (by simp [h]) hup
        · exact absurd (by simp [h]) hup
        · exact h
      rw [if_pos hf]
      exact ⟨hf, rfl⟩

/-- The channel's place and links stay as it freezes or thaws. -/
theorem Chan.freezeBy_links (c : Chan) (bit : Nat) : c.SamePlace (c.freezeBy bit) ∧ (c.freezeBy bit).links = c.links := by
  unfold Chan.freezeBy
  dsimp only
  split
  · have hk := Chan.Keeps.foldl (fun (c : Chan) g => Chan.Keeps.pauseGrove c g 1) groveNums
      ({ c with freeze := if bits c.freeze bit 1 = 1 then c.freeze else c.freeze + 2 ^ bit, st := .frozen } : Chan)
    exact ⟨⟨hk.place.idx, hk.place.linkLost⟩, hk.links⟩
  · split <;> exact ⟨⟨rfl, rfl⟩, rfl⟩

/-- The freeze pauses end grove by grove. -/
theorem Chan.Keeps.unpauseAll (c : Chan) :
    c.Keeps (groveNums.foldl (fun (c : Chan) g => if bits (c.grove g).causes 1 1 = 1 then c.unpause g 1 else c) c).settle :=
  (Chan.Keeps.foldl (fun (c : Chan) g => .ite (.unpause c g 1) (.refl c)) groveNums c).trans (.settle _)

theorem Chan.thawBy_links (c : Chan) (bit : Nat) : c.SamePlace (c.thawBy bit) ∧ (c.thawBy bit).links = c.links := by
  unfold Chan.thawBy
  split
  · exact ⟨.refl c, rfl⟩
  · dsimp only
    split
    · exact ⟨⟨rfl, rfl⟩, rfl⟩
    · have hk := Chan.Keeps.unpauseAll ({ c with freeze := c.freeze - 2 ^ bit, st := .ready } : Chan)
      exact ⟨⟨hk.place.idx, hk.place.linkLost⟩, hk.links⟩

/-- Cleared of its last cause, a frozen channel is READY or RUNNING. -/
theorem Chan.thawBy_last {c : Chan} (hst : c.st = .frozen) (hf : c.freeze = 1) : (c.thawBy 0).freeze = 0 ∧ (c.thawBy 0).st ≠ .frozen := by
  unfold Chan.thawBy
  rw [if_neg (by rw [hf]; decide)]
  dsimp only
  rw [if_neg (by simp [hf, hst])]
  have hk := Chan.Keeps.unpauseAll ({ c with freeze := c.freeze - 2 ^ 0, st := .ready } : Chan)
  refine ⟨hk.freeze.trans (by simp [hf]), ?_⟩
  rcases hk.st with h | ⟨-, h | h⟩ <;> rw [h] <;> simp

/-! ## What a change of the power limits leaves of a channel that is not up -/

/-- A channel's state, registers and grove states. -/
def Chan.standing (c : Chan) : ChState × Bank × (Nat → GroveState) := (c.st, c.bank, fun g => (c.grove g).st)

theorem Chan.standing_body {a b : Chan} (h : a.body = b.body) : a.standing = b.standing :=
  show a.body.standing = b.body.standing by rw [h]

/-- A channel that no freeze cause moves: it is neither READY, RUNNING nor FROZEN. -/
def Chan.Unmoved (c : Chan) : Prop := c.st ≠ .ready ∧ c.st ≠ .running ∧ c.st ≠ .frozen

theorem Chan.Unmoved.congr {a b : Chan} (h : a.Unmoved) (hs : b.standing = a.standing) : b.Unmoved := by
  unfold Chan.Unmoved
  rw [show b.st = a.st from congrArg Prod.fst hs]
  exact h

theorem Chan.Unmoved.freezeBy {c : Chan} (h : c.Unmoved) (bit : Nat) : c.freezeBy bit = c := by
  obtain ⟨hready, hrun, hfrozen⟩ := h
  simp [Chan.freezeBy, hready, hrun, hfrozen]

theorem Chan.Unmoved.thawBy {c : Chan} (h : c.Unmoved) (bit : Nat) : (c.thawBy bit).standing = c.standing := by
  obtain ⟨-, -, hfrozen⟩ := h
  unfold Chan.thawBy
  split
  · rfl
  · dsimp only
    rw [if_pos (by simp [hfrozen])]
    rfl

theorem Chan.baseFollows_standing (x : Chan) (node : Nat) (a b : Chan) : (x.baseFollows node a b).standing = x.standing := by
  unfold Chan.baseFollows
  split
  · rfl
  · generalize groveNums = l
    induction l generalizing x with
    | nil => rfl
    | cons g t ih =>
      rw [List.foldl_cons, ih]
      dsimp only
      split
      · rfl
      · unfold Chan.standing
        refine Prod.ext rfl (Prod.ext rfl (funext fun h => ?_))
        show ((x.setGrove g _).grove h).st = _
        rw [Chan.grove_setGrove]
        split
        · next hg => rw [hg]
        · rfl

/-- A channel that keeps its links takes nothing of another's standing along. -/
theorem Chan.facing_standing (x : Chan) (c k : Nat) {a b : Chan} (h : b.links = a.links) : (x.facing c k a b).standing = x.standing := by
  rw [Chan.facing, Chan.baseFollows_standing, Chan.seamsFaced_of_links _ _ _ h]

/-- One channel of the module acts so that a given channel's standing stays. -/
theorem State.onChan_standing {s : State} {c k : Nat} {f : Chan → Chan} (h8 : k < 8) (hl : ∀ x : Chan, (f x).links = x.links)
    (hf : (f (s.chan k)).standing = (s.chan k).standing) : ((s.onChan c f).chan k).standing = (s.chan k).standing := by
  by_cases hk : k = c
  · subst hk
    rw [Chan.standing_body (s.onChan_body k f), hf]
  · rw [s.onChan_there c k f h8 hk, Chan.facing_standing _ _ _ (hl _)]

/-- What moves no channel of its kind leaves an unmoved channel's standing, over any list of channels. -/
theorem State.onChans_standing {f : Chan → Chan} (hl : ∀ x : Chan, (f x).links = x.links) (hf : ∀ x : Chan, x.Unmoved → (f x).standing = x.standing)
    (l : List Nat) {s : State} {k : Nat} (h8 : k < 8) (hu : (s.chan k).Unmoved) :
    ((l.foldl (fun s c => s.onChan c f) s).chan k).standing = (s.chan k).standing := by
  induction l generalizing s with
  | nil => rfl
  | cons c t ih =>
    have hc := State.onChan_standing (c := c) h8 hl (hf _ hu)
    rw [List.foldl_cons, ih (hu.congr hc), hc]

theorem State.recap_standing {s : State} {k : Nat} (h8 : k < 8) (hu : (s.chan k).Unmoved) : (s.recap.chan k).standing = (s.chan k).standing := by
  have hfreeze {s : State} (hu : (s.chan k).Unmoved) : ((s.freezeAll 1).chan k).standing = (s.chan k).standing :=
    State.onChans_standing (fun x => (x.freezeBy_links 1).2) (fun x hx => by rw [hx.freezeBy]) _ h8 hu
  have hthaw {s : State} (hu : (s.chan k).Unmoved) : ((s.thawAll 1).chan k).standing = (s.chan k).standing :=
    State.onChans_standing (fun x => (x.thawBy_links 1).2) (fun x hx => hx.thawBy 1) _ h8 hu
  unfold State.recap
  dsimp only
  generalize hs1 : s.onPort _ = s1
  have h1 : s1.chan k = s.chan k := by rw [← hs1]; rfl
  rw [← h1] at hu ⊢
  split
  · split
    · exact hfreeze hu
    · exact hfreeze (s := s1.pdFlag _ _) hu
  · split
    · exact hthaw hu
    · rfl

theorem State.recap_sends (s : State) : Sends s s.recap := by
  have hthaw (s : State) : Sends s (s.thawAll 1) := Sends.foldl _ _ (fun s _ => s.onChan_out _ _) s
  unfold State.recap
  dsimp only
  generalize hs1 : s.onPort _ = s1
  have h1 : Sends s s1 := by rw [← hs1]; exact Sends.refl s
  refine h1.trans ?_
  split
  · split
    · exact s1.freezeAll_sends 1
    · exact State.freezeAll_sends _ 1
  · split
    · exact hthaw s1
    · exact Sends.refl s1

/-! ## `CHANNEL_START` -/

theorem Chan.completeAll_samePlace (c : Chan) (st : Status) : c.SamePlace (c.completeAll st) := by
  unfold Chan.completeAll
  refine Chan.SamePlace.foldl (fun c q => ?_) _ c
  exact Chan.SamePlace.foldl (fun c d => (Chan.Keeps.complete c d _ _ _).place) _ c

theorem Chan.refuseHeads_body (q : Nat) (st : Status) (n : Nat) (c : Chan) : (Chan.refuseHeads q st n c).body = c.body := by
  induction n generalizing c with
  | zero => rfl
  | succ n ih =>
    unfold Chan.refuseHeads
    split
    · rfl
    · rw [ih, Chan.body_reply, Chan.body_setQueue]

/-- Refusing the commands that wait changes no more than queues. -/
theorem Chan.refuseAll_body (c : Chan) (st : Status) : (c.refuseAll st).body = c.body := by
  unfold Chan.refuseAll
  refine Chan.foldl_keeps Chan.body (fun c q => ?_) _ c
  have hheads (e : Chan) : (if (e.queue q).current.isSome then e else Chan.refuseHeads q st 65 e).body = e.body := by
    split
    · rfl
    · exact Chan.refuseHeads_body q st 65 e
  refine (Chan.foldl_keeps Chan.body (fun c d => Chan.body_reply _ _ _ _ _ _) _ _).trans ((hheads _).trans ?_)
  split
  · split
    · rfl
    · exact Chan.body_reply _ _ _ _ _ _
  · rfl

theorem Chan.blankOff_off (c : Chan) :
    c.blankOff.idx = c.idx ∧ c.blankOff.linkLost = false ∧ c.blankOff.st = .off ∧ ∀ g, (c.blankOff.grove g).st = .empty :=
  ⟨rfl, rfl, rfl, fun _ => rfl⟩

/-- A channel that is not LOCKED enters OFF with no grove; its controller link is not lost. -/
theorem Chan.enterOff_off {c : Chan} (h : c.st ≠ .locked) :
    c.enterOff.idx = c.idx ∧ c.enterOff.linkLost = false ∧ c.enterOff.st = .off ∧ ∀ g, (c.enterOff.grove g).st = .empty := by
  have hplace := (c.completeAll_samePlace .stateConflict).idx
  have hb : c.enterOff.body = (c.completeAll .stateConflict).blankOff.body := by
    rw [Chan.enterOff, if_neg h, Chan.refuseAll_body]
  generalize c.completeAll .stateConflict = e at hplace hb
  obtain ⟨hidx, hlink, hst, hgrove⟩ := e.blankOff_off
  exact ⟨(Chan.body_idx hb).trans (hidx.trans hplace), (Chan.body_linkLost hb).trans hlink, (Chan.body_st hb).trans hst,
    fun g => (congrArg Grove.st (Chan.body_grove hb g)).trans (hgrove g)⟩

/-- A channel that leaves OFF is in step 1 of bring-up (R396). -/
theorem Chan.release_step (c : Chan) (m : Nat) : (c.release m).st = .bringup ∧ (c.release m).fld F.CTL_BRINGUP_STEP = 1 :=
  ⟨rfl, Chan.fld_setFld_same _ _ _ (by decide)⟩

/-- What has been answered stays answered. -/
theorem Answered.mono {s t u : State} {d : Datagram} {st : Status} {data : Bytes} (h : Answered s t d st data) (k : Sends t u) :
    Answered s u d st data := by
  obtain ⟨blk, hn, hh, hm⟩ := h
  obtain ⟨o, ho⟩ := k
  exact ⟨blk, hn, hh, by rw [ho]; exact List.mem_append_left _ hm⟩

/-- A ready channel command that leaves a reply to itself among what its channel hands over is answered. -/
theorem ReadyC.answered_of_emit {s : State} {q : Issue} {op : Nat} {fs : List (Nat × Nat × Nat)} {conf : Chan → Datagram → Bool}
    {bad : Datagram → List (Bool × Nat)} {d : Datagram} (h : ReadyC s q op fs conf bad d) {f : Datagram → Chan → Chan} {c : Chan} {st : Status}
    {blk data : Bytes} (hf : f d ((s.chan q.channel).begun d) = c) (hl : c.linkLost = false)
    (hm : Emit.reply d.channel d.queue d.session ⟨d.seq, d.opcode, d.origin, blk ++ data⟩ ∈ c.outbox) (hn : blk.length = 16)
    (hh : blk.head? = some (BitVec.ofNat 8 st.code)) : Answered s (s.chanCmd q op fs conf bad f) d st data := by
  have hb : (s.setChan q.channel ((s.chan q.channel).begun d)).chan q.channel = (s.chan q.channel).begun d := by simp
  rw [h.chanCmd]
  exact answered_of_reply rfl h.sess (by rw [hb, hf, hl]) (by rw [hb, hf]; exact hm) rfl hn hh

/-- What `CHANNEL_START` makes of its channel: `hot` and `held` refuse it, else it leaves OFF with the module's freeze causes `m`. -/
def Chan.start (c : Chan) (hot held : Bool) (m : Nat) (d : Datagram) : Chan :=
  if hot then c.reply d .thermalHold none [] []
  else if held then c.conflict d none
  else ((if c.st = .off then c else c.enterOff).reply d .accepted none [] []).release m

/-- The module once the channel has taken its `CHANNEL_START`. -/
def State.started (s : State) (q : Issue) : State :=
  s.chanCmd q 0x09 [] noConf (fun _ => [])
    (fun d c => c.start s.tooHot (s.pd.power.ovHold && !s.pd.inputOk 800000000) s.moduleCauses d)

/-- Where the channel has entered BRINGUP, its accounts open and the power limits are judged again. -/
theorem exec_channelStart (q : Issue) (s : State) : exec (.channelStart q) s =
    .next (if ((s.started q).chan q.channel).st = .bringup && (s.chan q.channel).st ≠ .bringup then
      ((s.started q).onPort (fun p => { p.openAccounts q.channel with power := { p.power with regOff := false, ovHold := false } })).recap
    else s.started q) := rfl

section
variable {q : Issue} {d : Datagram} {s : State} (h : ReadyC s q 0x09 [] noConf (fun _ => []) d)
include h

theorem ReadyC.startable : (s.chan q.channel).st = .off ∨ (s.chan q.channel).st = .faulted := by
  simpa [chAccepts] using h.allowed.1

/-- A refused start leaves the channel. -/
theorem ReadyC.channelStart_refused {st : Status} {detail : Bytes}
    (hc : ((s.chan q.channel).begun d).start s.tooHot (s.pd.power.ovHold && !s.pd.inputOk 800000000) s.moduleCauses d =
      ((s.chan q.channel).begun d).reply d st none detail []) : Executes (.channelStart q) s d (s.chan q.channel) st [] := by
  have hst : ((s.started q).chan q.channel).st = (s.chan q.channel).st := by
    rw [State.started, Chan.body_st (h.body _), hc]
    rfl
  have hno : ¬ (((s.started q).chan q.channel).st = .bringup && (s.chan q.channel).st ≠ .bringup : Bool) = true := by
    rw [hst]
    simp
  exact Executes.of h ((exec_channelStart q s).trans (congrArg Host.Outcome.next (if_neg hno))) hc rfl rfl rfl

/-- A start that nothing refuses takes the channel into step 1 of bring-up. -/
theorem ReadyC.channelStart_starts (hhot : s.tooHot = false) (hheld : (s.pd.power.ovHold && !s.pd.inputOk 800000000) = false) :
    ∃ u, exec (.channelStart q) s = .next u ∧ Answered s u d .accepted [] ∧ (u.chan q.channel).st = .bringup ∧
      (u.chan q.channel).fld F.CTL_BRINGUP_STEP = 1 := by
  let c := (s.chan q.channel).begun d
  let e := if c.st = .off then c else c.enterOff
  have he : e.idx = d.channel := by
    refine Eq.trans ?_ (h.place.trans h.named.symm)
    rcases h.startable with hst | hst
    · have hc : c.st = .off := hst
      exact (congrArg Chan.idx (if_pos hc)).trans (show c.idx = (s.chan q.channel).idx from rfl)
    · have hc : c.st = .faulted := hst
      exact (congrArg Chan.idx (if_neg (by rw [hc]; simp))).trans (Chan.enterOff_off (by rw [hc]; simp)).1
  have hc : c.start s.tooHot (s.pd.power.ovHold && !s.pd.inputOk 800000000) s.moduleCauses d =
      (e.reply d .accepted none [] []).release s.moduleCauses := by
    rw [Chan.start, hhot, hheld]
    rfl
  have hbody : ((s.started q).chan q.channel).body = ((e.reply d .accepted none [] []).release s.moduleCauses).body := by
    rw [State.started, h.body, ← hc]
  have hst := (Chan.body_st hbody).trans (Chan.release_step _ _).1
  have hfld := (Chan.body_fld hbody F.CTL_BRINGUP_STEP).trans (Chan.release_step _ _).2
  have hyes : (((s.started q).chan q.channel).st = .bringup && (s.chan q.channel).st ≠ .bringup : Bool) = true := by
    rw [hst]
    rcases h.startable with h | h <;> rw [h] <;> rfl
  let t := (s.started q).onPort (fun p => { p.openAccounts q.channel with power := { p.power with regOff := false, ovHold := false } })
  have hkept : ((t.recap).chan q.channel).standing = ((s.started q).chan q.channel).standing :=
    State.recap_standing (s := t) h.chan (show ((s.started q).chan q.channel).Unmoved by unfold Chan.Unmoved; rw [hst]; simp)
  have hsent : Answered s (s.started q) d .accepted [] :=
    h.answered_of_emit (blk := e.block .accepted none (min ((e.queue d.queue).tokens + 1) 64) []) hc rfl
      (by rw [← he]; exact List.mem_append_right _ (List.mem_singleton.2 rfl)) (replyBlock_length _ _ _ _ _ _) (replyBlock_head _ _ _ _ _ _)
  refine ⟨t.recap, (exec_channelStart q s).trans (congrArg Host.Outcome.next (if_pos hyes)), hsent.mono t.recap_sends,
    (congrArg Prod.fst hkept).trans hst, Eq.trans ?_ hfld⟩
  unfold Chan.fld
  rw [show (t.recap.chan q.channel).bank = ((s.started q).chan q.channel).bank from congrArg (fun x => x.2.1) hkept]

end

/-! ## `CHANNEL_STOP` -/

/-- `CHANNEL_STOP` takes its channel OFF, with its groves. -/
theorem ReadyC.channelStop {q : Issue} {d : Datagram} {s : State} (h : ReadyC s q 0x0A [] noConf (fun _ => []) d) :
    ∃ u, exec (.channelStop q) s = .next u ∧ Answered s u d .ok [] ∧ (u.chan q.channel).st = .off ∧
      ∀ g < 16, ((u.chan q.channel).grove g).st = .empty := by
  have hlocked : ((s.chan q.channel).begun d).st ≠ .locked := by
    intro hst
    have hacc := h.allowed.1
    rw [show (s.chan q.channel).st = .locked from hst] at hacc
    exact absurd hacc (by simp [chAccepts])
  obtain ⟨hidx, hlink, hoff, hgroves⟩ := Chan.enterOff_off hlocked
  let t := s.chanCmd q 0x0A [] noConf (fun _ => []) (fun d c => c.enterOff.reply d .ok none [] [])
  have hbody : (t.chan q.channel).body = ((s.chan q.channel).begun d).enterOff.body := (h.body _).trans (Chan.body_reply _ _ _ _ _ _)
  have hst : (t.chan q.channel).st = .off := (Chan.body_st hbody).trans hoff
  have hkept := State.recap_standing (s := t) h.chan (show (t.chan q.channel).Unmoved by unfold Chan.Unmoved; rw [hst]; simp)
  have hsent : Answered s t d .ok [] := h.answered rfl hidx (hlink.trans h.link.symm)
  refine ⟨t.recap, rfl, hsent.mono t.recap_sends, (congrArg Prod.fst hkept).trans hst, fun g _ => ?_⟩
  exact (congrFun (congrArg (fun x => x.2.2) hkept) g).trans ((congrArg Grove.st (Chan.body_grove hbody g)).trans (hgroves g))

/-! ## `CHANNEL_FREEZE` -/

/-- Every grove of the channel is at rest: it is not active, and if it is paused nothing of it moves. -/
def Chan.Still (c : Chan) : Prop := ∀ g, (c.grove g).st.active = false ∧ ((c.grove g).st = .paused → c.quiet g = true)

theorem Chan.Still.pauseGrove {c : Chan} (h : c.Still) (g cause : Nat) : (c.pauseGrove g cause).Still := by
  unfold Chan.pauseGrove
  dsimp only
  rw [if_neg (by rw [(h g).1]; simp)]
  split
  · intro k
    have hupd (m : Nat) : ((c.setGrove g { c.grove g with causes := m }).grove k).st = (c.grove k).st ∧
        ((c.setGrove g { c.grove g with causes := m }).grove k).update = (c.grove k).update := by
      rw [Chan.grove_setGrove]
      split
      · next hk => rw [hk]; exact ⟨rfl, rfl⟩
      · exact ⟨rfl, rfl⟩
    have hk := h k
    unfold Chan.quiet at hk ⊢
    rw [(hupd _).1, (hupd _).2]
    exact hk
  · exact h

theorem Chan.Still.freezeBy {c : Chan} (h : c.Still) (bit : Nat) : (c.freezeBy bit).Still := by
  have hfold (l : List Nat) (c : Chan) (h : c.Still) : (l.foldl (fun (c : Chan) g => c.pauseGrove g 1) c).Still := by
    induction l generalizing c with
    | nil => exact h
    | cons g t ih => exact ih _ (h.pauseGrove g 1)
  unfold Chan.freezeBy
  dsimp only
  split
  · exact hfold _ _ h
  · split <;> exact h

theorem Chan.pauseGrove_queue (c : Chan) (g cause r : Nat) : (c.pauseGrove g cause).queue r = c.queue r := by
  have hsettle (c : Chan) : c.settle.queue r = c.queue r := by
    unfold Chan.settle
    split <;> rfl
  unfold Chan.pauseGrove
  dsimp only
  split
  · exact hsettle _
  · split <;> rfl

theorem Chan.freezeBy_queue (c : Chan) (bit r : Nat) : (c.freezeBy bit).queue r = c.queue r := by
  unfold Chan.freezeBy
  dsimp only
  split
  · exact Chan.foldl_keeps (·.queue r) (fun c g => c.pauseGrove_queue g 1 r) _ _
  · split <;> rfl

/-- Every command of a list that is answered one after the other has its reply among what the channel hands over. -/
theorem Chan.foldl_reply_sends {st : Status} {d : Datagram} (l : List Datagram) (c : Chan) (hm : d ∈ l) : ∃ blk : Bytes, blk.length = 16 ∧
    blk.head? = some (BitVec.ofNat 8 st.code) ∧ Emit.reply c.idx d.queue d.session ⟨d.seq, d.opcode, d.origin, blk ++ []⟩ ∈
      (l.foldl (fun (c : Chan) d => c.reply d st none [] []) c).outbox := by
  have hstays (l : List Datagram) (c : Chan) {e : Emit} (he : e ∈ c.outbox) :
      e ∈ (l.foldl (fun (c : Chan) d => c.reply d st none [] []) c).outbox := by
    induction l generalizing c with
    | nil => exact he
    | cons x t ih => exact ih _ (List.mem_append_left _ he)
  induction l generalizing c with
  | nil => cases hm
  | cons x t ih =>
    rcases List.mem_cons.1 hm with rfl | ht
    · exact ⟨c.block st none (min ((c.queue d.queue).tokens + 1) 64) [], replyBlock_length _ _ _ _ _ _, replyBlock_head _ _ _ _ _ _,
        hstays t _ (List.mem_append_right _ (List.mem_singleton.2 rfl))⟩
    · exact ih (c.reply x st none [] []) ht

/-- Where every grove is at rest, a `CHANNEL_FREEZE` that has begun is answered. -/
theorem Chan.Still.answerFreeze {c : Chan} (h : c.Still) {d : Datagram} (hop : d.opcode = 0x0B) {r : Nat} (h8 : r < 8)
    (hd : (c.queue r).current = some d) : ∃ blk : Bytes, blk.length = 16 ∧ blk.head? = some (BitVec.ofNat 8 Status.ok.code) ∧
      Emit.reply c.idx d.queue d.session ⟨d.seq, d.opcode, d.origin, blk ++ []⟩ ∈ c.answerFreeze.outbox := by
  have hrest : ¬ groveNums.any (fun g => (c.grove g).st.active || ((c.grove g).st = .paused && !c.quiet g)) = true := by
    rw [Bool.not_eq_true, List.any_eq_false]
    intro g _
    obtain ⟨hact, hquiet⟩ := h g
    simp only [hact, Bool.false_or, Bool.and_eq_true, decide_eq_true_eq, Bool.not_eq_true', not_and, Bool.not_eq_false]
    exact hquiet
  rw [Chan.answerFreeze, if_neg hrest]
  exact Chan.foldl_reply_sends _ c (List.mem_filterMap.2 ⟨r, List.mem_range.2 h8, by simp only [hd, hop, if_true]⟩)

/-- A cause that is set reads as set. -/
theorem bits_set_low (n : Nat) : bits (if bits n 0 1 = 1 then n else n + 2 ^ 0) 0 1 = 1 := by
  by_cases h : bits n 0 1 = 1
  · rw [if_pos h, h]
  · rw [if_neg h]
    unfold bits at h ⊢
    omega

/-- `CHANNEL_FREEZE` freezes its channel for cause HOST, and is answered at once where every grove is at rest. -/
theorem ReadyC.channelFreeze {q : Issue} {d : Datagram} {s : State} (h : ReadyC s q 0x0B [] noConf (fun _ => []) d) :
    ∃ u, exec (.channelFreeze q) s = .next u ∧ (u.chan q.channel).st = .frozen ∧ bits (u.chan q.channel).freeze 0 1 = 1 ∧
      ActsOn s u q.channel (u.chan q.channel) ∧ ((s.chan q.channel).Still → Answered s u d .ok []) := by
  have hst : (s.chan q.channel).st = .ready ∨ (s.chan q.channel).st = .running ∨ (s.chan q.channel).st = .frozen := by
    simpa [chAccepts, or_assoc] using h.allowed.1
  obtain ⟨hfrozen, hcause⟩ := Chan.freezeBy_frozen (c := (s.chan q.channel).begun d) hst 0
  have hplace := ((s.chan q.channel).begun d).freezeBy_links 0 |>.1
  have hqueue : ((((s.chan q.channel).begun d).freezeBy 0).queue d.queue).current = some d := by
    rw [Chan.freezeBy_queue, Chan.begun, Chan.queue_setQueue, if_pos rfl]
    rfl
  have hstill (hs : (s.chan q.channel).Still) : (((s.chan q.channel).begun d).freezeBy 0).Still :=
    Chan.Still.freezeBy (c := (s.chan q.channel).begun d) hs 0
  generalize hc : ((s.chan q.channel).begun d).freezeBy 0 = c at hfrozen hcause hplace hqueue hstill
  have hkeeps := Chan.Keeps.answerFreeze c
  have hacts : ActsOn s (s.chanCmd q 0x0B [] noConf (fun _ => []) (fun _ c => (c.freezeBy 0).answerFreeze)) q.channel c.answerFreeze := by
    rw [← hc]
    exact h.actsOn _
  refine ⟨_, rfl, (Chan.body_st hacts.here).trans ?_, ?_, hacts.congr_body hacts.here.symm, fun hs => ?_⟩
  · rcases hkeeps.st with hk | ⟨hup, -⟩
    · exact hk.trans hfrozen
    · exact absurd hup (by simp [Chan.Up, hfrozen])
  · rw [Chan.body_freeze hacts.here, hkeeps.freeze, hcause]
    exact bits_set_low _
  · obtain ⟨blk, hn, hh, hm⟩ := (hstill hs).answerFreeze h.opcode (h.queue ▸ h.owned) hqueue
    refine h.answered_of_emit (congrArg Chan.answerFreeze hc) (hkeeps.place.linkLost.trans (hplace.linkLost.trans h.link)) ?_ hn hh
    rw [h.named, ← h.place]
    rwa [hplace.idx] at hm

/-! ## The obligation -/

/-- Settles O41: a start is the branch that heat and the input select; what follows it in the module moves no channel that is OFF or comes up. -/
theorem channelsStartStopFreezeAndThaw : Obligations.ChannelsStartStopFreezeAndThaw := by
  unfold Obligations.ChannelsStartStopFreezeAndThaw
  refine fun q d s => ⟨fun h => ⟨fun hhot hin => ?_, fun hhot hheld hin => ?_, fun hhot => ?_⟩, fun h => h.channelStop,
    fun h => h.channelFreeze, fun h => ?_, Chan.thawBy_last⟩
  · refine h.channelStart_starts hhot ?_
    rcases hin with hin | hin <;> simp [hin]
  · exact h.channelStart_refused (by rw [hhot, hheld, hin]; rfl)
  · exact h.channelStart_refused (by rw [hhot]; rfl)
  · obtain ⟨hplace, -⟩ := ((s.chan q.channel).begun d).thawBy_links 0
    exact Executes.of h rfl rfl hplace.idx hplace.linkLost rfl

end Sys2Proof.Machine
end

section
/-! PROOFS. Every command completes, leaves the commands that wait, keeps the heartwood cell sound, and unlocks nothing. -/

namespace Sys2Proof.Machine

/-! ## Changes of the heartwood cell that keep its figures sound -/

theorem newest_length_le {α : Type} (n : Nat) (l : List α) : (newest n l).length ≤ n := by
  simp [newest]

theorem mem_of_mem_newest {α : Type} {n : Nat} {l : List α} {a : α} (h : a ∈ newest n l) : a ∈ l := by
  unfold newest at h
  exact List.mem_reverse.1 (List.mem_of_mem_take (List.mem_reverse.1 h))

/-- The cell with one breach more (R436). -/
def Cell.breached (c : Cell) : Cell :=
  { c with broken := true, breachN := c.breachN + 1, breaches := newest 64 (c.breaches ++ [⟨c.breachN + 1, c.counts, c.readouts⟩]) }

/-- The cell's counts after a sample (R432). -/
def Cell.sampled (c : Cell) (mwh : List Nat) : List Nat := (List.range 9).map (fun i => (c.counts.getD i 0 + mwh.getD i 0) % 2 ^ 64)

theorem Cell.sampled_wide (c : Cell) (mwh : List Nat) : ∀ v ∈ c.sampled mwh, v < 2 ^ 64 := by
  intro v hv
  obtain ⟨i, -, rfl⟩ := List.mem_map.1 hv
  exact Nat.mod_lt _ (by positivity)

/-- Soundness speaks of the counts, their last write and the breach log alone. -/
theorem Cell.Sound.congr {c d : Cell} (h : c.Sound) (hcounts : d.counts = c.counts) (hnv : d.nv = c.nv) (hn : d.breachN = c.breachN)
    (hb : d.breaches = c.breaches) : d.Sound := by
  obtain ⟨h1, h2, h3, h4, h5, h6⟩ := h
  exact ⟨hcounts ▸ h1, hnv ▸ h2, by rw [hcounts, hnv]; exact h3, by rw [hcounts, hnv]; exact h4, hb ▸ h5, by rw [hb, hn]; exact h6⟩

/-- New counts, and a write of them where the total has gained a Wh. -/
theorem Cell.Sound.sampled {c : Cell} (h : c.Sound) (mwh : List Nat) :
    (if c.nv.getD 0 0 + 1000 ≤ (c.sampled mwh).getD 0 0 then { c with counts := c.sampled mwh, nv := c.sampled mwh, torn := false }
      else { c with counts := c.sampled mwh } : Cell).Sound := by
  have hlen : (c.sampled mwh).length = 9 := by simp [Cell.sampled]
  have hwide := c.sampled_wide mwh
  split
  · exact ⟨hlen, hlen, ⟨hwide, hwide⟩, by dsimp only; omega, h.breaches, h.numbered⟩
  · exact ⟨hlen, h.nv, ⟨hwide, h.wide.2⟩, by dsimp only; omega, h.breaches, h.numbered⟩

/-- The counts are those last written, at power-on (R433). -/
theorem Cell.Sound.started {c : Cell} (h : c.Sound) (torn gap link : Bool) :
    ({ c with counts := c.nv, torn := torn, gapSeen := gap, link := link } : Cell).Sound :=
  ⟨h.nv, h.nv, ⟨h.wide.2, h.wide.2⟩, by dsimp only; omega, h.breaches, h.numbered⟩

/-- What is written are the counts, at a power loss that the write outlasts (R433). -/
theorem Cell.Sound.written {c : Cell} (h : c.Sound) (torn : Bool) : ({ c with nv := c.counts, torn := torn } : Cell).Sound :=
  ⟨h.counts, h.counts, ⟨h.wide.1, h.wide.1⟩, by dsimp only; omega, h.breaches, h.numbered⟩

theorem Cell.Sound.breached {c : Cell} (h : c.Sound) : c.breached.Sound := by
  refine ⟨h.counts, h.nv, h.wide, h.kept, newest_length_le 64 _, fun r hr => ?_⟩
  rcases List.mem_append.1 (mem_of_mem_newest hr) with hr | hr
  · exact (h.numbered r hr).trans (Nat.le_succ _)
  · rw [List.mem_singleton.1 hr]
    exact le_rfl

/-! ## What every command keeps -/

/-- From `s` to `t` the waiting commands are as they were, a sound cell is sound, and a locked module is locked. -/
structure Lawful (s t : State) : Prop where
  pending : t.pending = s.pending
  sound   : s.cell.Sound → t.cell.Sound
  locked  : s.pd.locked = true → t.pd.locked = true

theorem Quiet.lawful {s t : State} (h : Quiet s t) : Lawful s t := ⟨h.pending, fun hs => by rw [h.cell]; exact hs, h.locked⟩

theorem Lawful.refl (s : State) : Lawful s s := (Quiet.refl s).lawful

theorem Lawful.trans {a b c : State} (h : Lawful a b) (k : Lawful b c) : Lawful a c :=
  ⟨k.pending.trans h.pending, fun x => k.sound (h.sound x), fun x => k.locked (h.locked x)⟩

theorem Lawful.ite {p : Prop} [Decidable p] {s a b : State} (ha : Lawful s a) (hb : Lawful s b) : Lawful s (if p then a else b) := by
  split <;> assumption

/-- A change of the port die that leaves its lock. -/
theorem State.onPort_lawful (s : State) (f : PortDie → PortDie) (h : (f s.pd).locked = s.pd.locked) : Lawful s (s.onPort f) :=
  ⟨rfl, id, fun hl => h.trans hl⟩

/-- A change of the cell that keeps its figures sound. -/
theorem State.withCell_lawful (s : State) (c : Cell) (h : s.cell.Sound → c.Sound) : Lawful s { s with cell := c } := ⟨rfl, h, id⟩

/-- A module command is lawful where its effect is. -/
theorem State.modCmd_lawful (s : State) (q : Issue) (op : Nat) (fs : List (Nat × Nat × Nat)) (conf : Bool)
    (bad : Datagram → List (Bool × Nat)) (f : Datagram → State → State) (hf : ∀ d u, Lawful u (f d u)) :
    Lawful s (s.modCmd q op fs conf bad f) := by
  rcases s.modCmd_around q op fs conf bad f with h | ⟨d, u, hu, h⟩
  · exact h.lawful
  · exact hu.lawful.trans ((hf d u).trans h.lawful)

/-! ## The commands that change the cell or open a session -/

section
variable (s : State) (q : Issue)

/-- A command that completes lawfully. -/
def Instr.LawfulAt (i : Instr) (s : State) : Prop := ∃ t, exec i s = .next t ∧ Lawful s t

theorem State.openSession_lawful (d : Datagram) (fpr : Bytes) (idle : Nat) : Lawful s (s.openSession d fpr idle) := by
  have hdraws : Quiet s ((s.draw.2.drawBytes 32).2.draw.2.draw).2 :=
    ((s.draw_quiet.trans (State.drawBytes_quiet _ _)).trans (State.draw_quiet _)).trans (State.draw_quiet _)
  unfold State.openSession
  exact hdraws.lawful.trans ((State.onPort_lawful _ _ rfl).trans (State.replyM_quiet _ _ _ _ _).lawful)

theorem State.keySession_lawful (d : Datagram) (o : PendingOpen) (ct sig : Bytes) : Lawful s (s.keySession d o ct sig) := by
  have hpend : Lawful s (s.onPort (fun p => { p with pending := p.pending.filter (fun x => x.id ≠ o.id) })) := s.onPort_lawful _ rfl
  have hfail := hpend.trans ((State.replyM_quiet _ d .signatureFail [] []).trans (State.sigFail_quiet _)).lawful
  unfold State.keySession
  dsimp only
  split
  · exact Lawful.ite hfail ((hpend.trans (State.draw_quiet _).lawful).trans ((State.onPort_lawful _ _ rfl).trans (State.deliver_quiet _ _ _).lawful))
  · exact hfail

theorem sessionOpen_lawful (fpr nonce : Bytes) (idle : Nat) : Instr.LawfulAt (.sessionOpen q fpr nonce idle) s := by
  refine ⟨_, rfl, State.modCmd_lawful _ _ _ _ _ _ _ fun d u => ?_⟩
  have hreply (st : Status) (detail : Bytes) := (u.replyM_quiet d st detail []).lawful
  exact Lawful.ite (hreply _ _) (Lawful.ite (hreply _ _) (Lawful.ite (hreply _ _) (Lawful.ite (hreply _ _) (u.openSession_lawful d _ _))))

theorem sessionKey_lawful (id : Nat) (ct sig : Bytes) : Instr.LawfulAt (.sessionKey q id ct sig) s := by
  refine ⟨_, rfl, State.modCmd_lawful _ _ _ _ _ _ _ fun d u => ?_⟩
  have hreply (st : Status) := (u.replyM_quiet d st [] []).lawful
  refine Lawful.ite (hreply _) ?_
  split
  · exact hreply _
  · exact Lawful.ite (hreply _) (u.keySession_lawful d _ ct sig)

theorem energyRead_lawful (chmask : Nat) (nonce : Bytes) : Instr.LawfulAt (.energyRead q chmask nonce) s := by
  refine ⟨_, rfl, State.modCmd_lawful _ _ _ _ _ _ _ fun d u => ?_⟩
  have hreply (st : Status) := (u.replyM_quiet d st [] []).lawful
  have hread : Lawful u.draw.2 { u.draw.2 with cell := { u.draw.2.cell with readouts := u.draw.2.cell.readouts + 1, gapSeen := false } } :=
    State.withCell_lawful _ _ fun h => h.congr rfl rfl rfl rfl
  exact Lawful.ite (hreply _) (Lawful.ite (hreply _) (u.draw_quiet.lawful.trans (hread.trans (State.replyM_quiet _ _ _ _ _).lawful)))

theorem sealBreach_lawful : Instr.LawfulAt .sealBreach s := by
  have h : Lawful s { s with cell := s.cell.breached } := s.withCell_lawful _ Cell.Sound.breached
  exact ⟨_, rfl, Lawful.ite (h.trans (State.breachHeard_quiet _).lawful) h⟩

theorem cellEnergySample_lawful (mwh : List Nat) : Instr.LawfulAt (.cellEnergySample mwh) s :=
  ⟨_, rfl, s.withCell_lawful _ fun h => h.sampled mwh⟩

theorem cellPowerLoss_lawful (complete : Bool) : Instr.LawfulAt (.cellPowerLoss complete) s := by
  refine ⟨_, rfl, s.withCell_lawful _ fun h => ?_⟩
  split
  · exact h.written false
  · exact h.congr rfl rfl rfl rfl

theorem cellReport_lawful : Instr.LawfulAt .cellReport s := by
  have h : Lawful s { s with cell := { s.cell with link := true } } := s.withCell_lawful _ fun h => h.congr rfl rfl rfl rfl
  exact ⟨_, rfl, Lawful.ite (Lawful.refl s)
    ((Lawful.ite (h.trans (State.breachHeard_quiet _).lawful) h).trans (State.takeCell_quiet _).lawful)⟩

theorem cellLinkTimeout_lawful : Instr.LawfulAt .cellLinkTimeout s := by
  have h : Lawful s { s with cell := { s.cell with link := false } } := s.withCell_lawful _ fun h => h.congr rfl rfl rfl rfl
  exact ⟨_, rfl, Lawful.ite (Lawful.refl s) (h.trans (State.pdFlag_quiet _ _ _).lawful)⟩

theorem State.cellStarts_lawful : Lawful s s.cellStarts := s.withCell_lawful _ fun h => h.started _ _ _

theorem powerOn_lawful (a b : Option Bytes) (straps : BitVec 3) (ref : Bool) : Instr.LawfulAt (.powerOn a b straps ref) s :=
  ⟨_, rfl, Lawful.ite (Lawful.refl s) ((((s.onPort_lawful _ rfl).trans (State.cellStarts_lawful _)).trans
    (Lawful.ite (State.pdFlag_quiet _ _ _).lawful (Lawful.refl _))).trans
      ((State.resetReleased_quiet _ _ _ _ _).trans (State.recap_quiet _)).lawful)⟩

end

/-! ## Every command and every step -/

/-- A command is quiet, or one of the few that change the cell or open a session. -/
theorem exec_lawful (i : Instr) (s : State) : Instr.LawfulAt i s := by
  cases h : Instr.notQuiet i with
  | false =>
    obtain ⟨t, ht, hq⟩ := exec_quiet i s h
    exact ⟨t, ht, hq.lawful⟩
  | true =>
    cases i <;> simp only [Instr.notQuiet, Bool.false_eq_true] at h
    case sessionOpen q f n x => exact sessionOpen_lawful s q f n x
    case sessionKey q x ct sig => exact sessionKey_lawful s q x ct sig
    case energyRead q m n => exact energyRead_lawful s q m n
    case sealBreach => exact sealBreach_lawful s
    case cellEnergySample l => exact cellEnergySample_lawful s l
    case cellPowerLoss c => exact cellPowerLoss_lawful s c
    case cellReport => exact cellReport_lawful s
    case cellLinkTimeout => exact cellLinkTimeout_lawful s
    case powerOn a b st r => exact powerOn_lawful s a b st r

theorem step_of_empty {s : State} (h : s.pending = []) : step s = .next s.tick := by
  unfold step
  rw [h]

/-- Settles O1. -/
theorem stepRunsTheFrontCommand : Obligations.StepRunsTheFrontCommand := by
  intro c rest s h
  unfold step
  rw [h]

/-- A step is lawful on the state without its front command. -/
theorem step_lawful {s t : State} (h : step s = .next t) : Lawful { s with pending := s.pending.tail } t := by
  cases hp : s.pending with
  | nil =>
    cases (step_of_empty hp).symm.trans h
    have hs : ({ s with pending := s.pending.tail } : State) = s := by rw [hp, List.tail_nil, ← hp]
    rw [← hp, hs]
    exact s.tick_quiet.lawful
  | cons i rest =>
    rw [stepRunsTheFrontCommand i rest s hp] at h
    obtain ⟨u, hu, hl⟩ := exec_lawful i { s with pending := rest }
    cases hu.symm.trans h
    exact hl

/-- Settles O3: each command completes, and a step is lawful. -/
theorem everyCommandCompletesAndLeavesTheQueue : Obligations.EveryCommandCompletesAndLeavesTheQueue := by
  refine ⟨fun i s => ?_, fun s t h => (step_lawful h).pending⟩
  obtain ⟨t, ht, -⟩ := exec_lawful i s
  exact ⟨t, ht⟩

/-- Settles O5: the few commands that change the cell keep its figures sound, and every other step leaves it. -/
theorem everyStepKeepsTheCellSound : Obligations.EveryStepKeepsTheCellSound :=
  fun _ _ h hs => (step_lawful h).sound hs

/-- Settles O7: a step is lawful. -/
theorem lockedStaysLocked : Obligations.LockedStaysLocked :=
  fun _ _ h hs => (step_lawful h).locked hs

end Sys2Proof.Machine
end

section
/-! PROOFS. A full-word write of a register, bit by bit. -/

namespace Sys2Proof.Machine

/-- The staged copy after a write of a register that has one. -/
theorem Bank.getStaged_write (t : List RegDef) (b : Bank) {d : RegDef} (hd : d.isStaged = true) (off : Nat) (v live : Word) :
    (b.write t d off v live).bank.getStaged t off = (b.getStaged t off &&& ~~~ d.bitsOf .rws) ||| (v &&& d.bitsOf .rws) := by
  let b1 := b.put t off ((b.get t off &&& ~~~ d.bitsOf .rw &&& ~~~ (d.bitsOf .w1c &&& v)) ||| (v &&& d.bitsOf .rw))
  let w := (b.getStaged t off &&& ~~~ d.bitsOf .rws) ||| (v &&& d.bitsOf .rws)
  have hput : (b1.putStaged t off w).getStaged t off = w := (mapGet_mapSet (b1.get t) b1.staged off off w).trans (if_pos rfl)
  refine Eq.trans ?_ hput
  unfold Bank.write
  dsimp only
  rw [if_pos hd]
  split <;> rfl

theorem Bank.rsv_write (t : List RegDef) (b : Bank) (d : RegDef) (off : Nat) (v live : Word) :
    (b.write t d off v live).rsv = decide ((v ^^^ live) &&& d.bitsOf .rsv ≠ 0) := rfl

/-- A word with the bits `m` taken from `v`, bit by bit. -/
theorem Word.getLsbD_masked (w v m : Word) (k : Nat) :
    ((w &&& ~~~ m) ||| (v &&& m)).getLsbD k = if m.getLsbD k then v.getLsbD k else w.getLsbD k := by
  by_cases hk : k < 32
  · simp only [BitVec.getLsbD_or, BitVec.getLsbD_and, BitVec.getLsbD_not, hk]
    cases m.getLsbD k <;> simp
  · simp [BitVec.getLsbD_of_ge _ k (Nat.not_lt.1 hk)]

/-- A word is not 0 where it has a bit. -/
theorem Word.ne_zero_iff (w : Word) : w ≠ 0 ↔ ∃ k < 32, w.getLsbD k = true := by
  constructor
  · intro hw
    by_contra hno
    push Not at hno
    exact hw (BitVec.eq_of_getLsbD_eq fun k hk => by simpa using hno k hk)
  · rintro ⟨k, -, hbit⟩ rfl
    simp at hbit

/-- Settles O30: the bits of the stored word and of the staged copy, one access type at a time. -/
theorem registerWritesFollowTheirAccessTypes : Obligations.RegisterWritesFollowTheirAccessTypes := by
  intro b d off v live
  refine ⟨fun k hk => ?_, fun hd k hk hbit => ?_, fun o ho => ?_, ?_⟩
  · rw [Bank.get_write, if_pos rfl]
    simp only [BitVec.getLsbD_or, BitVec.getLsbD_and, BitVec.getLsbD_not, hk]
    cases (d.bitsOf .rw).getLsbD k <;> simp
  · rw [Bank.getStaged_write chanRegs b hd, Word.getLsbD_masked, if_pos hbit]
  · rw [Bank.get_write, if_neg ho]
  · rw [Bank.rsv_write, decide_eq_true_eq, Word.ne_zero_iff]
    simp [BitVec.getLsbD_and, BitVec.getLsbD_xor, and_comm]

end Sys2Proof.Machine
end

section
/-! PROOFS. A word written in a channel's registers, directly or through an aliasing word: each way that a write can go. -/

namespace Sys2Proof.Machine

/-! ## A word outside the aliasing window (R316-R318, R335, R369) -/

/-- A write would change a staged copy that a pending strobe covers. -/
def Chan.pends (c : Chan) (d : RegDef) (off : Nat) : Prop :=
  d.isStaged = true ∧ ∃ g, c.groupOf off = some g ∧ (c.grove g).strobe.isSome = true

/-- A write would change the ring configuration of a grove whose ring is under way. -/
def Chan.ringBusy (c : Chan) (d : RegDef) (off : Nat) : Prop :=
  d.base ∈ [R.CKP_GRV_CFG, R.CKP_GRV_STAGE, R.CKP_GRV_RANGES, R.CKP_GRV_CARRY] ∧ (c.grove (d.copyOf off)).ring.phase ≠ 0

/-- A write would set units that the understory cannot keep. -/
def Chan.unitsFull (c : Chan) (off : Nat) (v : Word) : Prop := off = R.CTL_UND_CFG ∧ c.unitsOk (F.CTL_UND_CFG_UNITS.of v) = false

theorem Chan.pends_iff (c : Chan) (d : RegDef) (off : Nat) :
    (d.isStaged && (match c.groupOf off with | some g => (c.grove g).strobe.isSome | none => false)) = true ↔ c.pends d off := by
  unfold Chan.pends
  cases c.groupOf off <;> simp

/-- The channel after a write that goes through. -/
def Chan.written (c : Chan) (d : RegDef) (off : Nat) (v : Word) : Chan :=
  let r := c.bank.write chanRegs d off v (c.liveWord d off)
  let c1 : Chan := { c with bank := r.bank }
  (if r.rsv then c1.flagRsv else c1).writeActs off v (c.reg off)

section
variable {c : Chan} {off : Nat} {v : Word}

theorem Chan.writePlain_unmapped (h : findReg chanRegs off = none) : c.writePlain off v = (c, .ok) := by
  unfold Chan.writePlain
  rw [h]

variable {d : RegDef} (h : findReg chanRegs off = some d)
include h

theorem Chan.writePlain_lacking (hl : c.lacks off = true) : c.writePlain off v = (c, .ok) := by
  unfold Chan.writePlain
  rw [h]
  exact if_pos hl

variable (hl : c.lacks off = false)
include hl

theorem Chan.writePlain_pending (hp : c.pends d off) : c.writePlain off v = (c, .conflict) := by
  unfold Chan.writePlain
  rw [h]
  simp only [hl, Bool.false_eq_true, if_false]
  exact if_pos ((c.pends_iff d off).2 hp)

variable (hp : ¬ c.pends d off)
include hp

theorem Chan.writePlain_ringBusy (hb : c.ringBusy d off) : c.writePlain off v = (c.setFld F.CKP_STATUS_CFG_BUSY 1, .ok) := by
  unfold Chan.writePlain
  rw [h]
  simp only [hl, Bool.false_eq_true, if_false]
  refine (if_neg fun hq => hp ((c.pends_iff d off).1 hq)).trans (if_pos ?_)
  exact Bool.and_eq_true_iff.2 ⟨List.contains_iff_mem.2 hb.1, decide_eq_true hb.2⟩

variable (hb : ¬ c.ringBusy d off)
include hb

/-- A write that no strobe and no ring refuses: the understory refuses it, or it goes through. -/
theorem Chan.writePlain_free :
    c.writePlain off v = if off = R.CTL_UND_CFG && !c.unitsOk (F.CTL_UND_CFG_UNITS.of v) then (c, .capacity) else (c.written d off v, .ok) := by
  unfold Chan.writePlain
  rw [h]
  simp only [hl, Bool.false_eq_true, if_false]
  refine (if_neg fun hq => hp ((c.pends_iff d off).1 hq)).trans (if_neg fun hr => hb ?_)
  obtain ⟨hmem, hphase⟩ := Bool.and_eq_true_iff.1 hr
  exact ⟨List.contains_iff_mem.1 hmem, of_decide_eq_true hphase⟩

theorem Chan.writePlain_full (hf : c.unitsFull off v) : c.writePlain off v = (c, .capacity) :=
  (Chan.writePlain_free h hl hp hb).trans (if_pos (by simp [hf.1, hf.2]))

theorem Chan.writePlain_written (hf : ¬ c.unitsFull off v) : c.writePlain off v = (c.written d off v, .ok) := by
  refine (Chan.writePlain_free h hl hp hb).trans (if_neg fun hq => hf ?_)
  simpa [Chan.unitsFull] using hq

end

/-! ## The command that writes a word directly -/

section
variable {ch : Fin 8} {off : Nat} {v : Word} {s : State}

theorem Acts.registerWrite {d : Chan} (h : (s.chan ch).registerWrite off v = d) : Acts (.registerWrite (some ch) off v) s ch d :=
  Acts.of_chanStep rfl h

theorem Chan.registerWrite_ignored {c : Chan} (h : c.regsUp = false ∨ off % 4 ≠ 0 ∨ 0x800000 ≤ off) : c.registerWrite off v = c := by
  refine if_neg fun hq => ?_
  simp only [Bool.and_eq_true, decide_eq_true_eq] at hq
  obtain ⟨⟨hup, hal⟩, hlow⟩ := hq
  rcases h with h | h | h
  · simp [h] at hup
  · exact h hal
  · exact Nat.not_le.2 hlow h

theorem Chan.registerWrite_taken {c : Chan} (hup : c.regsUp = true) (hal : off % 4 = 0) (hlow : off < 0x800000) :
    c.registerWrite off v = (c.writePlain off v).1 :=
  if_pos (by simp [hup, hal, hlow])

end

/-- Settles O31: the ways of `Chan.writePlain`, in the order in which it decides. -/
theorem registerWriteTakesTheWord : Obligations.RegisterWriteTakesTheWord := by
  intro ch off v s
  refine ⟨fun hno => .registerWrite (Chan.registerWrite_ignored hno), fun hup hal hlow => ?_, fun hno => ?_, fun hrun hal => ?_⟩
  · have acts {x : Chan} {w : WriteStat} (h : (s.chan ch).writePlain off v = (x, w)) : Acts (.registerWrite (some ch) off v) s ch x :=
      .registerWrite ((Chan.registerWrite_taken hup hal hlow).trans (congrArg Prod.fst h))
    refine ⟨fun hn => acts (Chan.writePlain_unmapped hn), fun d hd => ⟨fun hl => acts (Chan.writePlain_lacking hd hl), fun hl => ?_⟩⟩
    exact ⟨fun hp => acts (Chan.writePlain_pending hd hl hp), fun hp hb => acts (Chan.writePlain_ringBusy hd hl hp hb),
      fun hp hb hf => acts (Chan.writePlain_full hd hl hp hb hf), fun hp hb hf => acts (Chan.writePlain_written hd hl hp hb hf)⟩
  · refine congrArg Host.Outcome.next (if_neg fun hq => ?_)
    simp only [Bool.and_eq_true, decide_eq_true_eq] at hq
    exact hno.elim (fun h => by simp [h] at hq) (fun h => h hq.2)
  · exact congrArg Host.Outcome.next (if_pos (by simp [hrun, hal]))

/-! ## A bit written through its aliasing word (R320, R321) -/

/-- The aliasing word of bit `b` of the word at `a`. -/
def aliasWord (a b : Nat) : Nat := 0x800000 + a / 4 * 128 + b * 4

theorem aliasOf_aliasWord {a b : Nat} (ha : a % 4 = 0) (hb : b < 32) : aliasOf (aliasWord a b) = (a, b) := by
  unfold aliasOf aliasWord
  exact Prod.ext (by dsimp only; omega) (by dsimp only; omega)

theorem aliasWord_ge (a b : Nat) : 0x800000 ≤ aliasWord a b := by unfold aliasWord; omega

theorem bits_one (w : Word) (b : Nat) : bits w.toNat b 1 = if w.getLsbD b then 1 else 0 := by
  simp only [bits, BitVec.getLsbD, Nat.testBit_eq_decide_div_mod_eq, decide_eq_true_eq]
  split <;> omega

theorem Chan.readWord_aliasWord (c : Chan) {a b : Nat} (hlow : a < 0x40000) (ha : a % 4 = 0) (hb : b < 32) (view : Nat) :
    (c.readWord (aliasWord a b) view).toNat = if (c.readWord a 0).getLsbD b then 1 else 0 := by
  have hplain : c.readWord a 0 = c.readPlain a := by
    unfold Chan.readWord
    rw [if_neg (by omega), if_neg (by decide)]
  rw [hplain]
  unfold Chan.readWord
  rw [if_pos (aliasWord_ge a b), aliasOf_aliasWord ha hb]
  dsimp only
  rw [bits_one]
  split <;> rfl

/-- The word that R320 makes for a write of bit `b`: the bits beside it as staged or as read, those that act written 0. -/
def Chan.aliasValue (c : Chan) (d : RegDef) (a b : Nat) (v : Word) : Word :=
  let bit : Word := BitVec.ofNat 32 (2 ^ b)
  let rws := d.bitsOf .rws
  (((c.liveWord d a &&& ~~~ (d.bitsOf .w1c ||| d.bitsOf .wo) &&& ~~~ rws) ||| (c.staged a &&& rws)) &&& ~~~ bit) ||| (if v = 1 then bit else 0)

theorem getLsbD_twoPow_word {b k : Nat} (hk : k < 32) : (BitVec.ofNat 32 (2 ^ b)).getLsbD k = decide (k = b) := by
  rw [BitVec.getLsbD_ofNat, Nat.testBit_two_pow, decide_eq_true hk, Bool.true_and]
  exact decide_eq_decide.2 eq_comm

/-- No bit of a channel's registers is staged and acts when written. -/
theorem chanRegs_rws_acts : ∀ d ∈ chanRegs, d.bitsOf .rws &&& (d.bitsOf .w1c ||| d.bitsOf .wo) = 0 := by decide +kernel

theorem Word.bit_cases {v : Word} (h : v.toNat ≤ 1) : v = 0 ∨ v = 1 := by bv_omega

theorem Chan.aliasValue_bit (c : Chan) {d : RegDef} (hd : d ∈ chanRegs) (a b : Nat) {v : Word} (hv : v.toNat ≤ 1) {k : Nat} (hk : k < 32) :
    (c.aliasValue d a b v).getLsbD k =
      if k = b then v.getLsbD 0
      else if ((d.bitsOf .w1c).getLsbD k || (d.bitsOf .wo).getLsbD k) = true then false
      else if (d.bitsOf .rws).getLsbD k = true then (c.staged a).getLsbD k
      else (c.liveWord d a).getLsbD k := by
  have hacts : ((d.bitsOf .rws).getLsbD k && ((d.bitsOf .w1c).getLsbD k || (d.bitsOf .wo).getLsbD k)) = false := by
    have h := congrArg (fun w : Word => w.getLsbD k) (chanRegs_rws_acts d hd)
    simp only [BitVec.getLsbD_and, BitVec.getLsbD_or] at h
    exact h.trans (BitVec.getLsbD_zero)
  have hbit : (if v = 1 then (BitVec.ofNat 32 (2 ^ b) : Word) else 0).getLsbD k = (decide (k = b) && v.getLsbD 0) := by
    rcases Word.bit_cases hv with rfl | rfl
    · simp
    · rw [if_pos rfl, getLsbD_twoPow_word hk]
      simp
  unfold Chan.aliasValue
  simp only [BitVec.getLsbD_or, BitVec.getLsbD_and, BitVec.getLsbD_not, getLsbD_twoPow_word hk, hbit, hk, decide_true, Bool.true_and]
  by_cases hkb : k = b
  · simp [hkb]
  · revert hacts
    cases (d.bitsOf .rws).getLsbD k <;> cases (d.bitsOf .w1c).getLsbD k <;> cases (d.bitsOf .wo).getLsbD k <;> simp [hkb]

/-- The bit of an aliasing word acts when written. -/
theorem actsBit_iff (d : RegDef) {b : Nat} (hb : b < 32) :
    (d.bitsOf .w1c ||| d.bitsOf .wo) &&& BitVec.ofNat 32 (2 ^ b) ≠ 0 ↔ ((d.bitsOf .w1c).getLsbD b || (d.bitsOf .wo).getLsbD b) = true := by
  rw [Word.ne_zero_iff]
  constructor
  · rintro ⟨k, hk, h⟩
    rw [BitVec.getLsbD_and, getLsbD_twoPow_word hk, Bool.and_eq_true, decide_eq_true_eq, BitVec.getLsbD_or] at h
    exact h.2 ▸ h.1
  · intro h
    exact ⟨b, hb, by rw [BitVec.getLsbD_and, getLsbD_twoPow_word hb, BitVec.getLsbD_or, h]; simp⟩

section
variable {c : Chan} {a b : Nat} {v : Word} (ha : a % 4 = 0) (hb : b < 32)
include ha hb

theorem Chan.writeAlias_wide (hv : 2 ≤ v.toNat) : c.writeAlias (aliasWord a b) v = (c.flagAlias, .ok) := by
  unfold Chan.writeAlias
  rw [aliasOf_aliasWord ha hb]
  exact if_pos hv

theorem Chan.writeAlias_unmapped (hv : v.toNat ≤ 1) (hd : findReg chanRegs a = none) : c.writeAlias (aliasWord a b) v = (c, .ok) := by
  unfold Chan.writeAlias
  rw [aliasOf_aliasWord ha hb]
  dsimp only
  rw [if_neg (by omega), hd]

theorem Chan.writeAlias_mapped (hv : v.toNat ≤ 1) {d : RegDef} (hd : findReg chanRegs a = some d) :
    c.writeAlias (aliasWord a b) v =
      if ((d.bitsOf .w1c).getLsbD b || (d.bitsOf .wo).getLsbD b) && v = 0 then (c, .ok) else c.writePlain a (c.aliasValue d a b v) := by
  unfold Chan.writeAlias
  rw [aliasOf_aliasWord ha hb]
  dsimp only
  rw [if_neg (by omega), hd]
  simp only [actsBit_iff d hb, Bool.decide_eq_true]
  rfl

end

theorem Acts.bitAliasWrite {ch : Fin 8} {o : Nat} {v : Word} {s : State} {d : Chan}
    (h : (if (s.chan ch).regsUp && o % 4 = 0 && 0x800000 ≤ o && o < 0x1000000 then ((s.chan ch).writeAlias o v).1 else s.chan ch) = d) :
    Acts (.bitAliasWrite ch o v) s ch d := Acts.of_chanStep rfl h

/-- Settles O32: the aliasing word names its bit, and a write of it is R320's word written plainly. -/
theorem aliasWordsReadAndWriteOneBit : Obligations.AliasWordsReadAndWriteOneBit := by
  intro ch a b v s hlow ha hb
  have ho : aliasWord a b % 4 = 0 ∧ aliasWord a b < 0x1000000 := by unfold aliasWord; omega
  have taken (hup : (s.chan ch).regsUp = true) {d : Chan} {w : WriteStat} (h : (s.chan ch).writeAlias (aliasWord a b) v = (d, w)) :
      Acts (.bitAliasWrite ch (aliasWord a b) v) s ch d :=
    .bitAliasWrite ((if_pos (by simp [hup, ho, aliasWord_ge])).trans (congrArg Prod.fst h))
  refine ⟨(s.chan ch).readWord_aliasWord hlow ha hb, fun hup => .bitAliasWrite (if_neg (by simp [hup])), fun x hx => .bitAliasWrite (if_neg ?_),
    fun hup hv => ⟨taken hup (Chan.writeAlias_wide ha hb hv), ?_⟩, fun hup hv hd => taken hup (Chan.writeAlias_unmapped ha hb hv hd),
    fun d hup hv hd => ⟨fun hact hv0 => ?_, fun hgo => ?_⟩⟩
  · simp only [Bool.and_eq_true, decide_eq_true_eq]
    omega
  · exact (s.chan ch).fld_flag_same _ _ (by decide) (by decide) (by decide) (.inl (by decide))
  · exact taken hup ((Chan.writeAlias_mapped ha hb hv hd).trans (if_pos (by simp [hact, hv0])))
  · refine ⟨(s.chan ch).aliasValue d a b v, fun k hk => (s.chan ch).aliasValue_bit (List.mem_of_find?_eq_some hd) a b hv hk, ?_⟩
    refine taken (w := ((s.chan ch).writePlain a _).2) hup ((Chan.writeAlias_mapped ha hb hv hd).trans (if_neg fun hq => ?_))
    obtain ⟨hact, hv0⟩ := Bool.and_eq_true_iff.1 hq
    rcases hgo with h | h
    · rw [h] at hact
      exact Bool.false_ne_true hact
    · rw [h] at hv0
      exact absurd (of_decide_eq_true hv0) (by decide)

end Sys2Proof.Machine
end

section
/-! PROOFS. `REG_WRITE` and `REG_RMW`. -/

namespace Sys2Proof.Machine

/-! ## Writes of module-global registers keep the open sessions -/

theorem State.bindCell_keepsSessions (s : State) : KeepsSessions s s.bindCell :=
  KeepsSessions.ite (s.onPort_keepsSessions _) (s.pdFlag_keepsSessions _ _)

theorem State.pdWriteActs_keepsSessions (s : State) (off : Nat) (v : Word) : KeepsSessions s (s.pdWriteActs off v) := by
  have hhold : KeepsSessions s ((List.range 8).foldl (fun s c => if bits v.toNat c 1 = 0 then s.onChan c Chan.holdRelease else s)
      (s.onPort (fun p => { p with flash := { p.flash with hold := v.toNat % 256 } }))) :=
    (s.onPort_keepsSessions _).trans
      (KeepsSessions.foldl _ _ (fun s c => KeepsSessions.ite (s.onChan_keepsSessions c _) (KeepsSessions.refl s)) _)
  have hsec : KeepsSessions s (s.onPort (fun p =>
      let p1 := if p.meshOpen && v.getLsbD 0 then p.setFld (alarmFlag 0) 1 else p
      if s.cell.broken && v.getLsbD 1 then p1.setFld (alarmFlag 1) 1 else p1)) := by
    refine s.onPort_keepsSessions _ fun p => ?_
    dsimp only
    split <;> split <;> simp only [PortDie.setFld_sessions]
  unfold State.pdWriteActs
  split
  · exact s.onPort_keepsSessions _
  split
  · exact hhold
  split
  · exact KeepsSessions.ite (s.onPort_keepsSessions _ fun p => p.setFld_sessions _ _) (KeepsSessions.refl s)
  split
  · dsimp only
    split
    · exact s.onPort_keepsSessions _
    · exact KeepsSessions.ite (KeepsSessions.refl s) (s.pdFlag_keepsSessions _ _)
  split
  · exact hsec.trans (State.settleAlarm_keepsSessions _)
  split
  · exact KeepsSessions.ite (s.onPort_keepsSessions _ fun p => p.setFld_sessions _ _) (KeepsSessions.refl s)
  split
  · exact KeepsSessions.ite s.bindCell_keepsSessions (KeepsSessions.refl s)
  · exact KeepsSessions.refl s

theorem State.pdWrite_keepsSessions (s : State) (off : Nat) (v : Word) : KeepsSessions s (s.pdWrite off v) := by
  unfold State.pdWrite
  split
  · exact KeepsSessions.refl s
  · refine KeepsSessions.trans ?_ (State.pdWriteActs_keepsSessions _ _ _)
    exact KeepsSessions.ite ((s.onPort_keepsSessions _).trans (State.pdFlag_keepsSessions _ _ _)) (s.onPort_keepsSessions _)

theorem State.pdRmw_keepsSessions (s : State) (off : Nat) (mask v : Word) : KeepsSessions s (s.pdRmw off mask v).2 := by
  unfold State.pdRmw
  split
  · exact KeepsSessions.refl s
  · exact s.pdWrite_keepsSessions _ _

/-! ## The staged copy of a module-global register after a write (R327) -/

/-- No register that acts when written is staged, nor is the one that counts flags. -/
theorem actsOnWrite_unstaged : ∀ o ∈ [R.PD_CH_ENABLE, R.PD_CH_HOLD, R.PD_STATUS, R.PD_SNAP, R.SEC_STATUS, R.SEC_CTL, R.MET_CTL, R.PD_FLAG_COUNT],
    (findReg pdRegs o).map (·.isStaged) = some false := by decide +kernel

theorem not_actsOnWrite_of_isStaged {off : Nat} {r : RegDef} (hr : findReg pdRegs off = some r) (hst : r.isStaged = true) :
    ¬ ActsOnWrite off ∧ off ≠ R.PD_STATUS ∧ off ≠ R.PD_FLAG_COUNT := by
  have hno (o : Nat) (ho : o ∈ [R.PD_CH_ENABLE, R.PD_CH_HOLD, R.PD_STATUS, R.PD_SNAP, R.SEC_STATUS, R.SEC_CTL, R.MET_CTL, R.PD_FLAG_COUNT]) :
      off ≠ o := by
    rintro rfl
    have h := actsOnWrite_unstaged off ho
    rw [hr, Option.map_some, hst] at h
    exact absurd h (by decide)
  refine ⟨fun h => hno off ?_ rfl, hno _ (by simp), hno _ (by simp)⟩
  exact List.mem_append_left [R.PD_FLAG_COUNT] h

/-- A field of another register leaves a staged copy. -/
theorem Bank.getStaged_setFld_ne (t : List RegDef) (b : Bank) (f : Fld) (v : Nat) {k : Nat} (h : k ≠ f.off) :
    (b.setFld t f v).getStaged t k = b.getStaged t k :=
  mapGet_default b.staged ((Bank.get_put t b f.off k _).trans (if_neg h))

theorem PortDie.getStaged_flag_ne (p : PortDie) {f n : Fld} {k : Nat} (hf : k ≠ f.off) (hn : k ≠ n.off) :
    (p.flag f n).bank.getStaged pdRegs k = p.bank.getStaged pdRegs k :=
  (Bank.getStaged_setFld_ne pdRegs _ n _ hn).trans (Bank.getStaged_setFld_ne pdRegs p.bank f 1 hf)

/-- A write of a staged register sets its staged bits. -/
theorem State.pdWrite_staged (s : State) {off : Nat} {r : RegDef} (hr : findReg pdRegs off = some r) (hst : r.isStaged = true) (v : Word)
    {k : Nat} (hk : (r.bitsOf .rws).getLsbD k = true) : ((s.pdWrite off v).pd.bank.getStaged pdRegs off).getLsbD k = v.getLsbD k := by
  obtain ⟨hplain, hstatus, hcount⟩ := not_actsOnWrite_of_isStaged hr hst
  have hbank : (s.pdWrite off v).pd.bank.getStaged pdRegs off = (s.pd.bank.write pdRegs r off v (s.pdLive off)).bank.getStaged pdRegs off := by
    unfold State.pdWrite
    rw [hr]
    dsimp only
    rw [State.pdWriteActs_plain _ hplain]
    split
    · exact PortDie.getStaged_flag_ne _ hstatus hcount
    · rfl
  rw [hbank, Bank.getStaged_write pdRegs _ hst, Word.getLsbD_masked, if_pos hk]

/-! ## The commands -/

theorem State.mayWrite_begunM {s : State} {d : Datagram} (ho : (s.pd.session d.session).isSome) (offs : List Nat) :
    (s.begunM d).mayWrite d offs = s.mayWrite d offs := by
  unfold State.mayWrite
  rw [State.rights_begunM ho]

section
variable {q : Issue} {addr mask value : Word} {n : Nat} {vs : List Word} {d : Datagram} {s : State}

/-- The words of a channel's `REG_WRITE`, by their offsets in the channel's block. -/
def regWriteWords (q : Issue) (addr : Word) (n : Nat) (vs : List Word) : List (Nat × Word) :=
  ((wordsAt addr.toNat n).zip vs).map (fun w => (w.1 - chanBase q.channel, w.2))

/-- What a channel's `REG_WRITE` makes of its channel. -/
def Chan.regWrite (c : Chan) (os : List (Nat × Word)) (d : Datagram) : Chan :=
  if os.any (fun w => c.meetsPending w.1) then c.conflict d none
  else (c.writeWords os).2.reply d (if (c.writeWords os).1 then .capacity else .ok) none [] []

theorem exec_regWrite_channel (hq : q.channel < 8) : exec (.regWrite q addr n vs) s =
    .next (s.chanCmd q 0x11 [(0, 4, addr.toNat), (4, 2, n), (8, 4 * n, leNat (slice (wordBytes vs) 0 (4 * n)))] noConf
      (badWrite (inChan q.channel)) (fun d c => c.regWrite (regWriteWords q addr n vs) d)) :=
  congrArg Host.Outcome.next (if_neg (by omega))

/-- What a channel's `REG_RMW` makes of its channel. -/
def Chan.regRmw (c : Chan) (o : Nat) (mask value : Word) (d : Datagram) : Chan :=
  if c.meetsPending o then c.conflict d none
  else
    let (old, c1, st) := (c.readCheck o 0).2.rmwWord o mask value
    if st = .capacity then c1.reply d .capacity none [] [] else c1.reply d .ok none [] (leBytes 4 old.toNat)

theorem exec_regRmw_channel (hq : q.channel < 8) : exec (.regRmw q addr mask value) s =
    .next (s.chanCmd q 0x12 [(0, 4, addr.toNat), (4, 4, mask.toNat), (8, 4, value.toNat)] noConf
      (fun d => [badAddr (inChan q.channel) (pAt d 0 4) 1]) (fun d c => c.regRmw (addr.toNat - chanBase q.channel) mask value d)) :=
  congrArg Host.Outcome.next (if_neg (by omega))

theorem Chan.regRmw_body {c : Chan} {o : Nat} (h : c.meetsPending o = false) :
    (c.regRmw o mask value d).body = ((c.readCheck o 0).2.rmwWord o mask value).2.1.body := by
  unfold Chan.regRmw
  rw [h, if_neg Bool.false_ne_true]
  rcases (c.readCheck o 0).2.rmwWord o mask value with ⟨old, c1, st⟩
  dsimp only
  split <;> exact Chan.body_reply _ _ _ _ _ _

/-- What the module's `REG_WRITE` does where its session may write the words. -/
theorem ReadyM.regWrite_may (hq : q.channel = 0xFF) (h : ReadyM s q 0x11
      [(0, 4, addr.toNat), (4, 2, n), (8, 4 * n, leNat (slice (wordBytes vs) 0 (4 * n)))] false (badWrite isGlobal) d)
    (hmay : s.mayWrite d (((wordsAt addr.toNat n).zip vs).map (·.1)) = true) : ∃ u, exec (.regWrite q addr n vs) s = .next u ∧
      Answered s u d .ok [] ∧ u.cell = s.cell ∧
      u.pd.bank = (((wordsAt addr.toNat n).zip vs).foldl (fun s w => s.pdWrite w.1 w.2) (s.begunM d)).pd.bank := by
  obtain ⟨u, hu, hr, -, hp, hc⟩ := h.replies (i := .regWrite q addr n vs) (congrArg _ (if_pos hq))
    (if_neg (by rw [State.mayWrite_begunM h.open_, hmay]; decide))
    (KeepsSessions.foldl _ _ (fun s (w : Nat × Word) => s.pdWrite_keepsSessions w.1 w.2) _)
  exact ⟨u, hu, hr, hc.trans (Quiet.foldl _ _ (fun s (w : Nat × Word) => s.pdWrite_quiet w.1 w.2) _).cell, PortDie.unanswered_bank hp⟩

/-- What the module's `REG_RMW` returns where its session may write the word. -/
theorem ReadyM.regRmw_may (hq : q.channel = 0xFF) (h : ReadyM s q 0x12 [(0, 4, addr.toNat), (4, 4, mask.toNat), (8, 4, value.toNat)] false
      (fun d => [badAddr isGlobal (pAt d 0 4) 1]) d) (hmay : s.mayWrite d [addr.toNat] = true) (hsound : s.pd.bank.bad = [])
    {r : RegDef} (hr : findReg pdRegs addr.toNat = some r) : ∃ u, exec (.regRmw q addr mask value) s = .next u ∧
      Answered s u d .ok (leBytes 4 ((s.pdRead addr.toNat 0 &&& ~~~ r.bitsOf .rws) ||| (s.pd.staged addr.toNat &&& r.bitsOf .rws)).toNat) := by
  have hcheck : ((s.begunM d).pdReadCheck addr.toNat 0).2 = s.begunM d := by
    have hbad : (s.begunM d).pd.bank.bad = [] := hsound
    simp [State.pdReadCheck, State.pdCheckApplied, hbad]
  have hold : ((s.begunM d).pdRmw addr.toNat mask value).1 =
      (s.pdRead addr.toNat 0 &&& ~~~ r.bitsOf .rws) ||| (s.pd.staged addr.toNat &&& r.bitsOf .rws) := by
    unfold State.pdRmw
    rw [hr]
    dsimp only
    rw [(s.begunM_sameReads d).pdRead]
    rfl
  obtain ⟨u, hu, ha, -⟩ := h.replies (i := .regRmw q addr mask value) (congrArg _ (if_pos hq))
    (s1 := ((s.begunM d).pdRmw addr.toNat mask value).2) (st := .ok) (detail := [])
    (data := leBytes 4 ((s.begunM d).pdRmw addr.toNat mask value).1.toNat)
    ((if_neg (by rw [State.mayWrite_begunM h.open_, hmay]; decide)).trans (by rw [hcheck])) (State.pdRmw_keepsSessions _ _ _ _)
  exact ⟨u, hu, hold ▸ ha⟩

end

/-- Settles O43: a channel's commands through `Chan.regWrite` and `Chan.regRmw`, the module's through what `State.pdWrite` leaves. -/
theorem regWriteAndRegRmwWriteTheWords : Obligations.RegWriteAndRegRmwWriteTheWords := by
  intro q addr mask value n vs d s
  refine ⟨fun hq h => ⟨fun hfree => ?_, fun hpend => ?_⟩, fun hq h => ⟨fun hfree => ?_, fun hpend => ?_⟩,
    fun hq h => ⟨fun hno => ?_, fun hmay => ?_⟩, fun hq h => ⟨fun hno => ?_, fun r hmay hsound hr => h.regRmw_may hq hmay hsound hr⟩⟩
  · refine h.acts (exec_regWrite_channel hq) ?_
    exact (congrArg Chan.body (if_neg (by rw [regWriteWords, hfree]; exact Bool.false_ne_true))).trans (Chan.body_reply _ _ _ _ _ _)
  · exact Executes.of h (exec_regWrite_channel hq) (if_pos hpend) rfl rfl rfl
  · exact h.acts (exec_regRmw_channel hq) (Chan.regRmw_body hfree)
  · exact Executes.of h (exec_regRmw_channel hq) (if_pos hpend) rfl rfl rfl
  · exact ExecutesM.of h (congrArg _ (if_pos hq)) (if_pos (by rw [State.mayWrite_begunM h.open_, hno]; rfl)) (PortOnly.refl _)
      (s.begunM_key d d.session)
  · obtain ⟨u, hu, ha, hc, hb⟩ := h.regWrite_may hq hmay
    refine ⟨u, hu, ha, hc, fun r v hn hv hr hst k _ hbit => ?_⟩
    subst hn hv
    rw [hb]
    exact State.pdWrite_staged (s.begunM d) hr hst v hbit
  · exact ExecutesM.of h (congrArg _ (if_pos hq)) (if_pos (by rw [State.mayWrite_begunM h.open_, hno]; rfl)) (PortOnly.refl _)
      (s.begunM_key d d.session)

end Sys2Proof.Machine
end

section
/-! PROOFS. Strobes and discards: how each ends, and what they leave staged in the module's groups. -/

namespace Sys2Proof.Machine

/-! ## Strobes keep the channel's place -/

theorem Chan.flag_samePlace (c : Chan) (f n : Fld) : c.SamePlace (c.flag f n) := ⟨c.flag_idx f n, c.flag_linkLost f n⟩

theorem Chan.strobeResult_samePlace (c : Chan) (st : Status) (item addr : Nat) (flag : Bool) :
    c.SamePlace (c.strobeResult st item addr flag) := by
  have hres : c.SamePlace ((c.setFld F.CTL_STROBE_RESULT_STATUS st.code).setFld F.CTL_STROBE_RESULT_ITEM item) :=
    (Chan.SamePlace.setFld _ _ _).trans (.setFld _ _ _)
  unfold Chan.strobeResult
  dsimp only
  split
  · exact hres
  split
  · exact (hres.trans (.setFld _ _ _)).trans (Chan.flag_samePlace _ _ _)
  · exact hres.trans (.setFld _ _ _)

theorem Chan.strobeGate_samePlace (c : Chan) (gs : List Nat) : c.SamePlace (c.strobeGate gs).2 := by
  unfold Chan.strobeGate
  split
  · exact .refl c
  split
  · exact .refl c
  split
  · exact .refl c
  · exact .foldl (fun c o => c.checkStaged_samePlace o) _ c

theorem Chan.freeTile_samePlace (c : Chan) (i : Nat) : c.SamePlace (c.freeTile i) := by
  unfold Chan.freeTile
  exact ((Chan.SamePlace.setTile c i _).trans (.setFld _ _ _)).trans (.setFld _ _ _)

theorem Chan.takeTables_samePlace (c : Chan) (g : Nat) : c.SamePlace (c.takeTables g) := by
  have hslots : c.SamePlace (c.mapSlots g) := by
    unfold Chan.mapSlots
    dsimp only
    refine Chan.SamePlace.trans ?_ (.foldl (fun c p => ?_) _ _)
    · exact ⟨rfl, rfl⟩
    split
    · exact .setTile _ _ _
    · exact .refl c
  unfold Chan.takeTables
  exact hslots.trans (.foldl (fun c i => c.freeTile_samePlace i) _ _)

theorem Chan.applyAll_samePlace (c : Chan) (gs : List Nat) : c.SamePlace (c.applyAll gs) := by
  unfold Chan.applyAll
  exact (Chan.SamePlace.foldl (fun c g => c.withBank_samePlace _) gs c).trans (.foldl (fun c g => c.takeTables_samePlace g) _ _)

theorem Chan.onGrove_samePlace (c : Chan) (g : Nat) (f : Grove → Grove) : c.SamePlace (c.onGrove g f) := ⟨rfl, rfl⟩

theorem Chan.strobe_samePlace (c : Chan) (mask : Nat) (q : Option Nat) : c.SamePlace (c.strobe mask q).2 := by
  have hgate := c.strobeGate_samePlace (groupsOf mask)
  have ended {b : Chan} (h : c.SamePlace b) (st : Status) (k o : Nat) : c.SamePlace (b.strobeResult st k o) :=
    h.trans (b.strobeResult_samePlace st k o true)
  unfold Chan.strobe
  dsimp only
  split
  · next h => rw [h] at hgate; exact ended hgate _ _ _
  · next h =>
    rw [h] at hgate
    dsimp only at hgate
    split
    · dsimp only
      exact ended hgate _ _ _
    split
    · dsimp only
      exact ended hgate _ _ _
    split
    · exact hgate.trans ⟨rfl, rfl⟩
    · dsimp only
      exact ended (hgate.trans (Chan.applyAll_samePlace _ _)) _ _ _

theorem Chan.strobeBoundary_samePlace (c : Chan) (mask : Nat) (seq : Word) (q : Nat) : c.SamePlace (c.strobeBoundary mask seq q).2.2 := by
  have hgate := c.strobeGate_samePlace (groupsOf mask)
  have ended {b : Chan} (h : c.SamePlace b) (st : Status) (k o : Nat) : c.SamePlace (b.strobeResult st k o) :=
    h.trans (b.strobeResult_samePlace st k o true)
  unfold Chan.strobeBoundary
  dsimp only
  split
  · next h => rw [h] at hgate; exact ended hgate _ _ _
  · next h =>
    rw [h] at hgate
    dsimp only at hgate
    split
    · dsimp only
      exact ended hgate _ _ _
    split
    · dsimp only
      exact ended hgate _ _ _
    split
    · split
      · exact hgate.trans ⟨rfl, rfl⟩
      · dsimp only
        exact ended (hgate.trans (Chan.applyAll_samePlace _ _)) _ _ _
    split
    · dsimp only
      refine ended ?_ _ _ _
      exact hgate.trans (.foldl (fun c g => c.onGrove_samePlace g _) _ _)
    · dsimp only
      exact ended hgate _ _ _

theorem Chan.discard_samePlace (c : Chan) (mask : Nat) : c.SamePlace (c.discard mask).2 := by
  unfold Chan.discard
  dsimp only
  split
  · dsimp only
    exact c.strobeResult_samePlace _ _ _ _
  · have hgroups : c.SamePlace ((groupsOf mask).foldl (fun c g => c.discardGroup g) c) := .foldl (fun c g => c.withBank_samePlace _) _ c
    dsimp only
    exact hgroups.trans (Chan.strobeResult_samePlace _ _ _ _ _)

/-- A strobe that has ended is answered with its status. -/
theorem Chan.answerStrobe_reply (c : Chan) (d : Datagram) (st : Status) (item off : Nat) :
    ∃ detail, c.answerStrobe d st item off = c.reply d st none detail [] := by
  unfold Chan.answerStrobe
  split
  · next h => exact ⟨c.causes none, h ▸ rfl⟩
  · exact ⟨_, rfl⟩

/-! ## A channel's commands -/

section
variable {q : Issue} {groups : BitVec 16} {d : Datagram} {s : State}

/-- What `STROBE` makes of its channel. -/
def Chan.strobeCmd (groups : BitVec 16) (d : Datagram) (c : Chan) : Chan :=
  match c.strobe groups.toNat (some d.queue) with
  | (.done st k o, c1) => c1.answerStrobe d st k o
  | (_, c1) => c1

/-- What `STROBE_AT_BOUNDARY` makes of its channel. -/
def Chan.boundaryCmd (groups : BitVec 16) (d : Datagram) (c : Chan) : Chan :=
  match c.strobeBoundary groups.toNat d.seq d.queue with
  | (.done .ok _ _, next, c1) => (c1.reply d .accepted none [] []).complete d .ok none (leBytes 4 next)
  | (.done st k o, _, c1) => c1.answerStrobe d st k o
  | (.pending, _, c1) => c1.reply d .accepted none [] []
  | (.waits, _, c1) => c1

theorem exec_strobe_waits (hq : q.channel < 8) (hw : (s.chan q.channel).applyWait.isSome) : exec (.strobe q groups) s = .next s :=
  congrArg Host.Outcome.next ((if_neg (by omega)).trans (if_pos hw))

theorem exec_strobeAtBoundary_waits (hw : (s.chan q.channel).applyWait.isSome) : exec (.strobeAtBoundary q groups) s = .next s :=
  congrArg Host.Outcome.next (if_pos hw)

theorem exec_strobe_channel (hq : q.channel < 8) (hw : (s.chan q.channel).applyWait = none) : exec (.strobe q groups) s =
    .next (s.chanCmd q 0x13 [(0, 2, groups.toNat)] noConf (fun _ => []) (Chan.strobeCmd groups)) :=
  congrArg Host.Outcome.next ((if_neg (by omega)).trans (if_neg (by simp [hw])))

theorem exec_strobeAtBoundary_channel (hw : (s.chan q.channel).applyWait = none) : exec (.strobeAtBoundary q groups) s =
    .next (s.chanCmd q 0x14 [(0, 2, groups.toNat)] noConf (fun _ => []) (Chan.boundaryCmd groups)) :=
  congrArg Host.Outcome.next (if_neg (by simp [hw]))

/-- A ready channel command whose effect answers for a strobe that left the channel `e`. -/
theorem Executes.of_answerStrobe {i : Instr} {op : Nat} {fs : List (Nat × Nat × Nat)} {conf : Chan → Datagram → Bool}
    {bad : Datagram → List (Bool × Nat)} (h : ReadyC s q op fs conf bad d) {f : Datagram → Chan → Chan} {e : Chan} {st : Status} {k o : Nat}
    (he : exec i s = .next (s.chanCmd q op fs conf bad f)) (hf : f d ((s.chan q.channel).begun d) = e.answerStrobe d st k o)
    (hp : ((s.chan q.channel).begun d).SamePlace e) : Executes i s d e st [] := by
  obtain ⟨detail, hr⟩ := e.answerStrobe_reply d st k o
  exact Executes.of h he (hf.trans hr) hp.idx hp.linkLost rfl

/-- What a boundary strobe that is accepted and ends at once leaves. -/
theorem ReadyC.boundary_ends (h : ReadyC s q 0x14 [(0, 2, groups.toNat)] noConf (fun _ => []) d) (hw : (s.chan q.channel).applyWait = none)
    {k o n : Nat} {e : Chan} (he : ((s.chan q.channel).begun d).strobeBoundary groups.toNat d.seq d.queue = (.done .ok k o, n, e)) :
    ∃ u, exec (.strobeAtBoundary q groups) s = .next u ∧ Answered s u d .accepted [] ∧
      ActsOn s u q.channel (e.complete d .ok none (leBytes 4 n)) := by
  have hp : ((s.chan q.channel).begun d).SamePlace e := by
    have := ((s.chan q.channel).begun d).strobeBoundary_samePlace groups.toNat d.seq d.queue
    rwa [he] at this
  have hf : Chan.boundaryCmd groups d ((s.chan q.channel).begun d) = (e.reply d .accepted none [] []).complete d .ok none (leBytes 4 n) := by
    unfold Chan.boundaryCmd
    rw [he]
  have hidx : e.idx = d.channel := hp.idx.trans (h.place.trans h.named.symm)
  refine ⟨_, exec_strobeAtBoundary_channel hw, ?_, ?_⟩
  · refine h.answered_of_emit (blk := e.block .accepted none (min ((e.queue d.queue).tokens + 1) 64) []) hf (hp.linkLost.trans h.link) ?_
      (replyBlock_length _ _ _ _ _ _) (replyBlock_head _ _ _ _ _ _)
    rw [← hidx]
    exact List.mem_append_left _ (List.mem_append_right _ (List.mem_singleton.2 rfl))
  · have hact := h.actsOn (Chan.boundaryCmd groups)
    rw [hf] at hact
    exact hact.congr_body rfl

end

/-! ## What is staged in the module's groups (R327) -/

/-- The staged copy at `o`, if there is one, does not differ from its register. -/
def Bank.settledAt (b : Bank) (o : Nat) : Prop := o ∈ b.staged.map (·.1) → b.changedAt pdRegs o = false

/-- Nothing is changed in a module group where every staged copy in it is settled. -/
theorem PortDie.changed_nil_iff (p : PortDie) (n : Nat) :
    p.changed n = [] ↔ ∀ o, (findReg pdRegs o).map (·.group) = some (.mg n) → p.bank.settledAt o := by
  unfold PortDie.changed Bank.settledAt
  rw [List.filter_eq_nil_iff]
  refine forall_congr' fun o => ?_
  cases findReg pdRegs o with
  | none => simp
  | some d => by_cases hg : d.group = .mg n <;> simp [hg]

theorem mem_mapDel_keys {α : Type} (m : NMap α) (k o : Nat) : o ∈ (mapDel m k).map (·.1) ↔ o ∈ m.map (·.1) ∧ o ≠ k := by
  simp [mapDel]

/-- Whether a staged copy differs looks at its own register alone. -/
theorem Bank.changedAt_congr {a b : Bank} {o : Nat} (hget : a.get pdRegs o = b.get pdRegs o) (hstaged : a.staged = b.staged) :
    a.changedAt pdRegs o = b.changedAt pdRegs o := by
  unfold Bank.changedAt
  rw [hget, show a.getStaged pdRegs o = b.getStaged pdRegs o by rw [Bank.getStaged, Bank.getStaged, hstaged]; exact mapGet_default _ hget]

/-- Applying a staged register settles it, and leaves every other. -/
theorem Bank.settledAt_applyAt (b : Bank) (k o : Nat) (h : o = k ∨ b.settledAt o) : (b.applyAt pdRegs k).settledAt o := by
  intro hmem
  obtain ⟨hin, hne⟩ := (mem_mapDel_keys b.staged k o).1 hmem
  have hget : (b.applyAt pdRegs k).get pdRegs o = b.get pdRegs o := (Bank.get_put pdRegs b k o _).trans (if_neg hne)
  have hst : (b.applyAt pdRegs k).getStaged pdRegs o = b.getStaged pdRegs o :=
    (mapGet_mapDel _ b.staged k o).trans ((if_neg hne).trans (mapGet_default _ hget))
  have hsame : (b.applyAt pdRegs k).changedAt pdRegs o = b.changedAt pdRegs o := by
    unfold Bank.changedAt
    rw [hget, hst]
  exact hsame.trans (h.resolve_left hne hin)

theorem Bank.settledAt_applyAll (l : List Nat) (b : Bank) (o : Nat) (h : o ∈ l ∨ b.settledAt o) :
    (l.foldl (fun b o => b.applyAt pdRegs o) b).settledAt o := by
  induction l generalizing b with
  | nil => exact h.resolve_left (List.not_mem_nil)
  | cons k t ih =>
    refine ih _ ?_
    by_cases ht : o ∈ t
    · exact .inl ht
    · exact .inr (Bank.settledAt_applyAt b k o (h.imp_left fun hm => (List.mem_cons.1 hm).resolve_right ht))

/-- A register without staged bits. -/
def unstagedReg (k : Nat) : Prop := (findReg pdRegs k).map (·.bitsOf .rws) = some 0

/-- A field of a register without staged bits leaves what is settled. -/
theorem PortDie.settledAt_setFld {p : PortDie} {f : Fld} (hf : unstagedReg f.off) (v : Nat) {o : Nat} (h : p.bank.settledAt o) :
    (p.setFld f v).bank.settledAt o := by
  intro hmem
  by_cases ho : o = f.off
  · obtain ⟨d, hd, hz⟩ := Option.map_eq_some_iff.1 hf
    unfold Bank.changedAt
    rw [ho, hd]
    dsimp only
    rw [hz, show ∀ w : Word, w &&& 0 = 0 from fun w => BitVec.and_zero]
    rfl
  · exact (Bank.changedAt_congr ((Bank.get_put pdRegs p.bank f.off o _).trans (if_neg ho)) rfl).trans (h hmem)

theorem unstaged_modCap : unstagedReg R.TH_MOD_CAP := by unfold unstagedReg; decide +kernel
theorem unstaged_modFloor : unstagedReg R.TH_MOD_FLOOR := by unfold unstagedReg; decide +kernel
theorem unstaged_modPower : unstagedReg R.TH_MOD_POWER := by unfold unstagedReg; decide +kernel
theorem unstaged_modStatus : unstagedReg R.TH_MOD_STATUS := by unfold unstagedReg; decide +kernel
theorem unstaged_modCount : unstagedReg R.TH_MOD_COUNT := by unfold unstagedReg; decide +kernel

theorem State.onChan_bank (s : State) (c : Nat) (f : Chan → Chan) : (s.onChan c f).pd.bank = s.pd.bank :=
  show (s.onChan c f).pd.core.bank = s.pd.core.bank from congrArg PortDie.bank (s.onChan_core c f)

theorem State.freezeAll_bank (s : State) (bit : Nat) : (s.freezeAll bit).pd.bank = s.pd.bank := by
  unfold State.freezeAll
  generalize s.liveChans = l
  induction l generalizing s with
  | nil => rfl
  | cons c t ih => exact (ih _).trans (s.onChan_bank c _)

theorem State.thawAll_bank (s : State) (bit : Nat) : (s.thawAll bit).pd.bank = s.pd.bank := by
  unfold State.thawAll
  generalize List.range 8 = l
  induction l generalizing s with
  | nil => rfl
  | cons c t ih => exact (ih _).trans (s.onChan_bank c _)

theorem State.recap_settledAt {s : State} {o : Nat} (h : s.pd.bank.settledAt o) : s.recap.pd.bank.settledAt o := by
  unfold State.recap
  dsimp only
  generalize hs1 : s.onPort _ = s1
  have h1 : s1.pd.bank.settledAt o := by
    rw [← hs1, State.onPort_pd]
    refine PortDie.settledAt_setFld unstaged_modPower _ (PortDie.settledAt_setFld unstaged_modPower _ ?_)
    exact PortDie.settledAt_setFld unstaged_modFloor _ (PortDie.settledAt_setFld unstaged_modCap _ (PortDie.settledAt_setFld unstaged_modCap _ h))
  split
  · rw [State.freezeAll_bank]
    split
    · exact h1
    · exact PortDie.settledAt_setFld unstaged_modCount _ (PortDie.settledAt_setFld unstaged_modStatus _ h1)
  split
  · rw [State.thawAll_bank]
    exact h1
  · exact h1

theorem State.settleAlarm_bank (s : State) : s.settleAlarm.pd.bank = s.pd.bank := by
  unfold State.settleAlarm
  split
  · exact s.thawAll_bank 5
  · rfl

theorem State.applied_settledAt {s : State} {o : Nat} (h : s.pd.bank.settledAt o) (n : Nat) : (s.applied n).pd.bank.settledAt o := by
  unfold State.applied
  split
  · exact h
  split
  · exact State.recap_settledAt h
  split
  · rw [State.settleAlarm_bank]
    exact h
  · exact h

/-- A group that a strobe applies, or that holds no change, is settled; what was settled stays. -/
theorem State.applyMg_settles (s : State) (n : Nat) {o : Nat}
    (h : (findReg pdRegs o).map (·.group) = some (.mg n) ∨ s.pd.bank.settledAt o) :
    (if (s.pd.changed n).isEmpty then s else s.applyMg n).pd.bank.settledAt o := by
  split
  · next he =>
    exact h.elim (fun hg => (s.pd.changed_nil_iff n).1 (List.isEmpty_iff.1 he) o hg) id
  · refine State.applied_settledAt (Bank.settledAt_applyAll _ _ o ?_) n
    by_cases hm : o ∈ s.pd.changed n
    · exact .inl hm
    · refine .inr (h.elim (fun hg hin => ?_) id)
      by_contra hch
      obtain ⟨d, hd, hgd⟩ := Option.map_eq_some_iff.1 hg
      refine hm (List.mem_filter.2 ⟨hin, ?_⟩)
      simp [hd, hgd, Bool.eq_true_of_not_eq_false hch]

theorem State.applyGroups_settle (l : List Nat) (s : State) {o : Nat}
    (h : (∃ n ∈ l, (findReg pdRegs o).map (·.group) = some (.mg n)) ∨ s.pd.bank.settledAt o) :
    (l.foldl (fun s n => if (s.pd.changed n).isEmpty then s else s.applyMg n) s).pd.bank.settledAt o := by
  induction l generalizing s with
  | nil => exact h.resolve_left (by simp)
  | cons k t ih =>
    refine ih _ ?_
    rcases h with ⟨n, hn, hg⟩ | h
    · rcases List.mem_cons.1 hn with rfl | ht
      · exact .inr (s.applyMg_settles n (.inl hg))
      · exact .inl ⟨n, ht, hg⟩
    · exact .inr (s.applyMg_settles k (.inr h))

/-- A strobe of module groups that ends OK leaves nothing changed in them. -/
theorem State.strobeMg_settles {s : State} {mask : Nat} (h : (s.strobeMg mask).1.1 = .ok) {n : Nat} (hn : n ∈ mgOf mask) :
    (s.strobeMg mask).2.pd.changed n = [] := by
  refine (PortDie.changed_nil_iff _ n).2 fun o hg => ?_
  unfold State.strobeMg at h ⊢
  dsimp only at h ⊢
  split at h
  · exact nomatch h
  · split at h
    · exact nomatch h
    · exact State.applyGroups_settle _ s (.inl ⟨n, hn, hg⟩)

/-! ## Discards of module groups (R327, R463) -/

theorem Bank.mem_staged_discardAll (l : List Nat) (b : Bank) (o : Nat) :
    o ∈ (l.foldl Bank.discardAt b).staged.map (·.1) ↔ o ∈ b.staged.map (·.1) ∧ o ∉ l := by
  induction l generalizing b with
  | nil => simp
  | cons k t ih =>
    refine (ih (b.discardAt k)).trans ?_
    rw [show (b.discardAt k).staged = mapDel b.staged k from rfl, mem_mapDel_keys, List.mem_cons, not_or, and_assoc]

/-- A discard leaves nothing staged in the groups it names. -/
theorem State.discardMg_settles (s : State) {mask n : Nat} (hn : n ∈ mgOf mask) : (s.discardMg mask).pd.changed n = [] := by
  refine (PortDie.changed_nil_iff _ n).2 fun o hg hin => absurd hin fun hin => ?_
  obtain ⟨hst, hnot⟩ := (Bank.mem_staged_discardAll _ _ o).1 hin
  obtain ⟨d, hd, hgd⟩ := Option.map_eq_some_iff.1 hg
  refine hnot (List.mem_filter.2 ⟨List.mem_append_left _ hst, List.any_eq_true.2 ⟨n, hn, ?_⟩⟩)
  simp [hd, hgd]

theorem PortDie.changed_of_bank {p r : PortDie} (h : p.bank = r.bank) (n : Nat) : p.changed n = r.changed n := by
  unfold PortDie.changed
  rw [h]

/-- Settles O44: each command through what its strobe or discard leaves. -/
theorem strobesAndDiscardsEndWithTheirStatus : Obligations.StrobesAndDiscardsEndWithTheirStatus := by
  intro q groups d s
  refine ⟨fun hq hw => ⟨exec_strobe_waits hq hw, exec_strobeAtBoundary_waits hw⟩, fun hq hw h => ?_, fun hq hw h => ?_, fun hq h => ?_,
    fun hq h => ?_, fun hq h => ?_⟩
  · have hplace := ((s.chan q.channel).begun d).strobe_samePlace groups.toNat (some d.queue)
    refine ⟨fun st k o e he => ?_, fun e he => ?_⟩
    · rw [he] at hplace
      exact Executes.of_answerStrobe h (exec_strobe_channel hq hw) (by rw [Chan.strobeCmd, he]) hplace
    · exact h.acts (exec_strobe_channel hq hw) (by rw [Chan.strobeCmd, he])
  · have hplace := ((s.chan q.channel).begun d).strobeBoundary_samePlace groups.toNat d.seq d.queue
    refine ⟨fun k o n e he => h.boundary_ends hw he, fun st k o n e hst he => ?_, fun n e he => ?_, fun n e he => ?_⟩
    · rw [he] at hplace
      refine Executes.of_answerStrobe h (exec_strobeAtBoundary_channel hw) (k := k) (o := o) ?_ hplace
      rw [Chan.boundaryCmd, he]
      cases st
      case ok => exact absurd rfl hst
      all_goals rfl
    · rw [he] at hplace
      exact Executes.of h (exec_strobeAtBoundary_channel hw) (by rw [Chan.boundaryCmd, he]) hplace.idx hplace.linkLost rfl
    · exact h.acts (exec_strobeAtBoundary_channel hw) (by rw [Chan.boundaryCmd, he])
  · exact Executes.of_answerStrobe (k := 0) (o := 0) h (congrArg _ (if_neg (by omega))) rfl (Chan.discard_samePlace _ _)
  · obtain ⟨u, hu, ha, -, hp, -⟩ := h.replies (i := .strobe q groups) (congrArg _ (if_pos hq)) rfl (State.strobeMg_keepsSessions _ _)
    have hb := PortDie.unanswered_bank hp
    exact ⟨u, hu, ha, hb, fun hok n hn => (PortDie.changed_of_bank hb n).trans (State.strobeMg_settles hok hn)⟩
  · obtain ⟨u, hu, ha, hc, hp, hcell⟩ := h.replies (i := .stageDiscard q groups) (s1 := (s.begunM d).discardMg groups.toNat)
      (congrArg _ (if_pos hq)) rfl (State.onPort_keepsSessions _ _)
    exact ⟨⟨u, hu, hc, hcell, ha⟩, u, hu, fun n hn =>
      (PortDie.changed_of_bank (PortDie.unanswered_bank hp) n).trans (State.discardMg_settles _ hn)⟩

end Sys2Proof.Machine
end

section
/-! PROOFS. What recomputing the caps leaves of the port die; PMBus, CAP_STEP, and the port die's own writes. -/

namespace Sys2Proof.Machine

/-! ## Recomputing the caps changes registers of the port die alone -/

theorem State.freezeAll_core (s : State) (bit : Nat) : (s.freezeAll bit).pd.core = s.pd.core := by
  unfold State.freezeAll
  generalize s.liveChans = l
  induction l generalizing s with
  | nil => rfl
  | cons c t ih => exact (ih _).trans (s.onChan_core c _)

theorem State.thawAll_core (s : State) (bit : Nat) : (s.thawAll bit).pd.core = s.pd.core := by
  unfold State.thawAll
  generalize List.range 8 = l
  induction l generalizing s with
  | nil => rfl
  | cons c t ih => exact (ih _).trans (s.onChan_core c _)

/-- A figure of the port die that neither its registers nor what sending changes touch. -/
theorem PortDie.of_core {α : Type} (g : PortDie → α) {p r : PortDie} (h : p.core = r.core) (hg : ∀ p, g p.core = g p := by exact fun _ => rfl) :
    g p = g r := by
  rw [← hg p, h, hg]

/-- The port die with the module's power figures in its registers. -/
def PortDie.recapped (p : PortDie) (cap src floor power demand : Nat) : PortDie :=
  ((((p.setFld F.TH_MOD_CAP_CAP cap).setFld F.TH_MOD_CAP_SOURCE src).setFld F.TH_MOD_FLOOR_FLOOR floor).setFld
    F.TH_MOD_POWER_POWER power).setFld F.TH_MOD_POWER_DEMAND demand

/-- Recomputing the caps writes the figures, and may flag a cap below the floor. -/
theorem State.recap_core (s : State) : ∃ cap src floor power demand, s.recap.pd.core = (s.pd.recapped cap src floor power demand).core ∨
    s.recap.pd.core = ((s.pd.recapped cap src floor power demand).flag F.TH_MOD_STATUS_BELOW_FLOOR F.TH_MOD_COUNT_BELOW_FLOOR).core := by
  refine ⟨s.capOf.2, s.capOf.1, s.floorW, (List.range 8).foldl (fun a c => a + (s.chan c).fld F.TH_POWER_POWER) s.sharedW,
    (List.range 8).foldl (fun a c => a + if (s.chan c).st = .off then 0 else (s.chan c).fld F.TH_POWER_DEMAND) s.sharedW, ?_⟩
  unfold State.recap
  dsimp only
  split
  · rw [State.freezeAll_core]
    split
    · exact .inl rfl
    · exact .inr rfl
  split
  · rw [State.thawAll_core]
    exact .inl rfl
  · exact .inl rfl

/-- A figure of the port die outside its registers stays when the caps are recomputed. -/
theorem State.recap_keeps {α : Type} (g : PortDie → α) (s : State) (hc : ∀ p, g p.core = g p := by exact fun _ => rfl)
    (hb : ∀ (p : PortDie) b, g { p with bank := b } = g p := by exact fun _ _ => rfl) : g s.recap.pd = g s.pd := by
  have hset (p : PortDie) (f : Fld) (v : Nat) : g (p.setFld f v) = g p := hb p _
  have hfigures (a b c d e : Nat) : g (s.pd.recapped a b c d e) = g s.pd := by
    unfold PortDie.recapped
    rw [hset, hset, hset, hset, hset]
  obtain ⟨cap, src, floor, power, demand, h | h⟩ := s.recap_core
  · rw [PortDie.of_core g h hc, hfigures]
  · rw [PortDie.of_core g h hc, show g (PortDie.flag _ _ _) = g _ from (hset _ _ _).trans (hset _ _ _), hfigures]

theorem State.recap_power (s : State) : s.recap.pd.power = s.pd.power := s.recap_keeps (·.power)

/-- The fields that recomputing the caps may set. -/
def recapFlds : List Fld := [F.TH_MOD_CAP_CAP, F.TH_MOD_CAP_SOURCE, F.TH_MOD_FLOOR_FLOOR, F.TH_MOD_POWER_POWER, F.TH_MOD_POWER_DEMAND,
  F.TH_MOD_STATUS_BELOW_FLOOR, F.TH_MOD_COUNT_BELOW_FLOOR]

/-- A field apart from the power figures stays when the caps are recomputed. -/
theorem State.recap_fld (s : State) {g : Fld}
    (h : ∀ f ∈ recapFlds, f.lo + f.width ≤ 32 ∧ (g.off ≠ f.off ∨ g.lo + g.width ≤ f.lo ∨ f.lo + f.width ≤ g.lo)) :
    s.recap.pd.fld g = s.pd.fld g := by
  have hset (p : PortDie) (f : Fld) (hf : f ∈ recapFlds) (v : Nat) : (p.setFld f v).fld g = p.fld g :=
    PortDie.fld_setFld_ne p f g v (h f hf).1 (h f hf).2
  have hcount (p : PortDie) (f : Fld) (hf : f ∈ recapFlds) : (p.count f).fld g = p.fld g := PortDie.fld_count_ne p f g (h f hf).1 (h f hf).2
  have hfigures (a b c d e : Nat) : (s.pd.recapped a b c d e).fld g = s.pd.fld g := by
    unfold PortDie.recapped
    rw [hset _ _ (by decide), hset _ _ (by decide), hset _ _ (by decide), hset _ _ (by decide), hset _ _ (by decide)]
  obtain ⟨cap, src, floor, power, demand, hc | hc⟩ := s.recap_core
  · rw [PortDie.of_core (·.fld g) hc, hfigures]
  · rw [PortDie.of_core (·.fld g) hc, show PortDie.fld (PortDie.flag _ _ _) g = _ from (hcount _ _ (by decide)).trans (hset _ _ (by decide) _), hfigures]

/-! ## PMBus (R373, R448) -/

section
variable {s : State}

theorem State.pmbus_dead (h : s.pmLive = false) (ok : Bool) (f : State → State) : s.pmbus ok f = { s with out := s.out ++ [.pmbus none] } :=
  if_pos (by rw [h]; rfl)

variable (h : s.pmLive = true)
include h

theorem State.pmbus_good (f : State → State) : s.pmbus true f = f s :=
  (if_neg (by rw [h]; decide)).trans (if_neg (by decide))

theorem State.pmbus_bad (f : State → State) : s.pmbus false f = s.pmNack :=
  (if_neg (by rw [h]; decide)).trans (if_pos rfl)

end

/-- What a transaction that is not acknowledged leaves. -/
theorem State.pmNack_refused (s : State) : s.pmNack.out = s.out ++ [.pmbus none] ∧ s.pmNack.chans = s.chans ∧ s.pmNack.cell = s.cell ∧
    s.pmNack.pd.fld F.TH_MOD_STATUS_PMBUS_ERR = 1 ∧ s.pmNack.pd.power.latches = (s.pd.power.latches ||| 2) :=
  ⟨rfl, rfl, rfl, PortDie.fld_flag_same s.pd _ _ (by decide) (by decide) (by decide) (.inl (by decide)), rfl⟩

/-- The reading rows of PMBus, with their codes and figures. -/
def State.pmReads (s : State) : List ((Bool → Instr) × Nat × Bytes) :=
  [(.statusWord, 0x79, leBytes 2 s.statusWordOf), (.readVin, 0x88, pmBytes (Config.linear11 s.pd.power.vin 1000)),
    (.readIin, 0x89, pmBytes (Config.linear11 (s.pd.fld F.TH_MOD_POWER_POWER * 1000 : Nat) s.pd.power.vin)),
    (.readTemperature1, 0x8D, pmBytes (Config.linear11 s.pd.power.tin 16)), (.readTemperature2, 0x8E, pmBytes (Config.linear11 s.pd.power.hottest 16)),
    (.readPin, 0x97, pmBytes (Config.linear11 (s.pd.fld F.TH_MOD_POWER_POWER) 1)),
    (.mfrPlkCapRead, 0xD0, pmBytes (Config.linear11 (s.pd.power.pmbusCap.getD (24000 * 65536)) 65536)),
    (.mfrPlkDemand, 0xD1, pmBytes (Config.linear11 (s.pd.fld F.TH_MOD_POWER_DEMAND) 1)), (.mfrPlkFloor, 0xD2, pmBytes (Config.linear11 s.floorW 1)),
    (.mfrPlkState, 0xD3, leBytes 1 (s.capOf.1 + (if s.capOf.2 < s.floorW then 8 else 0) + (if s.pd.power.orphan then 16 else 0) +
      (if s.pd.power.coolant then 32 else 0)))]

/-- Every PMBus row is a transaction; a reading row reads its figure. -/
theorem pmReads_exec (s : State) : ∀ r ∈ s.pmReads, ∃ f : State → State, f s = s.pmRead r.2.1 r.2.2 ∧ ∀ ok, exec (r.1 ok) s = .next (s.pmbus ok f) := by
  simp only [State.pmReads, List.forall_mem_cons]
  refine ⟨⟨_, rfl, fun _ => rfl⟩, ⟨_, rfl, fun _ => rfl⟩, ⟨_, rfl, fun _ => rfl⟩, ⟨_, rfl, fun _ => rfl⟩, ⟨_, rfl, fun _ => rfl⟩,
    ⟨_, rfl, fun _ => rfl⟩, ⟨_, rfl, fun _ => rfl⟩, ⟨_, rfl, fun _ => rfl⟩, ⟨_, rfl, fun _ => rfl⟩, ⟨_, rfl, fun _ => rfl⟩, ?_⟩
  exact fun _ h => nomatch h

theorem pmRows_exec (s : State) (w : BitVec 16) : ∀ r ∈ s.pmReads.map (·.1) ++ [.clearFaults, (.mfrPlkCapWrite · w)],
    ∃ f : State → State, ∀ ok, exec (r ok) s = .next (s.pmbus ok f) := by
  intro r hr
  rcases List.mem_append.1 hr with hr | hr
  · obtain ⟨x, hx, rfl⟩ := List.mem_map.1 hr
    obtain ⟨f, -, hf⟩ := pmReads_exec s x hx
    exact ⟨f, hf⟩
  · simp only [List.mem_cons, List.not_mem_nil, or_false] at hr
    rcases hr with rfl | rfl
    · exact ⟨_, fun _ => rfl⟩
    · exact ⟨_, fun _ => rfl⟩

/-- The module when `MFR_PLK_CAP` has been written. -/
def State.pmCapped (s : State) (v : Nat) : State :=
  ((s.onPort (fun p => { p with power := { p.power with pmbusCap := some (min v (24000 * 65536)), orphan := false } })).recap).pmAck

theorem exec_mfrPlkCapWrite {s : State} {w : BitVec 16} (h : s.pmLive = true) : exec (.mfrPlkCapWrite true w) s =
    .next (match ofLinear11 w with
      | none => s.pmNack
      | some v => s.pmCapped v) := congrArg Host.Outcome.next (State.pmbus_good h _)

theorem exec_pmbusUnknown {s : State} {code : Byte} (h : pmCodes.contains code.toNat = false) :
    exec (.pmbusUnknownCommand code) s = .next (s.pmbus true State.pmNack) := congrArg Host.Outcome.next (if_neg (by rw [h]; decide))

/-- Settles O54: a row is a transaction, which a dead port, a bad code and a good one take each in its way. -/
theorem pmbusReadsCapsAndRefuses : Obligations.PmbusReadsCapsAndRefuses := by
  intro w code s
  refine ⟨fun hl => ?_, fun hl => ⟨fun r hr ok => ?_, fun hc => ?_, ?_⟩⟩
  · have refused {i : Instr} (he : exec i s = .next s.pmNack) : ∃ u, exec i s = .next u ∧ u.out = s.out ++ [.pmbus none] ∧
        u.chans = s.chans ∧ u.cell = s.cell ∧ u.pd.fld F.TH_MOD_STATUS_PMBUS_ERR = 1 ∧ u.pd.power.latches = (s.pd.power.latches ||| 2) :=
      ⟨_, he, s.pmNack_refused⟩
    refine ⟨fun r hr => ?_, fun r hr => ?_, fun hc => ?_, ?_, fun hw => ?_, fun v hw => ?_, fun hc => ?_, fun h0 => ?_, fun h0 => ?_⟩
    · obtain ⟨f, hf, he⟩ := pmReads_exec s r hr
      rw [he, State.pmbus_good hl, hf]
      rfl
    · obtain ⟨f, he⟩ := pmRows_exec s w r hr
      exact refused ((he false).trans (congrArg _ (State.pmbus_bad hl f)))
    · exact refused ((exec_pmbusUnknown hc).trans (congrArg _ (State.pmbus_good hl _)))
    · exact ⟨_, congrArg Host.Outcome.next (State.pmbus_good hl _), rfl, rfl, rfl⟩
    · exact refused ((exec_mfrPlkCapWrite hl).trans (by rw [hw]))
    · refine ⟨s.pmCapped v, (exec_mfrPlkCapWrite hl).trans (by rw [hw]), ?_, ?_, List.mem_append_right _ (List.mem_singleton.2 rfl)⟩
      · exact congrArg ModPower.pmbusCap (State.recap_power _)
      · exact congrArg ModPower.orphan (State.recap_power _)
    · exact congrArg _ (if_pos hc)
    · exact congrArg _ (if_neg (by simp [State.smbAlert, h0]))
    · exact congrArg _ (if_pos (by simp [State.smbAlert, h0, hl]))
  · obtain ⟨f, he⟩ := pmRows_exec s w r hr
    exact (he ok).trans (congrArg _ (State.pmbus_dead hl ok f))
  · exact (exec_pmbusUnknown hc).trans (congrArg _ (State.pmbus_dead hl true _))
  · exact congrArg _ (if_neg (by simp [hl]))

/-! ## CAP_STEP (R374) -/

/-- Source 4 is in force while CAP_STEP is asserted, at its register's figure. -/
theorem State.mem_limits_capStep (s : State) (w : Nat) :
    (4, w) ∈ s.limits ↔ s.pd.power.capStep = true ∧ w = s.pd.fld F.TH_MOD_STEP_CAP_CAP := by
  unfold State.limits
  dsimp only
  generalize s.pd.power.pmbusCap = cap
  generalize s.supplyLimit = supply
  cases cap <;> cases supply <;> simp

/-- Settles O56. -/
theorem capStepPutsItsSourceInForce : Obligations.CapStepPutsItsSourceInForce := by
  intro s
  have hstep (on : Bool) : ((s.onPort (fun p => { p with power := { p.power with capStep := on } })).recap).pd.power.capStep = on :=
    congrArg ModPower.capStep (State.recap_power _)
  have hcell (on : Bool) : ((s.onPort (fun p => { p with power := { p.power with capStep := on } })).recap).cell = s.cell :=
    (State.recap_quiet _).cell
  refine ⟨⟨_, rfl, (State.mem_limits_capStep _ _).2 ⟨hstep true, rfl⟩, hcell true⟩, ⟨_, rfl, fun w hw => ?_, hcell false⟩⟩
  exact Bool.false_ne_true ((hstep false).symm.trans ((State.mem_limits_capStep _ _).1 hw).1)

/-! ## The port die's own writes (R396, R420, R425, R437, R439) -/

/-- A write of a mapped register leaves every other field but the RSV flag and its counter, and then acts. -/
theorem State.pdWrite_acts (s : State) {off : Nat} (hd : (findReg pdRegs off).isSome) (v : Word) :
    ∃ b, s.pdWrite off v = (s.onPort (fun p => { p with bank := b })).pdWriteActs off v ∧
      ∀ f : Fld, f.off ≠ off → f.off ≠ R.PD_STATUS → f.off ≠ R.PD_FLAG_COUNT → b.fld pdRegs f = s.pd.fld f := by
  obtain ⟨d, hd⟩ := Option.isSome_iff_exists.1 hd
  have hwrite (f : Fld) (h : f.off ≠ off) : (s.pd.bank.write pdRegs d off v (s.pdLive off)).bank.fld pdRegs f = s.pd.fld f :=
    congrArg f.of ((Bank.get_write pdRegs s.pd.bank d off f.off v _).trans (if_neg h))
  unfold State.pdWrite
  rw [hd]
  dsimp only
  split
  · refine ⟨_, rfl, fun f hoff hs hn => Eq.trans ?_ (hwrite f hoff)⟩
    exact (PortDie.fld_count_ne _ _ f (by decide) (.inl hn)).trans (PortDie.fld_setFld_ne _ _ f 1 (by decide) (.inl hs))
  · exact ⟨_, rfl, fun f hoff _ _ => hwrite f hoff⟩

theorem Chan.holdRelease_links (c : Chan) : c.holdRelease.links = c.links := by
  unfold Chan.holdRelease
  split <;> rfl

/-- A channel in step 10 that is released is no longer held, and stays in bring-up. -/
theorem Chan.holdRelease_held {c : Chan} (h : c.st = .bringup) : c.holdRelease.st = .bringup ∧ c.holdRelease.fld F.CTL_BRINGUP_HELD = 0 := by
  unfold Chan.holdRelease
  split
  · exact ⟨h, Chan.fld_setFld_same _ _ _ (by decide)⟩
  · next hno =>
    have hlt : c.fld F.CTL_BRINGUP_HELD < 2 := Bank.fld_lt _ _ _
    have hne : c.fld F.CTL_BRINGUP_HELD ≠ 1 := fun h1 => hno (by simp [h, h1])
    exact ⟨h, by omega⟩

/-- Equal standing: the same state and the same fields. -/
theorem Chan.fld_of_standing {a b : Chan} (h : a.standing = b.standing) (f : Fld) : a.fld f = b.fld f :=
  congrArg (fun x : ChState × Bank × (Nat → GroveState) => x.2.1.fld chanRegs f) h

/-- Every waiting channel whose bit a write of `PD_CH_HOLD` clears goes on. -/
theorem State.holdRelease_all (p : Nat → Prop) [DecidablePred p] {k : Nat} (h8 : k < 8) (hp : p k) (l : List Nat) (s : State)
    (hst : (s.chan k).st = .bringup) (hk : k ∈ l ∨ (s.chan k).fld F.CTL_BRINGUP_HELD = 0) :
    ((l.foldl (fun s c => if p c then s.onChan c Chan.holdRelease else s) s).chan k).fld F.CTL_BRINGUP_HELD = 0 := by
  induction l generalizing s with
  | nil => exact hk.resolve_left (List.not_mem_nil)
  | cons c t ih =>
    rw [List.foldl_cons]
    by_cases hkc : k = c
    · subst hkc
      rw [if_pos hp]
      obtain ⟨hst1, hheld⟩ := Chan.holdRelease_held hst
      exact ih _ ((s.onChan_st k _).trans hst1) (.inr ((s.onChan_fld k _ _).trans hheld))
    · have hkt : k ∈ t ∨ (s.chan k).fld F.CTL_BRINGUP_HELD = 0 := hk.imp_left fun hm => (List.mem_cons.1 hm).resolve_left hkc
      by_cases hpc : p c
      · rw [if_pos hpc]
        have hkeep : ((s.onChan c Chan.holdRelease).chan k).standing = (s.chan k).standing := by
          rw [s.onChan_there c k _ h8 hkc, Chan.facing_standing _ _ _ (Chan.holdRelease_links _)]
        exact ih _ ((congrArg Prod.fst hkeep).trans hst) (hkt.imp_right (Chan.fld_of_standing hkeep _).trans)
      · rw [if_neg hpc]
        exact ih s hst hkt

theorem State.holdRelease_flash (p : Nat → Prop) [DecidablePred p] (l : List Nat) (s : State) :
    (l.foldl (fun s c => if p c then s.onChan c Chan.holdRelease else s) s).pd.flash = s.pd.flash := by
  induction l generalizing s with
  | nil => rfl
  | cons c t ih =>
    rw [List.foldl_cons, ih]
    split
    · exact PortDie.of_core (·.flash) (s.onChan_core c _)
    · rfl

/-- What a write of `PD_CH_HOLD` does beyond its fields. -/
theorem State.pdWriteActs_hold (s : State) (v : Word) : s.pdWriteActs R.PD_CH_HOLD v =
    (List.range 8).foldl (fun s c => if bits v.toNat c 1 = 0 then s.onChan c Chan.holdRelease else s)
      (s.onPort (fun p => { p with flash := { p.flash with hold := v.toNat % 256 } })) :=
  (if_neg (by decide)).trans (if_pos rfl)

theorem State.pdWriteActs_secCtl (s : State) : s.pdWriteActs R.SEC_CTL 1 = s.onPort PortDie.svnCommit := rfl

theorem State.pdWriteActs_metCtl (s : State) : s.pdWriteActs R.MET_CTL 1 = s.bindCell := rfl

theorem bits_low_one {n k : Nat} (h : k < 8) : bits (n % 256) k 1 = bits n k 1 := by
  unfold bits
  interval_cases k <;> omega

/-- `PD_CH_HOLD` with the bits of a mask cleared, bit by bit. -/
theorem holdWord_bit (w : Word) (mask : Byte) {k : Nat} (h : k < 8) :
    bits (w &&& ~~~ (mask.zeroExtend 32)).toNat k 1 = if mask.getLsbD k then 0 else bits w.toNat k 1 := by
  have hk : k < 32 := by omega
  rw [bits_one, bits_one, BitVec.getLsbD_and, BitVec.getLsbD_not, BitVec.getLsbD_setWidth]
  cases mask.getLsbD k <;> simp [hk]

section
variable {s : State}

/-- What `CH_HOLD_RELEASE` leaves. -/
theorem State.chHoldRelease_writes (s : State) (mask : Byte) :
    let u := s.pdWrite R.PD_CH_HOLD (s.pdRead R.PD_CH_HOLD 0 &&& ~~~ (mask.zeroExtend 32))
    (∀ k < 8, bits u.pd.flash.hold k 1 = if mask.getLsbD k then 0 else bits ((s.pdRead R.PD_CH_HOLD 0).toNat % 256) k 1) ∧
    (∀ k < 8, mask.getLsbD k = true → (s.chan k).st = .bringup → (u.chan k).fld F.CTL_BRINGUP_HELD = 0) := by
  obtain ⟨b, hb, -⟩ := s.pdWrite_acts (off := R.PD_CH_HOLD) (by decide +kernel) (s.pdRead R.PD_CH_HOLD 0 &&& ~~~ (mask.zeroExtend 32))
  dsimp only
  rw [hb, State.pdWriteActs_hold]
  refine ⟨fun k h8 => ?_, fun k h8 hm hst => ?_⟩
  · rw [State.holdRelease_flash, bits_low_one h8]
    exact (bits_low_one h8).trans (holdWord_bit _ mask h8)
  · exact State.holdRelease_all (fun c => bits (s.pdRead R.PD_CH_HOLD 0 &&& ~~~ (mask.zeroExtend 32)).toNat c 1 = 0) h8
      ((holdWord_bit _ mask h8).trans (if_pos hm)) _ _ hst (.inl (List.mem_range.2 h8))

/-- What `SVN_COMMIT` leaves. -/
theorem State.svnCommit_writes (s : State) :
    let u := s.pdWrite R.SEC_CTL 1
    u.pd.fld F.SEC_SVN_MIN_SVN = max (s.pd.fld F.SEC_SVN_MIN_SVN) (s.pd.fld F.SEC_SVN_ACTIVE_SVN) ∧ u.chans = s.chans ∧ u.cell = s.cell := by
  obtain ⟨b, hb, hkeep⟩ := s.pdWrite_acts (off := R.SEC_CTL) (by decide +kernel) 1
  dsimp only
  rw [hb, State.pdWriteActs_secCtl]
  refine ⟨?_, rfl, rfl⟩
  have hmin : b.fld pdRegs F.SEC_SVN_MIN_SVN = s.pd.fld F.SEC_SVN_MIN_SVN := hkeep _ (by decide) (by decide) (by decide)
  have hactive : b.fld pdRegs F.SEC_SVN_ACTIVE_SVN = s.pd.fld F.SEC_SVN_ACTIVE_SVN := hkeep _ (by decide) (by decide) (by decide)
  have hl := Bank.fld_lt pdRegs s.pd.bank F.SEC_SVN_MIN_SVN
  have hr := Bank.fld_lt pdRegs s.pd.bank F.SEC_SVN_ACTIVE_SVN
  refine (PortDie.fld_setFld_same _ _ _ (by decide)).trans ?_
  refine (Nat.mod_eq_of_lt ?_).trans (congrArg₂ max hmin hactive)
  exact (congrArg₂ max hmin hactive).trans_lt (max_lt hl hr)

/-- What `BIND` leaves. -/
theorem State.bind_writes (s : State) :
    let u := s.pdWrite R.MET_CTL 1
    (s.cell.link = true → u.pd.bound = some Config.cellKey ∧ u.cell = s.cell) ∧
    (s.cell.link = false → u.pd.bound = s.pd.bound ∧ u.pd.fld F.MET_STATUS_LINK_ERR = 1 ∧ u.cell = s.cell) := by
  obtain ⟨b, hb, -⟩ := s.pdWrite_acts (off := R.MET_CTL) (by decide +kernel) 1
  dsimp only
  rw [hb, State.pdWriteActs_metCtl]
  have hlink : (s.onPort (fun p => { p with bank := b })).cell.link = s.cell.link := rfl
  refine ⟨fun h => ?_, fun h => ?_⟩
  · rw [State.bindCell, if_pos (hlink.trans h)]
    exact ⟨rfl, rfl⟩
  · rw [State.bindCell, if_neg (by rw [hlink, h]; decide)]
    exact ⟨rfl, PortDie.fld_flag_same _ _ _ (by decide) (by decide) (by decide) (.inl (by decide)), rfl⟩

end

/-- Settles O35. -/
theorem portDieWritesHoldSvnAndBind : Obligations.PortDieWritesHoldSvnAndBind := by
  intro mask s
  refine ⟨fun hr => ?_, fun hr => ⟨⟨_, congrArg Host.Outcome.next (if_pos hr), s.chHoldRelease_writes mask⟩,
    ⟨_, congrArg Host.Outcome.next (if_pos hr), s.svnCommit_writes⟩, fun hl => ⟨_, congrArg Host.Outcome.next (if_pos hr), s.bind_writes.1 hl⟩,
    fun hl => ⟨_, congrArg Host.Outcome.next (if_pos hr), s.bind_writes.2 hl⟩⟩⟩
  have hoff : ¬ s.pd.running = true := by rw [hr]; decide
  exact ⟨congrArg Host.Outcome.next (if_neg hoff), congrArg Host.Outcome.next (if_neg hoff), congrArg Host.Outcome.next (if_neg hoff)⟩

end Sys2Proof.Machine
end

section
/-! PROOFS. What module-wide actions leave of each channel: its state, its freeze causes, its registers. -/

namespace Sys2Proof.Machine

/-! ## States that only settle -/

/-- `b` is in `a`'s state, or both are up: READY or RUNNING. -/
def Chan.SameState (a b : Chan) : Prop := b.st = a.st ∨ (a.Up ∧ b.Up)

namespace Chan.SameState

theorem of_eq {a b : Chan} (h : b.st = a.st) : a.SameState b := .inl h

theorem refl (c : Chan) : c.SameState c := .inl rfl

theorem trans {a b c : Chan} (h : a.SameState b) (k : b.SameState c) : a.SameState c := by
  rcases h with hb | ⟨ha, hb⟩
  · rcases k with hc | ⟨hb', hc⟩
    · exact .inl (hc.trans hb)
    · exact .inr ⟨by unfold Chan.Up at *; rwa [hb] at hb', hc⟩
  · rcases k with hc | ⟨_, hc⟩
    · exact .inr ⟨ha, by unfold Chan.Up at *; rwa [hc]⟩
    · exact .inr ⟨ha, hc⟩

theorem ite {p : Prop} [Decidable p] {a b c : Chan} (hb : a.SameState b) (hc : a.SameState c) : a.SameState (if p then b else c) := by
  split <;> assumption

theorem foldl {α : Type} {f : Chan → α → Chan} (h : ∀ (c : Chan) x, c.SameState (f c x)) (l : List α) (c : Chan) :
    c.SameState (l.foldl f c) := by
  induction l generalizing c with
  | nil => exact .refl c
  | cons x t ih => exact (h c x).trans (ih _)

/-- A state that is neither READY nor RUNNING stays. -/
theorem st_eq {a b : Chan} (h : a.SameState b) (hu : ¬ a.Up) : b.st = a.st := h.resolve_right fun k => hu k.1

/-- An up channel stays up. -/
theorem up {a b : Chan} (h : a.SameState b) (hu : a.Up) : b.Up := by
  rcases h with h | h
  · unfold Chan.Up at *
    rwa [h]
  · exact h.2

end Chan.SameState

theorem Chan.setFld_state (c : Chan) (f : Fld) (v : Nat) : c.SameState (c.setFld f v) := .of_eq (c.setFld_st f v)

theorem Chan.setLink_state (c : Chan) (i : Nat) (l : Link) : c.SameState (c.setLink i l) := .of_eq rfl

theorem Chan.toEgress_state (c : Chan) (i : Nat) (e : EgressItem) : c.SameState (c.toEgress i e).1 := by
  unfold Chan.toEgress
  dsimp only
  split
  · exact .refl c
  split
  · exact (c.setFld_state _ _).trans (Chan.setFld_state _ _ _)
  · exact c.setLink_state _ _

theorem Chan.sendCtl_state (c : Chan) (dst job : Nat) (m : CtlMsg) : c.SameState (c.sendCtl dst job m) := by
  unfold Chan.sendCtl Chan.sendFrame
  refine .ite (.refl c) ?_
  dsimp only
  refine .ite (.of_eq rfl) (.foldl (fun c o => ?_) _ c)
  exact .ite (.of_eq rfl) (c.toEgress_state _ _)

theorem Chan.topo_state (c : Chan) : c.SameState c.topo := .ite (.refl c) (c.sendCtl_state _ _ _)

theorem Chan.setLinkState_state (c : Chan) (i : Nat) (st : LinkState) : c.SameState (c.setLinkState i st) := by
  have hfields : c.SameState (if 2 ≤ i then
      ((c.setLink i { c.link i with st := st }).setFld ⟨R.CLK_SEAM_PHASE, 12 + (i - 2), 1⟩ (if st = .up then 1 else 0)).setFld
        ⟨R.CLK_SEAM_PHASE, 4 * (i - 2), 4⟩ (if st = .up then 4 else 0)
      else c.setLink i { c.link i with st := st }) :=
    .ite (((c.setLink_state i _).trans (Chan.setFld_state _ _ _)).trans (Chan.setFld_state _ _ _)) (c.setLink_state i _)
  exact .ite (hfields.trans (Chan.topo_state _)) hfields

theorem Chan.linkReset_state (c : Chan) (i : Nat) : c.SameState (c.linkReset i) := by
  unfold Chan.linkReset
  refine .trans ?_ (Chan.setLinkState_state _ _ _)
  exact ((Chan.setFld_state _ _ _).trans (Chan.setFld_state _ _ _)).trans (Chan.setLink_state _ _ _)

theorem Chan.seamLost_state (c : Chan) (i : Nat) : c.SameState (c.seamLost i) := .ite (c.linkReset_state i) (.ite (.of_eq rfl) (.refl c))

theorem Chan.baseFollows_state (x : Chan) (node : Nat) (a b : Chan) : x.SameState (x.baseFollows node a b) :=
  .of_eq (congrArg Prod.fst (x.baseFollows_standing node a b))

/-- What an acting channel takes along in another does not move that one's state. -/
theorem Chan.facing_state (x : Chan) (c k : Nat) (a b : Chan) : x.SameState (x.facing c k a b) := by
  have hseams : x.SameState (x.seamsFaced c k a b) := by
    unfold Chan.seamsFaced
    refine .foldl (fun x i => ?_) _ x
    split
    · exact .ite (x.seamLost_state _) (.refl x)
    · exact .refl x
  exact hseams.trans (Chan.baseFollows_state _ _ _ _)

theorem State.onChan_state {s : State} {c k : Nat} (f : Chan → Chan) (h8 : k < 8) (hk : k ≠ c) : (s.chan k).SameState ((s.onChan c f).chan k) := by
  rw [s.onChan_there c k f h8 hk]
  exact Chan.facing_state _ _ _ _ _

theorem State.onChans_state (f : Chan → Chan) (l : List Nat) {k : Nat} (h8 : k < 8) (hk : k ∉ l) (s : State) :
    (s.chan k).SameState ((l.foldl (fun s c => s.onChan c f) s).chan k) := by
  induction l generalizing s with
  | nil => exact .refl _
  | cons c t ih =>
    obtain ⟨hc, ht⟩ := not_or.1 (mt List.mem_cons.2 hk)
    exact (State.onChan_state f h8 hc).trans (ih ht _)

/-- Where channels act one after the other, each acts in the state it was in. -/
theorem State.onChans_acts (f : Chan → Chan) (l : List Nat) (hl : l.Nodup) {k : Nat} (h8 : k < 8) (hk : k ∈ l) (s : State) :
    ∃ x : Chan, (s.chan k).SameState x ∧ (f x).SameState ((l.foldl (fun s c => s.onChan c f) s).chan k) := by
  induction l generalizing s with
  | nil => exact absurd hk List.not_mem_nil
  | cons c t ih =>
    obtain ⟨hc, ht⟩ := List.nodup_cons.1 hl
    by_cases hkc : k = c
    · subst hkc
      refine ⟨s.chan k, .refl _, .trans (.of_eq (s.onChan_st k f)) (State.onChans_state f t h8 hc _)⟩
    · obtain ⟨x, hx, hf⟩ := ih ht ((List.mem_cons.1 hk).resolve_left hkc) (s.onChan c f)
      exact ⟨x, (State.onChan_state f h8 hkc).trans hx, hf⟩

/-! ## Actions that keep the links take along only records of groves -/

theorem Chan.baseFollows_groves (x : Chan) (node : Nat) (a b : Chan) : ∃ gs, x.baseFollows node a b = { x with groves := gs } := by
  unfold Chan.baseFollows
  split
  · exact ⟨x.groves, rfl⟩
  · generalize groveNums = l
    induction l generalizing x with
    | nil => exact ⟨x.groves, rfl⟩
    | cons g t ih =>
      rw [List.foldl_cons]
      dsimp only
      split
      · exact ih x
      · obtain ⟨gs, hgs⟩ := ih (x.setGrove g _)
        exact ⟨gs, hgs⟩

theorem State.onChan_groves {s : State} {c k : Nat} {f : Chan → Chan} (h8 : k < 8) (hk : k ≠ c) (hl : ∀ x : Chan, (f x).links = x.links) :
    ∃ gs, (s.onChan c f).chan k = { s.chan k with groves := gs } := by
  rw [s.onChan_there c k f h8 hk, Chan.facing, Chan.seamsFaced_of_links _ _ _ (hl _)]
  exact Chan.baseFollows_groves _ _ _ _

theorem State.onChans_groves {f : Chan → Chan} (hl : ∀ x : Chan, (f x).links = x.links) (l : List Nat) {k : Nat} (h8 : k < 8) (hk : k ∉ l)
    (s : State) : ∃ gs, (l.foldl (fun s c => s.onChan c f) s).chan k = { s.chan k with groves := gs } := by
  induction l generalizing s with
  | nil => exact ⟨_, rfl⟩
  | cons c t ih =>
    obtain ⟨hc, ht⟩ := not_or.1 (mt List.mem_cons.2 hk)
    obtain ⟨gs, h1⟩ := State.onChan_groves (s := s) h8 hc hl
    obtain ⟨hs, h2⟩ := ih ht (s.onChan c f)
    exact ⟨hs, by rw [List.foldl_cons, h2, h1]⟩

/-- Where channels that keep their links act one after the other, each acts on itself, but for records of its groves. -/
theorem State.onChans_each {f : Chan → Chan} (hl : ∀ x : Chan, (f x).links = x.links) (l : List Nat) (hn : l.Nodup) {k : Nat} (h8 : k < 8)
    (hk : k ∈ l) (s : State) : ∃ gs hs, ∃ x : Chan, x.body = (f { s.chan k with groves := gs }).body ∧
      (l.foldl (fun s c => s.onChan c f) s).chan k = { x with groves := hs } := by
  induction l generalizing s with
  | nil => exact absurd hk List.not_mem_nil
  | cons c t ih =>
    obtain ⟨hc, ht⟩ := List.nodup_cons.1 hn
    by_cases hkc : k = c
    · subst hkc
      obtain ⟨hs, h2⟩ := State.onChans_groves hl t h8 hc (s.onChan k f)
      exact ⟨(s.chan k).groves, hs, (s.onChan k f).chan k, s.onChan_body k f, h2⟩
    · obtain ⟨gs, hs, x, hx, h2⟩ := ih ht ((List.mem_cons.1 hk).resolve_left hkc) (s.onChan c f)
      obtain ⟨g1, h1⟩ := State.onChan_groves (s := s) h8 hkc hl
      exact ⟨gs, hs, x, by rw [hx, h1], h2⟩

/-! ## Freezing every live channel (R307) -/

theorem bits_add_pow (n b : Nat) : bits (if bits n b 1 = 1 then n else n + 2 ^ b) b 1 = 1 := by
  split
  · assumption
  · next h =>
    unfold bits at h ⊢
    rw [Nat.add_div_right _ (by positivity)]
    omega

theorem State.mem_liveChans {s : State} {k : Nat} : k ∈ s.liveChans ↔ k < 8 ∧ (s.chan k).st ≠ .off ∧ (s.chan k).st ≠ .locked := by
  simp [State.liveChans]

theorem State.liveChans_nodup (s : State) : s.liveChans.Nodup := List.nodup_range.filter _

/-- A channel that is up is frozen under the cause. -/
theorem State.freezeAll_up {s : State} {k : Nat} (h8 : k < 8) (hu : (s.chan k).Up) (bit : Nat) :
    ((s.freezeAll bit).chan k).st = .frozen ∧ bits ((s.freezeAll bit).chan k).freeze bit 1 = 1 := by
  have hlive : k ∈ s.liveChans := State.mem_liveChans.2 ⟨h8, by rcases hu with h | h <;> simp [h]⟩
  obtain ⟨gs, hs, x, hx, h⟩ := State.onChans_each (fun x => (x.freezeBy_links bit).2) _ s.liveChans_nodup h8 hlive s
  have hup : ({ s.chan k with groves := gs } : Chan).st = .ready ∨ ({ s.chan k with groves := gs } : Chan).st = .running ∨
      ({ s.chan k with groves := gs } : Chan).st = .frozen := hu.elim .inl (fun h => .inr (.inl h))
  obtain ⟨hst, hfr⟩ := Chan.freezeBy_frozen hup bit
  unfold State.freezeAll
  rw [h]
  refine ⟨(Chan.body_st hx).trans hst, ?_⟩
  show bits x.freeze bit 1 = 1
  rw [Chan.body_freeze hx, hfr]
  exact bits_add_pow _ _

/-- A channel that no cause moves keeps its state. -/
theorem State.freezeAll_unmoved {s : State} {k : Nat} (h8 : k < 8) (hu : (s.chan k).Unmoved) (bit : Nat) :
    ((s.freezeAll bit).chan k).st = (s.chan k).st :=
  congrArg Prod.fst (State.onChans_standing (fun x => (x.freezeBy_links bit).2) (fun x hx => by rw [hx.freezeBy]) _ h8 hu)

/-! ## Entries of the module fault log change no other figure of the port die -/

/-- A figure of the port die that a log entry does not touch. -/
theorem State.flog_port {α : Type} (g : PortDie → α) (s : State) (st : Status) (src code : Nat) (ch : Option Nat) (arg : BitVec 64)
    (hseq : ∀ p v, g (PortDie.setFld p F.PD_FLOG_SEQ_NEXT v) = g p)
    (hlog : ∀ (p : PortDie) l u, g { p with log := l, unringed := u } = g p := by exact fun _ _ _ => rfl)
    (hfree : ∀ (p : PortDie) n, g { p with free := n } = g p := by exact fun _ _ => rfl)
    (hcore : ∀ p, g p.core = g p := by exact fun _ => rfl) : g (s.flog st src code ch arg).pd = g s.pd := by
  have hclock : g (s.logClock ch).2.pd = g s.pd := by
    unfold State.logClock
    split
    · rfl
    · split
      · exact hfree s.pd _
      · rfl
  unfold State.flog
  generalize s.logClock ch = r at hclock ⊢
  dsimp only
  have hsettle (t : State) : g t.settleServices.pd = g t.pd := (hcore _).symm.trans (hcore t.pd)
  rw [hsettle, State.deliver_pd, State.onPort_pd, ← hclock]
  exact (hlog _ _ _).trans (hseq _ _)

theorem State.flog_power (s : State) (st : Status) (src code : Nat) (ch : Option Nat) (arg : BitVec 64) :
    (s.flog st src code ch arg).pd.power = s.pd.power :=
  s.flog_port (·.power) st src code ch arg (fun _ _ => PortDie.setFld_power _ _ _)

theorem State.flog_fld (s : State) (st : Status) (src code : Nat) (ch : Option Nat) (arg : BitVec 64) {g : Fld}
    (h : F.PD_FLOG_SEQ_NEXT.Apart g) : (s.flog st src code ch arg).pd.fld g = s.pd.fld g :=
  s.flog_port (·.fld g) st src code ch arg (fun p v => PortDie.fld_setFld_ne p _ g v (by decide) h)

/-! ## Channels read off a list that is mapped -/

theorem mapGet_mapValues {α : Type} (d : Nat → α) (f : α → α) (m : NMap α) (k : Nat) :
    mapGet d (m.map (fun p => (p.1, f p.2))) k = f (mapGet d m k) ∨ mapGet d (m.map (fun p => (p.1, f p.2))) k = d k := by
  induction m with
  | nil => exact .inr rfl
  | cons p t ih =>
    obtain ⟨j, v⟩ := p
    simp only [List.map_cons, mapGet]
    split
    · exact .inl rfl
    · exact ih

end Sys2Proof.Machine
end

section
/-! PROOFS. A channel fault moves its channel to FAULTED; the limiter, the shares, the supply and the orphan source. -/

namespace Sys2Proof.Machine

/-! ## What a grove's fault leaves of its channel's state -/

theorem Chan.Keeps.state {a b : Chan} (h : a.Keeps b) : a.SameState b := h.st

theorem Chan.markHbm_state (c : Chan) (line : Nat) : c.SameState (c.markHbm line) := by
  unfold Chan.markHbm
  split
  · exact .ite (.of_eq rfl) (.refl c)
  · exact .refl c

theorem Chan.hbmWriteLine_state (c : Chan) (line : Nat) (b : Bytes) : c.SameState (c.hbmWriteLine line b) := by
  unfold Chan.hbmWriteLine
  dsimp only
  refine .trans (.trans ?_ (Chan.setFld_state _ _ _)) (Chan.markHbm_state _ _)
  exact .of_eq rfl

theorem Chan.takeFrame_state (c : Chan) (p : Frame → Bool) : c.SameState (c.takeFrame p) := by
  unfold Chan.takeFrame
  split
  · exact c.setLink_state _ _
  · exact .of_eq rfl

theorem Chan.onGrove_state (c : Chan) (g : Nat) (f : Grove → Grove) : c.SameState (c.onGrove g f) := .of_eq rfl

theorem Chan.complete_state (c : Chan) (d : Datagram) (st : Status) (g : Option Nat) (b : Bytes) : c.SameState (c.complete d st g b) := .of_eq rfl

theorem Chan.reply_state (c : Chan) (d : Datagram) (st : Status) (g : Option Nat) (b e : Bytes) : c.SameState (c.reply d st g b e) := .of_eq rfl

theorem Chan.flag_state (c : Chan) (f n : Fld) : c.SameState (c.flag f n) := (c.setFld_state f 1).trans (Chan.setFld_state _ _ _)

theorem Chan.dropStrobe_state (c : Chan) (p : PendingStrobe) : c.SameState (c.dropStrobe p) := .foldl (fun c h => c.onGrove_state h _) _ c

theorem Chan.endStrobe_state (c : Chan) (p : PendingStrobe) (st : Status) (b : Bytes) : c.SameState (c.endStrobe p st b) := by
  unfold Chan.endStrobe
  split
  · exact .ite (c.complete_state _ _ _ _) (.refl c)
  · exact .refl c

theorem Chan.cancelStrobe_state (c : Chan) (g : Nat) : c.SameState (c.cancelStrobe g) := by
  unfold Chan.cancelStrobe
  split
  · exact .refl c
  · next p h =>
    have hflag : (c.dropStrobe p).SameState (c.dropStrobe p).flagCancel := Chan.flag_state _ _ _
    exact ((c.dropStrobe_state p).trans hflag).trans (Chan.endStrobe_state _ _ _ _)

theorem Chan.cancelSwitch_state (c : Chan) (g : Nat) : c.SameState (c.cancelSwitch g) := .ite (.refl c) (.of_eq rfl)

theorem Chan.carryBack_state (c : Chan) (g : Nat) : c.SameState (c.carryBack g) := .foldl (fun c _ => c.hbmWriteLine_state _ _) _ c

theorem Chan.ringFails_state (c : Chan) (g : Nat) (st : Status) (extra : Nat) (told : Bool) : c.SameState (c.ringFails g st extra told) := by
  have h : c.SameState ((((c.carryBack g).setFld F.CKP_STATUS_RING_FAIL 1).count (F.CKP_GRV_CNT_FAILED.sh (g * 0x40))).onGrove g
      (fun v => { v with ring := v.ring.idle })) :=
    (((c.carryBack_state g).trans (Chan.setFld_state _ _ _)).trans (Chan.setFld_state _ _ _)).trans (Chan.onGrove_state _ _ _)
  unfold Chan.ringFails
  refine h.trans (.ite ?_ (.ite (.refl _) (Chan.sendCtl_state _ _ _ _)))
  exact .trans (.foldl (fun c n => c.sendCtl_state n _ _) _ _) (.foldl (fun c d => c.complete_state d _ _ _) _ _)

theorem Chan.restoreFails_state (c : Chan) (g : Nat) (st : Status) (bad : List Nat) : c.SameState (c.restoreFails g st bad) := by
  have h : c.SameState ((c.setFld F.CKP_STATUS_RESTORE_FAIL 1).onGrove g (fun v => { v with ring := v.ring.idle })) :=
    (c.setFld_state _ _).trans (Chan.onGrove_state _ _ _)
  unfold Chan.restoreFails
  exact h.trans (.ite (.foldl (fun c d => c.complete_state d _ _ _) _ _) (Chan.sendCtl_state _ _ _ _))

theorem Chan.ringStop_state (c : Chan) (g : Nat) : c.SameState (c.ringStop g) :=
  .ite (.refl c) (.ite (c.restoreFails_state g _ _) (c.ringFails_state g _ _ _))

theorem Chan.dropCombs_state (c : Chan) (g : Nat) : c.SameState (c.dropCombs g) := by
  unfold Chan.dropCombs
  exact .trans (.foldl (fun c f => c.takeFrame_state _) _ c) (.of_eq rfl)

theorem Chan.setGrove_state (c : Chan) (g : Nat) (v : Grove) : c.SameState (c.setGrove g v) := .of_eq rfl

theorem Chan.completes_state (ds : List Datagram) (st : Status) (g : Option Nat) (c : Chan) :
    c.SameState (ds.foldl (fun c d => c.complete d st g []) c) := .foldl (fun c d => c.complete_state d st g []) ds c

theorem Chan.groveFault_state (c : Chan) (g : Nat) (st : Status) : c.SameState (c.groveFault g st) := by
  unfold Chan.groveFault
  refine .ite (.refl c) ?_
  dsimp only
  refine .trans (.trans ?_ (Chan.completes_state _ st (some g) _)) (Chan.Keeps.settle _).state
  refine .trans ?_ (.foldl (fun c d => c.reply_state d _ _ _ _) _ _)
  refine .trans ?_ (.ite (Chan.sendCtl_state _ _ _ _) (.refl _))
  exact ((((c.setGrove_state g _).trans (Chan.cancelStrobe_state _ g)).trans (Chan.cancelSwitch_state _ g)).trans
    (Chan.ringStop_state _ g)).trans (Chan.dropCombs_state _ g)

/-! ## What bringing the interfaces in line leaves of the state -/

theorem Chan.destDown_state (c : Chan) (i : Nat) : c.SameState (c.destDown i) := (c.setFld_state _ _).trans (Chan.setFld_state _ _ _)

theorem Chan.egressDone_state (c : Chan) (i : Nat) (e : EgressItem) : c.SameState (c.egressDone i e) := .ite (c.setLink_state _ _) (.refl c)

theorem Chan.dropEgress_state (c : Chan) (i : Nat) : c.SameState (c.dropEgress i) := by
  unfold Chan.dropEgress
  exact (c.setLink_state i _).trans (.foldl (fun c e => (c.destDown_state i).trans (Chan.egressDone_state _ i e)) _ _)

/-- The channel once an interface's replay buffer has been counted and cleared (R251). -/
theorem Chan.flushed_state (c : Chan) (i n : Nat) (l : Link) :
    c.SameState ((((c.countLink F.SP_DISCARD_COUNT_FLUSHED_FRAMES i n).countLink F.SP_LINK_COUNT_FLUSHES i).setLinkFld
      F.SP_LINK_STATUS_FLUSHED i 1).setLink i l) :=
  (((c.setFld_state _ _).trans (Chan.setFld_state _ _ _)).trans (Chan.setFld_state _ _ _)).trans (Chan.setLink_state _ _ _)

theorem Chan.flush_state (c : Chan) (i : Nat) : c.SameState (c.flush i) := by
  unfold Chan.flush
  dsimp only
  refine (Chan.flushed_state c i _ _).trans (.foldl (fun c x => ?_) _ _)
  split
  · exact c.groveFault_state _ _
  · exact .refl c

theorem Chan.refreshLinks_state (c : Chan) : c.SameState c.refreshLinks := by
  unfold Chan.refreshLinks
  refine .foldl (fun c i => ?_) _ c
  refine .ite (.ite (c.setLinkState_state i _) (.refl c)) (.ite (.refl c) ?_)
  exact ((c.dropEgress_state i).trans (Chan.flush_state _ i)).trans (Chan.setLinkState_state _ i _)

/-- A channel fault takes a channel that has power to FAULTED (R307). -/
theorem Chan.chanFault_st {c : Chan} (hoff : c.st ≠ .off) (hlock : c.st ≠ .locked) (st : Status) : (c.chanFault st).st = .faulted := by
  unfold Chan.chanFault
  split
  · next h =>
    simp only [Bool.or_eq_true, decide_eq_true_eq] at h
    exact (h.resolve_left (by simp [hoff, hlock]))
  · dsimp only
    generalize groveNums.foldl (fun (c : Chan) g => c.groveFault g st) c = c1
    have h2 := Chan.refreshLinks_state { c1 with st := .faulted }
    have h3 := h2.trans (.foldl (f := fun (c : Chan) q => ((c.queue q).accepted.filter (fun d => d.opcode = 0x09)).foldl
      (fun c d => c.complete d st none []) c) (fun c q => .foldl (fun c d => c.complete_state d _ _ _) _ c) (List.range 8) _)
    exact (h3.trans (Chan.Keeps.answerFreeze _).state).st_eq (by simp [Chan.Up])

/-- Bring-up that fails ends in FAULTED (R397). -/
theorem Chan.bringupFails_st {c : Chan} (h : c.st = .bringup) (st : Status) : (c.bringupFails st).st = .faulted := by
  have hst : ((((c.setFld F.CTL_BRINGUP_FAIL_STEP (c.fld F.CTL_BRINGUP_STEP)).setFld F.CTL_BRINGUP_HELD 0).event st 12
      (c.fld F.CTL_BRINGUP_STEP) none argNone)).st = .bringup := h
  exact Chan.chanFault_st (by rw [hst]; decide) (by rw [hst]; decide) st

/-! ## The limiter (R379-R382) -/

/-- The channel once its power has been taken. -/
def Chan.weighed (c : Chan) (watts : Nat) : Chan := c.setFld F.TH_POWER_POWER (min watts 65535)

/-- The channel once its demand has been taken too. -/
def Chan.metered (c : Chan) (watts : Nat) : Chan := (c.weighed watts).setFld F.TH_POWER_DEMAND (min (c.weighed watts).demandW 65535)

/-- The target of this microsecond (R379). -/
def Chan.nextTarget (c : Chan) : Nat := min c.targetW (c.fld F.TH_TARGET_TARGET + max 8 (c.fld F.TH_CH_CFG_SLEW))

/-- The channel once its target has been set. -/
def Chan.retargeted (c : Chan) : Chan :=
  (c.setFld F.TH_TARGET_TARGET c.nextTarget).setFld F.TH_STATUS_LIMITING (if c.nextTarget < c.demandW then 1 else 0)

/-- The channel once its duty has been set for target `t`. -/
def Chan.dutied (c : Chan) (watts t : Nat) : Chan :=
  if c.st = .frozen || c.st = .bringup then { c.setFld F.TH_DUTY_DUTY 0 with power := { c.power with preset := 0, ramp := 0 } }
  else
    let p := c.presetFor t
    let r := nextDuty (c.fld F.TH_DUTY_DUTY) p c.power.preset c.power.ramp watts t
    { c.setFld F.TH_DUTY_DUTY r.1 with power := { c.power with preset := p, ramp := r.2 } }

/-- A step of the limiter, in its four parts. -/
theorem Chan.limiterStep_eq (c : Chan) (watts : Nat) : c.limiterStep watts =
    if (c.weighed watts).down then c.weighed watts else (c.metered watts).retargeted.dutied watts (c.metered watts).nextTarget := by
  unfold Chan.limiterStep Chan.dutied Chan.retargeted Chan.nextTarget Chan.metered Chan.weighed
  rfl

theorem Chan.limiterStep_down {c : Chan} (h : c.down = true) (watts : Nat) : c.limiterStep watts = c.setFld F.TH_POWER_POWER (min watts 65535) := by
  rw [Chan.limiterStep_eq]
  exact if_pos h

theorem Chan.limiterStep_up {c : Chan} (h : c.down = false) (watts : Nat) :
    c.limiterStep watts = (c.metered watts).retargeted.dutied watts (c.metered watts).nextTarget := by
  rw [Chan.limiterStep_eq]
  exact if_neg (fun hd => Bool.false_ne_true (h.symm.trans hd))

theorem Chan.metered_st (c : Chan) (watts : Nat) : (c.metered watts).st = c.st := rfl

theorem Chan.retargeted_st (c : Chan) : c.retargeted.st = c.st := rfl

theorem Chan.dutied_fld (c : Chan) (watts t : Nat) {g : Fld} (h : g.off ≠ F.TH_DUTY_DUTY.off) : (c.dutied watts t).fld g = c.fld g := by
  have hset (v : Nat) : (c.setFld F.TH_DUTY_DUTY v).fld g = c.fld g := Chan.fld_setFld_ne c _ g v (by decide) (.inl h)
  unfold Chan.dutied
  split <;> exact hset _

theorem Chan.dutied_stopped {c : Chan} (h : c.st = .frozen ∨ c.st = .bringup) (watts t : Nat) : (c.dutied watts t).fld F.TH_DUTY_DUTY = 0 := by
  unfold Chan.dutied
  rw [if_pos (by simpa using h)]
  exact Chan.fld_setFld_same c F.TH_DUTY_DUTY 0 (by decide)

theorem Chan.fld_weighed (c : Chan) (watts : Nat) {g : Fld} (h : g.off ≠ F.TH_POWER_POWER.off) : (c.weighed watts).fld g = c.fld g :=
  Chan.fld_setFld_ne c _ g _ (by decide) (.inl h)

theorem Chan.fld_metered (c : Chan) (watts : Nat) {g : Fld} (h : g.off ≠ F.TH_POWER_POWER.off) : (c.metered watts).fld g = c.fld g :=
  (Chan.fld_setFld_ne (c.weighed watts) F.TH_POWER_DEMAND g _ (by decide) (.inl h)).trans (c.fld_weighed watts h)

theorem Chan.fld_weighed_power (c : Chan) (watts : Nat) : (c.weighed watts).fld F.TH_POWER_POWER = min watts 65535 := by
  refine (Chan.fld_setFld_same c F.TH_POWER_POWER (min watts 65535) (by decide)).trans (Nat.mod_eq_of_lt ?_)
  show min watts 65535 < 65536
  omega

theorem Chan.fld_metered_power (c : Chan) (watts : Nat) : (c.metered watts).fld F.TH_POWER_POWER = min watts 65535 :=
  (Chan.fld_setFld_ne (c.weighed watts) F.TH_POWER_DEMAND _ _ (by decide) (.inr (by decide))).trans (c.fld_weighed_power watts)

theorem Chan.retargeted_fld (c : Chan) {g : Fld} (h : g.off ≠ F.TH_TARGET_TARGET.off) (hs : g.off ≠ F.TH_STATUS_LIMITING.off) :
    c.retargeted.fld g = c.fld g :=
  (Chan.fld_setFld_ne (c.setFld F.TH_TARGET_TARGET c.nextTarget) F.TH_STATUS_LIMITING g _ (by decide) (.inl hs)).trans
    (Chan.fld_setFld_ne c F.TH_TARGET_TARGET g _ (by decide) (.inl h))

theorem Chan.fld_retargeted (c : Chan) : c.retargeted.fld F.TH_TARGET_TARGET ≤ c.nextTarget :=
  calc c.retargeted.fld F.TH_TARGET_TARGET = (c.setFld F.TH_TARGET_TARGET c.nextTarget).fld F.TH_TARGET_TARGET :=
        Chan.fld_setFld_ne (c.setFld F.TH_TARGET_TARGET c.nextTarget) F.TH_STATUS_LIMITING _ _ (by decide) (.inl (by decide))
    _ = c.nextTarget % 2 ^ F.TH_TARGET_TARGET.width := Chan.fld_setFld_same c F.TH_TARGET_TARGET c.nextTarget (by decide)
    _ ≤ c.nextTarget := Nat.mod_le _ _

theorem capBy_le (n : Nat) (o : Option Nat) : capBy n o ≤ n := by
  cases o with
  | none => exact le_refl n
  | some m => exact Nat.min_le_left n m

theorem Chan.targetW_le_share (c : Chan) : c.targetW ≤ c.fld F.TH_TARGET_SHARE :=
  ((capBy_le _ _).trans (capBy_le _ _)).trans (Nat.min_le_left _ _)

theorem Chan.limiterStep_power (c : Chan) (watts : Nat) : (c.limiterStep watts).fld F.TH_POWER_POWER = min watts 65535 := by
  cases h : c.down with
  | true =>
    rw [Chan.limiterStep_down h]
    exact c.fld_weighed_power watts
  | false =>
    rw [Chan.limiterStep_up h, Chan.dutied_fld _ _ _ (by decide), Chan.retargeted_fld _ (by decide) (by decide)]
    exact c.fld_metered_power watts

theorem Chan.nextTarget_le_slew (c : Chan) : c.nextTarget ≤ c.fld F.TH_TARGET_TARGET + max 8 (c.fld F.TH_CH_CFG_SLEW) := Nat.min_le_right _ _

theorem Chan.nextTarget_le_share (c : Chan) : c.nextTarget ≤ c.fld F.TH_TARGET_SHARE := (Nat.min_le_left _ _).trans c.targetW_le_share

/-- The target goes up by at most the slew rate, and stays within the share; in FROZEN and BRINGUP the duty is 0. -/
theorem Chan.limiterStep_target {c : Chan} (h : c.down = false) (watts : Nat) :
    (c.limiterStep watts).fld F.TH_TARGET_TARGET ≤ c.fld F.TH_TARGET_TARGET + max 8 (c.fld F.TH_CH_CFG_SLEW) ∧
      (c.limiterStep watts).fld F.TH_TARGET_TARGET ≤ c.fld F.TH_TARGET_SHARE ∧
      (c.st = .frozen ∨ c.st = .bringup → (c.limiterStep watts).fld F.TH_DUTY_DUTY = 0) := by
  rw [Chan.limiterStep_up h]
  have ht : ((c.metered watts).retargeted.dutied watts (c.metered watts).nextTarget).fld F.TH_TARGET_TARGET ≤ (c.metered watts).nextTarget := by
    rw [Chan.dutied_fld _ _ _ (by decide)]
    exact (c.metered watts).fld_retargeted
  have hslew := (c.metered watts).nextTarget_le_slew
  have hshare := (c.metered watts).nextTarget_le_share
  rw [c.fld_metered watts (by decide), c.fld_metered watts (by decide)] at hslew
  rw [c.fld_metered watts (by decide)] at hshare
  exact ⟨ht.trans hslew, ht.trans hshare, fun hst => Chan.dutied_stopped (by rwa [Chan.retargeted_st, Chan.metered_st]) _ _⟩

/-! ## The shares (R378) -/

/-- Whether a channel takes a share. -/
def Chan.shares (c : Chan) : Bool := !c.down && !c.linkLost

/-- A channel with its share set. -/
def Chan.withShare (avail sumH sumW : Nat) (c : Chan) : Chan :=
  if c.shares then c.setFld F.TH_TARGET_SHARE (min (c.shareW avail sumH sumW) 65535) else c

/-- A share does not depend on the groves. -/
theorem Chan.shares_groves (c : Chan) (gs : List (Nat × Grove)) (avail sumH sumW : Nat) : ({ c with groves := gs } : Chan).shares = c.shares ∧
    ({ c with groves := gs } : Chan).shareW avail sumH sumW = c.shareW avail sumH sumW ∧
    ({ c with groves := gs } : Chan).fld F.TH_TARGET_SHARE = c.fld F.TH_TARGET_SHARE := ⟨rfl, rfl, rfl⟩

theorem Chan.withShare_links (avail sumH sumW : Nat) (c : Chan) : (c.withShare avail sumH sumW).links = c.links := by
  unfold Chan.withShare
  split <;> rfl

/-- A channel's state, and its share, after it has been set. -/
theorem Chan.withShare_share (avail sumH sumW : Nat) (c : Chan) : (c.withShare avail sumH sumW).st = c.st ∧
    (c.withShare avail sumH sumW).fld F.TH_TARGET_SHARE =
      if c.shares then min (c.shareW avail sumH sumW) 65535 else c.fld F.TH_TARGET_SHARE := by
  unfold Chan.withShare
  split
  · refine ⟨rfl, (Chan.fld_setFld_same _ _ _ (by decide)).trans (Nat.mod_eq_of_lt ?_)⟩
    show min (c.shareW avail sumH sumW) 65535 < 65536
    omega
  · exact ⟨rfl, rfl⟩

theorem State.withShares_each (avail sumH sumW : Nat) (s : State) {k : Nat} (h8 : k < 8) :
    (((List.range 8).foldl (fun s c => s.onChan c (Chan.withShare avail sumH sumW)) s).chan k).st = (s.chan k).st ∧
    (((List.range 8).foldl (fun s c => s.onChan c (Chan.withShare avail sumH sumW)) s).chan k).fld F.TH_TARGET_SHARE =
      if (s.chan k).shares then min ((s.chan k).shareW avail sumH sumW) 65535 else (s.chan k).fld F.TH_TARGET_SHARE := by
  obtain ⟨gs, hs, x, hx, h⟩ := State.onChans_each (Chan.withShare_links avail sumH sumW) _ List.nodup_range h8 (List.mem_range.2 h8) s
  obtain ⟨hup, hshare, hfld⟩ := (s.chan k).shares_groves gs avail sumH sumW
  obtain ⟨hst, hset⟩ := Chan.withShare_share avail sumH sumW { s.chan k with groves := gs }
  rw [h]
  refine ⟨(Chan.body_st hx).trans hst, (Chan.body_fld hx _).trans (hset.trans ?_)⟩
  rw [hup, hshare, hfld]

/-- Recomputing the caps leaves the channels where cause CAP neither stands nor falls due. -/
theorem State.recap_still {t : State} (hno : t.causeSet 1 = false) (hdue : t.capCause = false) : t.recap.chans = t.chans ∧ t.recap.cell = t.cell := by
  unfold State.recap
  dsimp only
  rw [hdue, hno]
  exact ⟨rfl, rfl⟩

/-! ## The supply (R376, R391, R394, R454) -/

section
variable {s : State}

/-- The module with the supply's voltage taken. -/
def State.sampled (s : State) (mv : Nat) : State :=
  s.onPort (fun p => { p with power := { p.power with
    vin := mv, okSince := if 46000 ≤ mv ∧ mv ≤ 58000 then some (p.power.okSince.getD p.clock) else none } })

/-- A low input is flagged and latched. -/
def State.lowFlagged (s : State) (mv : Nat) : State :=
  if mv < 46000 then (s.onPort (fun p => p.setFld F.TH_MOD_STATUS_SUPPLY_LOW 1)).latch 8 else s

/-- An input that has just gone high is flagged and logged. -/
def State.highFlagged (s : State) (mv was : Nat) : State :=
  if 58000 < mv ∧ was ≤ 58000 then
    (s.onPort (fun p => p.setFld F.TH_MOD_STATUS_SUPPLY_HIGH 1)).flog .hwFault 2 0 none (argFld F.TH_MOD_STATUS_SUPPLY_HIGH)
  else s

theorem exec_supplySample (mv : Nat) (s : State) : exec (.supplySample mv) s =
    .next (if mv < 20000 then (if s.pd.powered then (s.sampled mv).powerLost else s.sampled mv)
      else if !s.pd.powered then s.sampled mv
      else (((s.sampled mv).lowFlagged mv).highFlagged mv s.pd.power.vin).recap) := rfl

theorem State.lowFlagged_cell (mv : Nat) : (s.lowFlagged mv).cell = s.cell := by
  unfold State.lowFlagged
  split <;> rfl

theorem State.lowFlagged_power (mv : Nat) : (s.lowFlagged mv).pd.power.vin = s.pd.power.vin ∧ (s.lowFlagged mv).pd.power.okSince = s.pd.power.okSince := by
  unfold State.lowFlagged
  split <;> exact ⟨rfl, rfl⟩

theorem State.lowFlagged_low {mv : Nat} (h : mv < 46000) : (s.lowFlagged mv).pd.fld F.TH_MOD_STATUS_SUPPLY_LOW = 1 := by
  unfold State.lowFlagged
  rw [if_pos h]
  exact PortDie.fld_setFld_same s.pd _ 1 (by decide)

theorem State.highFlagged_cell (mv was : Nat) : (s.highFlagged mv was).cell = s.cell := by
  unfold State.highFlagged
  split
  · exact (State.flog_only _ _ _ _ _ _).cell
  · rfl

theorem State.highFlagged_power (mv was : Nat) : (s.highFlagged mv was).pd.power = s.pd.power := by
  unfold State.highFlagged
  split
  · exact State.flog_power _ _ _ _ _ _
  · rfl

theorem State.highFlagged_low (mv was : Nat) : (s.highFlagged mv was).pd.fld F.TH_MOD_STATUS_SUPPLY_LOW = s.pd.fld F.TH_MOD_STATUS_SUPPLY_LOW := by
  unfold State.highFlagged
  split
  · exact (State.flog_fld _ _ _ _ _ _ (.inl (by decide))).trans (PortDie.fld_setFld_ne s.pd _ _ 1 (by decide) (.inr (by decide)))
  · rfl

theorem State.highFlagged_high {mv was : Nat} (h : 58000 < mv) (hw : was ≤ 58000) :
    (s.highFlagged mv was).pd.fld F.TH_MOD_STATUS_SUPPLY_HIGH = 1 := by
  unfold State.highFlagged
  rw [if_pos ⟨h, hw⟩]
  exact (State.flog_fld _ _ _ _ _ _ (.inl (by decide))).trans (PortDie.fld_setFld_same s.pd _ 1 (by decide))

/-- A sample with power keeps the voltage, and flags a low or a high input. -/
theorem supplySample_powered {mv : Nat} (hp : s.pd.powered = true) (hv : 20000 ≤ mv) : ∃ u, exec (.supplySample mv) s = .next u ∧
    u.cell = s.cell ∧ u.pd.power.vin = mv ∧
    (mv < 46000 → u.pd.fld F.TH_MOD_STATUS_SUPPLY_LOW = 1 ∧ u.pd.power.okSince = none) ∧
    (58000 < mv → s.pd.power.vin ≤ 58000 → u.pd.fld F.TH_MOD_STATUS_SUPPLY_HIGH = 1) := by
  let s2 := (s.sampled mv).lowFlagged mv
  have hpower : (s2.highFlagged mv s.pd.power.vin).recap.pd.power = s2.pd.power := (State.recap_power _).trans (State.highFlagged_power _ _)
  refine ⟨(s2.highFlagged mv s.pd.power.vin).recap, ?_, ?_, ?_, fun hlow => ⟨?_, ?_⟩, fun hhigh hwas => ?_⟩
  · rw [exec_supplySample, if_neg (by omega), if_neg (by simp [hp])]
  · exact (State.recap_quiet _).cell.trans ((State.highFlagged_cell _ _).trans (State.lowFlagged_cell mv))
  · rw [hpower]
    exact (State.lowFlagged_power mv).1
  · rw [State.recap_fld _ (by decide), State.highFlagged_low]
    exact State.lowFlagged_low hlow
  · rw [hpower]
    exact (State.lowFlagged_power mv).2.trans (if_neg (by omega))
  · rw [State.recap_fld _ (by decide)]
    exact State.highFlagged_high hhigh hwas

/-- Without supply every channel is dark. -/
theorem State.powerLost_dark (s : State) (k : Nat) : (s.powerLost.chan k).st = .off ∨ (s.powerLost.chan k).st = .locked := by
  have hdark (c : Chan) : c.darken.st = .off ∨ c.darken.st = .locked := by
    unfold Chan.darken
    split
    · next h => exact .inr h
    · exact .inl rfl
  rcases mapGet_mapValues Chan.reset Chan.darken s.chans k with h | h
  · rw [show s.powerLost.chan k = _ from h]
    exact hdark _
  · rw [show s.powerLost.chan k = _ from h]
    exact .inl rfl

/-- What a channel does when the input falls below 44 V. -/
def Chan.supplyFails (c : Chan) : Chan := if c.st = .bringup then c.bringupFails .hwFault else c

theorem exec_supplyFreeze (h : ¬ (44000 ≤ s.pd.power.vin || !s.pd.powered : Bool) = true) : exec .supplyFreeze s =
    .next ((((List.range 8).foldl (fun s c => s.onChan c Chan.supplyFails) s).freezeAll 3).latch (2 ^ 13)) :=
  congrArg Host.Outcome.next (if_neg h)

/-- Below 44 V a channel in BRINGUP fails, and one that is up freezes under SUPPLY. -/
theorem State.supplyFreeze_chan (s : State) {k : Nat} (h8 : k < 8) :
    let u := (((List.range 8).foldl (fun s c => s.onChan c Chan.supplyFails) s).freezeAll 3).latch (2 ^ 13)
    ((s.chan k).st = .bringup → (u.chan k).st = .faulted) ∧
    ((s.chan k).st = .ready ∨ (s.chan k).st = .running → (u.chan k).st = .frozen ∧ bits (u.chan k).freeze 3 1 = 1) := by
  obtain ⟨x, hx, hf⟩ := State.onChans_acts Chan.supplyFails _ List.nodup_range h8 (List.mem_range.2 h8) s
  dsimp only
  generalize (List.range 8).foldl (fun s c => s.onChan c Chan.supplyFails) s = t at hf ⊢
  refine ⟨fun hb => ?_, fun hup => ?_⟩
  · have hxb : x.st = .bringup := (hx.st_eq (by simp [Chan.Up, hb])).trans hb
    have hfx : x.supplyFails.st = .faulted := (congrArg Chan.st (if_pos hxb)).trans (Chan.bringupFails_st hxb _)
    have ht : (t.chan k).st = .faulted := (hf.st_eq (by simp [Chan.Up, hfx])).trans hfx
    exact (State.freezeAll_unmoved h8 (by simp [Chan.Unmoved, ht]) 3).trans ht
  · have hxu : x.Up := hx.up hup
    have hfx : x.supplyFails = x := if_neg (by rcases hxu with h | h <;> simp [h])
    exact State.freezeAll_up h8 (hf.up (by rw [hfx]; exact hxu)) 3

theorem supplySample_unpowered (hp : s.pd.powered = false) (mv : Nat) : exec (.supplySample mv) s = .next (s.sampled mv) := by
  rw [exec_supplySample, hp]
  split <;> rfl

theorem supplySample_lost (hp : s.pd.powered = true) {mv : Nat} (hv : mv < 20000) : exec (.supplySample mv) s = .next (s.sampled mv).powerLost := by
  rw [exec_supplySample, if_pos hv, if_pos hp]

theorem exec_supplyFreeze_none (h : 44000 ≤ s.pd.power.vin ∨ s.pd.powered = false) : exec .supplyFreeze s = .next s :=
  congrArg Host.Outcome.next (if_pos (by rcases h with h | h <;> simp [h]))

theorem exec_supplyRecover (s : State) : exec .supplyRecover s = .next (if s.pd.power.vin < 45000 then s else s.thawAll 3) := rfl

theorem State.thawAll_cell (s : State) (bit : Nat) : (s.thawAll bit).cell = s.cell := (State.onChans_rest _ _ s).1

/-- Where no channel sends as it thaws, each thaws by itself. -/
theorem State.thawAll_each (s : State) (bit : Nat) (hn : ∀ k < 8, takesNone (s.chan k) ((s.chan k).thawBy bit) = true) {k : Nat} (h8 : k < 8) :
    ((s.thawAll bit).chan k).body = ((s.chan k).thawBy bit).body := by
  have h := State.onChans_still (fun c => c.thawBy bit) (List.range 8) List.nodup_range (fun j => List.mem_range.1) s
    (fun j hj => hn j (List.mem_range.1 hj)) k h8
  rw [if_pos (List.mem_range.2 h8)] at h
  exact h

/-- The module once the orphan source is in. -/
def State.orphaned (s : State) : State :=
  (s.onPort (fun p => { p with power := { p.power with orphan := true } })).pdFlag F.TH_MOD_STATUS_ORPHAN F.TH_MOD_COUNT_ORPHAN

theorem exec_orphanExpiry (s : State) : exec .orphanExpiry s =
    .next (if s.pd.power.pmbusCap.isNone || s.pd.power.orphan then s else s.orphaned.recap) := rfl

theorem State.orphaned_fld (s : State) : s.orphaned.pd.fld F.TH_MOD_STATUS_ORPHAN = 1 :=
  PortDie.fld_flag_same _ _ _ (by decide) (by decide) (by decide) (.inl (by decide))

end

/-- Settles O55. -/
theorem limiterSharesAndSupply : Obligations.LimiterSharesAndSupply := by
  refine ⟨fun ch watts s => ⟨⟨rfl, s.onChan_actsOn ch _, Chan.limiterStep_power _ _, fun h => Chan.limiterStep_down h watts,
      fun h => Chan.limiterStep_target h watts⟩, ⟨_, rfl, (State.onChans_rest _ _ s).1, fun k h8 => State.withShares_each _ _ _ s h8⟩,
      fun t => State.recap_still⟩,
    fun mv s => ⟨⟨fun hp => supplySample_unpowered hp mv, fun hp hv => ⟨supplySample_lost hp hv, rfl, fun k _ => State.powerLost_dark _ k⟩⟩,
      supplySample_powered, exec_supplyFreeze_none, fun hv hp => ?_, fun hv => ?_, fun hv => ⟨?_, s.thawAll_cell 3, fun hn k => s.thawAll_each 3 hn⟩,
      fun hcap hno => ?_, fun h => ?_⟩⟩
  · exact ⟨_, exec_supplyFreeze (by simp [hp]; omega), fun k h8 => State.supplyFreeze_chan s h8⟩
  · rw [exec_supplyRecover, if_pos hv]
  · rw [exec_supplyRecover, if_neg (Nat.not_lt.2 hv)]
  · refine ⟨s.orphaned.recap, ?_, congrArg ModPower.orphan (State.recap_power _), (State.recap_fld _ (by decide)).trans s.orphaned_fld⟩
    rw [exec_orphanExpiry, if_neg (by simp [hno, Option.isSome_iff_ne_none.1 hcap])]
  · rw [exec_orphanExpiry, if_pos (by rcases h with h | h <;> simp [h])]

end Sys2Proof.Machine
end

section
/-! PROOFS. A module shutdown takes every channel out of use; sensors, heat and the coolant. -/

namespace Sys2Proof.Machine

/-! ## Every channel into OFF (R389) -/

/-- A channel without power that nothing brings back by itself. -/
def Chan.Dark (c : Chan) : Prop := c.st = .off ∨ c.st = .locked

theorem Chan.Dark.unmoved {c : Chan} (h : c.Dark) : c.Unmoved := by
  rcases h with h | h <;> simp [Chan.Unmoved, h]

theorem Chan.Dark.congr {a b : Chan} (h : a.Dark) (hst : b.st = a.st) : b.Dark := by
  unfold Chan.Dark
  rwa [hst]

/-- A channel that goes to OFF unless it is there. -/
def Chan.toOff (c : Chan) : Chan := if c.st = .off then c else c.enterOff

theorem Chan.toOff_dark (c : Chan) : c.toOff.Dark := by
  unfold Chan.toOff
  split
  · next h => exact .inl h
  · by_cases hl : c.st = .locked
    · rw [show c.enterOff = c from if_pos hl]
      exact .inr hl
    · exact .inl (Chan.enterOff_off hl).2.2.1

theorem State.allOff_dark (s : State) {k : Nat} (h8 : k < 8) : (s.allOff.chan k).Dark := by
  obtain ⟨x, -, hf⟩ := State.onChans_acts Chan.toOff _ List.nodup_range h8 (List.mem_range.2 h8) s
  exact x.toOff_dark.congr (hf.st_eq (by rcases x.toOff_dark with h | h <;> simp [Chan.Up, h]))

theorem State.allOff_core (s : State) : s.allOff.pd.core = s.pd.core := by
  unfold State.allOff
  generalize List.range 8 = l
  induction l generalizing s with
  | nil => rfl
  | cons c t ih => exact (ih _).trans (s.onChan_core c _)

/-! ## Shutdown (R389) -/

theorem State.recap_dark {s : State} {k : Nat} (h8 : k < 8) (h : (s.chan k).Dark) : (s.recap.chan k).Dark :=
  h.congr (congrArg Prod.fst (State.recap_standing h8 h.unmoved))

theorem State.flog_chan (s : State) (st : Status) (src code : Nat) (ch : Option Nat) (arg : BitVec 64) (k : Nat) :
    (s.flog st src code ch arg).chan k = s.chan k := by
  unfold State.chan
  rw [(s.flog_only st src code ch arg).chans]

/-- The module with its regulators off. -/
def State.regulatorsOff (s : State) : State :=
  s.allOff.onPort (fun p => { (p.setFld F.TH_MOD_STATUS_SHUTDOWN 1) with power := { p.power with regOff := true, coolant := false } })

theorem State.regulatorsOff_rest (s : State) : (∀ k, s.regulatorsOff.chan k = s.allOff.chan k) ∧
    s.regulatorsOff.pd.power = { s.pd.power with regOff := true, coolant := false } ∧ s.regulatorsOff.pd.fld F.TH_MOD_STATUS_SHUTDOWN = 1 := by
  have hp : s.allOff.pd.power = s.pd.power := PortDie.of_core (·.power) s.allOff_core
  unfold State.regulatorsOff
  generalize s.allOff = a at hp
  exact ⟨fun _ => rfl, by rw [← hp]; rfl, PortDie.fld_setFld_same a.pd F.TH_MOD_STATUS_SHUTDOWN 1 (by decide)⟩

/-- A shutdown logs each channel, takes the channels and the regulators off, logs itself and computes the caps anew. -/
theorem State.shutdown_eq (s : State) (st : Status) (detail : Nat) : ∃ t : State, ∃ arg, t.pd.power = s.pd.power ∧
    s.shutdown st detail = (t.regulatorsOff.flog st 2 0 none arg).recap := by
  refine ⟨(List.range 8).foldl (fun (t : State) c => t.flog st 2 0 (some c) (argFld F.TH_MOD_STATUS_SHUTDOWN ((s.chan c).fld F.TH_TJ_TJ_MAX))) s,
    _, ?_, rfl⟩
  generalize s.chan = ch
  generalize List.range 8 = l
  induction l generalizing s with
  | nil => rfl
  | cons c l ih => exact (ih _).trans (State.flog_power _ _ _ _ _ _)

theorem State.shutdown_dark (s : State) (st : Status) (detail : Nat) {k : Nat} (h8 : k < 8) : ((s.shutdown st detail).chan k).Dark := by
  obtain ⟨t, arg, -, he⟩ := s.shutdown_eq st detail
  rw [he]
  refine State.recap_dark h8 ?_
  rw [State.flog_chan, t.regulatorsOff_rest.1]
  exact t.allOff_dark h8

theorem State.shutdown_power (s : State) (st : Status) (detail : Nat) :
    (s.shutdown st detail).pd.power = { s.pd.power with regOff := true, coolant := false } := by
  obtain ⟨t, arg, hp, he⟩ := s.shutdown_eq st detail
  rw [he, State.recap_power, State.flog_power, t.regulatorsOff_rest.2.1, hp]

theorem State.shutdown_flag (s : State) (st : Status) (detail : Nat) : (s.shutdown st detail).pd.fld F.TH_MOD_STATUS_SHUTDOWN = 1 := by
  obtain ⟨t, arg, -, he⟩ := s.shutdown_eq st detail
  rw [he, State.recap_fld _ (by decide), State.flog_fld _ _ _ _ _ _ (.inl (by decide))]
  exact t.regulatorsOff_rest.2.2

/-! ## A sample of a channel's sensors (R383, R387-R389) -/

/-- A channel with a sample taken and its window moved on. -/
def Chan.tempSampled (c : Chan) (temps : List Int) : Chan :=
  let c1 := c.sampleTemps temps
  ({ c1 with power := { c1.power with window := ((c1.fieldTemps, c1.fld F.TH_POWER_POWER) :: c1.power.window).take 11 } } : Chan).fieldsReturn

/-- Whether a field has reached 100 °C. -/
def Chan.trips (c : Chan) : Bool := c.fieldTemps.any (fun t => decide (1600 ≤ t))

/-- Whether the coolant stops on a channel's sample. -/
def State.stops (s : State) (c : Chan) : Bool :=
  (!c.down && suddenRise c.power.window (s.pd.fld F.TH_MOD_CFG_DTDT)) || (s.flowLost && (List.range 8).any (fun k => !(s.chan k).down))

theorem State.stops_iff (s : State) (c : Chan) : s.stops c = true ↔
    (c.down = false ∧ suddenRise c.power.window (s.pd.fld F.TH_MOD_CFG_DTDT) = true) ∨ (s.flowLost = true ∧ ∃ k < 8, (s.chan k).down = false) := by
  simp [State.stops]

/-- The module with a channel's sample taken. -/
def State.sampledAt (s : State) (ch : Nat) (temps : List Int) : State := (s.onChan ch (fun c => c.tempSampled temps)).noteHottest

section
variable {s : State} {ch : Fin 8}

theorem exec_tempSample (ch : Fin 8) (temps : List Int) (s : State) : exec (.tempSample ch temps) s =
    .next (if ((s.sampledAt ch temps).chan ch).trips then
        (if (s.sampledAt ch temps).pd.power.regOff then s.sampledAt ch temps else (s.sampledAt ch temps).thermalTrip)
      else if (s.sampledAt ch temps).stops ((s.sampledAt ch temps).chan ch) then (s.sampledAt ch temps).coolantStop
      else (s.sampledAt ch temps).coolantCheck) := rfl

theorem State.noteHottest_chan (s : State) (k : Nat) : s.noteHottest.chan k = s.chan k := rfl

theorem State.sampledAt_body (s : State) (ch : Nat) (temps : List Int) :
    ((s.sampledAt ch temps).chan ch).body = ((s.chan ch).tempSampled temps).body := by
  rw [State.sampledAt, State.noteHottest_chan]
  exact s.onChan_body ch _

/-- What a sample leads to is read off the channel that has taken it. -/
theorem State.sampledAt_reads (s : State) (ch : Nat) (temps : List Int) :
    ((s.sampledAt ch temps).chan ch).trips = ((s.chan ch).tempSampled temps).trips ∧
      (s.sampledAt ch temps).stops ((s.sampledAt ch temps).chan ch) = (s.sampledAt ch temps).stops ((s.chan ch).tempSampled temps) := by
  have hb := State.sampledAt_body s ch temps
  generalize (s.chan ch).tempSampled temps = d at hb
  generalize s.sampledAt ch temps = u at hb
  have hpower := Chan.body_power hb
  constructor
  · unfold Chan.trips Chan.fieldTemps
    rw [hpower]
  · unfold State.stops Chan.down
    rw [hpower, Chan.body_st hb]

theorem tempSample_shuts {temps : List Int} (ht : ((s.chan ch).tempSampled temps).trips = true)
    (hon : (s.sampledAt ch temps).pd.power.regOff = false) : exec (.tempSample ch temps) s = .next (s.sampledAt ch temps).thermalTrip := by
  rw [exec_tempSample, (s.sampledAt_reads ch temps).1, if_pos ht, if_neg (by simp [hon])]

theorem tempSample_shut {temps : List Int} (ht : ((s.chan ch).tempSampled temps).trips = true)
    (hoff : (s.sampledAt ch temps).pd.power.regOff = true) : exec (.tempSample ch temps) s = .next (s.sampledAt ch temps) := by
  rw [exec_tempSample, (s.sampledAt_reads ch temps).1, if_pos ht, if_pos hoff]

/-- Where no field trips, the coolant stops or is checked. -/
theorem tempSample_cool {temps : List Int} (ht : ¬ ((s.chan ch).tempSampled temps).trips = true) : exec (.tempSample ch temps) s =
    .next (if (s.sampledAt ch temps).stops ((s.chan ch).tempSampled temps) then (s.sampledAt ch temps).coolantStop
      else (s.sampledAt ch temps).coolantCheck) := by
  rw [exec_tempSample, (s.sampledAt_reads ch temps).1, if_neg ht, (s.sampledAt_reads ch temps).2]

theorem State.thermalTrip_ends (s : State) : s.thermalTrip.pd.power.regOff = true ∧ s.thermalTrip.pd.fld F.TH_MOD_STATUS_SHUTDOWN = 1 ∧
    ∀ k < 8, (s.thermalTrip.chan k).Dark := by
  unfold State.thermalTrip
  exact ⟨by rw [State.shutdown_power], State.shutdown_flag _ _ _, fun k h8 => State.shutdown_dark _ _ _ h8⟩

/-! ## A pair that disagrees (R383) -/

/-- The condition under which a pair is noted as disagreeing. -/
def Chan.disagrees (c : Chan) (field hot : Nat) : Prop :=
  field < 6 ∧ hot < 4 ∧ c.suspect (2 * (4 * field + hot)) = false ∧ c.suspect (2 * (4 * field + hot) + 1) = false ∧
    64 < pairGap c.power.temps (4 * field + hot) ∧ c.power.hot.contains (4 * field + hot) = false

theorem Chan.disagrees_not (c : Chan) (field hot : Nat) :
    ¬ (6 ≤ field || 4 ≤ hot || c.suspect (2 * (4 * field + hot)) || c.suspect (2 * (4 * field + hot) + 1)
      || decide (pairGap c.power.temps (4 * field + hot) ≤ 64) || c.power.hot.contains (4 * field + hot) : Bool) = true ↔ c.disagrees field hot := by
  simp only [Chan.disagrees, Bool.or_eq_true, decide_eq_true_eq, not_or, not_le, Bool.not_eq_true]
  tauto

/-- A channel with a disagreement of hot spot `h` no longer held. -/
def Chan.settledPair (c : Chan) (h i : Nat) : Chan :=
  (({ c with power := { c.power with hot := c.power.hot.filter (· ≠ h) } } : Chan).markSuspect (2 * h + i)).readTemps

/-- The sensor of a pair that is further from the reference, and the channel once it is chosen: between equals by a free choice. -/
def Chan.further (c : Chan) (da db : Nat) : Nat × Chan := if da = db then c.draw else (if da < db then 1 else 0, c)

theorem sensorSuspect_none {field hot : Nat} (pred : Int) (h : 6 ≤ field ∨ 4 ≤ hot ∨ (s.chan ch).power.hot.contains (4 * field + hot) = false) :
    Acts (.sensorSuspect ch field hot pred) s ch (s.chan ch) :=
  .of_chanStep rfl (if_pos (by simpa [or_assoc] using h))

theorem sensorSuspect_rules {field hot : Nat} (pred : Int) (hf : field < 6) (hh : hot < 4)
    (hin : (s.chan ch).power.hot.contains (4 * field + hot) = true) :
    let c := s.chan ch
    let h := 4 * field + hot
    let r := c.reference6 field hot pred
    let da := (6 * (pairAt c.power.temps h).1 - r).natAbs
    let db := (6 * (pairAt c.power.temps h).2 - r).natAbs
    (db < da → Acts (.sensorSuspect ch field hot pred) s ch (c.settledPair h 0)) ∧
    (da < db → Acts (.sensorSuspect ch field hot pred) s ch (c.settledPair h 1)) ∧
    (da = db → Acts (.sensorSuspect ch field hot pred) s ch (c.draw.2.settledPair h (c.draw.1 % 2))) := by
  intro c h r da db
  have hgo : ¬ (6 ≤ field || 4 ≤ hot || !c.power.hot.contains h : Bool) = true := by
    simp only [Bool.or_eq_true, decide_eq_true_eq, Bool.not_eq_true', not_or, not_le]
    exact ⟨⟨hf, hh⟩, by rw [hin]; decide⟩
  have hacts : Acts (.sensorSuspect ch field hot pred) s ch ((c.further da db).2.settledPair h ((c.further da db).1 % 2)) :=
    .of_chanStep rfl (if_neg hgo)
  unfold Chan.further at hacts
  refine ⟨fun hlt => ?_, fun hlt => ?_, fun heq => ?_⟩
  · rwa [if_neg (Nat.ne_of_gt hlt), if_neg (Nat.lt_asymm hlt)] at hacts
  · rwa [if_neg (Nat.ne_of_lt hlt), if_pos hlt] at hacts
  · rwa [if_pos heq] at hacts

/-! ## The inlet (R384) -/

/-- The good readings of the inlet's two sensors. -/
def goodInlets (t0 t1 : Int) : List Int := [t0, t1].filter (fun t => decide (0 ≤ t) && decide (t ≤ 1280))

theorem exec_inletSample (t0 t1 : Int) (s : State) : exec (.inletSample t0 t1) s = .next (match maxTemp (goodInlets t0 t1) with
    | some t => s.onPort (fun p => { p with power := { p.power with tin := t } })
    | none => s.onPort (fun p => { (p.setFld F.TH_MOD_STATUS_INLET_FAIL 1) with power := { p.power with tin := 720 } })) := rfl

theorem goodInlets_eq (t0 t1 : Int) : goodInlets t0 t1 =
    (if 0 ≤ t0 ∧ t0 ≤ 1280 then [t0] else []) ++ (if 0 ≤ t1 ∧ t1 ≤ 1280 then [t1] else []) := by
  unfold goodInlets
  rw [List.filter_cons, List.filter_cons, List.filter_nil]
  simp only [Bool.and_eq_true, decide_eq_true_eq]
  split <;> rfl

theorem inletSample_some {t0 t1 t : Int} (h : maxTemp (goodInlets t0 t1) = some t) :
    exec (.inletSample t0 t1) s = .next (s.onPort (fun p => { p with power := { p.power with tin := t } })) := by
  rw [exec_inletSample, h]

theorem inletSample_none {t0 t1 : Int} (h : maxTemp (goodInlets t0 t1) = none) : exec (.inletSample t0 t1) s =
    .next (s.onPort (fun p => { (p.setFld F.TH_MOD_STATUS_INLET_FAIL 1) with power := { p.power with tin := 720 } })) := by
  rw [exec_inletSample, h]

/-! ## θ and the heat trim (R385-R387) -/

/-- A channel with its theta set. -/
def Chan.withTheta (c : Chan) (th : Word) (tin : Int) : Chan :=
  { c.putReg R.TH_THETA th with power := { c.power with
    theta := some th, thetaCap := some (thetaCapOf th (c.reg R.TH_THETA_NOM) tin) } }

/-- A channel with its theta set, and the alert where it is high. -/
def Chan.alerted (c : Chan) (th : Word) (tin : Int) : Chan :=
  if thetaHigh th (c.reg R.TH_THETA_NOM) then
    if (c.power.theta.map (fun o => thetaHigh o (c.reg R.TH_THETA_NOM))).getD false then (c.withTheta th tin).setFld F.TH_STATUS_THETA_ALERT 1
    else (c.withTheta th tin).flagEvent F.TH_STATUS_THETA_ALERT F.TH_COUNT_THETA_ALERT .hwFault 2 none
  else c.withTheta th tin

/-- The theta of this update: below 1,000 W it stays (R386). -/
def Chan.newTheta (c : Chan) (tin : Int) : Option Word :=
  if c.fld F.TH_POWER_POWER < 1000 then c.power.theta
  else some (Config.thetaAverage c.power.theta ((maxTemp c.fieldTemps).getD 0 - tin) (c.fld F.TH_POWER_POWER))

/-- A channel once its theta has been updated. -/
def Chan.thetaUpdated (c : Chan) (tin : Int) : Chan :=
  if c.down then c
  else match c.newTheta tin with
    | none => c
    | some th => c.alerted th tin

theorem exec_thetaUpdate (ch : Fin 8) (s : State) : exec (.thetaUpdate ch) s = chanStep s ch (fun c => c.thetaUpdated s.pd.power.tin) := rfl

theorem thetaUpdate_sets {th : Word} (h : (s.chan ch).down = false) (hn : (s.chan ch).newTheta s.pd.power.tin = some th) :
    Acts (.thetaUpdate ch) s ch ((s.chan ch).alerted th s.pd.power.tin) := by
  refine .of_chanStep (exec_thetaUpdate ch s) ?_
  rw [Chan.thetaUpdated, if_neg (by simp [h]), hn]

theorem thetaUpdate_none (h : (s.chan ch).down = false) (hn : (s.chan ch).newTheta s.pd.power.tin = none) :
    Acts (.thetaUpdate ch) s ch (s.chan ch) := by
  refine .of_chanStep (exec_thetaUpdate ch s) ?_
  rw [Chan.thetaUpdated, if_neg (by simp [h]), hn]

/-- An update with a theta: the alert is flagged where the theta is high, and logged where it was not. -/
theorem thetaUpdate_follows {th : Word} (h : (s.chan ch).down = false) (hn : (s.chan ch).newTheta s.pd.power.tin = some th) (e : Chan)
    (he : e = (s.chan ch).withTheta th s.pd.power.tin) :
    let c := s.chan ch
    let nom := c.reg R.TH_THETA_NOM
    (thetaHigh th nom = false → Acts (.thetaUpdate ch) s ch e) ∧
    (thetaHigh th nom = true →
      (∀ o, c.power.theta = some o → thetaHigh o nom = true → Acts (.thetaUpdate ch) s ch (e.setFld F.TH_STATUS_THETA_ALERT 1)) ∧
      ((∀ o, c.power.theta = some o → thetaHigh o nom = false) → Acts (.thetaUpdate ch) s ch
        (e.flagEvent F.TH_STATUS_THETA_ALERT F.TH_COUNT_THETA_ALERT .hwFault 2 none))) := by
  have hacts := thetaUpdate_sets h hn
  subst he
  dsimp only
  unfold Chan.alerted at hacts
  refine ⟨fun hlow => ?_, fun hhigh => ⟨fun o ho hold => ?_, fun hold => ?_⟩⟩
  · rwa [if_neg (by simp [hlow])] at hacts
  · rwa [if_pos hhigh, if_pos (by simp [ho, hold])] at hacts
  · have hlow : ¬ ((s.chan ch).power.theta.map (fun o => thetaHigh o ((s.chan ch).reg R.TH_THETA_NOM))).getD false = true := by
      cases hθ : (s.chan ch).power.theta with
      | none => simp
      | some o => simp [hold o hθ]
    rwa [if_pos hhigh, if_neg hlow] at hacts

/-- A channel once its heat trim has been reviewed. -/
def Chan.trimmed (c : Chan) : Chan :=
  if c.down then c
  else if c.fieldTemps.any (fun t => decide (1520 < t)) then
    { c.setFld F.TH_STATUS_TRIM 1 with power := { c.power with trim := some (95 * capBy (c.fld F.TH_POWER_POWER) c.power.trim / 100) } }
  else if c.fieldTemps.all (fun t => decide (t ≤ 1488)) then
    match c.power.trim with
    | none => c
    | some t => { c with power := { c.power with trim := if 4000 ≤ 105 * t / 100 then none else some (105 * t / 100) } }
  else c

theorem exec_heatTrim (ch : Fin 8) (s : State) : exec (.heatTrim ch) s = chanStep s ch Chan.trimmed := rfl

theorem Chan.trimmed_hot {c : Chan} (h : c.down = false) (hot : ∃ t ∈ c.fieldTemps, 1520 < t) : c.trimmed =
    { c.setFld F.TH_STATUS_TRIM 1 with power := { c.power with trim := some (95 * capBy (c.fld F.TH_POWER_POWER) c.power.trim / 100) } } := by
  rw [Chan.trimmed, if_neg (by simp [h]), if_pos (by simpa using hot)]

theorem Chan.trimmed_warm {c : Chan} (h : c.down = false) (hot : ∀ t ∈ c.fieldTemps, t ≤ 1520)
    (hk : (∃ t ∈ c.fieldTemps, 1488 < t) ∨ c.power.trim = none) : c.trimmed = c := by
  rw [Chan.trimmed, if_neg (by simp [h]), if_neg (by simpa using hot)]
  rcases hk with hk | hk
  · exact if_neg (by simpa using hk)
  · rw [hk]
    exact ite_self c

theorem Chan.trimmed_cool {c : Chan} (h : c.down = false) {t : Nat} (hc : ∀ x ∈ c.fieldTemps, x ≤ 1488) (ht : c.power.trim = some t) : c.trimmed =
    { c with power := { c.power with trim := if 4000 ≤ 105 * t / 100 then none else some (105 * t / 100) } } := by
  have hhot : ∀ x ∈ c.fieldTemps, x ≤ 1520 := fun x hx => (hc x hx).trans (by decide)
  rw [Chan.trimmed, if_neg (by simp [h]), if_neg (by simpa using hhot), if_pos (by simpa using hc), ht]

/-! ## Stopped fields (R387) -/

theorem bits_mod_pow {n f w : Nat} (h : f < w) : bits (n % 2 ^ w) f 1 = bits n f 1 := by
  obtain ⟨m, rfl⟩ : ∃ m, w = f + (m + 1) := ⟨w - f - 1, by omega⟩
  unfold bits
  rw [pow_add, Nat.mod_mul_right_div_self, Nat.mod_mod_of_dvd _ (pow_dvd_pow 2 (by omega))]

theorem Chan.pauseGrove_other (c : Chan) {g h : Nat} (cause : Nat) (hne : h ≠ g) : (c.pauseGrove g cause).grove h = c.grove h := by
  unfold Chan.pauseGrove
  dsimp only
  split
  · rw [Chan.settle_grove, Chan.grove_setGrove, if_neg hne]
  · split
    · rw [Chan.grove_setGrove, if_neg hne]
    · rfl

theorem Chan.settle_banked (c : Chan) : c.settle.bank = c.bank ∧ c.settle.tiles = c.tiles := by
  unfold Chan.settle
  split <;> exact ⟨rfl, rfl⟩

theorem Chan.pauseGrove_banked (c : Chan) (g cause : Nat) : (c.pauseGrove g cause).bank = c.bank ∧ (c.pauseGrove g cause).tiles = c.tiles := by
  unfold Chan.pauseGrove
  dsimp only
  split
  · exact Chan.settle_banked _
  · split <;> exact ⟨rfl, rfl⟩

/-- Whether a grove pauses for HEAT as field `f` stops. -/
def Chan.heatsIn (c : Chan) (f g : Nat) : Bool := (c.tilesOf g).any (fun i => fieldOf i = f) && !(c.grove g).replay

/-- A grove pauses for HEAT as field `f` stops. -/
def Chan.heatPause (f : Nat) (c : Chan) (g : Nat) : Chan := if c.heatsIn f g then c.pauseGrove g 2 else c

theorem Chan.heatPause_banked (f : Nat) (c : Chan) (g : Nat) : (c.heatPause f g).bank = c.bank ∧ (c.heatPause f g).tiles = c.tiles := by
  unfold Chan.heatPause
  split
  · exact c.pauseGrove_banked g 2
  · exact ⟨rfl, rfl⟩

theorem Chan.heatPause_other (f : Nat) (c : Chan) {g h : Nat} (hne : h ≠ g) : (c.heatPause f g).grove h = c.grove h := by
  unfold Chan.heatPause
  split
  · exact c.pauseGrove_other 2 hne
  · rfl

theorem Chan.heatsIn_congr {a b : Chan} (f : Nat) {g : Nat} (ht : b.tiles = a.tiles) (hg : b.grove g = a.grove g) : b.heatsIn f g = a.heatsIn f g := by
  unfold Chan.heatsIn Chan.tilesOf
  rw [ht, hg]

theorem Chan.heatPauses_bank (f : Nat) (l : List Nat) (c : Chan) : (l.foldl (Chan.heatPause f) c).bank = c.bank := by
  induction l generalizing c with
  | nil => rfl
  | cons g t ih => exact (ih _).trans (c.heatPause_banked f g).1

theorem Chan.heatPauses_other (f : Nat) (l : List Nat) {h : Nat} (hl : h ∉ l) (c : Chan) : (l.foldl (Chan.heatPause f) c).grove h = c.grove h := by
  induction l generalizing c with
  | nil => rfl
  | cons g t ih =>
    obtain ⟨hg, ht⟩ := not_or.1 (mt List.mem_cons.2 hl)
    exact (ih ht _).trans (c.heatPause_other f hg)

/-- A running grove with a tile in the field that does not replay pauses. -/
theorem Chan.heatPauses_paused (f : Nat) (l : List Nat) (hn : l.Nodup) {g : Nat} (hl : g ∈ l) (c : Chan) (hin : c.heatsIn f g = true)
    (hr : (c.grove g).st = .running) : ((l.foldl (Chan.heatPause f) c).grove g).st = .paused := by
  induction l generalizing c with
  | nil => exact absurd hl List.not_mem_nil
  | cons h t ih =>
    obtain ⟨hh, ht⟩ := List.nodup_cons.1 hn
    by_cases hgh : g = h
    · subst hgh
      rw [List.foldl_cons, Chan.heatPauses_other f t hh, Chan.heatPause, if_pos hin]
      exact c.pauseGrove_paused g 2 (.inl hr)
    · have hkeep := c.heatPause_other f hgh
      refine ih ht ((List.mem_cons.1 hl).resolve_left hgh) _ ?_ (by rw [hkeep]; exact hr)
      rw [Chan.heatsIn_congr f (c.heatPause_banked f h).2 hkeep]
      exact hin

theorem Chan.fld_of_bank {a b : Chan} (h : a.bank = b.bank) (f : Fld) : a.fld f = b.fld f := by
  rw [Chan.fld, Chan.fld, h]

/-- The channel as field `f` is noted as stopped. -/
def Chan.fieldStopped (c : Chan) (f : Nat) : Chan :=
  (c.setFld F.TH_TJ_STOPPED (c.fld F.TH_TJ_STOPPED + 2 ^ f)).flag F.TH_STATUS_FIELD_STOP F.TH_COUNT_FIELD_STOP

theorem Chan.fieldStopped_flds (c : Chan) {f : Nat} (h6 : f < 6) (h : bits (c.fld F.TH_TJ_STOPPED) f 1 = 0) :
    bits ((c.fieldStopped f).fld F.TH_TJ_STOPPED) f 1 = 1 ∧ (c.fieldStopped f).fld F.TH_STATUS_FIELD_STOP = 1 := by
  have hstop : (c.fieldStopped f).fld F.TH_TJ_STOPPED = (c.fld F.TH_TJ_STOPPED + 2 ^ f) % 2 ^ 6 := by
    unfold Chan.fieldStopped
    generalize hv : c.fld F.TH_TJ_STOPPED + 2 ^ f = v
    rw [Chan.flag, Chan.fld_count_ne _ _ _ (by decide) (.inl (by decide)), Chan.fld_setFld_ne _ _ _ _ (by decide) (.inl (by decide)),
      Chan.fld_setFld_same _ _ _ (by decide)]
  refine ⟨?_, Chan.fld_flag_same _ _ _ (by decide) (by decide) (by decide) (.inl (by decide))⟩
  have hadd := bits_add_pow (c.fld F.TH_TJ_STOPPED) f
  rw [if_neg (by omega)] at hadd
  rw [hstop, bits_mod_pow h6, hadd]

theorem Chan.fieldStopped_tiles (c : Chan) (f : Nat) : (c.fieldStopped f).tiles = c.tiles := by
  unfold Chan.fieldStopped
  rw [Chan.flag_tiles, Chan.setFld_tiles]

theorem Chan.fieldStopped_grove (c : Chan) (f g : Nat) : (c.fieldStopped f).grove g = c.grove g := by
  unfold Chan.fieldStopped Chan.grove
  rw [Chan.flag_groves, Chan.setFld_groves]

/-- The channel with field `f` stopped and its groves paused. -/
def Chan.gated (f : Nat) (c : Chan) : Chan := groveNums.foldl (Chan.heatPause f) (c.fieldStopped f)

theorem State.latch_chan (s : State) (b k : Nat) : (s.latch b).chan k = s.chan k := rfl

theorem exec_fieldGate (f : Fin 6) : exec (.fieldGate ch f) s =
    .next (if (s.chan ch).down || decide ((s.chan ch).fieldTemps.getD f 0 ≤ 1520) || bits ((s.chan ch).fld F.TH_TJ_STOPPED) f 1 = 1 then s
      else (s.onChan ch (Chan.gated f)).latch 4) := rfl

theorem fieldGate_none {f : Fin 6} (h : (s.chan ch).down = true ∨ (s.chan ch).fieldTemps.getD f 0 ≤ 1520 ∨ bits ((s.chan ch).fld F.TH_TJ_STOPPED) f 1 = 1) :
    exec (.fieldGate ch f) s = .next s := by
  rw [exec_fieldGate, if_pos (by simpa [or_assoc] using h)]

theorem fieldGate_stops {f : Fin 6} (hup : (s.chan ch).down = false) (hot : 1520 < (s.chan ch).fieldTemps.getD f 0)
    (hb : bits ((s.chan ch).fld F.TH_TJ_STOPPED) f 1 = 0) : ∃ u, exec (.fieldGate ch f) s = .next u ∧ u.cell = s.cell ∧
      bits ((u.chan ch).fld F.TH_TJ_STOPPED) f 1 = 1 ∧ (u.chan ch).fld F.TH_STATUS_FIELD_STOP = 1 ∧
      ∀ g < 16, ((s.chan ch).tilesOf g).any (fun i => fieldOf i = f) = true → ((s.chan ch).grove g).replay = false →
        ((s.chan ch).grove g).st = .running → ((u.chan ch).grove g).st = .paused := by
  have hfld (x : Fld) : ((s.onChan ch (Chan.gated f)).chan ch).fld x = ((s.chan ch).fieldStopped f).fld x :=
    (s.onChan_fld ch _ x).trans (Chan.fld_of_bank (Chan.heatPauses_bank f groveNums _) x)
  obtain ⟨hstop, hflag⟩ := (s.chan ch).fieldStopped_flds f.isLt hb
  refine ⟨(s.onChan ch (Chan.gated f)).latch 4, ?_, s.onChan_cell ch _, ?_, ?_, fun g h16 hin hreplay hrun => ?_⟩
  · rw [exec_fieldGate, if_neg (by simpa [hup, hb] using hot)]
  · rw [State.latch_chan, hfld]
    exact hstop
  · rw [State.latch_chan, hfld]
    exact hflag
  · have hheats : ((s.chan ch).fieldStopped f).heatsIn f g = true := by
      rw [Chan.heatsIn_congr f ((s.chan ch).fieldStopped_tiles f) ((s.chan ch).fieldStopped_grove f g), Chan.heatsIn, hin, hreplay]
      rfl
    rw [State.latch_chan, s.onChan_grove]
    exact Chan.heatPauses_paused f groveNums List.nodup_range (List.mem_range.2 h16) _ hheats (by rw [Chan.fieldStopped_grove]; exact hrun)

/-! ## Coolant (R388, R389) -/

/-- The module with FLOW_LOSS_N as it is. -/
def State.flowIs (s : State) (b : Bool) : State := s.onPort (fun p => { p with power := { p.power with flowLoss := b } })

theorem exec_flowLoss (s : State) : exec .flowLoss s =
    .next (if s.pd.powered && decide (s.pd.fld F.TH_MOD_CFG_FLOW_EN = 1) then (s.flowIs true).coolantStop else s.flowIs true) := rfl

theorem exec_flowLossDeassert (s : State) : exec .flowLossDeassert s = .next (s.flowIs false).coolantCheck := rfl

/-- The coolant that stops freezes every channel that is up, under COOLANT. -/
theorem State.coolantStop_stops (h : s.pd.power.coolant = false) : s.coolantStop.cell = s.cell ∧
    s.coolantStop.pd.power = { s.pd.power with coolant := true } ∧ s.coolantStop.pd.fld F.TH_MOD_STATUS_COOLANT_STOP = 1 ∧
    ∀ k < 8, (s.chan k).Up → (s.coolantStop.chan k).st = .frozen ∧ bits (s.coolantStop.chan k).freeze 2 1 = 1 := by
  let t := (s.onPort (fun p => { p with power := { p.power with coolant := true } })).pdFlag F.TH_MOD_STATUS_COOLANT_STOP F.TH_MOD_COUNT_COOLANT_STOP
  have he : s.coolantStop = t.freezeAll 2 := if_neg (by simp [h])
  rw [he]
  refine ⟨(t.freezeAll_quiet 2).cell, PortDie.of_core (·.power) (t.freezeAll_core 2), ?_, fun k h8 hu => State.freezeAll_up (s := t) h8 hu 2⟩
  rw [PortDie.of_core (·.fld F.TH_MOD_STATUS_COOLANT_STOP) (t.freezeAll_core 2)]
  exact PortDie.fld_flag_same _ _ _ (by decide) (by decide) (by decide) (.inl (by decide))

theorem State.coolantCheck_rest (s : State) : s.coolantCheck.cell = s.cell ∧ s.coolantCheck.pd.power.flowLoss = s.pd.power.flowLoss := by
  have hthaw (t : State) : (t.thawAll 2).pd.power.flowLoss = t.pd.power.flowLoss := PortDie.of_core (·.power.flowLoss) (t.thawAll_core 2)
  unfold State.coolantCheck
  split
  · exact ⟨State.thawAll_cell _ 2, hthaw _⟩
  · exact ⟨rfl, rfl⟩

theorem flowLoss_stops (hp : s.pd.powered = true) (hen : s.pd.fld F.TH_MOD_CFG_FLOW_EN = 1) (hc : s.pd.power.coolant = false) :
    ∃ u, exec .flowLoss s = .next u ∧ u.cell = s.cell ∧ u.pd.power.flowLoss = true ∧ u.pd.power.coolant = true ∧
      u.pd.fld F.TH_MOD_STATUS_COOLANT_STOP = 1 ∧
      ∀ k < 8, (s.chan k).st = .ready ∨ (s.chan k).st = .running → (u.chan k).st = .frozen ∧ bits (u.chan k).freeze 2 1 = 1 := by
  obtain ⟨hcell, hpower, hflag, hfrozen⟩ := State.coolantStop_stops (s := s.flowIs true) hc
  refine ⟨(s.flowIs true).coolantStop, ?_, hcell, by rw [hpower]; rfl, by rw [hpower], hflag, hfrozen⟩
  rw [exec_flowLoss, if_pos (by simp [hp, hen])]

theorem flowLoss_noted (h : s.pd.powered = false ∨ s.pd.fld F.TH_MOD_CFG_FLOW_EN ≠ 1 ∨ s.pd.power.coolant = true) :
    exec .flowLoss s = .next { s with pd := { s.pd with power := { s.pd.power with flowLoss := true } } } := by
  rw [exec_flowLoss]
  split
  · next huse =>
    simp only [Bool.and_eq_true, decide_eq_true_eq] at huse
    have hc : s.pd.power.coolant = true := (h.resolve_left (by simp [huse.1])).resolve_left (not_not_intro huse.2)
    exact congrArg Host.Outcome.next (if_pos hc)
  · rfl

theorem exec_coolantKeepExpiry (s : State) : exec .coolantKeepExpiry s =
    .next (if s.pd.power.coolant then s.shutdown .hwFault (unsigned 24 s.pd.power.hottest) else s) := rfl

end

/-- Settles O57. -/
theorem sensorsHeatAndCoolant : Obligations.SensorsHeatAndCoolant := by
  refine ⟨fun ch temps field hot pred t0 t1 f s => ⟨⟨s.onChan ch (fun c => c.tempSampled temps), s.onChan_actsOn ch _, ?_⟩, ?_, sensorSuspect_none pred,
      sensorSuspect_rules pred, ?_, fun hd => ⟨?_, ?_⟩, fun hup => ⟨⟨fun hw => ?_, fun th hw hth => ?_, fun hw hth => ?_⟩, fun hhot => ?_,
        fun hle hk => ?_, fun t hc ht => ?_⟩, fieldGate_none, fieldGate_stops⟩,
    fun s => ⟨flowLoss_stops, flowLoss_noted, ?_, fun hc => ?_, fun hc => ?_⟩⟩
  · exact ⟨fun ht hon => ⟨tempSample_shuts ht hon, State.thermalTrip_ends _⟩, tempSample_shut,
      fun ht hs => (tempSample_cool ht).trans (congrArg Host.Outcome.next (if_pos ((State.stops_iff _ _).2 hs))),
      fun ht hs => (tempSample_cool ht).trans (congrArg Host.Outcome.next (if_neg (mt (State.stops_iff _ _).1 hs)))⟩
  · exact ⟨fun hd => .of_chanStep rfl (if_neg (((s.chan ch).disagrees_not field hot).2 hd)),
      fun hd => .of_chanStep rfl (if_pos (not_not.1 (mt ((s.chan ch).disagrees_not field hot).1 hd)))⟩
  · refine ⟨fun h0 h1 => inletSample_some ?_, fun h0 h1 => inletSample_some ?_, fun h0 h1 => inletSample_some ?_,
      fun h0 h1 => ⟨_, inletSample_none ?_, rfl, PortDie.fld_setFld_same s.pd F.TH_MOD_STATUS_INLET_FAIL 1 (by decide), rfl, rfl⟩⟩
    · rw [goodInlets_eq, if_pos h0, if_pos h1]
      rfl
    · rw [goodInlets_eq, if_pos h0, if_neg h1]
      rfl
    · rw [goodInlets_eq, if_neg h0, if_pos h1]
      rfl
    · rw [goodInlets_eq, if_neg h0, if_neg h1]
      rfl
  · exact .of_chanStep (exec_thetaUpdate ch s) (if_pos hd)
  · exact .of_chanStep (exec_heatTrim ch s) (if_pos hd)
  · exact thetaUpdate_follows hup (if_neg (Nat.not_lt.2 hw))
  · exact thetaUpdate_follows hup ((if_pos hw).trans hth)
  · exact thetaUpdate_none hup ((if_pos hw).trans hth)
  · exact .of_chanStep (exec_heatTrim ch s) (Chan.trimmed_hot hup hhot)
  · exact .of_chanStep (exec_heatTrim ch s) (Chan.trimmed_warm hup hle hk)
  · exact .of_chanStep (exec_heatTrim ch s) (Chan.trimmed_cool hup hc ht)
  · obtain ⟨hcell, hflow⟩ := (s.flowIs false).coolantCheck_rest
    exact ⟨_, exec_flowLossDeassert s, hflow, hcell⟩
  · refine ⟨_, (exec_coolantKeepExpiry s).trans (congrArg Host.Outcome.next (if_pos hc)), ?_, s.shutdown_flag _ _, fun k h8 => s.shutdown_dark _ _ h8⟩
    rw [State.shutdown_power]
  · exact (exec_coolantKeepExpiry s).trans (congrArg Host.Outcome.next (if_neg (by simp [hc])))

end Sys2Proof.Machine
end

section
/-! PROOFS. Power-on, resets and collapse. -/

namespace Sys2Proof.Machine

/-! ## What the start of the port die leaves of its pins and its place in the sequence -/

/-- Whether the port die is powered, where in its sequence it stands, whether it is held in reset, and its straps. -/
def PortDie.pins (p : PortDie) : Bool × Nat × Bool × Nat := (p.powered, p.boot, p.resetPin, p.straps)

section
variable (s : State)

theorem PortDie.setFld_pins (p : PortDie) (f : Fld) (v : Nat) : (p.setFld f v).pins = p.pins := rfl

theorem PortDie.putReg_pins (p : PortDie) (a : Nat) (w : Word) : (p.putReg a w).pins = p.pins := rfl

theorem State.pdFlag_pins (f n : Fld) : (s.pdFlag f n).pd.pins = s.pd.pins := rfl

theorem State.flog_pins (st : Status) (src code : Nat) (ch : Option Nat) (arg : BitVec 64) : (s.flog st src code ch arg).pd.pins = s.pd.pins :=
  s.flog_port PortDie.pins st src code ch arg (fun _ _ => rfl)

theorem State.recap_pins : s.recap.pd.pins = s.pd.pins := s.recap_keeps PortDie.pins

theorem State.freezeAll_pins (bit : Nat) : (s.freezeAll bit).pd.pins = s.pd.pins := PortDie.of_core PortDie.pins (s.freezeAll_core bit)

/-- What an alarm raises: its flag and its entry. -/
def State.alarmed (k : Nat) : State :=
  (s.pdFlag (alarmFlag k) (alarmCount k)).flog (if s.response k = 2 then .locked else .hwFault) 10 0 none (argFld (alarmFlag k))

/-- An alarm of a module that is not LOCKED is raised, then answered as its class says (R429). -/
theorem State.alarm_eq (k : Nat) : s.alarm k = if s.pd.locked then s else if s.response k = 0 then s.alarmed k
    else if s.response k = 1 then (s.alarmed k).freezeAll 5 else (s.alarmed k).eraseKeys := rfl

theorem State.alarm_pins (k : Nat) : (s.alarm k).pd.pins = s.pd.pins := by
  have hraised : (s.alarmed k).pd.pins = s.pd.pins := (State.flog_pins _ _ _ _ _ _).trans (State.pdFlag_pins _ _ _)
  have herased (t : State) : t.eraseKeys.pd.pins = t.pd.pins := rfl
  rw [State.alarm_eq]
  split
  · rfl
  split
  · exact hraised
  split
  · exact (State.freezeAll_pins _ 5).trans hraised
  · exact (herased _).trans hraised

theorem State.checkCell_pins : s.checkCell.pd.pins = s.pd.pins := by
  have hbound : (if s.boundOk then s else (s.pdFlag F.MET_STATUS_UNBOUND F.MET_COUNT_UNBOUND).alarm 4).pd.pins = s.pd.pins := by
    split
    · rfl
    · exact (State.alarm_pins _ 4).trans (State.pdFlag_pins _ _ _)
  unfold State.checkCell
  dsimp only
  split
  · exact hbound
  · exact (State.alarm_pins _ 4).trans hbound

theorem PortDie.readFlash_pins (p : PortDie) : p.readFlash.pins = p.pins := by
  have hnet (l : List (Nat × Word)) (p : PortDie) : (l.foldl (fun p x => p.putReg x.1 x.2) p).pins = p.pins := by
    induction l generalizing p with
    | nil => rfl
    | cons x t ih => exact ih _
  exact (hnet _ _).trans rfl

/-- The firmware has read flash: the sequence stands at its third place. -/
def State.firmwareUp : State := s.onPort (fun p => { p.readFlash with boot := 3 })

theorem State.firmwareUp_pins : s.firmwareUp.pd.pins = (s.pd.powered, 3, s.pd.resetPin, s.pd.straps) := by
  have h := s.pd.readFlash_pins
  unfold State.firmwareUp PortDie.pins at *
  simp only [Prod.mk.injEq] at h
  obtain ⟨hpowered, -, hreset, hstraps⟩ := h
  rw [State.onPort_pd, hpowered, hreset, hstraps]

/-- An image that verifies runs. -/
def State.runs (k : Nat) (h : Bytes) (fb : Bool) : State :=
  (((s.onPort (fun p => p.runImage k h fb)).firmwareUp).onPort (fun p => { p with power := { p.power with pwrOk := true } })).checkCell

theorem State.runs_pins (k : Nat) (h : Bytes) (fb : Bool) : (s.runs k h fb).pd.pins = (s.pd.powered, 3, s.pd.resetPin, s.pd.straps) := by
  refine (State.checkCell_pins _).trans ?_
  exact (s.onPort (fun p => p.runImage k h fb)).firmwareUp_pins

/-- The port die with no image. -/
def State.recovers : State := ((s.onPort (fun p => p.setFld F.PD_FW_RECOVERY 1)).firmwareUp).alarm 3

theorem State.romBoot_eq : s.romBoot = if s.pd.locked then s.firmwareUp else
    match s.pd.romImage (s.pd.flash.active % 2), s.pd.romImage (1 - s.pd.flash.active % 2) with
    | some h, _ => s.runs (s.pd.flash.active % 2) h false
    | none, some h => s.runs (1 - s.pd.flash.active % 2) h true
    | none, none => s.recovers := rfl

/-- From the reference on, the firmware comes up (R394). -/
theorem State.romBoot_pins : s.romBoot.pd.pins = (s.pd.powered, 3, s.pd.resetPin, s.pd.straps) := by
  rw [State.romBoot_eq]
  split
  · exact s.firmwareUp_pins
  split
  · exact s.runs_pins _ _ _
  · exact s.runs_pins _ _ _
  · exact (State.alarm_pins _ 3).trans (State.firmwareUp_pins _)

theorem State.takeCell_pins : s.takeCell.pd.pins = s.pd.pins := by
  have hfold (l : List Nat) (p : PortDie) : (l.foldl (fun (p : PortDie) i =>
      (p.putReg (R.MET_E_LO + 8 * i) (BitVec.ofNat 32 (s.cell.counts.getD i 0))).putReg (R.MET_E_LO + 8 * i + 4)
        (BitVec.ofNat 32 (s.cell.counts.getD i 0 / 2 ^ 32))) p).pins = p.pins := by
    induction l generalizing p with
    | nil => rfl
    | cons i t ih =>
      refine (ih _).trans ?_
      rw [PortDie.putReg_pins, PortDie.putReg_pins]
  unfold State.takeCell
  rw [State.onPort_pd]
  dsimp only
  rw [PortDie.setFld_pins, PortDie.setFld_pins]
  exact hfold (List.range 9) s.pd

/-- The 4 ms row: straps are read, and the sequence waits for the reference or goes on (R394). -/
theorem State.resetReleased_pins (a b : Option Bytes) (straps : BitVec 3) (ref : Bool) :
    (s.resetReleased a b straps ref).pd.pins = (s.pd.powered, if ref then 3 else 1, s.pd.resetPin, straps.toNat) := by
  let s1 := (s.onPort (fun p => { p with straps := straps.toNat, boot := 1, found := [a, b] })).takeCell
  have h1 : s1.pd.pins = (s.pd.powered, 1, s.pd.resetPin, straps.toNat) := State.takeCell_pins _
  show (if ref then s1.romBoot else s1.flog .hwFault 10 1 none argNone).pd.pins = _
  simp only [PortDie.pins, Prod.mk.injEq] at h1
  obtain ⟨hpowered, hboot, hreset, hstraps⟩ := h1
  cases ref with
  | true => rw [if_pos rfl, if_pos rfl, State.romBoot_pins, hpowered, hreset, hstraps]
  | false =>
    rw [if_neg Bool.false_ne_true, if_neg Bool.false_ne_true, State.flog_pins, PortDie.pins, hpowered, hboot, hreset, hstraps]

/-! ## Power-on (R394, R433) -/

/-- The port die and the cell as the input rises through 46 V. -/
def State.risen : State :=
  let s1 := s.onPort (fun p =>
    let f := p.fresh
    let v := max f.power.vin 46000
    { f with
      powered := true, resetPin := false
      power := { f.power with vin := v, okSince := if v ≤ 58000 then some (f.power.okSince.getD f.clock) else none } })
  let s2 := s1.cellStarts
  if s.cell.torn then s2.pdFlag F.MET_STATUS_GAP F.MET_COUNT_GAP else s2

theorem State.risen_rest : s.risen.pd.powered = true ∧ s.risen.cell.counts = s.cell.nv ∧ s.risen.cell.link = true := by
  unfold State.risen
  dsimp only
  split <;> exact ⟨rfl, rfl, rfl⟩

theorem exec_powerOn (a b : Option Bytes) (straps : BitVec 3) (ref : Bool) : exec (.powerOn a b straps ref) s =
    .next (if s.pd.powered then s else (s.risen.resetReleased a b straps ref).recap) := rfl

theorem powerOn_boots {s : State} (h : s.pd.powered = false) (a b : Option Bytes) (straps : BitVec 3) (ref : Bool) :
    ∃ u, exec (.powerOn a b straps ref) s = .next u ∧ u.pd.powered = true ∧ u.pd.boot = (if ref then 3 else 1) ∧
      u.pd.straps = straps.toNat ∧ u.cell.counts = s.cell.nv ∧ u.cell.link = true := by
  obtain ⟨hpowered, hcounts, hlink⟩ := s.risen_rest
  have hpins := (State.recap_pins _).trans (s.risen.resetReleased_pins a b straps ref)
  have hcell := (State.recap_quiet _).cell.trans (s.risen.resetReleased_quiet a b straps ref).cell
  simp only [PortDie.pins, Prod.mk.injEq] at hpins
  obtain ⟨hp, hb, -, hst⟩ := hpins
  refine ⟨(s.risen.resetReleased a b straps ref).recap, ?_, hp.trans hpowered, hb, hst, by rw [hcell, hcounts], by rw [hcell, hlink]⟩
  rw [exec_powerOn, if_neg (by simp [h])]

theorem exec_modResetDeassert (a b : Option Bytes) (straps : BitVec 3) (ref : Bool) : exec (.modResetDeassert a b straps ref) s =
    .next (if !s.pd.powered || !s.pd.resetPin then s else ((s.onPort (fun p => { p with resetPin := false })).resetReleased a b straps ref).recap) := rfl

theorem modResetDeassert_resumes {s : State} (hp : s.pd.powered = true) (hr : s.pd.resetPin = true) (a b : Option Bytes) (straps : BitVec 3)
    (ref : Bool) : ∃ u, exec (.modResetDeassert a b straps ref) s = .next u ∧ u.pd.resetPin = false ∧ u.pd.boot = if ref then 3 else 1 := by
  have hpins := (State.recap_pins _).trans ((s.onPort (fun p => { p with resetPin := false })).resetReleased_pins a b straps ref)
  simp only [PortDie.pins, Prod.mk.injEq] at hpins
  obtain ⟨-, hb, hreset, -⟩ := hpins
  refine ⟨_, (exec_modResetDeassert s a b straps ref).trans (congrArg Host.Outcome.next (if_neg (by simp [hp, hr]))), hreset, hb⟩

theorem exec_refArrival : exec .refArrival s = .next (if s.pd.powered && decide (s.pd.boot = 1) && !s.pd.resetPin then s.romBoot else s) := rfl

theorem exec_commandPortTrained : exec .commandPortTrained s =
    .next (if decide (s.pd.boot = 3) && s.pd.running then s.onPort (fun p => { p with boot := 4 }) else s) := rfl

/-! ## Reset, overvoltage and collapse (R449, R453, R454) -/

theorem exec_moduleReset : exec .moduleReset s = .next (if !s.pd.powered then s
    else { s.powerLost with pd := { s.pd.fresh with powered := true, resetPin := true } }) := rfl

theorem exec_overvoltage : exec .overvoltage s = .next (if !s.pd.powered then s
    else ((s.allOff.onPort (fun p => { (p.setFld F.TH_MOD_STATUS_SHUTDOWN 1) with
      power := { p.power with regOff := true, coolant := false, ovHold := true, okSince := none } })).flog .hwFault 10 2 none argNone).recap) := rfl

theorem exec_inputCollapse : exec .inputCollapse s = .next (if !s.pd.powered then s
    else (s.allOff.onPort (fun p => { p with power := { p.power with regOff := true, coolant := false, okSince := none } })).recap) := rfl

/-- With every channel off, whatever the port die then does leaves the channels dark and the cell as it was. -/
theorem State.allOff_onPort (f : PortDie → PortDie) : (s.allOff.onPort f).cell = s.cell ∧ ∀ k < 8, ((s.allOff.onPort f).chan k).Dark := by
  have hdark (k : Nat) (h8 : k < 8) := s.allOff_dark h8
  have hcell := s.allOff_quiet.cell
  generalize s.allOff = a at hdark hcell
  exact ⟨hcell, hdark⟩

theorem overvoltage_shuts {s : State} (h : s.pd.powered = true) : ∃ u, exec .overvoltage s = .next u ∧ u.pd.power.regOff = true ∧
    u.pd.power.ovHold = true ∧ u.cell = s.cell ∧ ∀ k < 8, (u.chan k).st = .off ∨ (u.chan k).st = .locked := by
  refine ⟨_, (exec_overvoltage s).trans (congrArg Host.Outcome.next (if_neg (by simp [h]))), ?_⟩
  generalize hf : (fun p : PortDie => _) = f
  have hpower (p : PortDie) : (f p).power.regOff = true ∧ (f p).power.ovHold = true := by rw [← hf]; exact ⟨rfl, rfl⟩
  obtain ⟨hcell, hdark⟩ := s.allOff_onPort f
  refine ⟨?_, ?_, ?_, fun k h8 => State.recap_dark h8 ?_⟩
  · rw [State.recap_power, State.flog_power]
    exact (hpower _).1
  · rw [State.recap_power, State.flog_power]
    exact (hpower _).2
  · rw [(State.recap_quiet _).cell, (State.flog_only _ _ _ _ _ _).cell, hcell]
  · rw [State.flog_chan]
    exact hdark k h8

theorem inputCollapse_shuts {s : State} (h : s.pd.powered = true) : ∃ u, exec .inputCollapse s = .next u ∧ u.pd.power.regOff = true ∧
    u.cell = s.cell ∧ ∀ k < 8, (u.chan k).st = .off ∨ (u.chan k).st = .locked := by
  refine ⟨_, (exec_inputCollapse s).trans (congrArg Host.Outcome.next (if_neg (by simp [h]))), ?_⟩
  generalize hf : (fun p : PortDie => _) = f
  have hpower (p : PortDie) : (f p).power.regOff = true := by rw [← hf]
  obtain ⟨hcell, hdark⟩ := s.allOff_onPort f
  refine ⟨?_, ?_, fun k h8 => State.recap_dark h8 (hdark k h8)⟩
  · rw [State.recap_power]
    exact hpower _
  · rw [(State.recap_quiet _).cell, hcell]

theorem moduleReset_holds {s : State} (h : s.pd.powered = true) : ∃ u, exec .moduleReset s = .next u ∧ u.pd.resetPin = true ∧
    u.pd.sessions = [] ∧ u.cell = s.cell ∧ ∀ k, (u.chan k).st = .off ∨ (u.chan k).st = .locked :=
  ⟨_, (exec_moduleReset s).trans (congrArg Host.Outcome.next (if_neg (by simp [h]))), rfl, rfl, rfl, s.powerLost_dark⟩

end

/-- Settles O58. -/
theorem powerOnResetsAndCollapse : Obligations.PowerOnResetsAndCollapse := by
  refine fun a b straps ref s => ⟨fun hp => ⟨powerOn_boots hp a b straps false, ?_, ?_, ?_, ?_⟩, fun hp => ?_, fun hp hb hr => ?_, fun hno => ?_,
    fun hrun hb => ?_, fun hno => ?_, fun hno => ?_, fun hp => ⟨moduleReset_holds hp, overvoltage_shuts hp, inputCollapse_shuts hp, fun hr =>
      ⟨modResetDeassert_resumes hp hr a b straps true, modResetDeassert_resumes hp hr a b straps false⟩⟩⟩
  · obtain ⟨u, hu, hpowered, hboot, -, hcounts, -⟩ := powerOn_boots hp a b straps true
    exact ⟨u, hu, hpowered, hboot, hcounts⟩
  · rw [exec_moduleReset, hp]
    rfl
  · rw [exec_overvoltage, hp]
    rfl
  · rw [exec_inputCollapse, hp]
    rfl
  · rw [exec_powerOn, if_pos hp]
  · refine ⟨s.romBoot, ?_, ?_⟩
    · rw [exec_refArrival, if_pos (by simp [hp, hb, hr])]
    · exact congrArg (fun x : Bool × Nat × Bool × Nat => x.2.1) s.romBoot_pins
  · rw [exec_refArrival, if_neg]
    rintro hgo
    simp only [Bool.and_eq_true, decide_eq_true_eq, Bool.not_eq_true'] at hgo
    obtain ⟨⟨hp, hb⟩, hr⟩ := hgo
    simp [hp, hb, hr] at hno
  · rw [exec_commandPortTrained, if_pos (by simp [hrun, hb])]
    rfl
  · rw [exec_commandPortTrained, if_neg]
    rintro hgo
    simp only [Bool.and_eq_true, decide_eq_true_eq] at hgo
    simp [hgo.1, hgo.2] at hno
  · rw [exec_modResetDeassert, if_pos (by simpa using hno)]

end Sys2Proof.Machine
end

section
/-! PROOFS. Alarms, key erasure, the heartwood cell's reports, and the energy accounts. -/

namespace Sys2Proof.Machine

/-! ## Alarms (R428-R430) -/

section
variable {s : State} {k : Nat}

/-- A figure of the port die that an alarm's entry does not touch stays but for the alarm's own flag and count. -/
theorem State.alarmed_fld {g : Fld} (h : F.PD_FLOG_SEQ_NEXT.Apart g) :
    (s.alarmed k).pd.fld g = (s.pd.flag (alarmFlag k) (alarmCount k)).fld g := State.flog_fld _ _ _ _ _ _ h

theorem alarmCount_off (k : Nat) : R.SEC_STATUS ≠ (alarmCount k).off := by
  unfold alarmCount
  split
  · decide
  · exact (show R.SEC_STATUS ≠ R.SEC_ALARM_COUNT by decide)

theorem alarmCount_width {k : Nat} (h : k < 5) : (alarmCount k).lo + (alarmCount k).width ≤ 32 := by
  interval_cases k <;> decide

theorem State.alarmed_flag (h : k < 5) : (s.alarmed k).pd.fld (alarmFlag k) = 1 := by
  rw [State.alarmed_fld (.inl (show R.SEC_STATUS ≠ F.PD_FLOG_SEQ_NEXT.off by decide))]
  exact PortDie.fld_flag_same _ _ _ (show k + 1 ≤ 32 by omega) (alarmCount_width h) (show 1 < 2 ^ 1 by decide) (.inl (alarmCount_off k))

/-- A field of another register stays as an alarm is raised. -/
theorem State.alarmed_other (h : k < 5) {g : Fld} (hs : g.off ≠ R.SEC_STATUS) (hc : g.off ≠ (alarmCount k).off)
    (hl : g.off ≠ F.PD_FLOG_SEQ_NEXT.off) : (s.alarmed k).pd.fld g = s.pd.fld g := by
  rw [State.alarmed_fld (.inl hl)]
  exact (PortDie.fld_count_ne _ _ _ (alarmCount_width h) (.inl hc)).trans (PortDie.fld_setFld_ne _ _ _ _ (show k + 1 ≤ 32 by omega) (.inl hs))

theorem State.alarmed_keeps : (s.alarmed k).pd.locked = s.pd.locked ∧ (s.alarmed k).pd.meshOpen = s.pd.meshOpen ∧
    (s.alarmed k).chans = s.chans := by
  refine ⟨?_, ?_, (State.flog_only _ _ _ _ _ _).chans⟩
  · exact State.flog_port (·.locked) _ _ _ _ _ _ (fun _ _ => rfl)
  · exact State.flog_port (·.meshOpen) _ _ _ _ _ _ (fun _ _ => rfl)

/-- An alarm that is logged, or freezes, raises its flag; it does not lock the module. -/
theorem State.alarm_light (hl : s.pd.locked = false) (hr : s.response k ≤ 1) : (s.alarm k).pd.core = (s.alarmed k).pd.core := by
  rw [State.alarm_eq, if_neg (by simp [hl])]
  split
  · rfl
  · rw [if_pos (by omega)]
    exact State.freezeAll_core _ 5

theorem State.alarm_flag (hl : s.pd.locked = false) (h : k < 5) (hr : s.response k ≤ 1) : (s.alarm k).pd.fld (alarmFlag k) = 1 := by
  rw [PortDie.of_core (·.fld (alarmFlag k)) (State.alarm_light hl hr)]
  exact State.alarmed_flag h

theorem State.alarm_other (hl : s.pd.locked = false) (h : k < 5) (hr : s.response k ≤ 1) {g : Fld} (hs : g.off ≠ R.SEC_STATUS)
    (hc : g.off ≠ (alarmCount k).off) (hg : g.off ≠ F.PD_FLOG_SEQ_NEXT.off) : (s.alarm k).pd.fld g = s.pd.fld g := by
  rw [PortDie.of_core (·.fld g) (State.alarm_light hl hr)]
  exact State.alarmed_other h hs hc hg

/-- Under LOG an alarm leaves the channels. -/
theorem State.alarm_logs (hl : s.pd.locked = false) (hr : s.response k = 0) : (s.alarm k).chans = s.chans := by
  rw [State.alarm_eq, if_neg (by simp [hl]), if_pos hr]
  exact State.alarmed_keeps.2.2

/-- Under FREEZE an alarm freezes every channel that is up. -/
theorem State.alarm_freezes (hl : s.pd.locked = false) (hr : s.response k = 1) {j : Nat} (h8 : j < 8) (hu : (s.chan j).Up) :
    ((s.alarm k).chan j).st = .frozen ∧ bits ((s.alarm k).chan j).freeze 5 1 = 1 := by
  have hsame : (s.alarmed k).chan j = s.chan j := by rw [State.chan, State.chan, State.alarmed_keeps.2.2]
  rw [State.alarm_eq, if_neg (by simp [hl]), if_neg (by omega), if_pos hr]
  exact State.freezeAll_up h8 (by rw [hsame]; exact hu) 5

theorem State.eraseKeys_locks (t : State) : t.eraseKeys.pd.locked = true ∧ t.eraseKeys.pd.sessions = [] ∧ t.eraseKeys.pd.keys = [] ∧
    ∀ p ∈ t.eraseKeys.chans, p.2.st = .locked := by
  refine ⟨rfl, rfl, rfl, fun p hp => ?_⟩
  obtain ⟨x, -, rfl⟩ := List.mem_map.1 hp
  rfl

/-- Under ERASE_KEYS an alarm locks the module: no session, key or powered channel is left. -/
theorem State.alarm_erases (hl : s.pd.locked = false) (hr : 2 ≤ s.response k) : (s.alarm k).pd.locked = true ∧ (s.alarm k).pd.sessions = [] ∧
    (s.alarm k).pd.keys = [] ∧ ∀ p ∈ (s.alarm k).chans, p.2.st = .locked := by
  rw [State.alarm_eq, if_neg (by simp [hl]), if_neg (by omega), if_neg (by omega)]
  exact State.eraseKeys_locks _

/-! ## The mesh, glitches and the seal (R428, R436) -/

/-- The module with a mesh condition that lasts. -/
def State.meshOpened (s : State) : State := s.onPort (fun p => { p with meshOpen := true })

theorem exec_meshAlarm (s : State) : exec .meshAlarm s = .next (if !s.pd.armed || s.pd.meshOpen then s else s.meshOpened.alarm 0) := rfl

theorem exec_glitch (s : State) : exec .glitch s = .next (if s.pd.armed then s.alarm 2 else s) := rfl

theorem meshAlarm_raises (ha : s.pd.armed = true) (hm : s.pd.meshOpen = false) : exec .meshAlarm s = .next (s.meshOpened.alarm 0) := by
  rw [exec_meshAlarm, if_neg (by simp [ha, hm])]

theorem meshAlarm_light (ha : s.pd.armed = true) (hl : s.pd.locked = false) (hm : s.pd.meshOpen = false) (hr : s.response 0 ≤ 1) :
    ∃ u, exec .meshAlarm s = .next u ∧ u.pd.fld (alarmFlag 0) = 1 ∧ u.pd.meshOpen = true ∧ u.pd.locked = false ∧ u.cell = s.cell := by
  have hl' : s.meshOpened.pd.locked = false := hl
  have hcore := State.alarm_light hl' hr
  obtain ⟨hlocked, hopen, -⟩ := State.alarmed_keeps (s := s.meshOpened) (k := 0)
  refine ⟨s.meshOpened.alarm 0, meshAlarm_raises ha hm, State.alarm_flag hl' (by omega) hr, ?_, ?_, (s.meshOpened.alarm_quiet 0).cell⟩
  · exact (PortDie.of_core (·.meshOpen) hcore).trans hopen
  · exact (PortDie.of_core (·.locked) hcore).trans (hlocked.trans hl)

/-- The module once its cell has counted a breach. -/
def State.breachCounted (s : State) : State := { s with cell := s.cell.breached }

/-- The port die with a breach noted, before its alarm. -/
def State.breachNoted (s : State) : State :=
  (s.pdFlag F.MET_STATUS_BREACH F.MET_COUNT_BREACH).onPort (fun p => p.setFld F.MET_BREACHES_BREACHES (s.cell.breachN % 65536))

theorem State.breachHeard_eq (s : State) : s.breachHeard = s.breachNoted.alarm 1 := rfl

theorem exec_sealBreach (s : State) : exec .sealBreach s =
    .next (if s.cell.link && s.pd.armed then s.breachCounted.breachHeard else s.breachCounted) := rfl

theorem State.breachNoted_fld (s : State) {g : Fld} (hb : g.off ≠ F.MET_BREACHES_BREACHES.off) :
    s.breachNoted.pd.fld g = (s.pd.flag F.MET_STATUS_BREACH F.MET_COUNT_BREACH).fld g :=
  PortDie.fld_setFld_ne _ F.MET_BREACHES_BREACHES _ _ (by decide) (.inl hb)

theorem State.breachNoted_response (s : State) : s.breachNoted.response 1 = s.response 1 := by
  unfold State.response
  rw [s.breachNoted_fld (by decide)]
  exact (PortDie.fld_count_ne _ F.MET_COUNT_BREACH _ (by decide) (.inl (by decide))).trans
    (PortDie.fld_setFld_ne _ F.MET_STATUS_BREACH _ _ (by decide) (.inl (by decide)))

/-- A breach that the port die hears of is flagged, unless the alarm erases. -/
theorem State.breachHeard_flag (hl : s.pd.locked = false) (hr : s.response 1 ≤ 1) : s.breachHeard.pd.fld F.MET_STATUS_BREACH = 1 := by
  have hl' : s.breachNoted.pd.locked = false := hl
  rw [State.breachHeard_eq, State.alarm_other hl' (by omega) (by rw [State.breachNoted_response]; exact hr) (by decide) (by decide) (by decide),
    s.breachNoted_fld (by decide)]
  exact PortDie.fld_flag_same _ _ _ (by decide) (by decide) (by decide) (.inl (by decide))

theorem sealBreach_counts (s : State) : ∃ u, exec .sealBreach s = .next u ∧ u.cell.broken = true ∧ u.cell.breachN = s.cell.breachN + 1 ∧
    u.cell.breaches.length ≤ 64 ∧ u.cell.counts = s.cell.counts ∧
    (s.cell.link = false ∨ s.pd.armed = false → u.pd = s.pd ∧ u.chans = s.chans) ∧
    (s.cell.link = true → s.pd.armed = true → s.pd.locked = false → s.response 1 ≤ 1 → u.pd.fld F.MET_STATUS_BREACH = 1) := by
  have hnewest : s.cell.breached.breaches.length ≤ 64 := newest_length_le 64 _
  by_cases h : (s.cell.link && s.pd.armed) = true
  · refine ⟨s.breachCounted.breachHeard, by rw [exec_sealBreach, if_pos h], ?_⟩
    rw [s.breachCounted.breachHeard_quiet.cell]
    simp only [Bool.and_eq_true] at h
    exact ⟨rfl, rfl, hnewest, rfl, fun hno => by simp [h.1, h.2] at hno, fun _ _ hl hr => State.breachHeard_flag (s := s.breachCounted) hl hr⟩
  · refine ⟨s.breachCounted, by rw [exec_sealBreach, if_neg h], rfl, rfl, hnewest, rfl, fun _ => ⟨rfl, rfl⟩, fun hlink ha => ?_⟩
    exact absurd (by rw [hlink, ha]; rfl) h

/-! ## The cell's figures in the port die's registers (R440) -/

/-- The port die with one of the cell's counts in its registers. -/
def PortDie.takesCount (p : PortDie) (i v : Nat) : PortDie :=
  (p.putReg (R.MET_E_LO + 8 * i) (BitVec.ofNat 32 v)).putReg (R.MET_E_LO + 8 * i + 4) (BitVec.ofNat 32 (v / 2 ^ 32))

theorem Bank.get64_put_pair (b : Bank) (o v : Nat) :
    ((b.put pdRegs o (BitVec.ofNat 32 v)).put pdRegs (o + 4) (BitVec.ofNat 32 (v / 2 ^ 32))).get64 pdRegs o = v % 2 ^ 64 := by
  unfold Bank.get64
  rw [Bank.get_put, Bank.get_put, Bank.get_put, if_neg (by omega), if_pos rfl, if_pos rfl, BitVec.toNat_ofNat, BitVec.toNat_ofNat]
  omega

theorem Bank.get64_put_ne (b : Bank) {o x : Nat} (w : Word) (hlo : x ≠ o) (hhi : x ≠ o + 4) : (b.put pdRegs x w).get64 pdRegs o = b.get64 pdRegs o := by
  unfold Bank.get64
  rw [Bank.get_put, Bank.get_put, if_neg (Ne.symm hlo), if_neg (Ne.symm hhi)]

theorem PortDie.takesCount_same (p : PortDie) (i v : Nat) : (p.takesCount i v).bank.get64 pdRegs (R.MET_E_LO + 8 * i) = v % 2 ^ 64 :=
  Bank.get64_put_pair p.bank _ v

theorem PortDie.takesCount_other (p : PortDie) {i j : Nat} (v : Nat) (h : j ≠ i) :
    (p.takesCount i v).bank.get64 pdRegs (R.MET_E_LO + 8 * j) = p.bank.get64 pdRegs (R.MET_E_LO + 8 * j) :=
  (Bank.get64_put_ne _ _ (by omega) (by omega)).trans (Bank.get64_put_ne _ _ (by omega) (by omega))

/-- Counts taken one after the other each stand in their own registers. -/
theorem PortDie.takesCounts (counts : List Nat) (l : List Nat) (hn : l.Nodup) {k : Nat} (hk : k ∈ l) (p : PortDie) :
    (l.foldl (fun p i => p.takesCount i (counts.getD i 0)) p).bank.get64 pdRegs (R.MET_E_LO + 8 * k) = counts.getD k 0 % 2 ^ 64 := by
  have hother (l : List Nat) (hk : k ∉ l) (p : PortDie) : (l.foldl (fun p i => p.takesCount i (counts.getD i 0)) p).bank.get64 pdRegs
      (R.MET_E_LO + 8 * k) = p.bank.get64 pdRegs (R.MET_E_LO + 8 * k) := by
    induction l generalizing p with
    | nil => rfl
    | cons i t ih =>
      obtain ⟨hi, ht⟩ := not_or.1 (mt List.mem_cons.2 hk)
      exact (ih ht _).trans (p.takesCount_other _ hi)
  induction l generalizing p with
  | nil => exact absurd hk List.not_mem_nil
  | cons i t ih =>
    obtain ⟨hi, ht⟩ := List.nodup_cons.1 hn
    by_cases hki : k = i
    · subst hki
      exact (hother t hi _).trans (p.takesCount_same k _)
    · exact ih ht ((List.mem_cons.1 hk).resolve_left hki) _

theorem State.takeCell_counts (s : State) {k : Nat} (h9 : k < 9) :
    s.takeCell.pd.bank.get64 pdRegs (R.MET_E_LO + 8 * k) = s.cell.counts.getD k 0 % 2 ^ 64 := by
  have hset (p : PortDie) (f : Fld) (v : Nat) (hf : f.off < R.MET_E_LO) :
      (p.setFld f v).bank.get64 pdRegs (R.MET_E_LO + 8 * k) = p.bank.get64 pdRegs (R.MET_E_LO + 8 * k) :=
    Bank.get64_put_ne _ _ (by omega) (by omega)
  unfold State.takeCell
  rw [State.onPort_pd]
  dsimp only
  rw [hset _ _ _ (by decide), hset _ _ _ (by decide)]
  exact PortDie.takesCounts s.cell.counts (List.range 9) List.nodup_range (List.mem_range.2 h9) s.pd

theorem exec_cellReport (s : State) : exec .cellReport s = .next (if !s.pd.armed then s
    else (if s.pd.fld F.MET_BREACHES_BREACHES ≠ s.cell.breachN % 65536 then ({ s with cell := { s.cell with link := true } } : State).breachHeard
      else { s with cell := { s.cell with link := true } }).takeCell) := rfl

theorem exec_cellLinkTimeout (s : State) : exec .cellLinkTimeout s = .next (if !s.pd.armed || !s.cell.link then s
    else ({ s with cell := { s.cell with link := false } } : State).pdFlag F.MET_STATUS_LINK_ERR F.MET_COUNT_LINK_ERR) := rfl

theorem exec_cellEnergySample (mwh : List Nat) (s : State) : exec (.cellEnergySample mwh) s =
    .next { s with cell := if s.cell.nv.getD 0 0 + 1000 ≤ (s.cell.sampled mwh).getD 0 0 then
        { s.cell with counts := s.cell.sampled mwh, nv := s.cell.sampled mwh, torn := false }
      else { s.cell with counts := s.cell.sampled mwh } } := rfl

/-- A report of a cell of which every breach has been heard brings its figures. -/
theorem cellReport_brings (ha : s.pd.armed = true) (hb : s.pd.fld F.MET_BREACHES_BREACHES = s.cell.breachN % 65536) :
    ∃ u, exec .cellReport s = .next u ∧ u.cell = { s.cell with link := true } ∧ u.chans = s.chans ∧
      ∀ k < 9, u.pd.bank.get64 pdRegs (R.MET_E_LO + 8 * k) = s.cell.counts.getD k 0 % 2 ^ 64 := by
  refine ⟨({ s with cell := { s.cell with link := true } } : State).takeCell, ?_, rfl, rfl, fun k h9 => State.takeCell_counts _ h9⟩
  rw [exec_cellReport, if_neg (by simp [ha]), if_neg (not_not_intro hb)]

end

/-! ## The energy accounts (R438) -/

/-- What an account has counted. -/
def Apport.total (a : Apport) : Nat := a.unassigned + a.carry + (groveNums.map (fun g => mapGet (fun _ => 0) a.groves g)).sum

theorem Apport.total_last (a : Apport) (n : Nat) : ({ a with last := n } : Apport).total = a.total := rfl

/-- A grove's part of an interval's energy `e1`, of which `hp` is hold energy. -/
def groveEnergy (e1 hp n sum : Nat) (x : Nat × Nat) : Nat := hp / n + if sum = 0 then 0 else (e1 - hp) * x.2 / sum

theorem sum_div_le_div_sum (l : List (Nat × Nat)) (m sum : Nat) : (l.map (fun x => m * x.2 / sum)).sum ≤ m * (l.map Prod.snd).sum / sum := by
  induction l with
  | nil => simp
  | cons x t ih =>
    simp only [List.map_cons, List.sum_cons, Nat.mul_add]
    exact (Nat.add_le_add_left ih _).trans Nat.div_add_div_le_add_div

/-- The parts together are at most the interval's energy. -/
theorem groveEnergy_sum_le {e1 hp : Nat} (l : List (Nat × Nat)) (hle : hp ≤ e1) :
    (l.map (groveEnergy e1 hp l.length (l.map Prod.snd).sum)).sum ≤ e1 := by
  have hhold : (l.map (fun _ => hp / l.length)).sum ≤ hp := by
    rw [List.map_const', List.sum_replicate, smul_eq_mul]
    exact Nat.mul_div_le hp _
  unfold groveEnergy
  rw [List.sum_map_add]
  by_cases hsum : (l.map Prod.snd).sum = 0
  · simp only [if_pos hsum, List.map_const', List.sum_replicate, smul_zero, Nat.add_zero] at hhold ⊢
    exact hhold.trans hle
  · simp only [if_neg hsum]
    have hrest := (sum_div_le_div_sum l (e1 - hp) (l.map Prod.snd).sum).trans_eq (Nat.mul_div_cancel _ (Nat.pos_of_ne_zero hsum))
    omega

/-- Groves that gain their parts one after the other. -/
theorem mapGet_gains (part : Nat × Nat → Nat) (l : List (Nat × Nat)) (hn : (l.map Prod.fst).Nodup) (m : NMap Nat) (g : Nat) :
    mapGet (fun _ => 0) (l.foldl (fun m x => mapSet (fun _ => 0) m x.1 (mapGet (fun _ => 0) m x.1 + part x)) m) g =
      mapGet (fun _ => 0) m g + ((l.filter (fun x => x.1 = g)).map part).sum := by
  induction l generalizing m with
  | nil => rfl
  | cons x t ih =>
    rw [List.foldl_cons, ih (List.nodup_cons.1 hn).2, mapGet_mapSet, List.filter_cons]
    by_cases hg : g = x.1
    · subst hg
      simp [Nat.add_assoc]
    · simp [hg, Ne.symm hg]

theorem foldl_add_eq_sum {α : Type} (f : α → Nat) (l : List α) (n : Nat) : l.foldl (fun t x => t + f x) n = n + (l.map f).sum := by
  induction l generalizing n with
  | nil => rfl
  | cons x t ih => rw [List.foldl_cons, ih, List.map_cons, List.sum_cons, Nat.add_assoc]

/-- The parts of the groves, taken grove by grove, are all of them. -/
theorem sum_by_grove (part : Nat × Nat → Nat) (l : List (Nat × Nat)) (h : ∀ x ∈ l, x.1 < 16) :
    (groveNums.map (fun g => ((l.filter (fun x => x.1 = g)).map part).sum)).sum = (l.map part).sum := by
  induction l with
  | nil => rfl
  | cons x t ih =>
    have hsplit (g : Nat) : (((x :: t).filter (fun x => x.1 = g)).map part).sum =
        (if x.1 = g then part x else 0) + ((t.filter (fun x => x.1 = g)).map part).sum := by
      rw [List.filter_cons]
      by_cases hg : x.1 = g <;> simp [hg]
    have hone : (groveNums.map (fun g => if x.1 = g then part x else 0)).sum = part x :=
      (Finset.sum_ite_eq (Finset.range 16) x.1 (fun _ => part x)).trans (if_pos (Finset.mem_range.2 (h x List.mem_cons_self)))
    simp only [hsplit, List.sum_map_add, hone, ih (fun y hy => h y (List.mem_cons_of_mem _ hy)), List.map_cons, List.sum_cons]

/-- The hold energy of an interval (R438). -/
def holdEnergy (e1 hold ms sum : Nat) : Nat := if sum = 0 then e1 else min e1 (hold * ms / 3600)

theorem Apport.interval_eq (a : Apport) (e hold ms : Nat) (cyc : List (Nat × Nat)) (h : cyc ≠ []) :
    let part := groveEnergy (e + a.carry) (holdEnergy (e + a.carry) hold ms (cyc.map Prod.snd).sum) cyc.length (cyc.map Prod.snd).sum
    a.interval e hold ms cyc = { a with
      groves := cyc.foldl (fun m x => mapSet (fun _ => 0) m x.1 (mapGet (fun _ => 0) m x.1 + part x)) a.groves
      carry := e + a.carry - (cyc.map part).sum } := by
  intro part
  have hsum : cyc.foldl (fun t x => t + x.2) 0 = (cyc.map Prod.snd).sum := (foldl_add_eq_sum Prod.snd cyc 0).trans (Nat.zero_add _)
  unfold Apport.interval
  dsimp only
  have hparts : cyc.foldl (fun t x => t + part x) 0 = (cyc.map part).sum := (foldl_add_eq_sum part cyc 0).trans (Nat.zero_add _)
  rw [if_neg (by simpa using h), hsum, ← hparts]
  rfl

/-- An interval loses nothing of its energy: what no grove takes is unassigned or carried (R438). -/
theorem Apport.interval_total (a : Apport) (e hold ms : Nat) (cyc : List (Nat × Nat)) (hn : (cyc.map Prod.fst).Nodup) (h : ∀ x ∈ cyc, x.1 < 16) :
    (a.interval e hold ms cyc).total = a.total + e := by
  by_cases hc : cyc = []
  · subst hc
    have hnone : a.interval e hold ms [] = { a with unassigned := a.unassigned + (e + a.carry), carry := 0 } := rfl
    rw [hnone]
    unfold Apport.total
    dsimp only
    omega
  · have hle : holdEnergy (e + a.carry) hold ms (cyc.map Prod.snd).sum ≤ e + a.carry := by
      unfold holdEnergy
      split
      · exact le_rfl
      · exact Nat.min_le_left _ _
    have hparts := groveEnergy_sum_le cyc hle
    rw [Apport.interval_eq a e hold ms cyc hc]
    generalize groveEnergy _ _ _ _ = part at hparts ⊢
    have hgroves := List.sum_map_add (l := groveNums) (f := fun g => mapGet (fun _ => 0) a.groves g)
      (g := fun g => ((cyc.filter (fun x => x.1 = g)).map part).sum)
    rw [sum_by_grove part cyc h] at hgroves
    unfold Apport.total
    simp only [mapGet_gains part cyc hn, hgroves]
    omega

theorem Chan.cyclesOf_groves (c : Chan) (cycles : List (Nat × Nat × Nat)) : ((c.cyclesOf cycles).map Prod.fst).Nodup ∧
    ∀ x ∈ c.cyclesOf cycles, x.1 < 16 := by
  have hnodup : (groveNums.filter (fun g => (c.grove g).st ≠ .empty)).Nodup := List.nodup_range.filter _
  constructor
  · unfold Chan.cyclesOf
    rw [List.map_map]
    exact (List.map_id _).symm ▸ hnodup
  · intro x hx
    obtain ⟨g, hg, rfl⟩ := List.mem_map.1 hx
    exact List.mem_range.1 (List.mem_filter.1 hg).1

/-- An account of a channel. -/
def PortDie.account (p : PortDie) (c : Nat) : Apport := mapGet (fun _ => Apport.reset) p.apport c

/-- The account of a channel after an interval. -/
def PortDie.accounted (p : PortDie) (ch : Chan) (c : Nat) (cycles : List (Nat × Nat × Nat)) : Apport :=
  { (p.account c).interval (p.branch c - (p.account c).last) ch.holdW (p.fld F.MET_CFG_APP_INT) (ch.cyclesOf cycles) with last := p.branch c }

/-- A channel's account takes its interval. -/
def State.apportionAt (cycles : List (Nat × Nat × Nat)) (s : State) (c : Nat) : State :=
  if (s.chan c).down then s else s.onPort (fun p => { p with apport := mapPut p.apport c (p.accounted (s.chan c) c cycles) })

theorem exec_apportion (cycles : List (Nat × Nat × Nat)) (s : State) :
    exec (.apportion cycles) s = .next ((List.range 8).foldl (State.apportionAt cycles) s) := rfl

theorem State.apportionAt_rest (cycles : List (Nat × Nat × Nat)) (s : State) (c : Nat) : (s.apportionAt cycles c).chans = s.chans ∧
    (s.apportionAt cycles c).cell = s.cell ∧ (s.apportionAt cycles c).pd.bank = s.pd.bank ∧
    ∀ k, k ≠ c → (s.apportionAt cycles c).pd.account k = s.pd.account k := by
  unfold State.apportionAt
  split
  · exact ⟨rfl, rfl, rfl, fun _ _ => rfl⟩
  · exact ⟨rfl, rfl, rfl, fun k hk => mapGet_mapPut_ne _ _ _ _ _ hk⟩

/-- A channel's account has taken what its branch has counted since. -/
theorem State.apportionAt_here (cycles : List (Nat × Nat × Nat)) {s : State} {c : Nat} (h : (s.chan c).down = false) :
    ((s.apportionAt cycles c).pd.account c).last = s.pd.branch c ∧
    ((s.apportionAt cycles c).pd.account c).total = (s.pd.account c).total + (s.pd.branch c - (s.pd.account c).last) := by
  have hput : (s.apportionAt cycles c).pd.account c = s.pd.accounted (s.chan c) c cycles := by
    rw [State.apportionAt, if_neg (by simp [h])]
    exact mapGet_mapPut_same _ _ _ _
  obtain ⟨hn, h16⟩ := (s.chan c).cyclesOf_groves cycles
  rw [hput]
  refine ⟨rfl, ?_⟩
  rw [PortDie.accounted, Apport.total_last]
  exact (s.pd.account c).interval_total _ _ _ _ hn h16

theorem PortDie.branch_congr {p r : PortDie} (h : p.bank = r.bank) (c : Nat) : p.branch c = r.branch c := by
  rw [PortDie.branch, PortDie.branch, h]

theorem State.apportions_rest (cycles : List (Nat × Nat × Nat)) (l : List Nat) (s : State) :
    (l.foldl (State.apportionAt cycles) s).chans = s.chans ∧ (l.foldl (State.apportionAt cycles) s).cell = s.cell ∧
    ∀ k, k ∉ l → (l.foldl (State.apportionAt cycles) s).pd.account k = s.pd.account k := by
  induction l generalizing s with
  | nil => exact ⟨rfl, rfl, fun _ _ => rfl⟩
  | cons c t ih =>
    obtain ⟨hchans, hcell, -, hother⟩ := s.apportionAt_rest cycles c
    obtain ⟨hchans', hcell', hother'⟩ := ih (s.apportionAt cycles c)
    refine ⟨hchans'.trans hchans, hcell'.trans hcell, fun k hk => ?_⟩
    obtain ⟨hc, ht⟩ := not_or.1 (mt List.mem_cons.2 hk)
    exact (hother' k ht).trans (hother k hc)

/-- Each channel's account takes its interval once. -/
theorem State.apportions_each (cycles : List (Nat × Nat × Nat)) (l : List Nat) (hn : l.Nodup) {c : Nat} (hc : c ∈ l) (s : State)
    (h : (s.chan c).down = false) : ((l.foldl (State.apportionAt cycles) s).pd.account c).last = s.pd.branch c ∧
    ((l.foldl (State.apportionAt cycles) s).pd.account c).total = (s.pd.account c).total + (s.pd.branch c - (s.pd.account c).last) := by
  induction l generalizing s with
  | nil => exact absurd hc List.not_mem_nil
  | cons j t ih =>
    obtain ⟨hj, ht⟩ := List.nodup_cons.1 hn
    obtain ⟨hchans, -, hbank, hother⟩ := s.apportionAt_rest cycles j
    by_cases hcj : c = j
    · subst hcj
      rw [List.foldl_cons, (State.apportions_rest cycles t _).2.2 c hj]
      exact State.apportionAt_here cycles h
    · have hstep := ih ht ((List.mem_cons.1 hc).resolve_left hcj) (s.apportionAt cycles j) (by rw [State.chan, hchans]; exact h)
      rw [PortDie.branch_congr hbank, hother c hcj] at hstep
      exact hstep

/-- Settles O60. -/
theorem alarmsAndTheCell : Obligations.AlarmsAndTheCell := by
  refine ⟨fun s => ⟨fun hno => ?_, fun hno => ?_, fun ha hl => ⟨meshAlarm_light ha hl, fun hm hr => ?_, fun hr => ?_, fun hr => ?_, fun hr => ?_⟩,
    sealBreach_counts s⟩, fun mwh cycles s => ⟨fun hk => ?_, fun hk => ?_, rfl, rfl, fun hno => ?_, cellReport_brings, fun ha hb => ?_,
      fun ha hlink => ?_, fun hno => ?_, ?_⟩⟩
  · rw [exec_meshAlarm, if_pos (by simpa using hno)]
  · rw [exec_glitch, if_neg (by simp [hno])]
  · obtain ⟨hlocked, hsessions, hkeys, hchans⟩ := State.alarm_erases (s := s.meshOpened) (k := 0) hl hr
    exact ⟨_, meshAlarm_raises ha hm, hlocked, hsessions, hkeys, hchans, (s.meshOpened.alarm_quiet 0).cell⟩
  · exact ⟨s.alarm 2, by rw [exec_glitch, if_pos ha], State.alarm_flag hl (by omega) (by omega), State.alarm_logs hl hr⟩
  · exact ⟨s.alarm 2, by rw [exec_glitch, if_pos ha], State.alarm_flag hl (by omega) (by omega), fun k h8 hu => State.alarm_freezes hl hr h8 hu⟩
  · obtain ⟨hlocked, -, hkeys, hchans⟩ := State.alarm_erases (k := 2) hl hr
    exact ⟨s.alarm 2, by rw [exec_glitch, if_pos ha], hlocked, hkeys, hchans⟩
  · exact (exec_cellEnergySample mwh s).trans (congrArg (fun c => Host.Outcome.next { s with cell := c }) (if_pos hk))
  · exact (exec_cellEnergySample mwh s).trans (congrArg (fun c => Host.Outcome.next { s with cell := c }) (if_neg (Nat.not_le.2 hk)))
  · rw [exec_cellReport, if_pos (by simp [hno])]
  · rw [exec_cellReport, if_neg (by simp [ha]), if_pos hb]
  · refine ⟨({ s with cell := { s.cell with link := false } } : State).pdFlag F.MET_STATUS_LINK_ERR F.MET_COUNT_LINK_ERR, ?_, rfl, ?_, rfl⟩
    · rw [exec_cellLinkTimeout, if_neg (by simp [ha, hlink])]
    · exact PortDie.fld_flag_same _ _ _ (by decide) (by decide) (by decide) (.inl (by decide))
  · rw [exec_cellLinkTimeout, if_pos (by simpa using hno)]
  · obtain ⟨hchans, hcell, -⟩ := State.apportions_rest cycles (List.range 8) s
    exact ⟨_, exec_apportion cycles s, hchans, hcell, fun c h8 hup => State.apportions_each cycles _ List.nodup_range (List.mem_range.2 h8) s hup⟩

end Sys2Proof.Machine
end

section
/-! PROOFS. Tile failures, quiescence, restarts and remaps. -/

namespace Sys2Proof.Machine

section
variable {s : State} {ch : Fin 8} {g : Fin 16}

/-! ## What each row's condition says -/

/-- A grove that must quiesce has not. -/
def Chan.quiesceLate (c : Chan) (g : Nat) : Prop := ((c.grove g).replay = true ∨ (c.grove g).failing ≠ []) ∧ c.arraysIdle g = false

theorem Chan.quiesceLate_iff (c : Chan) (g : Nat) :
    (!((c.grove g).replay || decide ((c.grove g).failing ≠ [])) || c.arraysIdle g) = false ↔ c.quiesceLate g := by
  unfold Chan.quiesceLate
  cases (c.grove g).replay <;> simp

/-- A grove under replay whose reloads are complete and whose arrays are idle. -/
def Chan.reloaded (c : Chan) (g : Nat) : Prop :=
  (c.grove g).ws.reload = [] ∧ (c.grove g).ws.slotReload = [] ∧ (c.grove g).st.active = true ∧ c.arraysIdle g = true

theorem Chan.reloaded_iff (c : Chan) (g : Nat) : (decide ((c.grove g).ws.reload ≠ []) || decide ((c.grove g).ws.slotReload ≠ []) ||
    !(c.grove g).st.active || !c.arraysIdle g) = false ↔ c.reloaded g := by
  simp [Chan.reloaded, and_assoc]

/-- A grove fails in its replay with a status. -/
def Chan.replayFails (c : Chan) (g : Nat) (st : Status) : Chan :=
  (c.flagEvent F.CTL_FAULT_STATUS_REPLAY_FAIL F.CTL_FAULT_COUNT2_REPLAY_FAIL st 0 (some g)).groveFault g st

/-! ## Watchdog, quiescence and restart (R406, R407, R410, R418) -/

theorem watchdogExpiry_fails {t : TileRef} (hrun : (s.chan t.ch).clockRuns (tileIdx t) = true) (hslot : ((s.chan t.ch).tile (tileIdx t)).slot.isSome) :
    Acts (.watchdogExpiry t) s t.ch ((s.chan t.ch).tileFails (tileIdx t) 4) := .of_chanStep rfl (if_pos (by rw [hrun, hslot]; rfl))

theorem watchdogExpiry_none {t : TileRef} (h : (s.chan t.ch).clockRuns (tileIdx t) = false ∨ ((s.chan t.ch).tile (tileIdx t)).slot = none) :
    Acts (.watchdogExpiry t) s t.ch (s.chan t.ch) := .of_chanStep rfl (if_neg (by rcases h with h | h <;> simp [h]))

theorem quiesceTimeout_late (h : (s.chan ch).quiesceLate g) : Acts (.quiesceTimeout ch g) s ch ((s.chan ch).replayFails g .hwFault) :=
  .of_chanStep rfl (if_neg (by rw [((s.chan ch).quiesceLate_iff g).2 h]; exact Bool.false_ne_true))

theorem quiesceTimeout_none (h : ¬ (s.chan ch).quiesceLate g) : Acts (.quiesceTimeout ch g) s ch (s.chan ch) :=
  .of_chanStep rfl (if_pos (eq_true_of_ne_false (mt ((s.chan ch).quiesceLate_iff g).1 h)))

theorem replayRestart_none (ok : Bool) (h : ((s.chan ch).grove g).replay = false ∨ ((s.chan ch).grove g).failing ≠ []) :
    Acts (.replayRestart ch g ok) s ch (s.chan ch) := .of_chanStep rfl (if_pos (by simpa using h))

/-- A restart with nothing failing: a failed reload faults the grove, a complete one restarts it, another waits. -/
theorem replayRestart_due (hr : ((s.chan ch).grove g).replay = true) (hf : ((s.chan ch).grove g).failing = []) :
    Acts (.replayRestart ch g false) s ch ((s.chan ch).replayFails g .digestFail) ∧
    ((s.chan ch).reloaded g → Acts (.replayRestart ch g true) s ch ((s.chan ch).restartGrove g)) ∧
    (¬ (s.chan ch).reloaded g → Acts (.replayRestart ch g true) s ch (s.chan ch)) := by
  have hdue : ¬ (!((s.chan ch).grove g).replay || decide (((s.chan ch).grove g).failing ≠ [])) = true := by simp [hr, hf]
  refine ⟨.of_chanStep rfl ((if_neg hdue).trans (if_pos rfl)), fun h => .of_chanStep rfl ((if_neg hdue).trans ((if_neg Bool.false_ne_true).trans ?_)),
    fun h => .of_chanStep rfl ((if_neg hdue).trans ((if_neg Bool.false_ne_true).trans ?_))⟩
  · exact if_neg (by rw [((s.chan ch).reloaded_iff g).2 h]; exact Bool.false_ne_true)
  · exact if_pos (eq_true_of_ne_false (mt ((s.chan ch).reloaded_iff g).1 h))

/-! ## Quiet groves (R309) -/

theorem groveQuiescent_none (h : (s.chan ch).quiet g = false) : Acts (.groveQuiescent ch g) s ch (s.chan ch) :=
  .of_chanStep rfl (if_pos (by rw [h]; rfl))

/-- A quiet grove answers its pause, ends its evaluation, or has nothing to end. -/
theorem groveQuiescent_quiet (h : (s.chan ch).quiet g = true) :
    let c := s.chan ch
    let v := c.grove g
    (v.st = .paused → Acts (.groveQuiescent ch g) s ch ((c.answerPause g 0xFFFFFFFF).answerFreeze)) ∧
    (v.st = .draining → v.kind = 0 → Acts (.groveQuiescent ch g) s ch
      (c.drainEnd g (if v.begun then v.step else v.step - 1) (!v.begun && v.step = 0))) ∧
    (v.st ≠ .paused → (v.st ≠ .draining ∨ v.kind ≠ 0) → Acts (.groveQuiescent ch g) s ch c) := by
  have hquiet : ¬ (!(s.chan ch).quiet g) = true := by simp [h]
  refine ⟨fun hp => .of_chanStep rfl ((if_neg hquiet).trans (if_pos hp)), fun hd hk => .of_chanStep rfl ((if_neg hquiet).trans ?_),
    fun hp hd => .of_chanStep rfl ((if_neg hquiet).trans ((if_neg hp).trans (if_neg ?_)))⟩
  · exact (if_neg (by simp [hd])).trans (if_pos (by simp [hd, hk]))
  · simp only [Bool.and_eq_true, decide_eq_true_eq, not_and_or]
    exact hd

/-! ## Heartbeats and remaps (R406-R408, R418) -/

/-- A channel out of OFF, LOCKED, BRINGUP and FAULTED. -/
def Chan.InUse (c : Chan) : Prop := c.st = .ready ∨ c.st = .running ∨ c.st = .frozen

theorem Chan.inUse_iff (c : Chan) : (decide (c.st ≠ .ready) && decide (c.st ≠ .running) && decide (c.st ≠ .frozen)) = false ↔ c.InUse := by
  unfold Chan.InUse
  cases c.st <;> decide

/-- Whether an admitted router is silent. -/
def Chan.routerSilent (c : Chan) (routers : List (Nat × Nat)) : Bool := routers.any (fun p => decide (p.1 < 48) && decide (p.2 < c.admittedRows))

/-- A channel under whose admitted rows a router is silent. -/
def Chan.routerFails (c : Chan) : Chan :=
  (c.flagEvent F.CTL_FAULT_STATUS_ROUTER_FAIL F.CTL_FAULT_COUNT2_ROUTER_FAIL .hwFault 0 none).chanFault .hwFault

/-- A channel with the counts of its silent cores gone on. -/
def Chan.beats (cores : List (Nat × Nat)) (c : Chan) : Chan :=
  (List.range (48 * c.admittedRows)).foldl (fun (c : Chan) i => c.beat (cores.contains (i % 48, i / 48)) i) c

theorem exec_heartbeat (cores routers : List (Nat × Nat)) : exec (.heartbeat ch cores routers) s =
    .next (if decide ((s.chan ch).st ≠ .ready) && decide ((s.chan ch).st ≠ .running) && decide ((s.chan ch).st ≠ .frozen) then s
      else if (s.chan ch).routerSilent routers then (s.onChan ch Chan.routerFails).settleServices
      else (s.onChan ch (Chan.beats cores)).recordMap ch 2) := rfl

theorem heartbeat_none (cores routers : List (Nat × Nat)) (h : ¬ (s.chan ch).InUse) : exec (.heartbeat ch cores routers) s = .next s := by
  rw [exec_heartbeat, if_pos (eq_true_of_ne_false (mt (s.chan ch).inUse_iff.1 h))]

theorem heartbeat_inUse (cores routers : List (Nat × Nat)) (h : (s.chan ch).InUse) : exec (.heartbeat ch cores routers) s =
    .next (if (s.chan ch).routerSilent routers then (s.onChan ch Chan.routerFails).settleServices
      else (s.onChan ch (Chan.beats cores)).recordMap ch 2) := by
  rw [exec_heartbeat, (s.chan ch).inUse_iff.2 h, if_neg Bool.false_ne_true]

/-- A failing grove that is quiescent in a channel that runs. -/
def Chan.remapDue (c : Chan) (g : Nat) : Prop :=
  (c.grove g).failing ≠ [] ∧ c.arraysIdle g = true ∧ c.drained [g] = true ∧ (c.grove g).st ≠ .faulted ∧ (c.grove g).st ≠ .empty ∧
    c.down = false ∧ c.st ≠ .faulted

theorem Chan.remapDue_iff (c : Chan) (g : Nat) : (decide ((c.grove g).failing = []) || !c.arraysIdle g || !c.drained [g] ||
    decide ((c.grove g).st = .faulted) || decide ((c.grove g).st = .empty) || c.down || decide (c.st = .faulted)) = false ↔ c.remapDue g := by
  simp [Chan.remapDue, and_assoc]

/-- A channel once the failed slots of a grove have been remapped. -/
def Chan.remapped (g : Nat) (failing : List (Nat × Nat)) (c : Chan) : Chan :=
  (failing.foldl (fun (c : Chan) p => c.remapTile g p.1 p.2) (c.dropOpenSlabs g)).onGrove g (fun v => { v with failing := [] })

theorem exec_groveQuiesced : exec (.groveQuiesced ch g) s =
    .next (if decide (((s.chan ch).grove g).failing = []) || !(s.chan ch).arraysIdle g || !(s.chan ch).drained [g.val] ||
      decide (((s.chan ch).grove g).st = .faulted) || decide (((s.chan ch).grove g).st = .empty) || (s.chan ch).down || decide ((s.chan ch).st = .faulted)
      then s else (s.onChan ch (Chan.remapped g ((s.chan ch).grove g).failing)).recordMap ch 2) := rfl

theorem groveQuiesced_due (h : (s.chan ch).remapDue g) :
    exec (.groveQuiesced ch g) s = .next ((s.onChan ch (Chan.remapped g ((s.chan ch).grove g).failing)).recordMap ch 2) := by
  rw [exec_groveQuiesced, ((s.chan ch).remapDue_iff g).2 h, if_neg Bool.false_ne_true]

theorem groveQuiesced_none (h : ¬ (s.chan ch).remapDue g) : exec (.groveQuiesced ch g) s = .next s := by
  rw [exec_groveQuiesced, if_pos (eq_true_of_ne_false (mt ((s.chan ch).remapDue_iff g).1 h))]

end

/-- Settles O36, row by row. -/
theorem tilesFailQuiesceAndRemap : Obligations.TilesFailQuiesceAndRemap :=
  ⟨fun _ _ _ => ⟨watchdogExpiry_fails, watchdogExpiry_none, quiesceTimeout_late, quiesceTimeout_none, replayRestart_none, replayRestart_due,
      groveQuiescent_none, groveQuiescent_quiet⟩,
    fun _ _ cores routers _ => ⟨heartbeat_none cores routers, fun h => ⟨fun hs => (heartbeat_inUse cores routers h).trans
        (congrArg Host.Outcome.next (if_pos hs)), fun hs => (heartbeat_inUse cores routers h).trans
        (congrArg Host.Outcome.next (if_neg (ne_true_of_eq_false hs)))⟩, groveQuiesced_due, groveQuiesced_none⟩⟩

end Sys2Proof.Machine
end

section
/-! PROOFS. What a channel hands over as it goes on; notices to a job's grove; ring restores and directory queries. -/

namespace Sys2Proof.Machine

/-! ## What is handed over stays handed over -/

/-- `b` hands over what `a` hands over, and perhaps more, over the same controller link. -/
structure Chan.Adds (a b : Chan) : Prop where
  linkLost : b.linkLost = a.linkLost
  outbox   : ∀ e ∈ a.outbox, e ∈ b.outbox

namespace Chan.Adds

theorem refl (c : Chan) : c.Adds c := ⟨rfl, fun _ h => h⟩

theorem trans {a b c : Chan} (h : a.Adds b) (k : b.Adds c) : a.Adds c := ⟨k.linkLost.trans h.linkLost, fun e he => k.outbox e (h.outbox e he)⟩

theorem of_eq {a b : Chan} (hl : b.linkLost = a.linkLost) (ho : b.outbox = a.outbox) : a.Adds b := ⟨hl, fun e he => by rw [ho]; exact he⟩

/-- What is handed over goes behind what was. -/
theorem of_append {a b : Chan} {o : List Emit} (hl : b.linkLost = a.linkLost) (ho : b.outbox = a.outbox ++ o) : a.Adds b :=
  ⟨hl, fun e he => by rw [ho]; exact List.mem_append_left _ he⟩

theorem ite {p : Prop} [Decidable p] {a b c : Chan} (hb : a.Adds b) (hc : a.Adds c) : a.Adds (if p then b else c) := by
  split <;> assumption

theorem foldl {α : Type} {f : Chan → α → Chan} (h : ∀ (c : Chan) x, c.Adds (f c x)) (l : List α) (c : Chan) : c.Adds (l.foldl f c) := by
  induction l generalizing c with
  | nil => exact .refl c
  | cons x t ih => exact (h c x).trans (ih _)

end Chan.Adds

section
variable (c : Chan)

theorem Chan.setFld_adds (f : Fld) (v : Nat) : c.Adds (c.setFld f v) := .of_eq rfl rfl

theorem Chan.onGrove_adds (g : Nat) (f : Grove → Grove) : c.Adds (c.onGrove g f) := .of_eq rfl rfl

theorem Chan.setLink_adds (i : Nat) (l : Link) : c.Adds (c.setLink i l) := .of_eq rfl rfl

theorem Chan.complete_adds (d : Datagram) (st : Status) (g : Option Nat) (b : Bytes) : c.Adds (c.complete d st g b) := .of_append rfl rfl

theorem Chan.destDown_adds (i : Nat) : c.Adds (c.destDown i) := (c.setFld_adds _ _).trans (Chan.setFld_adds _ _ _)

theorem Chan.toEgress_adds (i : Nat) (e : EgressItem) : c.Adds (c.toEgress i e).1 := by
  unfold Chan.toEgress
  dsimp only
  split
  · exact .refl c
  split
  · exact c.destDown_adds i
  · exact c.setLink_adds i _

theorem Chan.sendFrame_adds (f : Frame) : c.Adds (c.sendFrame f) := by
  unfold Chan.sendFrame
  refine .ite (.refl c) ?_
  dsimp only
  refine .ite (c.setFld_adds _ _) (.foldl (fun c o => ?_) _ c)
  exact .ite (.of_eq rfl rfl) (c.toEgress_adds o _)

theorem Chan.sendCtl_adds (dst job : Nat) (m : CtlMsg) : c.Adds (c.sendCtl dst job m) := c.sendFrame_adds _

end

/-- A channel command that is accepted is answered so, whatever its channel then does that keeps what it hands over. -/
theorem ReadyC.accepted {i : Instr} {s : State} {q : Issue} {op : Nat} {fs : List (Nat × Nat × Nat)} {conf : Chan → Datagram → Bool}
    {bad : Datagram → List (Bool × Nat)} {d : Datagram} (h : ReadyC s q op fs conf bad d) {f : Datagram → Chan → Chan} {e : Chan}
    (he : exec i s = .next (s.chanCmd q op fs conf bad f)) (hf : f d ((s.chan q.channel).begun d) = e)
    (hadds : (((s.chan q.channel).begun d).accept d).Adds e) :
    ∃ u, exec i s = .next u ∧ Answered s u d .accepted [] ∧ ActsOn s u q.channel e := by
  let c := (s.chan q.channel).begun d
  have hidx : c.idx = d.channel := (show c.idx = (s.chan q.channel).idx from rfl).trans (h.place.trans h.named.symm)
  have hemit : Emit.reply d.channel d.queue d.session ⟨d.seq, d.opcode, d.origin,
      c.block .accepted (groveNamed d) (min ((c.queue d.queue).tokens + 1) 64) [] ++ []⟩ ∈ (c.accept d).outbox := by
    rw [← hidx]
    exact List.mem_append_right _ (List.mem_singleton.2 rfl)
  exact ⟨_, he, h.answered_of_emit hf (hadds.linkLost.trans h.link) (hadds.outbox _ hemit) (replyBlock_length _ _ _ _ _ _)
    (replyBlock_head _ _ _ _ _ _), hf ▸ h.actsOn f⟩

/-! ## Notices to the grove of a job -/

/-- A notice that a channel takes, and then acts on for the grove of its job, if that is loaded here. -/
def Chan.notice (took : Chan → Chan) (job : Nat) (k : Chan → Nat → Chan) (c : Chan) : Chan :=
  ((took c).groveOfJob job).elim (took c) (k c)

section
variable {i : Instr} {s : State} {ch : Nat} {took : Chan → Chan} {job : Nat} {k : Chan → Nat → Chan}
  (h : exec i s = chanStep s ch (Chan.notice took job k))
include h

theorem Acts.notice_none (hn : (took (s.chan ch)).groveOfJob job = none) : Acts i s ch (took (s.chan ch)) :=
  .of_chanStep h (by rw [Chan.notice, hn]; rfl)

theorem Acts.notice_some {g : Nat} {e : Chan} (hg : (took (s.chan ch)).groveOfJob job = some g) (he : k (s.chan ch) g = e) : Acts i s ch e :=
  .of_chanStep h (by rw [Chan.notice, hg]; exact he)

end

/-! ## Beginning a restore, and what comes of it (R361-R363) -/

section
variable {q : Issue} {d : Datagram} {s : State} {ch : Fin 8} {g : Fin 16} {fs : NMap Bytes}

/-- What a member does with the notice that a restore begins. -/
def Chan.joinsRestore (took : Chan) (h job ring attempt idx nsid dir : Nat) (keys : List KeyRec) (fs : NMap Bytes) : Chan :=
  if (took.grove h).st ≠ .loaded || (took.grove h).ring.phase ≠ 0 then
    took.sendCtl (took.grove h).coord job (.restoreReport job Status.stateConflict.code [])
  else (took.onGrove h (fun v => { v with ring := { v.ring.idle with
    phase := 5, ring := ring, attempt := attempt, idx := idx, nsid := nsid, dir := dir } })).restoreRead h keys fs

theorem exec_restoreBegin (job ring attempt idx nsid dir : Nat) : exec (.restoreBegin ch job ring attempt idx nsid dir fs) s =
    chanStep s ch (Chan.notice (fun c => c.takeCtl (.restoreBegin job ring attempt idx nsid dir)) job
      (fun c h => (c.takeCtl (.restoreBegin job ring attempt idx nsid dir)).joinsRestore h job ring attempt idx nsid dir s.pd.keys fs)) := by
  refine congrArg (chanStep s ch) (funext fun c => ?_)
  unfold Chan.notice
  dsimp only
  generalize c.takeCtl _ = took
  cases took.groveOfJob job <;> rfl

theorem Chan.joinsRestore_refused {took : Chan} {h : Nat} (hno : (took.grove h).st ≠ .loaded ∨ (took.grove h).ring.phase ≠ 0)
    (job ring attempt idx nsid dir : Nat) (keys : List KeyRec) (fs : NMap Bytes) :
    took.joinsRestore h job ring attempt idx nsid dir keys fs =
      took.sendCtl (took.grove h).coord job (.restoreReport job Status.stateConflict.code []) := if_pos (by simpa using hno)

theorem Chan.joinsRestore_joins {took : Chan} {h : Nat} (hl : (took.grove h).st = .loaded) (hp : (took.grove h).ring.phase = 0)
    (job ring attempt idx nsid dir : Nat) (keys : List KeyRec) (fs : NMap Bytes) :
    took.joinsRestore h job ring attempt idx nsid dir keys fs = (took.onGrove h (fun v => { v with ring := { v.ring.idle with
      phase := 5, ring := ring, attempt := attempt, idx := idx, nsid := nsid, dir := dir } })).restoreRead h keys fs := if_neg (by simp [hl, hp])

/-- A channel that takes a frame with a part of an image. -/
def Chan.takeImage (c : Chan) (job kind tensor offset : Nat) (image : Bytes) : Chan :=
  c.takeFrame (fun f => f.typ = 0x06 && f.job = job && f.tensor = tensor &&
    f.payload = .raw (leBytes 8 offset ++ leBytes 4 image.length ++ leBytes 1 kind ++ zeros 3 ++ image))

/-- What a channel does with a part of an image. -/
def Chan.keepsPart (took : Chan) (h : Nat) (p : ImgPart) : Chan :=
  if (took.grove h).ring.phase = 5 && !(took.grove h).ring.installed then took.onGrove h (fun v => v.addPart p) else took

theorem exec_restoreImageFrame (job kind tensor offset : Nat) (image : Bytes) : exec (.restoreImageFrame ch job kind tensor offset image) s =
    chanStep s ch (Chan.notice (fun c => c.takeImage job kind tensor offset image) job
      (fun c h => (c.takeImage job kind tensor offset image).keepsPart h ⟨kind, tensor, offset, image⟩)) := by
  refine congrArg (chanStep s ch) (funext fun c => ?_)
  show _ = ((c.takeImage job kind tensor offset image).groveOfJob job).elim _ _
  unfold Chan.takeImage
  dsimp only
  generalize c.takeFrame _ = took
  cases took.groveOfJob job <;> rfl

/-- A coordinator that takes a member's report. -/
def Chan.takeReport (c : Chan) (job member status : Nat) (bad : List Nat) : Chan :=
  match c.groveOfJob job with
  | some h => c.takeFrame (fun f => f.src = ((c.memberNodes h)[member]?).getD 0xFFFF && f.payload = .ctl (.restoreReport job status bad))
  | none => c.takeCtl (.restoreReport job status bad)

/-- Whether a coordinator waits for a member's report. -/
def Chan.awaitsReport (c : Chan) (h member : Nat) : Prop :=
  (c.grove h).ring.phase = 5 ∧ (c.grove h).ring.leads = true ∧ (c.grove h).ring.reports.any (fun x => x.1 = member) = false

theorem Chan.awaitsReport_iff (c : Chan) (h member : Nat) : (decide ((c.grove h).ring.phase ≠ 5) || !(c.grove h).ring.leads ||
    (c.grove h).ring.reports.any (fun x => x.1 = member)) = false ↔ c.awaitsReport h member := by
  unfold Chan.awaitsReport
  generalize (c.grove h).ring.reports.any _ = b
  simp [and_assoc]

/-- What a coordinator does with a member's report. -/
def Chan.notesReport (took : Chan) (h member status : Nat) (bad : List Nat) : Chan :=
  if decide ((took.grove h).ring.phase ≠ 5) || !(took.grove h).ring.leads || (took.grove h).ring.reports.any (fun x => x.1 = member) then took
  else (took.onGrove h (fun v => { v with ring := { v.ring with reports := v.ring.reports ++ [(member, status, bad)] } })).restoreEnds h

theorem exec_restoreReport (job member status : Nat) (bad : List Nat) : exec (.restoreReport ch job member status bad) s =
    chanStep s ch (Chan.notice (fun c => c.takeReport job member status bad) job
      (fun c h => (c.takeReport job member status bad).notesReport h member status bad)) := by
  refine congrArg (chanStep s ch) (funext fun c => ?_)
  show (match (c.takeReport job member status bad).groveOfJob job with
    | none => c.takeReport job member status bad
    | some g => (c.takeReport job member status bad).notesReport g member status bad) = _
  unfold Chan.notice
  dsimp only
  generalize c.takeReport job member status bad = took
  cases took.groveOfJob job <;> rfl

theorem Chan.notesReport_awaited {took : Chan} {h member : Nat} (hw : took.awaitsReport h member) (status : Nat) (bad : List Nat) :
    took.notesReport h member status bad =
      (took.onGrove h (fun v => { v with ring := { v.ring with reports := v.ring.reports ++ [(member, status, bad)] } })).restoreEnds h := by
  rw [Chan.notesReport, (took.awaitsReport_iff h member).2 hw, if_neg Bool.false_ne_true]

theorem Chan.notesReport_late {took : Chan} {h member : Nat} (hw : ¬ took.awaitsReport h member) (status : Nat) (bad : List Nat) :
    took.notesReport h member status bad = took := if_pos (eq_true_of_ne_false (mt (took.awaitsReport_iff h member).1 hw))

/-! ## The end of a restore (R365) -/

theorem restoreComplete_none (h : ((s.chan ch).grove g).ring.phase ≠ 5) : Acts (.restoreComplete ch g) s ch (s.chan ch) := .of_chanStep rfl (if_pos h)

/-- Whether every part is here, and in a coordinator every report. -/
def Chan.restoreHere (c : Chan) (g : Nat) : Prop := c.partsHere g = true ∧ ((c.grove g).ring.leads = false ∨ (c.gathered g).1 = true)

theorem Chan.restoreHere_iff (c : Chan) (g : Nat) : (c.partsHere g && (!(c.grove g).ring.leads || (c.gathered g).1)) = true ↔ c.restoreHere g := by
  simp [Chan.restoreHere]

/-- Whether every chunk is written back, and a flip accepted. -/
def Chan.restoreBack (c : Chan) (g : Nat) : Prop := c.writtenBack g = true ∧ c.fld F.HBM_STATUS_OTHER_CLEAN = 1

theorem Chan.restoreBack_iff (c : Chan) (g : Nat) : (c.writtenBack g && decide (c.fld F.HBM_STATUS_OTHER_CLEAN = 1)) = true ↔ c.restoreBack g := by
  simp [Chan.restoreBack]

theorem restoreComplete_due (h : ((s.chan ch).grove g).ring.phase = 5) :
    let c := s.chan ch
    (((c.grove g).ring.installed = false → c.restoreHere g → Acts (.restoreComplete ch g) s ch (c.install g)) ∧
    ((c.grove g).ring.installed = false → ¬ c.restoreHere g → Acts (.restoreComplete ch g) s ch c) ∧
    ((c.grove g).ring.installed = true → c.restoreBack g → Acts (.restoreComplete ch g) s ch (c.restoreDone g)) ∧
    ((c.grove g).ring.installed = true → ¬ c.restoreBack g → Acts (.restoreComplete ch g) s ch c)) := by
  intro c
  have hnot (b : Bool) (hb : b = false) : (!b) = true := by rw [hb]; rfl
  have hyes (b : Bool) (hb : b = true) : ¬ (!b) = true := by rw [hb]; exact Bool.false_ne_true
  refine ⟨fun hi hh => .of_chanStep rfl ((if_neg (not_not_intro h)).trans ((if_pos (hnot _ hi)).trans (if_pos ((c.restoreHere_iff g).2 hh)))),
    fun hi hh => .of_chanStep rfl ((if_neg (not_not_intro h)).trans ((if_pos (hnot _ hi)).trans (if_neg (mt (c.restoreHere_iff g).1 hh)))),
    fun hi hb => .of_chanStep rfl ((if_neg (not_not_intro h)).trans ((if_neg (hyes _ hi)).trans (if_pos ((c.restoreBack_iff g).2 hb)))),
    fun hi hb => .of_chanStep rfl ((if_neg (not_not_intro h)).trans ((if_neg (hyes _ hi)).trans (if_neg (mt (c.restoreBack_iff g).1 hb))))⟩

/-! ## Directory queries (R360, R366) -/

/-- The channel once the chain checks of a query have ended. -/
def Chan.queried (keys : List KeyRec) (fs : NMap Bytes) (d : Datagram) (c0 : Chan) : Chan :=
  (dirBad fs (c0.countReads.grove (pAt d 0 1))).elim
    (c0.countReads.complete d .ok (some (pAt d 0 1)) (leBytes 4 (c0.countReads.queryRing (pAt d 0 1) keys fs)))
    (fun st => c0.countReads.complete d st (some (pAt d 0 1)) [])

/-- The channel once a walk for orphans has ended. -/
def Chan.walked (fs : NMap Bytes) (d : Datagram) (c0 : Chan) : Chan :=
  (dirBad fs (c0.countReads.grove (pAt d 0 1))).elim
    (c0.countReads.complete d .ok (some (pAt d 0 1)) (leBytes 4 (orphans fs (c0.countReads.grove (pAt d 0 1)).count).length ++
      (orphans fs (c0.countReads.grove (pAt d 0 1)).count).flatMap (leBytes 4)))
    (fun st => c0.countReads.complete d st (some (pAt d 0 1)) [])

theorem exec_restoreQueryComplete : exec (.restoreQueryComplete q fs) s = completeStep s q 0x92 (Chan.queried s.pd.keys fs) := by
  refine congrArg (completeStep s q 0x92) (funext fun d => funext fun c => ?_)
  unfold Chan.queried
  dsimp only
  generalize c.countReads = e
  cases dirBad fs (e.grove (pAt d 0 1)) <;> rfl

theorem exec_ringOrphansComplete : exec (.ringOrphansComplete q fs) s = completeStep s q 0x93 (Chan.walked fs) := by
  refine congrArg (completeStep s q 0x93) (funext fun d => funext fun c => ?_)
  unfold Chan.walked
  dsimp only
  generalize c.countReads = e
  cases dirBad fs (e.grove (pAt d 0 1)) <;> rfl

end

/-- Settles O50. -/
theorem restoresReadInstallAndQuery : Obligations.RestoresReadInstallAndQuery := by
  refine fun q grove idx nsid lba ring ch g job attempt dir kind tensor offset member status image bad fs d s =>
    ⟨fun h => h.acts rfl rfl, fun h => h.executes rfl rfl rfl rfl, fun h => h.executes rfl rfl rfl rfl,
      fun h8 => ⟨exec_completeStep_noChannel exec_restoreQueryComplete h8, exec_completeStep_noChannel exec_ringOrphansComplete h8⟩,
      fun h8 => ⟨fun hn => .completeStep_none exec_restoreQueryComplete h8 hn, fun hn => .completeStep_none exec_ringOrphansComplete h8 hn⟩,
      ⟨fun h8 hd => ⟨fun st hb => .completeStep_some exec_restoreQueryComplete h8 hd ?_, fun hb => .completeStep_some exec_restoreQueryComplete h8 hd ?_⟩,
        fun h8 hd => ⟨fun st hb => .completeStep_some exec_ringOrphansComplete h8 hd ?_, fun hb => .completeStep_some exec_ringOrphansComplete h8 hd ?_⟩⟩,
      ⟨fun hn => .notice_none (exec_restoreBegin ..) hn, fun h hg => ⟨fun hno => .notice_some (exec_restoreBegin ..) hg (Chan.joinsRestore_refused hno ..),
        fun hl hp => .notice_some (exec_restoreBegin ..) hg (Chan.joinsRestore_joins hl hp ..)⟩⟩,
      ⟨fun hn => .notice_none (exec_restoreImageFrame ..) hn, fun h hg => ⟨fun hp hi => .notice_some (exec_restoreImageFrame ..) hg ?_,
        fun hno => .notice_some (exec_restoreImageFrame ..) hg ?_⟩⟩,
      ⟨fun hn => .notice_none (exec_restoreReport ..) hn, fun h hg => ⟨fun hw => .notice_some (exec_restoreReport ..) hg (Chan.notesReport_awaited hw ..),
        fun hw => .notice_some (exec_restoreReport ..) hg (Chan.notesReport_late hw ..)⟩⟩,
      restoreComplete_none, restoreComplete_due⟩
  · rw [Chan.queried, hb]
    rfl
  · rw [Chan.queried, hb]
    rfl
  · rw [Chan.walked, hb]
    rfl
  · rw [Chan.walked, hb]
    rfl
  · exact if_pos (by rw [Bool.and_eq_true, decide_eq_true_eq, Bool.not_eq_true']; exact ⟨hp, hi⟩)
  · refine if_neg fun hgo => ?_
    rw [Bool.and_eq_true, decide_eq_true_eq, Bool.not_eq_true'] at hgo
    exact hno.elim (fun h => h hgo.1) (fun h => Bool.false_ne_true (hgo.2.symm.trans h))

end Sys2Proof.Machine
end

section
/-! PROOFS. Rings begin, capture, gather, commit or fail. -/

namespace Sys2Proof.Machine

/-! ## A ring begins (R341, R342) -/

theorem Chan.onGrove_congr (c : Chan) (g : Nat) {f k : Grove → Grove} (h : f (c.grove g) = k (c.grove g)) : c.onGrove g f = c.onGrove g k := by
  rw [Chan.onGrove, Chan.onGrove, h]

/-- The state of checks that let a `RING_WRITE` begin. -/
def ringWriteNot (grove kind : Nat) (c : Chan) (d : Datagram) : Bool :=
  groveNot [.loaded, .running, .paused, .draining] c d || (decide (1 < (c.grove grove).members) && (c.grove grove).coord ≠ c.node) ||
    (c.grove grove).ring.phase ≠ 0 || (c.grove grove).ring.point.isNone || (kind = 1 && !(c.grove grove).ring.deltaOk)

/-- The parameters at which a `RING_WRITE` is refused. -/
def badRingWrite (s : State) (q : Issue) (grove kind : Nat) (d : Datagram) : List (Bool × Nat) :=
  [badGrove d, (decide (1 < pAt d 1 1) || (kind = 1 && (s.chan q.channel).untracked grove), 1), (decide (4 ≤ pAt d 2 1), 2)]

/-- Fields of `RING_WRITE` (R303). -/
def ringWriteFields (grove kind idx nsid lba : Nat) : List (Nat × Nat × Nat) := [(0, 1, grove), (1, 1, kind), (2, 1, idx), (4, 4, nsid), (8, 8, lba)]

/-- The ring that a `RING_WRITE` begins in a grove, its member's last attempt being `last`. -/
def Chan.newRing (c : Chan) (grove kind idx nsid lba last : Nat) (v : Grove) : GroveRing :=
  { v.ring.idle with
    phase := 1, ring := v.ringFor, kind := kind, attempt := last + 1, idx := idx, nsid := nsid, dir := lba, leads := true, from_ := c.pclk
    parent := if kind = 1 then c.fld (F.CKP_GRV_RING_RING.sh (grove * 0x40)) else 0xFFFFFFFF
    parentAttempt := if kind = 1 then c.fld (F.CKP_GRV_ATTEMPT_ATTEMPT.sh (grove * 0x40)) else 0
    due := if v.members ≤ 1 then v.atRest else v.pastPoint v.ringFor }

/-- The channel with the ring begun. -/
def Chan.ringBegun (c : Chan) (d : Datagram) (grove kind idx nsid lba last : Nat) : Chan :=
  (c.accept d).onGrove grove (fun v => { v with ring := c.newRing grove kind idx nsid lba last (c.grove grove) })

/-- The other members hear of the ring. -/
def Chan.tellRing (c : Chan) (grove kind idx nsid lba : Nat) (r : GroveRing) (c1 : Chan) : Chan :=
  ((c.memberNodes grove).filter (· ≠ c.node)).foldl (fun c1 m => c1.sendCtl m (c.grove grove).job
    (.ringBegin (c.grove grove).job (c.grove grove).ringFor kind r.attempt r.parent r.parentAttempt idx nsid lba)) c1

/-- What `RING_WRITE` makes of its channel. -/
def Chan.ringWritten (grove kind idx nsid lba : Nat) (fs : NMap Bytes) (d : Datagram) (c : Chan) : Chan :=
  (dirBad fs (c.grove grove)).elim
    ((memberArea fs (c.grove grove).count (c.memberIdx grove)).elim ((c.accept d).complete d .hwFault (some grove) [])
      (fun m => if (c.grove grove).members ≤ 1 then c.ringBegun d grove kind idx nsid lba m.last
        else c.tellRing grove kind idx nsid lba (c.newRing grove kind idx nsid lba m.last (c.grove grove)) (c.ringBegun d grove kind idx nsid lba m.last)))
    (fun st => (c.accept d).complete d st (some grove) [])

section
variable {q : Issue} {d : Datagram} {s : State} {grove kind idx nsid lba : Nat} {fs : NMap Bytes}

theorem exec_ringWrite : exec (.ringWrite q grove kind idx nsid lba fs) s = .next (s.chanCmd q 0x90 (ringWriteFields grove kind idx nsid lba)
    (ringWriteNot grove kind) (badRingWrite s q grove kind) (Chan.ringWritten grove kind idx nsid lba fs)) := by
  refine congrArg (fun f => Host.Outcome.next (s.chanCmd q 0x90 (ringWriteFields grove kind idx nsid lba) (ringWriteNot grove kind)
    (badRingWrite s q grove kind) f)) (funext fun d => funext fun c => ?_)
  unfold Chan.ringWritten
  dsimp only
  cases dirBad fs (c.grove grove) with
  | some st => rfl
  | none =>
    cases memberArea fs (c.grove grove).count (c.memberIdx grove) with
    | none => rfl
    | some m =>
      simp only [decide_eq_true_eq]
      rfl

theorem Chan.ringBegun_ring (c : Chan) (last : Nat) : ((c.ringBegun d grove kind idx nsid lba last).grove grove).ring =
    c.newRing grove kind idx nsid lba last (c.grove grove) := by
  rw [Chan.ringBegun, Chan.grove_onGrove, if_pos rfl]

theorem Chan.ringBegun_adds (c : Chan) (last : Nat) : (c.accept d).Adds (c.ringBegun d grove kind idx nsid lba last) := Chan.onGrove_adds _ _ _

theorem Chan.tellRing_adds (c : Chan) (r : GroveRing) (c1 : Chan) : c1.Adds (c.tellRing grove kind idx nsid lba r c1) :=
  .foldl (fun c _ => c.sendCtl_adds _ _ _) _ c1

variable (h : ReadyC s q 0x90 (ringWriteFields grove kind idx nsid lba) (ringWriteNot grove kind) (badRingWrite s q grove kind) d)
include h

/-- A directory that is wrong ends the command. -/
theorem ReadyC.ringWrite_bad {st : Status} (hb : dirBad fs (((s.chan q.channel).begun d).grove grove) = some st) :
    ∃ u, exec (.ringWrite q grove kind idx nsid lba fs) s = .next u ∧ Answered s u d .accepted [] ∧
      ActsOn s u q.channel ((((s.chan q.channel).begun d).accept d).complete d st (some grove) []) :=
  h.accepted exec_ringWrite (by rw [Chan.ringWritten, hb]; rfl) (Chan.complete_adds _ _ _ _ _)

/-- So does a member's area that cannot be read. -/
theorem ReadyC.ringWrite_noArea (hb : dirBad fs (((s.chan q.channel).begun d).grove grove) = none)
    (hm : memberArea fs (((s.chan q.channel).begun d).grove grove).count (((s.chan q.channel).begun d).memberIdx grove) = none) :
    ∃ u, exec (.ringWrite q grove kind idx nsid lba fs) s = .next u ∧ Answered s u d .accepted [] ∧
      ActsOn s u q.channel ((((s.chan q.channel).begun d).accept d).complete d .hwFault (some grove) []) :=
  h.accepted exec_ringWrite (by rw [Chan.ringWritten, hb, hm]; rfl) (Chan.complete_adds _ _ _ _ _)

/-- Else the ring begins, here and in every other member. -/
theorem ReadyC.ringWrite_begins {m : MemberArea} (hb : dirBad fs (((s.chan q.channel).begun d).grove grove) = none)
    (hm : memberArea fs (((s.chan q.channel).begun d).grove grove).count (((s.chan q.channel).begun d).memberIdx grove) = some m) :
    let c := (s.chan q.channel).begun d
    let c1 := c.ringBegun d grove kind idx nsid lba m.last
    ((c.grove grove).members ≤ 1 → ∃ u, exec (.ringWrite q grove kind idx nsid lba fs) s = .next u ∧ Answered s u d .accepted [] ∧
      ActsOn s u q.channel c1) ∧
    (1 < (c.grove grove).members → ∃ u, exec (.ringWrite q grove kind idx nsid lba fs) s = .next u ∧ Answered s u d .accepted [] ∧
      ActsOn s u q.channel (c.tellRing grove kind idx nsid lba (c1.grove grove).ring c1)) := by
  intro c c1
  have hw : Chan.ringWritten grove kind idx nsid lba fs d c = if (c.grove grove).members ≤ 1 then c1
      else c.tellRing grove kind idx nsid lba (c1.grove grove).ring c1 := by
    rw [Chan.ringWritten, hb, hm, c.ringBegun_ring]
    rfl
  exact ⟨fun h1 => h.accepted exec_ringWrite (hw.trans (if_pos h1)) (c.ringBegun_adds _),
    fun h1 => h.accepted exec_ringWrite (hw.trans (if_neg (Nat.not_le.2 h1))) ((c.ringBegun_adds _).trans (Chan.tellRing_adds _ _ _))⟩

end

/-! ## A member joins, captures and holds (R342, R345-R347) -/

section
variable {s : State} {ch : Fin 8} {g : Fin 16}

/-- A member's ring as its coordinator's notice names it. -/
def Grove.joinRing (ring kind attempt parent pa idx nsid dir pclk : Nat) (v : Grove) : Grove :=
  { v with ring := { v.ring.idle with
    phase := 1, ring := ring, kind := kind, attempt := attempt, parent := parent, parentAttempt := pa, idx := idx, nsid := nsid, dir := dir
    due := v.pastPoint ring, from_ := pclk } }

/-- A grove that is FAULTED or has a ring joins no other. -/
def Grove.joinsRing (ring kind attempt parent pa idx nsid dir pclk : Nat) (v : Grove) : Grove :=
  if v.st = .faulted || v.ring.phase ≠ 0 then v else v.joinRing ring kind attempt parent pa idx nsid dir pclk

theorem exec_ringBegin (job ring kind attempt parent pa idx nsid dir : Nat) : exec (.ringBegin ch job ring kind attempt parent pa idx nsid dir) s =
    chanStep s ch (Chan.notice (fun c => c.takeCtl (.ringBegin job ring kind attempt parent pa idx nsid dir)) job
      (fun c h => (c.takeCtl (.ringBegin job ring kind attempt parent pa idx nsid dir)).onGrove h
        (Grove.joinsRing ring kind attempt parent pa idx nsid dir c.pclk))) := by
  refine congrArg (chanStep s ch) (funext fun c => ?_)
  unfold Chan.notice
  dsimp only
  generalize c.takeCtl _ = took
  cases took.groveOfJob job <;> rfl

theorem Chan.onGrove_joins {took : Chan} {h : Nat} (hs : (took.grove h).st ≠ .faulted) (hp : (took.grove h).ring.phase = 0)
    (ring kind attempt parent pa idx nsid dir pclk : Nat) : took.onGrove h (Grove.joinsRing ring kind attempt parent pa idx nsid dir pclk) =
      took.onGrove h (Grove.joinRing ring kind attempt parent pa idx nsid dir pclk) :=
  took.onGrove_congr h (if_neg (by simp [hs, hp]))

theorem Chan.onGrove_joinsNot {took : Chan} {h : Nat} (hno : (took.grove h).st = .faulted ∨ (took.grove h).ring.phase ≠ 0)
    (ring kind attempt parent pa idx nsid dir pclk : Nat) :
    took.onGrove h (Grove.joinsRing ring kind attempt parent pa idx nsid dir pclk) = took.onGrove h id :=
  took.onGrove_congr h (if_pos (by simpa using hno))

/-- A channel at its capture point, the other generation clean. -/
def Chan.captureDue (c : Chan) (g : Nat) : Prop :=
  (c.grove g).ring.phase = 1 ∧ (c.grove g).ring.due = true ∧ c.fld F.HBM_STATUS_OTHER_CLEAN ≠ 0

theorem Chan.captureDue_not (c : Chan) (g : Nat) : (decide ((c.grove g).ring.phase ≠ 1) || !(c.grove g).ring.due ||
    decide (c.fld F.HBM_STATUS_OTHER_CLEAN = 0)) = false ↔ c.captureDue g := by
  simp [Chan.captureDue, and_assoc]

/-- The capture of a ring whose lines cannot all be read. -/
def Chan.captureFails (c : Chan) (g : Nat) : Chan :=
  ((c.flipFold g).onGrove g (fun v => { v with ring := { v.ring with lines := c.carryLines g } })).ringFails g .hwFault

/-- The ring of a capture. -/
def GroveRing.captured (r : GroveRing) : Nat := if r.ring = 0xFFFFFFFF then r.point.getD 0 else r.ring

/-- The tracked blocks that the fold found dirty. -/
def Chan.foldedDirty (c : Chan) (g : Nat) : List Nat :=
  ((c.tracked g).zip (c.bitmap (c.carryAt g) (c.tracked g).length)).filterMap (fun p => if p.2 then some p.1 else none)

/-- The capture set of a ring, and the hold begun. -/
def Chan.captures (c : Chan) (g : Nat) : Chan :=
  let caps := ((c.flipFold g).ringSrcs g).map (fun x => { x.cap with carry := x.carried (c.grove g).ring.kind ((c.flipFold g).foldedDirty g) })
  (c.flipFold g).onGrove g (fun v => { v with ring := { v.ring with
    phase := 2, ring := (c.grove g).ring.captured, due := false, lines := c.carryLines g, caps := caps.filter (fun x => x.carry ≠ [])
    table := c.ringTable g (c.grove g).ring.captured, setId := (v.wslot v.slotNow).setId } })

/-- What a capture makes of its channel. -/
def Chan.captureStep (c : Chan) (g : Nat) : Chan :=
  if decide ((c.grove g).ring.phase ≠ 1) || !(c.grove g).ring.due || decide (c.fld F.HBM_STATUS_OTHER_CLEAN = 0) then c
  else if (c.flipFold g).capturePoisoned g then c.captureFails g else c.captures g

theorem exec_ringCapture : exec (.ringCapture ch g) s = chanStep s ch (fun c => c.captureStep g) := rfl

theorem ringCapture_due (h : (s.chan ch).captureDue g) : Acts (.ringCapture ch g) s ch
    (if ((s.chan ch).flipFold g).capturePoisoned g then (s.chan ch).captureFails g else (s.chan ch).captures g) :=
  .of_chanStep exec_ringCapture (if_neg (by rw [((s.chan ch).captureDue_not g).2 h]; exact Bool.false_ne_true))

theorem ringCapture_none (h : ¬ (s.chan ch).captureDue g) : Acts (.ringCapture ch g) s ch (s.chan ch) :=
  .of_chanStep exec_ringCapture (if_pos (eq_true_of_ne_false (mt ((s.chan ch).captureDue_not g).1 h)))

/-- The channel once the copy of a capture is complete: a set that fits lies in the staging area, and the hold is counted. -/
def Chan.captureEnds (c : Chan) (g : Nat) : Chan :=
  let r := (c.grove g).ring
  let staged := if blocksFor r.capBytes.length ≤ c.fld (F.CKP_GRV_CFG_RING_STAGE_PAGES.sh (g * 0x40))
    then c.hbmWrite (c.fld (F.CKP_GRV_STAGE_LINE.sh (g * 0x40))) r.capBytes else c
  (staged.setFld (F.CKP_GRV_HOLD_PCLK.sh (g * 0x40)) (min (c.pclk - r.from_) 0xFFFFFFFF)).onGrove g (fun v => { v with ring := { v.ring with phase := 3 } })

theorem exec_ringCaptureEnd : exec (.ringCaptureEnd ch g) s =
    chanStep s ch (fun c => if (c.grove g).ring.phase ≠ 2 then c else c.captureEnds g) := rfl

theorem ringCaptureEnd_none (h : ((s.chan ch).grove g).ring.phase ≠ 2) : Acts (.ringCaptureEnd ch g) s ch (s.chan ch) :=
  .of_chanStep exec_ringCaptureEnd (if_pos h)

theorem ringCaptureEnd_ends (h : ((s.chan ch).grove g).ring.phase = 2) : Acts (.ringCaptureEnd ch g) s ch ((s.chan ch).captureEnds g) :=
  .of_chanStep exec_ringCaptureEnd (if_neg (not_not_intro h))

/-! ## Blocks handed to the file store (R351, R352, R369) -/

/-- Blocks handed over one after the other. -/
def Chan.stores (c : Chan) (r : GroveRing) (blocks : List (Nat × Bytes)) : Chan := blocks.foldl (fun c b => c.storeBlocks r b.1 b.2) c

theorem Chan.storeBlocks_adds (c : Chan) (r : GroveRing) (off : Nat) (data : Bytes) : c.Adds (c.storeBlocks r off data) := by
  unfold Chan.storeBlocks
  exact .of_append (o := [.blocks r.idx r.nsid (r.dir + off) data]) rfl rfl

theorem Chan.stores_adds (c : Chan) (r : GroveRing) (blocks : List (Nat × Bytes)) : c.Adds (c.stores r blocks) := by
  unfold Chan.stores
  exact .foldl (fun c (b : Nat × Bytes) => c.storeBlocks_adds r b.1 b.2) _ _

theorem Chan.stores_hands (r : GroveRing) (blocks : List (Nat × Bytes)) (c : Chan) {b : Nat × Bytes} (hb : b ∈ blocks) :
    Emit.blocks r.idx r.nsid (r.dir + b.1) b.2 ∈ (c.stores r blocks).outbox := by
  induction blocks generalizing c with
  | nil => exact absurd hb List.not_mem_nil
  | cons x t ih =>
    rcases List.mem_cons.1 hb with rfl | ht
    · exact (Chan.stores_adds _ r t).outbox _ (List.mem_append_right _ (List.mem_singleton.2 rfl))
    · exact ih _ ht

/-- A channel that hands blocks over and goes on: they leave while its controller link is up. -/
theorem chanStep_hands {i : Instr} {f : Chan → Chan} (h : exec i s = chanStep s ch f) {e : Chan} (hf : f (s.chan ch) = e) (r : GroveRing)
    (blocks : List (Nat × Bytes)) {c0 : Chan} (h0 : c0.linkLost = (s.chan ch).linkLost) (hadds : (c0.stores r blocks).Adds e) :
    ∃ u, exec i s = .next u ∧ ActsOn s u ch e ∧ ((s.chan ch).linkLost = false → ∀ b ∈ blocks, .blocks ch r.idx r.nsid (r.dir + b.1) b.2 ∈ u.out) := by
  have hstores := c0.stores_adds r blocks
  refine ⟨_, h, hf ▸ s.onChan_actsOn ch f, fun hl b hb => s.onChan_sent ch f (.blocks r.idx r.nsid (r.dir + b.1) b.2) _ ?_ ?_ (fun s' _ => ?_)⟩
  · rw [hf, hadds.linkLost, hstores.linkLost, h0, hl]
  · rw [hf]
    exact hadds.outbox _ (Chan.stores_hands r blocks c0 hb)
  · exact List.mem_append_right _ (List.mem_singleton.2 rfl)

/-! ## A member writes its shards (R351, R356) -/

/-- A member's shards as they lie from an offset on, with their list. -/
def Chan.laid (c : Chan) (g : Nat) (m : MemberArea) : Bytes × List RingShard :=
  layShards (c.grove g).ring (c.grove g).job (c.memberIdx g) m.next (c.grove g).ring.caps

/-- The blocks a member writes: its shards, if it has any, and its state block. -/
def Chan.shardBlocks (c : Chan) (g : Nat) (m : MemberArea) : List (Nat × Bytes) :=
  (if (c.laid g m).1 = [] then [] else [(m.next, (c.laid g m).1)]) ++
    [(stateBlockAt (c.grove g).count (c.memberIdx g), stateBlock (m.next + (c.laid g m).1.length / 4096) (c.grove g).ring.attempt)]

theorem Chan.stores_shardBlocks (c : Chan) (r : GroveRing) (g : Nat) (m : MemberArea) : c.stores r (c.shardBlocks g m) =
    (if (c.laid g m).1 = [] then c else c.storeBlocks r m.next (c.laid g m).1).storeBlocks r (stateBlockAt (c.grove g).count (c.memberIdx g))
      (stateBlock (m.next + (c.laid g m).1.length / 4096) (c.grove g).ring.attempt) := by
  unfold Chan.shardBlocks
  split <;> rfl

/-- A member's shards are written: the coordinator's own list is gathered, another's goes to it. -/
def Chan.shardsHanded (c : Chan) (g : Nat) (m : MemberArea) : Chan :=
  let r := (c.grove g).ring
  let c2 := (c.stores r (c.shardBlocks g m)).onGrove g (fun v => { v with ring := { v.ring with
    written := (c.laid g m).2.length, caps := [], shards := if r.leads then v.ring.shards ++ (c.laid g m).2 else v.ring.shards
    done := v.ring.done ++ [c.memberIdx g] } })
  if r.leads then c2.ringGather g
  else (shardFrames (c.grove g).job (c.grove g).coord r.ring (c.memberIdx g) (c.laid g m).2).foldl (fun c f => c.sendFrame f) c2

/-- A ring that finds no room. -/
def Chan.ringFull (c : Chan) (g : Nat) : Chan := (c.setFld F.CKP_STATUS_AREA_FULL 1).ringFails g .capacity

/-- Whether a member has its shards to write. -/
def Chan.shardsDue (c : Chan) (g : Nat) : Prop :=
  (c.grove g).ring.phase = 3 ∧ (c.grove g).ring.done.contains (c.memberIdx g) = false ∧ (c.grove g).ring.written = 0

theorem Chan.shardsDue_iff (c : Chan) (g : Nat) : (decide ((c.grove g).ring.phase ≠ 3) || (c.grove g).ring.done.contains (c.memberIdx g) ||
    decide ((c.grove g).ring.written ≠ 0)) = false ↔ c.shardsDue g := by
  unfold Chan.shardsDue
  generalize (c.grove g).ring.done.contains _ = b
  simp [and_assoc]

/-- What the end of a member's writes makes of its channel. -/
def Chan.shardsStep (ok : Bool) (fs : NMap Bytes) (g : Nat) (c : Chan) : Chan :=
  if decide ((c.grove g).ring.phase ≠ 3) || (c.grove g).ring.done.contains (c.memberIdx g) || decide ((c.grove g).ring.written ≠ 0) then c
  else (if ok then memberArea fs (c.grove g).count (c.memberIdx g) else none).elim (c.ringFails g .hwFault)
    (fun m => if m.start + m.size < m.next + (c.laid g m).1.length / 4096 then c.ringFull g else c.shardsHanded g m)

theorem exec_ringShardsWritten (ok : Bool) (fs : NMap Bytes) : exec (.ringShardsWritten ch g ok fs) s = chanStep s ch (Chan.shardsStep ok fs g) := by
  refine congrArg (chanStep s ch) (funext fun c => ?_)
  unfold Chan.shardsStep
  dsimp only
  split
  · rfl
  · cases ok with
    | false => cases memberArea fs (c.grove g).count (c.memberIdx g) <;> rfl
    | true =>
      cases memberArea fs (c.grove g).count (c.memberIdx g) with
      | none => rfl
      | some m =>
        rw [if_pos rfl, Option.elim_some, Chan.shardsHanded, Chan.stores_shardBlocks]
        rfl

theorem ringShardsWritten_none (ok : Bool) {fs : NMap Bytes} (h : ¬ (s.chan ch).shardsDue g) : Acts (.ringShardsWritten ch g ok fs) s ch (s.chan ch) :=
  .of_chanStep (exec_ringShardsWritten ok fs) (if_pos (eq_true_of_ne_false (mt ((s.chan ch).shardsDue_iff g).1 h)))

theorem Chan.shardsStep_due {c : Chan} {g : Nat} (h : c.shardsDue g) (ok : Bool) (fs : NMap Bytes) : c.shardsStep ok fs g =
    (if ok then memberArea fs (c.grove g).count (c.memberIdx g) else none).elim (c.ringFails g .hwFault)
      (fun m => if m.start + m.size < m.next + (c.laid g m).1.length / 4096 then c.ringFull g else c.shardsHanded g m) :=
  if_neg (by rw [(c.shardsDue_iff g).2 h]; exact Bool.false_ne_true)

theorem Chan.ringGather_adds (c : Chan) (g : Nat) : c.Adds (c.ringGather g) := c.onGrove_adds g _

theorem Chan.shardsHanded_adds (c : Chan) (g : Nat) (m : MemberArea) :
    (c.stores (c.grove g).ring (c.shardBlocks g m)).Adds (c.shardsHanded g m) := by
  unfold Chan.shardsHanded
  dsimp only
  split
  · exact (Chan.onGrove_adds _ _ _).trans (Chan.ringGather_adds _ _)
  · exact (Chan.onGrove_adds _ _ _).trans (.foldl (fun c f => c.sendFrame_adds f) _ _)

/-! ## The coordinator commits (R352, R357) -/

/-- The first free entry of the ring table. -/
def freeEntry (fs : NMap Bytes) : Option Nat := (List.range 1024).find? (fun i => (entryAt fs i).isNone)

theorem freeEntry_none {fs : NMap Bytes} (h : ∀ i < 1024, (entryAt fs i).isSome) : freeEntry fs = none := by
  refine List.find?_eq_none.2 fun i hi => ?_
  have := h i (List.mem_range.1 hi)
  simp [Option.isSome_iff_ne_none.1 this]

/-- The table entry of a ring that commits. -/
def Chan.newEntry (c : Chan) (g : Nat) (m : MemberArea) (i : Nat) : RingEntry :=
  let r := (c.grove g).ring
  ⟨i, r.kind, r.ring, r.attempt, r.parent, r.parentAttempt, m.next, blocksFor (c.manifestOf g).length, digest (c.manifestOf g)⟩

/-- Manifest, state block and table block, in that order. -/
def Chan.commitBlocks (c : Chan) (g : Nat) (m : MemberArea) (i : Nat) (tb : Bytes) : List (Nat × Bytes) :=
  [(m.next, padBlocks (c.manifestOf g)), (stateBlockAt (c.grove g).count (c.memberIdx g),
      stateBlock (m.next + blocksFor (c.manifestOf g).length) (c.grove g).ring.attempt),
    (1 + i / 64, slice tb 0 (64 * (i % 64)) ++ (c.newEntry g m i).bytes ++ tb.drop (64 * (i % 64) + 64))]

/-- The channel with a free value more drawn. -/
def Chan.drawn (c : Chan) : Chan := { c with free := c.free + 1 }

/-- A ring committed: its blocks are handed over, the members hear of it, and its command completes. -/
def Chan.commits (c : Chan) (g : Nat) (m : MemberArea) (i : Nat) (tb : Bytes) : Chan :=
  let v := c.grove g
  let c2 := c.drawn.stores v.ring (c.commitBlocks g m i tb)
  let c4 := (((c2.memberNodes g).filter (· ≠ c.node)).foldl (fun c n => c.sendCtl n v.job (.ringDone v.job v.ring.ring v.ring.attempt)) c2).ringDone g
  (c4.acceptedFor 0x90 g).foldl (fun c d => c.complete d .ok (some g) (ringData v.ring.ring v.ring.shards.length 0)) c4

theorem Chan.stores_commitBlocks (c : Chan) (r : GroveRing) (g : Nat) (m : MemberArea) (i : Nat) (tb : Bytes) : c.drawn.stores r (c.commitBlocks g m i tb) =
    ((c.drawn.storeBlocks r m.next (padBlocks (c.manifestOf g))).storeBlocks r (stateBlockAt (c.grove g).count (c.memberIdx g))
      (stateBlock (m.next + blocksFor (c.manifestOf g).length) (c.grove g).ring.attempt)).storeBlocks r (1 + i / 64)
      (slice tb 0 (64 * (i % 64)) ++ (c.newEntry g m i).bytes ++ tb.drop (64 * (i % 64) + 64)) := rfl

theorem Chan.count_adds (c : Chan) (f : Fld) : c.Adds (c.count f) := .of_eq rfl rfl

theorem Chan.ringDone_adds (c : Chan) (g : Nat) : c.Adds (c.ringDone g) := by
  unfold Chan.ringDone
  exact (((c.setFld_adds _ _).trans (Chan.setFld_adds _ _ _)).trans (Chan.count_adds _ _)).trans (Chan.onGrove_adds _ _ _)

theorem Chan.commits_adds (c : Chan) (g : Nat) (m : MemberArea) (i : Nat) (tb : Bytes) :
    (c.drawn.stores (c.grove g).ring (c.commitBlocks g m i tb)).Adds (c.commits g m i tb) := by
  unfold Chan.commits
  dsimp only
  refine .trans (.trans ?_ (Chan.ringDone_adds _ g)) (.foldl (fun c d => c.complete_adds d _ _ _) _ _)
  exact .foldl (fun c n => c.sendCtl_adds n _ _) _ _

/-- What a commit with room to find makes of its channel: `i` is the free entry, `m` the member's area. -/
def Chan.commitInto (c : Chan) (g : Nat) (fs : NMap Bytes) (m : MemberArea) (i : Nat) : Chan :=
  (fsBlock fs (1 + i / 64)).elim (c.ringFails g .hwFault)
    (fun tb => if m.start + m.size < m.next + blocksFor (c.manifestOf g).length then c.ringFull g else c.commits g m i tb)

/-- What a commit makes of its channel. -/
def Chan.commitStep (ok : Bool) (fs : NMap Bytes) (g : Nat) (c : Chan) : Chan :=
  if decide ((c.grove g).ring.phase ≠ 4) || !(c.grove g).ring.leads then c
  else (if ok then memberArea fs (c.grove g).count (c.memberIdx g) else none).elim (c.ringFails g .hwFault)
    (fun m => (freeEntry fs).elim (c.ringFull g) (c.commitInto g fs m))

theorem exec_ringCommit (ok : Bool) (fs : NMap Bytes) : exec (.ringCommit ch g ok fs) s = chanStep s ch (Chan.commitStep ok fs g) := by
  refine congrArg (chanStep s ch) (funext fun c => ?_)
  unfold Chan.commitStep freeEntry
  dsimp only
  split
  · rfl
  · generalize (List.range 1024).find? (fun i => (entryAt fs i).isNone) = o
    cases ok with
    | false => cases memberArea fs (c.grove g).count (c.memberIdx g) <;> cases o <;> rfl
    | true =>
      cases memberArea fs (c.grove g).count (c.memberIdx g) with
      | none => rfl
      | some m =>
        cases o with
        | none => rfl
        | some i =>
          rw [if_pos rfl, Option.elim_some, Option.elim_some, Chan.commitInto]
          dsimp only
          cases fsBlock fs (1 + i / 64) with
          | none => rfl
          | some tb =>
            rw [Option.elim_some, Chan.commits, Chan.stores_commitBlocks]
            unfold Chan.ringFull Chan.newEntry Chan.drawn
            dsimp only

/-- Whether a ring is the coordinator's to commit. -/
def Chan.commitDue (c : Chan) (g : Nat) : Prop := (c.grove g).ring.phase = 4 ∧ (c.grove g).ring.leads = true

theorem Chan.commitDue_iff (c : Chan) (g : Nat) : (decide ((c.grove g).ring.phase ≠ 4) || !(c.grove g).ring.leads) = false ↔ c.commitDue g := by
  simp [Chan.commitDue]

theorem Chan.commitStep_due {c : Chan} {g : Nat} (h : c.commitDue g) (ok : Bool) (fs : NMap Bytes) : c.commitStep ok fs g =
    (if ok then memberArea fs (c.grove g).count (c.memberIdx g) else none).elim (c.ringFails g .hwFault)
      (fun m => (freeEntry fs).elim (c.ringFull g) (c.commitInto g fs m)) :=
  if_neg (by rw [(c.commitDue_iff g).2 h]; exact Bool.false_ne_true)

theorem ringCommit_none (ok : Bool) {fs : NMap Bytes} (h : ¬ (s.chan ch).commitDue g) : Acts (.ringCommit ch g ok fs) s ch (s.chan ch) :=
  .of_chanStep (exec_ringCommit ok fs) (if_pos (eq_true_of_ne_false (mt ((s.chan ch).commitDue_iff g).1 h)))

/-- A commit with a member's area that reads ends in its table entry. -/
theorem ringCommit_area {fs : NMap Bytes} {m : MemberArea} (h : (s.chan ch).commitDue g)
    (hm : memberArea fs ((s.chan ch).grove g).count ((s.chan ch).memberIdx g) = some m) {e : Chan}
    (he : (freeEntry fs).elim ((s.chan ch).ringFull g) ((s.chan ch).commitInto g fs m) = e) : (s.chan ch).commitStep true fs g = e := by
  rw [Chan.commitStep_due h, if_pos rfl, hm, Option.elim_some, he]

/-- A member's shards with an area that reads are laid into it. -/
theorem ringShards_area {fs : NMap Bytes} {m : MemberArea} (h : (s.chan ch).shardsDue g)
    (hm : memberArea fs ((s.chan ch).grove g).count ((s.chan ch).memberIdx g) = some m) {e : Chan}
    (he : (if m.start + m.size < m.next + ((s.chan ch).laid g m).1.length / 4096 then (s.chan ch).ringFull g else (s.chan ch).shardsHanded g m) = e) :
    (s.chan ch).shardsStep true fs g = e := by
  rw [Chan.shardsStep_due h, if_pos rfl, hm, Option.elim_some, he]

/-! ## Lists, failures and ends (R356, R357, R359) -/

theorem exec_ringTimeout : exec (.ringTimeout ch g) s = chanStep s ch (fun c =>
    if (c.grove g).ring.leads && decide ((c.grove g).ring.phase = 3) && (c.grove g).ring.done.contains (c.memberIdx g) then c.ringFails g .hwFault
    else c) := rfl

theorem ringTimeout_fails (hl : ((s.chan ch).grove g).ring.leads = true) (hp : ((s.chan ch).grove g).ring.phase = 3)
    (hd : ((s.chan ch).grove g).ring.done.contains ((s.chan ch).memberIdx g) = true) :
    Acts (.ringTimeout ch g) s ch ((s.chan ch).ringFails g .hwFault) :=
  .of_chanStep exec_ringTimeout (if_pos (by rw [hl, hp, hd]; rfl))

theorem ringTimeout_none (h : ((s.chan ch).grove g).ring.leads = false ∨ ((s.chan ch).grove g).ring.phase ≠ 3 ∨
    ((s.chan ch).grove g).ring.done.contains ((s.chan ch).memberIdx g) = false) : Acts (.ringTimeout ch g) s ch (s.chan ch) := by
  refine .of_chanStep exec_ringTimeout (if_neg fun hgo => ?_)
  rw [Bool.and_eq_true, Bool.and_eq_true, decide_eq_true_eq] at hgo
  obtain ⟨⟨hl, hp⟩, hd⟩ := hgo
  rcases h with h | h | h
  · exact Bool.false_ne_true (h.symm.trans hl)
  · exact h hp
  · exact Bool.false_ne_true (h.symm.trans hd)

/-- A coordinator that takes a frame of a member's list. -/
def Chan.takeList (c : Chan) (job ring member fi : Nat) : Chan :=
  c.takeFrame (fun f => f.typ = 0x06 && f.job = job && f.step = ring && f.mb = member && f.shard = fi)

/-- Whether a coordinator waits for a frame of a member's list. -/
def GroveRing.awaitsList (r : GroveRing) (ring member fi : Nat) : Prop :=
  r.leads = true ∧ 1 ≤ r.phase ∧ r.phase < 4 ∧ r.done.contains member = false ∧ r.ring = ring ∧ r.lists.contains (member, fi) = false

theorem GroveRing.awaitsList_iff (r : GroveRing) (ring member fi : Nat) : (!r.leads || decide (r.phase = 0) || decide (4 ≤ r.phase) ||
    r.done.contains member || decide (r.ring ≠ ring) || r.lists.contains (member, fi)) = false ↔ r.awaitsList ring member fi := by
  unfold GroveRing.awaitsList
  generalize r.done.contains member = a
  generalize r.lists.contains (member, fi) = b
  simp only [Bool.or_eq_false_iff, decide_eq_false_iff_not, Bool.not_eq_false', not_le, ne_eq, not_not, and_assoc, Nat.one_le_iff_ne_zero]

/-- Whether a member's list has come with a frame missing. -/
def GroveRing.listLost (r : GroveRing) (member fi : Nat) (last : Bool) : Prop := last = true ∧ ∃ i < fi, r.lists.contains (member, i) = false

theorem GroveRing.listLost_iff (r : GroveRing) (member fi : Nat) (last : Bool) :
    (last && (List.range fi).any (fun i => !(r.lists ++ [(member, fi)]).contains (member, i))) = true ↔ r.listLost member fi last := by
  unfold GroveRing.listLost
  rw [Bool.and_eq_true, List.any_eq_true]
  refine and_congr_right fun _ => exists_congr fun i => ?_
  rw [List.mem_range]
  refine and_congr_right fun hi => ?_
  have hne : i ≠ fi := Nat.ne_of_lt hi
  simp [hne]

/-- The coordinator's ring with a frame of a member's list. -/
def Chan.listed (took : Chan) (h member fi : Nat) (last : Bool) (shards : List RingShard) : Chan :=
  took.onGrove h (fun v => { v with ring := { v.ring with
    lists := (took.grove h).ring.lists ++ [(member, fi)], shards := v.ring.shards ++ shards
    done := if last then v.ring.done ++ [member] else v.ring.done } })

/-- What a coordinator does with a frame of a member's list. -/
def Chan.listStep (took : Chan) (h ring member fi : Nat) (last : Bool) (shards : List RingShard) : Chan :=
  let r := (took.grove h).ring
  if !r.leads || decide (r.phase = 0) || decide (4 ≤ r.phase) || r.done.contains member || decide (r.ring ≠ ring) || r.lists.contains (member, fi)
  then took
  else if last && (List.range fi).any (fun i => !(r.lists ++ [(member, fi)]).contains (member, i)) then
    (took.listed h member fi last shards).ringFails h .hwFault
  else (took.listed h member fi last shards).ringGather h

theorem exec_ringShardList (job ring member fi : Nat) (last : Bool) (shards : List RingShard) :
    exec (.ringShardList ch job ring member fi last shards) s = chanStep s ch (Chan.notice (fun c => c.takeList job ring member fi) job
      (fun c h => (c.takeList job ring member fi).listStep h ring member fi last shards)) := by
  refine congrArg (chanStep s ch) (funext fun c => ?_)
  show _ = ((c.takeList job ring member fi).groveOfJob job).elim _ _
  unfold Chan.takeList
  dsimp only
  generalize c.takeFrame _ = took
  cases took.groveOfJob job <;> rfl

section
variable {took : Chan} {h ring member fi : Nat} {last : Bool} (shards : List RingShard)

theorem Chan.listStep_none (hw : ¬ (took.grove h).ring.awaitsList ring member fi) : took.listStep h ring member fi last shards = took :=
  if_pos (eq_true_of_ne_false (mt ((took.grove h).ring.awaitsList_iff ring member fi).1 hw))

theorem Chan.listStep_awaited (hw : (took.grove h).ring.awaitsList ring member fi) : took.listStep h ring member fi last shards =
    if last && (List.range fi).any (fun i => !((took.grove h).ring.lists ++ [(member, fi)]).contains (member, i)) then
      (took.listed h member fi last shards).ringFails h .hwFault
    else (took.listed h member fi last shards).ringGather h :=
  if_neg (by rw [((took.grove h).ring.awaitsList_iff ring member fi).2 hw]; exact Bool.false_ne_true)

theorem Chan.listStep_gathers (hw : (took.grove h).ring.awaitsList ring member fi) (hl : ¬ (took.grove h).ring.listLost member fi last) :
    took.listStep h ring member fi last shards = (took.listed h member fi last shards).ringGather h :=
  (Chan.listStep_awaited shards hw).trans (if_neg (mt ((took.grove h).ring.listLost_iff member fi last).1 hl))

theorem Chan.listStep_lost (hw : (took.grove h).ring.awaitsList ring member fi) (hl : (took.grove h).ring.listLost member fi last) :
    took.listStep h ring member fi last shards = (took.listed h member fi last shards).ringFails h .hwFault :=
  (Chan.listStep_awaited shards hw).trans (if_pos (((took.grove h).ring.listLost_iff member fi last).2 hl))

end

/-- What a coordinator does with a member's failure. -/
def Chan.failStep (took : Chan) (h attempt status written : Nat) : Chan :=
  let r := (took.grove h).ring
  if r.leads && decide (r.phase ≠ 0) && decide (r.phase ≠ 5) && decide (r.attempt = attempt) then
    took.ringFails h (if status = Status.capacity.code then .capacity else .hwFault) written
  else took

theorem Chan.failStep_meets {took : Chan} {h attempt : Nat} (status written : Nat) (hl : (took.grove h).ring.leads = true)
    (h0 : (took.grove h).ring.phase ≠ 0) (h5 : (took.grove h).ring.phase ≠ 5) (ha : (took.grove h).ring.attempt = attempt) :
    took.failStep h attempt status written = took.ringFails h (if status = Status.capacity.code then .capacity else .hwFault) written :=
  if_pos (by simp [hl, h0, h5, ha])

theorem Chan.failStep_none {took : Chan} {h attempt : Nat} (status written : Nat) (hno : ¬ ((took.grove h).ring.leads = true ∧
    (took.grove h).ring.phase ≠ 0 ∧ (took.grove h).ring.phase ≠ 5 ∧ (took.grove h).ring.attempt = attempt)) :
    took.failStep h attempt status written = took :=
  if_neg (by simpa only [Bool.and_eq_true, decide_eq_true_eq, and_assoc] using hno)

theorem exec_ringFail (job attempt status written : Nat) : exec (.ringFail ch job attempt status written) s =
    chanStep s ch (Chan.notice (fun c => c.takeCtl (.ringFail job attempt status written)) job
      (fun c h => (c.takeCtl (.ringFail job attempt status written)).failStep h attempt status written)) := by
  refine congrArg (chanStep s ch) (funext fun c => ?_)
  unfold Chan.notice
  dsimp only
  generalize c.takeCtl _ = took
  cases took.groveOfJob job <;> rfl

/-- Whether a member has the ring that is aborted. -/
def GroveRing.abortMeets (r : GroveRing) (attempt : Nat) : Prop := r.leads = false ∧ r.phase ≠ 0 ∧ r.attempt = attempt

theorem GroveRing.abortMeets_iff (r : GroveRing) (attempt : Nat) :
    (r.leads || decide (r.phase = 0) || decide (r.attempt ≠ attempt)) = false ↔ r.abortMeets attempt := by
  simp [GroveRing.abortMeets, and_assoc]

/-- What a member does with an abort. -/
def Chan.abortStep (took : Chan) (h attempt : Nat) : Chan :=
  let r := (took.grove h).ring
  if r.leads || decide (r.phase = 0) || decide (r.attempt ≠ attempt) then took
  else if r.phase = 5 then
    ((took.freshState h).setFld F.CKP_STATUS_RESTORE_FAIL 1).onGrove h (fun v => { v with ring := v.ring.idle, update := GroveUpdate.reset })
  else took.ringFails h .hwFault 0 true

theorem exec_ringAbort (job attempt : Nat) : exec (.ringAbort ch job attempt) s =
    chanStep s ch (Chan.notice (fun c => c.takeCtl (.ringAbort job attempt)) job (fun c h => (c.takeCtl (.ringAbort job attempt)).abortStep h attempt)) := by
  refine congrArg (chanStep s ch) (funext fun c => ?_)
  unfold Chan.notice
  dsimp only
  generalize c.takeCtl _ = took
  cases took.groveOfJob job <;> rfl

theorem Chan.abortStep_none {took : Chan} {h attempt : Nat} (hm : ¬ (took.grove h).ring.abortMeets attempt) : took.abortStep h attempt = took :=
  if_pos (eq_true_of_ne_false (mt ((took.grove h).ring.abortMeets_iff attempt).1 hm))

theorem Chan.abortStep_meets {took : Chan} {h attempt : Nat} (hm : (took.grove h).ring.abortMeets attempt) : took.abortStep h attempt =
    if (took.grove h).ring.phase = 5 then
      ((took.freshState h).setFld F.CKP_STATUS_RESTORE_FAIL 1).onGrove h (fun v => { v with ring := v.ring.idle, update := GroveUpdate.reset })
    else took.ringFails h .hwFault 0 true :=
  if_neg (by rw [((took.grove h).ring.abortMeets_iff attempt).2 hm]; exact Bool.false_ne_true)

/-- What a member does with the notice of a commit. -/
def Chan.doneStep (took : Chan) (h ring attempt : Nat) : Chan :=
  let r := (took.grove h).ring
  if decide (r.phase = 3) && !r.leads && decide (r.ring = ring) && decide (r.attempt = attempt) then took.ringDone h else took

theorem Chan.doneStep_meets {took : Chan} {h ring attempt : Nat} (hl : (took.grove h).ring.leads = false)
    (hp : (took.grove h).ring.phase = 3) (hr : (took.grove h).ring.ring = ring) (ha : (took.grove h).ring.attempt = attempt) :
    took.doneStep h ring attempt = took.ringDone h :=
  if_pos (by simp [hl, hp, hr, ha])

theorem Chan.doneStep_none {took : Chan} {h ring attempt : Nat} (hno : ¬ ((took.grove h).ring.leads = false ∧
    (took.grove h).ring.phase = 3 ∧ (took.grove h).ring.ring = ring ∧ (took.grove h).ring.attempt = attempt)) :
    took.doneStep h ring attempt = took := by
  refine if_neg fun hgo => hno ?_
  simp only [Bool.and_eq_true, decide_eq_true_eq, Bool.not_eq_true'] at hgo
  obtain ⟨⟨⟨hp, hl⟩, hr⟩, ha⟩ := hgo
  exact ⟨hl, hp, hr, ha⟩

theorem exec_ringDone (job ring attempt : Nat) : exec (.ringDone ch job ring attempt) s =
    chanStep s ch (Chan.notice (fun c => c.takeCtl (.ringDone job ring attempt)) job
      (fun c h => (c.takeCtl (.ringDone job ring attempt)).doneStep h ring attempt)) := by
  refine congrArg (chanStep s ch) (funext fun c => ?_)
  unfold Chan.notice
  dsimp only
  generalize c.takeCtl _ = took
  cases took.groveOfJob job <;> rfl

/-! ## The commands' clauses -/

variable {fs : NMap Bytes}

/-- Due shards are written into the area, unless they cannot be, or do not fit it. -/
theorem ringShardsWritten_due (h : (s.chan ch).shardsDue g) :
    Acts (.ringShardsWritten ch g false fs) s ch ((s.chan ch).ringFails g .hwFault) ∧
    (memberArea fs ((s.chan ch).grove g).count ((s.chan ch).memberIdx g) = none →
      Acts (.ringShardsWritten ch g true fs) s ch ((s.chan ch).ringFails g .hwFault)) ∧
    (∀ m, memberArea fs ((s.chan ch).grove g).count ((s.chan ch).memberIdx g) = some m →
      (m.start + m.size < m.next + ((s.chan ch).laid g m).1.length / 4096 →
        Acts (.ringShardsWritten ch g true fs) s ch ((s.chan ch).ringFull g)) ∧
      (m.next + ((s.chan ch).laid g m).1.length / 4096 ≤ m.start + m.size →
        ∃ u, exec (.ringShardsWritten ch g true fs) s = .next u ∧ ActsOn s u ch ((s.chan ch).shardsHanded g m) ∧
          ((s.chan ch).linkLost = false → ∀ b ∈ (s.chan ch).shardBlocks g m, .blocks ch ((s.chan ch).grove g).ring.idx ((s.chan ch).grove g).ring.nsid
            (((s.chan ch).grove g).ring.dir + b.1) b.2 ∈ u.out))) :=
  ⟨.of_chanStep (exec_ringShardsWritten ..) (Chan.shardsStep_due h ..),
    fun hm => .of_chanStep (exec_ringShardsWritten ..) (by rw [Chan.shardsStep_due h, if_pos rfl, hm, Option.elim_none]),
    fun m hm => ⟨fun hf => .of_chanStep (exec_ringShardsWritten ..) (ringShards_area h hm (if_pos hf)),
      fun hf => chanStep_hands (exec_ringShardsWritten ..) (ringShards_area h hm (if_neg (Nat.not_lt.2 hf))) _ _ (c0 := s.chan ch) rfl
        (Chan.shardsHanded_adds _ g m)⟩⟩

/-- A due commit into the entry `i` of the table. -/
theorem ringCommit_entry {m : MemberArea} {i : Nat} (h : (s.chan ch).commitDue g)
    (hm : memberArea fs ((s.chan ch).grove g).count ((s.chan ch).memberIdx g) = some m) (hi : freeEntry fs = some i) :
    (fsBlock fs (1 + i / 64) = none → Acts (.ringCommit ch g true fs) s ch ((s.chan ch).ringFails g .hwFault)) ∧
    (∀ tb, fsBlock fs (1 + i / 64) = some tb →
      (m.start + m.size < m.next + blocksFor ((s.chan ch).manifestOf g).length → Acts (.ringCommit ch g true fs) s ch ((s.chan ch).ringFull g)) ∧
      (m.next + blocksFor ((s.chan ch).manifestOf g).length ≤ m.start + m.size →
        ∃ u, exec (.ringCommit ch g true fs) s = .next u ∧ ActsOn s u ch ((s.chan ch).commits g m i tb) ∧
          ((s.chan ch).linkLost = false → ∀ b ∈ (s.chan ch).commitBlocks g m i tb, .blocks ch ((s.chan ch).grove g).ring.idx
            ((s.chan ch).grove g).ring.nsid (((s.chan ch).grove g).ring.dir + b.1) b.2 ∈ u.out))) := by
  have hinto : (s.chan ch).commitStep true fs g = (s.chan ch).commitInto g fs m i := ringCommit_area h hm (by rw [hi, Option.elim_some])
  refine ⟨fun hb => .of_chanStep (exec_ringCommit ..) (hinto.trans ?_), fun tb hb => ?_⟩
  · rw [Chan.commitInto, hb, Option.elim_none]
  · rw [Chan.commitInto, hb, Option.elim_some] at hinto
    exact ⟨fun hf => .of_chanStep (exec_ringCommit ..) (hinto.trans (if_pos hf)),
      fun hf => chanStep_hands (exec_ringCommit ..) (hinto.trans (if_neg (Nat.not_lt.2 hf))) _ _ (c0 := (s.chan ch).drawn) rfl
        (Chan.commits_adds _ g m i tb)⟩

/-- A due commit needs the area to read and the table to have room. -/
theorem ringCommit_fails (h : (s.chan ch).commitDue g) :
    Acts (.ringCommit ch g false fs) s ch ((s.chan ch).ringFails g .hwFault) ∧
    (memberArea fs ((s.chan ch).grove g).count ((s.chan ch).memberIdx g) = none →
      Acts (.ringCommit ch g true fs) s ch ((s.chan ch).ringFails g .hwFault)) ∧
    (∀ m, memberArea fs ((s.chan ch).grove g).count ((s.chan ch).memberIdx g) = some m → (∀ i < 1024, (entryAt fs i).isSome) →
      Acts (.ringCommit ch g true fs) s ch ((s.chan ch).ringFull g)) :=
  ⟨.of_chanStep (exec_ringCommit ..) (Chan.commitStep_due h ..),
    fun hm => .of_chanStep (exec_ringCommit ..) (by rw [Chan.commitStep_due h, if_pos rfl, hm, Option.elim_none]),
    fun _ hm hfull => .of_chanStep (exec_ringCommit ..) (ringCommit_area h hm (by rw [freeEntry_none hfull, Option.elim_none]))⟩

end

/-- Settles O49. -/
theorem ringsAreWritten : Obligations.RingsAreWritten := by
  refine ⟨fun q kind idx nsid lba ring attempt parent pa dir job ch g grove fs d s =>
      ⟨fun h => ⟨fun st hb => h.ringWrite_bad hb, h.ringWrite_noArea, fun m hb hm => h.ringWrite_begins hb hm⟩,
        fun hn => .notice_none (exec_ringBegin ..) hn,
        fun h hg => ⟨fun hno => .notice_some (exec_ringBegin ..) hg (Chan.onGrove_joinsNot hno ..),
          fun hs hp => .notice_some (exec_ringBegin ..) hg (Chan.onGrove_joins hs hp ..)⟩,
        fun hp hd hc => ⟨fun hx => ?_, fun hx => ?_⟩, fun hno => ringCapture_none fun hdue => ?_, ringCaptureEnd_none, ringCaptureEnd_ends⟩,
    fun ch g job ring member fi attempt status written last shards fs s =>
      ⟨fun ok hno => ringShardsWritten_none ok fun hdue => ?_, fun hp hd hw => ringShardsWritten_due ⟨hp, hd, hw⟩,
        fun ok hno => ringCommit_none ok fun hdue => ?_,
        fun hp hl => have ⟨hdurable, harea, hfull⟩ := ringCommit_fails ⟨hp, hl⟩
          ⟨hdurable, harea, fun m hm => ⟨hfull m hm, fun i hi => ringCommit_entry ⟨hp, hl⟩ hm hi⟩⟩,
        ringTimeout_fails, ringTimeout_none,
        ⟨fun hn => .notice_none (exec_ringShardList ..) hn, fun h hg =>
          ⟨fun hw => .notice_some (exec_ringShardList ..) hg (Chan.listStep_none shards hw),
            fun hw hl => .notice_some (exec_ringShardList ..) hg (Chan.listStep_gathers shards hw hl),
            fun hw hl => .notice_some (exec_ringShardList ..) hg (Chan.listStep_lost shards hw hl)⟩⟩,
        ⟨fun hn => .notice_none (exec_ringFail ..) hn, fun h hg =>
          ⟨fun ⟨hl, h0, h5, ha⟩ => .notice_some (exec_ringFail ..) hg (Chan.failStep_meets _ _ hl h0 h5 ha),
            fun hno => .notice_some (exec_ringFail ..) hg (Chan.failStep_none _ _ hno)⟩⟩,
        ⟨fun hn => .notice_none (exec_ringAbort ..) hn, fun h hg =>
          ⟨fun hm h5 => .notice_some (exec_ringAbort ..) hg ((Chan.abortStep_meets hm).trans (if_neg h5)),
            fun hm h5 => .notice_some (exec_ringAbort ..) hg ((Chan.abortStep_meets hm).trans (if_pos h5)),
            fun hm => .notice_some (exec_ringAbort ..) hg (Chan.abortStep_none hm)⟩⟩,
        ⟨fun hn => .notice_none (exec_ringDone ..) hn, fun h hg =>
          ⟨fun ⟨hl, hp, hr, ha⟩ => .notice_some (exec_ringDone ..) hg (Chan.doneStep_meets hl hp hr ha),
            fun hno => .notice_some (exec_ringDone ..) hg (Chan.doneStep_none hno)⟩⟩⟩⟩
  · exact (if_pos hx).subst (motive := Acts _ s ch) (ringCapture_due ⟨hp, hd, hc⟩)
  · exact (if_neg (Bool.eq_false_iff.1 hx)).subst (motive := Acts _ s ch) (ringCapture_due ⟨hp, hd, hc⟩)
  · obtain ⟨hp, hd, hc⟩ := hdue
    exact hno.elim (· hp) (·.elim (Bool.false_ne_true <| ·.symm.trans hd) (hc ·))
  · obtain ⟨hp, hd, hw⟩ := hdue
    exact hno.elim (· hp) (·.elim (Bool.false_ne_true <| hd.symm.trans ·) (· hw))
  · obtain ⟨hp, hl⟩ := hdue
    exact hno.elim (· hp) (Bool.false_ne_true <| ·.symm.trans hl)

end Sys2Proof.Machine
end
